-- ==== Sys2Proof/Word.lean ====
section
/-!
DEFINITION. The word types of the Vexoir V4 and their plainest arithmetic (spec 00 R5, 01 R8).
-/
namespace Sys2Proof

/-- A 64-bit scalar register value (R8). -/
abbrev Word := BitVec 64

/-- One byte of memory. -/
abbrev Byte := BitVec 8

/-- One 64-byte line (R205, R206), byte i in bits [8i+7:8i]. -/
abbrev Line := BitVec 512

/-- The 256 bytes of a vector register (R8), byte i in bits [8i+7:8i]. -/
abbrev VBits := BitVec 2048

/-- The 2 KiB of an accumulator tile (R8), byte i in bits [8i+7:8i]. -/
abbrev TileBits := BitVec 16384

end Sys2Proof
end

