-- ==== Sys2Proof/Config.lean ====
section
/-!
DEFINITION. What an implementation fixes and what the spec leaves open (log 3): the free values, which nothing in Lean can
evaluate.
-/
namespace Sys2Proof

/-- The n-th free value of a run (log 3): what it is, nothing says. A value of a narrower type is its low part. -/
opaque Config.freeValue : Nat → Nat

/-- A result that the spec leaves open, as a function of the operands it depends on (log 3). -/
opaque Config.freeResult : Nat → Nat → Nat

end Sys2Proof
end

