-- ==== Sys2Proof/Syntax/Event.lean ====
section
/-!
DEFINITION. The plain data that the event rows of the table carry: what the outside world hands to the device
in one event (spec 22, 24).
-/
namespace Sys2Proof

/-- A reflected store or flag increment as it arrives from a peer device, with its partition tag (R367, R377, R379, R394). -/
structure Flit where
  pid    : Nat
  src    : Nat
  srcInc : BitVec 16
  dstInc : BitVec 16
  rx     : Nat
  off    : Nat
  bytes  : List Byte
  pod    : Bool
  deriving DecidableEq, Repr

/-- Where an arriving copy comes from: the i-th copy this device itself has in flight on its loop-back path
(R375), or a peer's flit. -/
inductive Arrival where
  | own (i : Nat)
  | peer (f : Flit)
  deriving DecidableEq, Repr

/-- What every control flit of a peer carries: its source device and the incarnations of source and destination (R379). -/
structure FlitHead where
  src    : Nat
  srcInc : BitVec 16
  dstInc : BitVec 16
  deriving DecidableEq, Repr

/-- The acknowledgement of a reflected copy (R369, R394): its partition tag, its head, and which copy in flight it answers. -/
structure AckFlit where
  pid  : Nat
  head : FlitHead
  copy : Nat
  deriving DecidableEq, Repr

/-- A pod barrier's release on its way down the tree (R382): its head and the value it carries. -/
structure ReleaseFlit where
  head  : FlitHead
  value : BitVec 32
  deriving DecidableEq, Repr

/-- One member's four values in a wave of a pod Creel domain (R169). -/
structure WaveEntry where
  device   : Nat
  live     : Nat
  quiet    : Bool
  sent     : Nat
  accepted : Nat
  deriving DecidableEq, Repr

/-- A step of a wave along the tree of its group (R169, R383): the device's own values leave, a member's values come up from
a child, the root sends the whole wave down, or it comes down from the parent. -/
inductive WaveStep where
  | own
  | up (h : FlitHead) (e : WaveEntry)
  | send
  | down (h : FlitHead) (wave : List WaveEntry)
  deriving DecidableEq, Repr

/-- A report of a pod barrier: arrivals counted, the episode's N and kind, the largest magnitude (R382). -/
structure PodReport where
  arrivals : Nat
  n        : Nat
  isMax    : Bool
  mag      : BitVec 32
  deriving DecidableEq, Repr

/-- One layer of a Round model: its first frame and its frame count (R284). -/
structure RoundLayer where
  first : Nat
  count : Nat
  deriving DecidableEq, Repr

/-- One die's slice of a Round model: the frames [first, first + count) held in that die's memory from the physical
address base on (R284). -/
structure RoundSlice where
  die   : Nat
  first : Nat
  count : Nat
  base  : Nat
  deriving DecidableEq, Repr

/-- What a Round model descriptor gives (R284). -/
structure RoundModel where
  number : BitVec 8
  frames : Nat
  layers : List RoundLayer
  slices : List RoundSlice
  deriving DecidableEq, Repr

/-- What a boot image gives, with the outcome of its signature check (R404). -/
structure BootImage where
  valid       : Bool
  firmware    : Nat
  serverMask  : List (Nat × BitVec 1024)
  handlers    : Nat
  /-- Partition word of the handler cores (R361). -/
  handlerPart : BitVec 10
  incarnation : BitVec 16
  deriving DecidableEq, Repr

/-- What a beat of a page migration's copy meets (R211): it is copied, it faults, or it reads an uncorrectable error. -/
inductive CopyOutcome where
  | copied
  | fault
  | unreadable
  deriving DecidableEq, Repr

/-- What reading a line under ECC finds (R405). -/
inductive EccOutcome where
  | clean
  | corrected
  | uncorrectable
  deriving DecidableEq, Repr

/-- Where an uncorrectable or corrected error strikes (R405, R345, R200, R342). -/
inductive EccSite where
  /-- A register of a strand, coded by file and number as for cause 0x05, 5 special, 6 shadow bank. -/
  | register (sid file num : Nat)
  /-- A 64-byte line of a core's scratchpad. -/
  | scratch (core line : Nat)
  /-- An accumulator tile of a core. -/
  | tile (core n : Nat)
  /-- A line of die memory, of a strand's private memory among it. -/
  | memory (line : Nat)
  /-- An error that ECC corrects, anywhere. -/
  | corrected (p : Nat)
  deriving DecidableEq, Repr

end Sys2Proof
end

