-- ==== Sys2Proof/Syntax.lean ====
section
/-!
DEFINITION. The instructions: one constructor for every row of spec/opcode_table.json. The first 267 are words; their
arguments are the fields of the word (04 R60), iv the issue version [31:30] and sc the field [3:0] (R21). The last 99
are the events of the part's other agents (95); their arguments say which strand, core, queue or packet is concerned.
-/
namespace Sys2Proof

inductive Instr where
  /-- add (R79): Writes G[a] + G[b] modulo 2^64 to G[d]. -/
  | add (iv : BitVec 2) (d a b : BitVec 5) (sc : BitVec 4)
  /-- sub (R79): Writes G[a] − G[b] to G[d]. -/
  | sub (iv : BitVec 2) (d a b : BitVec 5) (sc : BitVec 4)
  /-- and (R79): Writes G[a] AND G[b] to G[d]. -/
  | and (iv : BitVec 2) (d a b : BitVec 5) (sc : BitVec 4)
  /-- or (R79): Writes G[a] OR G[b] to G[d]. -/
  | or (iv : BitVec 2) (d a b : BitVec 5) (sc : BitVec 4)
  /-- xor (R79): Writes G[a] XOR G[b] to G[d]. -/
  | xor (iv : BitVec 2) (d a b : BitVec 5) (sc : BitVec 4)
  /-- andn (R79): Writes G[a] AND NOT G[b] to G[d]. -/
  | andn (iv : BitVec 2) (d a b : BitVec 5) (sc : BitVec 4)
  /-- orn (R79): Writes G[a] OR NOT G[b] to G[d]. -/
  | orn (iv : BitVec 2) (d a b : BitVec 5) (sc : BitVec 4)
  /-- shl (R79): Shifts G[a] left by G[b][5:0] and writes G[d]. -/
  | shl (iv : BitVec 2) (d a b : BitVec 5) (sc : BitVec 4)
  /-- shr (R79): Shifts G[a] right logically by G[b][5:0] and writes G[d]. -/
  | shr (iv : BitVec 2) (d a b : BitVec 5) (sc : BitVec 4)
  /-- sra (R79): Shifts G[a] right arithmetically by G[b][5:0] and writes G[d]. -/
  | sra (iv : BitVec 2) (d a b : BitVec 5) (sc : BitVec 4)
  /-- rot (R79): Rotates G[a] right by G[b][5:0] and writes G[d]. -/
  | rot (iv : BitVec 2) (d a b : BitVec 5) (sc : BitVec 4)
  /-- min (R79): Writes the signed smaller of G[a] and G[b] to G[d]. -/
  | min (iv : BitVec 2) (d a b : BitVec 5) (sc : BitVec 4)
  /-- max (R79): Writes the signed larger of G[a] and G[b] to G[d]. -/
  | max (iv : BitVec 2) (d a b : BitVec 5) (sc : BitVec 4)
  /-- minn (R79): Writes the unsigned smaller of G[a] and G[b] to G[d]. -/
  | minn (iv : BitVec 2) (d a b : BitVec 5) (sc : BitVec 4)
  /-- maxn (R79): Writes the unsigned larger of G[a] and G[b] to G[d]. -/
  | maxn (iv : BitVec 2) (d a b : BitVec 5) (sc : BitVec 4)
  /-- mul (R80): Writes the low 64 bits of G[a] × G[b] to G[d]. -/
  | mul (iv : BitVec 2) (d a b : BitVec 5) (sc : BitVec 4)
  /-- mulh (R80): Writes the high 64 bits of the signed 128-bit product to G[d]. -/
  | mulh (iv : BitVec 2) (d a b : BitVec 5) (sc : BitVec 4)
  /-- mulhn (R80): Writes the high 64 bits of the unsigned 128-bit product to G[d]. -/
  | mulhn (iv : BitVec 2) (d a b : BitVec 5) (sc : BitVec 4)
  /-- div (R81): Long-latency signed division truncating toward zero, with defined results for zero and overflow. -/
  | div (iv : BitVec 2) (d a b : BitVec 5) (sc : BitVec 4)
  /-- divn (R81): Long-latency unsigned division with a defined result for a zero divisor. -/
  | divn (iv : BitVec 2) (d a b : BitVec 5) (sc : BitVec 4)
  /-- rem (R81): Long-latency signed remainder with the sign of G[a]. -/
  | rem (iv : BitVec 2) (d a b : BitVec 5) (sc : BitVec 4)
  /-- remn (R81): Long-latency unsigned remainder. -/
  | remn (iv : BitVec 2) (d a b : BitVec 5) (sc : BitVec 4)
  /-- clz (R82): Writes the count of leading zero bits of G[a]. -/
  | clz (iv : BitVec 2) (d a : BitVec 5) (sc : BitVec 4)
  /-- ctz (R82): Writes the count of trailing zero bits of G[a]. -/
  | ctz (iv : BitVec 2) (d a : BitVec 5) (sc : BitVec 4)
  /-- popc (R82): Writes the number of one bits of G[a]. -/
  | popc (iv : BitVec 2) (d a : BitVec 5) (sc : BitVec 4)
  /-- bswap (R82): Writes the eight bytes of G[a] in reverse order. -/
  | bswap (iv : BitVec 2) (d a : BitVec 5) (sc : BitVec 4)
  /-- bfx (R83): Extracts a zero-extended bit field of G[a] described by G[b]. -/
  | bfx (iv : BitVec 2) (d a b : BitVec 5) (sc : BitVec 4)
  /-- bfi (R83): Inserts the low bits of G[a] into a field of G[d] described by G[b]. -/
  | bfi (iv : BitVec 2) (d a b : BitVec 5) (sc : BitVec 4)
  /-- sext.b (R82): Sign-extends G[a][7:0]. -/
  | sextB (iv : BitVec 2) (d a : BitVec 5) (sc : BitVec 4)
  /-- sext.h (R82): Sign-extends G[a][15:0]. -/
  | sextH (iv : BitVec 2) (d a : BitVec 5) (sc : BitVec 4)
  /-- sext.w (R82): Sign-extends G[a][31:0]. -/
  | sextW (iv : BitVec 2) (d a : BitVec 5) (sc : BitVec 4)
  /-- zext.b (R82): Zero-extends G[a][7:0]. -/
  | zextB (iv : BitVec 2) (d a : BitVec 5) (sc : BitVec 4)
  /-- zext.h (R82): Zero-extends G[a][15:0]. -/
  | zextH (iv : BitVec 2) (d a : BitVec 5) (sc : BitVec 4)
  /-- zext.w (R82): Zero-extends G[a][31:0]. -/
  | zextW (iv : BitVec 2) (d a : BitVec 5) (sc : BitVec 4)
  /-- cmp.eq (R84): Writes 1 if G[a] equals G[b], else 0. -/
  | cmpEq (iv : BitVec 2) (d a b : BitVec 5) (sc : BitVec 4)
  /-- cmp.ne (R84): Writes 1 if G[a] differs from G[b], else 0. -/
  | cmpNe (iv : BitVec 2) (d a b : BitVec 5) (sc : BitVec 4)
  /-- cmp.lt (R84): Writes 1 if G[a] < G[b] signed, else 0. -/
  | cmpLt (iv : BitVec 2) (d a b : BitVec 5) (sc : BitVec 4)
  /-- cmp.ltn (R84): Writes 1 if G[a] < G[b] unsigned, else 0. -/
  | cmpLtn (iv : BitVec 2) (d a b : BitVec 5) (sc : BitVec 4)
  /-- cmp.le (R84): Writes 1 if G[a] ≤ G[b] signed, else 0. -/
  | cmpLe (iv : BitVec 2) (d a b : BitVec 5) (sc : BitVec 4)
  /-- cmp.len (R84): Writes 1 if G[a] ≤ G[b] unsigned, else 0. -/
  | cmpLen (iv : BitVec 2) (d a b : BitVec 5) (sc : BitVec 4)
  /-- sel.nz (R84): Writes G[b] to G[d] if G[a] is nonzero, otherwise leaves G[d] unchanged. -/
  | selNz (iv : BitVec 2) (d a b : BitVec 5) (sc : BitVec 4)
  /-- addi (R85): Writes G[a] plus the sign-extended immediate. -/
  | addi (iv : BitVec 2) (d a : BitVec 5) (i : BitVec 10) (sc : BitVec 4)
  /-- andi (R85): Writes G[a] AND the sign-extended immediate. -/
  | andi (iv : BitVec 2) (d a : BitVec 5) (i : BitVec 10) (sc : BitVec 4)
  /-- ori (R85): Writes G[a] OR the sign-extended immediate. -/
  | ori (iv : BitVec 2) (d a : BitVec 5) (i : BitVec 10) (sc : BitVec 4)
  /-- xori (R85): Writes G[a] XOR the sign-extended immediate. -/
  | xori (iv : BitVec 2) (d a : BitVec 5) (i : BitVec 10) (sc : BitVec 4)
  /-- muli (R85): Writes the low 64 bits of G[a] times the sign-extended immediate. -/
  | muli (iv : BitVec 2) (d a : BitVec 5) (i : BitVec 10) (sc : BitVec 4)
  /-- shli (R86): Shifts G[a] left by an immediate count. -/
  | shli (iv : BitVec 2) (d a : BitVec 5) (n : BitVec 6) (sc : BitVec 4)
  /-- shri (R86): Shifts G[a] right logically by an immediate count. -/
  | shri (iv : BitVec 2) (d a : BitVec 5) (n : BitVec 6) (sc : BitVec 4)
  /-- srai (R86): Shifts G[a] right arithmetically by an immediate count. -/
  | srai (iv : BitVec 2) (d a : BitVec 5) (n : BitVec 6) (sc : BitVec 4)
  /-- roti (R86): Rotates G[a] right by an immediate count. -/
  | roti (iv : BitVec 2) (d a : BitVec 5) (n : BitVec 6) (sc : BitVec 4)
  /-- cmpi (R87): Writes 1 if G[a] meets the condition against the sign-extended immediate, else 0. -/
  | cmpi (iv : BitVec 2) (d a : BitVec 5) (c : BitVec 3) (i : BitVec 7) (sc : BitVec 4)
  /-- ld.lit (R89): Long-latency load of a 64-bit literal relative to the aligned unit head, needing r or x. -/
  | ldLit (iv : BitVec 2) (d : BitVec 5) (i : BitVec 10) (sc : BitVec 4)
  /-- movi (R88): Writes the sign-extended immediate to G[d]. -/
  | movi (iv : BitVec 2) (d : BitVec 5) (i : BitVec 19)
  /-- lea (R90): Adds G[b] to the 56-bit address of G[a] keeping the top byte. -/
  | lea (iv : BitVec 2) (d a b : BitVec 5) (sc : BitVec 4)
  /-- xkey.set (R90): Replaces the tag key bits [59:56] of G[a] with G[b][3:0]. -/
  | xkeySet (iv : BitVec 2) (d a b : BitVec 5) (sc : BitVec 4)
  /-- xkey.get (R90): Writes the zero-extended tag key of G[a]. -/
  | xkeyGet (iv : BitVec 2) (d a : BitVec 5) (sc : BitVec 4)
  /-- ld (R91): Long-latency plain load at base plus scaled offset, checked as R95 states. -/
  | ld (iv : BitVec 2) (d b : BitVec 5) (o : BitVec 7) (z : BitVec 3) (sc : BitVec 4)
  /-- st (R91): Plain store at base plus scaled offset into the store buffer. -/
  | st (iv : BitVec 2) (d b : BitVec 5) (o : BitVec 7) (z : BitVec 3) (sc : BitVec 4)
  /-- ld.x (R91): Long-latency plain load at base plus shifted index. -/
  | ldX (iv : BitVec 2) (d b i : BitVec 5) (h : BitVec 2) (z : BitVec 3) (sc : BitVec 4)
  /-- st.x (R91): Plain store at base plus shifted index. -/
  | stX (iv : BitVec 2) (d b i : BitVec 5) (h : BitVec 2) (z : BitVec 3) (sc : BitVec 4)
  /-- ld.s (R236): Long-latency strong load performed at the owner's memory side with order and scope. -/
  | ldS (iv : BitVec 2) (d b : BitVec 5) (c : BitVec 3) (o : BitVec 2) (z : BitVec 1) (sc : BitVec 4)
  /-- st.s (R236): Strong store performed at the owner's memory side, invalidating the core's read-cache line. -/
  | stS (iv : BitVec 2) (d b : BitVec 5) (c : BitVec 3) (o : BitVec 2) (z : BitVec 1) (sc : BitVec 4)
  /-- amo.add (R237): Atomically adds G[b] to memory and returns the old value. -/
  | amoAdd (iv : BitVec 2) (d a b : BitVec 5) (z : BitVec 1) (sc : BitVec 4)
  /-- amo.and (R237): Atomically ANDs G[b] into memory and returns the old value. -/
  | amoAnd (iv : BitVec 2) (d a b : BitVec 5) (z : BitVec 1) (sc : BitVec 4)
  /-- amo.or (R237): Atomically ORs G[b] into memory and returns the old value. -/
  | amoOr (iv : BitVec 2) (d a b : BitVec 5) (z : BitVec 1) (sc : BitVec 4)
  /-- amo.xor (R237): Atomically XORs G[b] into memory and returns the old value. -/
  | amoXor (iv : BitVec 2) (d a b : BitVec 5) (z : BitVec 1) (sc : BitVec 4)
  /-- amo.min (R237): Atomically stores the signed minimum and returns the old value. -/
  | amoMin (iv : BitVec 2) (d a b : BitVec 5) (z : BitVec 1) (sc : BitVec 4)
  /-- amo.max (R237): Atomically stores the signed maximum and returns the old value. -/
  | amoMax (iv : BitVec 2) (d a b : BitVec 5) (z : BitVec 1) (sc : BitVec 4)
  /-- amo.minn (R237): Atomically stores the unsigned minimum and returns the old value. -/
  | amoMinn (iv : BitVec 2) (d a b : BitVec 5) (z : BitVec 1) (sc : BitVec 4)
  /-- amo.maxn (R237): Atomically stores the unsigned maximum and returns the old value. -/
  | amoMaxn (iv : BitVec 2) (d a b : BitVec 5) (z : BitVec 1) (sc : BitVec 4)
  /-- amo.swap (R237): Atomically swaps G[b] into memory and returns the old value. -/
  | amoSwap (iv : BitVec 2) (d a b : BitVec 5) (z : BitVec 1) (sc : BitVec 4)
  /-- amo.fadd.f32 (R238): Atomically adds an fp32 value rounded to nearest-even and returns the old value. -/
  | amoFadd (iv : BitVec 2) (d a b : BitVec 5) (sc : BitVec 4)
  /-- cas (R238): Atomically compares memory with G[d], writes G[b] if equal, and returns the old value. -/
  | cas (iv : BitVec 2) (d a b : BitVec 5) (z : BitVec 1) (sc : BitVec 4)
  /-- waita (R241): Reads a location with acquire and arms a watch, sleeping while the value equals G[b]. -/
  | waita (iv : BitVec 2) (d a b : BitVec 5) (sc : BitVec 4)
  /-- wake (R242): Fires every watch on the named line without writing data. -/
  | wake (iv : BitVec 2) (a : BitVec 5) (sc : BitVec 4)
  /-- phase (R218): Drains the store buffer, waits for earlier accesses and invalidates the read cache at a scope. -/
  | phase (iv : BitVec 2) (c : BitVec 5) (sc : BitVec 4)
  /-- fence.x (R226): Drains the store buffer and waits for earlier accesses without touching the read cache. -/
  | fenceX (iv : BitVec 2) (sc : BitVec 4)
  /-- fence.r (R245): Waits until earlier reflected stores and flags to the named windows are visible everywhere. -/
  | fenceR (iv : BitVec 2) (a : BitVec 5) (sc : BitVec 4)
  /-- fence.a (R246): Waits until writes accepted on a named die's outbound paths are performed at package scope. -/
  | fenceA (iv : BitVec 2) (a : BitVec 5) (sc : BitVec 4)
  /-- qfence (R247): Places a join entry at the tail of each named engine queue. -/
  | qfence (iv : BitVec 2) (a : BitVec 5) (sc : BitVec 4)
  /-- ifence (R248): Invalidates the core's instruction cache and the strand's fetch buffer. -/
  | ifence (iv : BitVec 2) (sc : BitVec 4)
  /-- tag.set (R250): Sets the lock of every granule in a range to the pointer's key at the owners' memory sides. -/
  | tagSet (iv : BitVec 2) (a b : BitVec 5) (sc : BitVec 4)
  /-- tag.get (R251): Long-latency read of the lock of the granule holding EA. -/
  | tagGet (iv : BitVec 2) (d a : BitVec 5) (sc : BitVec 4)
  /-- xreq (R252): Asks the translation engine for an extent entry covering an address. -/
  | xreq (iv : BitVec 2) (d a b : BitVec 5) (sc : BitVec 4)
  /-- xrel (R253): Invalidates a numbered extent entry. -/
  | xrel (iv : BitVec 2) (a : BitVec 5) (sc : BitVec 4)
  /-- st.f (R254): Reflected store through a transmit window followed by a flag increment at the destination. -/
  | stF (iv : BitVec 2) (d a b : BitVec 5) (z : BitVec 1) (sc : BitVec 4)
  /-- bc (R97): Branches to head plus offset when G[a] compared with zero meets the condition. -/
  | bc (iv : BitVec 2) (a : BitVec 5) (c : BitVec 3) (o : BitVec 16)
  /-- dbnz (R97): Decrements G[a] and branches when the result is nonzero. -/
  | dbnz (iv : BitVec 2) (a : BitVec 5) (o : BitVec 16)
  /-- b (R98): Branches unconditionally to head plus offset. -/
  | b (iv : BitVec 2) (o : BitVec 24)
  /-- call (R98): Branches to head plus offset and writes the return address to g31. -/
  | call (iv : BitVec 2) (o : BitVec 24)
  /-- jr (R99): Jumps to the address in G[a]. -/
  | jr (iv : BitVec 2) (a : BitVec 5) (sc : BitVec 4)
  /-- jrl (R99): Jumps to G[a] and writes the return address to g31. -/
  | jrl (iv : BitVec 2) (a : BitVec 5) (sc : BitVec 4)
  /-- ret (R99): Jumps to the address in g31. -/
  | ret (iv : BitVec 2) (sc : BitVec 4)
  /-- vadd (R105): Adds active elements, signed integer form. -/
  | vadd (iv : BitVec 2) (d a b : BitVec 4) (k : BitVec 3) (sc : BitVec 4)
  /-- vadd.n (R105): Adds active elements, unsigned integer form. -/
  | vaddN (iv : BitVec 2) (d a b : BitVec 4) (k : BitVec 3) (sc : BitVec 4)
  /-- vsub (R105): Subtracts active elements, signed form. -/
  | vsub (iv : BitVec 2) (d a b : BitVec 4) (k : BitVec 3) (sc : BitVec 4)
  /-- vsub.n (R105): Subtracts active elements, unsigned form. -/
  | vsubN (iv : BitVec 2) (d a b : BitVec 4) (k : BitVec 3) (sc : BitVec 4)
  /-- vmul (R105): Multiplies active elements, signed form. -/
  | vmul (iv : BitVec 2) (d a b : BitVec 4) (k : BitVec 3) (sc : BitVec 4)
  /-- vmul.n (R105): Multiplies active elements, unsigned form. -/
  | vmulN (iv : BitVec 2) (d a b : BitVec 4) (k : BitVec 3) (sc : BitVec 4)
  /-- vfma (R106): Computes Va × Vb + Vd rounded once. -/
  | vfma (iv : BitVec 2) (d a b : BitVec 4) (k : BitVec 3) (sc : BitVec 4)
  /-- vfms (R106): Computes Vd − Va × Vb rounded once. -/
  | vfms (iv : BitVec 2) (d a b : BitVec 4) (k : BitVec 3) (sc : BitVec 4)
  /-- vmin (R106): Writes the smaller element, signed or floating. -/
  | vmin (iv : BitVec 2) (d a b : BitVec 4) (k : BitVec 3) (sc : BitVec 4)
  /-- vmin.n (R106): Writes the smaller element, unsigned. -/
  | vminN (iv : BitVec 2) (d a b : BitVec 4) (k : BitVec 3) (sc : BitVec 4)
  /-- vmax (R106): Writes the larger element, signed or floating. -/
  | vmax (iv : BitVec 2) (d a b : BitVec 4) (k : BitVec 3) (sc : BitVec 4)
  /-- vmax.n (R106): Writes the larger element, unsigned. -/
  | vmaxN (iv : BitVec 2) (d a b : BitVec 4) (k : BitVec 3) (sc : BitVec 4)
  /-- vabs (R106): Writes the absolute value of each active element. -/
  | vabs (iv : BitVec 2) (d a : BitVec 4) (k : BitVec 3) (sc : BitVec 4)
  /-- vneg (R106): Writes the negation of each active element. -/
  | vneg (iv : BitVec 2) (d a : BitVec 4) (k : BitVec 3) (sc : BitVec 4)
  /-- vand (R105): Bitwise AND of active elements. -/
  | vand (iv : BitVec 2) (d a b : BitVec 4) (k : BitVec 3) (sc : BitVec 4)
  /-- vor (R105): Bitwise OR of active elements. -/
  | vor (iv : BitVec 2) (d a b : BitVec 4) (k : BitVec 3) (sc : BitVec 4)
  /-- vxor (R105): Bitwise XOR of active elements. -/
  | vxor (iv : BitVec 2) (d a b : BitVec 4) (k : BitVec 3) (sc : BitVec 4)
  /-- vandn (R105): Bitwise AND NOT of active elements. -/
  | vandn (iv : BitVec 2) (d a b : BitVec 4) (k : BitVec 3) (sc : BitVec 4)
  /-- vshl (R106): Shifts integer elements left by counts in Vb. -/
  | vshl (iv : BitVec 2) (d a b : BitVec 4) (k : BitVec 3) (sc : BitVec 4)
  /-- vshr (R106): Shifts integer elements right logically. -/
  | vshr (iv : BitVec 2) (d a b : BitVec 4) (k : BitVec 3) (sc : BitVec 4)
  /-- vsra (R106): Shifts integer elements right arithmetically. -/
  | vsra (iv : BitVec 2) (d a b : BitVec 4) (k : BitVec 3) (sc : BitVec 4)
  /-- vavg (R105): Writes the rounded-up signed average of elements. -/
  | vavg (iv : BitVec 2) (d a b : BitVec 4) (k : BitVec 3) (sc : BitVec 4)
  /-- vavg.n (R105): Writes the rounded-up unsigned average of elements. -/
  | vavgN (iv : BitVec 2) (d a b : BitVec 4) (k : BitVec 3) (sc : BitVec 4)
  /-- vcmp.eq (R107): Sets mask bits where elements are equal. -/
  | vcmpEq (iv : BitVec 2) (d : BitVec 3) (a b : BitVec 4) (k : BitVec 3) (sc : BitVec 4)
  /-- vcmp.ne (R107): Sets mask bits where elements differ. -/
  | vcmpNe (iv : BitVec 2) (d : BitVec 3) (a b : BitVec 4) (k : BitVec 3) (sc : BitVec 4)
  /-- vcmp.lt (R107): Sets mask bits where Va < Vb, signed or floating. -/
  | vcmpLt (iv : BitVec 2) (d : BitVec 3) (a b : BitVec 4) (k : BitVec 3) (sc : BitVec 4)
  /-- vcmp.lt.n (R107): Sets mask bits where Va < Vb unsigned. -/
  | vcmpLtN (iv : BitVec 2) (d : BitVec 3) (a b : BitVec 4) (k : BitVec 3) (sc : BitVec 4)
  /-- vcmp.le (R107): Sets mask bits where Va ≤ Vb, signed or floating. -/
  | vcmpLe (iv : BitVec 2) (d : BitVec 3) (a b : BitVec 4) (k : BitVec 3) (sc : BitVec 4)
  /-- vcmp.le.n (R107): Sets mask bits where Va ≤ Vb unsigned. -/
  | vcmpLeN (iv : BitVec 2) (d : BitVec 3) (a b : BitVec 4) (k : BitVec 3) (sc : BitVec 4)
  /-- vcmp.unord (R107): Sets mask bits where either operand is a NaN. -/
  | vcmpUnord (iv : BitVec 2) (d : BitVec 3) (a b : BitVec 4) (k : BitVec 3) (sc : BitVec 4)
  /-- vsel (R108): Selects each element from Va or Vb by mask bit. -/
  | vsel (iv : BitVec 2) (d a b : BitVec 4) (k : BitVec 3) (sc : BitVec 4)
  /-- vperm (R108): Permutes elements of Va by byte indices in Vb. -/
  | vperm (iv : BitVec 2) (d a b : BitVec 4) (k : BitVec 3) (sc : BitVec 4)
  /-- vtrn (R108): Transposes the tile of Va. -/
  | vtrn (iv : BitVec 2) (d a : BitVec 4) (k : BitVec 3) (sc : BitVec 4)
  /-- vrowb (R108): Broadcasts one row of Va to every row. -/
  | vrowb (iv : BitVec 2) (d a n : BitVec 4) (k : BitVec 3) (sc : BitVec 4)
  /-- vcolb (R108): Broadcasts one column of Va to every column. -/
  | vcolb (iv : BitVec 2) (d a n : BitVec 4) (k : BitVec 3) (sc : BitVec 4)
  /-- vslide (R108): Slides elements of Va down by an immediate count. -/
  | vslide (iv : BitVec 2) (d a n : BitVec 4) (k : BitVec 3) (sc : BitVec 4)
  /-- vred.add.all (R109): Sums active elements into a scalar register. -/
  | vredAddAll (iv : BitVec 2) (a : BitVec 4) (g : BitVec 5) (k : BitVec 3) (sc : BitVec 4)
  /-- vred.min.all (R109): Signed or floating minimum of active elements into a scalar. -/
  | vredMinAll (iv : BitVec 2) (a : BitVec 4) (g : BitVec 5) (k : BitVec 3) (sc : BitVec 4)
  /-- vred.max.all (R109): Signed or floating maximum of active elements into a scalar. -/
  | vredMaxAll (iv : BitVec 2) (a : BitVec 4) (g : BitVec 5) (k : BitVec 3) (sc : BitVec 4)
  /-- vred.and.all (R109): AND of active elements into a scalar. -/
  | vredAndAll (iv : BitVec 2) (a : BitVec 4) (g : BitVec 5) (k : BitVec 3) (sc : BitVec 4)
  /-- vred.or.all (R109): OR of active elements into a scalar. -/
  | vredOrAll (iv : BitVec 2) (a : BitVec 4) (g : BitVec 5) (k : BitVec 3) (sc : BitVec 4)
  /-- vred.amax.all (R110): Largest magnitude of active elements into a scalar. -/
  | vredAmaxAll (iv : BitVec 2) (a : BitVec 4) (g : BitVec 5) (k : BitVec 3) (sc : BitVec 4)
  /-- vred.min.n.all (R109): Unsigned minimum of active elements into a scalar. -/
  | vredMinNAll (iv : BitVec 2) (a : BitVec 4) (g : BitVec 5) (k : BitVec 3) (sc : BitVec 4)
  /-- vred.max.n.all (R109): Unsigned maximum of active elements into a scalar. -/
  | vredMaxNAll (iv : BitVec 2) (a : BitVec 4) (g : BitVec 5) (k : BitVec 3) (sc : BitVec 4)
  /-- vred.add.row (R109): Sums each row into element (r, 0). -/
  | vredAddRow (iv : BitVec 2) (d a : BitVec 4) (k : BitVec 3) (sc : BitVec 4)
  /-- vred.min.row (R109): Minimum of each row into element (r, 0). -/
  | vredMinRow (iv : BitVec 2) (d a : BitVec 4) (k : BitVec 3) (sc : BitVec 4)
  /-- vred.max.row (R109): Maximum of each row into element (r, 0). -/
  | vredMaxRow (iv : BitVec 2) (d a : BitVec 4) (k : BitVec 3) (sc : BitVec 4)
  /-- vred.and.row (R109): AND of each row into element (r, 0). -/
  | vredAndRow (iv : BitVec 2) (d a : BitVec 4) (k : BitVec 3) (sc : BitVec 4)
  /-- vred.or.row (R109): OR of each row into element (r, 0). -/
  | vredOrRow (iv : BitVec 2) (d a : BitVec 4) (k : BitVec 3) (sc : BitVec 4)
  /-- vred.amax.row (R110): Largest magnitude of each row into element (r, 0). -/
  | vredAmaxRow (iv : BitVec 2) (d a : BitVec 4) (k : BitVec 3) (sc : BitVec 4)
  /-- vred.min.n.row (R109): Unsigned minimum of each row into element (r, 0). -/
  | vredMinNRow (iv : BitVec 2) (d a : BitVec 4) (k : BitVec 3) (sc : BitVec 4)
  /-- vred.max.n.row (R109): Unsigned maximum of each row into element (r, 0). -/
  | vredMaxNRow (iv : BitVec 2) (d a : BitVec 4) (k : BitVec 3) (sc : BitVec 4)
  /-- vred.add.col (R109): Sums each column into element (0, c). -/
  | vredAddCol (iv : BitVec 2) (d a : BitVec 4) (k : BitVec 3) (sc : BitVec 4)
  /-- vred.min.col (R109): Minimum of each column into element (0, c). -/
  | vredMinCol (iv : BitVec 2) (d a : BitVec 4) (k : BitVec 3) (sc : BitVec 4)
  /-- vred.max.col (R109): Maximum of each column into element (0, c). -/
  | vredMaxCol (iv : BitVec 2) (d a : BitVec 4) (k : BitVec 3) (sc : BitVec 4)
  /-- vred.and.col (R109): AND of each column into element (0, c). -/
  | vredAndCol (iv : BitVec 2) (d a : BitVec 4) (k : BitVec 3) (sc : BitVec 4)
  /-- vred.or.col (R109): OR of each column into element (0, c). -/
  | vredOrCol (iv : BitVec 2) (d a : BitVec 4) (k : BitVec 3) (sc : BitVec 4)
  /-- vred.amax.col (R110): Largest magnitude of each column into element (0, c). -/
  | vredAmaxCol (iv : BitVec 2) (d a : BitVec 4) (k : BitVec 3) (sc : BitVec 4)
  /-- vred.min.n.col (R109): Unsigned minimum of each column into element (0, c). -/
  | vredMinNCol (iv : BitVec 2) (d a : BitVec 4) (k : BitVec 3) (sc : BitVec 4)
  /-- vred.max.n.col (R109): Unsigned maximum of each column into element (0, c). -/
  | vredMaxNCol (iv : BitVec 2) (d a : BitVec 4) (k : BitVec 3) (sc : BitVec 4)
  /-- vcvt (R112): Converts active elements to target tag T, signed form. -/
  | vcvt (iv : BitVec 2) (d a t : BitVec 4) (k : BitVec 3) (sc : BitVec 4)
  /-- vcvt.n (R112): Converts active elements to target tag T, unsigned form. -/
  | vcvtN (iv : BitVec 2) (d a t : BitVec 4) (k : BitVec 3) (sc : BitVec 4)
  /-- vpack (R113): Packs int8 elements into int4 or tern bytes. -/
  | vpack (iv : BitVec 2) (d a t sc : BitVec 4)
  /-- vunpack.i8 (R113): Unpacks int4 or tern bytes into int8 elements. -/
  | vunpack (iv : BitVec 2) (d a sc : BitVec 4)
  /-- vsat (R114): Clamps signed elements to a narrower signed integer type. -/
  | vsat (iv : BitVec 2) (d a t : BitVec 4) (k : BitVec 3) (sc : BitVec 4)
  /-- vsat.n (R114): Clamps signed elements to a narrower unsigned integer type. -/
  | vsatN (iv : BitVec 2) (d a t : BitVec 4) (k : BitVec 3) (sc : BitVec 4)
  /-- vrcp (R115): Long-latency correctly rounded reciprocal. -/
  | vrcp (iv : BitVec 2) (d a : BitVec 4) (k : BitVec 3) (sc : BitVec 4)
  /-- vrsq (R115): Long-latency correctly rounded reciprocal square root. -/
  | vrsq (iv : BitVec 2) (d a : BitVec 4) (k : BitVec 3) (sc : BitVec 4)
  /-- vsqrt (R115): Long-latency correctly rounded square root. -/
  | vsqrt (iv : BitVec 2) (d a : BitVec 4) (k : BitVec 3) (sc : BitVec 4)
  /-- vexp2 (R115): Long-latency correctly rounded 2^x. -/
  | vexp2 (iv : BitVec 2) (d a : BitVec 4) (k : BitVec 3) (sc : BitVec 4)
  /-- vlog2 (R115): Long-latency correctly rounded log2. -/
  | vlog2 (iv : BitVec 2) (d a : BitVec 4) (k : BitVec 3) (sc : BitVec 4)
  /-- vsinpi (R115): Long-latency correctly rounded sin(πx). -/
  | vsinpi (iv : BitVec 2) (d a : BitVec 4) (k : BitVec 3) (sc : BitVec 4)
  /-- vcospi (R115): Long-latency correctly rounded cos(πx). -/
  | vcospi (iv : BitVec 2) (d a : BitVec 4) (k : BitVec 3) (sc : BitVec 4)
  /-- vtanh (R115): Long-latency correctly rounded tanh. -/
  | vtanh (iv : BitVec 2) (d a : BitVec 4) (k : BitVec 3) (sc : BitVec 4)
  /-- vdiv (R115): Long-latency correctly rounded division Va ÷ Vb. -/
  | vdiv (iv : BitVec 2) (d a b : BitVec 4) (k : BitVec 3) (sc : BitVec 4)
  /-- vadds (R116): Adds a scalar to active elements, signed form. -/
  | vadds (iv : BitVec 2) (d a : BitVec 4) (g : BitVec 5) (k : BitVec 3) (sc : BitVec 4)
  /-- vadds.n (R116): Adds a scalar to active elements, unsigned form. -/
  | vaddsN (iv : BitVec 2) (d a : BitVec 4) (g : BitVec 5) (k : BitVec 3) (sc : BitVec 4)
  /-- vmuls (R116): Multiplies active elements by a scalar, signed form. -/
  | vmuls (iv : BitVec 2) (d a : BitVec 4) (g : BitVec 5) (k : BitVec 3) (sc : BitVec 4)
  /-- vmuls.n (R116): Multiplies active elements by a scalar, unsigned form. -/
  | vmulsN (iv : BitVec 2) (d a : BitVec 4) (g : BitVec 5) (k : BitVec 3) (sc : BitVec 4)
  /-- vfmas (R116): Computes Va × s + Vd rounded once. -/
  | vfmas (iv : BitVec 2) (d a : BitVec 4) (g : BitVec 5) (k : BitVec 3) (sc : BitVec 4)
  /-- vbcast (R116): Broadcasts a scalar to active elements. -/
  | vbcast (iv : BitVec 2) (d : BitVec 4) (g : BitVec 5) (k : BitVec 3) (sc : BitVec 4)
  /-- vget (R116): Reads the lowest active element into a scalar, sign-extended on integers. -/
  | vget (iv : BitVec 2) (a : BitVec 4) (g : BitVec 5) (k : BitVec 3) (sc : BitVec 4)
  /-- vget.n (R116): Reads the lowest active element into a scalar, zero-extended. -/
  | vgetN (iv : BitVec 2) (a : BitVec 4) (g : BitVec 5) (k : BitVec 3) (sc : BitVec 4)
  /-- vset (R116): Writes a scalar to the lowest active element. -/
  | vset (iv : BitVec 2) (d : BitVec 4) (g : BitVec 5) (k : BitVec 3) (sc : BitVec 4)
  /-- vld (R118): Long-latency vector load of active elements with tag T under a layout. -/
  | vld (iv : BitVec 2) (d : BitVec 4) (b : BitVec 5) (t : BitVec 4) (k : BitVec 3) (l : BitVec 2) (sc : BitVec 4)
  /-- vst (R118): Vector store of active elements under a layout. -/
  | vst (iv : BitVec 2) (d : BitVec 4) (b : BitVec 5) (k : BitVec 3) (l : BitVec 2) (sc : BitVec 4)
  /-- vgather (R120): Long-latency gather of elements at base plus scaled indices. -/
  | vgather (iv : BitVec 2) (d : BitVec 4) (b : BitVec 5) (i : BitVec 4) (k : BitVec 3) (l : BitVec 2) (sc : BitVec 4)
  /-- vscatter (R120): Scatters elements to base plus scaled indices in increasing index. -/
  | vscatter (iv : BitVec 2) (d : BitVec 4) (b : BitVec 5) (i : BitVec 4) (k : BitVec 3) (l : BitVec 2) (sc : BitVec 4)
  /-- vdot (R121): Accumulates dot products of element groups into Vd, signed form. -/
  | vdot (iv : BitVec 2) (d a b : BitVec 4) (k : BitVec 3) (sc : BitVec 4)
  /-- vdot.n (R121): Accumulates int8 dot products, unsigned form. -/
  | vdotN (iv : BitVec 2) (d a b : BitVec 4) (k : BitVec 3) (sc : BitVec 4)
  /-- vcmul (R121): Complex multiply of c32 elements, each part rounded once. -/
  | vcmul (iv : BitVec 2) (d a b : BitVec 4) (k : BitVec 3) (sc : BitVec 4)
  /-- vbmax (R122): Writes the largest magnitude of each 32-element block. -/
  | vbmax (iv : BitVec 2) (d a : BitVec 4) (k : BitVec 3) (sc : BitVec 4)
  /-- vscale (R122): Sets the block scale bytes of a be4 or bi8 register. -/
  | vscale (iv : BitVec 2) (d a sc : BitVec 4)
  /-- vquant (R122): Quantises active elements into a block format under its scales. -/
  | vquant (iv : BitVec 2) (d a : BitVec 4) (k : BitVec 3) (sc : BitVec 4)
  /-- vrand (R123): Fills active elements with successive generator outputs. -/
  | vrand (iv : BitVec 2) (d : BitVec 4) (k : BitVec 3) (sc : BitVec 4)
  /-- vtag.set (R123): Copies a register with its scale field under a new tag. -/
  | vtagSet (iv : BitVec 2) (d a t sc : BitVec 4)
  /-- vtag.get (R123): Reads a register's tag or scale field into a scalar. -/
  | vtagGet (iv : BitVec 2) (d a : BitVec 4) (l : BitVec 1) (k : BitVec 3) (sc : BitVec 4)
  /-- kand (R124): ANDs two masks. -/
  | kand (iv : BitVec 2) (d a b : BitVec 3) (sc : BitVec 4)
  /-- kor (R124): ORs two masks. -/
  | kor (iv : BitVec 2) (d a b : BitVec 3) (sc : BitVec 4)
  /-- kxor (R124): XORs two masks. -/
  | kxor (iv : BitVec 2) (d a b : BitVec 3) (sc : BitVec 4)
  /-- knot (R124): Complements a mask. -/
  | knot (iv : BitVec 2) (d a : BitVec 3) (sc : BitVec 4)
  /-- kmov (R124): Copies a mask. -/
  | kmov (iv : BitVec 2) (d a : BitVec 3) (sc : BitVec 4)
  /-- kpop (R124): Counts set mask bits within the shape into a scalar. -/
  | kpop (iv : BitVec 2) (d : BitVec 4) (a : BitVec 3) (sc : BitVec 4)
  /-- kany (R124): Writes 1 if any mask bit within the shape is set. -/
  | kany (iv : BitVec 2) (d : BitVec 4) (a : BitVec 3) (b sc : BitVec 4)
  /-- kall (R124): Writes 1 if every mask bit within the shape is set. -/
  | kall (iv : BitVec 2) (d : BitVec 4) (a : BitVec 3) (b sc : BitVec 4)
  /-- kset (R124): Sets the low count bits of a mask and clears the rest. -/
  | kset (iv : BitVec 2) (d : BitVec 3) (h l sc : BitVec 4)
  /-- cp (R296): Places a guarded copy job in the quad's copy queue and writes its ticket. -/
  | cp (iv : BitVec 2) (d a b : BitVec 5) (q : BitVec 3) (sc : BitVec 4)
  /-- mm.bf16 (R299): Places a bf16 gang matrix job in the matrix queue. -/
  | mmBf16 (iv : BitVec 2) (d a : BitVec 5) (q : BitVec 3) (sc : BitVec 4)
  /-- mm.f16 (R299): Places an fp16 gang matrix job in the matrix queue. -/
  | mmF16 (iv : BitVec 2) (d a : BitVec 5) (q : BitVec 3) (sc : BitVec 4)
  /-- mm.e4m3 (R299): Places an e4m3 gang matrix job in the matrix queue. -/
  | mmE4m3 (iv : BitVec 2) (d a : BitVec 5) (q : BitVec 3) (sc : BitVec 4)
  /-- mm.e5m2 (R299): Places an e5m2 gang matrix job in the matrix queue. -/
  | mmE5m2 (iv : BitVec 2) (d a : BitVec 5) (q : BitVec 3) (sc : BitVec 4)
  /-- mm.i8 (R299): Places an int8 gang matrix job in the matrix queue. -/
  | mmI8 (iv : BitVec 2) (d a : BitVec 5) (q : BitVec 3) (sc : BitVec 4)
  /-- mm.tern (R299): Places a ternary gang matrix job in the matrix queue. -/
  | mmTern (iv : BitVec 2) (d a : BitVec 5) (q : BitVec 3) (sc : BitVec 4)
  /-- mm.f32 (R299): Places an fp32 gang matrix job in the matrix queue. -/
  | mmF32 (iv : BitVec 2) (d a : BitVec 5) (q : BitVec 3) (sc : BitVec 4)
  /-- mm.c32 (R299): Places a compensated complex gang matrix job in the matrix queue. -/
  | mmC32 (iv : BitVec 2) (d a : BitVec 5) (q : BitVec 3) (sc : BitVec 4)
  /-- mm.u (R281): Places an unfolding convolution gang matrix job in the matrix queue. -/
  | mmU (iv : BitVec 2) (d a : BitVec 5) (q : BitVec 3) (sc : BitVec 4)
  /-- acc.clr (R304): Queues an entry that zeroes an accumulator slice and sets its tag. -/
  | accClr (iv : BitVec 2) (d : BitVec 5) (z t : BitVec 4) (q : BitVec 3) (sc : BitVec 4)
  /-- acc.rd (R304): Long-latency read of one accumulator row into a vector register through the matrix queue. -/
  | accRd (iv : BitVec 2) (d z : BitVec 4) (r : BitVec 3) (sc : BitVec 4)
  /-- acc.rd.c32 (R304): Long-latency readout of a compensated c32 row into two vector registers. -/
  | accRdC32 (iv : BitVec 2) (d z : BitVec 4) (r : BitVec 3) (sc : BitVec 4)
  /-- acc.wr (R304): Writes a vector register into one accumulator row through the matrix queue. -/
  | accWr (iv : BitVec 2) (d z : BitVec 4) (r : BitVec 3) (sc : BitVec 4)
  /-- acc.wr.c32 (R304): Writes two c32 vector registers into a compensated accumulator row. -/
  | accWrC32 (iv : BitVec 2) (d z : BitVec 4) (r : BitVec 3) (sc : BitVec 4)
  /-- acc.st (R304): Queues a job storing an accumulator tile to memory. -/
  | accSt (iv : BitVec 2) (d a : BitVec 5) (z : BitVec 4) (q : BitVec 3) (sc : BitVec 4)
  /-- acc.st.c32 (R304): Queues a job storing the readout of a compensated c32 slice to memory. -/
  | accStC32 (iv : BitVec 2) (d a : BitVec 5) (z : BitVec 4) (q : BitVec 3) (sc : BitVec 4)
  /-- await (R305): Long-latency wait for a job to be final or its promise to be reached. -/
  | await (iv : BitVec 2) (d a : BitVec 5) (sc : BitVec 4)
  /-- await.x (R305): Long-latency wait for a job to be final, ignoring its promise. -/
  | awaitX (iv : BitVec 2) (d a : BitVec 5) (sc : BitVec 4)
  /-- jpoll (R305): Reads a job record's status as it stands. -/
  | jpoll (iv : BitVec 2) (d a : BitVec 5) (sc : BitVec 4)
  /-- jdrop (R305): Discards the strand's own queued, unstarted job and returns its status. -/
  | jdrop (iv : BitVec 2) (d a : BitVec 5) (sc : BitVec 4)
  /-- gset (R307): Makes a guard true or false according to G[a]. -/
  | gset (iv : BitVec 2) (a : BitVec 5) (q : BitVec 3) (sc : BitVec 4)
  /-- gclr (R307): Makes a guard unresolved. -/
  | gclr (iv : BitVec 2) (q : BitVec 3) (sc : BitVec 4)
  /-- sig.dec (R308): Places a guarded signal-decrement entry in the copy or matrix queue. -/
  | sigDec (iv : BitVec 2) (d a : BitVec 5) (n : BitVec 1) (q : BitVec 3) (sc : BitVec 4)
  /-- board (R309): Books a Round layer into an own-core scratchpad buffer and writes its ticket. -/
  | board (iv : BitVec 2) (d a b : BitVec 5) (sc : BitVec 4)
  /-- unboard (R310): Cancels one of the strand's bookings at the next frame boundary. -/
  | unboard (iv : BitVec 2) (a : BitVec 5) (sc : BitVec 4)
  /-- spawn (R176): Creates a full child strand of the same launch on a core of that launch. -/
  | spawn (iv : BitVec 2) (d a b : BitVec 5) (sc : BitVec 4)
  /-- spawn.l (R176): Creates a light child strand on the parent's core through its arrival queue. -/
  | spawnL (iv : BitVec 2) (d a b : BitVec 5) (sc : BitVec 4)
  /-- exit (R177): Ends the strand at its boundary. -/
  | exit (iv : BitVec 2) (sc : BitVec 4)
  /-- yield (R178): Gives up the strand's issue position as the yield mark does. -/
  | yield (iv : BitVec 2) (sc : BitVec 4)
  /-- migr (R179): Moves the light strand to the owner core of a line. -/
  | migr (iv : BitVec 2) (a : BitVec 5) (sc : BitVec 4)
  /-- land (R181): Sends a scalar value to a landing address. -/
  | land (iv : BitVec 2) (a b : BitVec 5) (sc : BitVec 4)
  /-- land.v (R181): Sends a vector register with tag and scale to a landing address. -/
  | landV (iv : BitVec 2) (a : BitVec 5) (b sc : BitVec 4)
  /-- lopen (R183): Opens a set of registers to landing. -/
  | lopen (iv : BitVec 2) (a : BitVec 5) (sc : BitVec 4)
  /-- lclose (R183): Closes a set of registers to landing, keeping arrival bits. -/
  | lclose (iv : BitVec 2) (a : BitVec 5) (sc : BitVec 4)
  /-- wait.l (R183): Returns and clears selected arrival bits, blocking while none is set and some is open. -/
  | waitL (iv : BitVec 2) (d a : BitVec 5) (sc : BitVec 4)
  /-- lclr (R183): Returns and clears selected arrival bits without waiting. -/
  | lclr (iv : BitVec 2) (d a : BitVec 5) (sc : BitVec 4)
  /-- umask (R185): Holds back urgent entry on the strand's core. -/
  | umask (iv : BitVec 2) (sc : BitVec 4)
  /-- unmask (R185): Ends the hold on urgent entry. -/
  | unmask (iv : BitVec 2) (sc : BitVec 4)
  /-- bar.quad (R188): Arrives at the quad's wired barrier and waits for release. -/
  | barQuad (iv : BitVec 2) (a : BitVec 5) (sc : BitVec 4)
  /-- bar.die (R188): Arrives at a die barrier context and waits for release. -/
  | barDie (iv : BitVec 2) (a : BitVec 5) (sc : BitVec 4)
  /-- bar.pkg (R188): Arrives at a package barrier context and waits for release. -/
  | barPkg (iv : BitVec 2) (a : BitVec 5) (sc : BitVec 4)
  /-- bar.pod (R188): Arrives at a pod barrier context and waits for release. -/
  | barPod (iv : BitVec 2) (a : BitVec 5) (sc : BitVec 4)
  /-- bmax.quad (R189): Offers an fp32 value at a quad barrier and receives the agreed largest magnitude. -/
  | bmaxQuad (iv : BitVec 2) (d a b : BitVec 5) (sc : BitVec 4)
  /-- bmax.die (R189): Offers an fp32 value at a die barrier and receives the agreed maximum. -/
  | bmaxDie (iv : BitVec 2) (d a b : BitVec 5) (sc : BitVec 4)
  /-- bmax.pkg (R189): Offers an fp32 value at a package barrier and receives the agreed maximum. -/
  | bmaxPkg (iv : BitVec 2) (d a b : BitVec 5) (sc : BitVec 4)
  /-- bmax.pod (R189): Offers an fp32 value at a pod barrier and receives the agreed maximum. -/
  | bmaxPod (iv : BitVec 2) (d a b : BitVec 5) (sc : BitVec 4)
  /-- gang (R190): Writes the strand's gang membership word. -/
  | gang (iv : BitVec 2) (d : BitVec 5) (sc : BitVec 4)
  /-- cpush (R193): Pushes a task record to the Creel domain under R159. -/
  | cpush (iv : BitVec 2) (a b : BitVec 5) (sc : BitVec 4)
  /-- cpop (R194): Retires the task and takes the head of the lowest eligible bucket in place. -/
  | cpop (iv : BitVec 2) (sc : BitVec 4)
  /-- cyield (R195): Turns the executing task back into a record and ends the strand. -/
  | cyield (iv : BitVec 2) (sc : BitVec 4)
  /-- cwait (R196): Waits until the Creel domain meets the termination condition. -/
  | cwait (iv : BitVec 2) (sc : BitVec 4)
  /-- msg (R197): Sends an active message that starts a handler strand on a target die. -/
  | msg (iv : BitVec 2) (a b : BitVec 5) (sc : BitVec 4)
  /-- sysc (R349): Writes a system-call entry to the die's ring or parks the caller. -/
  | sysc (iv : BitVec 2) (sc : BitVec 4)
  /-- trap (R348): Takes the precise trap TRAP_INSTR with tval G[a]. -/
  | trap (iv : BitVec 2) (a : BitVec 5) (sc : BitVec 4)
  /-- eret (R350): Returns from a handler to xpc and the saved mode. -/
  | eret (iv : BitVec 2) (sc : BitVec 4)
  /-- brk (R348): Takes the precise trap BREAKPOINT. -/
  | brk (iv : BitVec 2) (sc : BitVec 4)
  /-- halt (R351): Saves the strand as by pre-emption with stop set and reports it. -/
  | halt (iv : BitVec 2) (sc : BitVec 4)
  /-- mfs (R352): Reads a special register into G[d]. -/
  | mfs (iv : BitVec 2) (d n m : BitVec 5) (sc : BitVec 4)
  /-- mts (R352): Writes a special register from the d-field register with per-register checks. -/
  | mts (iv : BitVec 2) (d n m : BitVec 5) (sc : BitVec 4)
  /-- ctx.sv (R356): Copies a saved strand's frame to memory. -/
  | ctxSv (iv : BitVec 2) (a b : BitVec 5) (sc : BitVec 4)
  /-- ctx.ld (R356): Copies a frame from memory into a saved strand's save frame. -/
  | ctxLd (iv : BitVec 2) (a b : BitVec 5) (sc : BitVec 4)
  /-- preempt (R356): Requests pre-emption of a named strand. -/
  | preempt (iv : BitVec 2) (a : BitVec 5) (sc : BitVec 4)
  /-- resume (R356): Makes a saved strand ready, answering a pending call with G[b]. -/
  | resume (iv : BitVec 2) (a b : BitVec 5) (sc : BitVec 4)
  /-- xmap (R356): Writes an extent entry into a saved strand's record. -/
  | xmap (iv : BitVec 2) (a b : BitVec 5) (sc : BitVec 4)
  /-- hint (R25): Extension hint prepending 22 bits to the next instruction's immediate. -/
  | hintExtend (iv : BitVec 2) (d : BitVec 22)
  /-- hint (R70): Modifier hint carrying rounding, saturation, order, scope, cache or copy qualifiers. -/
  | hintModifier (iv : BitVec 2) (d : BitVec 22)
  /-- hint (R72): Schedule hint with no visible effect beyond its issue slot. -/
  | hintSchedule (iv : BitVec 2) (d : BitVec 22)
  /-- Event (R76): the oldest outstanding result of strand sid returns. -/
  | longLatencyResult (sid : Nat)
  /-- Event (R316): the head of strand sid's pending list is taken. -/
  | deferredFaultDelivery (sid : Nat)
  /-- Event (R131): a write of index to the notify register of queue q of partition p. -/
  | userQueueNotify (p q : Nat) (index : BitVec 64)
  /-- Event (R135): the packet processor takes the launch packet at the read index of queue q of partition p. -/
  | launchPacket (p q : Nat)
  /-- Event (R139): likewise a signal-operation packet. -/
  | signalOperationPacket (p q : Nat)
  /-- Event (R139): likewise a barrier-and packet. -/
  | barrierAndPacket (p q : Nat)
  /-- Event (R139): likewise a copy packet. -/
  | copyPacket (p q : Nat)
  /-- Event (R155): likewise a Creel seed packet. -/
  | creelSeedPacket (p q : Nat)
  /-- Event (R140): node enters the ready pool of its partition. -/
  | nodeReady (node : Nat)
  /-- Event (R141): the distributor dispatches the next strand or gang of a launch node. -/
  | launchDispatch (node : Nat)
  /-- Event (R145): the launch in slot completes. -/
  | launchComplete (slot : Nat)
  /-- Event (R136): the hub completes a finished node. -/
  | nodeComplete (node : Nat)
  /-- Event (R139): a barrier-and node finds every signal at its threshold. -/
  | barrierAndComplete (node : Nat)
  /-- Event (R274): the hub's copy engine finishes a copy node; hostError: a host-end beat meets a PCIe error. -/
  | copyPacketComplete (node : Nat) (hostError : Bool)
  /-- Event (R147): the head of the core's urgent queue enters the shadow bank. -/
  | urgentEntry (core : Nat)
  /-- Event (R148): the core's umask hold passes 512 cycles. -/
  | urgentMaskOverrun (core : Nat)
  /-- Event (R149): the core admits the oldest admissible light strand. -/
  | arrivalAdmit (core : Nat)
  /-- Event (R153): landing i in flight reaches the core it is routed to. -/
  | landingArrival (i : Nat)
  /-- Event (R330): landing i in flight reaches the landing agent it is routed to. -/
  | landingHeld (i : Nat)
  /-- Event (R182): refusal i in flight returns to its sender. -/
  | landingRefusalReturn (i : Nat)
  /-- Event (R329): acknowledgment i of a forwarded landing reaches the sending agent. -/
  | forwardAck (i : Nat)
  /-- Event (R329): the hub's note i of a new location reaches an agent. -/
  | locationUpdate (i : Nat)
  /-- Event (R160): the dies of partition p's Creel domain take their snapshot. -/
  | creelSnapshot (p : Nat)
  /-- Event (R160): the base published from the last snapshot takes effect. -/
  | creelPublication (p : Nat)
  /-- Event (R161): the core's die dispatches the head of its lowest eligible bucket to core. -/
  | creelDispatch (p core : Nat)
  /-- Event (R164): a waiting push of strand sid is placed. -/
  | cpushPlacement (sid : Nat)
  /-- Event (R164): a spill ring refills its eligible bucket on a die. -/
  | spillRingRefill (p die : Nat)
  /-- Event (R169): a wave of the pod domain of partition p, with the values of the other members. -/
  | creelWave (p : Nat) (part : WaveStep)
  /-- Event (R170): the record in a slot of a Creel receive window is complete. -/
  | creelIntakeRecord (p rx slot : Nat)
  /-- Event (R241): a waita whose watch fired reads again. -/
  | waitaReread (sid : Nat)
  /-- Event (R218): a waiting phase or fence.x completes. -/
  | phaseComplete (sid : Nat)
  /-- Event (R245): a waiting fence.r completes. -/
  | fenceRComplete (sid : Nat)
  /-- Event (R225): a waiting fence.a completes. -/
  | fenceAComplete (sid : Nat)
  /-- Event (R250): a waiting tag.set writes and logs its locks. -/
  | tagSetComplete (sid : Nat)
  /-- Event (R252): the translation engine answers the xreq of strand sid. -/
  | translationAnswer (sid : Nat)
  /-- Event (R205): the drained line at the head of the path from die src to die dst is written. -/
  | drainedLineArrival (src dst : Nat)
  /-- Event (R208): the access at the head of the path from die src to die dst is performed. -/
  | forwardedAccess (src dst : Nat)
  /-- Event (R209): all page counters halve and moves are scheduled. -/
  | counterHalving
  /-- Event (R210, R211): the migration engine copies the next line, with what the beat meets. -/
  | migrationCopy (beat : CopyOutcome)
  /-- Event (R210): the old owner switches the owner map. -/
  | migrationSwitch
  /-- Event (R210): every die has acknowledged the new map. -/
  | migrationRedirectEnd
  /-- Event (R269): the head of a queue (0 copy, 1 and 2 matrix) samples its guard. -/
  | queueHeadStart (quad queue : Nat)
  /-- Event (R247): a join leaves its queues. -/
  | joinRelease (quad join : Nat)
  /-- Event (R312): the running copy job of the quad performs its next beat. -/
  | copyBeat (quad : Nat) (hostError : Bool)
  /-- Event (R56): the running matrix job accumulates its next k-group. -/
  | matrixGroup (quad half : Nat)
  /-- Event (R264): the running job of a queue completes. -/
  | jobComplete (quad queue : Nat)
  /-- Event (R266): the running job of a queue is replayed. -/
  | jobReplay (quad queue : Nat)
  /-- Event (R305): the await of strand sid reaches its promise. -/
  | promiseMissed (sid : Nat)
  /-- Event (R286): a new lap of the Round begins. -/
  | roundLapStart
  /-- Event (R289): the next frame of the lap passes a station. -/
  | roundFrameArrival (station : Nat)
  /-- Event (R290): the hop into a station retransmits a frame. -/
  | hopRetransmit (station : Nat)
  /-- Event (R323): strand sid is cut at its boundary. -/
  | preemptionCut (sid : Nat)
  /-- Event (R323): the save of strand sid ends. -/
  | contextSaveComplete (sid : Nat)
  /-- Event (R328): strand sid is placed on core and restored. -/
  | strandResume (sid core : Nat)
  /-- Event (R333): the first parked caller's request enters a freed ring slot. -/
  | parkedCallEntry (p die : Nat)
  /-- Event (R362): message i in flight reaches its die's landing agent. -/
  | messageArrival (i : Nat)
  /-- Event (R362): the agent passes its first message to a handler core. -/
  | messageDispatch (die : Nat)
  /-- Event (R334): the host revokes a range of partition p. -/
  | hostRevocation (p : Nat) (base len : BitVec 64)
  /-- Event (R334): revocation i has been applied everywhere. -/
  | revocationComplete (i : Nat)
  /-- Event (R336): bight halts a die. -/
  | dieHalt (die : Nat)
  /-- Event (R358): bight pre-empts a strand. -/
  | bightPreempt (sid : Nat)
  /-- Event (R358): bight resumes a saved strand. -/
  | bightResume (sid : Nat)
  /-- Event (R400): bight steps a held strand by one unit. -/
  | singleStep (sid : Nat)
  /-- Event (R366): the power manager changes a die's operating point. -/
  | operatingPointChange (die : Nat) (point : BitVec 2)
  /-- Event (R366): the power manager changes a link's width. -/
  | linkWidthChange (die : Nat) (width : BitVec 2)
  /-- Event (R366): a retraining link resumes service. -/
  | linkRetrainComplete (die : Nat)
  /-- Event (R406): a die at 100 degrees is lowered by one operating point. -/
  | thermalStep (die : Nat)
  /-- Event (R406): a die below 90 degrees is raised by one operating point. -/
  | thermalRecovery (die : Nat)
  /-- Event (R406): a junction at 110 degrees for 10 ms shuts the package down. -/
  | thermalShutdown
  /-- Event (R367): a flit on a Poref link of partition p's port is replayed. -/
  | linkReplay (p port : Nat)
  /-- Event (R376): a reflected copy reaches this device. -/
  | reflectedCopyArrival (flit : Arrival)
  /-- Event (R254): the flag of an st.f is incremented at this device. -/
  | flagIncrement (flit : Arrival)
  /-- Event (R369): copy i sent is acknowledged as visible. -/
  | reflectionAck (flit : AckFlit)
  /-- Event (R369): the fabric manager changes a route. -/
  | routeTableWrite (dev : Nat) (entry : BitVec 16)
  /-- Event (R380): a peer's new incarnation becomes known. -/
  | incarnationAnnounce (peer : Nat) (inc : BitVec 16)
  /-- Event (R382): a pod barrier context takes a child's report or sends its own. -/
  | podBarrierReport (ctx : Nat) (child : Option (FlitHead × PodReport))
  /-- Event (R382): a pod barrier release reaches this device. -/
  | podBarrierRelease (ctx : Nat) (flit : ReleaseFlit)
  /-- Event (R389): a write to pctl of partition p by the host. -/
  | pctlWrite (p : Nat) (value : BitVec 64)
  /-- Event (R389): a host write to a configuration dword. -/
  | partitionConfigWrite (p offset : Nat) (value : BitVec 64)
  /-- Event (R371): a host write of a transmit entry. -/
  | transmitEntryWrite (p index : Nat) (dwords : List (BitVec 64))
  /-- Event (R397): the host writes a hardware queue's doorbell. -/
  | hwqDoorbell (p q : Nat) (value : BitVec 64)
  /-- Event (R397): the hub serves an outbound hardware queue. -/
  | hwqOutboundTransfer (p q : Nat)
  /-- Event (R397): the hub serves an inbound hardware queue. -/
  | hwqInboundTransfer (p q : Nat)
  /-- Event (R387): an AtomicOp request from the host. -/
  | hostAtomicOp (addr : BitVec 64)
  /-- Event (R398): the host writes zero to a counter. -/
  | counterClear (p counter : Nat)
  /-- Event (R399): a core samples one resident strand. -/
  | traceSample (core sid : Nat)
  /-- Event (R402): a write to the checkpoint register. -/
  | checkpointStart (base : BitVec 64)
  /-- Event (R402): the checkpoint writes its result word. -/
  | checkpointComplete
  /-- Event (R403): a model descriptor is given to the Round controller. -/
  | roundModelLoad (model : RoundModel)
  /-- Event (R287): a rate change is requested. -/
  | roundRateWrite (rate : BitVec 3)
  /-- Event (R404): a cold reset. -/
  | resetCold (image : BootImage)
  /-- Event (R404): a warm reset. -/
  | resetWarm (image : BootImage)
  /-- Event (R405): patrol scrubbing reads a line. -/
  | patrolScrub (line : Nat) (err : EccOutcome)
  /-- Event (R405): an error in an array. -/
  | eccError (site : EccSite)
  /-- Event (R336): bight ends the halt of a die. -/
  | dieHaltRelease (die : Nat)
  /-- Event (R358): bight continues a strand held at a stop. -/
  | bightContinue (sid : Nat)
  /-- Event (R387): a host port trains or loses training. -/
  | hostPortTraining (port : Nat) (up : Bool) (rate width : Nat)
  /-- Event (R404): the host writes a new boot image through the recovery page. -/
  | recoveryImageWrite (image : BootImage)
  /-- Event (R364): the debugger clears a core's delay table. -/
  | delayTableClear (core : Nat)
  deriving DecidableEq, Repr

end Sys2Proof
end

