-- ==== Sys2Proof/Decode.lean ====
section
/-!
DEFINITION. The decoder, total on 32-bit words and refusing by name (04 R59 to R74), and the encoder, written from the
same encoding tables of spec 04 and the instruction chapters.
-/
namespace Sys2Proof

/-- Why a word is no instruction (R74): check 1, check 2, or, for a word whose encoding is assigned, a field that must
be zero or an unlisted value of a fixed field (check 4; check 3 comes before it and looks only at the major). -/
inductive DecodeError where
  | illegalVersion
  | illegalInstruction
  | reservedField
  deriving DecidableEq, Repr

/-- Major 0x01 (R73). -/
def Decode.major01 (w : BitVec 32) : Except DecodeError Instr :=
  match (w.extractLsb' 4 5).toNat with
  | 0 => .ok (.add (w.extractLsb' 30 2) (w.extractLsb' 19 5) (w.extractLsb' 14 5) (w.extractLsb' 9 5) (w.extractLsb' 0 4))
  | 1 => .ok (.sub (w.extractLsb' 30 2) (w.extractLsb' 19 5) (w.extractLsb' 14 5) (w.extractLsb' 9 5) (w.extractLsb' 0 4))
  | 2 => .ok (.and (w.extractLsb' 30 2) (w.extractLsb' 19 5) (w.extractLsb' 14 5) (w.extractLsb' 9 5) (w.extractLsb' 0 4))
  | 3 => .ok (.or (w.extractLsb' 30 2) (w.extractLsb' 19 5) (w.extractLsb' 14 5) (w.extractLsb' 9 5) (w.extractLsb' 0 4))
  | 4 => .ok (.xor (w.extractLsb' 30 2) (w.extractLsb' 19 5) (w.extractLsb' 14 5) (w.extractLsb' 9 5) (w.extractLsb' 0 4))
  | 5 => .ok (.andn (w.extractLsb' 30 2) (w.extractLsb' 19 5) (w.extractLsb' 14 5) (w.extractLsb' 9 5) (w.extractLsb' 0 4))
  | 6 => .ok (.orn (w.extractLsb' 30 2) (w.extractLsb' 19 5) (w.extractLsb' 14 5) (w.extractLsb' 9 5) (w.extractLsb' 0 4))
  | 7 => .ok (.shl (w.extractLsb' 30 2) (w.extractLsb' 19 5) (w.extractLsb' 14 5) (w.extractLsb' 9 5) (w.extractLsb' 0 4))
  | 8 => .ok (.shr (w.extractLsb' 30 2) (w.extractLsb' 19 5) (w.extractLsb' 14 5) (w.extractLsb' 9 5) (w.extractLsb' 0 4))
  | 9 => .ok (.sra (w.extractLsb' 30 2) (w.extractLsb' 19 5) (w.extractLsb' 14 5) (w.extractLsb' 9 5) (w.extractLsb' 0 4))
  | 10 => .ok (.rot (w.extractLsb' 30 2) (w.extractLsb' 19 5) (w.extractLsb' 14 5) (w.extractLsb' 9 5) (w.extractLsb' 0 4))
  | 11 => .ok (.min (w.extractLsb' 30 2) (w.extractLsb' 19 5) (w.extractLsb' 14 5) (w.extractLsb' 9 5) (w.extractLsb' 0 4))
  | 12 => .ok (.max (w.extractLsb' 30 2) (w.extractLsb' 19 5) (w.extractLsb' 14 5) (w.extractLsb' 9 5) (w.extractLsb' 0 4))
  | 13 => .ok (.minn (w.extractLsb' 30 2) (w.extractLsb' 19 5) (w.extractLsb' 14 5) (w.extractLsb' 9 5) (w.extractLsb' 0 4))
  | 14 => .ok (.maxn (w.extractLsb' 30 2) (w.extractLsb' 19 5) (w.extractLsb' 14 5) (w.extractLsb' 9 5) (w.extractLsb' 0 4))
  | _ => .error .illegalInstruction

/-- Major 0x02 (R73). -/
def Decode.major02 (w : BitVec 32) : Except DecodeError Instr :=
  match (w.extractLsb' 4 5).toNat with
  | 0 => .ok (.mul (w.extractLsb' 30 2) (w.extractLsb' 19 5) (w.extractLsb' 14 5) (w.extractLsb' 9 5) (w.extractLsb' 0 4))
  | 1 => .ok (.mulh (w.extractLsb' 30 2) (w.extractLsb' 19 5) (w.extractLsb' 14 5) (w.extractLsb' 9 5) (w.extractLsb' 0 4))
  | 2 => .ok (.mulhn (w.extractLsb' 30 2) (w.extractLsb' 19 5) (w.extractLsb' 14 5) (w.extractLsb' 9 5) (w.extractLsb' 0 4))
  | 3 => .ok (.div (w.extractLsb' 30 2) (w.extractLsb' 19 5) (w.extractLsb' 14 5) (w.extractLsb' 9 5) (w.extractLsb' 0 4))
  | 4 => .ok (.divn (w.extractLsb' 30 2) (w.extractLsb' 19 5) (w.extractLsb' 14 5) (w.extractLsb' 9 5) (w.extractLsb' 0 4))
  | 5 => .ok (.rem (w.extractLsb' 30 2) (w.extractLsb' 19 5) (w.extractLsb' 14 5) (w.extractLsb' 9 5) (w.extractLsb' 0 4))
  | 6 => .ok (.remn (w.extractLsb' 30 2) (w.extractLsb' 19 5) (w.extractLsb' 14 5) (w.extractLsb' 9 5) (w.extractLsb' 0 4))
  | _ => .error .illegalInstruction

/-- Major 0x03 (R73). -/
def Decode.major03 (w : BitVec 32) : Except DecodeError Instr :=
  match (w.extractLsb' 4 5).toNat with
  | 0 => if (w.extractLsb' 9 5) == 0#5 then .ok (.clz (w.extractLsb' 30 2) (w.extractLsb' 19 5) (w.extractLsb' 14 5) (w.extractLsb' 0 4)) else .error .reservedField
  | 1 => if (w.extractLsb' 9 5) == 0#5 then .ok (.ctz (w.extractLsb' 30 2) (w.extractLsb' 19 5) (w.extractLsb' 14 5) (w.extractLsb' 0 4)) else .error .reservedField
  | 2 => if (w.extractLsb' 9 5) == 0#5 then .ok (.popc (w.extractLsb' 30 2) (w.extractLsb' 19 5) (w.extractLsb' 14 5) (w.extractLsb' 0 4)) else .error .reservedField
  | 3 => if (w.extractLsb' 9 5) == 0#5 then .ok (.bswap (w.extractLsb' 30 2) (w.extractLsb' 19 5) (w.extractLsb' 14 5) (w.extractLsb' 0 4)) else .error .reservedField
  | 4 => .ok (.bfx (w.extractLsb' 30 2) (w.extractLsb' 19 5) (w.extractLsb' 14 5) (w.extractLsb' 9 5) (w.extractLsb' 0 4))
  | 5 => .ok (.bfi (w.extractLsb' 30 2) (w.extractLsb' 19 5) (w.extractLsb' 14 5) (w.extractLsb' 9 5) (w.extractLsb' 0 4))
  | 6 => if (w.extractLsb' 9 5) == 0#5 then .ok (.sextB (w.extractLsb' 30 2) (w.extractLsb' 19 5) (w.extractLsb' 14 5) (w.extractLsb' 0 4)) else .error .reservedField
  | 7 => if (w.extractLsb' 9 5) == 0#5 then .ok (.sextH (w.extractLsb' 30 2) (w.extractLsb' 19 5) (w.extractLsb' 14 5) (w.extractLsb' 0 4)) else .error .reservedField
  | 8 => if (w.extractLsb' 9 5) == 0#5 then .ok (.sextW (w.extractLsb' 30 2) (w.extractLsb' 19 5) (w.extractLsb' 14 5) (w.extractLsb' 0 4)) else .error .reservedField
  | 9 => if (w.extractLsb' 9 5) == 0#5 then .ok (.zextB (w.extractLsb' 30 2) (w.extractLsb' 19 5) (w.extractLsb' 14 5) (w.extractLsb' 0 4)) else .error .reservedField
  | 10 => if (w.extractLsb' 9 5) == 0#5 then .ok (.zextH (w.extractLsb' 30 2) (w.extractLsb' 19 5) (w.extractLsb' 14 5) (w.extractLsb' 0 4)) else .error .reservedField
  | 11 => if (w.extractLsb' 9 5) == 0#5 then .ok (.zextW (w.extractLsb' 30 2) (w.extractLsb' 19 5) (w.extractLsb' 14 5) (w.extractLsb' 0 4)) else .error .reservedField
  | _ => .error .illegalInstruction

/-- Major 0x04 (R73). -/
def Decode.major04 (w : BitVec 32) : Except DecodeError Instr :=
  match (w.extractLsb' 4 5).toNat with
  | 0 => .ok (.cmpEq (w.extractLsb' 30 2) (w.extractLsb' 19 5) (w.extractLsb' 14 5) (w.extractLsb' 9 5) (w.extractLsb' 0 4))
  | 1 => .ok (.cmpNe (w.extractLsb' 30 2) (w.extractLsb' 19 5) (w.extractLsb' 14 5) (w.extractLsb' 9 5) (w.extractLsb' 0 4))
  | 2 => .ok (.cmpLt (w.extractLsb' 30 2) (w.extractLsb' 19 5) (w.extractLsb' 14 5) (w.extractLsb' 9 5) (w.extractLsb' 0 4))
  | 3 => .ok (.cmpLtn (w.extractLsb' 30 2) (w.extractLsb' 19 5) (w.extractLsb' 14 5) (w.extractLsb' 9 5) (w.extractLsb' 0 4))
  | 4 => .ok (.cmpLe (w.extractLsb' 30 2) (w.extractLsb' 19 5) (w.extractLsb' 14 5) (w.extractLsb' 9 5) (w.extractLsb' 0 4))
  | 5 => .ok (.cmpLen (w.extractLsb' 30 2) (w.extractLsb' 19 5) (w.extractLsb' 14 5) (w.extractLsb' 9 5) (w.extractLsb' 0 4))
  | 6 => .ok (.selNz (w.extractLsb' 30 2) (w.extractLsb' 19 5) (w.extractLsb' 14 5) (w.extractLsb' 9 5) (w.extractLsb' 0 4))
  | _ => .error .illegalInstruction

/-- Major 0x05 (R73). -/
def Decode.major05 (w : BitVec 32) : Except DecodeError Instr :=
  .ok (.addi (w.extractLsb' 30 2) (w.extractLsb' 19 5) (w.extractLsb' 14 5) (w.extractLsb' 4 10) (w.extractLsb' 0 4))

/-- Major 0x06 (R73). -/
def Decode.major06 (w : BitVec 32) : Except DecodeError Instr :=
  .ok (.andi (w.extractLsb' 30 2) (w.extractLsb' 19 5) (w.extractLsb' 14 5) (w.extractLsb' 4 10) (w.extractLsb' 0 4))

/-- Major 0x07 (R73). -/
def Decode.major07 (w : BitVec 32) : Except DecodeError Instr :=
  .ok (.ori (w.extractLsb' 30 2) (w.extractLsb' 19 5) (w.extractLsb' 14 5) (w.extractLsb' 4 10) (w.extractLsb' 0 4))

/-- Major 0x08 (R73). -/
def Decode.major08 (w : BitVec 32) : Except DecodeError Instr :=
  .ok (.xori (w.extractLsb' 30 2) (w.extractLsb' 19 5) (w.extractLsb' 14 5) (w.extractLsb' 4 10) (w.extractLsb' 0 4))

/-- Major 0x09 (R73). -/
def Decode.major09 (w : BitVec 32) : Except DecodeError Instr :=
  .ok (.muli (w.extractLsb' 30 2) (w.extractLsb' 19 5) (w.extractLsb' 14 5) (w.extractLsb' 4 10) (w.extractLsb' 0 4))

/-- Major 0x0A (R73). -/
def Decode.major0A (w : BitVec 32) : Except DecodeError Instr :=
  match (w.extractLsb' 12 2).toNat with
  | 0 => if (w.extractLsb' 10 2) == 0#2 then .ok (.shli (w.extractLsb' 30 2) (w.extractLsb' 19 5) (w.extractLsb' 14 5) (w.extractLsb' 4 6) (w.extractLsb' 0 4)) else .error .reservedField
  | 1 => if (w.extractLsb' 10 2) == 0#2 then .ok (.shri (w.extractLsb' 30 2) (w.extractLsb' 19 5) (w.extractLsb' 14 5) (w.extractLsb' 4 6) (w.extractLsb' 0 4)) else .error .reservedField
  | 2 => if (w.extractLsb' 10 2) == 0#2 then .ok (.srai (w.extractLsb' 30 2) (w.extractLsb' 19 5) (w.extractLsb' 14 5) (w.extractLsb' 4 6) (w.extractLsb' 0 4)) else .error .reservedField
  | 3 => if (w.extractLsb' 10 2) == 0#2 then .ok (.roti (w.extractLsb' 30 2) (w.extractLsb' 19 5) (w.extractLsb' 14 5) (w.extractLsb' 4 6) (w.extractLsb' 0 4)) else .error .reservedField
  | _ => .error .illegalInstruction

/-- Major 0x0B (R73). -/
def Decode.major0B (w : BitVec 32) : Except DecodeError Instr :=
  .ok (.cmpi (w.extractLsb' 30 2) (w.extractLsb' 19 5) (w.extractLsb' 14 5) (w.extractLsb' 11 3) (w.extractLsb' 4 7) (w.extractLsb' 0 4))

/-- Major 0x0C (R73). -/
def Decode.major0C (w : BitVec 32) : Except DecodeError Instr :=
  if (w.extractLsb' 14 5) == 0#5 then .ok (.ldLit (w.extractLsb' 30 2) (w.extractLsb' 19 5) (w.extractLsb' 4 10) (w.extractLsb' 0 4)) else .error .reservedField

/-- Major 0x0D (R73). -/
def Decode.major0D (w : BitVec 32) : Except DecodeError Instr :=
  .ok (.movi (w.extractLsb' 30 2) (w.extractLsb' 19 5) (w.extractLsb' 0 19))

/-- Major 0x0F (R73). -/
def Decode.major0F (w : BitVec 32) : Except DecodeError Instr :=
  match (w.extractLsb' 4 5).toNat with
  | 0 => .ok (.lea (w.extractLsb' 30 2) (w.extractLsb' 19 5) (w.extractLsb' 14 5) (w.extractLsb' 9 5) (w.extractLsb' 0 4))
  | 1 => .ok (.xkeySet (w.extractLsb' 30 2) (w.extractLsb' 19 5) (w.extractLsb' 14 5) (w.extractLsb' 9 5) (w.extractLsb' 0 4))
  | 2 => if (w.extractLsb' 9 5) == 0#5 then .ok (.xkeyGet (w.extractLsb' 30 2) (w.extractLsb' 19 5) (w.extractLsb' 14 5) (w.extractLsb' 0 4)) else .error .reservedField
  | _ => .error .illegalInstruction

/-- Major 0x10 (R73). -/
def Decode.major10 (w : BitVec 32) : Except DecodeError Instr :=
  if (w.extractLsb' 4 3) == 7#3 then .error .illegalInstruction else .ok (.ld (w.extractLsb' 30 2) (w.extractLsb' 19 5) (w.extractLsb' 14 5) (w.extractLsb' 7 7) (w.extractLsb' 4 3) (w.extractLsb' 0 4))

/-- Major 0x11 (R73). -/
def Decode.major11 (w : BitVec 32) : Except DecodeError Instr :=
  if (w.extractLsb' 4 3) == 7#3 then .error .illegalInstruction else .ok (.st (w.extractLsb' 30 2) (w.extractLsb' 19 5) (w.extractLsb' 14 5) (w.extractLsb' 7 7) (w.extractLsb' 4 3) (w.extractLsb' 0 4))

/-- Major 0x12 (R73). -/
def Decode.major12 (w : BitVec 32) : Except DecodeError Instr :=
  if (w.extractLsb' 4 3) == 7#3 then .error .illegalInstruction else .ok (.ldX (w.extractLsb' 30 2) (w.extractLsb' 19 5) (w.extractLsb' 14 5) (w.extractLsb' 9 5) (w.extractLsb' 7 2) (w.extractLsb' 4 3) (w.extractLsb' 0 4))

/-- Major 0x13 (R73). -/
def Decode.major13 (w : BitVec 32) : Except DecodeError Instr :=
  if (w.extractLsb' 4 3) == 7#3 then .error .illegalInstruction else .ok (.stX (w.extractLsb' 30 2) (w.extractLsb' 19 5) (w.extractLsb' 14 5) (w.extractLsb' 9 5) (w.extractLsb' 7 2) (w.extractLsb' 4 3) (w.extractLsb' 0 4))

/-- Major 0x14 (R73). -/
def Decode.major14 (w : BitVec 32) : Except DecodeError Instr :=
  if (w.extractLsb' 4 4) == 0#4 then .ok (.ldS (w.extractLsb' 30 2) (w.extractLsb' 19 5) (w.extractLsb' 14 5) (w.extractLsb' 11 3) (w.extractLsb' 9 2) (w.extractLsb' 8 1) (w.extractLsb' 0 4)) else .error .reservedField

/-- Major 0x15 (R73). -/
def Decode.major15 (w : BitVec 32) : Except DecodeError Instr :=
  if (w.extractLsb' 4 4) == 0#4 then .ok (.stS (w.extractLsb' 30 2) (w.extractLsb' 19 5) (w.extractLsb' 14 5) (w.extractLsb' 11 3) (w.extractLsb' 9 2) (w.extractLsb' 8 1) (w.extractLsb' 0 4)) else .error .reservedField

/-- Major 0x16 (R73). -/
def Decode.major16 (w : BitVec 32) : Except DecodeError Instr :=
  match (w.extractLsb' 4 4).toNat with
  | 0 => .ok (.amoAdd (w.extractLsb' 30 2) (w.extractLsb' 19 5) (w.extractLsb' 14 5) (w.extractLsb' 9 5) (w.extractLsb' 8 1) (w.extractLsb' 0 4))
  | 1 => .ok (.amoAnd (w.extractLsb' 30 2) (w.extractLsb' 19 5) (w.extractLsb' 14 5) (w.extractLsb' 9 5) (w.extractLsb' 8 1) (w.extractLsb' 0 4))
  | 2 => .ok (.amoOr (w.extractLsb' 30 2) (w.extractLsb' 19 5) (w.extractLsb' 14 5) (w.extractLsb' 9 5) (w.extractLsb' 8 1) (w.extractLsb' 0 4))
  | 3 => .ok (.amoXor (w.extractLsb' 30 2) (w.extractLsb' 19 5) (w.extractLsb' 14 5) (w.extractLsb' 9 5) (w.extractLsb' 8 1) (w.extractLsb' 0 4))
  | 4 => .ok (.amoMin (w.extractLsb' 30 2) (w.extractLsb' 19 5) (w.extractLsb' 14 5) (w.extractLsb' 9 5) (w.extractLsb' 8 1) (w.extractLsb' 0 4))
  | 5 => .ok (.amoMax (w.extractLsb' 30 2) (w.extractLsb' 19 5) (w.extractLsb' 14 5) (w.extractLsb' 9 5) (w.extractLsb' 8 1) (w.extractLsb' 0 4))
  | 6 => .ok (.amoMinn (w.extractLsb' 30 2) (w.extractLsb' 19 5) (w.extractLsb' 14 5) (w.extractLsb' 9 5) (w.extractLsb' 8 1) (w.extractLsb' 0 4))
  | 7 => .ok (.amoMaxn (w.extractLsb' 30 2) (w.extractLsb' 19 5) (w.extractLsb' 14 5) (w.extractLsb' 9 5) (w.extractLsb' 8 1) (w.extractLsb' 0 4))
  | 8 => .ok (.amoSwap (w.extractLsb' 30 2) (w.extractLsb' 19 5) (w.extractLsb' 14 5) (w.extractLsb' 9 5) (w.extractLsb' 8 1) (w.extractLsb' 0 4))
  | 9 => if (w.extractLsb' 8 1) == 0#1 then .ok (.amoFadd (w.extractLsb' 30 2) (w.extractLsb' 19 5) (w.extractLsb' 14 5) (w.extractLsb' 9 5) (w.extractLsb' 0 4)) else .error .illegalInstruction
  | _ => .error .illegalInstruction

/-- Major 0x17 (R73). -/
def Decode.major17 (w : BitVec 32) : Except DecodeError Instr :=
  match (w.extractLsb' 5 4).toNat with
  | 0 => .ok (.cas (w.extractLsb' 30 2) (w.extractLsb' 19 5) (w.extractLsb' 14 5) (w.extractLsb' 9 5) (w.extractLsb' 4 1) (w.extractLsb' 0 4))
  | _ => .error .illegalInstruction

/-- Major 0x18 (R73). -/
def Decode.major18 (w : BitVec 32) : Except DecodeError Instr :=
  match (w.extractLsb' 4 5).toNat with
  | 0 => .ok (.waita (w.extractLsb' 30 2) (w.extractLsb' 19 5) (w.extractLsb' 14 5) (w.extractLsb' 9 5) (w.extractLsb' 0 4))
  | 1 => if (w.extractLsb' 19 5) == 0#5 && (w.extractLsb' 9 5) == 0#5 then .ok (.wake (w.extractLsb' 30 2) (w.extractLsb' 14 5) (w.extractLsb' 0 4)) else .error .reservedField
  | _ => .error .illegalInstruction

/-- Major 0x19 (R73). -/
def Decode.major19 (w : BitVec 32) : Except DecodeError Instr :=
  match (w.extractLsb' 4 5).toNat with
  | 0 => if (w.extractLsb' 14 10) == 0#10 then .ok (.phase (w.extractLsb' 30 2) (w.extractLsb' 9 5) (w.extractLsb' 0 4)) else .error .reservedField
  | 1 => if (w.extractLsb' 9 15) == 0#15 then .ok (.fenceX (w.extractLsb' 30 2) (w.extractLsb' 0 4)) else .error .reservedField
  | 2 => if (w.extractLsb' 19 5) == 0#5 && (w.extractLsb' 9 5) == 0#5 then .ok (.fenceR (w.extractLsb' 30 2) (w.extractLsb' 14 5) (w.extractLsb' 0 4)) else .error .reservedField
  | 3 => if (w.extractLsb' 19 5) == 0#5 && (w.extractLsb' 9 5) == 0#5 then .ok (.fenceA (w.extractLsb' 30 2) (w.extractLsb' 14 5) (w.extractLsb' 0 4)) else .error .reservedField
  | 4 => if (w.extractLsb' 19 5) == 0#5 && (w.extractLsb' 9 5) == 0#5 then .ok (.qfence (w.extractLsb' 30 2) (w.extractLsb' 14 5) (w.extractLsb' 0 4)) else .error .reservedField
  | 5 => if (w.extractLsb' 9 15) == 0#15 then .ok (.ifence (w.extractLsb' 30 2) (w.extractLsb' 0 4)) else .error .reservedField
  | _ => .error .illegalInstruction

/-- Major 0x1A (R73). -/
def Decode.major1A (w : BitVec 32) : Except DecodeError Instr :=
  match (w.extractLsb' 4 5).toNat with
  | 0 => if (w.extractLsb' 19 5) == 0#5 then .ok (.tagSet (w.extractLsb' 30 2) (w.extractLsb' 14 5) (w.extractLsb' 9 5) (w.extractLsb' 0 4)) else .error .reservedField
  | 1 => if (w.extractLsb' 9 5) == 0#5 then .ok (.tagGet (w.extractLsb' 30 2) (w.extractLsb' 19 5) (w.extractLsb' 14 5) (w.extractLsb' 0 4)) else .error .reservedField
  | 2 => .ok (.xreq (w.extractLsb' 30 2) (w.extractLsb' 19 5) (w.extractLsb' 14 5) (w.extractLsb' 9 5) (w.extractLsb' 0 4))
  | 3 => if (w.extractLsb' 19 5) == 0#5 && (w.extractLsb' 9 5) == 0#5 then .ok (.xrel (w.extractLsb' 30 2) (w.extractLsb' 14 5) (w.extractLsb' 0 4)) else .error .reservedField
  | _ => .error .illegalInstruction

/-- Major 0x1B (R73). -/
def Decode.major1B (w : BitVec 32) : Except DecodeError Instr :=
  match (w.extractLsb' 5 4).toNat with
  | 0 => .ok (.stF (w.extractLsb' 30 2) (w.extractLsb' 19 5) (w.extractLsb' 14 5) (w.extractLsb' 9 5) (w.extractLsb' 4 1) (w.extractLsb' 0 4))
  | _ => .error .illegalInstruction

/-- Major 0x1C (R73). -/
def Decode.major1C (w : BitVec 32) : Except DecodeError Instr :=
  match (w.extractLsb' 16 3).toNat with
  | 6 => .ok (.dbnz (w.extractLsb' 30 2) (w.extractLsb' 19 5) (w.extractLsb' 0 16))
  | 7 => .error .illegalInstruction
  | _ => .ok (.bc (w.extractLsb' 30 2) (w.extractLsb' 19 5) (w.extractLsb' 16 3) (w.extractLsb' 0 16))

/-- Major 0x1D (R73). -/
def Decode.major1D (w : BitVec 32) : Except DecodeError Instr :=
  .ok (.b (w.extractLsb' 30 2) (w.extractLsb' 0 24))

/-- Major 0x1E (R73). -/
def Decode.major1E (w : BitVec 32) : Except DecodeError Instr :=
  .ok (.call (w.extractLsb' 30 2) (w.extractLsb' 0 24))

/-- Major 0x1F (R73). -/
def Decode.major1F (w : BitVec 32) : Except DecodeError Instr :=
  match (w.extractLsb' 4 5).toNat with
  | 0 => if (w.extractLsb' 19 5) == 0#5 && (w.extractLsb' 9 5) == 0#5 then .ok (.jr (w.extractLsb' 30 2) (w.extractLsb' 14 5) (w.extractLsb' 0 4)) else .error .reservedField
  | 1 => if (w.extractLsb' 19 5) == 0#5 && (w.extractLsb' 9 5) == 0#5 then .ok (.jrl (w.extractLsb' 30 2) (w.extractLsb' 14 5) (w.extractLsb' 0 4)) else .error .reservedField
  | 2 => if (w.extractLsb' 9 15) == 0#15 then .ok (.ret (w.extractLsb' 30 2) (w.extractLsb' 0 4)) else .error .reservedField
  | _ => .error .illegalInstruction

/-- Major 0x20 (R73). -/
def Decode.major20 (w : BitVec 32) : Except DecodeError Instr :=
  match (w.extractLsb' 4 5).toNat with
  | 0 => .ok (.vadd (w.extractLsb' 30 2) (w.extractLsb' 20 4) (w.extractLsb' 16 4) (w.extractLsb' 12 4) (w.extractLsb' 9 3) (w.extractLsb' 0 4))
  | 20 => .ok (.vaddN (w.extractLsb' 30 2) (w.extractLsb' 20 4) (w.extractLsb' 16 4) (w.extractLsb' 12 4) (w.extractLsb' 9 3) (w.extractLsb' 0 4))
  | 1 => .ok (.vsub (w.extractLsb' 30 2) (w.extractLsb' 20 4) (w.extractLsb' 16 4) (w.extractLsb' 12 4) (w.extractLsb' 9 3) (w.extractLsb' 0 4))
  | 21 => .ok (.vsubN (w.extractLsb' 30 2) (w.extractLsb' 20 4) (w.extractLsb' 16 4) (w.extractLsb' 12 4) (w.extractLsb' 9 3) (w.extractLsb' 0 4))
  | 2 => .ok (.vmul (w.extractLsb' 30 2) (w.extractLsb' 20 4) (w.extractLsb' 16 4) (w.extractLsb' 12 4) (w.extractLsb' 9 3) (w.extractLsb' 0 4))
  | 22 => .ok (.vmulN (w.extractLsb' 30 2) (w.extractLsb' 20 4) (w.extractLsb' 16 4) (w.extractLsb' 12 4) (w.extractLsb' 9 3) (w.extractLsb' 0 4))
  | 3 => .ok (.vfma (w.extractLsb' 30 2) (w.extractLsb' 20 4) (w.extractLsb' 16 4) (w.extractLsb' 12 4) (w.extractLsb' 9 3) (w.extractLsb' 0 4))
  | 4 => .ok (.vfms (w.extractLsb' 30 2) (w.extractLsb' 20 4) (w.extractLsb' 16 4) (w.extractLsb' 12 4) (w.extractLsb' 9 3) (w.extractLsb' 0 4))
  | 5 => .ok (.vmin (w.extractLsb' 30 2) (w.extractLsb' 20 4) (w.extractLsb' 16 4) (w.extractLsb' 12 4) (w.extractLsb' 9 3) (w.extractLsb' 0 4))
  | 17 => .ok (.vminN (w.extractLsb' 30 2) (w.extractLsb' 20 4) (w.extractLsb' 16 4) (w.extractLsb' 12 4) (w.extractLsb' 9 3) (w.extractLsb' 0 4))
  | 6 => .ok (.vmax (w.extractLsb' 30 2) (w.extractLsb' 20 4) (w.extractLsb' 16 4) (w.extractLsb' 12 4) (w.extractLsb' 9 3) (w.extractLsb' 0 4))
  | 18 => .ok (.vmaxN (w.extractLsb' 30 2) (w.extractLsb' 20 4) (w.extractLsb' 16 4) (w.extractLsb' 12 4) (w.extractLsb' 9 3) (w.extractLsb' 0 4))
  | 7 => if (w.extractLsb' 12 4) == 0#4 then .ok (.vabs (w.extractLsb' 30 2) (w.extractLsb' 20 4) (w.extractLsb' 16 4) (w.extractLsb' 9 3) (w.extractLsb' 0 4)) else .error .reservedField
  | 8 => if (w.extractLsb' 12 4) == 0#4 then .ok (.vneg (w.extractLsb' 30 2) (w.extractLsb' 20 4) (w.extractLsb' 16 4) (w.extractLsb' 9 3) (w.extractLsb' 0 4)) else .error .reservedField
  | 9 => .ok (.vand (w.extractLsb' 30 2) (w.extractLsb' 20 4) (w.extractLsb' 16 4) (w.extractLsb' 12 4) (w.extractLsb' 9 3) (w.extractLsb' 0 4))
  | 10 => .ok (.vor (w.extractLsb' 30 2) (w.extractLsb' 20 4) (w.extractLsb' 16 4) (w.extractLsb' 12 4) (w.extractLsb' 9 3) (w.extractLsb' 0 4))
  | 11 => .ok (.vxor (w.extractLsb' 30 2) (w.extractLsb' 20 4) (w.extractLsb' 16 4) (w.extractLsb' 12 4) (w.extractLsb' 9 3) (w.extractLsb' 0 4))
  | 12 => .ok (.vandn (w.extractLsb' 30 2) (w.extractLsb' 20 4) (w.extractLsb' 16 4) (w.extractLsb' 12 4) (w.extractLsb' 9 3) (w.extractLsb' 0 4))
  | 13 => .ok (.vshl (w.extractLsb' 30 2) (w.extractLsb' 20 4) (w.extractLsb' 16 4) (w.extractLsb' 12 4) (w.extractLsb' 9 3) (w.extractLsb' 0 4))
  | 14 => .ok (.vshr (w.extractLsb' 30 2) (w.extractLsb' 20 4) (w.extractLsb' 16 4) (w.extractLsb' 12 4) (w.extractLsb' 9 3) (w.extractLsb' 0 4))
  | 15 => .ok (.vsra (w.extractLsb' 30 2) (w.extractLsb' 20 4) (w.extractLsb' 16 4) (w.extractLsb' 12 4) (w.extractLsb' 9 3) (w.extractLsb' 0 4))
  | 16 => .ok (.vavg (w.extractLsb' 30 2) (w.extractLsb' 20 4) (w.extractLsb' 16 4) (w.extractLsb' 12 4) (w.extractLsb' 9 3) (w.extractLsb' 0 4))
  | 19 => .ok (.vavgN (w.extractLsb' 30 2) (w.extractLsb' 20 4) (w.extractLsb' 16 4) (w.extractLsb' 12 4) (w.extractLsb' 9 3) (w.extractLsb' 0 4))
  | _ => .error .illegalInstruction

/-- Major 0x21 (R73). -/
def Decode.major21 (w : BitVec 32) : Except DecodeError Instr :=
  match (w.extractLsb' 4 5).toNat with
  | 0 => if (w.extractLsb' 23 1) == 0#1 then .ok (.vcmpEq (w.extractLsb' 30 2) (w.extractLsb' 20 3) (w.extractLsb' 16 4) (w.extractLsb' 12 4) (w.extractLsb' 9 3) (w.extractLsb' 0 4)) else .error .reservedField
  | 1 => if (w.extractLsb' 23 1) == 0#1 then .ok (.vcmpNe (w.extractLsb' 30 2) (w.extractLsb' 20 3) (w.extractLsb' 16 4) (w.extractLsb' 12 4) (w.extractLsb' 9 3) (w.extractLsb' 0 4)) else .error .reservedField
  | 2 => if (w.extractLsb' 23 1) == 0#1 then .ok (.vcmpLt (w.extractLsb' 30 2) (w.extractLsb' 20 3) (w.extractLsb' 16 4) (w.extractLsb' 12 4) (w.extractLsb' 9 3) (w.extractLsb' 0 4)) else .error .reservedField
  | 18 => if (w.extractLsb' 23 1) == 0#1 then .ok (.vcmpLtN (w.extractLsb' 30 2) (w.extractLsb' 20 3) (w.extractLsb' 16 4) (w.extractLsb' 12 4) (w.extractLsb' 9 3) (w.extractLsb' 0 4)) else .error .reservedField
  | 3 => if (w.extractLsb' 23 1) == 0#1 then .ok (.vcmpLe (w.extractLsb' 30 2) (w.extractLsb' 20 3) (w.extractLsb' 16 4) (w.extractLsb' 12 4) (w.extractLsb' 9 3) (w.extractLsb' 0 4)) else .error .reservedField
  | 19 => if (w.extractLsb' 23 1) == 0#1 then .ok (.vcmpLeN (w.extractLsb' 30 2) (w.extractLsb' 20 3) (w.extractLsb' 16 4) (w.extractLsb' 12 4) (w.extractLsb' 9 3) (w.extractLsb' 0 4)) else .error .reservedField
  | 4 => if (w.extractLsb' 23 1) == 0#1 then .ok (.vcmpUnord (w.extractLsb' 30 2) (w.extractLsb' 20 3) (w.extractLsb' 16 4) (w.extractLsb' 12 4) (w.extractLsb' 9 3) (w.extractLsb' 0 4)) else .error .reservedField
  | _ => .error .illegalInstruction

/-- Major 0x22 (R73). -/
def Decode.major22 (w : BitVec 32) : Except DecodeError Instr :=
  match (w.extractLsb' 4 5).toNat with
  | 0 => .ok (.vsel (w.extractLsb' 30 2) (w.extractLsb' 20 4) (w.extractLsb' 16 4) (w.extractLsb' 12 4) (w.extractLsb' 9 3) (w.extractLsb' 0 4))
  | 1 => .ok (.vperm (w.extractLsb' 30 2) (w.extractLsb' 20 4) (w.extractLsb' 16 4) (w.extractLsb' 12 4) (w.extractLsb' 9 3) (w.extractLsb' 0 4))
  | 2 => if (w.extractLsb' 12 4) == 0#4 then .ok (.vtrn (w.extractLsb' 30 2) (w.extractLsb' 20 4) (w.extractLsb' 16 4) (w.extractLsb' 9 3) (w.extractLsb' 0 4)) else .error .reservedField
  | 3 => .ok (.vrowb (w.extractLsb' 30 2) (w.extractLsb' 20 4) (w.extractLsb' 16 4) (w.extractLsb' 12 4) (w.extractLsb' 9 3) (w.extractLsb' 0 4))
  | 4 => .ok (.vcolb (w.extractLsb' 30 2) (w.extractLsb' 20 4) (w.extractLsb' 16 4) (w.extractLsb' 12 4) (w.extractLsb' 9 3) (w.extractLsb' 0 4))
  | 5 => .ok (.vslide (w.extractLsb' 30 2) (w.extractLsb' 20 4) (w.extractLsb' 16 4) (w.extractLsb' 12 4) (w.extractLsb' 9 3) (w.extractLsb' 0 4))
  | _ => .error .illegalInstruction

/-- Major 0x23 (R73). -/
def Decode.major23 (w : BitVec 32) : Except DecodeError Instr :=
  match (w.extractLsb' 4 4).toNat with
  | 0 => if (w.extractLsb' 20 4) == 0#4 then .ok (.vredAddAll (w.extractLsb' 30 2) (w.extractLsb' 16 4) (w.extractLsb' 11 5) (w.extractLsb' 8 3) (w.extractLsb' 0 4)) else .error .reservedField
  | 1 => if (w.extractLsb' 20 4) == 0#4 then .ok (.vredMinAll (w.extractLsb' 30 2) (w.extractLsb' 16 4) (w.extractLsb' 11 5) (w.extractLsb' 8 3) (w.extractLsb' 0 4)) else .error .reservedField
  | 2 => if (w.extractLsb' 20 4) == 0#4 then .ok (.vredMaxAll (w.extractLsb' 30 2) (w.extractLsb' 16 4) (w.extractLsb' 11 5) (w.extractLsb' 8 3) (w.extractLsb' 0 4)) else .error .reservedField
  | 3 => if (w.extractLsb' 20 4) == 0#4 then .ok (.vredAndAll (w.extractLsb' 30 2) (w.extractLsb' 16 4) (w.extractLsb' 11 5) (w.extractLsb' 8 3) (w.extractLsb' 0 4)) else .error .reservedField
  | 4 => if (w.extractLsb' 20 4) == 0#4 then .ok (.vredOrAll (w.extractLsb' 30 2) (w.extractLsb' 16 4) (w.extractLsb' 11 5) (w.extractLsb' 8 3) (w.extractLsb' 0 4)) else .error .reservedField
  | 5 => if (w.extractLsb' 20 4) == 0#4 then .ok (.vredAmaxAll (w.extractLsb' 30 2) (w.extractLsb' 16 4) (w.extractLsb' 11 5) (w.extractLsb' 8 3) (w.extractLsb' 0 4)) else .error .reservedField
  | 6 => if (w.extractLsb' 20 4) == 0#4 then .ok (.vredMinNAll (w.extractLsb' 30 2) (w.extractLsb' 16 4) (w.extractLsb' 11 5) (w.extractLsb' 8 3) (w.extractLsb' 0 4)) else .error .reservedField
  | 7 => if (w.extractLsb' 20 4) == 0#4 then .ok (.vredMaxNAll (w.extractLsb' 30 2) (w.extractLsb' 16 4) (w.extractLsb' 11 5) (w.extractLsb' 8 3) (w.extractLsb' 0 4)) else .error .reservedField
  | 8 => if (w.extractLsb' 11 5) == 0#5 then .ok (.vredAddRow (w.extractLsb' 30 2) (w.extractLsb' 20 4) (w.extractLsb' 16 4) (w.extractLsb' 8 3) (w.extractLsb' 0 4)) else if (w.extractLsb' 11 5) == 1#5 then .ok (.vredAddCol (w.extractLsb' 30 2) (w.extractLsb' 20 4) (w.extractLsb' 16 4) (w.extractLsb' 8 3) (w.extractLsb' 0 4)) else .error .reservedField
  | 9 => if (w.extractLsb' 11 5) == 0#5 then .ok (.vredMinRow (w.extractLsb' 30 2) (w.extractLsb' 20 4) (w.extractLsb' 16 4) (w.extractLsb' 8 3) (w.extractLsb' 0 4)) else if (w.extractLsb' 11 5) == 1#5 then .ok (.vredMinCol (w.extractLsb' 30 2) (w.extractLsb' 20 4) (w.extractLsb' 16 4) (w.extractLsb' 8 3) (w.extractLsb' 0 4)) else .error .reservedField
  | 10 => if (w.extractLsb' 11 5) == 0#5 then .ok (.vredMaxRow (w.extractLsb' 30 2) (w.extractLsb' 20 4) (w.extractLsb' 16 4) (w.extractLsb' 8 3) (w.extractLsb' 0 4)) else if (w.extractLsb' 11 5) == 1#5 then .ok (.vredMaxCol (w.extractLsb' 30 2) (w.extractLsb' 20 4) (w.extractLsb' 16 4) (w.extractLsb' 8 3) (w.extractLsb' 0 4)) else .error .reservedField
  | 11 => if (w.extractLsb' 11 5) == 0#5 then .ok (.vredAndRow (w.extractLsb' 30 2) (w.extractLsb' 20 4) (w.extractLsb' 16 4) (w.extractLsb' 8 3) (w.extractLsb' 0 4)) else if (w.extractLsb' 11 5) == 1#5 then .ok (.vredAndCol (w.extractLsb' 30 2) (w.extractLsb' 20 4) (w.extractLsb' 16 4) (w.extractLsb' 8 3) (w.extractLsb' 0 4)) else .error .reservedField
  | 12 => if (w.extractLsb' 11 5) == 0#5 then .ok (.vredOrRow (w.extractLsb' 30 2) (w.extractLsb' 20 4) (w.extractLsb' 16 4) (w.extractLsb' 8 3) (w.extractLsb' 0 4)) else if (w.extractLsb' 11 5) == 1#5 then .ok (.vredOrCol (w.extractLsb' 30 2) (w.extractLsb' 20 4) (w.extractLsb' 16 4) (w.extractLsb' 8 3) (w.extractLsb' 0 4)) else .error .reservedField
  | 13 => if (w.extractLsb' 11 5) == 0#5 then .ok (.vredAmaxRow (w.extractLsb' 30 2) (w.extractLsb' 20 4) (w.extractLsb' 16 4) (w.extractLsb' 8 3) (w.extractLsb' 0 4)) else if (w.extractLsb' 11 5) == 1#5 then .ok (.vredAmaxCol (w.extractLsb' 30 2) (w.extractLsb' 20 4) (w.extractLsb' 16 4) (w.extractLsb' 8 3) (w.extractLsb' 0 4)) else .error .reservedField
  | 14 => if (w.extractLsb' 11 5) == 0#5 then .ok (.vredMinNRow (w.extractLsb' 30 2) (w.extractLsb' 20 4) (w.extractLsb' 16 4) (w.extractLsb' 8 3) (w.extractLsb' 0 4)) else if (w.extractLsb' 11 5) == 1#5 then .ok (.vredMinNCol (w.extractLsb' 30 2) (w.extractLsb' 20 4) (w.extractLsb' 16 4) (w.extractLsb' 8 3) (w.extractLsb' 0 4)) else .error .reservedField
  | 15 => if (w.extractLsb' 11 5) == 0#5 then .ok (.vredMaxNRow (w.extractLsb' 30 2) (w.extractLsb' 20 4) (w.extractLsb' 16 4) (w.extractLsb' 8 3) (w.extractLsb' 0 4)) else if (w.extractLsb' 11 5) == 1#5 then .ok (.vredMaxNCol (w.extractLsb' 30 2) (w.extractLsb' 20 4) (w.extractLsb' 16 4) (w.extractLsb' 8 3) (w.extractLsb' 0 4)) else .error .reservedField
  | _ => .error .illegalInstruction

/-- Major 0x24 (R73). -/
def Decode.major24 (w : BitVec 32) : Except DecodeError Instr :=
  match (w.extractLsb' 4 5).toNat with
  | 0 => .ok (.vcvt (w.extractLsb' 30 2) (w.extractLsb' 20 4) (w.extractLsb' 16 4) (w.extractLsb' 12 4) (w.extractLsb' 9 3) (w.extractLsb' 0 4))
  | 1 => .ok (.vcvtN (w.extractLsb' 30 2) (w.extractLsb' 20 4) (w.extractLsb' 16 4) (w.extractLsb' 12 4) (w.extractLsb' 9 3) (w.extractLsb' 0 4))
  | 2 => if (w.extractLsb' 9 3) == 0#3 then .ok (.vpack (w.extractLsb' 30 2) (w.extractLsb' 20 4) (w.extractLsb' 16 4) (w.extractLsb' 12 4) (w.extractLsb' 0 4)) else .error .reservedField
  | 3 => if (w.extractLsb' 9 7) == 8#7 then .ok (.vunpack (w.extractLsb' 30 2) (w.extractLsb' 20 4) (w.extractLsb' 16 4) (w.extractLsb' 0 4)) else .error .reservedField
  | 4 => .ok (.vsat (w.extractLsb' 30 2) (w.extractLsb' 20 4) (w.extractLsb' 16 4) (w.extractLsb' 12 4) (w.extractLsb' 9 3) (w.extractLsb' 0 4))
  | 5 => .ok (.vsatN (w.extractLsb' 30 2) (w.extractLsb' 20 4) (w.extractLsb' 16 4) (w.extractLsb' 12 4) (w.extractLsb' 9 3) (w.extractLsb' 0 4))
  | _ => .error .illegalInstruction

/-- Major 0x25 (R73). -/
def Decode.major25 (w : BitVec 32) : Except DecodeError Instr :=
  match (w.extractLsb' 4 5).toNat with
  | 0 => if (w.extractLsb' 12 4) == 0#4 then .ok (.vrcp (w.extractLsb' 30 2) (w.extractLsb' 20 4) (w.extractLsb' 16 4) (w.extractLsb' 9 3) (w.extractLsb' 0 4)) else .error .reservedField
  | 1 => if (w.extractLsb' 12 4) == 0#4 then .ok (.vrsq (w.extractLsb' 30 2) (w.extractLsb' 20 4) (w.extractLsb' 16 4) (w.extractLsb' 9 3) (w.extractLsb' 0 4)) else .error .reservedField
  | 2 => if (w.extractLsb' 12 4) == 0#4 then .ok (.vsqrt (w.extractLsb' 30 2) (w.extractLsb' 20 4) (w.extractLsb' 16 4) (w.extractLsb' 9 3) (w.extractLsb' 0 4)) else .error .reservedField
  | 3 => if (w.extractLsb' 12 4) == 0#4 then .ok (.vexp2 (w.extractLsb' 30 2) (w.extractLsb' 20 4) (w.extractLsb' 16 4) (w.extractLsb' 9 3) (w.extractLsb' 0 4)) else .error .reservedField
  | 4 => if (w.extractLsb' 12 4) == 0#4 then .ok (.vlog2 (w.extractLsb' 30 2) (w.extractLsb' 20 4) (w.extractLsb' 16 4) (w.extractLsb' 9 3) (w.extractLsb' 0 4)) else .error .reservedField
  | 5 => if (w.extractLsb' 12 4) == 0#4 then .ok (.vsinpi (w.extractLsb' 30 2) (w.extractLsb' 20 4) (w.extractLsb' 16 4) (w.extractLsb' 9 3) (w.extractLsb' 0 4)) else .error .reservedField
  | 6 => if (w.extractLsb' 12 4) == 0#4 then .ok (.vcospi (w.extractLsb' 30 2) (w.extractLsb' 20 4) (w.extractLsb' 16 4) (w.extractLsb' 9 3) (w.extractLsb' 0 4)) else .error .reservedField
  | 7 => if (w.extractLsb' 12 4) == 0#4 then .ok (.vtanh (w.extractLsb' 30 2) (w.extractLsb' 20 4) (w.extractLsb' 16 4) (w.extractLsb' 9 3) (w.extractLsb' 0 4)) else .error .reservedField
  | 8 => .ok (.vdiv (w.extractLsb' 30 2) (w.extractLsb' 20 4) (w.extractLsb' 16 4) (w.extractLsb' 12 4) (w.extractLsb' 9 3) (w.extractLsb' 0 4))
  | _ => .error .illegalInstruction

/-- Major 0x26 (R73). -/
def Decode.major26 (w : BitVec 32) : Except DecodeError Instr :=
  match (w.extractLsb' 4 4).toNat with
  | 0 => .ok (.vadds (w.extractLsb' 30 2) (w.extractLsb' 20 4) (w.extractLsb' 16 4) (w.extractLsb' 11 5) (w.extractLsb' 8 3) (w.extractLsb' 0 4))
  | 8 => .ok (.vaddsN (w.extractLsb' 30 2) (w.extractLsb' 20 4) (w.extractLsb' 16 4) (w.extractLsb' 11 5) (w.extractLsb' 8 3) (w.extractLsb' 0 4))
  | 1 => .ok (.vmuls (w.extractLsb' 30 2) (w.extractLsb' 20 4) (w.extractLsb' 16 4) (w.extractLsb' 11 5) (w.extractLsb' 8 3) (w.extractLsb' 0 4))
  | 9 => .ok (.vmulsN (w.extractLsb' 30 2) (w.extractLsb' 20 4) (w.extractLsb' 16 4) (w.extractLsb' 11 5) (w.extractLsb' 8 3) (w.extractLsb' 0 4))
  | 2 => .ok (.vfmas (w.extractLsb' 30 2) (w.extractLsb' 20 4) (w.extractLsb' 16 4) (w.extractLsb' 11 5) (w.extractLsb' 8 3) (w.extractLsb' 0 4))
  | 3 => if (w.extractLsb' 16 4) == 0#4 then .ok (.vbcast (w.extractLsb' 30 2) (w.extractLsb' 20 4) (w.extractLsb' 11 5) (w.extractLsb' 8 3) (w.extractLsb' 0 4)) else .error .reservedField
  | 4 => if (w.extractLsb' 20 4) == 0#4 then .ok (.vget (w.extractLsb' 30 2) (w.extractLsb' 16 4) (w.extractLsb' 11 5) (w.extractLsb' 8 3) (w.extractLsb' 0 4)) else .error .reservedField
  | 6 => if (w.extractLsb' 20 4) == 0#4 then .ok (.vgetN (w.extractLsb' 30 2) (w.extractLsb' 16 4) (w.extractLsb' 11 5) (w.extractLsb' 8 3) (w.extractLsb' 0 4)) else .error .reservedField
  | 5 => if (w.extractLsb' 16 4) == 0#4 then .ok (.vset (w.extractLsb' 30 2) (w.extractLsb' 20 4) (w.extractLsb' 11 5) (w.extractLsb' 8 3) (w.extractLsb' 0 4)) else .error .reservedField
  | _ => .error .illegalInstruction

/-- Major 0x27 (R73). -/
def Decode.major27 (w : BitVec 32) : Except DecodeError Instr :=
  match (w.extractLsb' 6 1).toNat with
  | 0 => if (w.extractLsb' 14 1) == 0#1 then .ok (.vld (w.extractLsb' 30 2) (w.extractLsb' 20 4) (w.extractLsb' 15 5) (w.extractLsb' 10 4) (w.extractLsb' 7 3) (w.extractLsb' 4 2) (w.extractLsb' 0 4)) else .error .reservedField
  | 1 => if (w.extractLsb' 10 5) == 0#5 then .ok (.vst (w.extractLsb' 30 2) (w.extractLsb' 20 4) (w.extractLsb' 15 5) (w.extractLsb' 7 3) (w.extractLsb' 4 2) (w.extractLsb' 0 4)) else .error .reservedField
  | _ => .error .illegalInstruction

/-- Major 0x28 (R73). -/
def Decode.major28 (w : BitVec 32) : Except DecodeError Instr :=
  match (w.extractLsb' 6 1).toNat with
  | 0 => if (w.extractLsb' 14 1) == 0#1 then .ok (.vgather (w.extractLsb' 30 2) (w.extractLsb' 20 4) (w.extractLsb' 15 5) (w.extractLsb' 10 4) (w.extractLsb' 7 3) (w.extractLsb' 4 2) (w.extractLsb' 0 4)) else .error .reservedField
  | 1 => if (w.extractLsb' 14 1) == 0#1 then .ok (.vscatter (w.extractLsb' 30 2) (w.extractLsb' 20 4) (w.extractLsb' 15 5) (w.extractLsb' 10 4) (w.extractLsb' 7 3) (w.extractLsb' 4 2) (w.extractLsb' 0 4)) else .error .reservedField
  | _ => .error .illegalInstruction

/-- Major 0x29 (R73). -/
def Decode.major29 (w : BitVec 32) : Except DecodeError Instr :=
  match (w.extractLsb' 4 5).toNat with
  | 0 => .ok (.vdot (w.extractLsb' 30 2) (w.extractLsb' 20 4) (w.extractLsb' 16 4) (w.extractLsb' 12 4) (w.extractLsb' 9 3) (w.extractLsb' 0 4))
  | 1 => .ok (.vdotN (w.extractLsb' 30 2) (w.extractLsb' 20 4) (w.extractLsb' 16 4) (w.extractLsb' 12 4) (w.extractLsb' 9 3) (w.extractLsb' 0 4))
  | 2 => .ok (.vcmul (w.extractLsb' 30 2) (w.extractLsb' 20 4) (w.extractLsb' 16 4) (w.extractLsb' 12 4) (w.extractLsb' 9 3) (w.extractLsb' 0 4))
  | _ => .error .illegalInstruction

/-- Major 0x2A (R73). -/
def Decode.major2A (w : BitVec 32) : Except DecodeError Instr :=
  match (w.extractLsb' 4 5).toNat with
  | 0 => if (w.extractLsb' 12 4) == 0#4 then .ok (.vbmax (w.extractLsb' 30 2) (w.extractLsb' 20 4) (w.extractLsb' 16 4) (w.extractLsb' 9 3) (w.extractLsb' 0 4)) else .error .reservedField
  | 1 => if (w.extractLsb' 9 7) == 0#7 then .ok (.vscale (w.extractLsb' 30 2) (w.extractLsb' 20 4) (w.extractLsb' 16 4) (w.extractLsb' 0 4)) else .error .reservedField
  | 2 => if (w.extractLsb' 12 4) == 0#4 then .ok (.vquant (w.extractLsb' 30 2) (w.extractLsb' 20 4) (w.extractLsb' 16 4) (w.extractLsb' 9 3) (w.extractLsb' 0 4)) else .error .reservedField
  | _ => .error .illegalInstruction

/-- Major 0x2B (R73). -/
def Decode.major2B (w : BitVec 32) : Except DecodeError Instr :=
  match (w.extractLsb' 4 5).toNat with
  | 0 => if (w.extractLsb' 12 8) == 0#8 then .ok (.vrand (w.extractLsb' 30 2) (w.extractLsb' 20 4) (w.extractLsb' 9 3) (w.extractLsb' 0 4)) else .error .reservedField
  | 1 => if (w.extractLsb' 9 3) == 0#3 then .ok (.vtagSet (w.extractLsb' 30 2) (w.extractLsb' 20 4) (w.extractLsb' 16 4) (w.extractLsb' 12 4) (w.extractLsb' 0 4)) else .error .reservedField
  | 2 => if (w.extractLsb' 13 3) == 0#3 then .ok (.vtagGet (w.extractLsb' 30 2) (w.extractLsb' 20 4) (w.extractLsb' 16 4) (w.extractLsb' 12 1) (w.extractLsb' 9 3) (w.extractLsb' 0 4)) else .error .reservedField
  | _ => .error .illegalInstruction

/-- Major 0x2C (R73). -/
def Decode.major2C (w : BitVec 32) : Except DecodeError Instr :=
  match (w.extractLsb' 4 5).toNat with
  | 0 => if (w.extractLsb' 23 1) == 0#1 && (w.extractLsb' 19 1) == 0#1 && (w.extractLsb' 15 1) == 0#1 && (w.extractLsb' 9 3) == 0#3 then .ok (.kand (w.extractLsb' 30 2) (w.extractLsb' 20 3) (w.extractLsb' 16 3) (w.extractLsb' 12 3) (w.extractLsb' 0 4)) else .error .reservedField
  | 1 => if (w.extractLsb' 23 1) == 0#1 && (w.extractLsb' 19 1) == 0#1 && (w.extractLsb' 15 1) == 0#1 && (w.extractLsb' 9 3) == 0#3 then .ok (.kor (w.extractLsb' 30 2) (w.extractLsb' 20 3) (w.extractLsb' 16 3) (w.extractLsb' 12 3) (w.extractLsb' 0 4)) else .error .reservedField
  | 2 => if (w.extractLsb' 23 1) == 0#1 && (w.extractLsb' 19 1) == 0#1 && (w.extractLsb' 15 1) == 0#1 && (w.extractLsb' 9 3) == 0#3 then .ok (.kxor (w.extractLsb' 30 2) (w.extractLsb' 20 3) (w.extractLsb' 16 3) (w.extractLsb' 12 3) (w.extractLsb' 0 4)) else .error .reservedField
  | 3 => if (w.extractLsb' 23 1) == 0#1 && (w.extractLsb' 19 1) == 0#1 && (w.extractLsb' 9 7) == 0#7 then .ok (.knot (w.extractLsb' 30 2) (w.extractLsb' 20 3) (w.extractLsb' 16 3) (w.extractLsb' 0 4)) else .error .reservedField
  | 4 => if (w.extractLsb' 23 1) == 0#1 && (w.extractLsb' 19 1) == 0#1 && (w.extractLsb' 9 7) == 0#7 then .ok (.kmov (w.extractLsb' 30 2) (w.extractLsb' 20 3) (w.extractLsb' 16 3) (w.extractLsb' 0 4)) else .error .reservedField
  | 5 => if (w.extractLsb' 19 1) == 0#1 && (w.extractLsb' 9 7) == 0#7 then .ok (.kpop (w.extractLsb' 30 2) (w.extractLsb' 20 4) (w.extractLsb' 16 3) (w.extractLsb' 0 4)) else .error .reservedField
  | 6 => if (w.extractLsb' 19 1) == 0#1 && (w.extractLsb' 9 3) == 0#3 then .ok (.kany (w.extractLsb' 30 2) (w.extractLsb' 20 4) (w.extractLsb' 16 3) (w.extractLsb' 12 4) (w.extractLsb' 0 4)) else .error .reservedField
  | 7 => if (w.extractLsb' 19 1) == 0#1 && (w.extractLsb' 9 3) == 0#3 then .ok (.kall (w.extractLsb' 30 2) (w.extractLsb' 20 4) (w.extractLsb' 16 3) (w.extractLsb' 12 4) (w.extractLsb' 0 4)) else .error .reservedField
  | 8 => if (w.extractLsb' 23 1) == 0#1 && (w.extractLsb' 9 3) == 0#3 then .ok (.kset (w.extractLsb' 30 2) (w.extractLsb' 20 3) (w.extractLsb' 16 4) (w.extractLsb' 12 4) (w.extractLsb' 0 4)) else .error .reservedField
  | _ => .error .illegalInstruction

/-- Major 0x30 (R73). -/
def Decode.major30 (w : BitVec 32) : Except DecodeError Instr :=
  match (w.extractLsb' 4 2).toNat with
  | 0 => .ok (.cp (w.extractLsb' 30 2) (w.extractLsb' 19 5) (w.extractLsb' 14 5) (w.extractLsb' 9 5) (w.extractLsb' 6 3) (w.extractLsb' 0 4))
  | _ => .error .illegalInstruction

/-- Major 0x31 (R73). -/
def Decode.major31 (w : BitVec 32) : Except DecodeError Instr :=
  if (w.extractLsb' 4 2) != 0#2 then .error .illegalInstruction else
  match (w.extractLsb' 9 5).toNat with
  | 0 => .ok (.mmBf16 (w.extractLsb' 30 2) (w.extractLsb' 19 5) (w.extractLsb' 14 5) (w.extractLsb' 6 3) (w.extractLsb' 0 4))
  | 1 => .ok (.mmF16 (w.extractLsb' 30 2) (w.extractLsb' 19 5) (w.extractLsb' 14 5) (w.extractLsb' 6 3) (w.extractLsb' 0 4))
  | 2 => .ok (.mmE4m3 (w.extractLsb' 30 2) (w.extractLsb' 19 5) (w.extractLsb' 14 5) (w.extractLsb' 6 3) (w.extractLsb' 0 4))
  | 3 => .ok (.mmE5m2 (w.extractLsb' 30 2) (w.extractLsb' 19 5) (w.extractLsb' 14 5) (w.extractLsb' 6 3) (w.extractLsb' 0 4))
  | 4 => .ok (.mmI8 (w.extractLsb' 30 2) (w.extractLsb' 19 5) (w.extractLsb' 14 5) (w.extractLsb' 6 3) (w.extractLsb' 0 4))
  | 5 => .ok (.mmTern (w.extractLsb' 30 2) (w.extractLsb' 19 5) (w.extractLsb' 14 5) (w.extractLsb' 6 3) (w.extractLsb' 0 4))
  | 6 => .ok (.mmF32 (w.extractLsb' 30 2) (w.extractLsb' 19 5) (w.extractLsb' 14 5) (w.extractLsb' 6 3) (w.extractLsb' 0 4))
  | 7 => .ok (.mmC32 (w.extractLsb' 30 2) (w.extractLsb' 19 5) (w.extractLsb' 14 5) (w.extractLsb' 6 3) (w.extractLsb' 0 4))
  | 8 => .ok (.mmU (w.extractLsb' 30 2) (w.extractLsb' 19 5) (w.extractLsb' 14 5) (w.extractLsb' 6 3) (w.extractLsb' 0 4))
  | _ => .error .illegalInstruction

/-- Major 0x32 (R73). -/
def Decode.major32 (w : BitVec 32) : Except DecodeError Instr :=
  match (w.extractLsb' 4 2).toNat with
  | 0 => if (w.extractLsb' 18 1) == 0#1 && (w.extractLsb' 13 1) == 0#1 then .ok (.accClr (w.extractLsb' 30 2) (w.extractLsb' 19 5) (w.extractLsb' 14 4) (w.extractLsb' 9 4) (w.extractLsb' 6 3) (w.extractLsb' 0 4)) else .error .reservedField
  | 1 => if (w.extractLsb' 23 1) == 0#1 && (w.extractLsb' 18 1) == 0#1 && (w.extractLsb' 13 1) == 0#1 && (w.extractLsb' 6 3) == 0#3 then (if (w.extractLsb' 12 1) == 1#1 then .ok (.accRdC32 (w.extractLsb' 30 2) (w.extractLsb' 19 4) (w.extractLsb' 14 4) (w.extractLsb' 9 3) (w.extractLsb' 0 4)) else .ok (.accRd (w.extractLsb' 30 2) (w.extractLsb' 19 4) (w.extractLsb' 14 4) (w.extractLsb' 9 3) (w.extractLsb' 0 4))) else .error .reservedField
  | 2 => if (w.extractLsb' 23 1) == 0#1 && (w.extractLsb' 18 1) == 0#1 && (w.extractLsb' 13 1) == 0#1 && (w.extractLsb' 6 3) == 0#3 then (if (w.extractLsb' 12 1) == 1#1 then .ok (.accWrC32 (w.extractLsb' 30 2) (w.extractLsb' 19 4) (w.extractLsb' 14 4) (w.extractLsb' 9 3) (w.extractLsb' 0 4)) else .ok (.accWr (w.extractLsb' 30 2) (w.extractLsb' 19 4) (w.extractLsb' 14 4) (w.extractLsb' 9 3) (w.extractLsb' 0 4))) else .error .reservedField
  | 3 => (if (w.extractLsb' 13 1) == 1#1 then .ok (.accStC32 (w.extractLsb' 30 2) (w.extractLsb' 19 5) (w.extractLsb' 14 5) (w.extractLsb' 9 4) (w.extractLsb' 6 3) (w.extractLsb' 0 4)) else .ok (.accSt (w.extractLsb' 30 2) (w.extractLsb' 19 5) (w.extractLsb' 14 5) (w.extractLsb' 9 4) (w.extractLsb' 6 3) (w.extractLsb' 0 4)))
  | _ => .error .illegalInstruction

/-- Major 0x33 (R73). -/
def Decode.major33 (w : BitVec 32) : Except DecodeError Instr :=
  match (w.extractLsb' 4 2).toNat with
  | 0 => if (w.extractLsb' 6 8) == 0#8 then .ok (.await (w.extractLsb' 30 2) (w.extractLsb' 19 5) (w.extractLsb' 14 5) (w.extractLsb' 0 4)) else .error .reservedField
  | 1 => if (w.extractLsb' 6 8) == 0#8 then .ok (.awaitX (w.extractLsb' 30 2) (w.extractLsb' 19 5) (w.extractLsb' 14 5) (w.extractLsb' 0 4)) else .error .reservedField
  | 2 => if (w.extractLsb' 6 8) == 0#8 then .ok (.jpoll (w.extractLsb' 30 2) (w.extractLsb' 19 5) (w.extractLsb' 14 5) (w.extractLsb' 0 4)) else .error .reservedField
  | 3 => if (w.extractLsb' 6 8) == 0#8 then .ok (.jdrop (w.extractLsb' 30 2) (w.extractLsb' 19 5) (w.extractLsb' 14 5) (w.extractLsb' 0 4)) else .error .reservedField
  | _ => .error .illegalInstruction

/-- Major 0x34 (R73). -/
def Decode.major34 (w : BitVec 32) : Except DecodeError Instr :=
  match (w.extractLsb' 4 2).toNat with
  | 0 => if (w.extractLsb' 19 5) == 0#5 && (w.extractLsb' 9 5) == 0#5 then .ok (.gset (w.extractLsb' 30 2) (w.extractLsb' 14 5) (w.extractLsb' 6 3) (w.extractLsb' 0 4)) else .error .reservedField
  | 1 => if (w.extractLsb' 9 15) == 0#15 then .ok (.gclr (w.extractLsb' 30 2) (w.extractLsb' 6 3) (w.extractLsb' 0 4)) else .error .reservedField
  | 2 => if (w.extractLsb' 10 4) == 0#4 then .ok (.sigDec (w.extractLsb' 30 2) (w.extractLsb' 19 5) (w.extractLsb' 14 5) (w.extractLsb' 9 1) (w.extractLsb' 6 3) (w.extractLsb' 0 4)) else .error .reservedField
  | _ => .error .illegalInstruction

/-- Major 0x35 (R73). -/
def Decode.major35 (w : BitVec 32) : Except DecodeError Instr :=
  match (w.extractLsb' 4 2).toNat with
  | 0 => if (w.extractLsb' 6 3) == 0#3 then .ok (.board (w.extractLsb' 30 2) (w.extractLsb' 19 5) (w.extractLsb' 14 5) (w.extractLsb' 9 5) (w.extractLsb' 0 4)) else .error .reservedField
  | 1 => if (w.extractLsb' 19 5) == 0#5 && (w.extractLsb' 6 8) == 0#8 then .ok (.unboard (w.extractLsb' 30 2) (w.extractLsb' 14 5) (w.extractLsb' 0 4)) else .error .reservedField
  | _ => .error .illegalInstruction

/-- Major 0x36 (R73). -/
def Decode.major36 (w : BitVec 32) : Except DecodeError Instr :=
  match (w.extractLsb' 4 5).toNat with
  | 0 => .ok (.spawn (w.extractLsb' 30 2) (w.extractLsb' 19 5) (w.extractLsb' 14 5) (w.extractLsb' 9 5) (w.extractLsb' 0 4))
  | 1 => .ok (.spawnL (w.extractLsb' 30 2) (w.extractLsb' 19 5) (w.extractLsb' 14 5) (w.extractLsb' 9 5) (w.extractLsb' 0 4))
  | 2 => if (w.extractLsb' 9 15) == 0#15 then .ok (.exit (w.extractLsb' 30 2) (w.extractLsb' 0 4)) else .error .reservedField
  | 3 => if (w.extractLsb' 9 15) == 0#15 then .ok (.yield (w.extractLsb' 30 2) (w.extractLsb' 0 4)) else .error .reservedField
  | 4 => if (w.extractLsb' 19 5) == 0#5 && (w.extractLsb' 9 5) == 0#5 then .ok (.migr (w.extractLsb' 30 2) (w.extractLsb' 14 5) (w.extractLsb' 0 4)) else .error .reservedField
  | _ => .error .illegalInstruction

/-- Major 0x37 (R73). -/
def Decode.major37 (w : BitVec 32) : Except DecodeError Instr :=
  match (w.extractLsb' 4 5).toNat with
  | 0 => if (w.extractLsb' 19 5) == 0#5 then .ok (.land (w.extractLsb' 30 2) (w.extractLsb' 14 5) (w.extractLsb' 9 5) (w.extractLsb' 0 4)) else .error .reservedField
  | 1 => if (w.extractLsb' 19 5) == 0#5 && (w.extractLsb' 13 1) == 0#1 then .ok (.landV (w.extractLsb' 30 2) (w.extractLsb' 14 5) (w.extractLsb' 9 4) (w.extractLsb' 0 4)) else .error .reservedField
  | 2 => if (w.extractLsb' 19 5) == 0#5 && (w.extractLsb' 9 5) == 0#5 then .ok (.lopen (w.extractLsb' 30 2) (w.extractLsb' 14 5) (w.extractLsb' 0 4)) else .error .reservedField
  | 3 => if (w.extractLsb' 19 5) == 0#5 && (w.extractLsb' 9 5) == 0#5 then .ok (.lclose (w.extractLsb' 30 2) (w.extractLsb' 14 5) (w.extractLsb' 0 4)) else .error .reservedField
  | 4 => if (w.extractLsb' 9 5) == 0#5 then .ok (.waitL (w.extractLsb' 30 2) (w.extractLsb' 19 5) (w.extractLsb' 14 5) (w.extractLsb' 0 4)) else .error .reservedField
  | 5 => if (w.extractLsb' 9 5) == 0#5 then .ok (.lclr (w.extractLsb' 30 2) (w.extractLsb' 19 5) (w.extractLsb' 14 5) (w.extractLsb' 0 4)) else .error .reservedField
  | 6 => if (w.extractLsb' 9 15) == 0#15 then .ok (.umask (w.extractLsb' 30 2) (w.extractLsb' 0 4)) else .error .reservedField
  | 7 => if (w.extractLsb' 9 15) == 0#15 then .ok (.unmask (w.extractLsb' 30 2) (w.extractLsb' 0 4)) else .error .reservedField
  | _ => .error .illegalInstruction

/-- Major 0x38 (R73). -/
noncomputable def Decode.major38 (w : BitVec 32) : Except DecodeError Instr :=
  match (w.extractLsb' 4 5).toNat with
  | 0 => if (w.extractLsb' 19 5) == 0#5 && (w.extractLsb' 9 5) == 0#5 then .ok (.barQuad (w.extractLsb' 30 2) (w.extractLsb' 14 5) (w.extractLsb' 0 4)) else .error .reservedField
  | 1 => if (w.extractLsb' 19 5) == 0#5 && (w.extractLsb' 9 5) == 0#5 then .ok (.barDie (w.extractLsb' 30 2) (w.extractLsb' 14 5) (w.extractLsb' 0 4)) else .error .reservedField
  | 2 => if (w.extractLsb' 19 5) == 0#5 && (w.extractLsb' 9 5) == 0#5 then .ok (.barPkg (w.extractLsb' 30 2) (w.extractLsb' 14 5) (w.extractLsb' 0 4)) else .error .reservedField
  | 3 => if (w.extractLsb' 19 5) == 0#5 && (w.extractLsb' 9 5) == 0#5 then .ok (.barPod (w.extractLsb' 30 2) (w.extractLsb' 14 5) (w.extractLsb' 0 4)) else .error .reservedField
  | 4 => .ok (.bmaxQuad (w.extractLsb' 30 2) (w.extractLsb' 19 5) (w.extractLsb' 14 5) (w.extractLsb' 9 5) (w.extractLsb' 0 4))
  | 5 => .ok (.bmaxDie (w.extractLsb' 30 2) (w.extractLsb' 19 5) (w.extractLsb' 14 5) (w.extractLsb' 9 5) (w.extractLsb' 0 4))
  | 6 => .ok (.bmaxPkg (w.extractLsb' 30 2) (w.extractLsb' 19 5) (w.extractLsb' 14 5) (w.extractLsb' 9 5) (w.extractLsb' 0 4))
  | 7 => .ok (.bmaxPod (w.extractLsb' 30 2) (w.extractLsb' 19 5) (w.extractLsb' 14 5) (w.extractLsb' 9 5) (w.extractLsb' 0 4))
  | 8 => if (w.extractLsb' 9 10) == 0#10 then .ok (.gang (w.extractLsb' 30 2) (w.extractLsb' 19 5) (w.extractLsb' 0 4)) else .error .reservedField
  | _ => .error .illegalInstruction

/-- Major 0x39 (R73). -/
noncomputable def Decode.major39 (w : BitVec 32) : Except DecodeError Instr :=
  match (w.extractLsb' 4 5).toNat with
  | 0 => if (w.extractLsb' 19 5) == 0#5 then .ok (.cpush (w.extractLsb' 30 2) (w.extractLsb' 14 5) (w.extractLsb' 9 5) (w.extractLsb' 0 4)) else .error .reservedField
  | 1 => if (w.extractLsb' 9 15) == 0#15 then .ok (.cpop (w.extractLsb' 30 2) (w.extractLsb' 0 4)) else .error .reservedField
  | 2 => if (w.extractLsb' 9 15) == 0#15 then .ok (.cyield (w.extractLsb' 30 2) (w.extractLsb' 0 4)) else .error .reservedField
  | 3 => if (w.extractLsb' 9 15) == 0#15 then .ok (.cwait (w.extractLsb' 30 2) (w.extractLsb' 0 4)) else .error .reservedField
  | _ => .error .illegalInstruction

/-- Major 0x3A (R73). -/
noncomputable def Decode.major3A (w : BitVec 32) : Except DecodeError Instr :=
  match (w.extractLsb' 4 5).toNat with
  | 0 => if (w.extractLsb' 19 5) == 0#5 then .ok (.msg (w.extractLsb' 30 2) (w.extractLsb' 14 5) (w.extractLsb' 9 5) (w.extractLsb' 0 4)) else .error .reservedField
  | _ => .error .illegalInstruction

/-- Major 0x3C (R73). -/
noncomputable def Decode.major3C (w : BitVec 32) : Except DecodeError Instr :=
  match (w.extractLsb' 4 5).toNat with
  | 0 => if (w.extractLsb' 9 15) == 0#15 then .ok (.sysc (w.extractLsb' 30 2) (w.extractLsb' 0 4)) else .error .reservedField
  | 1 => if (w.extractLsb' 19 5) == 0#5 && (w.extractLsb' 9 5) == 0#5 then .ok (.trap (w.extractLsb' 30 2) (w.extractLsb' 14 5) (w.extractLsb' 0 4)) else .error .reservedField
  | 2 => if (w.extractLsb' 9 15) == 0#15 then .ok (.eret (w.extractLsb' 30 2) (w.extractLsb' 0 4)) else .error .reservedField
  | 3 => if (w.extractLsb' 9 15) == 0#15 then .ok (.brk (w.extractLsb' 30 2) (w.extractLsb' 0 4)) else .error .reservedField
  | 4 => if (w.extractLsb' 9 15) == 0#15 then .ok (.halt (w.extractLsb' 30 2) (w.extractLsb' 0 4)) else .error .reservedField
  | _ => .error .illegalInstruction

/-- Major 0x3D (R73). -/
noncomputable def Decode.major3D (w : BitVec 32) : Except DecodeError Instr :=
  match (w.extractLsb' 4 5).toNat with
  | 0 => .ok (.mfs (w.extractLsb' 30 2) (w.extractLsb' 19 5) (w.extractLsb' 14 5) (w.extractLsb' 9 5) (w.extractLsb' 0 4))
  | 1 => .ok (.mts (w.extractLsb' 30 2) (w.extractLsb' 19 5) (w.extractLsb' 14 5) (w.extractLsb' 9 5) (w.extractLsb' 0 4))
  | _ => .error .illegalInstruction

/-- Major 0x3E (R73). -/
noncomputable def Decode.major3E (w : BitVec 32) : Except DecodeError Instr :=
  match (w.extractLsb' 4 5).toNat with
  | 0 => if (w.extractLsb' 19 5) == 0#5 then .ok (.ctxSv (w.extractLsb' 30 2) (w.extractLsb' 14 5) (w.extractLsb' 9 5) (w.extractLsb' 0 4)) else .error .reservedField
  | 1 => if (w.extractLsb' 19 5) == 0#5 then .ok (.ctxLd (w.extractLsb' 30 2) (w.extractLsb' 14 5) (w.extractLsb' 9 5) (w.extractLsb' 0 4)) else .error .reservedField
  | 2 => if (w.extractLsb' 19 5) == 0#5 && (w.extractLsb' 9 5) == 0#5 then .ok (.preempt (w.extractLsb' 30 2) (w.extractLsb' 14 5) (w.extractLsb' 0 4)) else .error .reservedField
  | 3 => if (w.extractLsb' 19 5) == 0#5 then .ok (.resume (w.extractLsb' 30 2) (w.extractLsb' 14 5) (w.extractLsb' 9 5) (w.extractLsb' 0 4)) else .error .reservedField
  | 4 => if (w.extractLsb' 19 5) == 0#5 then .ok (.xmap (w.extractLsb' 30 2) (w.extractLsb' 14 5) (w.extractLsb' 9 5) (w.extractLsb' 0 4)) else .error .reservedField
  | _ => .error .illegalInstruction

/-- Major 0x3F (R73). -/
noncomputable def Decode.major3F (w : BitVec 32) : Except DecodeError Instr :=
  match (w.extractLsb' 22 2).toNat with
  | 0 => .ok (.hintExtend (w.extractLsb' 30 2) (w.extractLsb' 0 22))
  | 1 => .ok (.hintModifier (w.extractLsb' 30 2) (w.extractLsb' 0 22))
  | 2 => .ok (.hintSchedule (w.extractLsb' 30 2) (w.extractLsb' 0 22))
  | _ => .error .illegalInstruction

/-- The instruction that a word encodes, or why it is none (R59, R73, R74 checks 1 and 2, R61). -/
noncomputable def decode (w : BitVec 32) : Except DecodeError Instr :=
  if (w.extractLsb' 31 1) == 1#1 then .error .illegalVersion else
  match (w.extractLsb' 24 6).toNat with
  | 0x01 => Decode.major01 w
  | 0x02 => Decode.major02 w
  | 0x03 => Decode.major03 w
  | 0x04 => Decode.major04 w
  | 0x05 => Decode.major05 w
  | 0x06 => Decode.major06 w
  | 0x07 => Decode.major07 w
  | 0x08 => Decode.major08 w
  | 0x09 => Decode.major09 w
  | 0x0A => Decode.major0A w
  | 0x0B => Decode.major0B w
  | 0x0C => Decode.major0C w
  | 0x0D => Decode.major0D w
  | 0x0F => Decode.major0F w
  | 0x10 => Decode.major10 w
  | 0x11 => Decode.major11 w
  | 0x12 => Decode.major12 w
  | 0x13 => Decode.major13 w
  | 0x14 => Decode.major14 w
  | 0x15 => Decode.major15 w
  | 0x16 => Decode.major16 w
  | 0x17 => Decode.major17 w
  | 0x18 => Decode.major18 w
  | 0x19 => Decode.major19 w
  | 0x1A => Decode.major1A w
  | 0x1B => Decode.major1B w
  | 0x1C => Decode.major1C w
  | 0x1D => Decode.major1D w
  | 0x1E => Decode.major1E w
  | 0x1F => Decode.major1F w
  | 0x20 => Decode.major20 w
  | 0x21 => Decode.major21 w
  | 0x22 => Decode.major22 w
  | 0x23 => Decode.major23 w
  | 0x24 => Decode.major24 w
  | 0x25 => Decode.major25 w
  | 0x26 => Decode.major26 w
  | 0x27 => Decode.major27 w
  | 0x28 => Decode.major28 w
  | 0x29 => Decode.major29 w
  | 0x2A => Decode.major2A w
  | 0x2B => Decode.major2B w
  | 0x2C => Decode.major2C w
  | 0x30 => Decode.major30 w
  | 0x31 => Decode.major31 w
  | 0x32 => Decode.major32 w
  | 0x33 => Decode.major33 w
  | 0x34 => Decode.major34 w
  | 0x35 => Decode.major35 w
  | 0x36 => Decode.major36 w
  | 0x37 => Decode.major37 w
  | 0x38 => Decode.major38 w
  | 0x39 => Decode.major39 w
  | 0x3A => Decode.major3A w
  | 0x3C => Decode.major3C w
  | 0x3D => Decode.major3D w
  | 0x3E => Decode.major3E w
  | 0x3F => Decode.major3F w
  | _ => .error .illegalInstruction

/-- A field of a word put at its place. -/
def Decode.put {n : Nat} (x : BitVec n) (lo : Nat) : BitVec 32 := x.setWidth 32 <<< lo

/-- The word of add (R79). -/
def Decode.wAdd (iv : BitVec 2) (d a b : BitVec 5) (sc : BitVec 4) : BitVec 32 :=
  0x01000000#32 ||| Decode.put iv 30 ||| Decode.put d 19 ||| Decode.put a 14 ||| Decode.put b 9 ||| Decode.put sc 0
/-- The word of sub (R79). -/
def Decode.wSub (iv : BitVec 2) (d a b : BitVec 5) (sc : BitVec 4) : BitVec 32 :=
  0x01000010#32 ||| Decode.put iv 30 ||| Decode.put d 19 ||| Decode.put a 14 ||| Decode.put b 9 ||| Decode.put sc 0
/-- The word of and (R79). -/
def Decode.wAnd (iv : BitVec 2) (d a b : BitVec 5) (sc : BitVec 4) : BitVec 32 :=
  0x01000020#32 ||| Decode.put iv 30 ||| Decode.put d 19 ||| Decode.put a 14 ||| Decode.put b 9 ||| Decode.put sc 0
/-- The word of or (R79). -/
def Decode.wOr (iv : BitVec 2) (d a b : BitVec 5) (sc : BitVec 4) : BitVec 32 :=
  0x01000030#32 ||| Decode.put iv 30 ||| Decode.put d 19 ||| Decode.put a 14 ||| Decode.put b 9 ||| Decode.put sc 0
/-- The word of xor (R79). -/
def Decode.wXor (iv : BitVec 2) (d a b : BitVec 5) (sc : BitVec 4) : BitVec 32 :=
  0x01000040#32 ||| Decode.put iv 30 ||| Decode.put d 19 ||| Decode.put a 14 ||| Decode.put b 9 ||| Decode.put sc 0
/-- The word of andn (R79). -/
def Decode.wAndn (iv : BitVec 2) (d a b : BitVec 5) (sc : BitVec 4) : BitVec 32 :=
  0x01000050#32 ||| Decode.put iv 30 ||| Decode.put d 19 ||| Decode.put a 14 ||| Decode.put b 9 ||| Decode.put sc 0
/-- The word of orn (R79). -/
def Decode.wOrn (iv : BitVec 2) (d a b : BitVec 5) (sc : BitVec 4) : BitVec 32 :=
  0x01000060#32 ||| Decode.put iv 30 ||| Decode.put d 19 ||| Decode.put a 14 ||| Decode.put b 9 ||| Decode.put sc 0
/-- The word of shl (R79). -/
def Decode.wShl (iv : BitVec 2) (d a b : BitVec 5) (sc : BitVec 4) : BitVec 32 :=
  0x01000070#32 ||| Decode.put iv 30 ||| Decode.put d 19 ||| Decode.put a 14 ||| Decode.put b 9 ||| Decode.put sc 0
/-- The word of shr (R79). -/
def Decode.wShr (iv : BitVec 2) (d a b : BitVec 5) (sc : BitVec 4) : BitVec 32 :=
  0x01000080#32 ||| Decode.put iv 30 ||| Decode.put d 19 ||| Decode.put a 14 ||| Decode.put b 9 ||| Decode.put sc 0
/-- The word of sra (R79). -/
def Decode.wSra (iv : BitVec 2) (d a b : BitVec 5) (sc : BitVec 4) : BitVec 32 :=
  0x01000090#32 ||| Decode.put iv 30 ||| Decode.put d 19 ||| Decode.put a 14 ||| Decode.put b 9 ||| Decode.put sc 0
/-- The word of rot (R79). -/
def Decode.wRot (iv : BitVec 2) (d a b : BitVec 5) (sc : BitVec 4) : BitVec 32 :=
  0x010000A0#32 ||| Decode.put iv 30 ||| Decode.put d 19 ||| Decode.put a 14 ||| Decode.put b 9 ||| Decode.put sc 0
/-- The word of min (R79). -/
def Decode.wMin (iv : BitVec 2) (d a b : BitVec 5) (sc : BitVec 4) : BitVec 32 :=
  0x010000B0#32 ||| Decode.put iv 30 ||| Decode.put d 19 ||| Decode.put a 14 ||| Decode.put b 9 ||| Decode.put sc 0
/-- The word of max (R79). -/
def Decode.wMax (iv : BitVec 2) (d a b : BitVec 5) (sc : BitVec 4) : BitVec 32 :=
  0x010000C0#32 ||| Decode.put iv 30 ||| Decode.put d 19 ||| Decode.put a 14 ||| Decode.put b 9 ||| Decode.put sc 0
/-- The word of minn (R79). -/
def Decode.wMinn (iv : BitVec 2) (d a b : BitVec 5) (sc : BitVec 4) : BitVec 32 :=
  0x010000D0#32 ||| Decode.put iv 30 ||| Decode.put d 19 ||| Decode.put a 14 ||| Decode.put b 9 ||| Decode.put sc 0
/-- The word of maxn (R79). -/
def Decode.wMaxn (iv : BitVec 2) (d a b : BitVec 5) (sc : BitVec 4) : BitVec 32 :=
  0x010000E0#32 ||| Decode.put iv 30 ||| Decode.put d 19 ||| Decode.put a 14 ||| Decode.put b 9 ||| Decode.put sc 0
/-- The word of mul (R80). -/
def Decode.wMul (iv : BitVec 2) (d a b : BitVec 5) (sc : BitVec 4) : BitVec 32 :=
  0x02000000#32 ||| Decode.put iv 30 ||| Decode.put d 19 ||| Decode.put a 14 ||| Decode.put b 9 ||| Decode.put sc 0
/-- The word of mulh (R80). -/
def Decode.wMulh (iv : BitVec 2) (d a b : BitVec 5) (sc : BitVec 4) : BitVec 32 :=
  0x02000010#32 ||| Decode.put iv 30 ||| Decode.put d 19 ||| Decode.put a 14 ||| Decode.put b 9 ||| Decode.put sc 0
/-- The word of mulhn (R80). -/
def Decode.wMulhn (iv : BitVec 2) (d a b : BitVec 5) (sc : BitVec 4) : BitVec 32 :=
  0x02000020#32 ||| Decode.put iv 30 ||| Decode.put d 19 ||| Decode.put a 14 ||| Decode.put b 9 ||| Decode.put sc 0
/-- The word of div (R81). -/
def Decode.wDiv (iv : BitVec 2) (d a b : BitVec 5) (sc : BitVec 4) : BitVec 32 :=
  0x02000030#32 ||| Decode.put iv 30 ||| Decode.put d 19 ||| Decode.put a 14 ||| Decode.put b 9 ||| Decode.put sc 0
/-- The word of divn (R81). -/
def Decode.wDivn (iv : BitVec 2) (d a b : BitVec 5) (sc : BitVec 4) : BitVec 32 :=
  0x02000040#32 ||| Decode.put iv 30 ||| Decode.put d 19 ||| Decode.put a 14 ||| Decode.put b 9 ||| Decode.put sc 0
/-- The word of rem (R81). -/
def Decode.wRem (iv : BitVec 2) (d a b : BitVec 5) (sc : BitVec 4) : BitVec 32 :=
  0x02000050#32 ||| Decode.put iv 30 ||| Decode.put d 19 ||| Decode.put a 14 ||| Decode.put b 9 ||| Decode.put sc 0
/-- The word of remn (R81). -/
def Decode.wRemn (iv : BitVec 2) (d a b : BitVec 5) (sc : BitVec 4) : BitVec 32 :=
  0x02000060#32 ||| Decode.put iv 30 ||| Decode.put d 19 ||| Decode.put a 14 ||| Decode.put b 9 ||| Decode.put sc 0
/-- The word of clz (R82). -/
def Decode.wClz (iv : BitVec 2) (d a : BitVec 5) (sc : BitVec 4) : BitVec 32 :=
  0x03000000#32 ||| Decode.put iv 30 ||| Decode.put d 19 ||| Decode.put a 14 ||| Decode.put sc 0
/-- The word of ctz (R82). -/
def Decode.wCtz (iv : BitVec 2) (d a : BitVec 5) (sc : BitVec 4) : BitVec 32 :=
  0x03000010#32 ||| Decode.put iv 30 ||| Decode.put d 19 ||| Decode.put a 14 ||| Decode.put sc 0
/-- The word of popc (R82). -/
def Decode.wPopc (iv : BitVec 2) (d a : BitVec 5) (sc : BitVec 4) : BitVec 32 :=
  0x03000020#32 ||| Decode.put iv 30 ||| Decode.put d 19 ||| Decode.put a 14 ||| Decode.put sc 0
/-- The word of bswap (R82). -/
def Decode.wBswap (iv : BitVec 2) (d a : BitVec 5) (sc : BitVec 4) : BitVec 32 :=
  0x03000030#32 ||| Decode.put iv 30 ||| Decode.put d 19 ||| Decode.put a 14 ||| Decode.put sc 0
/-- The word of bfx (R83). -/
def Decode.wBfx (iv : BitVec 2) (d a b : BitVec 5) (sc : BitVec 4) : BitVec 32 :=
  0x03000040#32 ||| Decode.put iv 30 ||| Decode.put d 19 ||| Decode.put a 14 ||| Decode.put b 9 ||| Decode.put sc 0
/-- The word of bfi (R83). -/
def Decode.wBfi (iv : BitVec 2) (d a b : BitVec 5) (sc : BitVec 4) : BitVec 32 :=
  0x03000050#32 ||| Decode.put iv 30 ||| Decode.put d 19 ||| Decode.put a 14 ||| Decode.put b 9 ||| Decode.put sc 0
/-- The word of sext.b (R82). -/
def Decode.wSextB (iv : BitVec 2) (d a : BitVec 5) (sc : BitVec 4) : BitVec 32 :=
  0x03000060#32 ||| Decode.put iv 30 ||| Decode.put d 19 ||| Decode.put a 14 ||| Decode.put sc 0
/-- The word of sext.h (R82). -/
def Decode.wSextH (iv : BitVec 2) (d a : BitVec 5) (sc : BitVec 4) : BitVec 32 :=
  0x03000070#32 ||| Decode.put iv 30 ||| Decode.put d 19 ||| Decode.put a 14 ||| Decode.put sc 0
/-- The word of sext.w (R82). -/
def Decode.wSextW (iv : BitVec 2) (d a : BitVec 5) (sc : BitVec 4) : BitVec 32 :=
  0x03000080#32 ||| Decode.put iv 30 ||| Decode.put d 19 ||| Decode.put a 14 ||| Decode.put sc 0
/-- The word of zext.b (R82). -/
def Decode.wZextB (iv : BitVec 2) (d a : BitVec 5) (sc : BitVec 4) : BitVec 32 :=
  0x03000090#32 ||| Decode.put iv 30 ||| Decode.put d 19 ||| Decode.put a 14 ||| Decode.put sc 0
/-- The word of zext.h (R82). -/
def Decode.wZextH (iv : BitVec 2) (d a : BitVec 5) (sc : BitVec 4) : BitVec 32 :=
  0x030000A0#32 ||| Decode.put iv 30 ||| Decode.put d 19 ||| Decode.put a 14 ||| Decode.put sc 0
/-- The word of zext.w (R82). -/
def Decode.wZextW (iv : BitVec 2) (d a : BitVec 5) (sc : BitVec 4) : BitVec 32 :=
  0x030000B0#32 ||| Decode.put iv 30 ||| Decode.put d 19 ||| Decode.put a 14 ||| Decode.put sc 0
/-- The word of cmp.eq (R84). -/
def Decode.wCmpEq (iv : BitVec 2) (d a b : BitVec 5) (sc : BitVec 4) : BitVec 32 :=
  0x04000000#32 ||| Decode.put iv 30 ||| Decode.put d 19 ||| Decode.put a 14 ||| Decode.put b 9 ||| Decode.put sc 0
/-- The word of cmp.ne (R84). -/
def Decode.wCmpNe (iv : BitVec 2) (d a b : BitVec 5) (sc : BitVec 4) : BitVec 32 :=
  0x04000010#32 ||| Decode.put iv 30 ||| Decode.put d 19 ||| Decode.put a 14 ||| Decode.put b 9 ||| Decode.put sc 0
/-- The word of cmp.lt (R84). -/
def Decode.wCmpLt (iv : BitVec 2) (d a b : BitVec 5) (sc : BitVec 4) : BitVec 32 :=
  0x04000020#32 ||| Decode.put iv 30 ||| Decode.put d 19 ||| Decode.put a 14 ||| Decode.put b 9 ||| Decode.put sc 0
/-- The word of cmp.ltn (R84). -/
def Decode.wCmpLtn (iv : BitVec 2) (d a b : BitVec 5) (sc : BitVec 4) : BitVec 32 :=
  0x04000030#32 ||| Decode.put iv 30 ||| Decode.put d 19 ||| Decode.put a 14 ||| Decode.put b 9 ||| Decode.put sc 0
/-- The word of cmp.le (R84). -/
def Decode.wCmpLe (iv : BitVec 2) (d a b : BitVec 5) (sc : BitVec 4) : BitVec 32 :=
  0x04000040#32 ||| Decode.put iv 30 ||| Decode.put d 19 ||| Decode.put a 14 ||| Decode.put b 9 ||| Decode.put sc 0
/-- The word of cmp.len (R84). -/
def Decode.wCmpLen (iv : BitVec 2) (d a b : BitVec 5) (sc : BitVec 4) : BitVec 32 :=
  0x04000050#32 ||| Decode.put iv 30 ||| Decode.put d 19 ||| Decode.put a 14 ||| Decode.put b 9 ||| Decode.put sc 0
/-- The word of sel.nz (R84). -/
def Decode.wSelNz (iv : BitVec 2) (d a b : BitVec 5) (sc : BitVec 4) : BitVec 32 :=
  0x04000060#32 ||| Decode.put iv 30 ||| Decode.put d 19 ||| Decode.put a 14 ||| Decode.put b 9 ||| Decode.put sc 0
/-- The word of addi (R85). -/
def Decode.wAddi (iv : BitVec 2) (d a : BitVec 5) (i : BitVec 10) (sc : BitVec 4) : BitVec 32 :=
  0x05000000#32 ||| Decode.put iv 30 ||| Decode.put d 19 ||| Decode.put a 14 ||| Decode.put i 4 ||| Decode.put sc 0
/-- The word of andi (R85). -/
def Decode.wAndi (iv : BitVec 2) (d a : BitVec 5) (i : BitVec 10) (sc : BitVec 4) : BitVec 32 :=
  0x06000000#32 ||| Decode.put iv 30 ||| Decode.put d 19 ||| Decode.put a 14 ||| Decode.put i 4 ||| Decode.put sc 0
/-- The word of ori (R85). -/
def Decode.wOri (iv : BitVec 2) (d a : BitVec 5) (i : BitVec 10) (sc : BitVec 4) : BitVec 32 :=
  0x07000000#32 ||| Decode.put iv 30 ||| Decode.put d 19 ||| Decode.put a 14 ||| Decode.put i 4 ||| Decode.put sc 0
/-- The word of xori (R85). -/
def Decode.wXori (iv : BitVec 2) (d a : BitVec 5) (i : BitVec 10) (sc : BitVec 4) : BitVec 32 :=
  0x08000000#32 ||| Decode.put iv 30 ||| Decode.put d 19 ||| Decode.put a 14 ||| Decode.put i 4 ||| Decode.put sc 0
/-- The word of muli (R85). -/
def Decode.wMuli (iv : BitVec 2) (d a : BitVec 5) (i : BitVec 10) (sc : BitVec 4) : BitVec 32 :=
  0x09000000#32 ||| Decode.put iv 30 ||| Decode.put d 19 ||| Decode.put a 14 ||| Decode.put i 4 ||| Decode.put sc 0
/-- The word of shli (R86). -/
def Decode.wShli (iv : BitVec 2) (d a : BitVec 5) (n : BitVec 6) (sc : BitVec 4) : BitVec 32 :=
  0x0A000000#32 ||| Decode.put iv 30 ||| Decode.put d 19 ||| Decode.put a 14 ||| Decode.put n 4 ||| Decode.put sc 0
/-- The word of shri (R86). -/
def Decode.wShri (iv : BitVec 2) (d a : BitVec 5) (n : BitVec 6) (sc : BitVec 4) : BitVec 32 :=
  0x0A001000#32 ||| Decode.put iv 30 ||| Decode.put d 19 ||| Decode.put a 14 ||| Decode.put n 4 ||| Decode.put sc 0
/-- The word of srai (R86). -/
def Decode.wSrai (iv : BitVec 2) (d a : BitVec 5) (n : BitVec 6) (sc : BitVec 4) : BitVec 32 :=
  0x0A002000#32 ||| Decode.put iv 30 ||| Decode.put d 19 ||| Decode.put a 14 ||| Decode.put n 4 ||| Decode.put sc 0
/-- The word of roti (R86). -/
def Decode.wRoti (iv : BitVec 2) (d a : BitVec 5) (n : BitVec 6) (sc : BitVec 4) : BitVec 32 :=
  0x0A003000#32 ||| Decode.put iv 30 ||| Decode.put d 19 ||| Decode.put a 14 ||| Decode.put n 4 ||| Decode.put sc 0
/-- The word of cmpi (R87). -/
def Decode.wCmpi (iv : BitVec 2) (d a : BitVec 5) (c : BitVec 3) (i : BitVec 7) (sc : BitVec 4) : BitVec 32 :=
  0x0B000000#32 ||| Decode.put iv 30 ||| Decode.put d 19 ||| Decode.put a 14 ||| Decode.put c 11 ||| Decode.put i 4 ||| Decode.put sc 0
/-- The word of ld.lit (R89). -/
def Decode.wLdLit (iv : BitVec 2) (d : BitVec 5) (i : BitVec 10) (sc : BitVec 4) : BitVec 32 :=
  0x0C000000#32 ||| Decode.put iv 30 ||| Decode.put d 19 ||| Decode.put i 4 ||| Decode.put sc 0
/-- The word of movi (R88). -/
def Decode.wMovi (iv : BitVec 2) (d : BitVec 5) (i : BitVec 19) : BitVec 32 :=
  0x0D000000#32 ||| Decode.put iv 30 ||| Decode.put d 19 ||| Decode.put i 0
/-- The word of lea (R90). -/
def Decode.wLea (iv : BitVec 2) (d a b : BitVec 5) (sc : BitVec 4) : BitVec 32 :=
  0x0F000000#32 ||| Decode.put iv 30 ||| Decode.put d 19 ||| Decode.put a 14 ||| Decode.put b 9 ||| Decode.put sc 0
/-- The word of xkey.set (R90). -/
def Decode.wXkeySet (iv : BitVec 2) (d a b : BitVec 5) (sc : BitVec 4) : BitVec 32 :=
  0x0F000010#32 ||| Decode.put iv 30 ||| Decode.put d 19 ||| Decode.put a 14 ||| Decode.put b 9 ||| Decode.put sc 0
/-- The word of xkey.get (R90). -/
def Decode.wXkeyGet (iv : BitVec 2) (d a : BitVec 5) (sc : BitVec 4) : BitVec 32 :=
  0x0F000020#32 ||| Decode.put iv 30 ||| Decode.put d 19 ||| Decode.put a 14 ||| Decode.put sc 0
/-- The word of ld (R91). -/
def Decode.wLd (iv : BitVec 2) (d b : BitVec 5) (o : BitVec 7) (z : BitVec 3) (sc : BitVec 4) : BitVec 32 :=
  0x10000000#32 ||| Decode.put iv 30 ||| Decode.put d 19 ||| Decode.put b 14 ||| Decode.put o 7 ||| Decode.put z 4 ||| Decode.put sc 0
/-- The word of st (R91). -/
def Decode.wSt (iv : BitVec 2) (d b : BitVec 5) (o : BitVec 7) (z : BitVec 3) (sc : BitVec 4) : BitVec 32 :=
  0x11000000#32 ||| Decode.put iv 30 ||| Decode.put d 19 ||| Decode.put b 14 ||| Decode.put o 7 ||| Decode.put z 4 ||| Decode.put sc 0
/-- The word of ld.x (R91). -/
def Decode.wLdX (iv : BitVec 2) (d b i : BitVec 5) (h : BitVec 2) (z : BitVec 3) (sc : BitVec 4) : BitVec 32 :=
  0x12000000#32 ||| Decode.put iv 30 ||| Decode.put d 19 ||| Decode.put b 14 ||| Decode.put i 9 ||| Decode.put h 7 ||| Decode.put z 4 ||| Decode.put sc 0
/-- The word of st.x (R91). -/
def Decode.wStX (iv : BitVec 2) (d b i : BitVec 5) (h : BitVec 2) (z : BitVec 3) (sc : BitVec 4) : BitVec 32 :=
  0x13000000#32 ||| Decode.put iv 30 ||| Decode.put d 19 ||| Decode.put b 14 ||| Decode.put i 9 ||| Decode.put h 7 ||| Decode.put z 4 ||| Decode.put sc 0
/-- The word of ld.s (R236). -/
def Decode.wLdS (iv : BitVec 2) (d b : BitVec 5) (c : BitVec 3) (o : BitVec 2) (z : BitVec 1) (sc : BitVec 4) : BitVec 32 :=
  0x14000000#32 ||| Decode.put iv 30 ||| Decode.put d 19 ||| Decode.put b 14 ||| Decode.put c 11 ||| Decode.put o 9 ||| Decode.put z 8 ||| Decode.put sc 0
/-- The word of st.s (R236). -/
def Decode.wStS (iv : BitVec 2) (d b : BitVec 5) (c : BitVec 3) (o : BitVec 2) (z : BitVec 1) (sc : BitVec 4) : BitVec 32 :=
  0x15000000#32 ||| Decode.put iv 30 ||| Decode.put d 19 ||| Decode.put b 14 ||| Decode.put c 11 ||| Decode.put o 9 ||| Decode.put z 8 ||| Decode.put sc 0
/-- The word of amo.add (R237). -/
def Decode.wAmoAdd (iv : BitVec 2) (d a b : BitVec 5) (z : BitVec 1) (sc : BitVec 4) : BitVec 32 :=
  0x16000000#32 ||| Decode.put iv 30 ||| Decode.put d 19 ||| Decode.put a 14 ||| Decode.put b 9 ||| Decode.put z 8 ||| Decode.put sc 0
/-- The word of amo.and (R237). -/
def Decode.wAmoAnd (iv : BitVec 2) (d a b : BitVec 5) (z : BitVec 1) (sc : BitVec 4) : BitVec 32 :=
  0x16000010#32 ||| Decode.put iv 30 ||| Decode.put d 19 ||| Decode.put a 14 ||| Decode.put b 9 ||| Decode.put z 8 ||| Decode.put sc 0
/-- The word of amo.or (R237). -/
def Decode.wAmoOr (iv : BitVec 2) (d a b : BitVec 5) (z : BitVec 1) (sc : BitVec 4) : BitVec 32 :=
  0x16000020#32 ||| Decode.put iv 30 ||| Decode.put d 19 ||| Decode.put a 14 ||| Decode.put b 9 ||| Decode.put z 8 ||| Decode.put sc 0
/-- The word of amo.xor (R237). -/
def Decode.wAmoXor (iv : BitVec 2) (d a b : BitVec 5) (z : BitVec 1) (sc : BitVec 4) : BitVec 32 :=
  0x16000030#32 ||| Decode.put iv 30 ||| Decode.put d 19 ||| Decode.put a 14 ||| Decode.put b 9 ||| Decode.put z 8 ||| Decode.put sc 0
/-- The word of amo.min (R237). -/
def Decode.wAmoMin (iv : BitVec 2) (d a b : BitVec 5) (z : BitVec 1) (sc : BitVec 4) : BitVec 32 :=
  0x16000040#32 ||| Decode.put iv 30 ||| Decode.put d 19 ||| Decode.put a 14 ||| Decode.put b 9 ||| Decode.put z 8 ||| Decode.put sc 0
/-- The word of amo.max (R237). -/
def Decode.wAmoMax (iv : BitVec 2) (d a b : BitVec 5) (z : BitVec 1) (sc : BitVec 4) : BitVec 32 :=
  0x16000050#32 ||| Decode.put iv 30 ||| Decode.put d 19 ||| Decode.put a 14 ||| Decode.put b 9 ||| Decode.put z 8 ||| Decode.put sc 0
/-- The word of amo.minn (R237). -/
def Decode.wAmoMinn (iv : BitVec 2) (d a b : BitVec 5) (z : BitVec 1) (sc : BitVec 4) : BitVec 32 :=
  0x16000060#32 ||| Decode.put iv 30 ||| Decode.put d 19 ||| Decode.put a 14 ||| Decode.put b 9 ||| Decode.put z 8 ||| Decode.put sc 0
/-- The word of amo.maxn (R237). -/
def Decode.wAmoMaxn (iv : BitVec 2) (d a b : BitVec 5) (z : BitVec 1) (sc : BitVec 4) : BitVec 32 :=
  0x16000070#32 ||| Decode.put iv 30 ||| Decode.put d 19 ||| Decode.put a 14 ||| Decode.put b 9 ||| Decode.put z 8 ||| Decode.put sc 0
/-- The word of amo.swap (R237). -/
def Decode.wAmoSwap (iv : BitVec 2) (d a b : BitVec 5) (z : BitVec 1) (sc : BitVec 4) : BitVec 32 :=
  0x16000080#32 ||| Decode.put iv 30 ||| Decode.put d 19 ||| Decode.put a 14 ||| Decode.put b 9 ||| Decode.put z 8 ||| Decode.put sc 0
/-- The word of amo.fadd.f32 (R238). -/
def Decode.wAmoFadd (iv : BitVec 2) (d a b : BitVec 5) (sc : BitVec 4) : BitVec 32 :=
  0x16000090#32 ||| Decode.put iv 30 ||| Decode.put d 19 ||| Decode.put a 14 ||| Decode.put b 9 ||| Decode.put sc 0
/-- The word of cas (R238). -/
def Decode.wCas (iv : BitVec 2) (d a b : BitVec 5) (z : BitVec 1) (sc : BitVec 4) : BitVec 32 :=
  0x17000000#32 ||| Decode.put iv 30 ||| Decode.put d 19 ||| Decode.put a 14 ||| Decode.put b 9 ||| Decode.put z 4 ||| Decode.put sc 0
/-- The word of waita (R241). -/
def Decode.wWaita (iv : BitVec 2) (d a b : BitVec 5) (sc : BitVec 4) : BitVec 32 :=
  0x18000000#32 ||| Decode.put iv 30 ||| Decode.put d 19 ||| Decode.put a 14 ||| Decode.put b 9 ||| Decode.put sc 0
/-- The word of wake (R242). -/
def Decode.wWake (iv : BitVec 2) (a : BitVec 5) (sc : BitVec 4) : BitVec 32 :=
  0x18000010#32 ||| Decode.put iv 30 ||| Decode.put a 14 ||| Decode.put sc 0
/-- The word of phase (R218). -/
def Decode.wPhase (iv : BitVec 2) (c : BitVec 5) (sc : BitVec 4) : BitVec 32 :=
  0x19000000#32 ||| Decode.put iv 30 ||| Decode.put c 9 ||| Decode.put sc 0
/-- The word of fence.x (R226). -/
def Decode.wFenceX (iv : BitVec 2) (sc : BitVec 4) : BitVec 32 :=
  0x19000010#32 ||| Decode.put iv 30 ||| Decode.put sc 0
/-- The word of fence.r (R245). -/
def Decode.wFenceR (iv : BitVec 2) (a : BitVec 5) (sc : BitVec 4) : BitVec 32 :=
  0x19000020#32 ||| Decode.put iv 30 ||| Decode.put a 14 ||| Decode.put sc 0
/-- The word of fence.a (R246). -/
def Decode.wFenceA (iv : BitVec 2) (a : BitVec 5) (sc : BitVec 4) : BitVec 32 :=
  0x19000030#32 ||| Decode.put iv 30 ||| Decode.put a 14 ||| Decode.put sc 0
/-- The word of qfence (R247). -/
def Decode.wQfence (iv : BitVec 2) (a : BitVec 5) (sc : BitVec 4) : BitVec 32 :=
  0x19000040#32 ||| Decode.put iv 30 ||| Decode.put a 14 ||| Decode.put sc 0
/-- The word of ifence (R248). -/
def Decode.wIfence (iv : BitVec 2) (sc : BitVec 4) : BitVec 32 :=
  0x19000050#32 ||| Decode.put iv 30 ||| Decode.put sc 0
/-- The word of tag.set (R250). -/
def Decode.wTagSet (iv : BitVec 2) (a b : BitVec 5) (sc : BitVec 4) : BitVec 32 :=
  0x1A000000#32 ||| Decode.put iv 30 ||| Decode.put a 14 ||| Decode.put b 9 ||| Decode.put sc 0
/-- The word of tag.get (R251). -/
def Decode.wTagGet (iv : BitVec 2) (d a : BitVec 5) (sc : BitVec 4) : BitVec 32 :=
  0x1A000010#32 ||| Decode.put iv 30 ||| Decode.put d 19 ||| Decode.put a 14 ||| Decode.put sc 0
/-- The word of xreq (R252). -/
def Decode.wXreq (iv : BitVec 2) (d a b : BitVec 5) (sc : BitVec 4) : BitVec 32 :=
  0x1A000020#32 ||| Decode.put iv 30 ||| Decode.put d 19 ||| Decode.put a 14 ||| Decode.put b 9 ||| Decode.put sc 0
/-- The word of xrel (R253). -/
def Decode.wXrel (iv : BitVec 2) (a : BitVec 5) (sc : BitVec 4) : BitVec 32 :=
  0x1A000030#32 ||| Decode.put iv 30 ||| Decode.put a 14 ||| Decode.put sc 0
/-- The word of st.f (R254). -/
def Decode.wStF (iv : BitVec 2) (d a b : BitVec 5) (z : BitVec 1) (sc : BitVec 4) : BitVec 32 :=
  0x1B000000#32 ||| Decode.put iv 30 ||| Decode.put d 19 ||| Decode.put a 14 ||| Decode.put b 9 ||| Decode.put z 4 ||| Decode.put sc 0
/-- The word of bc (R97). -/
def Decode.wBc (iv : BitVec 2) (a : BitVec 5) (c : BitVec 3) (o : BitVec 16) : BitVec 32 :=
  0x1C000000#32 ||| Decode.put iv 30 ||| Decode.put a 19 ||| Decode.put c 16 ||| Decode.put o 0
/-- The word of dbnz (R97). -/
def Decode.wDbnz (iv : BitVec 2) (a : BitVec 5) (o : BitVec 16) : BitVec 32 :=
  0x1C060000#32 ||| Decode.put iv 30 ||| Decode.put a 19 ||| Decode.put o 0
/-- The word of b (R98). -/
def Decode.wB (iv : BitVec 2) (o : BitVec 24) : BitVec 32 :=
  0x1D000000#32 ||| Decode.put iv 30 ||| Decode.put o 0
/-- The word of call (R98). -/
def Decode.wCall (iv : BitVec 2) (o : BitVec 24) : BitVec 32 :=
  0x1E000000#32 ||| Decode.put iv 30 ||| Decode.put o 0
/-- The word of jr (R99). -/
def Decode.wJr (iv : BitVec 2) (a : BitVec 5) (sc : BitVec 4) : BitVec 32 :=
  0x1F000000#32 ||| Decode.put iv 30 ||| Decode.put a 14 ||| Decode.put sc 0
/-- The word of jrl (R99). -/
def Decode.wJrl (iv : BitVec 2) (a : BitVec 5) (sc : BitVec 4) : BitVec 32 :=
  0x1F000010#32 ||| Decode.put iv 30 ||| Decode.put a 14 ||| Decode.put sc 0
/-- The word of ret (R99). -/
def Decode.wRet (iv : BitVec 2) (sc : BitVec 4) : BitVec 32 :=
  0x1F000020#32 ||| Decode.put iv 30 ||| Decode.put sc 0
/-- The word of vadd (R105). -/
def Decode.wVadd (iv : BitVec 2) (d a b : BitVec 4) (k : BitVec 3) (sc : BitVec 4) : BitVec 32 :=
  0x20000000#32 ||| Decode.put iv 30 ||| Decode.put d 20 ||| Decode.put a 16 ||| Decode.put b 12 ||| Decode.put k 9 ||| Decode.put sc 0
/-- The word of vadd.n (R105). -/
def Decode.wVaddN (iv : BitVec 2) (d a b : BitVec 4) (k : BitVec 3) (sc : BitVec 4) : BitVec 32 :=
  0x20000140#32 ||| Decode.put iv 30 ||| Decode.put d 20 ||| Decode.put a 16 ||| Decode.put b 12 ||| Decode.put k 9 ||| Decode.put sc 0
/-- The word of vsub (R105). -/
def Decode.wVsub (iv : BitVec 2) (d a b : BitVec 4) (k : BitVec 3) (sc : BitVec 4) : BitVec 32 :=
  0x20000010#32 ||| Decode.put iv 30 ||| Decode.put d 20 ||| Decode.put a 16 ||| Decode.put b 12 ||| Decode.put k 9 ||| Decode.put sc 0
/-- The word of vsub.n (R105). -/
def Decode.wVsubN (iv : BitVec 2) (d a b : BitVec 4) (k : BitVec 3) (sc : BitVec 4) : BitVec 32 :=
  0x20000150#32 ||| Decode.put iv 30 ||| Decode.put d 20 ||| Decode.put a 16 ||| Decode.put b 12 ||| Decode.put k 9 ||| Decode.put sc 0
/-- The word of vmul (R105). -/
def Decode.wVmul (iv : BitVec 2) (d a b : BitVec 4) (k : BitVec 3) (sc : BitVec 4) : BitVec 32 :=
  0x20000020#32 ||| Decode.put iv 30 ||| Decode.put d 20 ||| Decode.put a 16 ||| Decode.put b 12 ||| Decode.put k 9 ||| Decode.put sc 0
/-- The word of vmul.n (R105). -/
def Decode.wVmulN (iv : BitVec 2) (d a b : BitVec 4) (k : BitVec 3) (sc : BitVec 4) : BitVec 32 :=
  0x20000160#32 ||| Decode.put iv 30 ||| Decode.put d 20 ||| Decode.put a 16 ||| Decode.put b 12 ||| Decode.put k 9 ||| Decode.put sc 0
/-- The word of vfma (R106). -/
def Decode.wVfma (iv : BitVec 2) (d a b : BitVec 4) (k : BitVec 3) (sc : BitVec 4) : BitVec 32 :=
  0x20000030#32 ||| Decode.put iv 30 ||| Decode.put d 20 ||| Decode.put a 16 ||| Decode.put b 12 ||| Decode.put k 9 ||| Decode.put sc 0
/-- The word of vfms (R106). -/
def Decode.wVfms (iv : BitVec 2) (d a b : BitVec 4) (k : BitVec 3) (sc : BitVec 4) : BitVec 32 :=
  0x20000040#32 ||| Decode.put iv 30 ||| Decode.put d 20 ||| Decode.put a 16 ||| Decode.put b 12 ||| Decode.put k 9 ||| Decode.put sc 0
/-- The word of vmin (R106). -/
def Decode.wVmin (iv : BitVec 2) (d a b : BitVec 4) (k : BitVec 3) (sc : BitVec 4) : BitVec 32 :=
  0x20000050#32 ||| Decode.put iv 30 ||| Decode.put d 20 ||| Decode.put a 16 ||| Decode.put b 12 ||| Decode.put k 9 ||| Decode.put sc 0
/-- The word of vmin.n (R106). -/
def Decode.wVminN (iv : BitVec 2) (d a b : BitVec 4) (k : BitVec 3) (sc : BitVec 4) : BitVec 32 :=
  0x20000110#32 ||| Decode.put iv 30 ||| Decode.put d 20 ||| Decode.put a 16 ||| Decode.put b 12 ||| Decode.put k 9 ||| Decode.put sc 0
/-- The word of vmax (R106). -/
def Decode.wVmax (iv : BitVec 2) (d a b : BitVec 4) (k : BitVec 3) (sc : BitVec 4) : BitVec 32 :=
  0x20000060#32 ||| Decode.put iv 30 ||| Decode.put d 20 ||| Decode.put a 16 ||| Decode.put b 12 ||| Decode.put k 9 ||| Decode.put sc 0
/-- The word of vmax.n (R106). -/
def Decode.wVmaxN (iv : BitVec 2) (d a b : BitVec 4) (k : BitVec 3) (sc : BitVec 4) : BitVec 32 :=
  0x20000120#32 ||| Decode.put iv 30 ||| Decode.put d 20 ||| Decode.put a 16 ||| Decode.put b 12 ||| Decode.put k 9 ||| Decode.put sc 0
/-- The word of vabs (R106). -/
def Decode.wVabs (iv : BitVec 2) (d a : BitVec 4) (k : BitVec 3) (sc : BitVec 4) : BitVec 32 :=
  0x20000070#32 ||| Decode.put iv 30 ||| Decode.put d 20 ||| Decode.put a 16 ||| Decode.put k 9 ||| Decode.put sc 0
/-- The word of vneg (R106). -/
def Decode.wVneg (iv : BitVec 2) (d a : BitVec 4) (k : BitVec 3) (sc : BitVec 4) : BitVec 32 :=
  0x20000080#32 ||| Decode.put iv 30 ||| Decode.put d 20 ||| Decode.put a 16 ||| Decode.put k 9 ||| Decode.put sc 0
/-- The word of vand (R105). -/
def Decode.wVand (iv : BitVec 2) (d a b : BitVec 4) (k : BitVec 3) (sc : BitVec 4) : BitVec 32 :=
  0x20000090#32 ||| Decode.put iv 30 ||| Decode.put d 20 ||| Decode.put a 16 ||| Decode.put b 12 ||| Decode.put k 9 ||| Decode.put sc 0
/-- The word of vor (R105). -/
def Decode.wVor (iv : BitVec 2) (d a b : BitVec 4) (k : BitVec 3) (sc : BitVec 4) : BitVec 32 :=
  0x200000A0#32 ||| Decode.put iv 30 ||| Decode.put d 20 ||| Decode.put a 16 ||| Decode.put b 12 ||| Decode.put k 9 ||| Decode.put sc 0
/-- The word of vxor (R105). -/
def Decode.wVxor (iv : BitVec 2) (d a b : BitVec 4) (k : BitVec 3) (sc : BitVec 4) : BitVec 32 :=
  0x200000B0#32 ||| Decode.put iv 30 ||| Decode.put d 20 ||| Decode.put a 16 ||| Decode.put b 12 ||| Decode.put k 9 ||| Decode.put sc 0
/-- The word of vandn (R105). -/
def Decode.wVandn (iv : BitVec 2) (d a b : BitVec 4) (k : BitVec 3) (sc : BitVec 4) : BitVec 32 :=
  0x200000C0#32 ||| Decode.put iv 30 ||| Decode.put d 20 ||| Decode.put a 16 ||| Decode.put b 12 ||| Decode.put k 9 ||| Decode.put sc 0
/-- The word of vshl (R106). -/
def Decode.wVshl (iv : BitVec 2) (d a b : BitVec 4) (k : BitVec 3) (sc : BitVec 4) : BitVec 32 :=
  0x200000D0#32 ||| Decode.put iv 30 ||| Decode.put d 20 ||| Decode.put a 16 ||| Decode.put b 12 ||| Decode.put k 9 ||| Decode.put sc 0
/-- The word of vshr (R106). -/
def Decode.wVshr (iv : BitVec 2) (d a b : BitVec 4) (k : BitVec 3) (sc : BitVec 4) : BitVec 32 :=
  0x200000E0#32 ||| Decode.put iv 30 ||| Decode.put d 20 ||| Decode.put a 16 ||| Decode.put b 12 ||| Decode.put k 9 ||| Decode.put sc 0
/-- The word of vsra (R106). -/
def Decode.wVsra (iv : BitVec 2) (d a b : BitVec 4) (k : BitVec 3) (sc : BitVec 4) : BitVec 32 :=
  0x200000F0#32 ||| Decode.put iv 30 ||| Decode.put d 20 ||| Decode.put a 16 ||| Decode.put b 12 ||| Decode.put k 9 ||| Decode.put sc 0
/-- The word of vavg (R105). -/
def Decode.wVavg (iv : BitVec 2) (d a b : BitVec 4) (k : BitVec 3) (sc : BitVec 4) : BitVec 32 :=
  0x20000100#32 ||| Decode.put iv 30 ||| Decode.put d 20 ||| Decode.put a 16 ||| Decode.put b 12 ||| Decode.put k 9 ||| Decode.put sc 0
/-- The word of vavg.n (R105). -/
def Decode.wVavgN (iv : BitVec 2) (d a b : BitVec 4) (k : BitVec 3) (sc : BitVec 4) : BitVec 32 :=
  0x20000130#32 ||| Decode.put iv 30 ||| Decode.put d 20 ||| Decode.put a 16 ||| Decode.put b 12 ||| Decode.put k 9 ||| Decode.put sc 0
/-- The word of vcmp.eq (R107). -/
def Decode.wVcmpEq (iv : BitVec 2) (d : BitVec 3) (a b : BitVec 4) (k : BitVec 3) (sc : BitVec 4) : BitVec 32 :=
  0x21000000#32 ||| Decode.put iv 30 ||| Decode.put d 20 ||| Decode.put a 16 ||| Decode.put b 12 ||| Decode.put k 9 ||| Decode.put sc 0
/-- The word of vcmp.ne (R107). -/
def Decode.wVcmpNe (iv : BitVec 2) (d : BitVec 3) (a b : BitVec 4) (k : BitVec 3) (sc : BitVec 4) : BitVec 32 :=
  0x21000010#32 ||| Decode.put iv 30 ||| Decode.put d 20 ||| Decode.put a 16 ||| Decode.put b 12 ||| Decode.put k 9 ||| Decode.put sc 0
/-- The word of vcmp.lt (R107). -/
def Decode.wVcmpLt (iv : BitVec 2) (d : BitVec 3) (a b : BitVec 4) (k : BitVec 3) (sc : BitVec 4) : BitVec 32 :=
  0x21000020#32 ||| Decode.put iv 30 ||| Decode.put d 20 ||| Decode.put a 16 ||| Decode.put b 12 ||| Decode.put k 9 ||| Decode.put sc 0
/-- The word of vcmp.lt.n (R107). -/
def Decode.wVcmpLtN (iv : BitVec 2) (d : BitVec 3) (a b : BitVec 4) (k : BitVec 3) (sc : BitVec 4) : BitVec 32 :=
  0x21000120#32 ||| Decode.put iv 30 ||| Decode.put d 20 ||| Decode.put a 16 ||| Decode.put b 12 ||| Decode.put k 9 ||| Decode.put sc 0
/-- The word of vcmp.le (R107). -/
def Decode.wVcmpLe (iv : BitVec 2) (d : BitVec 3) (a b : BitVec 4) (k : BitVec 3) (sc : BitVec 4) : BitVec 32 :=
  0x21000030#32 ||| Decode.put iv 30 ||| Decode.put d 20 ||| Decode.put a 16 ||| Decode.put b 12 ||| Decode.put k 9 ||| Decode.put sc 0
/-- The word of vcmp.le.n (R107). -/
def Decode.wVcmpLeN (iv : BitVec 2) (d : BitVec 3) (a b : BitVec 4) (k : BitVec 3) (sc : BitVec 4) : BitVec 32 :=
  0x21000130#32 ||| Decode.put iv 30 ||| Decode.put d 20 ||| Decode.put a 16 ||| Decode.put b 12 ||| Decode.put k 9 ||| Decode.put sc 0
/-- The word of vcmp.unord (R107). -/
def Decode.wVcmpUnord (iv : BitVec 2) (d : BitVec 3) (a b : BitVec 4) (k : BitVec 3) (sc : BitVec 4) : BitVec 32 :=
  0x21000040#32 ||| Decode.put iv 30 ||| Decode.put d 20 ||| Decode.put a 16 ||| Decode.put b 12 ||| Decode.put k 9 ||| Decode.put sc 0
/-- The word of vsel (R108). -/
def Decode.wVsel (iv : BitVec 2) (d a b : BitVec 4) (k : BitVec 3) (sc : BitVec 4) : BitVec 32 :=
  0x22000000#32 ||| Decode.put iv 30 ||| Decode.put d 20 ||| Decode.put a 16 ||| Decode.put b 12 ||| Decode.put k 9 ||| Decode.put sc 0
/-- The word of vperm (R108). -/
def Decode.wVperm (iv : BitVec 2) (d a b : BitVec 4) (k : BitVec 3) (sc : BitVec 4) : BitVec 32 :=
  0x22000010#32 ||| Decode.put iv 30 ||| Decode.put d 20 ||| Decode.put a 16 ||| Decode.put b 12 ||| Decode.put k 9 ||| Decode.put sc 0
/-- The word of vtrn (R108). -/
def Decode.wVtrn (iv : BitVec 2) (d a : BitVec 4) (k : BitVec 3) (sc : BitVec 4) : BitVec 32 :=
  0x22000020#32 ||| Decode.put iv 30 ||| Decode.put d 20 ||| Decode.put a 16 ||| Decode.put k 9 ||| Decode.put sc 0
/-- The word of vrowb (R108). -/
def Decode.wVrowb (iv : BitVec 2) (d a n : BitVec 4) (k : BitVec 3) (sc : BitVec 4) : BitVec 32 :=
  0x22000030#32 ||| Decode.put iv 30 ||| Decode.put d 20 ||| Decode.put a 16 ||| Decode.put n 12 ||| Decode.put k 9 ||| Decode.put sc 0
/-- The word of vcolb (R108). -/
def Decode.wVcolb (iv : BitVec 2) (d a n : BitVec 4) (k : BitVec 3) (sc : BitVec 4) : BitVec 32 :=
  0x22000040#32 ||| Decode.put iv 30 ||| Decode.put d 20 ||| Decode.put a 16 ||| Decode.put n 12 ||| Decode.put k 9 ||| Decode.put sc 0
/-- The word of vslide (R108). -/
def Decode.wVslide (iv : BitVec 2) (d a n : BitVec 4) (k : BitVec 3) (sc : BitVec 4) : BitVec 32 :=
  0x22000050#32 ||| Decode.put iv 30 ||| Decode.put d 20 ||| Decode.put a 16 ||| Decode.put n 12 ||| Decode.put k 9 ||| Decode.put sc 0
/-- The word of vred.add.all (R109). -/
def Decode.wVredAddAll (iv : BitVec 2) (a : BitVec 4) (g : BitVec 5) (k : BitVec 3) (sc : BitVec 4) : BitVec 32 :=
  0x23000000#32 ||| Decode.put iv 30 ||| Decode.put a 16 ||| Decode.put g 11 ||| Decode.put k 8 ||| Decode.put sc 0
/-- The word of vred.min.all (R109). -/
def Decode.wVredMinAll (iv : BitVec 2) (a : BitVec 4) (g : BitVec 5) (k : BitVec 3) (sc : BitVec 4) : BitVec 32 :=
  0x23000010#32 ||| Decode.put iv 30 ||| Decode.put a 16 ||| Decode.put g 11 ||| Decode.put k 8 ||| Decode.put sc 0
/-- The word of vred.max.all (R109). -/
def Decode.wVredMaxAll (iv : BitVec 2) (a : BitVec 4) (g : BitVec 5) (k : BitVec 3) (sc : BitVec 4) : BitVec 32 :=
  0x23000020#32 ||| Decode.put iv 30 ||| Decode.put a 16 ||| Decode.put g 11 ||| Decode.put k 8 ||| Decode.put sc 0
/-- The word of vred.and.all (R109). -/
def Decode.wVredAndAll (iv : BitVec 2) (a : BitVec 4) (g : BitVec 5) (k : BitVec 3) (sc : BitVec 4) : BitVec 32 :=
  0x23000030#32 ||| Decode.put iv 30 ||| Decode.put a 16 ||| Decode.put g 11 ||| Decode.put k 8 ||| Decode.put sc 0
/-- The word of vred.or.all (R109). -/
def Decode.wVredOrAll (iv : BitVec 2) (a : BitVec 4) (g : BitVec 5) (k : BitVec 3) (sc : BitVec 4) : BitVec 32 :=
  0x23000040#32 ||| Decode.put iv 30 ||| Decode.put a 16 ||| Decode.put g 11 ||| Decode.put k 8 ||| Decode.put sc 0
/-- The word of vred.amax.all (R110). -/
def Decode.wVredAmaxAll (iv : BitVec 2) (a : BitVec 4) (g : BitVec 5) (k : BitVec 3) (sc : BitVec 4) : BitVec 32 :=
  0x23000050#32 ||| Decode.put iv 30 ||| Decode.put a 16 ||| Decode.put g 11 ||| Decode.put k 8 ||| Decode.put sc 0
/-- The word of vred.min.n.all (R109). -/
def Decode.wVredMinNAll (iv : BitVec 2) (a : BitVec 4) (g : BitVec 5) (k : BitVec 3) (sc : BitVec 4) : BitVec 32 :=
  0x23000060#32 ||| Decode.put iv 30 ||| Decode.put a 16 ||| Decode.put g 11 ||| Decode.put k 8 ||| Decode.put sc 0
/-- The word of vred.max.n.all (R109). -/
def Decode.wVredMaxNAll (iv : BitVec 2) (a : BitVec 4) (g : BitVec 5) (k : BitVec 3) (sc : BitVec 4) : BitVec 32 :=
  0x23000070#32 ||| Decode.put iv 30 ||| Decode.put a 16 ||| Decode.put g 11 ||| Decode.put k 8 ||| Decode.put sc 0
/-- The word of vred.add.row (R109). -/
def Decode.wVredAddRow (iv : BitVec 2) (d a : BitVec 4) (k : BitVec 3) (sc : BitVec 4) : BitVec 32 :=
  0x23000080#32 ||| Decode.put iv 30 ||| Decode.put d 20 ||| Decode.put a 16 ||| Decode.put k 8 ||| Decode.put sc 0
/-- The word of vred.min.row (R109). -/
def Decode.wVredMinRow (iv : BitVec 2) (d a : BitVec 4) (k : BitVec 3) (sc : BitVec 4) : BitVec 32 :=
  0x23000090#32 ||| Decode.put iv 30 ||| Decode.put d 20 ||| Decode.put a 16 ||| Decode.put k 8 ||| Decode.put sc 0
/-- The word of vred.max.row (R109). -/
def Decode.wVredMaxRow (iv : BitVec 2) (d a : BitVec 4) (k : BitVec 3) (sc : BitVec 4) : BitVec 32 :=
  0x230000A0#32 ||| Decode.put iv 30 ||| Decode.put d 20 ||| Decode.put a 16 ||| Decode.put k 8 ||| Decode.put sc 0
/-- The word of vred.and.row (R109). -/
def Decode.wVredAndRow (iv : BitVec 2) (d a : BitVec 4) (k : BitVec 3) (sc : BitVec 4) : BitVec 32 :=
  0x230000B0#32 ||| Decode.put iv 30 ||| Decode.put d 20 ||| Decode.put a 16 ||| Decode.put k 8 ||| Decode.put sc 0
/-- The word of vred.or.row (R109). -/
def Decode.wVredOrRow (iv : BitVec 2) (d a : BitVec 4) (k : BitVec 3) (sc : BitVec 4) : BitVec 32 :=
  0x230000C0#32 ||| Decode.put iv 30 ||| Decode.put d 20 ||| Decode.put a 16 ||| Decode.put k 8 ||| Decode.put sc 0
/-- The word of vred.amax.row (R110). -/
def Decode.wVredAmaxRow (iv : BitVec 2) (d a : BitVec 4) (k : BitVec 3) (sc : BitVec 4) : BitVec 32 :=
  0x230000D0#32 ||| Decode.put iv 30 ||| Decode.put d 20 ||| Decode.put a 16 ||| Decode.put k 8 ||| Decode.put sc 0
/-- The word of vred.min.n.row (R109). -/
def Decode.wVredMinNRow (iv : BitVec 2) (d a : BitVec 4) (k : BitVec 3) (sc : BitVec 4) : BitVec 32 :=
  0x230000E0#32 ||| Decode.put iv 30 ||| Decode.put d 20 ||| Decode.put a 16 ||| Decode.put k 8 ||| Decode.put sc 0
/-- The word of vred.max.n.row (R109). -/
def Decode.wVredMaxNRow (iv : BitVec 2) (d a : BitVec 4) (k : BitVec 3) (sc : BitVec 4) : BitVec 32 :=
  0x230000F0#32 ||| Decode.put iv 30 ||| Decode.put d 20 ||| Decode.put a 16 ||| Decode.put k 8 ||| Decode.put sc 0
/-- The word of vred.add.col (R109). -/
def Decode.wVredAddCol (iv : BitVec 2) (d a : BitVec 4) (k : BitVec 3) (sc : BitVec 4) : BitVec 32 :=
  0x23000880#32 ||| Decode.put iv 30 ||| Decode.put d 20 ||| Decode.put a 16 ||| Decode.put k 8 ||| Decode.put sc 0
/-- The word of vred.min.col (R109). -/
def Decode.wVredMinCol (iv : BitVec 2) (d a : BitVec 4) (k : BitVec 3) (sc : BitVec 4) : BitVec 32 :=
  0x23000890#32 ||| Decode.put iv 30 ||| Decode.put d 20 ||| Decode.put a 16 ||| Decode.put k 8 ||| Decode.put sc 0
/-- The word of vred.max.col (R109). -/
def Decode.wVredMaxCol (iv : BitVec 2) (d a : BitVec 4) (k : BitVec 3) (sc : BitVec 4) : BitVec 32 :=
  0x230008A0#32 ||| Decode.put iv 30 ||| Decode.put d 20 ||| Decode.put a 16 ||| Decode.put k 8 ||| Decode.put sc 0
/-- The word of vred.and.col (R109). -/
def Decode.wVredAndCol (iv : BitVec 2) (d a : BitVec 4) (k : BitVec 3) (sc : BitVec 4) : BitVec 32 :=
  0x230008B0#32 ||| Decode.put iv 30 ||| Decode.put d 20 ||| Decode.put a 16 ||| Decode.put k 8 ||| Decode.put sc 0
/-- The word of vred.or.col (R109). -/
def Decode.wVredOrCol (iv : BitVec 2) (d a : BitVec 4) (k : BitVec 3) (sc : BitVec 4) : BitVec 32 :=
  0x230008C0#32 ||| Decode.put iv 30 ||| Decode.put d 20 ||| Decode.put a 16 ||| Decode.put k 8 ||| Decode.put sc 0
/-- The word of vred.amax.col (R110). -/
def Decode.wVredAmaxCol (iv : BitVec 2) (d a : BitVec 4) (k : BitVec 3) (sc : BitVec 4) : BitVec 32 :=
  0x230008D0#32 ||| Decode.put iv 30 ||| Decode.put d 20 ||| Decode.put a 16 ||| Decode.put k 8 ||| Decode.put sc 0
/-- The word of vred.min.n.col (R109). -/
def Decode.wVredMinNCol (iv : BitVec 2) (d a : BitVec 4) (k : BitVec 3) (sc : BitVec 4) : BitVec 32 :=
  0x230008E0#32 ||| Decode.put iv 30 ||| Decode.put d 20 ||| Decode.put a 16 ||| Decode.put k 8 ||| Decode.put sc 0
/-- The word of vred.max.n.col (R109). -/
def Decode.wVredMaxNCol (iv : BitVec 2) (d a : BitVec 4) (k : BitVec 3) (sc : BitVec 4) : BitVec 32 :=
  0x230008F0#32 ||| Decode.put iv 30 ||| Decode.put d 20 ||| Decode.put a 16 ||| Decode.put k 8 ||| Decode.put sc 0
/-- The word of vcvt (R112). -/
def Decode.wVcvt (iv : BitVec 2) (d a t : BitVec 4) (k : BitVec 3) (sc : BitVec 4) : BitVec 32 :=
  0x24000000#32 ||| Decode.put iv 30 ||| Decode.put d 20 ||| Decode.put a 16 ||| Decode.put t 12 ||| Decode.put k 9 ||| Decode.put sc 0
/-- The word of vcvt.n (R112). -/
def Decode.wVcvtN (iv : BitVec 2) (d a t : BitVec 4) (k : BitVec 3) (sc : BitVec 4) : BitVec 32 :=
  0x24000010#32 ||| Decode.put iv 30 ||| Decode.put d 20 ||| Decode.put a 16 ||| Decode.put t 12 ||| Decode.put k 9 ||| Decode.put sc 0
/-- The word of vpack (R113). -/
def Decode.wVpack (iv : BitVec 2) (d a t sc : BitVec 4) : BitVec 32 :=
  0x24000020#32 ||| Decode.put iv 30 ||| Decode.put d 20 ||| Decode.put a 16 ||| Decode.put t 12 ||| Decode.put sc 0
/-- The word of vunpack.i8 (R113). -/
def Decode.wVunpack (iv : BitVec 2) (d a sc : BitVec 4) : BitVec 32 :=
  0x24001030#32 ||| Decode.put iv 30 ||| Decode.put d 20 ||| Decode.put a 16 ||| Decode.put sc 0
/-- The word of vsat (R114). -/
def Decode.wVsat (iv : BitVec 2) (d a t : BitVec 4) (k : BitVec 3) (sc : BitVec 4) : BitVec 32 :=
  0x24000040#32 ||| Decode.put iv 30 ||| Decode.put d 20 ||| Decode.put a 16 ||| Decode.put t 12 ||| Decode.put k 9 ||| Decode.put sc 0
/-- The word of vsat.n (R114). -/
def Decode.wVsatN (iv : BitVec 2) (d a t : BitVec 4) (k : BitVec 3) (sc : BitVec 4) : BitVec 32 :=
  0x24000050#32 ||| Decode.put iv 30 ||| Decode.put d 20 ||| Decode.put a 16 ||| Decode.put t 12 ||| Decode.put k 9 ||| Decode.put sc 0
/-- The word of vrcp (R115). -/
def Decode.wVrcp (iv : BitVec 2) (d a : BitVec 4) (k : BitVec 3) (sc : BitVec 4) : BitVec 32 :=
  0x25000000#32 ||| Decode.put iv 30 ||| Decode.put d 20 ||| Decode.put a 16 ||| Decode.put k 9 ||| Decode.put sc 0
/-- The word of vrsq (R115). -/
def Decode.wVrsq (iv : BitVec 2) (d a : BitVec 4) (k : BitVec 3) (sc : BitVec 4) : BitVec 32 :=
  0x25000010#32 ||| Decode.put iv 30 ||| Decode.put d 20 ||| Decode.put a 16 ||| Decode.put k 9 ||| Decode.put sc 0
/-- The word of vsqrt (R115). -/
def Decode.wVsqrt (iv : BitVec 2) (d a : BitVec 4) (k : BitVec 3) (sc : BitVec 4) : BitVec 32 :=
  0x25000020#32 ||| Decode.put iv 30 ||| Decode.put d 20 ||| Decode.put a 16 ||| Decode.put k 9 ||| Decode.put sc 0
/-- The word of vexp2 (R115). -/
def Decode.wVexp2 (iv : BitVec 2) (d a : BitVec 4) (k : BitVec 3) (sc : BitVec 4) : BitVec 32 :=
  0x25000030#32 ||| Decode.put iv 30 ||| Decode.put d 20 ||| Decode.put a 16 ||| Decode.put k 9 ||| Decode.put sc 0
/-- The word of vlog2 (R115). -/
def Decode.wVlog2 (iv : BitVec 2) (d a : BitVec 4) (k : BitVec 3) (sc : BitVec 4) : BitVec 32 :=
  0x25000040#32 ||| Decode.put iv 30 ||| Decode.put d 20 ||| Decode.put a 16 ||| Decode.put k 9 ||| Decode.put sc 0
/-- The word of vsinpi (R115). -/
def Decode.wVsinpi (iv : BitVec 2) (d a : BitVec 4) (k : BitVec 3) (sc : BitVec 4) : BitVec 32 :=
  0x25000050#32 ||| Decode.put iv 30 ||| Decode.put d 20 ||| Decode.put a 16 ||| Decode.put k 9 ||| Decode.put sc 0
/-- The word of vcospi (R115). -/
def Decode.wVcospi (iv : BitVec 2) (d a : BitVec 4) (k : BitVec 3) (sc : BitVec 4) : BitVec 32 :=
  0x25000060#32 ||| Decode.put iv 30 ||| Decode.put d 20 ||| Decode.put a 16 ||| Decode.put k 9 ||| Decode.put sc 0
/-- The word of vtanh (R115). -/
def Decode.wVtanh (iv : BitVec 2) (d a : BitVec 4) (k : BitVec 3) (sc : BitVec 4) : BitVec 32 :=
  0x25000070#32 ||| Decode.put iv 30 ||| Decode.put d 20 ||| Decode.put a 16 ||| Decode.put k 9 ||| Decode.put sc 0
/-- The word of vdiv (R115). -/
def Decode.wVdiv (iv : BitVec 2) (d a b : BitVec 4) (k : BitVec 3) (sc : BitVec 4) : BitVec 32 :=
  0x25000080#32 ||| Decode.put iv 30 ||| Decode.put d 20 ||| Decode.put a 16 ||| Decode.put b 12 ||| Decode.put k 9 ||| Decode.put sc 0
/-- The word of vadds (R116). -/
def Decode.wVadds (iv : BitVec 2) (d a : BitVec 4) (g : BitVec 5) (k : BitVec 3) (sc : BitVec 4) : BitVec 32 :=
  0x26000000#32 ||| Decode.put iv 30 ||| Decode.put d 20 ||| Decode.put a 16 ||| Decode.put g 11 ||| Decode.put k 8 ||| Decode.put sc 0
/-- The word of vadds.n (R116). -/
def Decode.wVaddsN (iv : BitVec 2) (d a : BitVec 4) (g : BitVec 5) (k : BitVec 3) (sc : BitVec 4) : BitVec 32 :=
  0x26000080#32 ||| Decode.put iv 30 ||| Decode.put d 20 ||| Decode.put a 16 ||| Decode.put g 11 ||| Decode.put k 8 ||| Decode.put sc 0
/-- The word of vmuls (R116). -/
def Decode.wVmuls (iv : BitVec 2) (d a : BitVec 4) (g : BitVec 5) (k : BitVec 3) (sc : BitVec 4) : BitVec 32 :=
  0x26000010#32 ||| Decode.put iv 30 ||| Decode.put d 20 ||| Decode.put a 16 ||| Decode.put g 11 ||| Decode.put k 8 ||| Decode.put sc 0
/-- The word of vmuls.n (R116). -/
def Decode.wVmulsN (iv : BitVec 2) (d a : BitVec 4) (g : BitVec 5) (k : BitVec 3) (sc : BitVec 4) : BitVec 32 :=
  0x26000090#32 ||| Decode.put iv 30 ||| Decode.put d 20 ||| Decode.put a 16 ||| Decode.put g 11 ||| Decode.put k 8 ||| Decode.put sc 0
/-- The word of vfmas (R116). -/
def Decode.wVfmas (iv : BitVec 2) (d a : BitVec 4) (g : BitVec 5) (k : BitVec 3) (sc : BitVec 4) : BitVec 32 :=
  0x26000020#32 ||| Decode.put iv 30 ||| Decode.put d 20 ||| Decode.put a 16 ||| Decode.put g 11 ||| Decode.put k 8 ||| Decode.put sc 0
/-- The word of vbcast (R116). -/
def Decode.wVbcast (iv : BitVec 2) (d : BitVec 4) (g : BitVec 5) (k : BitVec 3) (sc : BitVec 4) : BitVec 32 :=
  0x26000030#32 ||| Decode.put iv 30 ||| Decode.put d 20 ||| Decode.put g 11 ||| Decode.put k 8 ||| Decode.put sc 0
/-- The word of vget (R116). -/
def Decode.wVget (iv : BitVec 2) (a : BitVec 4) (g : BitVec 5) (k : BitVec 3) (sc : BitVec 4) : BitVec 32 :=
  0x26000040#32 ||| Decode.put iv 30 ||| Decode.put a 16 ||| Decode.put g 11 ||| Decode.put k 8 ||| Decode.put sc 0
/-- The word of vget.n (R116). -/
def Decode.wVgetN (iv : BitVec 2) (a : BitVec 4) (g : BitVec 5) (k : BitVec 3) (sc : BitVec 4) : BitVec 32 :=
  0x26000060#32 ||| Decode.put iv 30 ||| Decode.put a 16 ||| Decode.put g 11 ||| Decode.put k 8 ||| Decode.put sc 0
/-- The word of vset (R116). -/
def Decode.wVset (iv : BitVec 2) (d : BitVec 4) (g : BitVec 5) (k : BitVec 3) (sc : BitVec 4) : BitVec 32 :=
  0x26000050#32 ||| Decode.put iv 30 ||| Decode.put d 20 ||| Decode.put g 11 ||| Decode.put k 8 ||| Decode.put sc 0
/-- The word of vld (R118). -/
def Decode.wVld (iv : BitVec 2) (d : BitVec 4) (b : BitVec 5) (t : BitVec 4) (k : BitVec 3) (l : BitVec 2) (sc : BitVec 4) : BitVec 32 :=
  0x27000000#32 ||| Decode.put iv 30 ||| Decode.put d 20 ||| Decode.put b 15 ||| Decode.put t 10 ||| Decode.put k 7 ||| Decode.put l 4 ||| Decode.put sc 0
/-- The word of vst (R118). -/
def Decode.wVst (iv : BitVec 2) (d : BitVec 4) (b : BitVec 5) (k : BitVec 3) (l : BitVec 2) (sc : BitVec 4) : BitVec 32 :=
  0x27000040#32 ||| Decode.put iv 30 ||| Decode.put d 20 ||| Decode.put b 15 ||| Decode.put k 7 ||| Decode.put l 4 ||| Decode.put sc 0
/-- The word of vgather (R120). -/
def Decode.wVgather (iv : BitVec 2) (d : BitVec 4) (b : BitVec 5) (i : BitVec 4) (k : BitVec 3) (l : BitVec 2) (sc : BitVec 4) : BitVec 32 :=
  0x28000000#32 ||| Decode.put iv 30 ||| Decode.put d 20 ||| Decode.put b 15 ||| Decode.put i 10 ||| Decode.put k 7 ||| Decode.put l 4 ||| Decode.put sc 0
/-- The word of vscatter (R120). -/
def Decode.wVscatter (iv : BitVec 2) (d : BitVec 4) (b : BitVec 5) (i : BitVec 4) (k : BitVec 3) (l : BitVec 2) (sc : BitVec 4) : BitVec 32 :=
  0x28000040#32 ||| Decode.put iv 30 ||| Decode.put d 20 ||| Decode.put b 15 ||| Decode.put i 10 ||| Decode.put k 7 ||| Decode.put l 4 ||| Decode.put sc 0
/-- The word of vdot (R121). -/
def Decode.wVdot (iv : BitVec 2) (d a b : BitVec 4) (k : BitVec 3) (sc : BitVec 4) : BitVec 32 :=
  0x29000000#32 ||| Decode.put iv 30 ||| Decode.put d 20 ||| Decode.put a 16 ||| Decode.put b 12 ||| Decode.put k 9 ||| Decode.put sc 0
/-- The word of vdot.n (R121). -/
def Decode.wVdotN (iv : BitVec 2) (d a b : BitVec 4) (k : BitVec 3) (sc : BitVec 4) : BitVec 32 :=
  0x29000010#32 ||| Decode.put iv 30 ||| Decode.put d 20 ||| Decode.put a 16 ||| Decode.put b 12 ||| Decode.put k 9 ||| Decode.put sc 0
/-- The word of vcmul (R121). -/
def Decode.wVcmul (iv : BitVec 2) (d a b : BitVec 4) (k : BitVec 3) (sc : BitVec 4) : BitVec 32 :=
  0x29000020#32 ||| Decode.put iv 30 ||| Decode.put d 20 ||| Decode.put a 16 ||| Decode.put b 12 ||| Decode.put k 9 ||| Decode.put sc 0
/-- The word of vbmax (R122). -/
def Decode.wVbmax (iv : BitVec 2) (d a : BitVec 4) (k : BitVec 3) (sc : BitVec 4) : BitVec 32 :=
  0x2A000000#32 ||| Decode.put iv 30 ||| Decode.put d 20 ||| Decode.put a 16 ||| Decode.put k 9 ||| Decode.put sc 0
/-- The word of vscale (R122). -/
def Decode.wVscale (iv : BitVec 2) (d a sc : BitVec 4) : BitVec 32 :=
  0x2A000010#32 ||| Decode.put iv 30 ||| Decode.put d 20 ||| Decode.put a 16 ||| Decode.put sc 0
/-- The word of vquant (R122). -/
def Decode.wVquant (iv : BitVec 2) (d a : BitVec 4) (k : BitVec 3) (sc : BitVec 4) : BitVec 32 :=
  0x2A000020#32 ||| Decode.put iv 30 ||| Decode.put d 20 ||| Decode.put a 16 ||| Decode.put k 9 ||| Decode.put sc 0
/-- The word of vrand (R123). -/
def Decode.wVrand (iv : BitVec 2) (d : BitVec 4) (k : BitVec 3) (sc : BitVec 4) : BitVec 32 :=
  0x2B000000#32 ||| Decode.put iv 30 ||| Decode.put d 20 ||| Decode.put k 9 ||| Decode.put sc 0
/-- The word of vtag.set (R123). -/
def Decode.wVtagSet (iv : BitVec 2) (d a t sc : BitVec 4) : BitVec 32 :=
  0x2B000010#32 ||| Decode.put iv 30 ||| Decode.put d 20 ||| Decode.put a 16 ||| Decode.put t 12 ||| Decode.put sc 0
/-- The word of vtag.get (R123). -/
def Decode.wVtagGet (iv : BitVec 2) (d a : BitVec 4) (l : BitVec 1) (k : BitVec 3) (sc : BitVec 4) : BitVec 32 :=
  0x2B000020#32 ||| Decode.put iv 30 ||| Decode.put d 20 ||| Decode.put a 16 ||| Decode.put l 12 ||| Decode.put k 9 ||| Decode.put sc 0
/-- The word of kand (R124). -/
def Decode.wKand (iv : BitVec 2) (d a b : BitVec 3) (sc : BitVec 4) : BitVec 32 :=
  0x2C000000#32 ||| Decode.put iv 30 ||| Decode.put d 20 ||| Decode.put a 16 ||| Decode.put b 12 ||| Decode.put sc 0
/-- The word of kor (R124). -/
def Decode.wKor (iv : BitVec 2) (d a b : BitVec 3) (sc : BitVec 4) : BitVec 32 :=
  0x2C000010#32 ||| Decode.put iv 30 ||| Decode.put d 20 ||| Decode.put a 16 ||| Decode.put b 12 ||| Decode.put sc 0
/-- The word of kxor (R124). -/
def Decode.wKxor (iv : BitVec 2) (d a b : BitVec 3) (sc : BitVec 4) : BitVec 32 :=
  0x2C000020#32 ||| Decode.put iv 30 ||| Decode.put d 20 ||| Decode.put a 16 ||| Decode.put b 12 ||| Decode.put sc 0
/-- The word of knot (R124). -/
def Decode.wKnot (iv : BitVec 2) (d a : BitVec 3) (sc : BitVec 4) : BitVec 32 :=
  0x2C000030#32 ||| Decode.put iv 30 ||| Decode.put d 20 ||| Decode.put a 16 ||| Decode.put sc 0
/-- The word of kmov (R124). -/
def Decode.wKmov (iv : BitVec 2) (d a : BitVec 3) (sc : BitVec 4) : BitVec 32 :=
  0x2C000040#32 ||| Decode.put iv 30 ||| Decode.put d 20 ||| Decode.put a 16 ||| Decode.put sc 0
/-- The word of kpop (R124). -/
def Decode.wKpop (iv : BitVec 2) (d : BitVec 4) (a : BitVec 3) (sc : BitVec 4) : BitVec 32 :=
  0x2C000050#32 ||| Decode.put iv 30 ||| Decode.put d 20 ||| Decode.put a 16 ||| Decode.put sc 0
/-- The word of kany (R124). -/
def Decode.wKany (iv : BitVec 2) (d : BitVec 4) (a : BitVec 3) (b sc : BitVec 4) : BitVec 32 :=
  0x2C000060#32 ||| Decode.put iv 30 ||| Decode.put d 20 ||| Decode.put a 16 ||| Decode.put b 12 ||| Decode.put sc 0
/-- The word of kall (R124). -/
def Decode.wKall (iv : BitVec 2) (d : BitVec 4) (a : BitVec 3) (b sc : BitVec 4) : BitVec 32 :=
  0x2C000070#32 ||| Decode.put iv 30 ||| Decode.put d 20 ||| Decode.put a 16 ||| Decode.put b 12 ||| Decode.put sc 0
/-- The word of kset (R124). -/
def Decode.wKset (iv : BitVec 2) (d : BitVec 3) (h l sc : BitVec 4) : BitVec 32 :=
  0x2C000080#32 ||| Decode.put iv 30 ||| Decode.put d 20 ||| Decode.put h 16 ||| Decode.put l 12 ||| Decode.put sc 0
/-- The word of cp (R296). -/
def Decode.wCp (iv : BitVec 2) (d a b : BitVec 5) (q : BitVec 3) (sc : BitVec 4) : BitVec 32 :=
  0x30000000#32 ||| Decode.put iv 30 ||| Decode.put d 19 ||| Decode.put a 14 ||| Decode.put b 9 ||| Decode.put q 6 ||| Decode.put sc 0
/-- The word of mm.bf16 (R299). -/
def Decode.wMmBf16 (iv : BitVec 2) (d a : BitVec 5) (q : BitVec 3) (sc : BitVec 4) : BitVec 32 :=
  0x31000000#32 ||| Decode.put iv 30 ||| Decode.put d 19 ||| Decode.put a 14 ||| Decode.put q 6 ||| Decode.put sc 0
/-- The word of mm.f16 (R299). -/
def Decode.wMmF16 (iv : BitVec 2) (d a : BitVec 5) (q : BitVec 3) (sc : BitVec 4) : BitVec 32 :=
  0x31000200#32 ||| Decode.put iv 30 ||| Decode.put d 19 ||| Decode.put a 14 ||| Decode.put q 6 ||| Decode.put sc 0
/-- The word of mm.e4m3 (R299). -/
def Decode.wMmE4m3 (iv : BitVec 2) (d a : BitVec 5) (q : BitVec 3) (sc : BitVec 4) : BitVec 32 :=
  0x31000400#32 ||| Decode.put iv 30 ||| Decode.put d 19 ||| Decode.put a 14 ||| Decode.put q 6 ||| Decode.put sc 0
/-- The word of mm.e5m2 (R299). -/
def Decode.wMmE5m2 (iv : BitVec 2) (d a : BitVec 5) (q : BitVec 3) (sc : BitVec 4) : BitVec 32 :=
  0x31000600#32 ||| Decode.put iv 30 ||| Decode.put d 19 ||| Decode.put a 14 ||| Decode.put q 6 ||| Decode.put sc 0
/-- The word of mm.i8 (R299). -/
def Decode.wMmI8 (iv : BitVec 2) (d a : BitVec 5) (q : BitVec 3) (sc : BitVec 4) : BitVec 32 :=
  0x31000800#32 ||| Decode.put iv 30 ||| Decode.put d 19 ||| Decode.put a 14 ||| Decode.put q 6 ||| Decode.put sc 0
/-- The word of mm.tern (R299). -/
def Decode.wMmTern (iv : BitVec 2) (d a : BitVec 5) (q : BitVec 3) (sc : BitVec 4) : BitVec 32 :=
  0x31000A00#32 ||| Decode.put iv 30 ||| Decode.put d 19 ||| Decode.put a 14 ||| Decode.put q 6 ||| Decode.put sc 0
/-- The word of mm.f32 (R299). -/
def Decode.wMmF32 (iv : BitVec 2) (d a : BitVec 5) (q : BitVec 3) (sc : BitVec 4) : BitVec 32 :=
  0x31000C00#32 ||| Decode.put iv 30 ||| Decode.put d 19 ||| Decode.put a 14 ||| Decode.put q 6 ||| Decode.put sc 0
/-- The word of mm.c32 (R299). -/
def Decode.wMmC32 (iv : BitVec 2) (d a : BitVec 5) (q : BitVec 3) (sc : BitVec 4) : BitVec 32 :=
  0x31000E00#32 ||| Decode.put iv 30 ||| Decode.put d 19 ||| Decode.put a 14 ||| Decode.put q 6 ||| Decode.put sc 0
/-- The word of mm.u (R281). -/
def Decode.wMmU (iv : BitVec 2) (d a : BitVec 5) (q : BitVec 3) (sc : BitVec 4) : BitVec 32 :=
  0x31001000#32 ||| Decode.put iv 30 ||| Decode.put d 19 ||| Decode.put a 14 ||| Decode.put q 6 ||| Decode.put sc 0
/-- The word of acc.clr (R304). -/
def Decode.wAccClr (iv : BitVec 2) (d : BitVec 5) (z t : BitVec 4) (q : BitVec 3) (sc : BitVec 4) : BitVec 32 :=
  0x32000000#32 ||| Decode.put iv 30 ||| Decode.put d 19 ||| Decode.put z 14 ||| Decode.put t 9 ||| Decode.put q 6 ||| Decode.put sc 0
/-- The word of acc.rd (R304). -/
def Decode.wAccRd (iv : BitVec 2) (d z : BitVec 4) (r : BitVec 3) (sc : BitVec 4) : BitVec 32 :=
  0x32000010#32 ||| Decode.put iv 30 ||| Decode.put d 19 ||| Decode.put z 14 ||| Decode.put r 9 ||| Decode.put sc 0
/-- The word of acc.rd.c32 (R304). -/
def Decode.wAccRdC32 (iv : BitVec 2) (d z : BitVec 4) (r : BitVec 3) (sc : BitVec 4) : BitVec 32 :=
  0x32001010#32 ||| Decode.put iv 30 ||| Decode.put d 19 ||| Decode.put z 14 ||| Decode.put r 9 ||| Decode.put sc 0
/-- The word of acc.wr (R304). -/
def Decode.wAccWr (iv : BitVec 2) (d z : BitVec 4) (r : BitVec 3) (sc : BitVec 4) : BitVec 32 :=
  0x32000020#32 ||| Decode.put iv 30 ||| Decode.put d 19 ||| Decode.put z 14 ||| Decode.put r 9 ||| Decode.put sc 0
/-- The word of acc.wr.c32 (R304). -/
def Decode.wAccWrC32 (iv : BitVec 2) (d z : BitVec 4) (r : BitVec 3) (sc : BitVec 4) : BitVec 32 :=
  0x32001020#32 ||| Decode.put iv 30 ||| Decode.put d 19 ||| Decode.put z 14 ||| Decode.put r 9 ||| Decode.put sc 0
/-- The word of acc.st (R304). -/
def Decode.wAccSt (iv : BitVec 2) (d a : BitVec 5) (z : BitVec 4) (q : BitVec 3) (sc : BitVec 4) : BitVec 32 :=
  0x32000030#32 ||| Decode.put iv 30 ||| Decode.put d 19 ||| Decode.put a 14 ||| Decode.put z 9 ||| Decode.put q 6 ||| Decode.put sc 0
/-- The word of acc.st.c32 (R304). -/
def Decode.wAccStC32 (iv : BitVec 2) (d a : BitVec 5) (z : BitVec 4) (q : BitVec 3) (sc : BitVec 4) : BitVec 32 :=
  0x32002030#32 ||| Decode.put iv 30 ||| Decode.put d 19 ||| Decode.put a 14 ||| Decode.put z 9 ||| Decode.put q 6 ||| Decode.put sc 0
/-- The word of await (R305). -/
def Decode.wAwait (iv : BitVec 2) (d a : BitVec 5) (sc : BitVec 4) : BitVec 32 :=
  0x33000000#32 ||| Decode.put iv 30 ||| Decode.put d 19 ||| Decode.put a 14 ||| Decode.put sc 0
/-- The word of await.x (R305). -/
def Decode.wAwaitX (iv : BitVec 2) (d a : BitVec 5) (sc : BitVec 4) : BitVec 32 :=
  0x33000010#32 ||| Decode.put iv 30 ||| Decode.put d 19 ||| Decode.put a 14 ||| Decode.put sc 0
/-- The word of jpoll (R305). -/
def Decode.wJpoll (iv : BitVec 2) (d a : BitVec 5) (sc : BitVec 4) : BitVec 32 :=
  0x33000020#32 ||| Decode.put iv 30 ||| Decode.put d 19 ||| Decode.put a 14 ||| Decode.put sc 0
/-- The word of jdrop (R305). -/
def Decode.wJdrop (iv : BitVec 2) (d a : BitVec 5) (sc : BitVec 4) : BitVec 32 :=
  0x33000030#32 ||| Decode.put iv 30 ||| Decode.put d 19 ||| Decode.put a 14 ||| Decode.put sc 0
/-- The word of gset (R307). -/
def Decode.wGset (iv : BitVec 2) (a : BitVec 5) (q : BitVec 3) (sc : BitVec 4) : BitVec 32 :=
  0x34000000#32 ||| Decode.put iv 30 ||| Decode.put a 14 ||| Decode.put q 6 ||| Decode.put sc 0
/-- The word of gclr (R307). -/
def Decode.wGclr (iv : BitVec 2) (q : BitVec 3) (sc : BitVec 4) : BitVec 32 :=
  0x34000010#32 ||| Decode.put iv 30 ||| Decode.put q 6 ||| Decode.put sc 0
/-- The word of sig.dec (R308). -/
def Decode.wSigDec (iv : BitVec 2) (d a : BitVec 5) (n : BitVec 1) (q : BitVec 3) (sc : BitVec 4) : BitVec 32 :=
  0x34000020#32 ||| Decode.put iv 30 ||| Decode.put d 19 ||| Decode.put a 14 ||| Decode.put n 9 ||| Decode.put q 6 ||| Decode.put sc 0
/-- The word of board (R309). -/
def Decode.wBoard (iv : BitVec 2) (d a b : BitVec 5) (sc : BitVec 4) : BitVec 32 :=
  0x35000000#32 ||| Decode.put iv 30 ||| Decode.put d 19 ||| Decode.put a 14 ||| Decode.put b 9 ||| Decode.put sc 0
/-- The word of unboard (R310). -/
def Decode.wUnboard (iv : BitVec 2) (a : BitVec 5) (sc : BitVec 4) : BitVec 32 :=
  0x35000010#32 ||| Decode.put iv 30 ||| Decode.put a 14 ||| Decode.put sc 0
/-- The word of spawn (R176). -/
def Decode.wSpawn (iv : BitVec 2) (d a b : BitVec 5) (sc : BitVec 4) : BitVec 32 :=
  0x36000000#32 ||| Decode.put iv 30 ||| Decode.put d 19 ||| Decode.put a 14 ||| Decode.put b 9 ||| Decode.put sc 0
/-- The word of spawn.l (R176). -/
def Decode.wSpawnL (iv : BitVec 2) (d a b : BitVec 5) (sc : BitVec 4) : BitVec 32 :=
  0x36000010#32 ||| Decode.put iv 30 ||| Decode.put d 19 ||| Decode.put a 14 ||| Decode.put b 9 ||| Decode.put sc 0
/-- The word of exit (R177). -/
def Decode.wExit (iv : BitVec 2) (sc : BitVec 4) : BitVec 32 :=
  0x36000020#32 ||| Decode.put iv 30 ||| Decode.put sc 0
/-- The word of yield (R178). -/
def Decode.wYield (iv : BitVec 2) (sc : BitVec 4) : BitVec 32 :=
  0x36000030#32 ||| Decode.put iv 30 ||| Decode.put sc 0
/-- The word of migr (R179). -/
def Decode.wMigr (iv : BitVec 2) (a : BitVec 5) (sc : BitVec 4) : BitVec 32 :=
  0x36000040#32 ||| Decode.put iv 30 ||| Decode.put a 14 ||| Decode.put sc 0
/-- The word of land (R181). -/
def Decode.wLand (iv : BitVec 2) (a b : BitVec 5) (sc : BitVec 4) : BitVec 32 :=
  0x37000000#32 ||| Decode.put iv 30 ||| Decode.put a 14 ||| Decode.put b 9 ||| Decode.put sc 0
/-- The word of land.v (R181). -/
def Decode.wLandV (iv : BitVec 2) (a : BitVec 5) (b sc : BitVec 4) : BitVec 32 :=
  0x37000010#32 ||| Decode.put iv 30 ||| Decode.put a 14 ||| Decode.put b 9 ||| Decode.put sc 0
/-- The word of lopen (R183). -/
def Decode.wLopen (iv : BitVec 2) (a : BitVec 5) (sc : BitVec 4) : BitVec 32 :=
  0x37000020#32 ||| Decode.put iv 30 ||| Decode.put a 14 ||| Decode.put sc 0
/-- The word of lclose (R183). -/
def Decode.wLclose (iv : BitVec 2) (a : BitVec 5) (sc : BitVec 4) : BitVec 32 :=
  0x37000030#32 ||| Decode.put iv 30 ||| Decode.put a 14 ||| Decode.put sc 0
/-- The word of wait.l (R183). -/
def Decode.wWaitL (iv : BitVec 2) (d a : BitVec 5) (sc : BitVec 4) : BitVec 32 :=
  0x37000040#32 ||| Decode.put iv 30 ||| Decode.put d 19 ||| Decode.put a 14 ||| Decode.put sc 0
/-- The word of lclr (R183). -/
def Decode.wLclr (iv : BitVec 2) (d a : BitVec 5) (sc : BitVec 4) : BitVec 32 :=
  0x37000050#32 ||| Decode.put iv 30 ||| Decode.put d 19 ||| Decode.put a 14 ||| Decode.put sc 0
/-- The word of umask (R185). -/
def Decode.wUmask (iv : BitVec 2) (sc : BitVec 4) : BitVec 32 :=
  0x37000060#32 ||| Decode.put iv 30 ||| Decode.put sc 0
/-- The word of unmask (R185). -/
def Decode.wUnmask (iv : BitVec 2) (sc : BitVec 4) : BitVec 32 :=
  0x37000070#32 ||| Decode.put iv 30 ||| Decode.put sc 0
/-- The word of bar.quad (R188). -/
def Decode.wBarQuad (iv : BitVec 2) (a : BitVec 5) (sc : BitVec 4) : BitVec 32 :=
  0x38000000#32 ||| Decode.put iv 30 ||| Decode.put a 14 ||| Decode.put sc 0
/-- The word of bar.die (R188). -/
def Decode.wBarDie (iv : BitVec 2) (a : BitVec 5) (sc : BitVec 4) : BitVec 32 :=
  0x38000010#32 ||| Decode.put iv 30 ||| Decode.put a 14 ||| Decode.put sc 0
/-- The word of bar.pkg (R188). -/
def Decode.wBarPkg (iv : BitVec 2) (a : BitVec 5) (sc : BitVec 4) : BitVec 32 :=
  0x38000020#32 ||| Decode.put iv 30 ||| Decode.put a 14 ||| Decode.put sc 0
/-- The word of bar.pod (R188). -/
def Decode.wBarPod (iv : BitVec 2) (a : BitVec 5) (sc : BitVec 4) : BitVec 32 :=
  0x38000030#32 ||| Decode.put iv 30 ||| Decode.put a 14 ||| Decode.put sc 0
/-- The word of bmax.quad (R189). -/
def Decode.wBmaxQuad (iv : BitVec 2) (d a b : BitVec 5) (sc : BitVec 4) : BitVec 32 :=
  0x38000040#32 ||| Decode.put iv 30 ||| Decode.put d 19 ||| Decode.put a 14 ||| Decode.put b 9 ||| Decode.put sc 0
/-- The word of bmax.die (R189). -/
def Decode.wBmaxDie (iv : BitVec 2) (d a b : BitVec 5) (sc : BitVec 4) : BitVec 32 :=
  0x38000050#32 ||| Decode.put iv 30 ||| Decode.put d 19 ||| Decode.put a 14 ||| Decode.put b 9 ||| Decode.put sc 0
/-- The word of bmax.pkg (R189). -/
def Decode.wBmaxPkg (iv : BitVec 2) (d a b : BitVec 5) (sc : BitVec 4) : BitVec 32 :=
  0x38000060#32 ||| Decode.put iv 30 ||| Decode.put d 19 ||| Decode.put a 14 ||| Decode.put b 9 ||| Decode.put sc 0
/-- The word of bmax.pod (R189). -/
def Decode.wBmaxPod (iv : BitVec 2) (d a b : BitVec 5) (sc : BitVec 4) : BitVec 32 :=
  0x38000070#32 ||| Decode.put iv 30 ||| Decode.put d 19 ||| Decode.put a 14 ||| Decode.put b 9 ||| Decode.put sc 0
/-- The word of gang (R190). -/
def Decode.wGang (iv : BitVec 2) (d : BitVec 5) (sc : BitVec 4) : BitVec 32 :=
  0x38000080#32 ||| Decode.put iv 30 ||| Decode.put d 19 ||| Decode.put sc 0
/-- The word of cpush (R193). -/
def Decode.wCpush (iv : BitVec 2) (a b : BitVec 5) (sc : BitVec 4) : BitVec 32 :=
  0x39000000#32 ||| Decode.put iv 30 ||| Decode.put a 14 ||| Decode.put b 9 ||| Decode.put sc 0
/-- The word of cpop (R194). -/
def Decode.wCpop (iv : BitVec 2) (sc : BitVec 4) : BitVec 32 :=
  0x39000010#32 ||| Decode.put iv 30 ||| Decode.put sc 0
/-- The word of cyield (R195). -/
def Decode.wCyield (iv : BitVec 2) (sc : BitVec 4) : BitVec 32 :=
  0x39000020#32 ||| Decode.put iv 30 ||| Decode.put sc 0
/-- The word of cwait (R196). -/
def Decode.wCwait (iv : BitVec 2) (sc : BitVec 4) : BitVec 32 :=
  0x39000030#32 ||| Decode.put iv 30 ||| Decode.put sc 0
/-- The word of msg (R197). -/
def Decode.wMsg (iv : BitVec 2) (a b : BitVec 5) (sc : BitVec 4) : BitVec 32 :=
  0x3A000000#32 ||| Decode.put iv 30 ||| Decode.put a 14 ||| Decode.put b 9 ||| Decode.put sc 0
/-- The word of sysc (R349). -/
def Decode.wSysc (iv : BitVec 2) (sc : BitVec 4) : BitVec 32 :=
  0x3C000000#32 ||| Decode.put iv 30 ||| Decode.put sc 0
/-- The word of trap (R348). -/
def Decode.wTrap (iv : BitVec 2) (a : BitVec 5) (sc : BitVec 4) : BitVec 32 :=
  0x3C000010#32 ||| Decode.put iv 30 ||| Decode.put a 14 ||| Decode.put sc 0
/-- The word of eret (R350). -/
def Decode.wEret (iv : BitVec 2) (sc : BitVec 4) : BitVec 32 :=
  0x3C000020#32 ||| Decode.put iv 30 ||| Decode.put sc 0
/-- The word of brk (R348). -/
def Decode.wBrk (iv : BitVec 2) (sc : BitVec 4) : BitVec 32 :=
  0x3C000030#32 ||| Decode.put iv 30 ||| Decode.put sc 0
/-- The word of halt (R351). -/
def Decode.wHalt (iv : BitVec 2) (sc : BitVec 4) : BitVec 32 :=
  0x3C000040#32 ||| Decode.put iv 30 ||| Decode.put sc 0
/-- The word of mfs (R352). -/
def Decode.wMfs (iv : BitVec 2) (d n m : BitVec 5) (sc : BitVec 4) : BitVec 32 :=
  0x3D000000#32 ||| Decode.put iv 30 ||| Decode.put d 19 ||| Decode.put n 14 ||| Decode.put m 9 ||| Decode.put sc 0
/-- The word of mts (R352). -/
def Decode.wMts (iv : BitVec 2) (d n m : BitVec 5) (sc : BitVec 4) : BitVec 32 :=
  0x3D000010#32 ||| Decode.put iv 30 ||| Decode.put d 19 ||| Decode.put n 14 ||| Decode.put m 9 ||| Decode.put sc 0
/-- The word of ctx.sv (R356). -/
def Decode.wCtxSv (iv : BitVec 2) (a b : BitVec 5) (sc : BitVec 4) : BitVec 32 :=
  0x3E000000#32 ||| Decode.put iv 30 ||| Decode.put a 14 ||| Decode.put b 9 ||| Decode.put sc 0
/-- The word of ctx.ld (R356). -/
def Decode.wCtxLd (iv : BitVec 2) (a b : BitVec 5) (sc : BitVec 4) : BitVec 32 :=
  0x3E000010#32 ||| Decode.put iv 30 ||| Decode.put a 14 ||| Decode.put b 9 ||| Decode.put sc 0
/-- The word of preempt (R356). -/
def Decode.wPreempt (iv : BitVec 2) (a : BitVec 5) (sc : BitVec 4) : BitVec 32 :=
  0x3E000020#32 ||| Decode.put iv 30 ||| Decode.put a 14 ||| Decode.put sc 0
/-- The word of resume (R356). -/
def Decode.wResume (iv : BitVec 2) (a b : BitVec 5) (sc : BitVec 4) : BitVec 32 :=
  0x3E000030#32 ||| Decode.put iv 30 ||| Decode.put a 14 ||| Decode.put b 9 ||| Decode.put sc 0
/-- The word of xmap (R356). -/
def Decode.wXmap (iv : BitVec 2) (a b : BitVec 5) (sc : BitVec 4) : BitVec 32 :=
  0x3E000040#32 ||| Decode.put iv 30 ||| Decode.put a 14 ||| Decode.put b 9 ||| Decode.put sc 0
/-- The word of hint (R25). -/
def Decode.wHintExtend (iv : BitVec 2) (d : BitVec 22) : BitVec 32 :=
  0x3F000000#32 ||| Decode.put iv 30 ||| Decode.put d 0
/-- The word of hint (R70). -/
def Decode.wHintModifier (iv : BitVec 2) (d : BitVec 22) : BitVec 32 :=
  0x3F400000#32 ||| Decode.put iv 30 ||| Decode.put d 0
/-- The word of hint (R72). -/
def Decode.wHintSchedule (iv : BitVec 2) (d : BitVec 22) : BitVec 32 :=
  0x3F800000#32 ||| Decode.put iv 30 ||| Decode.put d 0

/-- The word of an instruction (R60); the all-zero word, which is none, for an event. -/
def encode : Instr → BitVec 32
  | .add iv d a b sc => Decode.wAdd iv d a b sc
  | .sub iv d a b sc => Decode.wSub iv d a b sc
  | .and iv d a b sc => Decode.wAnd iv d a b sc
  | .or iv d a b sc => Decode.wOr iv d a b sc
  | .xor iv d a b sc => Decode.wXor iv d a b sc
  | .andn iv d a b sc => Decode.wAndn iv d a b sc
  | .orn iv d a b sc => Decode.wOrn iv d a b sc
  | .shl iv d a b sc => Decode.wShl iv d a b sc
  | .shr iv d a b sc => Decode.wShr iv d a b sc
  | .sra iv d a b sc => Decode.wSra iv d a b sc
  | .rot iv d a b sc => Decode.wRot iv d a b sc
  | .min iv d a b sc => Decode.wMin iv d a b sc
  | .max iv d a b sc => Decode.wMax iv d a b sc
  | .minn iv d a b sc => Decode.wMinn iv d a b sc
  | .maxn iv d a b sc => Decode.wMaxn iv d a b sc
  | .mul iv d a b sc => Decode.wMul iv d a b sc
  | .mulh iv d a b sc => Decode.wMulh iv d a b sc
  | .mulhn iv d a b sc => Decode.wMulhn iv d a b sc
  | .div iv d a b sc => Decode.wDiv iv d a b sc
  | .divn iv d a b sc => Decode.wDivn iv d a b sc
  | .rem iv d a b sc => Decode.wRem iv d a b sc
  | .remn iv d a b sc => Decode.wRemn iv d a b sc
  | .clz iv d a sc => Decode.wClz iv d a sc
  | .ctz iv d a sc => Decode.wCtz iv d a sc
  | .popc iv d a sc => Decode.wPopc iv d a sc
  | .bswap iv d a sc => Decode.wBswap iv d a sc
  | .bfx iv d a b sc => Decode.wBfx iv d a b sc
  | .bfi iv d a b sc => Decode.wBfi iv d a b sc
  | .sextB iv d a sc => Decode.wSextB iv d a sc
  | .sextH iv d a sc => Decode.wSextH iv d a sc
  | .sextW iv d a sc => Decode.wSextW iv d a sc
  | .zextB iv d a sc => Decode.wZextB iv d a sc
  | .zextH iv d a sc => Decode.wZextH iv d a sc
  | .zextW iv d a sc => Decode.wZextW iv d a sc
  | .cmpEq iv d a b sc => Decode.wCmpEq iv d a b sc
  | .cmpNe iv d a b sc => Decode.wCmpNe iv d a b sc
  | .cmpLt iv d a b sc => Decode.wCmpLt iv d a b sc
  | .cmpLtn iv d a b sc => Decode.wCmpLtn iv d a b sc
  | .cmpLe iv d a b sc => Decode.wCmpLe iv d a b sc
  | .cmpLen iv d a b sc => Decode.wCmpLen iv d a b sc
  | .selNz iv d a b sc => Decode.wSelNz iv d a b sc
  | .addi iv d a i sc => Decode.wAddi iv d a i sc
  | .andi iv d a i sc => Decode.wAndi iv d a i sc
  | .ori iv d a i sc => Decode.wOri iv d a i sc
  | .xori iv d a i sc => Decode.wXori iv d a i sc
  | .muli iv d a i sc => Decode.wMuli iv d a i sc
  | .shli iv d a n sc => Decode.wShli iv d a n sc
  | .shri iv d a n sc => Decode.wShri iv d a n sc
  | .srai iv d a n sc => Decode.wSrai iv d a n sc
  | .roti iv d a n sc => Decode.wRoti iv d a n sc
  | .cmpi iv d a c i sc => Decode.wCmpi iv d a c i sc
  | .ldLit iv d i sc => Decode.wLdLit iv d i sc
  | .movi iv d i => Decode.wMovi iv d i
  | .lea iv d a b sc => Decode.wLea iv d a b sc
  | .xkeySet iv d a b sc => Decode.wXkeySet iv d a b sc
  | .xkeyGet iv d a sc => Decode.wXkeyGet iv d a sc
  | .ld iv d b o z sc => Decode.wLd iv d b o z sc
  | .st iv d b o z sc => Decode.wSt iv d b o z sc
  | .ldX iv d b i h z sc => Decode.wLdX iv d b i h z sc
  | .stX iv d b i h z sc => Decode.wStX iv d b i h z sc
  | .ldS iv d b c o z sc => Decode.wLdS iv d b c o z sc
  | .stS iv d b c o z sc => Decode.wStS iv d b c o z sc
  | .amoAdd iv d a b z sc => Decode.wAmoAdd iv d a b z sc
  | .amoAnd iv d a b z sc => Decode.wAmoAnd iv d a b z sc
  | .amoOr iv d a b z sc => Decode.wAmoOr iv d a b z sc
  | .amoXor iv d a b z sc => Decode.wAmoXor iv d a b z sc
  | .amoMin iv d a b z sc => Decode.wAmoMin iv d a b z sc
  | .amoMax iv d a b z sc => Decode.wAmoMax iv d a b z sc
  | .amoMinn iv d a b z sc => Decode.wAmoMinn iv d a b z sc
  | .amoMaxn iv d a b z sc => Decode.wAmoMaxn iv d a b z sc
  | .amoSwap iv d a b z sc => Decode.wAmoSwap iv d a b z sc
  | .amoFadd iv d a b sc => Decode.wAmoFadd iv d a b sc
  | .cas iv d a b z sc => Decode.wCas iv d a b z sc
  | .waita iv d a b sc => Decode.wWaita iv d a b sc
  | .wake iv a sc => Decode.wWake iv a sc
  | .phase iv c sc => Decode.wPhase iv c sc
  | .fenceX iv sc => Decode.wFenceX iv sc
  | .fenceR iv a sc => Decode.wFenceR iv a sc
  | .fenceA iv a sc => Decode.wFenceA iv a sc
  | .qfence iv a sc => Decode.wQfence iv a sc
  | .ifence iv sc => Decode.wIfence iv sc
  | .tagSet iv a b sc => Decode.wTagSet iv a b sc
  | .tagGet iv d a sc => Decode.wTagGet iv d a sc
  | .xreq iv d a b sc => Decode.wXreq iv d a b sc
  | .xrel iv a sc => Decode.wXrel iv a sc
  | .stF iv d a b z sc => Decode.wStF iv d a b z sc
  | .bc iv a c o => Decode.wBc iv a c o
  | .dbnz iv a o => Decode.wDbnz iv a o
  | .b iv o => Decode.wB iv o
  | .call iv o => Decode.wCall iv o
  | .jr iv a sc => Decode.wJr iv a sc
  | .jrl iv a sc => Decode.wJrl iv a sc
  | .ret iv sc => Decode.wRet iv sc
  | .vadd iv d a b k sc => Decode.wVadd iv d a b k sc
  | .vaddN iv d a b k sc => Decode.wVaddN iv d a b k sc
  | .vsub iv d a b k sc => Decode.wVsub iv d a b k sc
  | .vsubN iv d a b k sc => Decode.wVsubN iv d a b k sc
  | .vmul iv d a b k sc => Decode.wVmul iv d a b k sc
  | .vmulN iv d a b k sc => Decode.wVmulN iv d a b k sc
  | .vfma iv d a b k sc => Decode.wVfma iv d a b k sc
  | .vfms iv d a b k sc => Decode.wVfms iv d a b k sc
  | .vmin iv d a b k sc => Decode.wVmin iv d a b k sc
  | .vminN iv d a b k sc => Decode.wVminN iv d a b k sc
  | .vmax iv d a b k sc => Decode.wVmax iv d a b k sc
  | .vmaxN iv d a b k sc => Decode.wVmaxN iv d a b k sc
  | .vabs iv d a k sc => Decode.wVabs iv d a k sc
  | .vneg iv d a k sc => Decode.wVneg iv d a k sc
  | .vand iv d a b k sc => Decode.wVand iv d a b k sc
  | .vor iv d a b k sc => Decode.wVor iv d a b k sc
  | .vxor iv d a b k sc => Decode.wVxor iv d a b k sc
  | .vandn iv d a b k sc => Decode.wVandn iv d a b k sc
  | .vshl iv d a b k sc => Decode.wVshl iv d a b k sc
  | .vshr iv d a b k sc => Decode.wVshr iv d a b k sc
  | .vsra iv d a b k sc => Decode.wVsra iv d a b k sc
  | .vavg iv d a b k sc => Decode.wVavg iv d a b k sc
  | .vavgN iv d a b k sc => Decode.wVavgN iv d a b k sc
  | .vcmpEq iv d a b k sc => Decode.wVcmpEq iv d a b k sc
  | .vcmpNe iv d a b k sc => Decode.wVcmpNe iv d a b k sc
  | .vcmpLt iv d a b k sc => Decode.wVcmpLt iv d a b k sc
  | .vcmpLtN iv d a b k sc => Decode.wVcmpLtN iv d a b k sc
  | .vcmpLe iv d a b k sc => Decode.wVcmpLe iv d a b k sc
  | .vcmpLeN iv d a b k sc => Decode.wVcmpLeN iv d a b k sc
  | .vcmpUnord iv d a b k sc => Decode.wVcmpUnord iv d a b k sc
  | .vsel iv d a b k sc => Decode.wVsel iv d a b k sc
  | .vperm iv d a b k sc => Decode.wVperm iv d a b k sc
  | .vtrn iv d a k sc => Decode.wVtrn iv d a k sc
  | .vrowb iv d a n k sc => Decode.wVrowb iv d a n k sc
  | .vcolb iv d a n k sc => Decode.wVcolb iv d a n k sc
  | .vslide iv d a n k sc => Decode.wVslide iv d a n k sc
  | .vredAddAll iv a g k sc => Decode.wVredAddAll iv a g k sc
  | .vredMinAll iv a g k sc => Decode.wVredMinAll iv a g k sc
  | .vredMaxAll iv a g k sc => Decode.wVredMaxAll iv a g k sc
  | .vredAndAll iv a g k sc => Decode.wVredAndAll iv a g k sc
  | .vredOrAll iv a g k sc => Decode.wVredOrAll iv a g k sc
  | .vredAmaxAll iv a g k sc => Decode.wVredAmaxAll iv a g k sc
  | .vredMinNAll iv a g k sc => Decode.wVredMinNAll iv a g k sc
  | .vredMaxNAll iv a g k sc => Decode.wVredMaxNAll iv a g k sc
  | .vredAddRow iv d a k sc => Decode.wVredAddRow iv d a k sc
  | .vredMinRow iv d a k sc => Decode.wVredMinRow iv d a k sc
  | .vredMaxRow iv d a k sc => Decode.wVredMaxRow iv d a k sc
  | .vredAndRow iv d a k sc => Decode.wVredAndRow iv d a k sc
  | .vredOrRow iv d a k sc => Decode.wVredOrRow iv d a k sc
  | .vredAmaxRow iv d a k sc => Decode.wVredAmaxRow iv d a k sc
  | .vredMinNRow iv d a k sc => Decode.wVredMinNRow iv d a k sc
  | .vredMaxNRow iv d a k sc => Decode.wVredMaxNRow iv d a k sc
  | .vredAddCol iv d a k sc => Decode.wVredAddCol iv d a k sc
  | .vredMinCol iv d a k sc => Decode.wVredMinCol iv d a k sc
  | .vredMaxCol iv d a k sc => Decode.wVredMaxCol iv d a k sc
  | .vredAndCol iv d a k sc => Decode.wVredAndCol iv d a k sc
  | .vredOrCol iv d a k sc => Decode.wVredOrCol iv d a k sc
  | .vredAmaxCol iv d a k sc => Decode.wVredAmaxCol iv d a k sc
  | .vredMinNCol iv d a k sc => Decode.wVredMinNCol iv d a k sc
  | .vredMaxNCol iv d a k sc => Decode.wVredMaxNCol iv d a k sc
  | .vcvt iv d a t k sc => Decode.wVcvt iv d a t k sc
  | .vcvtN iv d a t k sc => Decode.wVcvtN iv d a t k sc
  | .vpack iv d a t sc => Decode.wVpack iv d a t sc
  | .vunpack iv d a sc => Decode.wVunpack iv d a sc
  | .vsat iv d a t k sc => Decode.wVsat iv d a t k sc
  | .vsatN iv d a t k sc => Decode.wVsatN iv d a t k sc
  | .vrcp iv d a k sc => Decode.wVrcp iv d a k sc
  | .vrsq iv d a k sc => Decode.wVrsq iv d a k sc
  | .vsqrt iv d a k sc => Decode.wVsqrt iv d a k sc
  | .vexp2 iv d a k sc => Decode.wVexp2 iv d a k sc
  | .vlog2 iv d a k sc => Decode.wVlog2 iv d a k sc
  | .vsinpi iv d a k sc => Decode.wVsinpi iv d a k sc
  | .vcospi iv d a k sc => Decode.wVcospi iv d a k sc
  | .vtanh iv d a k sc => Decode.wVtanh iv d a k sc
  | .vdiv iv d a b k sc => Decode.wVdiv iv d a b k sc
  | .vadds iv d a g k sc => Decode.wVadds iv d a g k sc
  | .vaddsN iv d a g k sc => Decode.wVaddsN iv d a g k sc
  | .vmuls iv d a g k sc => Decode.wVmuls iv d a g k sc
  | .vmulsN iv d a g k sc => Decode.wVmulsN iv d a g k sc
  | .vfmas iv d a g k sc => Decode.wVfmas iv d a g k sc
  | .vbcast iv d g k sc => Decode.wVbcast iv d g k sc
  | .vget iv a g k sc => Decode.wVget iv a g k sc
  | .vgetN iv a g k sc => Decode.wVgetN iv a g k sc
  | .vset iv d g k sc => Decode.wVset iv d g k sc
  | .vld iv d b t k l sc => Decode.wVld iv d b t k l sc
  | .vst iv d b k l sc => Decode.wVst iv d b k l sc
  | .vgather iv d b i k l sc => Decode.wVgather iv d b i k l sc
  | .vscatter iv d b i k l sc => Decode.wVscatter iv d b i k l sc
  | .vdot iv d a b k sc => Decode.wVdot iv d a b k sc
  | .vdotN iv d a b k sc => Decode.wVdotN iv d a b k sc
  | .vcmul iv d a b k sc => Decode.wVcmul iv d a b k sc
  | .vbmax iv d a k sc => Decode.wVbmax iv d a k sc
  | .vscale iv d a sc => Decode.wVscale iv d a sc
  | .vquant iv d a k sc => Decode.wVquant iv d a k sc
  | .vrand iv d k sc => Decode.wVrand iv d k sc
  | .vtagSet iv d a t sc => Decode.wVtagSet iv d a t sc
  | .vtagGet iv d a l k sc => Decode.wVtagGet iv d a l k sc
  | .kand iv d a b sc => Decode.wKand iv d a b sc
  | .kor iv d a b sc => Decode.wKor iv d a b sc
  | .kxor iv d a b sc => Decode.wKxor iv d a b sc
  | .knot iv d a sc => Decode.wKnot iv d a sc
  | .kmov iv d a sc => Decode.wKmov iv d a sc
  | .kpop iv d a sc => Decode.wKpop iv d a sc
  | .kany iv d a b sc => Decode.wKany iv d a b sc
  | .kall iv d a b sc => Decode.wKall iv d a b sc
  | .kset iv d h l sc => Decode.wKset iv d h l sc
  | .cp iv d a b q sc => Decode.wCp iv d a b q sc
  | .mmBf16 iv d a q sc => Decode.wMmBf16 iv d a q sc
  | .mmF16 iv d a q sc => Decode.wMmF16 iv d a q sc
  | .mmE4m3 iv d a q sc => Decode.wMmE4m3 iv d a q sc
  | .mmE5m2 iv d a q sc => Decode.wMmE5m2 iv d a q sc
  | .mmI8 iv d a q sc => Decode.wMmI8 iv d a q sc
  | .mmTern iv d a q sc => Decode.wMmTern iv d a q sc
  | .mmF32 iv d a q sc => Decode.wMmF32 iv d a q sc
  | .mmC32 iv d a q sc => Decode.wMmC32 iv d a q sc
  | .mmU iv d a q sc => Decode.wMmU iv d a q sc
  | .accClr iv d z t q sc => Decode.wAccClr iv d z t q sc
  | .accRd iv d z r sc => Decode.wAccRd iv d z r sc
  | .accRdC32 iv d z r sc => Decode.wAccRdC32 iv d z r sc
  | .accWr iv d z r sc => Decode.wAccWr iv d z r sc
  | .accWrC32 iv d z r sc => Decode.wAccWrC32 iv d z r sc
  | .accSt iv d a z q sc => Decode.wAccSt iv d a z q sc
  | .accStC32 iv d a z q sc => Decode.wAccStC32 iv d a z q sc
  | .await iv d a sc => Decode.wAwait iv d a sc
  | .awaitX iv d a sc => Decode.wAwaitX iv d a sc
  | .jpoll iv d a sc => Decode.wJpoll iv d a sc
  | .jdrop iv d a sc => Decode.wJdrop iv d a sc
  | .gset iv a q sc => Decode.wGset iv a q sc
  | .gclr iv q sc => Decode.wGclr iv q sc
  | .sigDec iv d a n q sc => Decode.wSigDec iv d a n q sc
  | .board iv d a b sc => Decode.wBoard iv d a b sc
  | .unboard iv a sc => Decode.wUnboard iv a sc
  | .spawn iv d a b sc => Decode.wSpawn iv d a b sc
  | .spawnL iv d a b sc => Decode.wSpawnL iv d a b sc
  | .exit iv sc => Decode.wExit iv sc
  | .yield iv sc => Decode.wYield iv sc
  | .migr iv a sc => Decode.wMigr iv a sc
  | .land iv a b sc => Decode.wLand iv a b sc
  | .landV iv a b sc => Decode.wLandV iv a b sc
  | .lopen iv a sc => Decode.wLopen iv a sc
  | .lclose iv a sc => Decode.wLclose iv a sc
  | .waitL iv d a sc => Decode.wWaitL iv d a sc
  | .lclr iv d a sc => Decode.wLclr iv d a sc
  | .umask iv sc => Decode.wUmask iv sc
  | .unmask iv sc => Decode.wUnmask iv sc
  | .barQuad iv a sc => Decode.wBarQuad iv a sc
  | .barDie iv a sc => Decode.wBarDie iv a sc
  | .barPkg iv a sc => Decode.wBarPkg iv a sc
  | .barPod iv a sc => Decode.wBarPod iv a sc
  | .bmaxQuad iv d a b sc => Decode.wBmaxQuad iv d a b sc
  | .bmaxDie iv d a b sc => Decode.wBmaxDie iv d a b sc
  | .bmaxPkg iv d a b sc => Decode.wBmaxPkg iv d a b sc
  | .bmaxPod iv d a b sc => Decode.wBmaxPod iv d a b sc
  | .gang iv d sc => Decode.wGang iv d sc
  | .cpush iv a b sc => Decode.wCpush iv a b sc
  | .cpop iv sc => Decode.wCpop iv sc
  | .cyield iv sc => Decode.wCyield iv sc
  | .cwait iv sc => Decode.wCwait iv sc
  | .msg iv a b sc => Decode.wMsg iv a b sc
  | .sysc iv sc => Decode.wSysc iv sc
  | .trap iv a sc => Decode.wTrap iv a sc
  | .eret iv sc => Decode.wEret iv sc
  | .brk iv sc => Decode.wBrk iv sc
  | .halt iv sc => Decode.wHalt iv sc
  | .mfs iv d n m sc => Decode.wMfs iv d n m sc
  | .mts iv d n m sc => Decode.wMts iv d n m sc
  | .ctxSv iv a b sc => Decode.wCtxSv iv a b sc
  | .ctxLd iv a b sc => Decode.wCtxLd iv a b sc
  | .preempt iv a sc => Decode.wPreempt iv a sc
  | .resume iv a b sc => Decode.wResume iv a b sc
  | .xmap iv a b sc => Decode.wXmap iv a b sc
  | .hintExtend iv d => Decode.wHintExtend iv d
  | .hintModifier iv d => Decode.wHintModifier iv d
  | .hintSchedule iv d => Decode.wHintSchedule iv d
  | .longLatencyResult _ => 0#32
  | .deferredFaultDelivery _ => 0#32
  | .userQueueNotify _ _ _ => 0#32
  | .launchPacket _ _ => 0#32
  | .signalOperationPacket _ _ => 0#32
  | .barrierAndPacket _ _ => 0#32
  | .copyPacket _ _ => 0#32
  | .creelSeedPacket _ _ => 0#32
  | .nodeReady _ => 0#32
  | .launchDispatch _ => 0#32
  | .launchComplete _ => 0#32
  | .nodeComplete _ => 0#32
  | .barrierAndComplete _ => 0#32
  | .copyPacketComplete _ _ => 0#32
  | .urgentEntry _ => 0#32
  | .urgentMaskOverrun _ => 0#32
  | .arrivalAdmit _ => 0#32
  | .landingArrival _ => 0#32
  | .landingHeld _ => 0#32
  | .landingRefusalReturn _ => 0#32
  | .forwardAck _ => 0#32
  | .locationUpdate _ => 0#32
  | .creelSnapshot _ => 0#32
  | .creelPublication _ => 0#32
  | .creelDispatch _ _ => 0#32
  | .cpushPlacement _ => 0#32
  | .spillRingRefill _ _ => 0#32
  | .creelWave _ _ => 0#32
  | .creelIntakeRecord _ _ _ => 0#32
  | .waitaReread _ => 0#32
  | .phaseComplete _ => 0#32
  | .fenceRComplete _ => 0#32
  | .fenceAComplete _ => 0#32
  | .tagSetComplete _ => 0#32
  | .translationAnswer _ => 0#32
  | .drainedLineArrival _ _ => 0#32
  | .forwardedAccess _ _ => 0#32
  | .counterHalving => 0#32
  | .migrationCopy _ => 0#32
  | .migrationSwitch => 0#32
  | .migrationRedirectEnd => 0#32
  | .queueHeadStart _ _ => 0#32
  | .joinRelease _ _ => 0#32
  | .copyBeat _ _ => 0#32
  | .matrixGroup _ _ => 0#32
  | .jobComplete _ _ => 0#32
  | .jobReplay _ _ => 0#32
  | .promiseMissed _ => 0#32
  | .roundLapStart => 0#32
  | .roundFrameArrival _ => 0#32
  | .hopRetransmit _ => 0#32
  | .preemptionCut _ => 0#32
  | .contextSaveComplete _ => 0#32
  | .strandResume _ _ => 0#32
  | .parkedCallEntry _ _ => 0#32
  | .messageArrival _ => 0#32
  | .messageDispatch _ => 0#32
  | .hostRevocation _ _ _ => 0#32
  | .revocationComplete _ => 0#32
  | .dieHalt _ => 0#32
  | .bightPreempt _ => 0#32
  | .bightResume _ => 0#32
  | .singleStep _ => 0#32
  | .operatingPointChange _ _ => 0#32
  | .linkWidthChange _ _ => 0#32
  | .linkRetrainComplete _ => 0#32
  | .thermalStep _ => 0#32
  | .thermalRecovery _ => 0#32
  | .thermalShutdown => 0#32
  | .linkReplay _ _ => 0#32
  | .reflectedCopyArrival _ => 0#32
  | .flagIncrement _ => 0#32
  | .reflectionAck _ => 0#32
  | .routeTableWrite _ _ => 0#32
  | .incarnationAnnounce _ _ => 0#32
  | .podBarrierReport _ _ => 0#32
  | .podBarrierRelease _ _ => 0#32
  | .pctlWrite _ _ => 0#32
  | .partitionConfigWrite _ _ _ => 0#32
  | .transmitEntryWrite _ _ _ => 0#32
  | .hwqDoorbell _ _ _ => 0#32
  | .hwqOutboundTransfer _ _ => 0#32
  | .hwqInboundTransfer _ _ => 0#32
  | .hostAtomicOp _ => 0#32
  | .counterClear _ _ => 0#32
  | .traceSample _ _ => 0#32
  | .checkpointStart _ => 0#32
  | .checkpointComplete => 0#32
  | .roundModelLoad _ => 0#32
  | .roundRateWrite _ => 0#32
  | .resetCold _ => 0#32
  | .resetWarm _ => 0#32
  | .patrolScrub _ _ => 0#32
  | .eccError _ => 0#32
  | .dieHaltRelease _ => 0#32
  | .bightContinue _ => 0#32
  | .hostPortTraining _ _ _ _ => 0#32
  | .recoveryImageWrite _ => 0#32
  | .delayTableClear _ => 0#32

/-- Whether an instruction is a word of the table (the events are not). -/
def hasWord : Instr → Bool
  | .longLatencyResult _ => false
  | .deferredFaultDelivery _ => false
  | .userQueueNotify _ _ _ => false
  | .launchPacket _ _ => false
  | .signalOperationPacket _ _ => false
  | .barrierAndPacket _ _ => false
  | .copyPacket _ _ => false
  | .creelSeedPacket _ _ => false
  | .nodeReady _ => false
  | .launchDispatch _ => false
  | .launchComplete _ => false
  | .nodeComplete _ => false
  | .barrierAndComplete _ => false
  | .copyPacketComplete _ _ => false
  | .urgentEntry _ => false
  | .urgentMaskOverrun _ => false
  | .arrivalAdmit _ => false
  | .landingArrival _ => false
  | .landingHeld _ => false
  | .landingRefusalReturn _ => false
  | .forwardAck _ => false
  | .locationUpdate _ => false
  | .creelSnapshot _ => false
  | .creelPublication _ => false
  | .creelDispatch _ _ => false
  | .cpushPlacement _ => false
  | .spillRingRefill _ _ => false
  | .creelWave _ _ => false
  | .creelIntakeRecord _ _ _ => false
  | .waitaReread _ => false
  | .phaseComplete _ => false
  | .fenceRComplete _ => false
  | .fenceAComplete _ => false
  | .tagSetComplete _ => false
  | .translationAnswer _ => false
  | .drainedLineArrival _ _ => false
  | .forwardedAccess _ _ => false
  | .counterHalving => false
  | .migrationCopy _ => false
  | .migrationSwitch => false
  | .migrationRedirectEnd => false
  | .queueHeadStart _ _ => false
  | .joinRelease _ _ => false
  | .copyBeat _ _ => false
  | .matrixGroup _ _ => false
  | .jobComplete _ _ => false
  | .jobReplay _ _ => false
  | .promiseMissed _ => false
  | .roundLapStart => false
  | .roundFrameArrival _ => false
  | .hopRetransmit _ => false
  | .preemptionCut _ => false
  | .contextSaveComplete _ => false
  | .strandResume _ _ => false
  | .parkedCallEntry _ _ => false
  | .messageArrival _ => false
  | .messageDispatch _ => false
  | .hostRevocation _ _ _ => false
  | .revocationComplete _ => false
  | .dieHalt _ => false
  | .bightPreempt _ => false
  | .bightResume _ => false
  | .singleStep _ => false
  | .operatingPointChange _ _ => false
  | .linkWidthChange _ _ => false
  | .linkRetrainComplete _ => false
  | .thermalStep _ => false
  | .thermalRecovery _ => false
  | .thermalShutdown => false
  | .linkReplay _ _ => false
  | .reflectedCopyArrival _ => false
  | .flagIncrement _ => false
  | .reflectionAck _ => false
  | .routeTableWrite _ _ => false
  | .incarnationAnnounce _ _ => false
  | .podBarrierReport _ _ => false
  | .podBarrierRelease _ _ => false
  | .pctlWrite _ _ => false
  | .partitionConfigWrite _ _ _ => false
  | .transmitEntryWrite _ _ _ => false
  | .hwqDoorbell _ _ _ => false
  | .hwqOutboundTransfer _ _ => false
  | .hwqInboundTransfer _ _ => false
  | .hostAtomicOp _ => false
  | .counterClear _ _ => false
  | .traceSample _ _ => false
  | .checkpointStart _ => false
  | .checkpointComplete => false
  | .roundModelLoad _ => false
  | .roundRateWrite _ => false
  | .resetCold _ => false
  | .resetWarm _ => false
  | .patrolScrub _ _ => false
  | .eccError _ => false
  | .dieHaltRelease _ => false
  | .bightContinue _ => false
  | .hostPortTraining _ _ _ _ => false
  | .recoveryImageWrite _ => false
  | .delayTableClear _ => false
  | _ => true
/-- The first word of an instruction in memory order: the low 32 bits, little-endian (R59). -/
noncomputable def decodeBytes : List Byte → Except DecodeError (Instr × List Byte)
  | b0 :: b1 :: b2 :: b3 :: rest => (decode (b3 ++ b2 ++ b1 ++ b0)).map (·, rest)
  | _ => .error .illegalInstruction

/-- The instruction read from nbits bits w numbered as the opcode table numbers them; bits above nbits are zero. -/
noncomputable def decodeTableWord (_nbits w : Nat) : Option Instr :=
  match decode (BitVec.ofNat 32 w) with
  | .ok i => some i
  | .error _ => none

end Sys2Proof
end

