-- ==== Sys2Proof/Machine/Mem.lean ====
section
/-!
DEFINITION. Memory as a list of address and byte pairs in one canonical form, and sorted tables keyed by a number. Addresses
below 2^56 are physical; private memories and scratchpads have their own ranges above (log 4).
-/
namespace Sys2Proof.Machine

/-! ## Tables keyed by a number, sorted by key -/

/-- The entry of a key. -/
def Assoc.get {α : Type} : List (Nat × α) → Nat → Option α
  | [], _ => none
  | (k, x) :: t, a => if k = a then some x else Assoc.get t a

/-- Put an entry at a key. -/
def Assoc.set {α : Type} : List (Nat × α) → Nat → α → List (Nat × α)
  | [], a, x => [(a, x)]
  | p :: t, a, x => if p.1 < a then p :: Assoc.set t a x else (a, x) :: if p.1 = a then t else p :: t

/-- Drop a key. -/
def Assoc.erase {α : Type} (l : List (Nat × α)) (a : Nat) : List (Nat × α) := l.filter fun p => p.1 != a

/-- The entry of a key, or a default. -/
def Assoc.getD {α : Type} (l : List (Nat × α)) (a : Nat) (d : α) : α := (Assoc.get l a).getD d

/-- Change the entry of a key, an absent one standing at its default. -/
def Assoc.modify {α : Type} (l : List (Nat × α)) (a : Nat) (d : α) (f : α → α) : List (Nat × α) :=
  Assoc.set l a (f (Assoc.getD l a d))

/-! ## Memory -/

/-- Memory: addresses strictly rising, no entry equal to what an unlisted address reads as. -/
abbrev Memory := List Host.Cell

/-- What an unlisted address reads as (log 4; zero at creation for private memory, R199). -/
def Memory.blank : Byte := 0

/-- One byte. -/
def Memory.read : Memory → Nat → Byte
  | [], _ => Memory.blank
  | (b, y) :: t, a => if b = a then y else Memory.read t a

/-- Write one byte, keeping the canonical form: a blank byte is not listed. -/
def Memory.write (m : Memory) (a : Nat) (x : Byte) : Memory :=
  if x = Memory.blank then Assoc.erase m a else Assoc.set m a x

/-- The canonical form: addresses strictly rising from lo on, no blank entry. -/
def Memory.wfFrom (lo : Nat) : Memory → Bool
  | [] => true
  | (a, x) :: t => decide (lo ≤ a) && decide (x ≠ Memory.blank) && Memory.wfFrom (a + 1) t

/-- The canonical form of a memory. -/
def Memory.wf (m : Memory) : Bool := Memory.wfFrom 0 m

/-- n bytes from a on, little-endian (R5). -/
def Memory.readN (m : Memory) (a : Nat) : Nat → Nat
  | 0 => 0
  | n + 1 => (Memory.read m a).toNat + 256 * Memory.readN m (a + 1) n

/-- Write the low n bytes of x from a on, little-endian (R5). -/
def Memory.writeN (m : Memory) (a x : Nat) : Nat → Memory
  | 0 => m
  | n + 1 => Memory.writeN (Memory.write m a (BitVec.ofNat 8 x)) (a + 1) (x / 256) n

/-- Write the bytes of x whose bit is set in mask, n of them from a on. -/
def Memory.writeMask (m : Memory) (a x mask : Nat) : Nat → Memory
  | 0 => m
  | n + 1 =>
    Memory.writeMask (if mask % 2 = 1 then Memory.write m a (BitVec.ofNat 8 x) else m) (a + 1) (x / 256) (mask / 2) n

/-- A list of bytes from a on. -/
def Memory.bytes (m : Memory) (a : Nat) : Nat → List Byte
  | 0 => []
  | n + 1 => Memory.read m a :: Memory.bytes m (a + 1) n

/-- Write a list of bytes from a on. -/
def Memory.writeBytes (m : Memory) (a : Nat) : List Byte → Memory
  | [] => m
  | x :: t => Memory.writeBytes (Memory.write m a x) (a + 1) t

/-- Forget every byte of [a, a + n): they read as blank. -/
def Memory.clear (m : Memory) (a n : Nat) : Memory := m.filter fun c => c.1 < a || a + n ≤ c.1

/-- Base of the private memory of a strand (R199): its place in die memory is not the spec's to name (log 4). -/
def Memory.privBase (sid : Nat) : Nat := 2 ^ 66 + sid * 2 ^ 18

/-- Base of the scratchpad of a core (R200). -/
def Memory.scratchBase (core : Nat) : Nat := 2 ^ 60 + core * 2 ^ 18

/-- The line an address lies in (R205). -/
def Memory.line (a : Nat) : Nat := a / 64 * 64

end Sys2Proof.Machine
end

