-- ==== Sys2Proof/Machine/Types.lean ====
section
/-!
DEFINITION. The small types the state is made of: names of registers, modes and places, and what one register file entry,
one wait, one pending fault is. Every field is plain data.
-/
namespace Sys2Proof.Machine

/-- Context class (R126). -/
inductive Cls where
  | light | scalar | full
  deriving DecidableEq, Repr

/-- The code of a class (R126). -/
def Cls.code : Cls → Nat
  | .light => 0
  | .scalar => 1
  | .full => 2

/-- The class of a code, if it names one (R126, R133). -/
def Cls.ofCode : Nat → Option Cls
  | 0 => some .light
  | 1 => some .scalar
  | 2 => some .full
  | _ => none

/-- Privilege mode (R20): the value 11 of smode.priv never occurs. -/
inductive Mode where
  | user | supervisor | hypervisor
  deriving DecidableEq, Repr

/-- smode.priv (R18). -/
def Mode.code : Mode → Nat
  | .user => 0
  | .supervisor => 1
  | .hypervisor => 2

/-- The mode of a code; 11, which never occurs, is read as hypervisor. -/
def Mode.ofCode : Nat → Mode
  | 0 => .user
  | 1 => .supervisor
  | _ => .hypervisor

/-- The higher of two modes (R318). -/
def Mode.max (a b : Mode) : Mode := if a.code ≤ b.code then b else a

/-- A guard's three states (R10). -/
inductive Guard where
  | isFalse | isTrue | unresolved
  deriving DecidableEq, Repr

/-- The 2-bit state of a guard (R10). -/
def Guard.code : Guard → BitVec 2
  | .isFalse => 0
  | .isTrue => 1
  | .unresolved => 2

/-- The guard of a 2-bit state; 11, which never occurs, is read as unresolved. -/
def Guard.ofCode (b : BitVec 2) : Guard :=
  if b = 0 then .isFalse else if b = 1 then .isTrue else .unresolved

/-- A register that a strand names (R8, R9): its file and its number. -/
inductive RegName where
  | g (n : Nat)
  | v (n : Nat)
  | k (n : Nat)
  | q (n : Nat)
  | z (n : Nat)
  deriving DecidableEq, Repr

/-- The coding of a register in tval (R9): the file in [10:8], the number in [4:0]. -/
def RegName.code : RegName → Word
  | .g n => BitVec.ofNat 64 (n % 32)
  | .v n => BitVec.ofNat 64 (0x100 + n % 32)
  | .k n => BitVec.ofNat 64 (0x200 + n % 32)
  | .q n => BitVec.ofNat 64 (0x300 + n % 32)
  | .z n => BitVec.ofNat 64 (0x400 + n % 32)

/-- A vector register: 256 bytes, the 4-bit format tag, the 64-bit scale field (R8, R10). -/
structure VReg where
  data  : VBits := 0
  tag   : BitVec 4 := 0
  scale : Word := 0
  deriving DecidableEq, Repr

/-- An accumulator tile with its tag (R8, R10, R202). -/
structure Tile where
  data : TileBits := 0
  tag  : BitVec 4 := 0
  deriving DecidableEq, Repr

/-- The trap registers of one privilege level (R15, R317, R352). -/
structure TrapRegs where
  vec   : Word := 0
  cause : Word := 0
  val   : Word := 0
  xpc   : Word := 0
  deriving DecidableEq, Repr

/-- A deferred fault in the pending list (R321): cause, tval and the level R318 found. -/
structure Deferred where
  cause : BitVec 8
  tval  : Word
  level : Mode
  deriving DecidableEq, Repr

/-- A register write that is still outstanding (R22, R67). -/
inductive RegWrite where
  | g (n : BitVec 5) (x : Word)
  | v (n : BitVec 4) (x : VReg)
  /-- Sticky flags of fcr, set when the instruction completes (R104). -/
  | fcr (bits : BitVec 15)
  deriving DecidableEq, Repr

/-- An outstanding long-latency result L: the address of its instruction word, the window positions left, its destination set,
and the writes made when it completes (R22, R67). -/
structure Outst where
  addr   : Word
  left   : Nat
  dests  : List RegName
  writes : List RegWrite
  deriving DecidableEq, Repr

/-- A scope that an instruction names (R65, R130). -/
inductive Scope where
  | core | quad | die | pkg | pod
  deriving DecidableEq, Repr

/-- The scope of an S-format code (R65). -/
def Scope.ofCode : Nat → Option Scope
  | 0 => some .core
  | 1 => some .quad
  | 2 => some .die
  | 3 => some .pkg
  | 4 => some .pod
  | _ => none

/-- A task record at rest (R158), its six registers in order. -/
structure TaskRec where
  pc   : Word
  g1   : Word
  g2   : Word
  g3   : Word
  g4   : Word
  g5   : Word
  g6   : Word
  prio : BitVec 32
  deriving DecidableEq, Repr

/-- What a strand that is not ready waits for (R146). -/
inductive Wait where
  /-- wait.l on a register set; re-executed when a selected bit is set (R183). -/
  | waitL (m : Word)
  /-- waita into G[d] with its watch armed on a line; fired once the watch has fired (R241). -/
  | waitA (line : Nat) (ea : Word) (d : BitVec 5) (fired : Bool)
  /-- A counted arrival at a barrier; d is the destination of a bmax (R188, R189). -/
  | barrier (scope : Scope) (ctx : Nat) (d : Option (BitVec 5))
  /-- cwait (R196). -/
  | cwait
  /-- A counted cpush whose record is not yet placed (R193), with its place in the order of the domain's pushes. -/
  | cpush (r : TaskRec) (die n : Nat)
  /-- phase.pkg, its lines accepted: the writes each path of the die had accepted by then (R218). -/
  | phase (seen : List (Nat × Nat))
  /-- fence.x, likewise (R226). -/
  | fenceX (seen : List (Nat × Nat))
  /-- fence.r naming one window, or every window (R245). -/
  | fenceR (win : Option Nat)
  /-- fence.a naming a die, with the number of writes each of its paths had accepted at the request (R225). -/
  | fenceA (die : Nat) (seen : List (Nat × Nat))
  /-- tag.set, checked, its locks not yet written (R250). -/
  | tagSet (ea len : Word)
  /-- xreq, asked and not answered (R252). -/
  | xreq (d : BitVec 5) (va req : Word)
  /-- await (x = false) or await.x (x = true) into G[d] without a result (R305), with its lookahead n (R22). -/
  | await (x : Bool) (d : BitVec 5) (ticket : Word) (n : Nat)
  /-- acc.rd: its entry stands in the matrix queue; the destinations are not yet written (R304); with its lookahead n. -/
  | accRd (n : Nat)
  /-- An instruction that an urgent entry left as not executed: executed again once no urgent strand is in the shadow bank
  (R256, R306). -/
  | withdrawn
  /-- sysc: the call stands in the ring, or the caller is parked (R333). -/
  | call
  /-- Room: a full queue, ring, store or fabric queue, or landings still on their way; the instruction is tried again. -/
  | room
  /-- Room for a forwarding entry on the core that migr leaves (R359); tried again likewise. -/
  | fwdRoom
  deriving DecidableEq, Repr

/-- Whether a wait is one for room: the instruction is tried again. -/
def Wait.tries : Wait → Bool
  | .room => true
  | .fwdRoom => true
  | _ => false

/-- A barrier arrival that has been counted (R188, R191): the head of its unit, the context, the destination of a bmax, and
the value of the release once it has come. -/
structure Counted where
  head   : Word
  scope  : Scope
  ctx    : Nat
  d      : Option (BitVec 5)
  result : Option Word := none
  deriving DecidableEq, Repr

/-- Where a live strand is (R149, R146, R323, R329). -/
inductive Place where
  /-- On its core, with a context of its class. -/
  | resident
  /-- In its core's arrival queue. -/
  | queued
  /-- In the overflow ring of a die, at the given count. -/
  | ring (die idx : Nat)
  /-- At a die's landing agent, waiting for room in the overflow ring. -/
  | agent (die : Nat)
  /-- In its core's urgent queue. -/
  | urgentQ
  /-- In its core's shadow bank. -/
  | shadow
  /-- Cut: the save is going on (R323 steps 2 to 6). -/
  | cut
  /-- Saved in its frame. -/
  | saved
  /-- Saved and made ready by resume, not yet placed (R328). -/
  | toPlace
  deriving DecidableEq, Repr

/-- The state-record flags of a strand and the requests made of it (R322, R325, R358). -/
structure StrandFlags where
  runnable    : Bool := false
  heldJob     : Bool := false
  parked      : Bool := false
  callPending : Bool := false
  stop        : Bool := false
  /-- An accepted preempt that has not yet taken effect. -/
  preempt     : Bool := false
  /-- The strand is held at a bight stop: the number that DEBUG_STOP carries (R345, R358, R400). -/
  held        : Option Nat := none
  /-- clk when the hold began (R265). -/
  heldAt      : Nat := 0
  /-- bight has pre-empted the strand: its record has stop set once it is saved, and only bight's resume clears that (R358). -/
  bight       : Bool := false
  /-- The unit at pc starts without a breakpoint check: bight continued or steps past it. -/
  passBp      : Bool := false
  /-- bight stops the strand after the unit at pc (R400). -/
  stepping    : Bool := false
  /-- The strand was made ready while its save was going on: it is saved and ready when the save ends (R167). -/
  wake        : Bool := false
  deriving DecidableEq, Repr

/-- The strand special registers of R15 other than pc, sid, clk and the trap registers, with the generator (R58). -/
structure Ctl where
  shp     : BitVec 13 := 0x20
  fcr     : BitVec 15 := 0
  urg     : Bool := false
  laTrap  : Bool := false
  priv    : Mode := .user
  laStall : Word := 0
  prio    : BitVec 32 := 0
  lmask   : BitVec 32 := 0
  lvmask  : BitVec 16 := 0
  larr    : BitVec 32 := 0
  lvarr   : BitVec 16 := 0
  lmode   : Bool := false
  part    : BitVec 10 := 0
  cshift  : BitVec 5 := 0
  cbound  : BitVec 6 := 0
  gen     : Word := 0
  seed    : Word := 0
  deriving DecidableEq, Repr

/-- One strand with everything that is its own (R8, R15, R126, R317 to R325). -/
structure Strand where
  live     : Bool := false
  sid      : BitVec 48 := 0
  cls      : Cls := .full
  /-- Partition tag (R394). -/
  pid      : Nat := 0
  core     : Nat := 0
  place    : Place := .resident
  pc       : Word := 0
  /-- Hint words of the unit in issue that have already issued, oldest first (R146). -/
  hints    : List (BitVec 32) := []
  g        : Vector Word 32 := Vector.replicate 32 0
  v        : Vector VReg 16 := Vector.replicate 16 {}
  k        : Vector (BitVec 256) 8 := Vector.replicate 8 0
  q        : Vector Guard 8 := Vector.replicate 8 .isTrue
  ctl      : Ctl := {}
  u        : TrapRegs := {}
  s        : TrapRegs := {}
  h        : TrapRegs := {}
  sdlg     : Vector Word 3 := #v[0x00000003000001BF, 0x00007F68000000DF, 0x000000060000071B]
  hdlg     : Vector Word 3 := #v[0x0000000300000BFF, 0x00017F78000001FF, 0x0000007E0000073B]
  pending  : List Deferred := []
  lost     : Bool := false
  /-- clk when the last fault became due, and how many of the last ones in the list became due then (R346). -/
  dueAt    : Nat := 0
  dueLast  : Nat := 0
  ext      : Vector (BitVec 256) 16 := Vector.replicate 16 0
  inflight : List Outst := []
  wait     : Option Wait := none
  /-- Die on which the strand was created: its private memory and its save area lie there (R199, R323). -/
  home     : Nat := 0
  /-- Fetch buffer: the lines fetched since the last ifence, by physical line (R214). -/
  fbuf     : List (Nat × Line) := []
  flags    : StrandFlags := {}
  parkCycles : Word := 0
  /-- A barrier arrival of the strand that has been counted and not completed (R191). -/
  counted  : Option Counted := none
  /-- Moved by migr and not yet admitted: still counted as resident (R390). -/
  moving   : Bool := false
  /-- Resumed and not yet admitted: its core performs a phase first (R328). -/
  resuming : Bool := false
  /-- Dies the strand has left: the writes their paths have accepted of it may not be performed yet (R225, R230). -/
  left     : List Nat := []
  /-- Physical addresses of the save frame and of the pool frame held (R353). -/
  frame    : Option Nat := none
  pool     : Option Nat := none
  deriving DecidableEq, Repr

/-- Where the hub says a sid is: a core, or a die's landing agent (R329). -/
inductive Loc where
  | core (c : Nat)
  | agent (die : Nat)
  deriving DecidableEq, Repr

end Sys2Proof.Machine
end

