-- ==== Sys2Proof/Machine/Units.lean ====
section
/-!
DEFINITION. The state of the part's other units: engines and job records (14), cores' buffers (10), the landing agents
(18, 22), the Creel (08), the hub with its nodes, fabric and host side (07, 22, 24). Every field is plain data.
-/
namespace Sys2Proof.Machine

/-! ## Engines (14) -/

/-- One end of a copy job (R271, R295). -/
inductive End where
  /-- A virtual address translated by the entries the job took at issue. -/
  | mem (va : Word)
  /-- A byte offset in the scratchpad of a core. -/
  | scratch (core off : Nat)
  /-- A landing address (.l). -/
  | landing (la : Word)
  /-- A physical address, of the hub's copy engine. -/
  | phys (pa : Nat)
  deriving DecidableEq, Repr

/-- The qualifier of a copy job (R296). -/
inductive CopyQual where
  | plain
  | transpose (z pitch cols rows : Nat)
  | entropy (tab outn : Nat)
  | land
  deriving DecidableEq, Repr

/-- A copy job (R271): its ends, its length, the extent entries as they stood at issue (R253), and how far it is. -/
structure CopyJob where
  src   : End
  dst   : End
  len   : Nat
  qual  : CopyQual
  ext   : Vector (BitVec 256) 16
  /-- Bytes already written; under .l, bytes already landed. -/
  done  : Nat := 0
  /-- Next bit of the source, under .dz (R276). -/
  pos   : Nat := 0
  /-- The source as the scratchpad held it at the start, with the job's own writes (R202, R298). -/
  snap  : Option (List Byte) := none
  /-- The .dz length table as it stood at the start (R275); under .l to the issuing strand itself, the bytes it reads. -/
  table : List Byte := []
  deriving DecidableEq, Repr

/-- A matrix form (R278): the formats of its A and B elements. -/
inductive MForm where
  | bf16 | f16 | e4m3 | e5m2 | i8 | tern | f32 | c32
  deriving DecidableEq, Repr

/-- One member of a gang's matrix job with what its own descriptor names (R277, R299). -/
structure MatMember where
  sid   : Nat
  core  : Nat
  guard : Nat
  zt    : Nat
  aBase : Nat
  bBase : Nat
  aScale : Nat
  bScale : Nat
  q0    : Nat
  deriving DecidableEq, Repr

/-- A matrix job (R277 to R282): what every member must agree on, the sampled member set, the members that have joined,
and the next k-group. -/
structure MatJob where
  gid     : BitVec 16
  form    : MForm
  unf     : Bool
  k       : Nat
  acc     : Bool
  sc      : Bool
  unfold  : Word
  quad    : Nat
  split   : Bool
  half    : Nat
  set     : BitVec 4
  members : List MatMember
  /-- The sids of the member set as sampled (R301). -/
  sampled : List Nat
  mismatch : Bool := false
  group   : Nat := 0
  /-- The members' scratchpads as they stood at the start, by core (R202). -/
  snap    : List (Nat × Nat) := []
  deriving DecidableEq, Repr

/-- A Round booking (R288 to R291): the quad of its record, the lap it catches, the frames of its layer, and what it has
seen of them. -/
structure Booking where
  quad    : Nat
  /-- The core whose scratchpad it fills: that of its queue, unless a join stands behind it there (R247, R291). -/
  core    : Nat
  layer   : Nat
  off     : Nat
  lap     : Nat
  first   : Nat
  count   : Nat
  table   : Option (List Byte) := none
  corrupt : Bool := false
  wrote   : Nat := 0
  /-- To be cancelled at the next frame boundary. -/
  cancel  : Bool := false
  /-- To be booked again: on resume (R291), or when the halt of its die ends (R336). -/
  rebook  : Bool := false
  deriving DecidableEq, Repr

/-- What a queue entry does (R259). -/
inductive Work where
  | copy (c : CopyJob)
  | matrix (m : MatJob)
  | accClr (core zt n : Nat) (tag : BitVec 4)
  | accRd (core zt row vd : Nat) (c32 : Bool)
  | accWr (core zt row : Nat) (c32 : Bool) (a b : VReg)
  | accSt (core zt : Nat) (c32 : Bool) (dst : End) (ext : Vector (BitVec 256) 16) (done : Nat)
  | signal (va : Word) (pa : Nat)
  | booking (b : Booking)
  | join (j : Nat)
  deriving DecidableEq, Repr

/-- One entry of an engine queue (R259): the issuing strand, its partition, the guard it names, its job id if it takes
one, its promise (R263), whether it has started, and whether it waits as held (R327). -/
structure Entry where
  owner   : Nat
  pid     : Nat
  guard   : Nat := 0
  id      : Option (BitVec 16) := none
  promise : Nat := 0
  work    : Work
  started : Bool := false
  held    : Bool := false
  /-- Ranges revoked since the issue (R334). -/
  cuts    : List (Word × Nat) := []
  /-- The half of a split quad whose records hold its job (R283); 0 in another quad. -/
  half    : Nat := 0
  /-- Dies the strand had left when it issued the entry: its writes on their paths come before the job's accesses (R230). -/
  left    : List Nat := []
  deriving DecidableEq, Repr

/-- A job record (R261): the ticket as issued, the effective promise, the fields of the status word, and the partial
length a failure records (R267). -/
structure JobRec where
  ticket  : Word
  eff     : Nat
  owners  : List Nat
  late    : BitVec 8 := 0
  replays : Nat := 0
  flags   : BitVec 7 := 0
  cause   : BitVec 8 := 0
  state   : Nat := 0
  partLen : Nat := 0
  /-- A signal entry's memory: the first cause since the strand's previous signal entry is kept per queue (R270). -/
  queue   : Nat := 0
  deriving DecidableEq, Repr

/-- An episode of a barrier context (R188, R189): N, the kind, the arrivals counted, the largest magnitude so far. -/
structure Episode where
  n       : Nat := 0
  isMax   : Bool := false
  sids    : List Nat := []
  mag     : BitVec 32 := 0
  deriving DecidableEq, Repr

/-- A quad (R259 to R262, R188). -/
structure Quad where
  copyQ  : List Entry := []
  mat0   : List Entry := []
  mat1   : List Entry := []
  idc    : BitVec 16 := 0
  /-- Job records by id, those of the upper half of a split quad from 65,536 on (R261, R283). -/
  recs   : List (Nat × JobRec) := []
  wired0 : Episode := {}
  wired1 : Episode := {}
  /-- First cause of a failed job since the strand's previous signal entry in that queue (R270): sid, queue, cause. -/
  fails  : List (Nat × Nat × BitVec 8) := []
  /-- Number of the next join (R247). -/
  joins  : Nat := 0
  /-- The counter banks of the quad, or of the halves of a split one (R144, R398). -/
  bank0  : List (Nat × Word) := []
  bank1  : List (Nat × Word) := []
  deriving DecidableEq, Repr

/-! ## Cores (10, 07, 22) -/

/-- One line of a store buffer (R205): its address, its byte mask, its bytes, the bytes that lie in a revoked range
(R334), and the partition that stored it. -/
structure SbLine where
  line : Nat
  mask : BitVec 64
  data : Line
  dead : BitVec 64 := 0
  pid  : Nat := 0
  /-- The virtual addresses of the line through which it was stored (R334). -/
  vas  : List Nat := []
  deriving DecidableEq, Repr

/-- One line of a read cache with its two granule locks (R206) and its policy (R207): 0 default, 1 stream, 2 keep. -/
structure RcLine where
  line  : Nat
  data  : Line
  lock0 : BitVec 4
  lock1 : BitVec 4
  pol   : Nat
  deriving DecidableEq, Repr

/-- A forwarding entry (R359): the sid that left, its new location, the agents told that have not switched, and when. -/
structure FwdEntry where
  sid  : Nat
  loc  : Loc
  pend : List Nat
  made : Nat
  deriving DecidableEq, Repr

/-- One entry of a delay table (R364). -/
structure DelayEntry where
  sender  : BitVec 32
  lands   : Nat := 0
  msgs    : Nat := 0
  transit : Nat := 0
  queue   : Nat := 0
  run     : Nat := 0
  largest : Nat := 0
  deriving DecidableEq, Repr

/-- What the delay accounting of a running handler keeps (R363): the sending core, the entry time, the first issue. -/
structure HandlerTime where
  sid    : Nat
  /-- Sid of the strand that sent its message (R197). -/
  by_    : Nat
  sender : BitVec 32
  enter  : Nat
  first  : Option Nat := none
  deriving DecidableEq, Repr

/-- A launch a strand of which ran on a core (R138): gen and slot, the queue of its packet as 64 · partition + queue, and
the packet's node. -/
structure Ran where
  launch : Nat
  queue  : Nat
  node   : Nat
  deriving DecidableEq, Repr

/-- A core (R201, R205, R206, R214, R147, R149, R185, R359, R364). -/
structure Core where
  part   : Option (BitVec 10) := none
  tiles  : List (Nat × Tile) := []
  badTiles : List Nat := []
  sbuf   : List SbLine := []
  rcache : List RcLine := []
  icache : List (Nat × Line) := []
  umask  : Option (Nat × Word) := none
  shadow : Option Nat := none
  urgent : List Nat := []
  arrq   : List Nat := []
  fwd    : List FwdEntry := []
  delay  : List DelayEntry := []
  times  : List HandlerTime := []
  bookQ  : List Entry := []
  /-- Launches whose strands ran here and whose stores have not drained since (R138). -/
  ran    : List Ran := []
  /-- By partition, clk of the last trace sample taken here and the sid sampled (R399). -/
  traced : List (Nat × (Nat × Nat)) := []
  deriving DecidableEq, Repr

/-! ## Dies (08, 10, 11, 12, 18, 20, 22, 24) -/

/-- A write accepted on an outbound path (R225): an address and its bytes (some byte lanes of one line). -/
structure PathWrite where
  line : Nat
  mask : BitVec 64
  data : Line
  /-- A strong store, not a drained line. -/
  strong : Bool := false
  /-- The partition of the strand that stored it. -/
  pid : Nat := 0
  /-- The virtual addresses of the line through which it was stored (R334). -/
  vas : List Nat := []
  deriving DecidableEq, Repr

/-- An outbound path to one die (R225): how many writes it has accepted, and those not yet performed, oldest first. -/
structure Path where
  accepted : Nat := 0
  writes   : List PathWrite := []
  deriving DecidableEq, Repr

/-- One entry of a lock-change log (R212). -/
structure LockLog where
  granule : Nat
  clk     : Word
  sid     : Nat
  old     : BitVec 4
  new     : BitVec 4
  source  : Nat
  deriving DecidableEq, Repr

/-- An armed watch (R241): the line and the waiting strand. -/
structure Watch where
  line : Nat
  sid  : Nat
  deriving DecidableEq, Repr

/-- A landing on its way (R181, R329): sender, target address, value or vector, the send time, the sending core, the
source code of R182, and where it is routed to. -/
structure Landing where
  sender : Nat
  addr   : Word
  isV    : Bool
  value  : Word
  vec    : VReg
  source : Nat
  sent   : Nat
  from_  : Nat
  pid    : Nat
  tgt     : Loc
  /-- Already forwarded once: its acknowledgment counts it off at the sending agent. -/
  forwarded : Bool := false
  /-- Of a copy job under .l: its quad and ticket (R273). -/
  job    : Option (Nat × Word) := none
  deriving DecidableEq, Repr

/-- A refusal on its way back (R182): the landing and its cause. -/
structure RefusedLanding where
  l     : Landing
  cause : BitVec 8
  deriving DecidableEq, Repr

/-- An acknowledgment of a landing that was forwarded, to the agent of a die (R329). -/
structure FwdAck where
  die : Nat
  sid : Nat
  loc : Loc
  deriving DecidableEq, Repr

/-- A note of the hub to an agent that a sid has a new location; old is where the forwarding entry stands (R329). -/
structure LocNote where
  die : Nat
  sid : Nat
  old : Loc
  new : Loc
  deriving DecidableEq, Repr

/-- An agent's cached location of a sid with the landings it has in flight to it, and the changes it was told of, old and
new location, which it switches to when the last of them is acknowledged (R329). -/
structure CacheEntry where
  sid    : Nat
  loc    : Loc
  flying : Nat := 0
  next   : List (Loc × Loc) := []
  deriving DecidableEq, Repr

/-- An active message (R197, R362, R363). -/
structure Msg where
  sender : Nat
  pid    : Nat
  die    : Nat
  pc     : Word
  regs   : Vector Word 7
  ext    : Vector (BitVec 256) 16
  priv   : Mode
  seed   : Word
  cshift : BitVec 5
  cbound : BitVec 6
  sent   : Nat
  from_  : Nat
  deriving DecidableEq, Repr

/-- A resident entry of a Creel unit (R158, R159): its effective bucket, whether it is a late entry, its record. -/
structure CEntry where
  bucket : Nat
  late   : Bool
  task   : TaskRec
  deriving DecidableEq, Repr

/-- A claim of a dispatched task (R161), with its place in the order of the domain's dispatches. -/
structure Claim where
  sid    : Nat
  bucket : Nat
  seq    : Nat := 0
  deriving DecidableEq, Repr

/-- A ring held in memory by a free-running head and tail (R149, R164). -/
structure RingPos where
  head : Nat := 0
  tail : Nat := 0
  deriving DecidableEq, Repr

/-- A partition's Creel set on one die (R155 to R168). -/
structure CreelSet where
  entries : List CEntry := []
  /-- Spill rings by absolute bucket modulo 64; their records lie in memory (R164, R391). -/
  rings   : List (Nat × RingPos) := []
  /-- Records in the far list, which lies in memory (R165, R391). -/
  far     : Nat := 0
  claims  : List Claim := []
  base    : Nat := 0
  pushed  : Nat := 0
  retired : Nat := 0
  traffic : Bool := false
  /-- The snapshot's report (R160). -/
  report  : Option Nat := none
  /-- The partition's counter bank of this Creel unit (R172). -/
  bank    : List (Nat × Word) := []
  deriving DecidableEq, Repr

/-- Supervisor registers of a die for one partition (R352). -/
structure DieRegs where
  srlist : Word := 0
  scring : Word := 0
  ssave  : Word := 0
  spool  : Word := 0
  /-- Save frames and pool frames in use, by physical address (R353). -/
  frames : List Nat := []
  pools  : List Nat := []
  /-- Runnable sids not yet posted to the resume list, in the order they became runnable (R354). -/
  posts  : List Nat := []
  /-- Callers parked at a full call ring, in the order they were parked (R333). -/
  parked : List Nat := []
  deriving DecidableEq, Repr

/-- A change the power manager has pending for a die (R366): a width, a point. -/
structure PowerChange where
  width : Option (BitVec 2) := none
  point : Option (BitVec 2) := none
  /-- 0 idle, 1 a change of the point: queues closed, 2 a change of the width alone: link retraining. -/
  stage : Nat := 0
  /-- Changes asked for behind those, oldest first. -/
  widths : List (BitVec 2) := []
  points : List (BitVec 2) := []
  deriving DecidableEq, Repr

/-- Where a page that has migrated lies (R203): its owner die, its physical address there, its size in bytes. -/
structure PagePlace where
  die  : Nat
  addr : Nat
  size : Nat
  deriving DecidableEq, Repr

/-- A core die. -/
structure Die where
  halted  : Bool := false
  /-- clk at the halt (R265, R336). -/
  haltedAt : Nat := 0
  point   : BitVec 2 := 0
  width   : BitVec 2 := 0
  power   : PowerChange := {}
  paths   : List (Nat × Path) := []
  locks   : List LockLog := []
  watches : List Watch := []
  cache   : List CacheEntry := []
  fwd     : List FwdEntry := []
  msgs    : List Msg := []
  /-- Light strands at the agent, waiting for room in their overflow rings, in arrival order (R149). -/
  waiting : List Nat := []
  ovf     : List (Nat × RingPos) := []
  creel   : List (Nat × CreelSet) := []
  bars    : List (Nat × Episode) := []
  regs    : List (Nat × DieRegs) := []
  bbox    : List (BitVec 128) := []
  serverMask : BitVec 1024 := 0
  /-- The die's copy of the owner map (R203, R210). -/
  owners  : List (Nat × PagePlace) := []
  deriving DecidableEq, Repr

/-! ## Counters (R398) -/

/-- The counters the spec names, in the order of their first mention (R398, log 7). -/
inductive Counter where
  | sigLost | creelLate | creelStall | creelPin | creelBad | creelSpill | creelFar | creelOut | creelIn
  | landLost | migAbandon | waitFull | jobGuard | gangWait | jobReplay | jobLost | roundMiss | roundCorrupt
  | roundHop | jobMiss | deferLost | syscPark | xlatDiscard | ctxWait | fwdWait | landFwd | pmWait
  | linkReplay | reflDrop | reflStale | podBad | reflOut | reflIn | cfgDeny | limWait | memCorr
  deriving DecidableEq, Repr

/-- A counter's place in the counter bank (R398). -/
def Counter.index : Counter → Nat
  | .sigLost => 0
  | .creelLate => 1
  | .creelStall => 2
  | .creelPin => 3
  | .creelBad => 4
  | .creelSpill => 5
  | .creelFar => 6
  | .creelOut => 7
  | .creelIn => 8
  | .landLost => 9
  | .migAbandon => 10
  | .waitFull => 11
  | .jobGuard => 12
  | .gangWait => 13
  | .jobReplay => 14
  | .jobLost => 15
  | .roundMiss => 16
  | .roundCorrupt => 17
  | .roundHop => 18
  | .jobMiss => 19
  | .deferLost => 20
  | .syscPark => 21
  | .xlatDiscard => 22
  | .ctxWait => 23
  | .fwdWait => 24
  | .landFwd => 25
  | .pmWait => 26
  | .linkReplay => 27
  | .reflDrop => 28
  | .reflStale => 29
  | .podBad => 30
  | .reflOut => 31
  | .reflIn => 32
  | .cfgDeny => 33
  | .limWait => 34
  | .memCorr => 35

/-! ## Hub (07, 10, 22, 24) -/

/-- What a node does (R139, R140): a launch; an operation on a signal, by virtual and physical address; a list of signals and
thresholds; a copy between ranges, in physical pieces of base and length; a seed list in pieces with its count. -/
inductive NodeBody where
  | launch (pc : Word) (count : Nat) (cls : Cls) (slots arrq : Nat) (cshift : BitVec 5) (cbound : BitVec 6)
      (part : BitVec 10) (seed : Word) (ops : List (Word × Nat × Nat))
  | signal (va : Word) (pa op : Nat) (operand : Word)
  | barrierAnd (list : List (Nat × Word))
  | copy (srcVa dstVa : Word) (src dst : List (Nat × Nat)) (len : Nat)
  | seed (list : List (Nat × Nat)) (count : Nat)
  deriving DecidableEq, Repr

/-- A node (R140): its partition and queue, its fences, its signals, and how far it is. -/
structure Node where
  id     : Nat
  pid    : Nat
  queue  : Nat
  acq    : Bool
  rel    : Bool
  sigVa  : Word
  signal : Option Nat
  wait   : Option Nat
  body   : NodeBody
  ready  : Bool := false
  /-- Strands dispatched, or records pushed, so far. -/
  done   : Nat := 0
  slot   : Option Nat := none
  cause  : BitVec 8 := 0
  /-- Finished: its completion is due. -/
  ended   : Bool := false
  /-- Ranges revoked since the packet was accepted (R137, R334). -/
  cuts   : List (Word × Nat) := []
  deriving DecidableEq, Repr

/-- A launch slot (R127, R128, R141, R142, R145). -/
structure Slot where
  gen     : BitVec 6 := 0
  used    : Bool := false
  node    : Nat := 0
  queue   : Nat := 0
  pid     : Nat := 0
  count   : Nat := 0
  cls     : Cls := .full
  slots   : Nat := 64
  arrq    : Nat := 16
  cshift  : BitVec 5 := 0
  cbound  : BitVec 6 := 0
  part    : BitVec 10 := 0
  seed    : Word := 0
  entry   : Word := 0
  ext     : Vector (BitVec 256) 16 := Vector.replicate 16 0
  /-- Index counters of spawned strands, Creel tasks and handlers (R128). -/
  nSpawn  : Nat := 0
  nTask   : Nat := 0
  nHand   : Nat := 0
  /-- First cause of a strand that ended by R204. -/
  cause   : Option (BitVec 8) := none
  /-- The launch has completed; its slot is freed when the domain bound to it becomes idle (R156). -/
  closed  : Bool := false
  /-- Order in which slots were taken: the newest live launch has the largest (R156). -/
  age     : Nat := 0
  deriving DecidableEq, Repr

/-- A partition's Creel domain at the hub (R156, R160, R167 to R169). -/
structure Domain where
  bound    : Option Nat := none
  cshift   : BitVec 5 := 0
  cbound   : BitVec 6 := 0
  slots    : Nat := 64
  /-- Values read at the last snapshot: pushed, retired, traffic of its interval. -/
  snapPushed  : Nat := 0
  snapRetired : Nat := 0
  snapTraffic : Bool := true
  /-- Numbers pushes that wait and dispatches in their order. -/
  seq      : Nat := 0
  /-- A push or seed record has been counted since the last snapshot (R156). -/
  counted  : Bool := false
  /-- Whether the snapshot is still to be published, when it was taken, and the traffic of the publication before. -/
  pendingPub : Bool := false
  snapAt   : Nat := 0
  prevTraffic : Bool := true
  /-- Consecutive snapshots that found bucket B pinned, and the B they found (R167). -/
  pinned   : Nat := 0
  pinBase  : Nat := 0
  /-- Records sent and accepted (R169). -/
  sent     : Nat := 0
  accepted : Nat := 0
  quiet    : Bool := false
  /-- The last wave, and clk when the device's own values last left for one (R169). -/
  wave     : List WaveEntry := []
  waveAt   : Option Nat := none
  /-- At the root of the group: the members' values that the next wave has gathered; at another member: its own, and its
  children's since it last sent its own (R383). -/
  gather   : List WaveEntry := []
  deriving DecidableEq, Repr

/-- A reflected copy in flight from this device (R373 to R376): the sending strand, window or pod space, destination
device and receive window, offset, bytes, and the flag of an st.f carried behind it. -/
structure Copy where
  sid   : Nat
  pid   : Nat
  /-- Transmit window, or none for pod space. -/
  win   : Option Nat
  dev   : Nat
  rx    : Nat
  off   : Nat
  bytes : List Byte
  /-- A flag increment, not data. -/
  flag  : Bool := false
  /-- Arrived and visible; its acknowledgment is due. -/
  shown : Bool := false
  /-- Of a copy job whose completion the issuing strand has not observed (R245): its ticket. -/
  job   : Option Word := none
  /-- The route table entry it travels by (R369). -/
  route : BitVec 16 := 0
  /-- The queue, as 64 · partition + queue, and the node of the launch that its strand belongs to (R138). -/
  launch : Option (Nat × Nat) := none
  deriving DecidableEq, Repr

/-- What a control flit of this device says (R367, R369, R379, R382, R383). -/
inductive Control where
  /-- A copy or flag of a peer is visible, or dropped: receive window and offset. -/
  | ack (rx off : Nat)
  /-- The incarnation of the device after its reset, for the fabric manager to relay. -/
  | announce (inc : BitVec 16)
  | report (ctx : Nat) (r : PodReport)
  | release (ctx : Nat) (value : BitVec 32)
  | waveUp (group : Nat) (e : WaveEntry)
  | waveDown (group : Nat) (wave : List WaveEntry)
  deriving DecidableEq, Repr

/-- A control flit that leaves this device: partition, head, destination, contents. -/
structure ControlFlit where
  pid  : Nat
  head : FlitHead
  dst  : Nat
  body : Control
  deriving DecidableEq, Repr

/-- A page that is migrating (R210): its first physical address and size in lines, old and new owner, how many lines
have been copied, the lines marked for recopy, and whether the map has been switched. -/
structure Migration where
  pid      : Nat
  page     : Nat
  lines    : Nat
  src      : Nat
  dst      : Nat
  copied   : Nat := 0
  recopy   : List Nat := []
  switched : Bool := false
  deriving DecidableEq, Repr

/-- What the hub knows of a page (R203, log 34): its size, and the partition whose tables mapped it. -/
structure PageInfo where
  size : Nat
  pid  : Nat
  deriving DecidableEq, Repr

/-- A pod barrier context on this device (R381, R382). -/
structure PodEpisode where
  ep      : Episode := {}
  /-- Arrivals counted, own and of the children, and how many of them have been reported to the parent. -/
  counted : Nat := 0
  sent    : Nat := 0
  /-- clk of the last report. -/
  last    : Option Nat := none
  deriving DecidableEq, Repr

/-- The Round and its controller (R284 to R287, R403). -/
structure Round where
  model    : Option RoundModel := none
  /-- A model written and not yet started (R403). -/
  pending  : Option RoundModel := none
  /-- Rate of the lap in progress, in quarters. -/
  rate     : Nat := 4
  /-- Rate changes requested, with the laps they take effect at (R287). -/
  rates    : List (Nat × Nat) := []
  lap      : Nat := 0
  /-- Ls of the lap in progress. -/
  start    : Nat := 0
  fill     : Bool := true
  /-- Start, rate and kind of the lap before. -/
  prevStart : Nat := 0
  prevRate : Nat := 4
  prevFill : Bool := true
  /-- Lap and number of the next frame to pass each station that has seen one. -/
  pos      : List (Nat × (Nat × Nat)) := []
  deriving DecidableEq, Repr

/-- A revocation in progress (R334): partition, first byte, length. -/
structure Revocation where
  pid  : Nat
  base : Word
  len  : Nat
  deriving DecidableEq, Repr

/-- A host port (R387): trained, rate in GT/s, width in lanes. -/
structure HostPort where
  up    : Bool := true
  rate  : Nat := 64
  width : Nat := 16
  deriving DecidableEq, Repr

/-- A hardware queue's hub side (R397): the last count reported at the host address. -/
structure HwQueue where
  told : Word := 0
  deriving DecidableEq, Repr

/-- A partition's block and what the hub keeps for it (R389, R390, R398). -/
structure Part where
  /-- Configuration dwords by offset, those that are not zero. -/
  cfg      : List (Nat × Word) := []
  counters : List (Nat × Word) := []
  /-- Strands that hold a context (R390). -/
  resident : Nat := 0
  dom      : Domain := {}
  hwq      : List (Nat × HwQueue) := []
  pods     : List (Nat × PodEpisode) := []
  /-- Creel windows: the bytes of a record slot that have arrived since it was last pushed, by `slotKey`
  (R170), with the device they come from. -/
  creelBytes : List (Nat × (BitVec 64 × Nat)) := []
  deriving DecidableEq, Repr

/-- A message or interrupt to the host (R387, R397, R402). -/
structure HostIrq where
  vector : Nat
  deriving DecidableEq, Repr

/-- The hub. -/
structure Hub where
  parts    : List (Nat × Part) := []
  nodes    : List Node := []
  nextNode : Nat := 0
  slots    : List (Nat × Slot) := []
  nextAge  : Nat := 0
  pkgBars  : List (Nat × Episode) := []
  landings : List Landing := []
  refusals : List RefusedLanding := []
  acks     : List FwdAck := []
  notes    : List LocNote := []
  msgs     : List Msg := []
  copies   : List Copy := []
  /-- Control flits the device has sent, oldest first (R367). -/
  control  : List ControlFlit := []
  routes   : List (Nat × BitVec 16) := []
  peers    : List (Nat × BitVec 16) := []
  device   : Nat := 0
  inc      : BitVec 16 := 1
  /-- The owner map (R203): where each page that has migrated lies, by number of its first 64 KiB. -/
  owners   : List (Nat × PagePlace) := []
  /-- The pages that entries have been built over, by number of their first 64 KiB (R203, log 34). -/
  pages    : List (Nat × PageInfo) := []
  pageCnt  : List (Nat × Nat) := []
  migs     : List Migration := []
  round    : Round := {}
  revokes  : List Revocation := []
  ports    : Vector HostPort 2 := Vector.replicate 2 {}
  irqs     : List HostIrq := []
  handlers : Nat := 2
  /-- Partition word of the handler cores (R361). -/
  handlerPart : BitVec 10 := 2
  booted   : Bool := true
  firmware : Nat := 0
  ckpt     : Option Word := none
  bbox     : List (BitVec 128) := []
  /-- The package has shut down (R406). -/
  down     : Bool := false
  deriving DecidableEq, Repr

end Sys2Proof.Machine
end

