-- ==== Sys2Proof/Machine/State.lean ====
section
/-!
DEFINITION. The state of the machine, plain data: everything the spec names (INVENTORY.md, State), the reasons a step can
stop, and the machine right after reset.
-/
namespace Sys2Proof.Machine

/-- What happens next (log 2): a strand issues one word, an event of the table comes about, or nothing does. -/
inductive Turn where
  | word (sid : Nat)
  | event (e : Instr)
  | idle
  deriving DecidableEq, Repr

/-- The state. `st` is the strand in issue (while `st.live`); `strands` holds every other live strand, by sid. -/
structure State where
  st      : Strand := {}
  strands : List (Nat × Strand) := []
  /-- Sids in the order in which they became ready or last finished an issue, oldest first (R146). -/
  order   : List Nat := []
  /-- Memory by address: physical addresses of die and host memory, private memories and scratchpads behind them (log 4). -/
  mem     : List Host.Cell := []
  /-- Poisoned 64-byte lines, by line address (R211, R200). -/
  poison  : List Nat := []
  /-- Granule locks that are not zero, by granule address (R212). -/
  locks   : List (Nat × BitVec 4) := []
  cores   : List (Nat × Core) := []
  quads   : List (Nat × Quad) := []
  dies    : List (Nat × Die) := []
  hub     : Hub := {}
  /-- Package cycle counter (R2). -/
  clk     : Word := 0
  /-- The model's own: whether the interlock holds the strand that a trace sample takes, as the step found it (R399). -/
  interlocked : Bool := false
  /-- The model's own: an access has gone over a link that is retraining (R366). -/
  crossed : Bool := false
  /-- The model's own: what happens next, in order (log 2). -/
  agenda  : List Turn := []
  /-- The model's own: the number of free values taken so far (log 3). -/
  free    : Nat := 0
  deriving DecidableEq, Repr

/-- Why the machine stops with a fault. -/
inductive Fault where
  /-- A physical address in none of the ranges the spec maps (R203, R370, R388), met by an access whose entry names it.
  Safe: the spec gives such an access no effect. -/
  | noStorage (pa : Nat)
  deriving DecidableEq, Repr

/-- Why the machine has no meaning for an instruction. -/
inductive Refusal where
  /-- The instruction has no meaning yet; only a refused arm of exec raises it. Safe. -/
  | notModelled (mnemonic : String)
  deriving DecidableEq, Repr

/-- The outcome of a step of this machine. -/
abbrev Out := Host.Outcome State Fault Refusal

/-- The machine right after reset: no strand exists (R131), every queue is empty, every register of the other units holds
its reset value (INVENTORY.md, State; logs 4 to 6). -/
def State.reset : State := {}

end Sys2Proof.Machine
end

