-- ==== Sys2Proof/Machine/Ops.lean ====
section
/-!
DEFINITION. The named operations over the state: access to units and registers, the memory side of a die, the end of a
strand, taking a trap and returning from one.
-/
namespace Sys2Proof.Machine

/-! ## Access to the parts of the state -/

/-- A core. -/
def State.core (s : State) (c : Nat) : Core := Assoc.getD s.cores c {}

/-- Change a core. -/
def State.modCore (s : State) (c : Nat) (f : Core → Core) : State := { s with cores := Assoc.modify s.cores c {} f }

/-- A quad of the package, 256 per die (R1). -/
def State.quad (s : State) (q : Nat) : Quad := Assoc.getD s.quads q {}

/-- Change a quad. -/
def State.modQuad (s : State) (q : Nat) (f : Quad → Quad) : State := { s with quads := Assoc.modify s.quads q {} f }

/-- A core die. -/
def State.die (s : State) (d : Nat) : Die := Assoc.getD s.dies d {}

/-- Change a die. -/
def State.modDie (s : State) (d : Nat) (f : Die → Die) : State := { s with dies := Assoc.modify s.dies d {} f }

/-- Change the hub. -/
def State.modHub (s : State) (f : Hub → Hub) : State := { s with hub := f s.hub }

/-- A partition's block and counts. -/
def State.part (s : State) (p : Nat) : Part := Assoc.getD s.hub.parts p {}

/-- Change a partition. -/
def State.modPart (s : State) (p : Nat) (f : Part → Part) : State :=
  s.modHub fun h => { h with parts := Assoc.modify h.parts p {} f }

/-- A launch slot. -/
def State.slot (s : State) (n : Nat) : Slot := Assoc.getD s.hub.slots n {}

/-- Change a launch slot. -/
def State.modSlot (s : State) (n : Nat) (f : Slot → Slot) : State :=
  s.modHub fun h => { h with slots := Assoc.modify h.slots n {} f }

/-- A dword of a partition's configuration (R389). -/
def State.cfg (s : State) (p off : Nat) : Word := Assoc.getD (s.part p).cfg off 0

/-- Put a dword of a partition's configuration; zero is kept unlisted. -/
def State.setCfg (s : State) (p off : Nat) (x : Word) : State :=
  s.modPart p fun q => { q with cfg := if x = 0 then Assoc.erase q.cfg off else Assoc.set q.cfg off x }

/-- A partition's Creel set on a die (R155). -/
def State.creel (s : State) (d p : Nat) : CreelSet := Assoc.getD (s.die d).creel p {}

/-- Change a partition's Creel set on a die. -/
def State.modCreel (s : State) (d p : Nat) (f : CreelSet → CreelSet) : State :=
  s.modDie d fun x => { x with creel := Assoc.modify x.creel p {} f }

/-- A partition's supervisor registers on a die (R352). -/
def State.dieRegs (s : State) (d p : Nat) : DieRegs := Assoc.getD (s.die d).regs p {}

/-- Change a partition's supervisor registers on a die. -/
def State.modDieRegs (s : State) (d p : Nat) (f : DieRegs → DieRegs) : State :=
  s.modDie d fun x => { x with regs := Assoc.modify x.regs p {} f }

/-- Die of a core (R1: 1,024 cores per die). -/
def dieOf (core : Nat) : Nat := core / 1024

/-- Quad of a core, numbered over the package (R1: 4 cores per quad). -/
def quadOf (core : Nat) : Nat := core / 4

/-- Band of a core, 4 per die, numbered over the package (R1, R389). -/
def bandOf (core : Nat) : Nat := core / 256

/-- Whether the quad of a core is split into tenant halves (R389). -/
def State.splitOf (s : State) (p core : Nat) : Bool := (s.cfg p 0x0010).getLsbD (bandOf core)

/-- A free value (log 3). -/
def State.freeNat (s : State) : Nat := Config.freeValue s.free

/-- The state after a free value has been taken. -/
def State.takeFree (s : State) : State := { s with free := s.free + 1 }

/-! ## Strands -/

/-- Every live strand. -/
def State.all (s : State) : List Strand := (if s.st.live then [s.st] else []) ++ s.strands.map (·.2)

/-- The live strand of a sid. -/
def State.strand (s : State) (sid : Nat) : Option Strand :=
  if s.st.live && s.st.sid.toNat == sid then some s.st else Assoc.get s.strands sid

/-- Change a live strand; no effect if there is none of that sid. -/
def State.modStrand (s : State) (sid : Nat) (f : Strand → Strand) : State :=
  if s.st.live && s.st.sid.toNat == sid then { s with st := f s.st }
  else match Assoc.get s.strands sid with
    | some x => { s with strands := Assoc.set s.strands sid (f x) }
    | none => s

/-- Put a new live strand beside the others. -/
def State.addStrand (s : State) (x : Strand) : State := { s with strands := Assoc.set s.strands x.sid.toNat x }

/-- A strand is no longer live. -/
def State.dropStrand (s : State) (sid : Nat) : State :=
  let s := { s with order := s.order.filter (· != sid) }
  if s.st.live && s.st.sid.toNat == sid then { s with st := {} }
  else { s with strands := Assoc.erase s.strands sid }

/-- Bring a strand into issue: `st` becomes that strand, and the one it replaces stands with the others. -/
def State.focus (s : State) (sid : Nat) : State :=
  if s.st.live && s.st.sid.toNat == sid then s
  else match Assoc.get s.strands sid with
    | none => s
    | some x =>
      let others := Assoc.erase s.strands sid
      { s with st := x, strands := if s.st.live then Assoc.set others s.st.sid.toNat s.st else others }

/-- Change the strand in issue. -/
def State.modSt (s : State) (f : Strand → Strand) : State := { s with st := f s.st }

/-- A strand goes to the back of the order of waiting (R146, R24). -/
def State.toBack (s : State) (sid : Nat) : State := { s with order := s.order.filter (· != sid) ++ [sid] }

/-- Fields of a sid (R127). -/
def sidSlot (sid : Nat) : Nat := sid / 2 ^ 32 % 1024
def sidGen (sid : Nat) : Nat := sid / 2 ^ 42 % 64
def sidKind (sid : Nat) : Nat := sid / 2 ^ 30 % 4
def sidIndex (sid : Nat) : Nat := sid % 2 ^ 30

/-- The sid of its fields (R127). -/
def mkSid (gen slot kind index : Nat) : Nat := gen % 64 * 2 ^ 42 + slot % 1024 * 2 ^ 32 + kind % 4 * 2 ^ 30 + index % 2 ^ 30

/-- The strands that are on a core with a context, the shadow bank's included (R201, R149). -/
def State.onCore (s : State) (c : Nat) : List Strand :=
  s.all.filter fun x => x.core == c && (x.place == .resident || x.place == .shadow || x.place == .cut)

/-- Program counter arithmetic (R97: modulo 2^56; log 9 for the address after the last). -/
def addPc (pc : Word) (n : Nat) : Word := BitVec.ofNat 64 ((pc.toNat + n) % 2 ^ 56)

/-! ## Registers (R8, R76) -/

/-- G[n] of a strand: g0 reads 0 (R8). -/
def Strand.G (x : Strand) (n : BitVec 5) : Word := if n = 0 then 0 else x.g[n.toNat]'n.isLt

/-- G[n] := y: g0 discards writes (R8). -/
def Strand.setG (x : Strand) (n : BitVec 5) (y : Word) : Strand :=
  if n = 0 then x else { x with g := x.g.set n.toNat y n.isLt }

/-- K[n]: k0 reads all ones (R8). -/
def Strand.K (x : Strand) (n : BitVec 3) : BitVec 256 := if n = 0 then BitVec.allOnes 256 else x.k[n.toNat]'n.isLt

/-- K[n] := y: k0 discards writes (R8). -/
def Strand.setK (x : Strand) (n : BitVec 3) (y : BitVec 256) : Strand :=
  if n = 0 then x else { x with k := x.k.set n.toNat y n.isLt }

/-- Q[n]: q0 is always true (R8). -/
def Strand.Q (x : Strand) (n : BitVec 3) : Guard := if n = 0 then .isTrue else x.q[n.toNat]'n.isLt

/-- Q[n] := y: q0 discards writes (R8). -/
def Strand.setQ (x : Strand) (n : BitVec 3) (y : Guard) : Strand :=
  if n = 0 then x else { x with q := x.q.set n.toNat y n.isLt }

/-- V[n] (R8). -/
def Strand.V (x : Strand) (n : BitVec 4) : VReg := x.v[n.toNat]'n.isLt

/-- V[n] := y (R8). -/
def Strand.setV (x : Strand) (n : BitVec 4) (y : VReg) : Strand := { x with v := x.v.set n.toNat y n.isLt }

/-- G[n] of the strand in issue. -/
def State.G (s : State) (n : BitVec 5) : Word := s.st.G n

/-- G[n] := y in the strand in issue. -/
def State.setG (s : State) (n : BitVec 5) (y : Word) : State := s.modSt (·.setG n y)

/-- V[n] of the strand in issue. -/
def State.V (s : State) (n : BitVec 4) : VReg := s.st.V n

/-- V[n] := y in the strand in issue. -/
def State.setV (s : State) (n : BitVec 4) (y : VReg) : State := s.modSt (·.setV n y)

/-- Change the control registers of a strand. -/
def Strand.modCtl (x : Strand) (f : Ctl → Ctl) : Strand := { x with ctl := f x.ctl }

/-- Change the flags of a strand. -/
def Strand.modFlags (x : Strand) (f : StrandFlags → StrandFlags) : Strand := { x with flags := f x.flags }

/-- Apply one outstanding register write. -/
def Strand.applyWrite (x : Strand) : RegWrite → Strand
  | .g n y => x.setG n y
  | .v n y => x.setV n y
  | .fcr f => x.modCtl fun c => { c with fcr := c.fcr ||| f }

/-- An outstanding result returns: its writes are made (R76). -/
def Strand.complete (x : Strand) (o : Outst) : Strand := o.writes.foldl Strand.applyWrite x

/-- Every outstanding result returns, oldest first (R68, R23). -/
def Strand.completeAll (x : Strand) : Strand := { x.inflight.foldl Strand.complete x with inflight := [] }

/-- Whether the instruction a strand waits at is left as not executed when its core stops: an await without a result (R306), a
waita, xreq or tag.set, a waiting fence (R244, R256). -/
def Wait.undone : Wait → Bool
  | .await _ _ _ _ | .waitA _ _ _ _ | .xreq _ _ _ | .tagSet _ _ | .phase _ | .fenceX _ | .fenceR _ | .fenceA _ _ => true
  | _ => false

/-- A strand stops at a boundary without being saved (R68, R256, R306): its outstanding results are written, a unit it has
begun starts again, and what is left as not executed is executed again later, waiting as `w` says until then. -/
def Strand.stopped (w : Option Wait) (x : Strand) : Strand :=
  let x := x.completeAll
  match x.wait with
  | none => { x with hints := [] }
  | some v => if v.undone then { x with wait := w, hints := [] } else x

/-- Whether a register is of the class and part of a strand (R8, R9). -/
def Strand.names (x : Strand) : RegName → Bool
  | .g n => match x.cls with
    | .light => decide (n < 8)
    | _ => true
  | .v _ => x.cls == .full
  | .k n => x.cls == .full || n == 0
  | .q n => x.cls == .full || n == 0
  | .z n => x.cls == .full && decide (n < 2 * (x.ctl.part.toNat / 32))

/-- Scratchpad bytes under a partition word (R19, R200). -/
def scratchSize (part : BitVec 10) : Nat := 4096 * (32 - part.toNat % 32 - part.toNat / 32)

/-! ## Counters and records -/

/-- A counter of a bank rises by n and saturates (R398). -/
def bump (bank : List (Nat × Word)) (c : Counter) (n : Nat) : List (Nat × Word) :=
  Assoc.modify bank c.index 0 fun x => BitVec.ofNat 64 (Nat.min (x.toNat + n) (2 ^ 64 - 1))

/-- A partition's counter rises by n (R398). -/
def State.count (s : State) (p : Nat) (c : Counter) (n : Nat) : State :=
  s.modPart p fun q => { q with counters := bump q.counters c n }

/-- A counter of a die's Creel unit rises by n, and the partition's sum of it (R172, R398). -/
def State.countCreel (s : State) (p die : Nat) (c : Counter) (n : Nat) : State :=
  (s.modCreel die p fun x => { x with bank := bump x.bank c n }).count p c n

/-- A counter of a quad, or of a half of a split one, rises by n, and the partition's sum of it (R144, R398). -/
def State.countQuad (s : State) (p quad half : Nat) (c : Counter) (n : Nat) : State :=
  (s.modQuad quad fun q =>
    if half = 0 then { q with bank0 := bump q.bank0 c n } else { q with bank1 := bump q.bank1 c n }).count p c n

/-- A black-box record (R401). -/
def bboxRecord (kind data sid : Nat) (clk : Word) : BitVec 128 :=
  BitVec.ofNat 128 (kind % 256 * 2 ^ 120 + data % 2 ^ 24 * 2 ^ 96 + sid % 2 ^ 48 * 2 ^ 48 + clk.toNat % 2 ^ 48)

/-- Append to a record of n events, dropping the oldest (R401). -/
def bboxPush (n : Nat) (l : List (BitVec 128)) (r : BitVec 128) : List (BitVec 128) := (l ++ [r]).drop (l.length + 1 - n)

/-- A die records an event (R401). -/
def State.dieLog (s : State) (d kind data sid : Nat) : State :=
  s.modDie d fun x => { x with bbox := bboxPush 4096 x.bbox (bboxRecord kind data sid s.clk) }

/-- The hub records an event (R401). -/
def State.hubLog (s : State) (kind data sid : Nat) : State :=
  s.modHub fun h => { h with bbox := bboxPush 16384 h.bbox (bboxRecord kind data sid s.clk) }

/-! ## The memory side (R203, R207, R208, R211, R225, R241) -/

/-- What a physical address names. -/
inductive Space where
  | dieMem | host | fabric | config | priv | scratch | nothing
  deriving DecidableEq, Repr

/-- The space of an address of the model's memory (R203, R370, R388, log 4). -/
def spaceOf (a : Nat) : Space :=
  if a < 2 ^ 39 then .dieMem
  else if a < 2 ^ 56 then
    if a ≥ 2 ^ 55 then .host
    else if a ≥ 2 ^ 54 then .fabric
    else if a / 2 ^ 52 = 1 then .config
    else .nothing
  else if a ≥ 2 ^ 66 then .priv
  else if a ≥ 2 ^ 60 then .scratch
  else .nothing

/-- Number of the 64 KiB piece of an address, by which pages are named. -/
def pageOf (a : Nat) : Nat := a / 65536

/-- The page of an address, by the number of its first piece (R203): one of 2,048 MiB, 2 MiB or 64 KiB (log 34). -/
def Hub.pageAt (h : Hub) (a : Nat) : Nat :=
  let ofSize := fun (n : Nat) => (Assoc.get h.pages (a / n * (n / 65536))).any (·.size == n)
  if ofSize (2 ^ 31) then a / 2 ^ 31 * 32768 else if ofSize (2 ^ 21) then a / 2 ^ 21 * 32 else pageOf a

/-- What an owner map lists for the page of an address; a page keeps what its pieces had before it was known (R203). -/
def Hub.listed (h : Hub) (map : List (Nat × PagePlace)) (a : Nat) : Option PagePlace :=
  match Assoc.get map (pageOf a) with
  | some p => some p
  | none => Assoc.get map (h.pageAt a)

/-- The owner of a page that the owner map lists. -/
def Hub.owner (h : Hub) (a : Nat) : Option Nat := (h.listed h.owners a).map (·.die)

/-- Whether a partition is enabled (R389). -/
def State.enabled (s : State) (p : Nat) : Bool := (s.cfg p 0).getLsbD 63

/-- The physical address of a partition's work area on a die (R391). -/
def State.workArea (s : State) (p die : Nat) : Nat := die * 2 ^ 35 + (s.cfg p 0x58).toNat / 2 ^ 27 % 256 * 2 ^ 27

/-- Whether an address of die memory lies in the work area of an enabled partition (R391). -/
def State.inWork (s : State) (a : Nat) : Bool :=
  (List.range 20).any fun p => s.enabled p && s.workArea p (a / 2 ^ 35 % 16) / 2 ^ 27 == a / 2 ^ 27

/-- The die whose memory side performs an access to an address (R203, R199). -/
def State.ownerDie (s : State) (a : Nat) : Nat :=
  match spaceOf a with
  | .priv => match s.strand ((a - 2 ^ 66) / 2 ^ 18) with
    | some x => x.home
    | none => 0
  | .scratch => dieOf ((a - 2 ^ 60) / 2 ^ 18)
  | _ => (s.hub.owner a).getD (a / 2 ^ 35 % 16)

/-- The watches on a line fire, unless the owning die is halted (R241): each waiting strand is to read again. -/
def State.fireWatches (s : State) (line : Nat) : State :=
  let d := s.ownerDie line
  if (s.die d).halted then s
  else
    let hit := (s.die d).watches.filter (·.line == line)
    let s := s.modDie d fun x => { x with watches := x.watches.filter (·.line != line) }
    hit.foldl (fun s w => s.modStrand w.sid fun x =>
      match x.wait with
      | some (.waitA l ea d _) => if l = line then { x with wait := some (.waitA l ea d true) } else x
      | _ => x) s

/-- A line access from a die counts on its page (R209), unless it lies in a work area (R391). -/
def State.countAccess (s : State) (die line : Nat) : State :=
  match spaceOf line with
  | .dieMem =>
    if s.inWork line then s
    else s.modHub fun h => { h with pageCnt := Assoc.modify h.pageCnt (h.pageAt line * 16 + die) 0 fun n => Nat.min (n + 1) 255 }
  | _ => s

/-- Line accesses from a die count on their pages (R209). -/
def State.countLines (s : State) (die : Nat) (lines : List Nat) : State := lines.foldl (fun s l => s.countAccess die l) s

/-- A write to a line that a migration has already copied marks it for recopy (R210). -/
def State.markRecopy (s : State) (line : Nat) : State :=
  s.modHub fun h => { h with migs := h.migs.map fun m =>
    if m.page ≤ line && line < m.page + 64 * m.copied && !m.switched then { m with recopy := line :: m.recopy } else m }

/-- Whether a line lies in the private memory of a strand that has ended (R199: freed at exit). -/
def State.freed (s : State) (line : Nat) : Bool :=
  match spaceOf line with
  | .priv => (s.strand ((line - 2 ^ 66) / 2 ^ 18)).isNone
  | _ => false

/-- A masked write to one line is performed at its memory side (R205, R216, R241). -/
def State.performWrite (s : State) (line mask data : Nat) : State :=
  if s.freed line then s else
  let s := { s with mem := Memory.writeMask s.mem line data mask 64 }
  (s.markRecopy line).fireWatches line

/-- The lines that n bytes from an address touch. -/
def linesIn (a n : Nat) : List Nat := (List.range ((a % 64 + n + 63) / 64)).map fun i => a / 64 * 64 + 64 * i

/-- Lines that a unit of the part has written at their memory side: a copy of them is stale, their watches fire (R210, R241). -/
def State.wrote (s : State) (lines : List Nat) : State := lines.foldl (fun s l => (s.markRecopy l).fireWatches l) s

/-- A unit of the part writes n bytes of die memory (R241). -/
def State.unitWrite (s : State) (a x n : Nat) : State := { s with mem := Memory.writeN s.mem a x n }.wrote (linesIn a n)

/-- The outbound path from one die to another (R225). -/
def State.path (s : State) (src dst : Nat) : Path := Assoc.getD (s.die src).paths dst {}

/-- Whether every engine queue of a die is empty (R366 step 2). -/
def State.drained (s : State) (die : Nat) : Bool :=
  s.quads.all (fun q => q.1 / 256 != die || (q.2.copyQ.isEmpty && q.2.mat0.isEmpty && q.2.mat1.isEmpty))
    && s.cores.all fun c => dieOf c.1 != die || c.2.bookQ.isEmpty

/-- Whether a die's link is retraining (R366): for a width alone, or once the queues have drained. -/
def State.retrains (s : State) (die : Nat) : Bool :=
  let n := (s.die die).power.stage
  n == 2 || n == 1 && s.drained die

/-- An access goes from one die to another: over a link that is retraining it has to wait (R366). -/
def State.cross (s : State) (a b : Nat) : State :=
  if a ≠ b ∧ (s.retrains a || s.retrains b) then { s with crossed := true } else s

/-- The write at the head of a path reaches its destination's memory side (R225), where it counts on its page (R209). -/
def State.pathStep (s : State) (src dst : Nat) : State :=
  match (s.path src dst).writes with
  | [] => s
  | w :: t =>
    let s := (s.modDie src fun x => { x with paths := Assoc.modify x.paths dst {} fun p => { p with writes := t } }).cross src dst
    (s.countAccess src w.line).performWrite w.line w.mask.toNat w.data.toNat

/-- Every write on a path reaches its destination's memory side, in order: an access travels behind them (R225). -/
def State.pathFlush (s : State) (src dst : Nat) : State :=
  (s.path src dst).writes.foldl (fun s _ => s.pathStep src dst) s

/-- Every write on every path of a die reaches its memory side (R222, R225). -/
def State.flushPaths (s : State) (die : Nat) : State := (s.die die).paths.foldl (fun s p => s.pathFlush die p.1) s

/-- Every write on the paths of the dies a strand has left reaches its memory side: what it wrote there is then performed at
every scope (R222, R230). -/
def State.flushLeft (s : State) (x : Strand) : State := x.left.foldl State.flushPaths s

/-- Every write on the paths of a strand's die, and of the dies it has left, reaches its memory side (R222, R230). -/
def State.flushOf (s : State) (x : Strand) : State := (s.flushPaths (dieOf x.core)).flushLeft x

/-- Writes to a line that stand on the paths of some dies reach its memory side. -/
def State.behindDies (s : State) (left : List Nat) (line : Nat) : State :=
  left.foldl (fun s d => s.pathFlush d (s.ownerDie line)) s

/-- The strand's own writes to a line from the dies it has left are performed before its later access to it (R220, R230). -/
def State.behind (s : State) (x : Strand) (line : Nat) : State := s.behindDies x.left line

/-- An access from a die arrives at a line's memory side: it counts on the page and finds the path's writes performed. -/
def State.reach (s : State) (die line : Nat) : State :=
  let d := s.ownerDie line
  (if d = die then s else (s.pathFlush die d).cross die d).countAccess die line

/-- A masked write from a die that is performed at package scope (R225): a drained line, a .pkg store, an engine beat. -/
def State.sideWrite (s : State) (die line mask data : Nat) : State :=
  (s.reach die line).performWrite line mask data

/-- A masked write from a die of scope .quad or .die: accepted by the path when another die owns the line (R225). -/
def State.pathWrite (s : State) (die line mask data : Nat) (strong : Bool) (pid : Nat) (vas : List Nat) : State :=
  let d := s.ownerDie line
  if d = die then s.sideWrite die line mask data
  else s.modDie die fun x => { x with paths := Assoc.modify x.paths d {} fun p =>
    { p with accepted := p.accepted + 1, writes := p.writes ++ [⟨line, BitVec.ofNat 64 mask, BitVec.ofNat 512 data, strong, pid, vas⟩] } }

/-- The lock of the granule of an address (R212): zero unless listed. -/
def State.lockAt (s : State) (a : Nat) : BitVec 4 := Assoc.getD s.locks (a / 32 * 32) 0

/-- Whether a line is poisoned (R211). -/
def State.poisoned (s : State) (line : Nat) : Bool := s.poison.contains line

/-- A line is recorded as poisoned (R211). -/
def State.addPoison (s : State) (line : Nat) : State := if s.poisoned line then s else { s with poison := line :: s.poison }

/-- n bytes of a number, each from b where the mask is set and from a elsewhere. -/
def mergeBytes (a b mask : Nat) : Nat → Nat
  | 0 => 0
  | n + 1 => (if mask % 2 = 1 then b % 256 else a % 256) + 256 * mergeBytes (a / 256) (b / 256) (mask / 2) n

/-- The bytes of b where the mask is set, of a elsewhere. -/
def mergeLine (a b : Line) (mask : BitVec 64) : Line := BitVec.ofNat 512 (mergeBytes a.toNat b.toNat mask.toNat 64)

/-- One line leaves a store buffer (R205, R334: revoked bytes are discarded and counted): its masked bytes go out through
`out`, and into the read cache's copy. -/
def State.drainLine (s : State) (core : Nat) (out : State → SbLine → Nat → State) (l : SbLine) : State :=
  let mask := l.mask &&& ~~~l.dead
  let s := if l.mask &&& l.dead = 0 then s else s.count l.pid .xlatDiscard 1
  let s := out s l mask.toNat
  s.modCore core fun c => { c with rcache := c.rcache.map fun r =>
    if r.line = l.line then { r with data := mergeLine r.data l.data mask } else r }

/-- A core's store buffer drains every line, oldest first, through `out` (R205). -/
def State.drainBy (s : State) (core : Nat) (out : State → SbLine → Nat → State) : State :=
  let ls := (s.core core).sbuf
  let s := s.modCore core fun c => { c with sbuf := [], ran := [] }
  ls.foldl (fun s l => s.drainLine core out l) s

/-- A drained line reaches its memory side. -/
def State.drainTo (core : Nat) (s : State) (l : SbLine) (mask : Nat) : State :=
  s.sideWrite (dieOf core) l.line mask l.data.toNat

/-- The drain of every event but phase.quad and phase.die: each line reaches its memory side (R205, R217). -/
def State.drain (s : State) (core : Nat) : State := s.drainBy core (State.drainTo core)

/-- The drain of phase.quad and phase.die: lines of other dies' pages are accepted by their paths (R218, R225). -/
def State.drainPath (s : State) (core : Nat) : State :=
  s.drainBy core fun s l m => s.pathWrite (dieOf core) l.line m l.data.toNat false l.pid l.vas

/-! ## The end of a strand (R177, R204) -/

/-- A Creel task gives up its claim, whichever die holds it (R161). -/
def State.dropClaim (s : State) (sid pid : Nat) : State :=
  (List.range 16).foldl (fun s d =>
    if (s.creel d pid).claims.any (·.sid == sid) then
      s.modCreel d pid fun c => { c with claims := c.claims.filter (·.sid != sid) }
    else s) s

/-- A Creel task is retired: its claim is given up, and the retirement counts (R161, R168). -/
def State.retireTask (s : State) (sid pid die : Nat) : State :=
  (s.dropClaim sid pid).modCreel die pid fun c => { c with retired := c.retired + 1, traffic := true }

/-- Handler cores (R361): the quads counted down from quad 255 of each die. -/
def State.isHandlerCore (s : State) (core : Nat) : Bool := decide (core % 1024 ≥ 1024 - 4 * s.hub.handlers)

/-- A core without strands drains its store buffer, and its partition word is no longer in force (R201, R205). -/
def State.emptyCore (s : State) (core : Nat) : State :=
  if (s.onCore core).isEmpty then
    (s.drain core).modCore core fun c => { c with part := none }
  else s

/-- The hold of an umask ends when its strand leaves (R185). -/
def State.dropUmask (s : State) (core sid : Nat) : State :=
  s.modCore core fun c => { c with umask := match c.umask with
    | some (h, t) => if h = sid then none else some (h, t)
    | none => none }

/-- A strand's watches are given up (R241, R244). -/
def State.dropWatches (s : State) (sid : Nat) : State :=
  { s with dies := s.dies.map fun (p : Nat × Die) => (p.1, { p.2 with watches := p.2.watches.filter (·.sid != sid) }) }

/-- A strand stops at a boundary without being saved; a watch of it is given up (R256). -/
def State.stopStrand (s : State) (sid : Nat) (w : Option Wait) : State :=
  (match s.strand sid with
    | some x => if x.wait.any Wait.undone then s.dropWatches sid else s
    | none => s).modStrand sid (Strand.stopped w)

/-- What an urgent entry withdrew is executed again once the shadow bank of its core is free (R256, R306). -/
def State.wakeWithdrawn (s : State) (core : Nat) : State :=
  if (s.core core).shadow.isSome then s
  else s.all.foldl (fun s x => if x.core == core && x.wait == some .withdrawn then
    (s.modStrand x.sid.toNat fun y => { y with wait := none, hints := [] }).toBack x.sid.toNat else s) s

/-- The bookings of a strand are cancelled at the next frame boundary (R177, R291); one that unboard has cancelled is not booked
again (R310). -/
def State.cancelBookings (s : State) (sid : Nat) (rebook : Bool) : State :=
  { s with cores := s.cores.map fun (p : Nat × Core) => (p.1, { p.2 with bookQ := p.2.bookQ.map fun e =>
    match e.work with
    | .booking b => if e.owner = sid then { e with work := .booking { b with cancel := true, rebook := rebook && (!b.cancel || b.rebook) } } else e
    | _ => e }) }

/-- Delay accounting of a handler's run (R363, R364): its intervals are added to its sender's entry. -/
def addDelay (l : List DelayEntry) (sender : BitVec 32) (lands msgs transit queue run : Nat) : List DelayEntry :=
  let sat := fun w x => Nat.min x (2 ^ w - 1)
  let upd := fun (e : DelayEntry) => { e with
    lands := sat 32 (e.lands + lands), msgs := sat 32 (e.msgs + msgs), transit := sat 64 (e.transit + transit),
    queue := sat 64 (e.queue + queue), run := sat 64 (e.run + run), largest := Nat.max e.largest transit }
  if l.any (·.sender == sender) then l.map fun e => if e.sender = sender then upd e else e
  else if (l.filter (·.sender != 0xFFFFFFFF#32)).length < 31 then
    let old := l.filter (·.sender != 0xFFFFFFFF#32)
    old ++ [upd { sender := sender }] ++ l.filter (·.sender == 0xFFFFFFFF#32)
  else if l.any (·.sender == 0xFFFFFFFF#32) then l.map fun e => if e.sender = 0xFFFFFFFF#32 then upd e else e
  else l ++ [upd { sender := 0xFFFFFFFF#32 }]

/-- The run interval of a handler that ends (R363). -/
def State.endHandler (s : State) (sid core : Nat) : State :=
  s.modCore core fun c =>
    match c.times.find? (·.sid == sid) with
    | none => c
    | some t =>
      let now := s.clk.toNat
      let first := t.first.getD now
      { c with times := c.times.filter (·.sid != sid)
               delay := addDelay c.delay t.sender 0 0 0 0 ((now + 2 ^ 32 - first % 2 ^ 32) % 2 ^ 32) }

/-- A strand leaves a core: its launch ran there (R138). -/
def State.noteRan (s : State) (sid core : Nat) : State :=
  let l := s.slot (sidSlot sid)
  s.modCore core fun c => { c with
    ran := ⟨sid / 2 ^ 32, 64 * l.pid + l.queue, l.node⟩ :: c.ran.filter (·.launch != sid / 2 ^ 32) }

/-- A strand is no more (R177): its bookings are cancelled, an umask is released, the shadow bank is freed, and a core left
without strands drains its store buffer. Its private memory is freed (R199). -/
def State.removeStrand (s : State) (sid : Nat) : State :=
  match s.strand sid with
  | none => s
  | some x =>
    let s := s.dropStrand sid
    let s := (s.dropUmask x.core sid).cancelBookings sid false
    let s := if sidKind sid = 3 then s.endHandler sid x.core else s
    let s := (s.noteRan sid x.core).modCore x.core fun c => { c with
      shadow := if c.shadow = some sid then none else c.shadow
      urgent := c.urgent.filter (· != sid)
      arrq := c.arrq.filter (· != sid) }
    let s := (s.dropWatches sid).wakeWithdrawn x.core
    let s := s.modDieRegs x.home x.pid fun r => { r with
      frames := match x.frame with | some f => r.frames.filter (· != f) | none => r.frames
      pools := match x.pool with | some f => r.pools.filter (· != f) | none => r.pools }
    let s := if x.place = .resident || x.place = .shadow || x.place = .cut || x.moving then
        s.modPart x.pid fun p => { p with resident := p.resident - 1 } else s
    let s := s.emptyCore x.core
    let base := Memory.privBase sid
    let own := fun (line : Nat) => decide (base ≤ line) && decide (line < base + 2 ^ 18)
    { s with mem := Memory.clear s.mem base (2 ^ 18)
             poison := s.poison.filter fun a => !own a
             cores := s.cores.map fun (p : Nat × Core) => (p.1, { p.2 with
               sbuf := p.2.sbuf.filter fun l => !own l.line, rcache := p.2.rcache.filter fun l => !own l.line }) }

/-- A strand ends (R177, R161): a Creel task is retired. -/
def State.endStrand (s : State) (sid : Nat) : State :=
  match s.strand sid with
  | none => s
  | some x => (if sidKind sid = 2 then s.retireTask sid x.pid (dieOf x.core) else s).removeStrand sid

/-- A strand ends because the handling level has no handler (R204): the first cause is recorded for its launch, as long as
its slot is that launch's. -/
def State.endByFault (s : State) (sid : Nat) (cause : BitVec 8) : State :=
  let s := s.endStrand sid
  s.modSlot (sidSlot sid) fun l =>
    if l.gen.toNat ≠ sidGen sid then l
    else { l with cause := match l.cause with | some c => some c | none => some cause }

/-! ## Taking a trap and returning (R27, R316 to R321) -/

/-- The trap registers of a level. -/
def Strand.trapRegs (x : Strand) : Mode → TrapRegs
  | .user => x.u
  | .supervisor => x.s
  | .hypervisor => x.h

/-- Change the trap registers of a level. -/
def Strand.setTrapRegs (x : Strand) (m : Mode) (r : TrapRegs) : Strand :=
  match m with
  | .user => { x with u := r }
  | .supervisor => { x with s := r }
  | .hypervisor => { x with h := r }

/-- TCAUSE[h].act (R317). -/
def TrapRegs.act (r : TrapRegs) : Bool := r.cause.getLsbD 11

/-- Bit c of a delegation set (R318). -/
def dlgBit (d : Vector Word 3) (c : BitVec 8) : Bool := (d.toList.getD (c.toNat / 64) 0).getLsbD (c.toNat % 64)

/-- The handling level of a cause raised in mode m (R318). -/
def Strand.handlingLevel (x : Strand) (c : BitVec 8) (m : Mode) : Mode :=
  Mode.max (if !dlgBit x.hdlg c then .hypervisor else if !dlgBit x.sdlg c then .supervisor else .user) m

/-- The tcause word of a trap (R317, R319). -/
def trapWord (c : BitVec 8) (deferred : Bool) (m : Mode) (lost : Bool) : Word :=
  BitVec.ofNat 64 (c.toNat + (if deferred then 256 else 0) + 512 * m.code + 2048 + (if lost then 4096 else 0))

/-- The next level up (R319). -/
def Mode.up : Mode → Mode
  | .user => .supervisor
  | _ => .hypervisor

/-- The search of R319 for a level whose handler is not active: the cause, level and tval to enter with; none if the
hypervisor's handler is active too. -/
def Strand.entryLevel (x : Strand) (deferred lost : Bool) (m : Mode) : Nat → BitVec 8 → Mode → Word →
    Option (BitVec 8 × Mode × Word)
  | 0, _, _, _ => none
  | n + 1, c, h, v =>
    if (x.trapRegs h).act then
      if h = .hypervisor then none
      else Strand.entryLevel x deferred lost m n 0xA0 h.up (trapWord c deferred m lost)
    else some (c, h, v)

/-- Trap entry at one boundary (R319): level h's registers are written, the mode becomes h and pc the handler's address.
A level without a handler ends the strand (R204); with every handler active the strand stops, which the black box
records with the cause that found the last one active. -/
def State.enterTrap (s : State) (c : BitVec 8) (tval xpc : Word) (deferred lost : Bool) (h0 : Mode) : State :=
  let x := s.st
  match x.entryLevel deferred lost x.ctl.priv 3 c h0 tval with
  | none =>
    (s.modSt fun x => { x with hints := [], wait := none, flags := { x.flags with passBp := false, stop := true } }).dieLog
      (dieOf x.core) 1 (if h0 = .hypervisor then c.toNat else 0xA0) x.sid.toNat
  | some (c, h, v) =>
    let r := x.trapRegs h
    let s := s.modSt fun x => { x.setTrapRegs h
        { r with xpc := xpc, cause := trapWord c deferred x.ctl.priv lost, val := v } with
      ctl := { x.ctl with priv := h }, hints := [], wait := none, flags := { x.flags with passBp := false } }
    let s := if h = .user then s else s.dieLog (dieOf x.core) 0 c.toNat x.sid.toNat
    if r.vec = 0 then s.endByFault x.sid.toNat c else s.modSt fun x => { x with pc := r.vec }

/-- A precise trap of the strand in issue (R27, R68, R316): outstanding results are written first, xpc holds the head of
the unit, and the unit has no effect but that the strand has had its issue (R146). -/
def State.precise (s : State) (c : BitVec 8) (tval : Word) : State :=
  let s := (s.modSt Strand.completeAll).toBack s.st.sid.toNat
  s.enterTrap c tval s.st.pc false false (s.st.handlingLevel c s.st.ctl.priv)

/-- A precise trap as an outcome. -/
def trapOut (s : State) (c : BitVec 8) (tval : Word) : Out := .next (s.precise c tval)

/-- Whether the head of a strand's pending list may be delivered (R321). -/
def Strand.deliverable (x : Strand) : Bool :=
  match x.pending with
  | [] => false
  | d :: _ => !(x.trapRegs d.level).act

/-- A deferred fault is taken at the boundary (R316, R321): xpc holds the head of the unit not yet executed. A strand that was
blocked becomes ready by it (R146). -/
def State.deliver (s : State) : State :=
  match s.st.pending with
  | [] => s
  | d :: t =>
    let lost := s.st.lost
    let s := if s.st.wait.isSome then s.toBack s.st.sid.toNat else s
    let s := (s.dropWatches s.st.sid.toNat).modSt fun x => { x.completeAll with pending := t, lost := false, wait := none }
    s.enterTrap d.cause d.tval s.st.pc true lost d.level

/-- eret at the strand's level (R320). -/
def State.eret (s : State) : State :=
  s.modSt fun x =>
    let h := x.ctl.priv
    let r := x.trapRegs h
    { x.setTrapRegs h { r with cause := r.cause &&& ~~~(BitVec.ofNat 64 2048) } with
      pc := r.xpc, ctl := { x.ctl with priv := Mode.ofCode (r.cause.toNat / 512 % 4) } }

end Sys2Proof.Machine
end

