-- ==== Sys2Proof/WellFormed.lean ====
section
/-!
DEFINITION. Which instructions are well formed: an assigned word (04 R74 checks 1 and 2) whose fields hold no reserved or
unaccepted value (check 4), and an event whose operands name units the package has (00 R1, R3).
-/
namespace Sys2Proof

/-- The issue version is 00 or 01 (R21). -/
def Wf.ver (iv : BitVec 2) : Bool := iv == 0 || iv == 1

/-- sc of an instruction outside the long-latency class: under iv 01 bits [2:0] are zero (R21, R66). -/
def Wf.mark (iv : BitVec 2) (sc : BitVec 4) : Bool := iv == 0 || iv == 1 && sc.extractLsb' 0 3 == 0

/-- Size code of a plain load: 111 is unassigned (R65, R92). -/
def Wf.loadSize (z : BitVec 3) : Bool := z != 7

/-- Size code of a plain store (R92). -/
def Wf.storeSize (z : BitVec 3) : Bool := z == 0 || z == 2 || z == 4 || z == 6

/-- Scope of a strong access: .quad, .die, .pkg (R235). -/
def Wf.scope (c : BitVec 3) : Bool := c == 1 || c == 2 || c == 3

/-- Target of a vcvt (R111): tags 0x1 to 0xA. -/
def Wf.cvtTarget (t : BitVec 4) : Bool := t != 0 && t.toNat ≤ 10

/-- Target of a vsat (R112, R113): an integer format. -/
def Wf.satTarget (t : BitVec 4) : Bool := t == 1 || t == 2 || t == 3 || t == 4

/-- Element size in bytes that a tag gives a vector load or store (R44); half a byte for int4. -/
def Wf.tagHalf (t : BitVec 4) : Nat :=
  match t.toNat with
  | 2 => 4 | 3 => 8 | 4 => 16 | 7 => 4 | 8 => 4 | 9 => 8 | 10 => 16 | 12 => 1
  | _ => 2

/-- Tag and layout of a vld (R117): no tag 0xF, a pitch register other than g32, .t8 on 1-byte and .t16 on 2-byte elements. -/
def Wf.vldLayout (t : BitVec 4) (b : BitVec 5) (l : BitVec 2) : Bool :=
  t != 15 && (l == 0 || b != 31) && (l != 2 || Wf.tagHalf t == 2) && (l != 3 || Wf.tagHalf t == 4)

/-- Layout of a vst (R117). -/
def Wf.vstLayout (b : BitVec 5) (l : BitVec 2) : Bool := l == 0 || b != 31

/-- The data of a modifier hint (R70, R71): no reserved value, no reserved bit, no order or scope without os, not both
transposes. What the instruction accepts is the unit's matter. -/
def Wf.modifier (d : BitVec 22) : Bool :=
  d.toNat / 2 ^ 19 ≤ 5 && d.toNat % 64 == 0 && d.toNat / 2 ^ 10 % 4 != 3 && d.toNat / 2 ^ 7 % 4 != 3
    && (d.getLsbD 17 || d.toNat / 2 ^ 12 % 32 == 0)

/-- Well-formed instructions: R74 checks 1, 2 and 4 on a word, the range of the operands of an event. -/
def wellFormed : Instr → Bool
  | .add iv _ _ _ sc => Wf.mark iv sc
  | .sub iv _ _ _ sc => Wf.mark iv sc
  | .and iv _ _ _ sc => Wf.mark iv sc
  | .or iv _ _ _ sc => Wf.mark iv sc
  | .xor iv _ _ _ sc => Wf.mark iv sc
  | .andn iv _ _ _ sc => Wf.mark iv sc
  | .orn iv _ _ _ sc => Wf.mark iv sc
  | .shl iv _ _ _ sc => Wf.mark iv sc
  | .shr iv _ _ _ sc => Wf.mark iv sc
  | .sra iv _ _ _ sc => Wf.mark iv sc
  | .rot iv _ _ _ sc => Wf.mark iv sc
  | .min iv _ _ _ sc => Wf.mark iv sc
  | .max iv _ _ _ sc => Wf.mark iv sc
  | .minn iv _ _ _ sc => Wf.mark iv sc
  | .maxn iv _ _ _ sc => Wf.mark iv sc
  | .mul iv _ _ _ sc => Wf.mark iv sc
  | .mulh iv _ _ _ sc => Wf.mark iv sc
  | .mulhn iv _ _ _ sc => Wf.mark iv sc
  | .div iv _ _ _ _ => Wf.ver iv
  | .divn iv _ _ _ _ => Wf.ver iv
  | .rem iv _ _ _ _ => Wf.ver iv
  | .remn iv _ _ _ _ => Wf.ver iv
  | .clz iv _ _ sc => Wf.mark iv sc
  | .ctz iv _ _ sc => Wf.mark iv sc
  | .popc iv _ _ sc => Wf.mark iv sc
  | .bswap iv _ _ sc => Wf.mark iv sc
  | .bfx iv _ _ _ sc => Wf.mark iv sc
  | .bfi iv _ _ _ sc => Wf.mark iv sc
  | .sextB iv _ _ sc => Wf.mark iv sc
  | .sextH iv _ _ sc => Wf.mark iv sc
  | .sextW iv _ _ sc => Wf.mark iv sc
  | .zextB iv _ _ sc => Wf.mark iv sc
  | .zextH iv _ _ sc => Wf.mark iv sc
  | .zextW iv _ _ sc => Wf.mark iv sc
  | .cmpEq iv _ _ _ sc => Wf.mark iv sc
  | .cmpNe iv _ _ _ sc => Wf.mark iv sc
  | .cmpLt iv _ _ _ sc => Wf.mark iv sc
  | .cmpLtn iv _ _ _ sc => Wf.mark iv sc
  | .cmpLe iv _ _ _ sc => Wf.mark iv sc
  | .cmpLen iv _ _ _ sc => Wf.mark iv sc
  | .selNz iv _ _ _ sc => Wf.mark iv sc
  | .addi iv _ _ _ sc => Wf.mark iv sc
  | .andi iv _ _ _ sc => Wf.mark iv sc
  | .ori iv _ _ _ sc => Wf.mark iv sc
  | .xori iv _ _ _ sc => Wf.mark iv sc
  | .muli iv _ _ _ sc => Wf.mark iv sc
  | .shli iv _ _ _ sc => Wf.mark iv sc
  | .shri iv _ _ _ sc => Wf.mark iv sc
  | .srai iv _ _ _ sc => Wf.mark iv sc
  | .roti iv _ _ _ sc => Wf.mark iv sc
  | .cmpi iv _ _ _ _ sc => Wf.mark iv sc
  | .ldLit iv _ _ _ => Wf.ver iv
  | .movi iv _ _ => Wf.ver iv
  | .lea iv _ _ _ sc => Wf.mark iv sc
  | .xkeySet iv _ _ _ sc => Wf.mark iv sc
  | .xkeyGet iv _ _ sc => Wf.mark iv sc
  | .ld iv _ _ _ z _ => Wf.ver iv && Wf.loadSize z
  | .st iv _ _ _ z sc => Wf.mark iv sc && Wf.storeSize z
  | .ldX iv _ _ _ _ z _ => Wf.ver iv && Wf.loadSize z
  | .stX iv _ _ _ _ z sc => Wf.mark iv sc && Wf.storeSize z
  | .ldS iv _ _ c o _ _ => Wf.ver iv && Wf.scope c && (o == 0 || o == 1)
  | .stS iv _ _ c o _ _ => Wf.ver iv && Wf.scope c && (o == 0 || o == 2)
  | .amoAdd iv _ _ _ _ _ => Wf.ver iv
  | .amoAnd iv _ _ _ _ _ => Wf.ver iv
  | .amoOr iv _ _ _ _ _ => Wf.ver iv
  | .amoXor iv _ _ _ _ _ => Wf.ver iv
  | .amoMin iv _ _ _ _ _ => Wf.ver iv
  | .amoMax iv _ _ _ _ _ => Wf.ver iv
  | .amoMinn iv _ _ _ _ _ => Wf.ver iv
  | .amoMaxn iv _ _ _ _ _ => Wf.ver iv
  | .amoSwap iv _ _ _ _ _ => Wf.ver iv
  | .amoFadd iv _ _ _ _ => Wf.ver iv
  | .cas iv _ _ _ _ _ => Wf.ver iv
  | .waita iv _ _ _ sc => Wf.mark iv sc
  | .wake iv _ sc => Wf.mark iv sc
  | .phase iv c sc => Wf.mark iv sc && (c == 1 || c == 2 || c == 3)
  | .fenceX iv sc => Wf.mark iv sc
  | .fenceR iv _ sc => Wf.mark iv sc
  | .fenceA iv _ sc => Wf.mark iv sc
  | .qfence iv _ sc => Wf.mark iv sc
  | .ifence iv sc => Wf.mark iv sc
  | .tagSet iv _ _ sc => Wf.mark iv sc
  | .tagGet iv _ _ _ => Wf.ver iv
  | .xreq iv _ _ _ sc => Wf.mark iv sc
  | .xrel iv _ sc => Wf.mark iv sc
  | .stF iv _ _ _ _ sc => Wf.mark iv sc
  | .bc iv _ c _ => Wf.ver iv && decide (c.toNat < 6)
  | .dbnz iv _ _ => Wf.ver iv
  | .b iv _ => Wf.ver iv
  | .call iv _ => Wf.ver iv
  | .jr iv _ sc => Wf.mark iv sc
  | .jrl iv _ sc => Wf.mark iv sc
  | .ret iv sc => Wf.mark iv sc
  | .vadd iv _ _ _ _ sc => Wf.mark iv sc
  | .vaddN iv _ _ _ _ sc => Wf.mark iv sc
  | .vsub iv _ _ _ _ sc => Wf.mark iv sc
  | .vsubN iv _ _ _ _ sc => Wf.mark iv sc
  | .vmul iv _ _ _ _ sc => Wf.mark iv sc
  | .vmulN iv _ _ _ _ sc => Wf.mark iv sc
  | .vfma iv _ _ _ _ sc => Wf.mark iv sc
  | .vfms iv _ _ _ _ sc => Wf.mark iv sc
  | .vmin iv _ _ _ _ sc => Wf.mark iv sc
  | .vminN iv _ _ _ _ sc => Wf.mark iv sc
  | .vmax iv _ _ _ _ sc => Wf.mark iv sc
  | .vmaxN iv _ _ _ _ sc => Wf.mark iv sc
  | .vabs iv _ _ _ sc => Wf.mark iv sc
  | .vneg iv _ _ _ sc => Wf.mark iv sc
  | .vand iv _ _ _ _ sc => Wf.mark iv sc
  | .vor iv _ _ _ _ sc => Wf.mark iv sc
  | .vxor iv _ _ _ _ sc => Wf.mark iv sc
  | .vandn iv _ _ _ _ sc => Wf.mark iv sc
  | .vshl iv _ _ _ _ sc => Wf.mark iv sc
  | .vshr iv _ _ _ _ sc => Wf.mark iv sc
  | .vsra iv _ _ _ _ sc => Wf.mark iv sc
  | .vavg iv _ _ _ _ sc => Wf.mark iv sc
  | .vavgN iv _ _ _ _ sc => Wf.mark iv sc
  | .vcmpEq iv _ _ _ _ sc => Wf.mark iv sc
  | .vcmpNe iv _ _ _ _ sc => Wf.mark iv sc
  | .vcmpLt iv _ _ _ _ sc => Wf.mark iv sc
  | .vcmpLtN iv _ _ _ _ sc => Wf.mark iv sc
  | .vcmpLe iv _ _ _ _ sc => Wf.mark iv sc
  | .vcmpLeN iv _ _ _ _ sc => Wf.mark iv sc
  | .vcmpUnord iv _ _ _ _ sc => Wf.mark iv sc
  | .vsel iv _ _ _ _ sc => Wf.mark iv sc
  | .vperm iv _ _ _ _ sc => Wf.mark iv sc
  | .vtrn iv _ _ _ sc => Wf.mark iv sc
  | .vrowb iv _ _ _ _ sc => Wf.mark iv sc
  | .vcolb iv _ _ _ _ sc => Wf.mark iv sc
  | .vslide iv _ _ _ _ sc => Wf.mark iv sc
  | .vredAddAll iv _ _ _ sc => Wf.mark iv sc
  | .vredMinAll iv _ _ _ sc => Wf.mark iv sc
  | .vredMaxAll iv _ _ _ sc => Wf.mark iv sc
  | .vredAndAll iv _ _ _ sc => Wf.mark iv sc
  | .vredOrAll iv _ _ _ sc => Wf.mark iv sc
  | .vredAmaxAll iv _ _ _ sc => Wf.mark iv sc
  | .vredMinNAll iv _ _ _ sc => Wf.mark iv sc
  | .vredMaxNAll iv _ _ _ sc => Wf.mark iv sc
  | .vredAddRow iv _ _ _ sc => Wf.mark iv sc
  | .vredMinRow iv _ _ _ sc => Wf.mark iv sc
  | .vredMaxRow iv _ _ _ sc => Wf.mark iv sc
  | .vredAndRow iv _ _ _ sc => Wf.mark iv sc
  | .vredOrRow iv _ _ _ sc => Wf.mark iv sc
  | .vredAmaxRow iv _ _ _ sc => Wf.mark iv sc
  | .vredMinNRow iv _ _ _ sc => Wf.mark iv sc
  | .vredMaxNRow iv _ _ _ sc => Wf.mark iv sc
  | .vredAddCol iv _ _ _ sc => Wf.mark iv sc
  | .vredMinCol iv _ _ _ sc => Wf.mark iv sc
  | .vredMaxCol iv _ _ _ sc => Wf.mark iv sc
  | .vredAndCol iv _ _ _ sc => Wf.mark iv sc
  | .vredOrCol iv _ _ _ sc => Wf.mark iv sc
  | .vredAmaxCol iv _ _ _ sc => Wf.mark iv sc
  | .vredMinNCol iv _ _ _ sc => Wf.mark iv sc
  | .vredMaxNCol iv _ _ _ sc => Wf.mark iv sc
  | .vcvt iv _ _ t _ sc => Wf.mark iv sc && Wf.cvtTarget t
  | .vcvtN iv _ _ t _ sc => Wf.mark iv sc && Wf.cvtTarget t
  | .vpack iv _ _ t sc => Wf.mark iv sc && (t == 11 || t == 12)
  | .vunpack iv _ _ sc => Wf.mark iv sc
  | .vsat iv _ _ t _ sc => Wf.mark iv sc && Wf.satTarget t
  | .vsatN iv _ _ t _ sc => Wf.mark iv sc && Wf.satTarget t
  | .vrcp iv _ _ _ _ => Wf.ver iv
  | .vrsq iv _ _ _ _ => Wf.ver iv
  | .vsqrt iv _ _ _ _ => Wf.ver iv
  | .vexp2 iv _ _ _ _ => Wf.ver iv
  | .vlog2 iv _ _ _ _ => Wf.ver iv
  | .vsinpi iv _ _ _ _ => Wf.ver iv
  | .vcospi iv _ _ _ _ => Wf.ver iv
  | .vtanh iv _ _ _ _ => Wf.ver iv
  | .vdiv iv _ _ _ _ _ => Wf.ver iv
  | .vadds iv _ _ _ _ sc => Wf.mark iv sc
  | .vaddsN iv _ _ _ _ sc => Wf.mark iv sc
  | .vmuls iv _ _ _ _ sc => Wf.mark iv sc
  | .vmulsN iv _ _ _ _ sc => Wf.mark iv sc
  | .vfmas iv _ _ _ _ sc => Wf.mark iv sc
  | .vbcast iv _ _ _ sc => Wf.mark iv sc
  | .vget iv _ _ _ sc => Wf.mark iv sc
  | .vgetN iv _ _ _ sc => Wf.mark iv sc
  | .vset iv _ _ _ sc => Wf.mark iv sc
  | .vld iv _ b t _ l _ => Wf.ver iv && Wf.vldLayout t b l
  | .vst iv _ b _ l sc => Wf.mark iv sc && Wf.vstLayout b l
  | .vgather iv _ _ _ _ _ _ => Wf.ver iv
  | .vscatter iv _ _ _ _ _ sc => Wf.mark iv sc
  | .vdot iv _ _ _ _ sc => Wf.mark iv sc
  | .vdotN iv _ _ _ _ sc => Wf.mark iv sc
  | .vcmul iv _ _ _ _ sc => Wf.mark iv sc
  | .vbmax iv _ _ _ sc => Wf.mark iv sc
  | .vscale iv _ _ sc => Wf.mark iv sc
  | .vquant iv _ _ _ sc => Wf.mark iv sc
  | .vrand iv _ _ sc => Wf.mark iv sc
  | .vtagSet iv _ _ t sc => Wf.mark iv sc && t != 15
  | .vtagGet iv _ _ _ k sc => Wf.mark iv sc && k == 0
  | .kand iv _ _ _ sc => Wf.mark iv sc
  | .kor iv _ _ _ sc => Wf.mark iv sc
  | .kxor iv _ _ _ sc => Wf.mark iv sc
  | .knot iv _ _ sc => Wf.mark iv sc
  | .kmov iv _ _ sc => Wf.mark iv sc
  | .kpop iv _ _ sc => Wf.mark iv sc
  | .kany iv _ _ b sc => Wf.mark iv sc && b == 0
  | .kall iv _ _ b sc => Wf.mark iv sc && b == 0
  | .kset iv _ _ _ sc => Wf.mark iv sc
  | .cp iv _ _ _ _ sc => Wf.mark iv sc
  | .mmBf16 iv _ _ _ sc => Wf.mark iv sc
  | .mmF16 iv _ _ _ sc => Wf.mark iv sc
  | .mmE4m3 iv _ _ _ sc => Wf.mark iv sc
  | .mmE5m2 iv _ _ _ sc => Wf.mark iv sc
  | .mmI8 iv _ _ _ sc => Wf.mark iv sc
  | .mmTern iv _ _ _ sc => Wf.mark iv sc
  | .mmF32 iv _ _ _ sc => Wf.mark iv sc
  | .mmC32 iv _ _ _ sc => Wf.mark iv sc
  | .mmU iv _ _ _ sc => Wf.mark iv sc
  | .accClr iv _ z t _ sc => Wf.mark iv sc && (t == 3 || t == 9 || t == 10) && (t != 10 || z.extractLsb' 0 2 == 0)
  | .accRd iv _ _ _ _ => Wf.ver iv
  | .accRdC32 iv d z _ _ => Wf.ver iv && z.extractLsb' 0 2 == 0 && d.extractLsb' 0 1 == 0
  | .accWr iv _ _ _ sc => Wf.mark iv sc
  | .accWrC32 iv d z _ sc => Wf.mark iv sc && z.extractLsb' 0 2 == 0 && d.extractLsb' 0 1 == 0
  | .accSt iv _ _ _ _ sc => Wf.mark iv sc
  | .accStC32 iv _ _ z _ sc => Wf.mark iv sc && z.extractLsb' 0 2 == 0
  | .await iv _ _ _ => Wf.ver iv
  | .awaitX iv _ _ _ => Wf.ver iv
  | .jpoll iv _ _ sc => Wf.mark iv sc
  | .jdrop iv _ _ sc => Wf.mark iv sc
  | .gset iv _ _ sc => Wf.mark iv sc
  | .gclr iv _ sc => Wf.mark iv sc
  | .sigDec iv _ _ _ _ sc => Wf.mark iv sc
  | .board iv _ _ _ sc => Wf.mark iv sc
  | .unboard iv _ sc => Wf.mark iv sc
  | .spawn iv _ _ _ sc => Wf.mark iv sc
  | .spawnL iv _ _ _ sc => Wf.mark iv sc
  | .exit iv sc => Wf.mark iv sc
  | .yield iv sc => Wf.mark iv sc
  | .migr iv _ sc => Wf.mark iv sc
  | .land iv _ _ sc => Wf.mark iv sc
  | .landV iv _ _ sc => Wf.mark iv sc
  | .lopen iv _ sc => Wf.mark iv sc
  | .lclose iv _ sc => Wf.mark iv sc
  | .waitL iv _ _ sc => Wf.mark iv sc
  | .lclr iv _ _ sc => Wf.mark iv sc
  | .umask iv sc => Wf.mark iv sc
  | .unmask iv sc => Wf.mark iv sc
  | .barQuad iv _ sc => Wf.mark iv sc
  | .barDie iv _ sc => Wf.mark iv sc
  | .barPkg iv _ sc => Wf.mark iv sc
  | .barPod iv _ sc => Wf.mark iv sc
  | .bmaxQuad iv _ _ _ sc => Wf.mark iv sc
  | .bmaxDie iv _ _ _ sc => Wf.mark iv sc
  | .bmaxPkg iv _ _ _ sc => Wf.mark iv sc
  | .bmaxPod iv _ _ _ sc => Wf.mark iv sc
  | .gang iv _ sc => Wf.mark iv sc
  | .cpush iv _ _ sc => Wf.mark iv sc
  | .cpop iv sc => Wf.mark iv sc
  | .cyield iv sc => Wf.mark iv sc
  | .cwait iv sc => Wf.mark iv sc
  | .msg iv _ _ sc => Wf.mark iv sc
  | .sysc iv sc => Wf.mark iv sc
  | .trap iv _ sc => Wf.mark iv sc
  | .eret iv sc => Wf.mark iv sc
  | .brk iv sc => Wf.mark iv sc
  | .halt iv sc => Wf.mark iv sc
  | .mfs iv _ _ _ sc => Wf.mark iv sc
  | .mts iv _ _ _ sc => Wf.mark iv sc
  | .ctxSv iv _ _ sc => Wf.mark iv sc
  | .ctxLd iv _ _ sc => Wf.mark iv sc
  | .preempt iv _ sc => Wf.mark iv sc
  | .resume iv _ _ sc => Wf.mark iv sc
  | .xmap iv _ _ sc => Wf.mark iv sc
  | .hintExtend iv _ => Wf.ver iv
  | .hintModifier iv d => Wf.ver iv && Wf.modifier d
  | .hintSchedule iv _ => Wf.ver iv
  | .longLatencyResult _ => true
  | .deferredFaultDelivery _ => true
  | .userQueueNotify p q _ => decide (p < 20) && decide (q < 64)
  | .launchPacket p q => decide (p < 20) && decide (q < 64)
  | .signalOperationPacket p q => decide (p < 20) && decide (q < 64)
  | .barrierAndPacket p q => decide (p < 20) && decide (q < 64)
  | .copyPacket p q => decide (p < 20) && decide (q < 64)
  | .creelSeedPacket p q => decide (p < 20) && decide (q < 64)
  | .nodeReady _ => true
  | .launchDispatch _ => true
  | .launchComplete slot => decide (slot < 1024)
  | .nodeComplete _ => true
  | .barrierAndComplete _ => true
  | .copyPacketComplete _ _ => true
  | .urgentEntry core => decide (core < 16384)
  | .urgentMaskOverrun core => decide (core < 16384)
  | .arrivalAdmit core => decide (core < 16384)
  | .landingArrival _ => true
  | .landingHeld _ => true
  | .landingRefusalReturn _ => true
  | .forwardAck _ => true
  | .locationUpdate _ => true
  | .creelSnapshot p => decide (p < 20)
  | .creelPublication p => decide (p < 20)
  | .creelDispatch p core => decide (p < 20) && decide (core < 16384)
  | .cpushPlacement _ => true
  | .spillRingRefill p die => decide (p < 20) && decide (die < 16)
  | .creelWave p _ => decide (p < 20)
  | .creelIntakeRecord p _ _ => decide (p < 20)
  | .waitaReread _ => true
  | .phaseComplete _ => true
  | .fenceRComplete _ => true
  | .fenceAComplete _ => true
  | .tagSetComplete _ => true
  | .translationAnswer _ => true
  | .drainedLineArrival src dst => decide (src < 16) && decide (dst < 16)
  | .forwardedAccess src dst => decide (src < 16) && decide (dst < 16)
  | .counterHalving => true
  | .migrationCopy _ => true
  | .migrationSwitch => true
  | .migrationRedirectEnd => true
  | .queueHeadStart quad queue => decide (quad < 4096) && decide (queue < 3)
  | .joinRelease quad _ => decide (quad < 4096)
  | .copyBeat quad _ => decide (quad < 4096)
  | .matrixGroup quad half => decide (quad < 4096) && decide (half < 2)
  | .jobComplete quad queue => decide (quad < 4096) && decide (queue < 3)
  | .jobReplay quad queue => decide (quad < 4096) && decide (queue < 3)
  | .promiseMissed _ => true
  | .roundLapStart => true
  | .roundFrameArrival station => decide (station < 16)
  | .hopRetransmit station => decide (station < 16)
  | .preemptionCut _ => true
  | .contextSaveComplete _ => true
  | .strandResume _ core => decide (core < 16384)
  | .parkedCallEntry p die => decide (p < 20) && decide (die < 16)
  | .messageArrival _ => true
  | .messageDispatch die => decide (die < 16)
  | .hostRevocation p _ _ => decide (p < 20)
  | .revocationComplete _ => true
  | .dieHalt die => decide (die < 16)
  | .bightPreempt _ => true
  | .bightResume _ => true
  | .singleStep _ => true
  | .operatingPointChange die _ => decide (die < 16)
  | .linkWidthChange die _ => decide (die < 16)
  | .linkRetrainComplete die => decide (die < 16)
  | .thermalStep die => decide (die < 16)
  | .thermalRecovery die => decide (die < 16)
  | .thermalShutdown => true
  | .linkReplay p port => decide (p < 20) && decide (port < 24)
  | .reflectedCopyArrival _ => true
  | .flagIncrement _ => true
  | .reflectionAck _ => true
  | .routeTableWrite _ _ => true
  | .incarnationAnnounce _ _ => true
  | .podBarrierReport ctx _ => decide (ctx < 320)
  | .podBarrierRelease ctx _ => decide (ctx < 320)
  | .pctlWrite p _ => decide (p < 20)
  | .partitionConfigWrite p _ _ => decide (p < 20)
  | .transmitEntryWrite p _ _ => decide (p < 20)
  | .hwqDoorbell p q _ => decide (p < 20) && decide (q < 64)
  | .hwqOutboundTransfer p q => decide (p < 20) && decide (q < 64)
  | .hwqInboundTransfer p q => decide (p < 20) && decide (q < 64)
  | .hostAtomicOp _ => true
  | .counterClear p _ => decide (p < 20)
  | .traceSample core _ => decide (core < 16384)
  | .checkpointStart _ => true
  | .checkpointComplete => true
  | .roundModelLoad _ => true
  | .roundRateWrite _ => true
  | .resetCold _ => true
  | .resetWarm _ => true
  | .patrolScrub _ _ => true
  | .eccError _ => true
  | .dieHaltRelease die => decide (die < 16)
  | .bightContinue _ => true
  | .hostPortTraining port _ _ _ => decide (port < 2)
  | .recoveryImageWrite _ => true
  | .delayTableClear core => decide (core < 16384)

end Sys2Proof
end

