-- ==== Sys2Proof/Machine/Operands.lean ====
section
/-!
DEFINITION. What a unit is made of and how it is checked: the facts of an instruction that R74 needs, the hint words ahead
of it, extended immediates, lookahead windows and interlocks, and the ways a unit ends (01 R21 to R26, 04 R61 to R75).
-/
namespace Sys2Proof.Machine

/-- The facts of an instruction word that the checks of R74 and the rules of issue need. -/
structure Info where
  word : BitVec 32
  /-- Bits [31:30]. -/
  iv   : BitVec 2
  /-- Bits [3:0] of a format that has the field; 0 otherwise (R66). -/
  sc   : BitVec 4
  /-- Of the long-latency class (R21). -/
  ll   : Bool
  /-- No reserved or unaccepted value in the word (R74 check 4). -/
  ok   : Bool
  /-- Registers named, in the operand order of the assembly form, implicit ones included (R9, R67). -/
  regs : List RegName
  /-- Lowest mode (R20). -/
  priv : Mode := .user
  /-- tval of check 5 (R75). -/
  ptv  : Word := 0
  /-- A conversion: accepts .rst (R51, R104). -/
  conv : Bool := false
  deriving Repr

/-! ## Hint words (R25, R26, R69 to R72) -/

/-- Kind of a hint word (R25). -/
def hintKind (w : BitVec 32) : Nat := (w.extractLsb' 22 2).toNat

/-- Data of a hint word (R25). -/
def hintData (w : BitVec 32) : Nat := (w.extractLsb' 0 22).toNat

/-- Major opcode of a word (R59). -/
def majorOf (w : BitVec 32) : Nat := (w.extractLsb' 24 6).toNat

/-- Whether a hint word may follow the hints already issued (R69). -/
def hintFits (hints : List (BitVec 32)) (kind : Nat) : Bool :=
  match hints.map hintKind, kind with
  | [], _ => true
  | [0], 0 => true
  | [1], 0 => true
  | [1, 0], 0 => true
  | _, _ => false

/-- Whether a major has an extensible field (R62, R73). -/
def majorExt (m : Nat) : Bool :=
  (5 ≤ m && m ≤ 9) || m == 0x0B || m == 0x0C || m == 0x0D || m == 0x10 || m == 0x11 || (0x1C ≤ m && m ≤ 0x1E)

/-- The first word that breaks the sequence of a unit's hint words, those before it being in order (R69). -/
def misplaced : List (BitVec 32) → List (BitVec 32) → Option (BitVec 32)
  | _, [] => none
  | seen, w :: t => if hintFits seen (hintKind w) then misplaced (seen ++ [w]) t else some w

/-- The five modifier groups of R70 that are nonzero in a hint's data: rnd, sat, order and scope, cache, copy. -/
def modGroups (d : Nat) : List Bool :=
  [d / 2 ^ 19 % 8 != 0, d / 2 ^ 18 % 2 != 0, d / 2 ^ 12 % 64 != 0, d / 2 ^ 10 % 4 != 0, d / 2 ^ 6 % 16 != 0]

/-- The modifier groups a major accepts (R73). -/
def majorMods (m : Nat) : List Bool :=
  if m = 0x20 ∨ m = 0x24 ∨ m = 0x26 ∨ m = 0x29 ∨ m = 0x2A then [true, true, false, false, false]
  else if m = 0x23 ∨ m = 0x25 then [true, false, false, false, false]
  else if m = 0x16 ∨ m = 0x17 then [false, false, true, false, false]
  else if (0x10 ≤ m ∧ m ≤ 0x13) ∨ m = 0x27 ∨ m = 0x28 then [false, false, false, true, false]
  else if m = 0x30 then [false, false, false, false, true]
  else [false, false, false, false, false]

/-- The modifier hint of a unit, if it has one. -/
def modHint (hints : List (BitVec 32)) : Option (BitVec 32) := hints.find? fun w => hintKind w == 1

/-- Data of the unit's modifier hint, 0 without one (R71: the same effect as no hint). -/
def modData (hints : List (BitVec 32)) : Nat := ((modHint hints).map hintData).getD 0

/-- Whether the rounding field asks for .rst (R70). -/
def asksRst (d : Nat) : Bool := decide (d / 2 ^ 19 % 8 = 5)

/-- R74 check 3 on the instruction word of a unit: it must accept every hint ahead of it (R69, R71). An .rst ahead of a
major without a rounding group is check 3's too; in the others it is check 4's (log 50). -/
def hintsAccepted (hints : List (BitVec 32)) (m : Nat) : Bool :=
  (!hints.any (fun w => hintKind w == 0) || majorExt m)
    && ((modGroups (modData hints)).zip (majorMods m)).all fun p => !p.1 || p.2

/-- R74 check 4 on the modifier of a unit (R71): reserved values, order and scope not accepted, .rst outside conversions. -/
def modOk (d m : Nat) (conv : Bool) : Bool :=
  Wf.modifier (BitVec.ofNat 22 d)
    && (!(BitVec.ofNat 22 d).getLsbD 17 || !(m == 0x16 || m == 0x17) || Wf.scope (BitVec.ofNat 3 (d / 2 ^ 12)))
    && (!asksRst d || conv)

/-- R74 check 3 on a unit: the first word that breaks the sequence, its instruction word last (R69, R75; log 49). -/
def sequenceFault (hints : List (BitVec 32)) (w : BitVec 32) : Option (BitVec 32) :=
  match misplaced [] hints with
  | some h => some h
  | none => if hintsAccepted hints (majorOf w) then none else some w

/-- Checks 3 to 6 of R74 in order: the cause and tval of the first that fails (R75). Where an accepted modifier group holds
a value that the instruction does not accept, or the hint and the instruction word both fail check 4, the word that failed
is the hint's (log 51). -/
def unitCheck (inf : Info) (x : Strand) : Option (BitVec 8 × Word) :=
  let m := majorOf inf.word
  match sequenceFault x.hints inf.word with
  | some w => some (0x03, w.setWidth 64)
  | none =>
  if !modOk (modData x.hints) m inf.conv then some (0x02, ((modHint x.hints).getD 0).setWidth 64)
  else if !inf.ok then some (0x02, inf.word.setWidth 64)
  else if x.ctl.priv.code < inf.priv.code then some (0x06, inf.ptv)
  else match inf.regs.find? fun r => !x.names r with
    | some r => some (0x05, r.code)
    | none => none

/-! ## Lookahead and interlock (R22, R67) -/

/-- Whether an outstanding result's destination set meets the registers a unit names; g0 never does (R67). -/
def Outst.meets (o : Outst) (regs : List RegName) : Bool := o.dests.any fun d => d != .g 0 && regs.contains d

/-- The oldest outstanding result whose promise the unit breaks: the unit's instruction word is among the words still in
the window (R22). -/
def broken (regs : List RegName) (k : Nat) (l : List Outst) : Option Outst := l.find? fun o => k ≤ o.left && o.meets regs

/-- Split the outstanding results after the last one that meets the unit's registers: those before complete first, in
order (R23). -/
def splitMeets (regs : List RegName) : List Outst → List Outst × List Outst
  | [] => ([], [])
  | o :: t =>
    match splitMeets regs t with
    | ([], r) => if o.meets regs then ([o], r) else ([], o :: r)
    | (c, r) => (o :: c, r)

/-- The interlock: results whose destinations the unit touches are written first (R22). -/
def Strand.settle (x : Strand) (regs : List RegName) : Strand :=
  let (c, r) := splitMeets regs x.inflight
  { c.foldl Strand.complete x with inflight := r }

/-- The unit's length in words (R59). -/
def Strand.unitLen (x : Strand) : Nat := x.hints.length + 1

/-- The checks of R74 from the third on, then the interlock, then the instruction's own effect. A broken promise is counted in
la_stall here, before the effect, also where the effect is then a precise trap of the instruction (R22 does not say; log 52).
An instruction that breaks the promises of several open windows names the oldest of them, and counts once (log 52). -/
def guarded (inf : Info) (s : State) (body : State → Out) : Out :=
  match unitCheck inf s.st with
  | some (c, tv) => trapOut s c tv
  | none =>
    match broken inf.regs s.st.unitLen s.st.inflight with
    | some o =>
      if s.st.ctl.laTrap then trapOut s 0x04 o.addr
      else body (s.modSt fun x => (x.settle inf.regs).modCtl fun c => { c with laStall := c.laStall + 1 })
    | none => body (s.modSt fun x => x.settle inf.regs)

/-! ## How a unit ends -/

/-- The unit ends and pc := target: windows shrink by its words (R22), and the strand goes to the back of the order of
waiting, which is all that a yield asks (R24, R146). -/
def State.retireTo (s : State) (target : Word) : State :=
  let k := s.st.unitLen
  (s.modSt fun x => { x with
    pc := target, hints := [], wait := none, flags := { x.flags with passBp := false }
    inflight := x.inflight.map fun o => { o with left := o.left - k } }).toBack s.st.sid.toNat

/-- The address of the next unit. -/
def State.nextPc (s : State) : Word := addPc s.st.pc (4 * s.st.unitLen)

/-- The unit ends and the next unit follows. -/
def State.retire (s : State) : State := s.retireTo s.nextPc

/-- The lookahead that a long-latency instruction promises: under iv 01 its sc field (R21). -/
def Info.ahead (inf : Info) : Nat := if inf.iv = 1 then inf.sc.toNat else 0

/-- The address of the instruction word of the unit in issue (R59). -/
def Strand.wordPc (x : Strand) : Word := addPc x.pc (4 * x.hints.length)

/-- The unit of a long-latency instruction ends with its result outstanding (R22, R76). -/
def State.retireLL (s : State) (inf : Info) (dests : List RegName) (writes : List RegWrite) : State :=
  let addr := s.st.wordPc
  s.retire.modSt fun x => { x with inflight := x.inflight ++ [⟨addr, inf.ahead, dests, writes⟩] }

/-- The strand waits at its unit, whose hint words stay with it: not ready until what it waits for comes about (R146). -/
def State.block (s : State) (w : Wait) : State := s.modSt fun x => { x with wait := some w }

/-- There is no room yet; the unit is tried again (R259). -/
def State.retry (s : State) : State := (s.block .room).toBack s.st.sid.toNat

/-- The unit at which a strand waited is complete: the next unit follows. -/
def Strand.finish (x : Strand) : Strand :=
  { x with
    wait := none, hints := [], pc := addPc x.pc (4 * x.unitLen), flags := { x.flags with passBp := false }
    inflight := x.inflight.map fun o => { o with left := o.left - x.unitLen } }

/-- A strand that waited at its unit goes on after it, with a change of its registers. -/
def State.finishWait (s : State) (sid : Nat) (f : Strand → Strand) : State :=
  (s.modStrand sid fun x => (f x).finish).toBack sid

/-- The unit of a long-latency instruction at which a strand waited is complete: its result returns within its lookahead
window, which opens behind it (R22, log 52). -/
def Strand.finishLL (x : Strand) (n : Nat) (dests : List RegName) (writes : List RegWrite) : Strand :=
  let y := x.finish
  { y with inflight := y.inflight ++ [⟨x.wordPc, n, dests, writes⟩] }

/-- A strand that waited for a long-latency result goes on, with the result outstanding. -/
def State.finishWaitLL (s : State) (sid n : Nat) (dests : List RegName) (writes : List RegWrite) : State :=
  (s.modStrand sid fun x => x.finishLL n dests writes).toBack sid

/-- A waiting strand's unit is to be executed again from its head. -/
def Strand.again (x : Strand) : Strand := { x with wait := none, hints := [] }

/-- The same in the state: the strand is ready again. -/
def State.again (s : State) (sid : Nat) : State := (s.modStrand sid Strand.again).toBack sid

/-! ## Immediates (R25, R62) -/

/-- The value V of a field of n bits after the unit's extension hints, sign-extended to 64 bits (R25). -/
def immV (hints : List (BitVec 32)) (n x : Nat) : Word :=
  let es := hints.filter fun w => hintKind w == 0
  let v := es.foldl (fun v w => v * 2 ^ 22 + hintData w) 0 * 2 ^ n + x
  let width := n + 22 * es.length
  if width ≥ 64 then BitVec.ofNat 64 v
  else if v < 2 ^ (width - 1) then BitVec.ofNat 64 v else BitVec.ofNat 64 (v + 2 ^ 64 - 2 ^ width)

/-! ## The infos of the formats -/

/-- The registers g1 to gn, which a system call, a push, a pop or a message names implicitly (R67). -/
def gRange (n : Nat) : List RegName := (List.range n).map fun i => .g (i + 1)

/-- Registers named by a g field each. -/
def gs (l : List (BitVec 5)) : List RegName := l.map fun b => .g b.toNat

/-- An instruction outside the long-latency class with an sc field. -/
def infoR (word : BitVec 32) (iv : BitVec 2) (sc : BitVec 4) (regs : List RegName) : Info :=
  { word := word, iv := iv, sc := sc, ll := false, ok := Wf.mark iv sc, regs := regs }

/-- A long-latency instruction. -/
def infoLL (word : BitVec 32) (iv : BitVec 2) (sc : BitVec 4) (regs : List RegName) : Info :=
  { word := word, iv := iv, sc := sc, ll := true, ok := Wf.ver iv, regs := regs }

/-- An instruction of a format without an sc field (R66). -/
def infoJ (word : BitVec 32) (iv : BitVec 2) (regs : List RegName) : Info :=
  { word := word, iv := iv, sc := 0, ll := false, ok := Wf.ver iv, regs := regs }

/-- The same with a further condition of check 4. -/
def Info.need (inf : Info) (ok : Bool) : Info := { inf with ok := inf.ok && ok }

/-- The same for the modes from m on (R20). -/
def Info.from (inf : Info) (m : Mode) : Info := { inf with priv := m, ptv := inf.word.setWidth 64 }

/-- Vector and mask registers named. -/
def vs (l : List (BitVec 4)) : List RegName := l.map fun b => .v b.toNat
def ks (l : List (BitVec 3)) : List RegName := l.map fun b => .k b.toNat
def qs (l : List (BitVec 3)) : List RegName := l.map fun b => .q b.toNat

end Sys2Proof.Machine
end

