-- ==== Sys2Proof/Machine/Num.lean ====
section
/-!
DEFINITION. Number formats and arithmetic (03 R44 to R58): exact values, the five floating-point formats, rounding,
conversion to integers, block formats, trits, the generator.
-/
namespace Sys2Proof.Machine

/-! ## Flags (R17), in the order of fcr [14:8] -/

/-- A set of exceptions: nv, dz, of, uf, nx, tinv, sat from bit 0 on. -/
abbrev Fl := BitVec 7

def Fl.nv : Fl := 1
def Fl.dz : Fl := 2
def Fl.of : Fl := 4
def Fl.uf : Fl := 8
def Fl.nx : Fl := 16
def Fl.tinv : Fl := 32
def Fl.sat : Fl := 64

/-- A flag set if a condition holds. -/
def Fl.when (p : Bool) (f : Fl) : Fl := if p then f else 0

/-- Rounding modes (R51). -/
inductive RM where
  | ne | tz | up | dn | st
  deriving DecidableEq, Repr

/-- The mode of fcr.rm; reserved values are never written (R17). -/
def RM.ofCode : Nat → RM
  | 1 => .tz
  | 2 => .up
  | 3 => .dn
  | 4 => .st
  | _ => .ne

/-! ## Exact values -/

/-- A floating-point value: NaN, an infinity, or (-1)^neg · m · 2^e. -/
inductive Num where
  | nan
  | inf (neg : Bool)
  | fin (neg : Bool) (m : Nat) (e : Int)
  deriving DecidableEq, Repr

/-- Zero of a sign. -/
def Num.zero (neg : Bool) : Num := .fin neg 0 0

/-- The sign; a NaN has sign 0 (R47). -/
def Num.neg? : Num → Bool
  | .nan => false
  | .inf s => s
  | .fin s _ _ => s

/-- The value with the other sign. -/
def Num.negate : Num → Num
  | .nan => .nan
  | .inf s => .inf !s
  | .fin s m e => .fin (!s) m e

/-- The magnitude. -/
def Num.abs : Num → Num
  | .nan => .nan
  | .inf _ => .inf false
  | .fin _ m e => .fin false m e

/-- Whether a value is a zero. -/
def Num.isZero : Num → Bool
  | .fin _ 0 _ => true
  | _ => false

/-- m · 2^(e - lo) with its sign, for lo at or below e. -/
def scaled (neg : Bool) (m : Nat) (e lo : Int) : Int := (if neg then -1 else 1) * ((m * 2 ^ (e - lo).toNat : Nat) : Int)

/-- a < b for values that are not NaN; the zeros are equal. -/
def Num.lt : Num → Num → Bool
  | .nan, _ => false
  | _, .nan => false
  | .inf a, .inf b => a && !b
  | .inf a, .fin .. => a
  | .fin .., .inf b => !b
  | .fin s m e, .fin t n f =>
    let lo := min e f
    decide (scaled s m e lo < scaled t n f lo)

/-- a = b for values that are not NaN; the zeros are equal. -/
def Num.eq : Num → Num → Bool
  | .nan, _ => false
  | _, .nan => false
  | .inf a, .inf b => a == b
  | .fin s m e, .fin t n f =>
    let lo := min e f
    decide (scaled s m e lo = scaled t n f lo)
  | _, _ => false

/-- The exact product; 0 × inf is a NaN with nv (R47). -/
def Num.mul (a b : Num) : Num × Fl :=
  match a, b with
  | .nan, _ => (.nan, 0)
  | _, .nan => (.nan, 0)
  | .inf s, .inf t => (.inf (s != t), 0)
  | .inf s, .fin t m _ => if m = 0 then (.nan, Fl.nv) else (.inf (s != t), 0)
  | .fin s m _, .inf t => if m = 0 then (.nan, Fl.nv) else (.inf (s != t), 0)
  | .fin s m e, .fin t n f => (.fin (s != t) (m * n) (e + f), 0)

/-- The exact sum of terms (R47, R104, IEEE 754-2019): an exact zero has the sign of the terms if all are zeros of one
sign; else +0, or −0 when rounding down. -/
def Num.sum (rm : RM) (l : List Num) : Num × Fl :=
  if l.any (· == .nan) then (.nan, 0)
  else if l.any (· == .inf false) then (if l.any (· == .inf true) then (.nan, Fl.nv) else (.inf false, 0))
  else if l.any (· == .inf true) then (.inf true, 0)
  else
    let lo := l.foldl (fun (a : Int) x => match x with | .fin _ _ e => min a e | _ => a) 0
    let v := l.foldl (fun (a : Int) x => match x with | .fin s m e => a + scaled s m e lo | _ => a) 0
    if v = 0 then
      let allNeg := l.all fun x => x.isZero && x.neg?
      let allPos := l.all fun x => x.isZero && !x.neg?
      (.zero (if allNeg && !l.isEmpty then true else if allPos then false else rm == .dn), 0)
    else (.fin (decide (v < 0)) v.natAbs lo, 0)

/-! ## Formats (R46) -/

/-- A floating-point format: width, exponent bits, mantissa bits, bias; ieee is false for e4m3, which has no infinity. -/
structure Fmt where
  w    : Nat
  ew   : Nat
  mw   : Nat
  bias : Nat
  ieee : Bool
  /-- fz acts on it (R53). -/
  flush : Bool
  deriving DecidableEq, Repr

def Fmt.f32 : Fmt := ⟨32, 8, 23, 127, true, true⟩
def Fmt.f16 : Fmt := ⟨16, 5, 10, 15, true, true⟩
def Fmt.b16 : Fmt := ⟨16, 8, 7, 127, true, true⟩
def Fmt.e5m2 : Fmt := ⟨8, 5, 2, 15, true, false⟩
def Fmt.e4m3 : Fmt := ⟨8, 4, 3, 7, false, false⟩

/-- The format of a tag (R44). -/
def Fmt.ofTag (t : BitVec 4) : Option Fmt :=
  match t.toNat with
  | 5 => some .e4m3
  | 6 => some .e5m2
  | 7 => some .f16
  | 8 => some .b16
  | 9 => some .f32
  | _ => none

/-- Canonical NaN (R46, R47). -/
def Fmt.nanBits (f : Fmt) : Nat := if f.ieee then (2 ^ f.ew - 1) * 2 ^ f.mw + 2 ^ (f.mw - 1) else 0x7F

/-- Infinity's bits without sign. -/
def Fmt.infBits (f : Fmt) : Nat := (2 ^ f.ew - 1) * 2 ^ f.mw

/-- Largest finite value's bits without sign (R46). -/
def Fmt.maxBits (f : Fmt) : Nat := if f.ieee then f.infBits - 1 else 0x7E

/-- Sign bit. -/
def Fmt.signBit (f : Fmt) (neg : Bool) : Nat := if neg then 2 ^ (f.w - 1) else 0

/-- The value of an encoding (R46), subnormals read as zeros under fz (R53). -/
def Fmt.decode (f : Fmt) (fz : Bool) (b : Nat) : Num :=
  let neg := b / 2 ^ (f.w - 1) % 2 == 1
  let ex := b / 2 ^ f.mw % 2 ^ f.ew
  let m := b % 2 ^ f.mw
  if ex = 2 ^ f.ew - 1 ∧ f.ieee then (if m = 0 then .inf neg else .nan)
  else if ex = 2 ^ f.ew - 1 ∧ m = 2 ^ f.mw - 1 then .nan
  else if ex = 0 then
    if fz && f.flush then .zero neg else .fin neg m (1 - (f.bias : Int) - f.mw)
  else .fin neg (m + 2 ^ f.mw) ((ex : Int) - f.bias - f.mw)

/-- Largest finite magnitude as mantissa and exponent. -/
def Fmt.maxMant (f : Fmt) : Nat := if f.ieee then 2 ^ (f.mw + 1) - 1 else 14
def Fmt.maxExp (f : Fmt) : Int := if f.ieee then (f.bias : Int) - f.mw else 5

/-- Whether m · 2^q exceeds the largest finite magnitude. -/
def Fmt.exceeds (f : Fmt) (m : Nat) (q : Int) : Bool :=
  let d := q - f.maxExp
  if 0 ≤ d then decide (m * 2 ^ d.toNat > f.maxMant) else decide (m > f.maxMant * 2 ^ (-d).toNat)

/-- Whether a magnitude with quotient M and remainder r of 2^k rounds up (R51, R52). -/
def roundsUp (rm : RM) (neg : Bool) (M r k rnd : Nat) : Bool :=
  match rm with
  | .ne => decide (2 * r > 2 ^ k) || (decide (2 * r = 2 ^ k) && M % 2 == 1)
  | .tz => false
  | .up => !neg && decide (r ≠ 0)
  | .dn => neg && decide (r ≠ 0)
  | .st => decide (rnd < r * 2 ^ 32 / 2 ^ k)

/-- Round a value into a format (R47, R51 to R53): its bits and the exceptions raised. A tiny inexact result that rounds to
zero or to the smallest normal raises uf under fz as well (R53 states it for fz = 0; log 53). -/
def Fmt.round (f : Fmt) (rm : RM) (fz : Bool) (rnd : Nat) (x : Num) : Nat × Fl :=
  match x with
  | .nan => (f.nanBits, 0)
  | .inf s =>
    if f.ieee then (f.signBit s + f.infBits, 0) else (f.signBit s + f.maxBits, Fl.sat ||| Fl.of ||| Fl.nx)
  | .fin s m e =>
    if m = 0 then (f.signBit s, 0)
    else
      let E := (m.log2 : Int) + e
      let emin := 1 - (f.bias : Int)
      let q := max E emin - f.mw
      let rm := if rm = .st ∧ f.exceeds m e then .ne else rm
      let k := (q - e).toNat
      let M := if e ≥ q then m * 2 ^ (e - q).toNat else m / 2 ^ k
      let r := if e ≥ q then 0 else m % 2 ^ k
      let M := if roundsUp rm s M r k rnd && decide (e < q) then M + 1 else M
      let inexact := decide (r ≠ 0)
      if f.exceeds M q then
        if !f.ieee then (f.signBit s + f.maxBits, Fl.sat ||| Fl.of ||| Fl.nx)
        else
          let toInf := match rm with
            | .ne | .st => true
            | .tz => false
            | .up => !s
            | .dn => s
          (f.signBit s + (if toInf then f.infBits else f.maxBits), Fl.of ||| Fl.nx)
      else if M < 2 ^ f.mw then
        if fz && f.flush && decide (M ≠ 0) then (f.signBit s, Fl.uf ||| Fl.nx)
        else (f.signBit s + M, Fl.when inexact (Fl.uf ||| Fl.nx))
      else
        let (M, q) := if M ≥ 2 ^ (f.mw + 1) then (M / 2, q + 1) else (M, q)
        (f.signBit s + ((q + f.mw + f.bias).toNat * 2 ^ f.mw + (M - 2 ^ f.mw)),
          Fl.when inexact Fl.nx ||| Fl.when (inexact && decide (E < emin)) Fl.uf)

/-- Round to an integer of a range (R51): the integer and the exceptions; stochastic acts as nearest-even. -/
def Num.toRange (x : Num) (rm : RM) (lo hi : Int) : Int × Fl :=
  match x with
  | .nan => (0, Fl.nv)
  | .inf s => (if s then lo else hi, Fl.sat ||| Fl.nx)
  | .fin s m e =>
    let rm := if rm = .st then .ne else rm
    let k := (-e).toNat
    let M := if 0 ≤ e then m * 2 ^ e.toNat else m / 2 ^ k
    let r := if 0 ≤ e then 0 else m % 2 ^ k
    let M := if roundsUp rm s M r k 0 && decide (e < 0) then M + 1 else M
    let v : Int := if s then -(M : Int) else M
    if v < lo then (lo, Fl.sat ||| Fl.nx) else if hi < v then (hi, Fl.sat ||| Fl.nx)
    else (v, Fl.when (decide (r ≠ 0)) Fl.nx)

/-- The value of an integer. -/
def Num.ofInt (v : Int) : Num := .fin (decide (v < 0)) v.natAbs 0

/-! ## Block formats and trits (R48 to R50) -/

/-- A decoded be4 or bi8 element under its scale byte (R49): rounded to fp32 only where it exceeds its range. -/
def blockValue (be4 : Bool) (b scale : Nat) (rm : RM) : Num × Fl :=
  if scale = 255 then (.nan, 0)
  else
    let x := if be4 then Fmt.e4m3.decode false b else .ofInt ((BitVec.ofNat 8 b).toInt)
    match x with
    | .fin s m e =>
      let e := e + (scale : Int) - 127
      if Fmt.f32.exceeds m e then
        let (bits, fl) := Fmt.f32.round rm false 0 (.fin s m e)
        (Fmt.f32.decode false bits, fl)
      else (.fin s m e, 0)
    | x => (x, 0)

/-- The least s with m · 2^e · 2^(-s) ≤ M (R50), for m > 0. -/
def leastScale (m : Nat) (e : Int) (M : Nat) : Int :=
  let s := (m.log2 : Int) + e - M.log2
  let le := fun (t : Int) => let d := e - t; if 0 ≤ d then decide (m * 2 ^ d.toNat ≤ M) else decide (m ≤ M * 2 ^ (-d).toNat)
  if le (s - 1) then s - 1 else if le s then s else s + 1

/-- The scale byte E of a maximum magnitude (R50). -/
def scaleByte (be4 : Bool) (m : Num) : Nat :=
  match m with
  | .nan => 255
  | .inf _ => 254
  | .fin _ n e =>
    if n = 0 then 127
    else
      let v := leastScale n e (if be4 then 448 else 127) + 127
      if v < 0 then 0 else if 254 < v then 254 else v.toNat

/-- x · 2^n. -/
def Num.scale (x : Num) (n : Int) : Num :=
  match x with
  | .fin s m e => .fin s m (e + n)
  | x => x

/-- Quantise a value under a scale byte (R50): its element byte and the exceptions. -/
def quantise (be4 : Bool) (x : Num) (scale : Nat) (rm : RM) (rnd : Nat) : Nat × Fl :=
  let y := x.scale (127 - (scale : Int))
  if be4 then Fmt.e4m3.round rm false rnd y
  else
    let (v, fl) := y.toRange rm (-127) 127
    ((BitVec.ofInt 8 v).toNat, fl)

/-- Trit i of a byte (R48): −1, 0 or 1; a byte above 242 gives zeros. -/
def tritOf (b i : Nat) : Int := if b > 242 then 0 else ((b / 3 ^ i % 3 : Nat) : Int) - 1

/-- The byte of five trits (R48). -/
def tritByte (t : Nat → Int) : Nat := ((List.range 5).foldl (fun a i => a + ((t i + 1).toNat) * 3 ^ i) 0)

/-! ## The generator (R58) -/

/-- F of R58. -/
def genF (x : Word) : Word :=
  let x := (x ^^^ (x >>> 31)) * 0x7FB5D329728EA185#64
  let x := (x ^^^ (x >>> 27)) * 0x81DADEF4BC2DD44D#64
  x ^^^ (x >>> 33)

/-- The output at a counter value (R58). -/
def genOutput (seed : Word) (sid : BitVec 48) (counter : Word) : Word :=
  genF ((seed ^^^ (sid.setWidth 64 * 0x9E3779B97F4A7C15#64)) ^^^ genF counter)

/-- The n-th next output of a strand's generator. -/
def Strand.output (x : Strand) (n : Nat) : Word := genOutput x.ctl.seed x.sid (x.ctl.gen + BitVec.ofNat 64 n)

/-- The generator has given n outputs. -/
def Strand.drew (x : Strand) (n : Nat) : Strand := x.modCtl fun c => { c with gen := c.gen + BitVec.ofNat 64 n }

end Sys2Proof.Machine
end

