-- ==== Sys2Proof/Machine/Flags.lean ====
section
/-!
DEFINITION. The control and sticky flags of fcr as vector instructions use them (01 R17, 03 R51 to R53, 06 R104), and what
every flag-setting element operation computes.
-/
namespace Sys2Proof.Machine

/-! ## fcr (R17) -/

/-- fcr.fz. -/
def Strand.fz (x : Strand) : Bool := x.ctl.fcr.getLsbD 3

/-- The rounding mode in force: a modifier's override, else fcr.rm (R51). -/
def Strand.rm (x : Strand) : RM :=
  let r := modData x.hints / 2 ^ 19 % 8
  if r = 0 then RM.ofCode (x.ctl.fcr.toNat % 8) else RM.ofCode (r - 1)

/-- The rounding mode of an operation that is no conversion: stochastic acts as nearest-even (R51). -/
def RM.plain (rm : RM) : RM :=
  match rm with
  | .st => .ne
  | m => m

/-- Whether the unit carries .sat (R70). -/
def Strand.satOn (x : Strand) : Bool := modData x.hints / 2 ^ 18 % 2 == 1

/-- Exceptions as bits of fcr (R17). -/
def fcrBits (fl : Fl) : BitVec 15 := fl.setWidth 15 <<< 8

/-- The sticky flags: an instruction only sets them (R17). -/
def Strand.raise (x : Strand) (fl : Fl) : Strand := x.modCtl fun c => { c with fcr := c.fcr ||| fcrBits fl }

/-! ## Integers of a width (R45, R106) -/

/-- The value of w bits read as signed or unsigned. -/
def asInt (signed : Bool) (w x : Nat) : Int :=
  if signed && decide (2 ^ (w - 1) ≤ x % 2 ^ w) then ((x % 2 ^ w : Nat) : Int) - ((2 ^ w : Nat) : Int) else ((x % 2 ^ w : Nat) : Int)

/-- An integer modulo 2^w. -/
def wrap (w : Nat) (v : Int) : Nat := (v % ((2 ^ w : Nat) : Int)).toNat

/-- Least and largest value of a width. -/
def loOf (signed : Bool) (w : Nat) : Int := if signed then -((2 ^ (w - 1) : Nat) : Int) else 0
def hiOf (signed : Bool) (w : Nat) : Int := if signed then ((2 ^ (w - 1) : Nat) : Int) - 1 else ((2 ^ w : Nat) : Int) - 1

/-- Clamp to the range of a width: the bits, and sat if the value changes (R106). -/
def clampTo (signed : Bool) (w : Nat) (v : Int) : Nat × Fl :=
  if v < loOf signed w then (wrap w (loOf signed w), Fl.sat)
  else if hiOf signed w < v then (wrap w (hiOf signed w), Fl.sat)
  else (wrap w v, 0)

/-- An integer result: wrapped, or clamped under .sat (R106). -/
def intResult (sat signed : Bool) (w : Nat) (v : Int) : Nat × Fl := if sat then clampTo signed w v else (wrap w v, 0)

/-! ## Floating-point elements (R47, R104, R106) -/

/-- An element operation in one floating-point format: rounding mode, fz, the bits of Va, Vb and Vd. -/
abbrev FloatOp := Fmt → RM → Bool → Nat → Nat → Nat → Nat × Fl

/-- Round a result with the exceptions it already has. -/
def Fmt.finish (f : Fmt) (rm : RM) (fz : Bool) (v : Num × Fl) : Nat × Fl :=
  let (b, e) := f.round rm fz 0 v.1
  (b, v.2 ||| e)

/-- The sum of exact terms with exceptions, rounded once. A product 0 × inf raises nv also beside a NaN term (R47 says that
a NaN operand raises none and that 0 × inf does; log 53). -/
def Fmt.sumUp (f : Fmt) (rm : RM) (fz : Bool) (l : List (Num × Fl)) : Nat × Fl :=
  let (v, e) := Num.sum rm (l.map (·.1))
  f.finish rm fz (v, l.foldl (fun a x => a ||| x.2) e)

/-- Va + Vb and Va − Vb. -/
def fAdd : FloatOp := fun f rm fz a b _ => f.sumUp rm fz [(f.decode fz a, 0), (f.decode fz b, 0)]
def fSub : FloatOp := fun f rm fz a b _ => f.sumUp rm fz [(f.decode fz a, 0), ((f.decode fz b).negate, 0)]

/-- Va × Vb. -/
def fMul : FloatOp := fun f rm fz a b _ => f.finish rm fz ((f.decode fz a).mul (f.decode fz b))

/-- Va × Vb + Vd and Vd − Va × Vb, rounded once. -/
def fFma : FloatOp := fun f rm fz a b d => f.sumUp rm fz [(f.decode fz a).mul (f.decode fz b), (f.decode fz d, 0)]
def fFms : FloatOp := fun f rm fz a b d =>
  let p := (f.decode fz a).mul (f.decode fz b)
  f.sumUp rm fz [(p.1.negate, p.2), (f.decode fz d, 0)]

/-- The bits of an operand as it is read: a subnormal under fz is a zero of its sign (R53). -/
def Fmt.read (f : Fmt) (fz : Bool) (b : Nat) : Nat :=
  match f.decode fz b with
  | .fin s 0 _ => f.signBit s
  | _ => b

/-- Strictly less where −0 counts as less than +0 (R106). -/
def Num.below (x y : Num) : Bool := x.lt y || (x.eq y && x.neg? && !y.neg?)

/-- vmin and vmax (R106): a single NaN gives the other operand, two give the canonical NaN. -/
def fPick (max : Bool) : FloatOp := fun f _ fz a b _ =>
  let (x, y) := (f.decode fz a, f.decode fz b)
  let (a, b) := (f.read fz a, f.read fz b)
  if x == .nan && y == .nan then (f.nanBits, 0)
  else if x == .nan then (b, 0)
  else if y == .nan then (a, 0)
  else if max then (if y.below x then a else b, 0) else (if x.below y then a else b, 0)

/-- vabs and vneg: only the sign of the operand as it is read changes, no flag; a NaN becomes the canonical one (R53, R106). -/
def fAbs : FloatOp := fun f _ fz a _ _ =>
  if f.decode false a == .nan then (f.nanBits, 0) else (f.read fz a % 2 ^ (f.w - 1), 0)
def fNeg : FloatOp := fun f _ fz a _ _ =>
  let b := f.read fz a
  if f.decode false a == .nan then (f.nanBits, 0)
  else (if b / 2 ^ (f.w - 1) % 2 = 1 then b % 2 ^ (f.w - 1) else b % 2 ^ (f.w - 1) + 2 ^ (f.w - 1), 0)

end Sys2Proof.Machine
end

