-- ==== Sys2Proof/Machine/Access.lean ====
section
/-!
DEFINITION. How an access finds its storage and what it is checked against (05 R90 to R96, 10 R198 to R214, 12 R234,
22 R370): extent entries, windows, rights, tags, poison, the read cache and the store buffer.
-/
namespace Sys2Proof.Machine

/-! ## Results that may trap -/

/-- A result with the state it leaves; or a precise trap with the state it is taken in; or a stop of the machine. -/
inductive Res (α : Type) where
  | ok (x : α) (s : State)
  | trap (s : State) (c : BitVec 8) (tval : Word)
  | stop (f : Fault)

/-- Go on with a result. -/
def Res.bind {α β : Type} (r : Res α) (k : α → State → Res β) : Res β :=
  match r with
  | .ok x s => k x s
  | .trap s c t => .trap s c t
  | .stop f => .stop f

/-- A trap of a fetch names the head of the unit in issue (R59, R100). -/
def Res.atHead {α : Type} : Res α → Res α
  | .trap s c _ => .trap s c s.st.pc
  | r => r

/-- The outcome of an instruction whose access gave a result. -/
def Res.out {α : Type} (r : Res α) (k : α → State → Out) : Out :=
  match r with
  | .ok x s => k x s
  | .trap s c t => trapOut s c t
  | .stop f => .fault f

/-! ## Extent entries (R142) -/

abbrev Extent := BitVec 256

def Extent.valid (e : Extent) : Bool := e.getLsbD 77
def Extent.revoked (e : Extent) : Bool := e.getLsbD 78
def Extent.host (e : Extent) : Bool := e.getLsbD 79
def Extent.length (e : Extent) : Nat := (e.extractLsb' 80 56).toNat
def Extent.vbase (e : Extent) : Nat := (e.extractLsb' 136 56).toNat
def Extent.r (e : Extent) : Bool := e.getLsbD 192
def Extent.w (e : Extent) : Bool := e.getLsbD 193
def Extent.x (e : Extent) : Bool := e.getLsbD 194
def Extent.t (e : Extent) : Bool := e.getLsbD 195
def Extent.pbase (e : Extent) : Nat := (e.extractLsb' 200 56).toNat

/-- An entry of its fields (R142); rights as bits r, w, x, t. -/
def mkExtent (vbase length pbase die : Nat) (rights : Nat) (host : Bool) : Extent :=
  BitVec.ofNat 256 (pbase % 2 ^ 56 * 2 ^ 200 + die % 16 * 2 ^ 196 + rights % 16 * 2 ^ 192 + vbase % 2 ^ 56 * 2 ^ 136
    + length % 2 ^ 56 * 2 ^ 80 + (if host then 2 ^ 79 else 0) + 2 ^ 77)

/-- Whether an entry covers a virtual address, key bits apart. -/
def Extent.covers (e : Extent) (va : Word) : Bool :=
  let v := va.toNat % 2 ^ 56
  e.valid && decide (e.vbase ≤ v) && decide (v < e.vbase + e.length)

/-- The valid entry that covers an address: the lowest of them, where several do (the spec does not say; log 60). -/
def coverOf (ext : Vector (BitVec 256) 16) (va : Word) : Option Extent := ext.toList.find? fun e => Extent.covers e va

/-! ## Finding the storage -/

/-- Where an access goes: an address of the model's memory, or of fabric or configuration space, with the rights of what
covers it. -/
structure Target where
  addr : Nat
  r    : Bool
  w    : Bool
  x    : Bool
  t    : Bool
  host : Bool
  revoked : Bool
  deriving DecidableEq, Repr

/-- The space a target lies in; an entry that maps host memory makes it host memory (R142, R213). -/
def Target.space (t : Target) : Space := if t.host then .host else spaceOf t.addr

/-- Size of a strand's private memory (R199). -/
def Strand.privSize (x : Strand) : Nat := match x.cls with
  | .light => 16384
  | _ => 262144

/-- Scratchpad bytes of a core: none on a core without a strand (R200, R295). -/
def State.scratchOf (s : State) (core : Nat) : Nat := match (s.core core).part with
  | some p => scratchSize p
  | none => 0

/-- Bits [55:48] of a virtual address (R198). -/
def winOf (va : Word) : Nat := va.toNat / 2 ^ 48 % 256

/-- Bits [47:0] (R198). -/
def offOf (va : Word) : Nat := va.toNat % 2 ^ 48

/-- What covers an address: the private window, the scratchpad window, or an extent entry (R199, R200, R203); none is
check 3 of R95. A transmit-window entry has no r, x or t, a pod-space entry no x or t (R370). -/
def State.find (s : State) (x : Strand) (va : Word) : Option Target :=
  if winOf va = 0xFF then
    if offOf va < x.privSize then
      some ⟨Memory.privBase x.sid.toNat + offOf va, true, true, false, false, false, false⟩
    else none
  else if winOf va = 0xFE then
    if offOf va < s.scratchOf x.core then
      some ⟨Memory.scratchBase x.core + offOf va, true, true, false, false, false, false⟩
    else none
  else match coverOf x.ext va with
    | none => none
    | some e =>
      let a := e.pbase + (va.toNat % 2 ^ 56 - e.vbase)
      match spaceOf a with
      | .fabric =>
        if a / 2 ^ 53 % 2 = 0 then some ⟨a, false, e.w, false, false, e.host, e.revoked⟩
        else some ⟨a, e.r, e.w, false, false, e.host, e.revoked⟩
      | _ => some ⟨a, e.r, e.w, e.x, e.t && !e.host, e.host, e.revoked⟩

/-- Whether an address of fabric space is in pod space (R370). -/
def isPod (a : Nat) : Bool := a / 2 ^ 53 % 2 == 1

/-- The kinds of access that R95, R100, R234 and R370 tell apart. -/
inductive Acc where
  | load | lit | store | strongLd (size : Nat) | strongSt (size : Nat) | atomic | waita | wake | tagGet | stF | fetch
  deriving DecidableEq, Repr

/-- The rights an access needs (check 5). -/
def Acc.allowed (a : Acc) (t : Target) : Bool :=
  match a with
  | .load | .strongLd _ | .waita => t.r
  | .lit => t.r || t.x
  | .store | .strongSt _ | .wake | .stF => t.w
  | .atomic => t.r && t.w
  | .tagGet => t.r && t.t
  | .fetch => t.x

/-- Configuration space takes only 64-bit strong loads and stores (R388). -/
def Acc.config : Acc → Bool
  | .strongLd 8 => true
  | .strongSt 8 => true
  | _ => false

/-- Whether an access reads, so that pod space refuses it (R370). -/
def Acc.reads : Acc → Bool
  | .load | .lit | .strongLd _ | .atomic | .waita | .tagGet | .fetch => true
  | _ => false

/-- Checks 1 to 6 of R95 for an access of a size (R234 for the strong ones): the target, or the cause. An access to an
address that no range names stops the machine, but for st.f, which asks for a transmit window (R254). A nonzero [47:40] of a
scratchpad-window address gives 0x40 to tag.get and st.f too, which R200 does not name there (log 60). -/
def State.check (s : State) (x : Strand) (a : Acc) (va : Word) (size : Nat) : Res Target :=
  let bad := fun (c : BitVec 8) => Res.trap s c va
  let scr := winOf va = 0xFE
  if va.toNat / 2 ^ 60 ≠ 0 ∧ a ≠ .fetch then bad 0x40
  else if scr ∧ a ≠ .fetch ∧ (va.toNat / 2 ^ 40 % 256 ≠ 0 ∨ a = .waita ∨ a = .wake) then bad 0x40
  else if va.toNat % size ≠ 0 then bad 0x43
  else match s.find x va with
    | none => bad 0x41
    | some t =>
      if t.revoked then bad 0x48
      else if !a.allowed t then bad 0x42
      else if scr ∧ a = .stF then bad 0xA2
      else match t.space with
        | .host => bad (if a = .atomic then 0x47 else 0x46)
        | .config => if a.config then .ok t s else bad 0x42
        | .fabric =>
          if a = .wake then bad 0xA2
          else if isPod t.addr && a.reads then bad 0xA1 else .ok t s
        | .nothing => if a = .stF then bad 0xA2 else .stop (.noStorage t.addr)
        | _ => .ok t s

/-! ## Tags (R212) -/

/-- The key of a pointer (R198). -/
def keyOf (va : Word) : BitVec 4 := va.extractLsb' 56 4

/-- The mask of n bytes from lo on. -/
def byteMask (lo n : Nat) : BitVec 64 := BitVec.ofNat 64 ((2 ^ n - 1) * 2 ^ lo)

/-- A buffered line without its bytes in [a, a + n): a later store has taken their place. -/
def SbLine.without (a n : Nat) (l : SbLine) : SbLine :=
  let lo := Nat.max a l.line - l.line
  let hi := Nat.min (a + n) (l.line + 64) - l.line
  { l with mask := l.mask &&& ~~~byteMask lo (hi - lo) }

/-- A store buffer gives up the bytes of [a, a + n). -/
def Core.supersede (c : Core) (a n : Nat) : Core :=
  { c with sbuf := (c.sbuf.map (SbLine.without a n)).filter (·.mask != 0) }

/-- The device writes a strand's private memory: at the memory side, in place of the older stores to those bytes that stand in
a store buffer or on a path, and cached copies of the lines go (R182, R212). -/
def State.devWrite (s : State) (sid off n x : Nat) : State :=
  let a := Memory.privBase sid + off
  let home := s.ownerDie a
  let s := s.dies.foldl (fun s d => s.pathFlush d.1 home) s
  let s := s.unitWrite a x n
  { s with cores := s.cores.map fun (p : Nat × Core) =>
    (p.1, { p.2.supersede a n with rcache := p.2.rcache.filter fun l => l.line + 64 ≤ a || a + n ≤ l.line }) }

/-- An entry of the lock-change log as its 32 bytes (R212). -/
def LockLog.bytes (l : LockLog) : Nat :=
  l.granule + l.clk.toNat * 2 ^ 64 + l.sid % 2 ^ 48 * 2 ^ 128 + (l.old.toNat + 16 * l.new.toNat) * 2 ^ 176
    + l.source % 256 * 2 ^ 184

/-- Insert an entry before those that are not newer. -/
def newestFirst : List LockLog → LockLog → List LockLog
  | [], e => [e]
  | x :: t, e => if x.clk.toNat ≤ e.clk.toNat then e :: x :: t else x :: newestFirst t e

/-- The record of a TAG_MISMATCH (R212), written at private offset 0x1440 before the trap is entered. -/
def State.tagRecord (s : State) (x : Strand) (va : Word) (addr : Nat) (lock : BitVec 4) : State :=
  let g := addr / 32 * 32
  let hits := ((s.dies.map fun (p : Nat × Die) => p.2.locks).flatten.filter (·.granule == g)).foldl newestFirst []
  let n := Nat.min hits.length 3
  let logs := (hits.take 3).zipIdx.foldl (fun acc (l, i) => acc + l.bytes * 2 ^ (256 * i)) 0
  let record := va.toNat + g * 2 ^ 64 + lock.toNat * 2 ^ 128 + (keyOf va).toNat * 2 ^ 136 + n * 2 ^ 144
    + (if hits.length > 3 then 1 else 0) * 2 ^ 152 + s.clk.toNat % 2 ^ 32 * 2 ^ 160 + logs * 2 ^ 256
  s.devWrite x.sid.toNat 0x1440 128 record

/-- Check 7 of R95 against a lock. -/
def State.checkTag (s : State) (x : Strand) (va : Word) (t : Target) (lock : BitVec 4) : Res Target :=
  if t.t && keyOf va != lock then .trap (s.tagRecord x va t.addr lock) 0x44 va else .ok t s

/-! ## Read cache and store buffer (R94, R205, R206) -/

/-- Bytes lo to lo + n - 1 of a line as a number. -/
def Line.bytes (l : Line) (lo n : Nat) : Nat := l.toNat / 2 ^ (8 * lo) % 2 ^ (8 * n)

/-- The line with n bytes from lo on replaced by x. -/
def Line.put (l : Line) (lo n x : Nat) : Line :=
  BitVec.ofNat 512 (l.toNat - Line.bytes l lo n * 2 ^ (8 * lo) + x % 2 ^ (8 * n) * 2 ^ (8 * lo))

/-- The line as the memory side holds it. -/
def State.lineAt (s : State) (line : Nat) : Line := BitVec.ofNat 512 (Memory.readN s.mem line 64)

/-- The line a read cache holds. -/
def Core.cached (c : Core) (line : Nat) : Option RcLine := c.rcache.find? (·.line == line)

/-- A core's buffered bytes laid over a line (R94). -/
def Core.merge (c : Core) (line : Nat) (data : Line) : Line :=
  c.sbuf.foldl (fun d l => if l.line = line then mergeLine d l.data l.mask else d) data

/-- Fill a read cache of 256 lines (R206, R207): a full cache evicts a stream line if it holds one, else a line that a
free value chooses; a stream fill never evicts a keep line. -/
def State.fill (s : State) (core : Nat) (l : RcLine) : State :=
  let rc := (s.core core).rcache.filter (·.line != l.line)
  if rc.length < 256 then s.modCore core fun c => { c with rcache := rc ++ [l] }
  else
    let streams := rc.filter (·.pol == 1)
    let cands := if streams.isEmpty then (if l.pol = 1 then rc.filter (·.pol != 2) else rc) else streams
    match cands[s.freeNat % cands.length]? with
    | none => s.takeFree
    | some v => s.takeFree.modCore core fun c => { c with rcache := rc.filter (·.line != v.line) ++ [l] }

/-- Whether bytes of a scratchpad lie in a range that a started copy job still has to read: a store there waits (R271). -/
def State.scratchBusy (s : State) (t : Target) (size : Nat) : Bool :=
  spaceOf t.addr == .scratch && (s.quad (quadOf ((t.addr - 2 ^ 60) / 2 ^ 18))).copyQ.any fun e => e.started && match e.work with
    | .copy c => match c.src with
      | .scratch core off =>
        let next := match c.qual with
          | .entropy _ _ => c.pos / 8
          | _ => c.done
        let a := Memory.scratchBase core + off
        decide (Nat.max a (Memory.line (a + next)) < t.addr + size) && decide (t.addr < a + c.len) && decide (next < c.len)
      | _ => false
    | _ => false

/-- What a plain load does at a line after checks 1 to 6 (R94, R95, R206, R211): tag check against the cached or read
locks, poison, fill, and the bytes with the core's buffered stores merged. `tag` is false for ld.lit (R89). -/
def State.loadAt (s : State) (x : Strand) (va : Word) (t : Target) (size pol : Nat) (tag : Bool) : Res Nat :=
  match spaceOf t.addr with
  | .scratch =>
    if s.poisoned (Memory.line t.addr) then .trap s 0x45 va else .ok (Memory.readN s.mem t.addr size) s
  | _ =>
    let line := Memory.line t.addr
    let lo := t.addr - line
    match (s.core x.core).cached line with
    | some c =>
      (s.checkTag x va { t with t := t.t && tag } (if lo < 32 then c.lock0 else c.lock1)).bind fun _ _ =>
        if s.poisoned line then .trap s 0x45 va
        else .ok (Line.bytes ((s.core x.core).merge line c.data) lo size) s
    | none =>
      let s' := (s.behind x line).reach (dieOf x.core) line
      (s'.checkTag x va { t with t := t.t && tag } (s'.lockAt t.addr)).bind fun _ _ =>
        if s'.poisoned line then .trap s' 0x45 va
        else
          let d := s'.lineAt line
          .ok (Line.bytes ((s'.core x.core).merge line d) lo size)
            (s'.fill x.core ⟨line, d, s'.lockAt line, s'.lockAt (line + 32), pol⟩)

/-- A plain load: checks, then the bytes (R94, R95). -/
def State.loadPlain (s : State) (x : Strand) (a : Acc) (va : Word) (size pol : Nat) : Res Nat :=
  (s.check x a va size).bind fun t s => s.loadAt x va t size pol (a != .lit)

/-- The virtual addresses of the line that a store through an address writes: none through the private window, which nothing
revokes (R199, R334). -/
def vaLines (va : Word) : List Nat := if winOf va = 0xFF then [] else [Memory.line (va.toNat % 2 ^ 56)]

/-- Put bytes into a core's store buffer (R205): merged into a line it holds; a new line when 32 are in use drains the
oldest first. -/
def State.bufferStore (s : State) (core pid line lo size x : Nat) (vas : List Nat) : State :=
  let put := fun (l : SbLine) => { l with
    mask := l.mask ||| byteMask lo size, data := Line.put l.data lo size x, dead := l.dead &&& ~~~byteMask lo size, pid := pid
    vas := l.vas.filter (fun a => !vas.contains a) ++ vas }
  let c := s.core core
  if c.sbuf.any (·.line == line) then
    s.modCore core fun c => { c with sbuf := c.sbuf.map fun l => if l.line = line then put l else l }
  else
    let s := match c.sbuf with
      | l :: rest =>
        if c.sbuf.length ≥ 32 then
          (s.modCore core fun c => { c with sbuf := rest }).drainLine core (State.drainTo core) l
        else s
      | [] => s
    s.modCore core fun c => { c with sbuf := c.sbuf ++ [put { line := line, mask := 0, data := 0 }] }

/-- Checks 1 to 7 of a plain store (R95): against the cached locks if the read cache holds the line, else the memory
side's, which a checked store reads there (R209). -/
def State.checkStore (s : State) (x : Strand) (va : Word) (size : Nat) : Res Target :=
  (s.check x .store va size).bind fun t s =>
    match (s.core x.core).cached (Memory.line t.addr) with
    | some c => s.checkTag x va t (if t.addr % 64 < 32 then c.lock0 else c.lock1)
    | none =>
      let s := if t.t then (s.behind x (Memory.line t.addr)).reach (dieOf x.core) (Memory.line t.addr) else s
      s.checkTag x va t (s.lockAt t.addr)

/-- What a checked plain store does to storage (R94, R200): the SRAM of the scratchpad, else the store buffer. Fabric
targets are the fabric's (R373). -/
def State.storeAt (s : State) (x : Strand) (va : Word) (t : Target) (size v : Nat) : State :=
  match spaceOf t.addr with
  | .scratch => { s with mem := Memory.writeN s.mem t.addr (v % 2 ^ (8 * size)) size }
  | _ => (s.behind x (Memory.line t.addr)).bufferStore x.core x.pid (Memory.line t.addr) (t.addr % 64) size v
    (vaLines va)

/-! ## Fetch (R100, R214) -/

/-- Fetch the word at an address of the strand in issue: checks 3 to 6 and 8 of R95 with x, the fetch buffer, the
instruction cache of 256 lines, the memory side. What fails is taken at the unit, with its head's address (R100). -/
def State.fetchWord (s : State) (pc : Word) : Res (BitVec 32) :=
  (s.check s.st .fetch pc 1).atHead.bind fun t s =>
    let line := Memory.line t.addr
    if s.poisoned line then .trap s 0x45 s.st.pc
    else
    let wordOf := fun (l : Line) => BitVec.ofNat 32 (Line.bytes l (t.addr - line) 4)
    match Assoc.get s.st.fbuf line with
    | some l => .ok (wordOf l) s
    | none =>
      match Assoc.get (s.core s.st.core).icache line with
      | some l => .ok (wordOf l) (s.modSt fun x => { x with fbuf := Assoc.set x.fbuf line l })
      | none =>
        let s := (s.behind s.st line).reach (dieOf s.st.core) line
        if s.poisoned line then .trap s 0x45 s.st.pc
        else
          let l := s.lineAt line
          let ic := (s.core s.st.core).icache
          let (ic, s) := if ic.length < 256 then (ic, s)
            else match ic[s.freeNat % ic.length]? with
              | some v => (Assoc.erase ic v.1, s.takeFree)
              | none => (ic, s.takeFree)
          .ok (wordOf l) ((s.modCore s.st.core fun c => { c with icache := Assoc.set ic line l }).modSt fun x =>
            { x with fbuf := Assoc.set x.fbuf line l })

end Sys2Proof.Machine
end

