-- ==== Sys2Proof/Machine/Reflect.lean ====
section
/-!
DEFINITION. Reflected stores at the sending device (22 R368 to R378): the window map, the checks, routing by permutation,
the copies that leave.
-/
namespace Sys2Proof.Machine

/-! ## The window map (R371) -/

/-- A dword of a transmit entry. -/
def State.txDword (s : State) (p w i : Nat) : Word := s.cfg p (0x1000 + 128 * w + 8 * i)

def State.txEn (s : State) (p w : Nat) : Bool := (s.txDword p w 0).getLsbD 63
def State.txPerm (s : State) (p w : Nat) : Bool := (s.txDword p w 0).getLsbD 62
def State.txLoop (s : State) (p w : Nat) : Bool := (s.txDword p w 0).getLsbD 61
def State.txDown (s : State) (p w : Nat) : Bool := (s.txDword p w 0).getLsbD 60
def State.txNd (s : State) (p w : Nat) : Nat := (s.txDword p w 0).toNat / 2 ^ 55 % 8
/-- d0 to d3. -/
def State.txD (s : State) (p w i : Nat) : Nat := (s.txDword p w 0).toNat / 2 ^ (8 * i) % 64
/-- Number of destinations: [63:59] holds it minus one. -/
def State.txDests (s : State) (p w : Nat) : Nat := (s.txDword p w 1).toNat / 2 ^ 59 + 1
def State.txLwin (s : State) (p w : Nat) : Nat := (s.txDword p w 1).toNat / 2 ^ 45 % 256
def State.txLen (s : State) (p w : Nat) : Nat := (s.txDword p w 1).toNat % 2 ^ 45
/-- Destination j: device and receive window. -/
def State.txDest (s : State) (p w j : Nat) : Nat × Nat :=
  let d := (s.txDword p w (2 + j / 2)).toNat / 2 ^ (32 * (j % 2))
  (d % 4096, d / 4096 % 256)
/-- Map[k] of a permutation window. -/
def State.txMap (s : State) (p w k : Nat) : Nat :=
  ((List.range 5).foldl (fun a i => a + (s.txDword p w (10 + i)).toNat * 2 ^ (64 * i)) 0) / 2 ^ (6 * k) % 64

/-- The number a list of bits gives, lowest first. -/
def bitsNat : List Bool → Nat
  | [] => 0
  | b :: t => (if b then 1 else 0) + 2 * bitsNat t

/-- R374: the destination slot and the offset of a store at an offset of a permutation window. -/
def State.permute (s : State) (p w o : Nat) : Nat × Nat :=
  let e := o / 8 % 2 ^ 48
  let pb := fun k => e / 2 ^ (s.txMap p w k) % 2 == 1
  let ds := (List.range (s.txNd p w)).map fun i => s.txD p w i
  let j := bitsNat (ds.map pb)
  let c := bitsNat (((List.range 48).filter fun k => !ds.contains k).map pb)
  (j, 8 * c + o % 8)

/-- Where the copies of a store at offset o of transmit window w go (R373, R374): device, receive window, offset. -/
def State.copiesOf (s : State) (p w o : Nat) : List (Nat × Nat × Nat) :=
  if s.txPerm p w then
    let (j, off) := s.permute p w o
    let (dev, rx) := s.txDest p w j
    if dev = s.hub.device ∧ !s.txLoop p w then [] else [(dev, rx, off)]
  else
    ((List.range (s.txDests p w)).map fun j => let (dev, rx) := s.txDest p w j; (dev, rx, o))
      ++ (if s.txLoop p w then [(s.hub.device, s.txLwin p w, o)] else [])

/-- Fields of a fabric-space address (R370). -/
def fabWin (a : Nat) : Nat := a / 2 ^ 45 % 256
def fabOff (a : Nat) : Nat := a % 2 ^ 45
def podDev (a : Nat) : Nat := a / 2 ^ 41 % 4096
def podRx (a : Nat) : Nat := a / 2 ^ 33 % 256
def podOff (a : Nat) : Nat := a % 2 ^ 33

/-- The checks of a reflected store (R370): the window's length, en, down. -/
def State.reflectCheck (s : State) (p a size : Nat) : Option (BitVec 8) :=
  if isPod a then none
  else
    let w := fabWin a
    if fabOff a + size > s.txLen p w then some 0xA2
    else if !s.txEn p w then some 0xA2
    else if s.txDown p w then some 0xA3
    else none

/-- Whether the partition's outbound queue of 4,096 flits is full (R376). -/
def State.reflectFull (s : State) (p : Nat) : Bool :=
  decide ((s.hub.copies.filter fun c => c.pid == p && !c.shown).length ≥ 4096)

/-- Whether two copies travel the same path (R228, R378): partition, destination, transmit window or pod window. -/
def Copy.samePath (a b : Copy) : Bool := a.pid == b.pid && a.dev == b.dev && a.win == b.win && (a.win.isSome || a.rx == b.rx)

/-- Whether copy i is the first of its strand's on its path that is not yet visible (R228). -/
def State.pathFirst (s : State) (i : Nat) (c : Copy) : Bool :=
  (s.hub.copies.take i).all fun d => d.shown || d.sid != c.sid || !d.samePath c

/-- The route of a new copy (R369): that of its path while a flit of the path is not acknowledged, else the table's. -/
def State.routeOf (s : State) (c : Copy) : BitVec 16 :=
  match (s.hub.copies.filter c.samePath).getLast? with
  | some d => d.route
  | none => Assoc.getD s.hub.routes c.dev 0

/-- Whether a flit names an incarnation that is not current, as source or as destination (R380). -/
def State.staleHead (s : State) (h : FlitHead) : Bool :=
  h.dstInc != s.hub.inc || match Assoc.get s.hub.peers h.src with
    | some k => h.srcInc != k
    | none => false

/-- A control flit leaves for a device, or is dropped at the source for want of a route (R367, R368, R379). -/
def State.sendControl (s : State) (p dst : Nat) (body : Control) : State :=
  if (Assoc.getD s.hub.routes dst 0).getLsbD 15 then
    s.modHub fun h => { h with control := h.control ++
      [{ pid := p, head := ⟨h.device, h.inc, Assoc.getD h.peers dst 0⟩, dst := dst, body := body }] }
  else s.count p .reflDrop 1

/-- A stale control flit is dropped and counted (R380); another acts. -/
def State.takeControl (s : State) (p : Nat) (h : FlitHead) (act : State → State) : State :=
  if s.staleHead h then s.count p .reflStale 1 else act s

/-- One copy leaves, or is dropped at the source for want of a route (R368). -/
def State.sendCopy (s : State) (c : Copy) : State :=
  let r := s.routeOf c
  if c.dev = s.hub.device ∨ r.getLsbD 15 then
    let s := s.modHub fun h => { h with copies := h.copies ++ [{ c with route := r }] }
    if c.flag then s else s.count c.pid .reflOut 1
  else s.count c.pid .reflDrop 1

/-- The queue, as 64 · partition + queue, and the node of the launch that a sid belongs to, while the launch has its slot. -/
def State.launchOf (s : State) (sid : Nat) : Option (Nat × Nat) :=
  let l := s.slot (sidSlot sid)
  if l.used ∧ l.gen.toNat = sidGen sid ∧ sid < 2 ^ 48 then some (64 * l.pid + l.queue, l.node) else none

/-- A reflected store of bytes at a fabric address (R373, R378), with an optional flag increment behind the data of each
copy (R254): the flag's offset is not permuted. -/
def State.reflect (s : State) (sid p a : Nat) (bytes : List Byte) (flag : Option Nat) (job : Option Word) : State :=
  let dests := if isPod a then [(podDev a, podRx a, podOff a)] else s.copiesOf p (fabWin a) (fabOff a)
  let win := if isPod a then none else some (fabWin a)
  dests.foldl (fun s (dev, rx, off) =>
    let c : Copy := { sid := sid, pid := p, win := win, dev := dev, rx := rx, off := off, bytes := bytes, job := job
                      launch := s.launchOf sid }
    let s := s.sendCopy c
    match flag with
    | some f => s.sendCopy { c with off := f, bytes := [], job := none, flag := true }
    | none => s) s

/-- The low n bytes of a number. -/
def natBytes (x : Nat) : Nat → List Byte
  | 0 => []
  | n + 1 => BitVec.ofNat 8 x :: natBytes (x / 256) n

/-- The number of a list of bytes, little-endian (R5). -/
def bytesNat : List Byte → Nat
  | [] => 0
  | b :: t => b.toNat + 256 * bytesNat t

/-- How a plain store ends: it is done, or the fabric's queue has no room (R376), or a copy job has still to read the
scratchpad bytes it writes (R271). -/
def State.storePlain (s : State) (x : Strand) (va : Word) (size v : Nat) (done : State → Out) : Out :=
  (s.checkStore x va size).out fun t s =>
    match spaceOf t.addr with
    | .fabric =>
      match s.reflectCheck x.pid t.addr size with
      | some c => trapOut s c va
      | none =>
        if s.reflectFull x.pid then .next s.retry
        else done (s.reflect x.sid.toNat x.pid t.addr (natBytes v size) none none)
    | _ => if s.scratchBusy t size then .next s.retry else done (s.storeAt x va t size v)

end Sys2Proof.Machine
end

