-- ==== Sys2Proof/Machine/PartConfig.lean ====
section
/-!
DEFINITION. The partition configuration (24 R388, R389), its writes and refusals, transmit-entry checks (22 R371), the shadow
page table (24 R392, R393), and the extent entries built from it (07 R142, 12 R252).
-/
namespace Sys2Proof.Machine

/-! ## Fields -/

/-- The limit of resident strands, none for a field of 0 (R390). -/
def State.limitOf (s : State) (p : Nat) : Option Nat :=
  let n := (s.cfg p 0).toNat / 2 ^ 32 % 512
  if n = 0 then none else some (64 * n)

/-- Whether a partition may make one more strand resident (R390). -/
def State.mayAdmit (s : State) (p : Nat) : Bool :=
  match s.limitOf p with
  | none => true
  | some n => decide ((s.part p).resident < n)

/-- A resident strand of a partition more, or fewer. -/
def State.addResident (s : State) (p : Nat) : State := s.modPart p fun q => { q with resident := q.resident + 1 }
def State.subResident (s : State) (p : Nat) : State := s.modPart p fun q => { q with resident := q.resident - 1 }

/-- The partitions other than p that are enabled. -/
def State.others (s : State) (p : Nat) : List Nat := (List.range 20).filter fun q => q != p && s.enabled q

/-- Whether a core lies in a partition's bands (R389). -/
def State.inBands (s : State) (p core : Nat) : Bool := (s.cfg p 0x08).getLsbD (bandOf core)

/-- Whether a partition holds a band of a die. -/
def State.onDie (s : State) (p die : Nat) : Bool := (List.range 4).any fun j => (s.cfg p 0x08).getLsbD (4 * die + j)

/-- The partition's Creel share on a die, in entries (R389). -/
def State.creelShare (s : State) (p die : Nat) : Nat := (s.cfg p 0x18).toNat / 2 ^ (4 * die) % 16 * 256

/-- crctl fields (R157). -/
def State.crEn (s : State) (p : Nat) : Bool := (s.cfg p 0x30).getLsbD 0
def State.crCinv (s : State) (p : Nat) : Nat := (s.cfg p 0x30).toNat / 2 ^ 40
def State.crOthr (s : State) (p : Nat) : Nat := (s.cfg p 0x30).toNat / 2 ^ 32 % 256
def State.crOwin (s : State) (p : Nat) : Nat := (s.cfg p 0x30).toNat / 2 ^ 24 % 256
def State.crPdom (s : State) (p : Nat) : Nat := (s.cfg p 0x30).toNat / 2 ^ 20 % 16

/-! ## Writes -/

/-- Who writes a configuration dword: the host, or a strand of a mode and partition. -/
inductive CfgWriter where
  | host
  | strand (m : Mode) (pid : Nat)
  deriving DecidableEq, Repr

/-- Whether a writer has the H right, and the S right in partition p (R388). -/
def CfgWriter.hyp : CfgWriter → Bool
  | .host => true
  | .strand m _ => m == .hypervisor
def CfgWriter.sup (w : CfgWriter) (p : Nat) : Bool :=
  match w with
  | .host => true
  | .strand m q => m == .hypervisor || (m == .supervisor && q == p)

/-- What a dword of a block is (R389). -/
inductive CfgKind where
  | pctl | bands | split | creel | dieBars | pkgBars | lwork | hyp | sup | tx (w i : Nat) | notify (q : Nat) | doorbell (q : Nat)
  | counter (n : Nat) | counters | none
  deriving DecidableEq, Repr

/-- The kind of an offset. -/
def cfgKind (off : Nat) : CfgKind :=
  if off % 8 ≠ 0 then .none
  else if off = 0 then .pctl
  else if off = 0x08 then .bands
  else if off = 0x10 then .split
  else if off = 0x18 then .creel
  else if off = 0x20 then .dieBars
  else if off = 0x28 then .pkgBars
  else if off = 0x58 then .lwork
  else if off = 0x38 ∨ off = 0x40 then .hyp
  else if off = 0x30 ∨ off = 0x48 ∨ off = 0x50 then .sup
  else if off < 0x100 then .none
  else if off < 0xD80 then .sup
  else if off < 0x1000 then .none
  else if off < 0x9000 then .tx ((off - 0x1000) / 128) ((off - 0x1000) % 128 / 8)
  else if off < 0xB000 then .sup
  else if off < 0xB400 then .hyp
  else if off < 0xC000 then .none
  else if off < 0xC200 then .notify ((off - 0xC000) / 8)
  else if off < 0xC400 then .doorbell ((off - 0xC200) / 8)
  else if off < 0xD000 then .none
  else if off < 0xD000 + 8 * 36 then .counter ((off - 0xD000) / 8)
  else .counters

/-- A read of a configuration dword (R388, R389): blocks beyond 19 read zero. -/
def State.cfgRead (s : State) (p off : Nat) : Word :=
  if p ≥ 20 then 0
  else match cfgKind off with
    | .pctl => s.cfg p 0 ||| BitVec.ofNat 64 p
    | .counter n => Assoc.getD (s.part p).counters n 0
    | .counters => 0
    | .none => 0
    | _ => s.cfg p off

/-- A refused write (R388, R389): counted, nothing else. -/
def State.deny (s : State) (p : Nat) : State := s.count p .cfgDeny 1

/-- Whether a quad is outside a partition (R394): that is not enabled, or does not hold the quad's band, unless it is a handler
quad (R361). -/
def State.outside (s : State) (p quad : Nat) : Bool :=
  !s.enabled p || !(s.inBands p (4 * quad) || s.isHandlerCore (4 * quad))

/-- A counter of a partition is cleared, in every unit's bank (R398): the quads of its bands are its own. -/
def State.clearCounter (s : State) (p n : Nat) : State :=
  { s with
    quads := s.quads.map fun (q : Nat × Quad) => (q.1, if s.inBands p (4 * q.1) then
      { q.2 with bank0 := Assoc.erase q.2.bank0 n, bank1 := Assoc.erase q.2.bank1 n } else q.2)
    dies := s.dies.map fun (d : Nat × Die) => (d.1, { d.2 with creel := d.2.creel.map fun (c : Nat × CreelSet) =>
      (c.1, if c.1 = p then { c.2 with bank := Assoc.erase c.2.bank n } else c.2) }) }.modPart p fun x =>
    { x with counters := Assoc.erase x.counters n }

/-- Whether two words share a set bit. -/
def meet (a b : Word) : Bool := a &&& b != 0

/-- Whether the 16 dwords of a transmit entry may be enabled (R371). -/
def txEntryOk (dev : Nat) (d : Nat → Nat) : Bool :=
  let c := d 0
  let l := d 1
  let perm := c / 2 ^ 62 % 2 == 1
  let loop := c / 2 ^ 61 % 2 == 1
  let nd := c / 2 ^ 55 % 8
  let ndest := l / 2 ^ 59 + 1
  let lwin := l / 2 ^ 45 % 256
  let dest := fun j => d (2 + j / 2) / 2 ^ (32 * (j % 2)) % 2 ^ 32
  let ds := (List.range 4).map fun i => c / 2 ^ (8 * i) % 64
  let mapBits := d 10 + d 11 * 2 ^ 64 + d 12 * 2 ^ 128 + d 13 * 2 ^ 192 + d 14 % 2 ^ 32 * 2 ^ 256
  let map := (List.range 48).map fun k => mapBits / 2 ^ (6 * k) % 64
  let used := ds.take nd
  !( (!perm && ((List.range ndest).any fun j => dest j % 4096 == dev))
     || (!perm && nd != 0)
     || (perm && ndest != 2 ^ nd)
     || decide (ndest > 16)
     || (lwin != 0 && (perm || !loop))
     || (!((List.range 48).all fun k => map.contains k))
     || decide (nd > 4)
     || decide (used.eraseDups.length ≠ nd) || used.any (fun x => decide (47 < x)) || (ds.drop nd).any (· != 0)
     || c / 2 ^ 58 % 4 != 0 || c / 2 ^ 30 % 2 ^ 25 != 0 || c / 2 ^ 22 % 4 != 0 || c / 2 ^ 14 % 4 != 0 || c / 2 ^ 6 % 4 != 0
     || l / 2 ^ 53 % 64 != 0 || decide (l % 8 ≠ 0)
     || (List.range 16).any (fun j => dest j / 2 ^ 20 != 0)
     || d 14 / 2 ^ 32 != 0 || d 15 != 0 )

/-- A write of dword i of transmit entry w (R371): dword 0 with en set is refused, the entry staying disabled, if the entry
breaks a condition; it clears down (R380). -/
def State.txWrite (s : State) (p w i : Nat) (v : Word) : State :=
  let off := 0x1000 + 128 * w
  if i ≠ 0 then s.setCfg p (off + 8 * i) v
  else
    let v := v &&& ~~~(1#64 <<< 60)
    let ok := txEntryOk s.hub.device fun j => if j = 0 then v.toNat else (s.txDword p w j).toNat
    if v.getLsbD 63 && !ok then (s.setCfg p off (s.cfg p off &&& ~~~(1#64 <<< 63))).deny p else s.setCfg p off v

/-! ## Hardware-queue doorbells (R397) -/

/-- Descriptor fields of a hardware queue (R396). -/
def State.hwqDword (s : State) (p q i : Nat) : Nat := (s.cfg p (0x500 + 32 * q + 8 * i)).toNat
def State.hwqControl (s : State) (p q : Nat) : Nat := s.hwqDword p q 1

/-- The hub writes a 64-bit value at a physical address's memory side; watches fire (R136, R397). -/
def State.hubWrite (s : State) (a n x : Nat) : State :=
  let line := Memory.line a
  s.performWrite line ((2 ^ n - 1) * 2 ^ (a - line)) (x % 2 ^ (8 * n) * 2 ^ (8 * (a - line)))

/-- A doorbell (R397): an outbound queue's control block takes the value as cons; an inbound queue keeps it as the host's
prod until the entries are copied. -/
def State.doorbell (s : State) (p q : Nat) (v : Word) : State :=
  let s := s.setCfg p (0xC200 + 8 * q) v
  if q ≥ 32 then s.hubWrite (s.hwqControl p q + 8) 8 v.toNat else s

/-! ## User queues (R131, R389) -/

/-- The read index of a user queue. -/
def State.readIndex (s : State) (p q : Nat) : Nat := (s.cfg p (0x108 + 16 * q)).toNat % 2 ^ 32

/-- Packets of a user queue's ring: 2^m, the low field holding m − 4. A field above 12, for which the spec gives no m, is taken in
the same way (log 61). -/
def State.ringSize (s : State) (p q : Nat) : Nat := 2 ^ (4 + (s.cfg p (0x100 + 16 * q)).toNat % 16)

/-- The write index up to which a queue's slots may be read (R131, log 54): the notified one, or the read index plus the
length of the ring where that is nearer. -/
def State.writeIndex (s : State) (p q : Nat) : Nat :=
  let r := s.readIndex p q
  let n := s.ringSize p q
  let w := (s.cfg p (0xC000 + 8 * q)).toNat
  if n < (w + 2 ^ 32 - r) % 2 ^ 32 then (r + n) % 2 ^ 32 else w

/-- The bits of a dword that a write changes; the others are zero (R157, R372, R381, R395). -/
def writable (off : Nat) : Word :=
  if off = 0x30 then 0xFFFFFFFFFFF00001#64
  else if off = 0x38 then 0x800000000000FFFF#64
  else if 0xD00 ≤ off ∧ off < 0xD80 then 0xE0FFF0000000FF00#64
  else if 0x9000 ≤ off ∧ off < 0xB000 then
    if off % 32 = 0 then 0xE0FFFFFFFFFFFFFF#64 else if off % 32 = 8 then BitVec.allOnes 64 else 0
  else BitVec.allOnes 64

/-- A write of a configuration dword by a writer (R388, R389): a write without the right, or that the table refuses, is
ignored and counted. -/
def State.cfgWrite (s : State) (p off : Nat) (v : Word) (w : CfgWriter) : State :=
  if p ≥ 20 then s
  else
    let put := fun (x : Word) => s.setCfg p off x
    let refuseIf := fun (bad : Bool) (x : Word) => if !w.hyp || bad then s.deny p else put x
    match cfgKind off with
    | .pctl =>
      let x := v &&& 0x800001FF00000000#64
      let clash := (s.others p).any fun q => meet (s.cfg q 0x08) (s.cfg p 0x08)
      let work := s.cfg p 0x58
      let badWork := !work.getLsbD 63 || (s.others p).any fun q => s.cfg q 0x58 == work
      let live := s.all.any (·.pid == p)
      refuseIf ((x.getLsbD 63 && !s.enabled p && (clash || badWork)) || (!x.getLsbD 63 && s.enabled p && live)) x
    | .bands => refuseIf (s.enabled p) v
    | .split => refuseIf (s.enabled p) v
    | .lwork => refuseIf (s.enabled p) (v &&& 0x80000007F8000000#64)
    | .creel =>
      let exceeds := s.enabled p && (List.range 16).any fun d =>
        decide (16 < v.toNat / 2 ^ (4 * d) % 16 + ((s.others p).foldl (fun n q => n + s.creelShare q d / 256) 0))
      refuseIf exceeds v
    | .dieBars =>
      let x := v &&& 0xFFFF#64
      refuseIf ((s.others p).any fun q => meet (s.cfg q 0x20) x) x
    | .pkgBars => refuseIf ((s.others p).any fun q => meet (s.cfg q 0x28) v) v
    | .hyp => refuseIf false (v &&& writable off)
    | .sup => if w.sup p then put (v &&& writable off) else s.deny p
    | .tx e i => if w.sup p then s.txWrite p e i v else s.deny p
    | .notify _ => if w.sup p then put (v &&& 0xFFFFFFFF#64) else s.deny p
    | .doorbell q => if w.hyp then s.doorbell p q v else s.deny p
    | .counter n =>
      if w.hyp && v == 0 then s.clearCounter p n else s.deny p
    | .counters => s.deny p
    | .none => s

/-- Partition and offset of a configuration address (R388). -/
def cfgPart (a : Nat) : Nat := a % 2 ^ 52 / 2 ^ 16
def cfgOff (a : Nat) : Nat := a % 2 ^ 16

/-! ## Translation (R392, R393) -/

/-- A page found by a walk: virtual base, physical base, size, rights as bits r, w, x, t, host. -/
structure Page where
  vbase  : Nat
  base   : Nat
  size   : Nat
  rights : Nat
  host   : Bool
  deriving DecidableEq, Repr

/-- The levels of the shadow table: shift and width of the index (R393). -/
def walkLevels : List (Nat × Nat) := [(43, 13), (31, 12), (21, 10), (16, 5)]

/-- Walk the levels from a table's physical address (R393). -/
def State.walk (s : State) (va table : Nat) : List (Nat × Nat) → Option Page
  | [] => none
  | (sh, n) :: rest =>
    let e := Memory.readN s.mem (table + 8 * (va / 2 ^ sh % 2 ^ n)) 8
    let bit := fun i => e / 2 ^ i % 2 == 1
    if !bit 0 || (bit 5 && bit 6) then none
    else if bit 1 then
      if sh = 43 then none
      else some ⟨va / 2 ^ sh * 2 ^ sh, e / 2 ^ 16 % 2 ^ 40 * 2 ^ 16, 2 ^ sh, e / 4 % 16, bit 6⟩
    else State.walk s va (e / 2 ^ 16 % 2 ^ 40 * 2 ^ 16) rest

/-- The page that maps a virtual address of a partition; the windows 0xFE and 0xFF are never mapped (R198). -/
def State.pageAt (s : State) (p va : Nat) : Option Page :=
  let v := va % 2 ^ 56
  if v / 2 ^ 48 ≥ 0xFE then none else s.walk v (s.cfg p 0x40).toNat walkLevels

/-- The physical address of a page's byte. -/
def Page.addr (g : Page) (va : Nat) : Nat := g.base + (va - g.vbase)

/-- The page of an address over which the translation engine builds an entry: none over configuration space, which only xmap
reaches (R388). -/
def State.openPage (s : State) (p va : Nat) : Option Page := (s.pageAt p va).filter fun g => spaceOf g.base != .config

/-- The run of pages from a page on that are virtually and physically contiguous, in one kind of memory, as far as a limit
(R142, R252). -/
def State.run (s : State) (p limit : Nat) (g : Page) : Nat → List Page
  | 0 => [g]
  | n + 1 =>
    let e := g.vbase + g.size
    if limit ≤ e then [g]
    else match s.openPage p e with
      | none => [g]
      | some h => if h.base = g.base + g.size ∧ h.host = g.host then g :: State.run s p limit h n else [g]

/-- The end of a run, as far as a limit. -/
def runEnd (limit : Nat) (l : List Page) : Nat := Nat.min limit ((l.getLast?.map fun g => g.vbase + g.size).getD 0)

/-- Pages a run may have: 2^24 of 64 KiB cover the largest request. -/
def runFuel : Nat := 2 ^ 24

/-- The rights an entry over a page may carry, as bits r, w, x, t (R252, R204, R370): no t on host memory, w alone on a
transmit window, r and w in pod space. -/
def Page.mask (g : Page) : Nat :=
  if g.host then 7 else match spaceOf g.base with
    | .fabric => if isPod g.base then 3 else 2
    | _ => 15

/-- Rights granted over a run: those asked for that every page of it gives and may carry (R252, log 45). -/
def grant (l : List Page) (want : Nat) : Nat := l.foldl (fun r g => (r &&& g.rights) &&& g.mask) want

/-- The hub knows the pages of die memory that an entry was built over (R203, log 34): the first partition that maps a page
keeps it. -/
def State.notePages (s : State) (p : Nat) (l : List Page) : State :=
  l.foldl (fun s g =>
    if spaceOf g.base != .dieMem || (Assoc.get s.hub.pages (pageOf g.base)).isSome then s
    else s.modHub fun h => { h with pages := Assoc.set h.pages (pageOf g.base) ⟨g.size, p⟩ }) s

/-- The owner die of an entry's first page (R142). -/
def State.entryDie (s : State) (pa : Nat) : Nat := s.ownerDie pa

/-- An entry over [vbase, vend) of a run that starts in page g. -/
def State.entryOver (s : State) (g : Page) (vbase vend rights : Nat) : Extent :=
  mkExtent vbase (vend - vbase) (g.addr vbase) (s.entryDie (g.addr vbase)) rights g.host

/-- The word an entry is reported as (R252). -/
def Extent.report (e : Extent) (i : Nat) : Word :=
  BitVec.ofNat 64 (i + e.toNat / 2 ^ 192 % 2 * 256 + e.toNat / 2 ^ 193 % 2 * 512 + e.toNat / 2 ^ 194 % 2 * 1024
    + e.toNat / 2 ^ 195 % 2 * 2048 + (if e.revoked then 4096 else 0))

/-- The lowest index that satisfies a condition. -/
def indexOf (l : List Extent) (f : Extent → Bool) : Option Nat := (List.range l.length).find? fun i => f (l.getD i 0)

/-- Where the entry of a request must end (R252): the end of the request rounded up, or the first byte of another valid
entry. -/
def xlateLimit (x : Strand) (v req : Nat) : Nat :=
  let len := if req % 2 ^ 40 = 0 then 64 else req % 2 ^ 40
  (x.ext.toList : List Extent).foldl (fun n e =>
    if Extent.valid e && decide (v < Extent.vbase e) then Nat.min n (Extent.vbase e) else n) ((v + len + 63) / 64 * 64)

/-- The pages that the entry of a request lies in (R252): none if no page maps its address. -/
def State.xlateRun (s : State) (x : Strand) (va req : Word) : List Page :=
  let v := va.toNat % 2 ^ 56
  if va.toNat / 2 ^ 60 ≠ 0 then []
  else match s.openPage x.pid v with
    | none => []
    | some g => s.run x.pid (xlateLimit x v req.toNat) g runFuel

/-- The engine's answer to xreq (R252): what G[d] receives, and the entry written, if any. -/
def State.xlate (s : State) (x : Strand) (va req : Word) : Word × Option (Nat × Extent) :=
  let l : List Extent := x.ext.toList
  let v := va.toNat % 2 ^ 56
  match indexOf l (fun e => Extent.covers e va) with
  | some i => (Extent.report (l.getD i 0) i, none)
  | none =>
    match s.xlateRun x va req with
    | [] => (-2, none)
    | g :: t =>
      let rights := grant (g :: t) (req.toNat / 2 ^ 60)
      if rights = 0 then (-3, none)
      else match indexOf l (fun e => !Extent.valid e) with
        | none => (-1, none)
        | some i =>
          let e := s.entryOver g (v / 64 * 64) (runEnd (xlateLimit x v req.toNat) (g :: t)) rights
          (e.report i, some (i, e))

end Sys2Proof.Machine
end

