-- ==== Sys2Proof/Machine/Scalar.lean ====
section
/-!
DEFINITION. Scalar register instructions (05 R76 to R90): majors 0x01 to 0x09, 0x0A, 0x0B, 0x0D and 0x0F.
-/
namespace Sys2Proof.Machine

/-! ## Arithmetic of the scalar pipeline -/

/-- Rotate right by n (R79). -/
def rotr (x : Word) (n : Nat) : Word := x.rotateRight (n % 64)

/-- The smaller and the larger, signed and unsigned (R79). -/
def minS (x y : Word) : Word := if x.toInt ≤ y.toInt then x else y
def maxS (x y : Word) : Word := if x.toInt ≤ y.toInt then y else x
def minU (x y : Word) : Word := if x.toNat ≤ y.toNat then x else y
def maxU (x y : Word) : Word := if x.toNat ≤ y.toNat then y else x

/-- Bits [127:64] of the signed and of the unsigned product (R80). -/
def mulHighS (x y : Word) : Word := BitVec.ofInt 64 (x.toInt * y.toInt / 2 ^ 64)
def mulHighU (x y : Word) : Word := BitVec.ofNat 64 (x.toNat * y.toNat / 2 ^ 64)

/-- Division with the boundary results of R81. -/
def divS (x y : Word) : Word := if y = 0 then BitVec.allOnes 64 else BitVec.ofInt 64 (x.toInt.tdiv y.toInt)
def divU (x y : Word) : Word := if y = 0 then BitVec.allOnes 64 else BitVec.ofNat 64 (x.toNat / y.toNat)
def remS (x y : Word) : Word := if y = 0 then x else BitVec.ofInt 64 (x.toInt.tmod y.toInt)
def remU (x y : Word) : Word := if y = 0 then x else BitVec.ofNat 64 (x.toNat % y.toNat)

/-- Leading zero bits among the low n bits (R82). -/
def countLead (x : Nat) : Nat → Nat
  | 0 => 0
  | n + 1 => if x / 2 ^ n % 2 = 1 then 0 else 1 + countLead x n

/-- Trailing zero bits among n bits (R82). -/
def countTrail (x : Nat) : Nat → Nat
  | 0 => 0
  | n + 1 => if x % 2 = 1 then 0 else 1 + countTrail (x / 2) n

/-- One bits among n bits (R82). -/
def countOnes (x : Nat) : Nat → Nat
  | 0 => 0
  | n + 1 => x % 2 + countOnes (x / 2) n

/-- The low n bytes in reverse order (R82). -/
def revBytes (x : Nat) : Nat → Nat
  | 0 => 0
  | n + 1 => x % 256 * 2 ^ (8 * n) + revBytes (x / 256) n

/-- Position and clipped length of a field descriptor (R83). -/
def fieldPos (b : Word) : Nat := b.toNat % 64
def fieldLen (b : Word) : Nat := Nat.min (b.toNat / 256 % 128) (64 - fieldPos b)

/-- The mask m of R83. -/
def fieldMask (b : Word) : Word := BitVec.ofNat 64 ((2 ^ fieldLen b - 1) * 2 ^ fieldPos b)

/-- bfx and bfi (R83). -/
def bitExtract (a b : Word) : Word := if fieldLen b = 0 then 0 else (a &&& fieldMask b) >>> fieldPos b
def bitInsert (d a b : Word) : Word :=
  if fieldLen b = 0 then d else (d &&& ~~~fieldMask b) ||| ((a <<< fieldPos b) &&& fieldMask b)

/-- A truth value in a register (R84). -/
def truth (p : Bool) : Word := if p then 1 else 0

/-- Conditions of cmpi (R64, R87). -/
def condHolds (c : BitVec 3) (x y : Word) : Bool :=
  match c.toNat with
  | 0 => x == y
  | 1 => x != y
  | 2 => decide (x.toInt < y.toInt)
  | 3 => decide (y.toInt ≤ x.toInt)
  | 4 => decide (x.toInt ≤ y.toInt)
  | 5 => decide (y.toInt < x.toInt)
  | 6 => decide (x.toNat < y.toNat)
  | _ => decide (y.toNat ≤ x.toNat)

/-- Lea(p, x) (R90). -/
def lea (p x : Word) : Word := (p.extractLsb' 56 8) ++ (p.extractLsb' 0 56 + x.extractLsb' 0 56)

/-! ## The shapes of a scalar instruction -/

/-- G[d] := f of two sources. -/
def alu2 (word : BitVec 32) (iv : BitVec 2) (d a b : BitVec 5) (sc : BitVec 4) (f : Word → Word → Word) (s : State) : Out :=
  guarded (infoR word iv sc (gs [d, a, b])) s fun s => .next (s.setG d (f (s.G a) (s.G b))).retire

/-- G[d] := f of one source. -/
def alu1 (word : BitVec 32) (iv : BitVec 2) (d a : BitVec 5) (sc : BitVec 4) (f : Word → Word) (s : State) : Out :=
  guarded (infoR word iv sc (gs [d, a])) s fun s => .next (s.setG d (f (s.G a))).retire

/-- G[d] := f of two sources and its own old value. -/
def alu3 (word : BitVec 32) (iv : BitVec 2) (d a b : BitVec 5) (sc : BitVec 4) (f : Word → Word → Word → Word) (s : State) :
    Out :=
  guarded (infoR word iv sc (gs [d, a, b])) s fun s => .next (s.setG d (f (s.G d) (s.G a) (s.G b))).retire

/-- G[d] := f of a source and the extended immediate V (R62, R85). -/
def aluI (word : BitVec 32) (iv : BitVec 2) (d a : BitVec 5) (i : BitVec 10) (sc : BitVec 4) (f : Word → Word → Word)
    (s : State) : Out :=
  guarded (infoR word iv sc (gs [d, a])) s fun s => .next (s.setG d (f (s.G a) (immV s.st.hints 10 i.toNat))).retire

/-- A long-latency scalar result of two sources (R76, R80). -/
def aluLL (word : BitVec 32) (iv : BitVec 2) (d a b : BitVec 5) (sc : BitVec 4) (f : Word → Word → Word) (s : State) : Out :=
  guarded (infoLL word iv sc (gs [d, a, b])) s fun s =>
    .next (s.retireLL (infoLL word iv sc (gs [d, a, b])) (gs [d]) [.g d (f (s.G a) (s.G b))])

/-! ## The instructions -/

/-- add (R79). -/
def execAdd (iv : BitVec 2) (d a b : BitVec 5) (sc : BitVec 4) (s : State) : Out :=
  alu2 (Decode.wAdd iv d a b sc) iv d a b sc (fun x y => x + y) s

/-- sub (R79). -/
def execSub (iv : BitVec 2) (d a b : BitVec 5) (sc : BitVec 4) (s : State) : Out :=
  alu2 (Decode.wSub iv d a b sc) iv d a b sc (fun x y => x - y) s

/-- and (R79). -/
def execAnd (iv : BitVec 2) (d a b : BitVec 5) (sc : BitVec 4) (s : State) : Out :=
  alu2 (Decode.wAnd iv d a b sc) iv d a b sc (fun x y => x &&& y) s

/-- or (R79). -/
def execOr (iv : BitVec 2) (d a b : BitVec 5) (sc : BitVec 4) (s : State) : Out :=
  alu2 (Decode.wOr iv d a b sc) iv d a b sc (fun x y => x ||| y) s

/-- xor (R79). -/
def execXor (iv : BitVec 2) (d a b : BitVec 5) (sc : BitVec 4) (s : State) : Out :=
  alu2 (Decode.wXor iv d a b sc) iv d a b sc (fun x y => x ^^^ y) s

/-- andn (R79). -/
def execAndn (iv : BitVec 2) (d a b : BitVec 5) (sc : BitVec 4) (s : State) : Out :=
  alu2 (Decode.wAndn iv d a b sc) iv d a b sc (fun x y => x &&& ~~~y) s

/-- orn (R79). -/
def execOrn (iv : BitVec 2) (d a b : BitVec 5) (sc : BitVec 4) (s : State) : Out :=
  alu2 (Decode.wOrn iv d a b sc) iv d a b sc (fun x y => x ||| ~~~y) s

/-- shl (R79). -/
def execShl (iv : BitVec 2) (d a b : BitVec 5) (sc : BitVec 4) (s : State) : Out :=
  alu2 (Decode.wShl iv d a b sc) iv d a b sc (fun x y => x <<< (y.toNat % 64)) s

/-- shr (R79). -/
def execShr (iv : BitVec 2) (d a b : BitVec 5) (sc : BitVec 4) (s : State) : Out :=
  alu2 (Decode.wShr iv d a b sc) iv d a b sc (fun x y => x >>> (y.toNat % 64)) s

/-- sra (R79). -/
def execSra (iv : BitVec 2) (d a b : BitVec 5) (sc : BitVec 4) (s : State) : Out :=
  alu2 (Decode.wSra iv d a b sc) iv d a b sc (fun x y => x.sshiftRight (y.toNat % 64)) s

/-- rot (R79). -/
def execRot (iv : BitVec 2) (d a b : BitVec 5) (sc : BitVec 4) (s : State) : Out :=
  alu2 (Decode.wRot iv d a b sc) iv d a b sc (fun x y => rotr x y.toNat) s

/-- min (R79). -/
def execMin (iv : BitVec 2) (d a b : BitVec 5) (sc : BitVec 4) (s : State) : Out :=
  alu2 (Decode.wMin iv d a b sc) iv d a b sc (fun x y => minS x y) s

/-- max (R79). -/
def execMax (iv : BitVec 2) (d a b : BitVec 5) (sc : BitVec 4) (s : State) : Out :=
  alu2 (Decode.wMax iv d a b sc) iv d a b sc (fun x y => maxS x y) s

/-- minn (R79). -/
def execMinn (iv : BitVec 2) (d a b : BitVec 5) (sc : BitVec 4) (s : State) : Out :=
  alu2 (Decode.wMinn iv d a b sc) iv d a b sc (fun x y => minU x y) s

/-- maxn (R79). -/
def execMaxn (iv : BitVec 2) (d a b : BitVec 5) (sc : BitVec 4) (s : State) : Out :=
  alu2 (Decode.wMaxn iv d a b sc) iv d a b sc (fun x y => maxU x y) s

/-- mul (R80). -/
def execMul (iv : BitVec 2) (d a b : BitVec 5) (sc : BitVec 4) (s : State) : Out :=
  alu2 (Decode.wMul iv d a b sc) iv d a b sc (fun x y => x * y) s

/-- mulh (R80). -/
def execMulh (iv : BitVec 2) (d a b : BitVec 5) (sc : BitVec 4) (s : State) : Out :=
  alu2 (Decode.wMulh iv d a b sc) iv d a b sc (fun x y => mulHighS x y) s

/-- mulhn (R80). -/
def execMulhn (iv : BitVec 2) (d a b : BitVec 5) (sc : BitVec 4) (s : State) : Out :=
  alu2 (Decode.wMulhn iv d a b sc) iv d a b sc (fun x y => mulHighU x y) s

/-- div (R81). -/
def execDiv (iv : BitVec 2) (d a b : BitVec 5) (sc : BitVec 4) (s : State) : Out :=
  aluLL (Decode.wDiv iv d a b sc) iv d a b sc divS s

/-- divn (R81). -/
def execDivn (iv : BitVec 2) (d a b : BitVec 5) (sc : BitVec 4) (s : State) : Out :=
  aluLL (Decode.wDivn iv d a b sc) iv d a b sc divU s

/-- rem (R81). -/
def execRem (iv : BitVec 2) (d a b : BitVec 5) (sc : BitVec 4) (s : State) : Out :=
  aluLL (Decode.wRem iv d a b sc) iv d a b sc remS s

/-- remn (R81). -/
def execRemn (iv : BitVec 2) (d a b : BitVec 5) (sc : BitVec 4) (s : State) : Out :=
  aluLL (Decode.wRemn iv d a b sc) iv d a b sc remU s

/-- clz (R82). -/
def execClz (iv : BitVec 2) (d a : BitVec 5) (sc : BitVec 4) (s : State) : Out :=
  alu1 (Decode.wClz iv d a sc) iv d a sc (fun x => BitVec.ofNat 64 (countLead x.toNat 64)) s

/-- ctz (R82). -/
def execCtz (iv : BitVec 2) (d a : BitVec 5) (sc : BitVec 4) (s : State) : Out :=
  alu1 (Decode.wCtz iv d a sc) iv d a sc (fun x => BitVec.ofNat 64 (countTrail x.toNat 64)) s

/-- popc (R82). -/
def execPopc (iv : BitVec 2) (d a : BitVec 5) (sc : BitVec 4) (s : State) : Out :=
  alu1 (Decode.wPopc iv d a sc) iv d a sc (fun x => BitVec.ofNat 64 (countOnes x.toNat 64)) s

/-- bswap (R82). -/
def execBswap (iv : BitVec 2) (d a : BitVec 5) (sc : BitVec 4) (s : State) : Out :=
  alu1 (Decode.wBswap iv d a sc) iv d a sc (fun x => BitVec.ofNat 64 (revBytes x.toNat 8)) s

/-- bfx (R83). -/
def execBfx (iv : BitVec 2) (d a b : BitVec 5) (sc : BitVec 4) (s : State) : Out :=
  alu2 (Decode.wBfx iv d a b sc) iv d a b sc (fun x y => bitExtract x y) s

/-- bfi (R83). -/
def execBfi (iv : BitVec 2) (d a b : BitVec 5) (sc : BitVec 4) (s : State) : Out :=
  alu3 (Decode.wBfi iv d a b sc) iv d a b sc bitInsert s

/-- sext.b (R82). -/
def execSextB (iv : BitVec 2) (d a : BitVec 5) (sc : BitVec 4) (s : State) : Out :=
  alu1 (Decode.wSextB iv d a sc) iv d a sc (fun x => (x.extractLsb' 0 8).signExtend 64) s

/-- sext.h (R82). -/
def execSextH (iv : BitVec 2) (d a : BitVec 5) (sc : BitVec 4) (s : State) : Out :=
  alu1 (Decode.wSextH iv d a sc) iv d a sc (fun x => (x.extractLsb' 0 16).signExtend 64) s

/-- sext.w (R82). -/
def execSextW (iv : BitVec 2) (d a : BitVec 5) (sc : BitVec 4) (s : State) : Out :=
  alu1 (Decode.wSextW iv d a sc) iv d a sc (fun x => (x.extractLsb' 0 32).signExtend 64) s

/-- zext.b (R82). -/
def execZextB (iv : BitVec 2) (d a : BitVec 5) (sc : BitVec 4) (s : State) : Out :=
  alu1 (Decode.wZextB iv d a sc) iv d a sc (fun x => (x.extractLsb' 0 8).setWidth 64) s

/-- zext.h (R82). -/
def execZextH (iv : BitVec 2) (d a : BitVec 5) (sc : BitVec 4) (s : State) : Out :=
  alu1 (Decode.wZextH iv d a sc) iv d a sc (fun x => (x.extractLsb' 0 16).setWidth 64) s

/-- zext.w (R82). -/
def execZextW (iv : BitVec 2) (d a : BitVec 5) (sc : BitVec 4) (s : State) : Out :=
  alu1 (Decode.wZextW iv d a sc) iv d a sc (fun x => (x.extractLsb' 0 32).setWidth 64) s

/-- cmp.eq (R84). -/
def execCmpEq (iv : BitVec 2) (d a b : BitVec 5) (sc : BitVec 4) (s : State) : Out :=
  alu2 (Decode.wCmpEq iv d a b sc) iv d a b sc (fun x y => truth (x == y)) s

/-- cmp.ne (R84). -/
def execCmpNe (iv : BitVec 2) (d a b : BitVec 5) (sc : BitVec 4) (s : State) : Out :=
  alu2 (Decode.wCmpNe iv d a b sc) iv d a b sc (fun x y => truth (x != y)) s

/-- cmp.lt (R84). -/
def execCmpLt (iv : BitVec 2) (d a b : BitVec 5) (sc : BitVec 4) (s : State) : Out :=
  alu2 (Decode.wCmpLt iv d a b sc) iv d a b sc (fun x y => truth (decide (x.toInt < y.toInt))) s

/-- cmp.ltn (R84). -/
def execCmpLtn (iv : BitVec 2) (d a b : BitVec 5) (sc : BitVec 4) (s : State) : Out :=
  alu2 (Decode.wCmpLtn iv d a b sc) iv d a b sc (fun x y => truth (decide (x.toNat < y.toNat))) s

/-- cmp.le (R84). -/
def execCmpLe (iv : BitVec 2) (d a b : BitVec 5) (sc : BitVec 4) (s : State) : Out :=
  alu2 (Decode.wCmpLe iv d a b sc) iv d a b sc (fun x y => truth (decide (x.toInt ≤ y.toInt))) s

/-- cmp.len (R84). -/
def execCmpLen (iv : BitVec 2) (d a b : BitVec 5) (sc : BitVec 4) (s : State) : Out :=
  alu2 (Decode.wCmpLen iv d a b sc) iv d a b sc (fun x y => truth (decide (x.toNat ≤ y.toNat))) s

/-- sel.nz (R84). -/
def execSelNz (iv : BitVec 2) (d a b : BitVec 5) (sc : BitVec 4) (s : State) : Out :=
  guarded (infoR (Decode.wSelNz iv d a b sc) iv sc (gs [d, a, b])) s fun s =>
    .next (if s.G a = 0 then s else s.setG d (s.G b)).retire

/-- addi (R85). -/
def execAddi (iv : BitVec 2) (d a : BitVec 5) (i : BitVec 10) (sc : BitVec 4) (s : State) : Out :=
  aluI (Decode.wAddi iv d a i sc) iv d a i sc (fun x v => x + v) s

/-- andi (R85). -/
def execAndi (iv : BitVec 2) (d a : BitVec 5) (i : BitVec 10) (sc : BitVec 4) (s : State) : Out :=
  aluI (Decode.wAndi iv d a i sc) iv d a i sc (fun x v => x &&& v) s

/-- ori (R85). -/
def execOri (iv : BitVec 2) (d a : BitVec 5) (i : BitVec 10) (sc : BitVec 4) (s : State) : Out :=
  aluI (Decode.wOri iv d a i sc) iv d a i sc (fun x v => x ||| v) s

/-- xori (R85). -/
def execXori (iv : BitVec 2) (d a : BitVec 5) (i : BitVec 10) (sc : BitVec 4) (s : State) : Out :=
  aluI (Decode.wXori iv d a i sc) iv d a i sc (fun x v => x ^^^ v) s

/-- muli (R85). -/
def execMuli (iv : BitVec 2) (d a : BitVec 5) (i : BitVec 10) (sc : BitVec 4) (s : State) : Out :=
  aluI (Decode.wMuli iv d a i sc) iv d a i sc (fun x v => x * v) s

/-- shli (R86). -/
def execShli (iv : BitVec 2) (d a : BitVec 5) (n : BitVec 6) (sc : BitVec 4) (s : State) : Out :=
  alu1 (Decode.wShli iv d a n sc) iv d a sc (fun x => x <<< n.toNat) s

/-- shri (R86). -/
def execShri (iv : BitVec 2) (d a : BitVec 5) (n : BitVec 6) (sc : BitVec 4) (s : State) : Out :=
  alu1 (Decode.wShri iv d a n sc) iv d a sc (fun x => x >>> n.toNat) s

/-- srai (R86). -/
def execSrai (iv : BitVec 2) (d a : BitVec 5) (n : BitVec 6) (sc : BitVec 4) (s : State) : Out :=
  alu1 (Decode.wSrai iv d a n sc) iv d a sc (fun x => x.sshiftRight n.toNat) s

/-- roti (R86). -/
def execRoti (iv : BitVec 2) (d a : BitVec 5) (n : BitVec 6) (sc : BitVec 4) (s : State) : Out :=
  alu1 (Decode.wRoti iv d a n sc) iv d a sc (fun x => rotr x n.toNat) s

/-- cmpi (R87). -/
def execCmpi (iv : BitVec 2) (d a : BitVec 5) (c : BitVec 3) (i : BitVec 7) (sc : BitVec 4) (s : State) : Out :=
  guarded (infoR (Decode.wCmpi iv d a c i sc) iv sc (gs [d, a])) s fun s =>
    .next (s.setG d (truth (condHolds c (s.G a) (immV s.st.hints 7 i.toNat)))).retire

/-- movi (R88). -/
def execMovi (iv : BitVec 2) (d : BitVec 5) (i : BitVec 19) (s : State) : Out :=
  guarded (infoJ (Decode.wMovi iv d i) iv (gs [d])) s fun s => .next (s.setG d (immV s.st.hints 19 i.toNat)).retire

/-- lea (R90). -/
def execLea (iv : BitVec 2) (d a b : BitVec 5) (sc : BitVec 4) (s : State) : Out :=
  alu2 (Decode.wLea iv d a b sc) iv d a b sc (fun x y => lea x y) s

/-- xkey.set (R90). -/
def execXkeySet (iv : BitVec 2) (d a b : BitVec 5) (sc : BitVec 4) (s : State) : Out :=
  alu2 (Decode.wXkeySet iv d a b sc) iv d a b sc (fun x y => (x &&& ~~~(0x0F00000000000000#64)) ||| ((y &&& 15) <<< 56)) s

/-- xkey.get (R90). -/
def execXkeyGet (iv : BitVec 2) (d a : BitVec 5) (sc : BitVec 4) (s : State) : Out :=
  alu1 (Decode.wXkeyGet iv d a sc) iv d a sc (fun x => (x.extractLsb' 56 4).setWidth 64) s

end Sys2Proof.Machine
end

