-- ==== Sys2Proof/Machine/PlainMem.lean ====
section
/-!
DEFINITION. Plain loads and stores and ld.lit (05 R89, R91 to R96): majors 0x0C and 0x10 to 0x13.
-/
namespace Sys2Proof.Machine

/-- Access size in bytes of a size code (R65). -/
def sizeOf' (z : BitVec 3) : Nat := 2 ^ (z.toNat / 2)

/-- A loaded value extended by its size code (R92). -/
def loadExtend (z : BitVec 3) (v : Nat) : Word :=
  match z.toNat with
  | 0 => (BitVec.ofNat 8 v).signExtend 64
  | 2 => (BitVec.ofNat 16 v).signExtend 64
  | 4 => (BitVec.ofNat 32 v).signExtend 64
  | _ => BitVec.ofNat 64 v

/-- The cache policy of the unit's modifier hint (R70): 0 default, 1 stream, 2 keep. -/
def State.policy (s : State) : Nat := modData s.st.hints / 2 ^ 10 % 4

/-- A plain load into G[d] (R93, R94): the value is fixed here and written when the result returns. -/
def loadInto (inf : Info) (d : BitVec 5) (z : BitVec 3) (ea : State → Word) (s : State) : Out :=
  guarded inf s fun s =>
    (s.loadPlain s.st .load (ea s) (sizeOf' z) s.policy).out fun v s =>
      .next (s.retireLL inf (gs [d]) [.g d (loadExtend z v)])

/-- A plain store of G[r] (R92, R94). -/
def storeFrom (inf : Info) (r : BitVec 5) (z : BitVec 3) (ea : State → Word) (s : State) : Out :=
  guarded inf s fun s =>
    s.storePlain s.st (ea s) (sizeOf' z) (s.G r).toNat fun s => .next s.retire

/-- Effective address of format M (R91): Lea(G[base], V · size). -/
def eaM (b : BitVec 5) (o : BitVec 7) (z : BitVec 3) (s : State) : Word :=
  lea (s.G b) (immV s.st.hints 7 o.toNat * BitVec.ofNat 64 (sizeOf' z))

/-- Effective address of format MX (R91): Lea(G[base], G[index] << shift). -/
def eaMX (b i : BitVec 5) (h : BitVec 2) (s : State) : Word := lea (s.G b) (s.G i <<< h.toNat)

/-- Address of a literal (R89): AlignDown(head, 8) + 8·V. -/
def eaLit (i : BitVec 10) (s : State) : Word :=
  (s.st.pc &&& ~~~7#64) + 8 * immV s.st.hints 10 i.toNat

/-- ld (R91). -/
def execLd (iv : BitVec 2) (d b : BitVec 5) (o : BitVec 7) (z : BitVec 3) (sc : BitVec 4) (s : State) : Out :=
  loadInto ((infoLL (Decode.wLd iv d b o z sc) iv sc (gs [d, b])).need (Wf.loadSize z)) d z (eaM b o z) s

/-- st (R91). -/
def execSt (iv : BitVec 2) (d b : BitVec 5) (o : BitVec 7) (z : BitVec 3) (sc : BitVec 4) (s : State) : Out :=
  storeFrom ((infoR (Decode.wSt iv d b o z sc) iv sc (gs [d, b])).need (Wf.storeSize z)) d z (eaM b o z) s

/-- ld.x (R91). -/
def execLdX (iv : BitVec 2) (d b i : BitVec 5) (h : BitVec 2) (z : BitVec 3) (sc : BitVec 4) (s : State) : Out :=
  loadInto ((infoLL (Decode.wLdX iv d b i h z sc) iv sc (gs [d, b, i])).need (Wf.loadSize z)) d z (eaMX b i h) s

/-- st.x (R91). -/
def execStX (iv : BitVec 2) (d b i : BitVec 5) (h : BitVec 2) (z : BitVec 3) (sc : BitVec 4) (s : State) : Out :=
  storeFrom ((infoR (Decode.wStX iv d b i h z sc) iv sc (gs [d, b, i])).need (Wf.storeSize z)) d z (eaMX b i h) s

/-- ld.lit (R89): r or x suffices, and no tag is compared. -/
def execLdLit (iv : BitVec 2) (d : BitVec 5) (i : BitVec 10) (sc : BitVec 4) (s : State) : Out :=
  let inf := infoLL (Decode.wLdLit iv d i sc) iv sc (gs [d])
  guarded inf s fun s =>
    (s.loadPlain s.st .lit (eaLit i s) 8 0).out fun v s => .next (s.retireLL inf (gs [d]) [.g d (BitVec.ofNat 64 v)])

end Sys2Proof.Machine
end

