-- ==== Sys2Proof/Machine/Strong.lean ====
section
/-!
DEFINITION. Strong loads and stores, atomics, waita and wake (11 R221 to R225, 12 R234 to R242): majors 0x14 to 0x18, and
the event of a watch that fired.
-/
namespace Sys2Proof.Machine

/-! ## Access at the memory side -/

/-- A core's read cache drops one line (R206). -/
def State.dropLine (s : State) (core line : Nat) : State :=
  s.modCore core fun c => { c with rcache := c.rcache.filter (·.line != line) }

/-- What is to be performed at its scope before a strand's release (R222): at package scope the writes of its die's paths, at
every scope those of the dies it has left (R230). -/
def State.releaseAt (s : State) (x : Strand) (rel pkg : Bool) : State :=
  if !rel then s else if pkg then s.flushOf x else s.flushLeft x

/-- A strand's strong store takes the place of older plain stores to its bytes that the store buffer still holds (R220). -/
def State.supersede (s : State) (core line lo size : Nat) : State := s.modCore core fun c => c.supersede (line + lo) size

/-- The target of an access at the memory side, checked as R234 says: arrival, tag, and poison where the table says so. -/
def State.strongCheck (s : State) (x : Strand) (a : Acc) (va : Word) (size : Nat) (tag poison : Bool) : Res Target :=
  (s.check x a va size).bind fun t s =>
    match spaceOf t.addr with
    | .config => .ok t s
    | .fabric => .ok t s
    | .scratch => if poison && s.poisoned (Memory.line t.addr) then .trap s 0x45 va else .ok t s
    | _ =>
      let s := s.behind x (Memory.line t.addr)
      let s := if a.reads || a == .wake then s.reach (dieOf x.core) (Memory.line t.addr) else s
      (s.checkTag x va { t with t := t.t && tag } (s.lockAt t.addr)).bind fun _ _ =>
        if poison && s.poisoned (Memory.line t.addr) then .trap s 0x45 va else .ok t s

/-- The bytes of a target: of configuration space, of the scratchpad's SRAM, of the memory side. -/
def State.strongRead (s : State) (t : Target) (size : Nat) : Nat :=
  match spaceOf t.addr with
  | .config => (s.cfgRead (cfgPart t.addr) (cfgOff t.addr)).toNat
  | _ => Memory.readN s.mem t.addr size

/-- A write of a strand at the memory side, not to fabric space (R225, R236, R388): a path takes it at .quad and .die; the
core's read cache drops the line. -/
def State.strongWrite (s : State) (x : Strand) (va : Word) (t : Target) (size v : Nat) (pkg : Bool) : State :=
  let line := Memory.line t.addr
  let lo := t.addr - line
  match spaceOf t.addr with
  | .scratch => { s with mem := Memory.writeN s.mem t.addr v size }
  | .config => s.cfgWrite (cfgPart t.addr) (cfgOff t.addr) (BitVec.ofNat 64 v) (.strand x.ctl.priv x.pid)
  | _ =>
    let die := dieOf x.core
    let mask := (byteMask lo size).toNat
    let data := v % 2 ^ (8 * size) * 2 ^ (8 * lo)
    (if pkg then s.sideWrite die line mask data else s.pathWrite die line mask data true x.pid (vaLines va)).dropLine x.core line

/-- The write of an atomic (R237): part of its one access, which has reached the memory side already (R209). -/
def State.atomicWrite (s : State) (x : Strand) (t : Target) (size v : Nat) : State :=
  let line := Memory.line t.addr
  let lo := t.addr - line
  match spaceOf t.addr with
  | .scratch => s.strongWrite x 0 t size v true
  | _ => (s.performWrite line (byteMask lo size).toNat (v % 2 ^ (8 * size) * 2 ^ (8 * lo))).dropLine x.core line

/-- Access size of a one-bit size code: 4 or 8 (R235, R237). -/
def sizeBit (z : BitVec 1) : Nat := if z = 0 then 4 else 8

/-! ## ld.s and st.s (R235, R236) -/

/-- ld.s. -/
def execLdS (iv : BitVec 2) (d b : BitVec 5) (c : BitVec 3) (o : BitVec 2) (z : BitVec 1) (sc : BitVec 4) (s : State) : Out :=
  let inf := (infoLL (Decode.wLdS iv d b c o z sc) iv sc (gs [d, b])).need (Wf.scope c && (o == 0 || o == 1))
  guarded inf s fun s =>
    (s.strongCheck s.st (.strongLd (sizeBit z)) (s.G b) (sizeBit z) true true).out fun t s =>
      .next (s.retireLL inf (gs [d]) [.g d (BitVec.ofNat 64 (s.strongRead t (sizeBit z)))])

/-- st.s: into fabric space it is a reflected store (R228, R370). -/
def execStS (iv : BitVec 2) (d b : BitVec 5) (c : BitVec 3) (o : BitVec 2) (z : BitVec 1) (sc : BitVec 4) (s : State) : Out :=
  let inf := (infoLL (Decode.wStS iv d b c o z sc) iv sc (gs [d, b])).need (Wf.scope c && (o == 0 || o == 2))
  let n := sizeBit z
  guarded inf s fun s =>
    let va := s.G b
    (s.strongCheck s.st (.strongSt n) va n true false).out fun t s =>
      match spaceOf t.addr with
      | .fabric =>
        match s.reflectCheck s.st.pid t.addr n with
        | some e => trapOut s e va
        | none =>
          if s.reflectFull s.st.pid then .next s.retry
          else .next ((s.reflect s.st.sid.toNat s.st.pid t.addr (natBytes (s.G d).toNat n) none none).retireLL inf [] [])
      | _ =>
        if s.scratchBusy t n then .next s.retry
        else .next ((((s.releaseAt s.st (o == 2) (c == 3)).supersede s.st.core (Memory.line t.addr) (t.addr % 64) n).strongWrite
          s.st va t n ((s.G d).toNat % 2 ^ (8 * n)) (c == 3)).retireLL
          inf [] [])

/-! ## Atomics (R237 to R239) -/

/-- Order and scope of an atomic (R239): whether it releases, and whether its scope is the package; the default is .ar .die. -/
def atomicRel (d : Nat) : Bool := if d / 2 ^ 17 % 2 = 1 then d / 2 ^ 16 % 2 == 1 else true
def atomicPkg (d : Nat) : Bool := d / 2 ^ 17 % 2 == 1 && d / 2 ^ 12 % 8 == 3

/-- An atomic (R238): the new value, none for no write, from the old value, G[b] and G[d], each of the size; performed as
one access at package scope when it returns. -/
def atomic (inf : Info) (d a b : BitVec 5) (n : Nat) (f : Nat → Nat → Nat → Option Nat) (s : State) : Out :=
  guarded inf s fun s =>
    let m := modData s.st.hints
    (s.strongCheck s.st .atomic (s.G a) n true true).out fun t s =>
      if s.scratchBusy t n then .next s.retry else
      let s1 := s.releaseAt s.st (atomicRel m) (atomicPkg m)
      let old := s1.strongRead t n
      let s2 := match f old ((s.G b).toNat % 2 ^ (8 * n)) ((s.G d).toNat % 2 ^ (8 * n)) with
        | some new => s1.atomicWrite s.st t n (new % 2 ^ (8 * n))
        | none => s1.dropLine s.st.core (Memory.line t.addr)
      .next (s2.retireLL inf (gs [d]) [.g d (BitVec.ofNat 64 old)])

/-- An amo of a size bit: it always writes. -/
def amo (word : BitVec 32) (iv : BitVec 2) (d a b : BitVec 5) (z : BitVec 1) (sc : BitVec 4) (f : Nat → Nat → Nat → Nat)
    (s : State) : Out :=
  atomic (infoLL word iv sc (gs [d, a, b])) d a b (sizeBit z) (fun old y _ => some (f (8 * sizeBit z) old y)) s

/-- amo.add. -/
def execAmoAdd (iv : BitVec 2) (d a b : BitVec 5) (z : BitVec 1) (sc : BitVec 4) (s : State) : Out :=
  amo (Decode.wAmoAdd iv d a b z sc) iv d a b z sc (fun _ x y => x + y) s

/-- amo.and. -/
def execAmoAnd (iv : BitVec 2) (d a b : BitVec 5) (z : BitVec 1) (sc : BitVec 4) (s : State) : Out :=
  amo (Decode.wAmoAnd iv d a b z sc) iv d a b z sc (fun _ x y => x &&& y) s

/-- amo.or. -/
def execAmoOr (iv : BitVec 2) (d a b : BitVec 5) (z : BitVec 1) (sc : BitVec 4) (s : State) : Out :=
  amo (Decode.wAmoOr iv d a b z sc) iv d a b z sc (fun _ x y => x ||| y) s

/-- amo.xor. -/
def execAmoXor (iv : BitVec 2) (d a b : BitVec 5) (z : BitVec 1) (sc : BitVec 4) (s : State) : Out :=
  amo (Decode.wAmoXor iv d a b z sc) iv d a b z sc (fun _ x y => x ^^^ y) s

/-- amo.min: the smaller, signed. -/
def execAmoMin (iv : BitVec 2) (d a b : BitVec 5) (z : BitVec 1) (sc : BitVec 4) (s : State) : Out :=
  amo (Decode.wAmoMin iv d a b z sc) iv d a b z sc (fun w x y => if asInt true w x ≤ asInt true w y then x else y) s

/-- amo.max: the larger, signed. -/
def execAmoMax (iv : BitVec 2) (d a b : BitVec 5) (z : BitVec 1) (sc : BitVec 4) (s : State) : Out :=
  amo (Decode.wAmoMax iv d a b z sc) iv d a b z sc (fun w x y => if asInt true w x ≤ asInt true w y then y else x) s

/-- amo.minn: the smaller, unsigned. -/
def execAmoMinn (iv : BitVec 2) (d a b : BitVec 5) (z : BitVec 1) (sc : BitVec 4) (s : State) : Out :=
  amo (Decode.wAmoMinn iv d a b z sc) iv d a b z sc (fun _ x y => Nat.min x y) s

/-- amo.maxn: the larger, unsigned. -/
def execAmoMaxn (iv : BitVec 2) (d a b : BitVec 5) (z : BitVec 1) (sc : BitVec 4) (s : State) : Out :=
  amo (Decode.wAmoMaxn iv d a b z sc) iv d a b z sc (fun _ x y => Nat.max x y) s

/-- amo.swap. -/
def execAmoSwap (iv : BitVec 2) (d a b : BitVec 5) (z : BitVec 1) (sc : BitVec 4) (s : State) : Out :=
  amo (Decode.wAmoSwap iv d a b z sc) iv d a b z sc (fun _ _ y => y) s

/-- amo.fadd (R237, R238): Round32 to nearest-even, subnormals kept, no flag. -/
def execAmoFadd (iv : BitVec 2) (d a b : BitVec 5) (sc : BitVec 4) (s : State) : Out :=
  atomic (infoLL (Decode.wAmoFadd iv d a b sc) iv sc (gs [d, a, b])) d a b 4
    (fun old y _ => some (fAdd Fmt.f32 .ne false old y 0).1) s

/-- cas (R238): an unequal value is not written. -/
def execCas (iv : BitVec 2) (d a b : BitVec 5) (z : BitVec 1) (sc : BitVec 4) (s : State) : Out :=
  atomic (infoLL (Decode.wCas iv d a b z sc) iv sc (gs [d, a, b])) d a b (sizeBit z)
    (fun old y e => if old = e then some y else none) s

/-! ## waita and wake (R240 to R242) -/

/-- Arm a watch at the owner's memory side; none if its table of 2,048 is full. -/
def State.armWatch (s : State) (sid line : Nat) : Option State :=
  let d := s.ownerDie line
  let ws := (s.die d).watches.filter (·.sid != sid)
  if ws.length ≥ 2048 then none
  else some (s.modDie d fun x => { x with watches := ws ++ [⟨line, sid⟩] })

/-- waita (R241): the watch is armed, then the dword compared; a full table completes it at once as if the watch had fired. -/
def execWaita (iv : BitVec 2) (d a b : BitVec 5) (sc : BitVec 4) (s : State) : Out :=
  guarded (infoR (Decode.wWaita iv d a b sc) iv sc (gs [d, a, b])) s fun s =>
    let ea := s.G a
    (s.strongCheck s.st .waita ea 8 true true).out fun t s =>
      let v := BitVec.ofNat 64 (s.strongRead t 8)
      let line := Memory.line t.addr
      match s.armWatch s.st.sid.toNat line with
      | none => .next ((s.count s.st.pid .waitFull 1).setG d v).retire
      | some s' => .next (if v ≠ s.G b then (s.setG d v).retire else s'.block (.waitA line ea d false))

/-- wake: ordered as a strong store of package scope, it travels behind the writes of its path (R225, R242), then fires every
watch on the line. -/
def execWake (iv : BitVec 2) (a : BitVec 5) (sc : BitVec 4) (s : State) : Out :=
  guarded (infoR (Decode.wWake iv a sc) iv sc (gs [a])) s fun s =>
    (s.strongCheck s.st .wake (s.G a) 8 true false).out fun t s =>
      .next (s.fireWatches (Memory.line t.addr)).retire

/-- A waita whose watch fired reads again and completes (R241); an access that its entries no longer allow is executed
again, and traps there. -/
def execWaitaReread (sid : Nat) (s : State) : Out :=
  match s.strand sid with
  | none => .next s
  | some x =>
    match x.wait with
    | some (.waitA _ ea d true) =>
      match s.strongCheck x .waita ea 8 true true with
      | .ok t s => .next (s.finishWait sid fun x => x.setG d (BitVec.ofNat 64 (s.strongRead t 8)))
      | _ => .next (s.again sid)
    | _ => .next s

end Sys2Proof.Machine
end

