-- ==== Sys2Proof/Machine/Fence.lean ====
section
/-!
DEFINITION. Fences, tags, extents, st.f (11 R218, R225, R226, 12 R243 to R256): majors 0x19 to 0x1B, their events, and the
events of the paths between dies.
-/
namespace Sys2Proof.Machine

/-! ## What a fence waits for -/

/-- How many writes each path of a die has accepted. -/
def State.acceptedBy (s : State) (die : Nat) : List (Nat × Nat) := (s.die die).paths.map fun p => (p.1, p.2.accepted)

/-- Whether the first n writes that a path accepted have been performed, for every path named. -/
def State.performedUpTo (s : State) (die : Nat) (seen : List (Nat × Nat)) : Bool :=
  seen.all fun p => decide (p.2 ≤ (s.path die p.1).accepted - (s.path die p.1).writes.length)

/-- A core's read cache is invalidated (R206). -/
def State.clearRead (s : State) (core : Nat) : State := s.modCore core fun c => { c with rcache := [] }

/-- Whether every earlier reflected store and flag of a strand to a window (none: to any) is visible (R245). -/
def State.reflected (s : State) (sid : Nat) (win : Option Nat) : Bool :=
  s.hub.copies.all fun c => c.sid != sid || c.shown || c.job.isSome || (win.isSome && c.win != win)

/-- Writes that a strand left on the paths of other dies are performed (R230; log 43). -/
def State.settleLeft (s : State) : State := (s.flushLeft s.st).modSt fun x => { x with left := [] }

/-! ## Major 0x19 -/

/-- phase (R218): drains, and completes at once at .quad and .die, where the acceptance by a path of its own die is enough
(R225); what it wrote on another die is performed (R230). -/
def execPhase (iv : BitVec 2) (c : BitVec 5) (sc : BitVec 4) (s : State) : Out :=
  guarded ((infoR (Decode.wPhase iv c sc) iv sc []).need (c == 1 || c == 2 || c == 3)) s fun s =>
    let die := dieOf s.st.core
    let s := (s.drainPath s.st.core).settleLeft
    if c ≠ 3 ∨ s.performedUpTo die (s.acceptedBy die) then .next (s.clearRead s.st.core).retire
    else .next (s.block (.phase (s.acceptedBy die)))

/-- fence.x (R226). -/
def execFenceX (iv : BitVec 2) (sc : BitVec 4) (s : State) : Out :=
  guarded (infoR (Decode.wFenceX iv sc) iv sc []) s fun s =>
    let die := dieOf s.st.core
    let s := (s.drainPath s.st.core).settleLeft
    if s.performedUpTo die (s.acceptedBy die) then .next s.retire else .next (s.block (.fenceX (s.acceptedBy die)))

/-- fence.r (R245). -/
def execFenceR (iv : BitVec 2) (a : BitVec 5) (sc : BitVec 4) (s : State) : Out :=
  guarded (infoR (Decode.wFenceR iv a sc) iv sc (gs [a])) s fun s =>
    let win := if (s.G a).getLsbD 63 then none else some ((s.G a).toNat % 256)
    if s.reflected s.st.sid.toNat win then .next s.retire else .next (s.block (.fenceR win))

/-- fence.a (R225, R246). -/
def execFenceA (iv : BitVec 2) (a : BitVec 5) (sc : BitVec 4) (s : State) : Out :=
  guarded (infoR (Decode.wFenceA iv a sc) iv sc (gs [a])) s fun s =>
    let die := (s.G a).toNat % 16
    let seen := s.acceptedBy die
    if s.performedUpTo die seen then .next s.retire else .next (s.block (.fenceA die seen))

/-- The half of a core's quad when it is split: halves are two cores each (R389). -/
def halfOf (core : Nat) : Nat := core % 4 / 2

/-- The matrix queue of a core: the second only on the upper half of a split quad (R259). -/
def State.matQ (s : State) (pid core : Nat) : Nat := if s.splitOf pid core && halfOf core == 1 then 1 else 0

/-- The queue of a number: 0 copy, 1 and 2 matrix (R259). -/
def Quad.queue (q : Quad) (n : Nat) : List Entry := if n = 0 then q.copyQ else if n = 1 then q.mat0 else q.mat1

/-- Put a queue. -/
def Quad.setQueue (q : Quad) (n : Nat) (l : List Entry) : Quad :=
  if n = 0 then { q with copyQ := l } else if n = 1 then { q with mat0 := l } else { q with mat1 := l }

/-- Entries a queue holds (R259). -/
def queueLimit (n : Nat) : Nat := if n = 0 then 64 else 32

/-- Whether a die's engine queues are closed for a change of the operating point (R366). -/
def State.closed (s : State) (core : Nat) : Bool :=
  let p := (s.die (dieOf core)).power
  p.stage == 1

/-- Whether a queue of a core's quad takes no entry. -/
def State.queueFull (s : State) (core n : Nat) : Bool :=
  s.closed core || decide (((s.quad (quadOf core)).queue n).length ≥ queueLimit n)

/-- Whether a core's booking queue takes no entry. -/
def State.bookFull (s : State) (core : Nat) : Bool := s.closed core || decide ((s.core core).bookQ.length ≥ 16)

/-- Append to a queue of a quad. -/
def State.enqueue (s : State) (quad n : Nat) (e : Entry) : State :=
  s.modQuad quad fun q => q.setQueue n (q.queue n ++ [e])

/-- The largest promise in a queue. -/
def lastPromise (l : List Entry) : Nat := l.foldl (fun m e => Nat.max m e.promise) 0

/-- qfence (R247): a join in every named queue, in one step; the entries behind it take the largest promise ahead (R263). -/
def execQfence (iv : BitVec 2) (a : BitVec 5) (sc : BitVec 4) (s : State) : Out :=
  guarded (infoR (Decode.wQfence iv a sc) iv sc (gs [a])) s fun s =>
    let core := s.st.core
    let m := 1 + s.matQ s.st.pid core
    let cp := (s.G a).getLsbD 0
    let mt := (s.G a).getLsbD 1
    let bk := (s.G a).getLsbD 2
    if (cp && s.queueFull core 0) || (mt && s.queueFull core m) || (bk && s.bookFull core) then .next s.retry
    else if !(cp || mt || bk) then .next s.retire
    else
      let qn := quadOf core
      let q := s.quad qn
      let p := fun (b : Bool) (l : List Entry) => if b then lastPromise l else 0
      let e : Entry := { owner := s.st.sid.toNat, pid := s.st.pid, work := .join q.joins
                         promise := Nat.max (p cp q.copyQ) (Nat.max (p mt (q.queue m)) (p bk (s.core core).bookQ)) }
      let s := if cp then s.enqueue qn 0 e else s
      let s := if mt then s.enqueue qn m e else s
      let s := if bk then s.modCore core fun c => { c with bookQ := c.bookQ ++ [e] } else s
      .next (s.modQuad qn fun q => { q with joins := q.joins + 1 }).retire

/-- ifence (R214, R248). -/
def execIfence (iv : BitVec 2) (sc : BitVec 4) (s : State) : Out :=
  guarded (infoR (Decode.wIfence iv sc) iv sc []) s fun s =>
    .next ((s.modCore s.st.core fun c => { c with icache := [] }).modSt fun x => { x with fbuf := [] }).retire

/-! ## Tags (R249 to R251) -/

/-- A lock of a granule is written at its owner's memory side; a change is logged there, in a ring of 4,096 entries
(R212). -/
def State.setLock (s : State) (a : Nat) (key : BitVec 4) (sid source : Nat) : State :=
  let g := a / 32 * 32
  let old := s.lockAt g
  if old = key then s
  else
    let s := { s with locks := if key = 0 then Assoc.erase s.locks g else Assoc.set s.locks g key }
    s.modDie (s.ownerDie g) fun d =>
      { d with locks := (d.locks ++ [(⟨g, s.clk, sid, old, key, source⟩ : LockLog)]).drop (d.locks.length + 1 - 4096) }

/-- The locks of n granules from a physical address on. -/
def State.setLocks (s : State) (a : Nat) (key : BitVec 4) (sid : Nat) : Nat → State
  | 0 => s
  | n + 1 => State.setLocks (s.setLock a key sid 0) (a + 32) key sid n

/-- Checks of tag.set (R250): the physical address and granules to set, or the cause and tval. -/
def tagCheck (x : Strand) (ea len : Word) : Except (BitVec 8 × Word) (Nat × Nat) :=
  if ea.toNat / 2 ^ 60 ≠ 0 ∨ winOf ea = 0xFE then .error (0x40, ea)
  else if ea.toNat % 32 ≠ 0 then .error (0x43, ea)
  else if len.toNat % 32 ≠ 0 ∨ len.toNat > 4096 then .error (0x43, len)
  else if len = 0 then .ok (0, 0)
  else if winOf ea = 0xFF then
    (if offOf ea + len.toNat ≤ x.privSize then .error (0x42, ea)
     else .error (0x41, if offOf ea ≥ x.privSize then ea else ea + BitVec.ofNat 64 (x.privSize - offOf ea)))
  else match coverOf x.ext ea with
    | none => .error (0x41, ea)
    | some e =>
      let v := ea.toNat % 2 ^ 56
      let stop := Extent.vbase e + Extent.length e
      if v + len.toNat > stop then .error (0x41, ea + BitVec.ofNat 64 ((stop - v) / 32 * 32))
      else if Extent.revoked e then .error (0x48, ea)
      else
        let a := Extent.pbase e + (v - Extent.vbase e)
        if !Extent.w e || !Extent.t e || Extent.host e || spaceOf a != .dieMem then .error (0x42, ea)
        else .ok (a, len.toNat / 32)

/-- The effect of a checked tag.set: earlier writes are performed (R255), the locks are written at their owner, where the lines
count (R209), and the read-cache lines go (R206). -/
def State.tagWrite (s : State) (x : Strand) (a n : Nat) (key : BitVec 4) : State :=
  (((s.flushOf x).countLines (dieOf x.core) (linesIn a (32 * n))).setLocks a key x.sid.toNat n).modCore x.core fun c =>
    { c with rcache := c.rcache.filter fun l => l.line + 64 ≤ a || a + 32 * n ≤ l.line }

/-- Whether every granule of a range lies on one die. -/
def State.allOn (s : State) (die a n : Nat) : Bool := (List.range n).all fun i => s.ownerDie (a + 32 * i) == die

/-- tag.set: not ready until locks on other dies are written. -/
def execTagSet (iv : BitVec 2) (a b : BitVec 5) (sc : BitVec 4) (s : State) : Out :=
  guarded (infoR (Decode.wTagSet iv a b sc) iv sc (gs [a, b])) s fun s =>
    match tagCheck s.st (s.G a) (s.G b) with
    | .error (c, v) => trapOut s c v
    | .ok (pa, n) =>
      if s.allOn (dieOf s.st.core) pa n then
        .next (if n = 0 then s else s.tagWrite s.st pa n (keyOf (s.G a))).retire
      else .next (s.block (.tagSet (s.G a) (s.G b)))

/-- tag.get (R251): the lock at the owner's memory side. -/
def execTagGet (iv : BitVec 2) (d a : BitVec 5) (sc : BitVec 4) (s : State) : Out :=
  let inf := infoLL (Decode.wTagGet iv d a sc) iv sc (gs [d, a])
  guarded inf s fun s =>
    (s.strongCheck s.st .tagGet (s.G a) 1 false true).out fun t s =>
      .next (s.retireLL inf (gs [d]) [.g d ((s.lockAt t.addr).setWidth 64)])

/-! ## Extents (R252, R253) -/

/-- xreq: at once when an entry covers the address, else the strand waits for the translation engine. -/
def execXreq (iv : BitVec 2) (d a b : BitVec 5) (sc : BitVec 4) (s : State) : Out :=
  guarded (infoR (Decode.wXreq iv d a b sc) iv sc (gs [d, a, b])) s fun s =>
    match coverOf s.st.ext (s.G a) with
    | some _ => .next (s.setG d (s.xlate s.st (s.G a) (s.G b)).1).retire
    | none => .next (s.block (.xreq d (s.G a) (s.G b)))

/-- xrel. -/
def execXrel (iv : BitVec 2) (a : BitVec 5) (sc : BitVec 4) (s : State) : Out :=
  guarded (infoR (Decode.wXrel iv a sc) iv sc (gs [a])) s fun s =>
    let i := (s.G a).toNat % 16
    .next (s.modSt fun x => { x with
      ext := x.ext.setIfInBounds i ((x.ext.toList.getD i 0) &&& ~~~(BitVec.ofNat 256 (2 ^ 77))) }).retire

/-! ## st.f (R254) -/

/-- The offset of a flag in the transmit window that an address maps: none when no entry maps it there. -/
def flagOff (ext : Vector (BitVec 256) 16) (win : Nat) (va : Word) : Option Nat :=
  if va.toNat / 2 ^ 60 ≠ 0 then none
  else match coverOf ext va with
    | none => none
    | some e =>
      let a := Extent.pbase e + (va.toNat % 2 ^ 56 - Extent.vbase e)
      if spaceOf a = .fabric ∧ !isPod a ∧ fabWin a = win then some (fabOff a) else none

/-- st.f. -/
def execStF (iv : BitVec 2) (d a b : BitVec 5) (z : BitVec 1) (sc : BitVec 4) (s : State) : Out :=
  guarded (infoR (Decode.wStF iv d a b z sc) iv sc (gs [d, a, b])) s fun s =>
    let n := if z = 0 then 8 else 4
    let va := s.G a
    let fa := s.G b
    let p := s.st.pid
    (s.strongCheck s.st .stF va n true false).out fun t s =>
      if spaceOf t.addr ≠ .fabric ∨ isPod t.addr then trapOut s 0xA2 va
      else if fa.toNat % 8 ≠ 0 then trapOut s 0x43 fa
      else match flagOff s.st.ext (fabWin t.addr) fa with
        | none => trapOut s 0xA2 fa
        | some f =>
          if f + 8 > s.txLen p (fabWin t.addr) && s.txEn p (fabWin t.addr) then trapOut s 0xA2 fa
          else match s.reflectCheck p t.addr n with
            | some c => trapOut s c va
            | none =>
              if s.reflectFull p then .next s.retry
              else .next (s.reflect s.st.sid.toNat p t.addr (natBytes (s.G d).toNat n) (some f) none).retire

/-! ## Events -/

/-- PHASE_COMPLETE (R218, R226): the writes that the paths had accepted are performed. -/
def execPhaseComplete (sid : Nat) (s : State) : Out :=
  match s.strand sid with
  | none => .next s
  | some x =>
    match x.wait with
    | some (.phase seen) =>
      .next (if s.performedUpTo (dieOf x.core) seen then (s.clearRead x.core).finishWait sid id else s)
    | some (.fenceX seen) => .next (if s.performedUpTo (dieOf x.core) seen then s.finishWait sid id else s)
    | _ => .next s

/-- FENCE_R_COMPLETE (R245). -/
def execFenceRComplete (sid : Nat) (s : State) : Out :=
  match s.strand sid with
  | none => .next s
  | some x =>
    match x.wait with
    | some (.fenceR win) => .next (if s.reflected sid win then s.finishWait sid id else s)
    | _ => .next s

/-- FENCE_A_COMPLETE (R225). -/
def execFenceAComplete (sid : Nat) (s : State) : Out :=
  match s.strand sid with
  | none => .next s
  | some x =>
    match x.wait with
    | some (.fenceA die seen) => .next (if s.performedUpTo die seen then s.finishWait sid id else s)
    | _ => .next s

/-- TAG_SET_COMPLETE (R250): every lock is written and logged; checks that no longer pass are made again at the unit. -/
def execTagSetComplete (sid : Nat) (s : State) : Out :=
  match s.strand sid with
  | none => .next s
  | some x =>
    match x.wait with
    | some (.tagSet ea len) =>
      match tagCheck x ea len with
      | .ok (a, n) => .next ((s.tagWrite x a n (keyOf ea)).finishWait sid id)
      | .error _ => .next (s.again sid)
    | _ => .next s

/-- TRANSLATION_ANSWER (R252). -/
def execTranslationAnswer (sid : Nat) (s : State) : Out :=
  match s.strand sid with
  | none => .next s
  | some x =>
    match x.wait with
    | some (.xreq d va req) =>
      let (v, e) := s.xlate x va req
      let s := if e.isSome then s.notePages x.pid (s.xlateRun x va req)
        else if va.toNat / 2 ^ 60 = 0 ∧ (s.pageAt x.pid va.toNat).isSome ∧ (s.openPage x.pid va.toNat).isNone then s.deny x.pid else s
      .next (s.finishWait sid fun x =>
        let x := match e with
          | some (i, y) => { x with ext := x.ext.setIfInBounds i y }
          | none => x
        x.setG d v)
    | _ => .next s

/-- Whether the write at the head of a path is a strong store, if there is one. -/
def State.pathHead (s : State) (src dst : Nat) : Option Bool := ((s.path src dst).writes.head?).map (·.strong)

/-- DRAINED_LINE_ARRIVAL (R205, R225): a drained line at the head of a path is written at its owner's memory side. -/
def execDrainedLineArrival (src dst : Nat) (s : State) : Out :=
  .next (if s.pathHead src dst = some false ∧ !s.retrains src ∧ !s.retrains dst then s.pathStep src dst else s)

/-- FORWARDED_ACCESS (R208, R225): an access at the head of a path is performed at the owner die. -/
def execForwardedAccess (src dst : Nat) (s : State) : Out :=
  .next (if s.pathHead src dst = some true ∧ !s.retrains src ∧ !s.retrains dst then s.pathStep src dst else s)

end Sys2Proof.Machine
end

