-- ==== Sys2Proof/Machine/Image.lean ====
section
/-!
DEFINITION. Context images, state records, overflow entries, pool images (18 R323 to R326, 20 R353, 24 R391), and the view
of a strand that is saved: its bytes in memory are what counts.
-/
namespace Sys2Proof.Machine

/-- A field of an image: offset, bytes, value. -/
abbrev Field := Nat × Nat × Nat

/-- Write fields from a base. -/
def writeFields (m : Memory) (base : Nat) (l : List Field) : Memory :=
  l.foldl (fun m f => Memory.writeN m (base + f.1) (f.2.2 % 2 ^ (8 * f.2.1)) f.2.1) m

/-- The lines that fields touch, from a base. -/
def fieldLines (base : Nat) (l : List Field) : List Nat :=
  l.foldl (fun acc f => acc ++ (linesIn (base + f.1) f.2.1).filter fun a => acc.getLast? != some a) []

/-- A unit on a die writes fields from a base (R209, R241). -/
def State.unitFields (s : State) (die base : Nat) (l : List Field) : State :=
  ({ s with mem := writeFields s.mem base l }.countLines die (fieldLines base l)).wrote (fieldLines base l)

/-- Fields of an image that stands in memory are rewritten: the lines that change have been written (log 54). -/
def State.updateFields (s : State) (base : Nat) (l : List Field) : State :=
  let t := { s with mem := writeFields s.mem base l }
  let lines := (fieldLines base l).filter fun a => Memory.readN t.mem a 64 != Memory.readN s.mem a 64
  (t.countLines (base / 2 ^ 35 % 16) lines).wrote lines

/-- One field of an image in memory. -/
def rd (m : Memory) (base off n : Nat) : Nat := Memory.readN m (base + off) n

/-- Entry i of a list of registers. -/
def gAt (x : Strand) (n : Nat) : Nat := (x.g.toList.getD n 0).toNat

/-- The light image (R324). -/
def lightImage (x : Strand) : List Field :=
  (0, 8, x.pc.toNat) :: (List.range 7).map fun i => (8 * (i + 1), 8, gAt x (i + 1))

/-- The dword of lmask, larr, lmode, la_trap and priv of a light strand (R325 at 0x028). -/
def lightDword (x : Strand) : Nat :=
  x.ctl.lmask.toNat % 256 / 2 * 2 + x.ctl.larr.toNat % 256 / 2 * 2 * 256 + x.ctl.lmode.toNat * 2 ^ 16
    + x.ctl.laTrap.toNat * 2 ^ 17 + x.ctl.priv.code * 2 ^ 18

/-- The 40 bytes of the generator counter and user trap registers, from an offset on (R325 at 0x030). -/
def lightTrap (x : Strand) (o : Nat) : List Field :=
  [(o, 8, x.ctl.gen.toNat), (o + 8, 8, x.u.vec.toNat), (o + 16, 8, x.u.cause.toNat), (o + 24, 8, x.u.val.toNat),
   (o + 32, 8, x.u.xpc.toNat)]

/-- The scalar part of an image (R324). -/
def scalarImage (x : Strand) : List Field :=
  (0, 8, x.pc.toNat) :: ((List.range 31).map fun i => (8 * (i + 1), 8, gAt x (i + 1)))
  ++ [(0x100, 8, x.ctl.gen.toNat), (0x108, 8, x.ctl.laStall.toNat), (0x110, 8, x.u.vec.toNat), (0x118, 8, x.u.cause.toNat),
      (0x120, 8, x.u.val.toNat), (0x128, 8, x.u.xpc.toNat), (0x130, 4, x.ctl.prio.toNat), (0x134, 4, x.ctl.lmask.toNat),
      (0x138, 4, x.ctl.larr.toNat),
      (0x13C, 4, x.ctl.shp.toNat + x.ctl.fcr.toNat * 2 ^ 13 + x.ctl.lmode.toNat * 2 ^ 28 + x.ctl.laTrap.toNat * 2 ^ 29
        + x.ctl.priv.code * 2 ^ 30)]

/-- The rest of a full image (R324). -/
def vectorImage (x : Strand) : List Field :=
  let v := fun n => x.v.toList.getD n {}
  ((List.range 16).map fun n => (0x140 + 256 * n, 256, (v n).data.toNat))
  ++ ((List.range 16).map fun n => (0x1140 + 8 * n, 8, (v n).scale.toNat))
  ++ ((List.range 7).map fun i => (0x11C0 + 32 * i, 32, (x.k.toList.getD (i + 1) 0).toNat))
  ++ [(0x12A0, 8, (List.range 16).foldl (fun a n => a + (v n).tag.toNat * 2 ^ (4 * n)) 0),
      (0x12A8, 2, (List.range 7).foldl (fun a i => a + (x.q.toList.getD (i + 1) .isTrue).code.toNat * 2 ^ (2 * (i + 1))) 0),
      (0x12AA, 2, x.ctl.lvmask.toNat), (0x12AC, 2, x.ctl.lvarr.toNat), (0x12AE, 82, 0)]

/-- The context image of a strand's class (R324). -/
def contextImage (x : Strand) : List Field :=
  match x.cls with
  | .light => lightImage x
  | .scalar => scalarImage x
  | .full => scalarImage x ++ vectorImage x

/-- The flags byte of a state record (R325, bits [63:56] of its first dword). -/
def flagBits (x : Strand) : Nat :=
  x.flags.runnable.toNat + 2 * x.pool.isSome.toNat + 4 * x.flags.heldJob.toNat + 8 * x.flags.parked.toNat
    + 16 * x.flags.callPending.toNat + 32 * x.flags.stop.toNat

/-- A core in the record's coding (R325 at 0x010). -/
def coreCode (core : Nat) : Nat := core / 1024 + core % 1024 / 4 * 2 ^ 8 + core % 4 * 2 ^ 20

/-- The core of a coding. -/
def coreOfCode (n : Nat) : Nat := n % 16 * 1024 + n / 2 ^ 8 % 2 ^ 12 % 256 * 4 + n / 2 ^ 20 % 4

/-- The state record (R325), at save-area offset 0x1300; `now` is clk at the save. -/
def stateRecord (x : Strand) (now : Nat) : List Field :=
  let light := x.cls == .light
  ([(0, 8, x.sid.toNat + x.cls.code * 2 ^ 48 + flagBits x * 2 ^ 56), (8, 8, now), (0x10, 8, coreCode x.core),
    (0x18, 8, x.pool.getD 0), (0x20, 8, x.parkCycles.toNat), (0x28, 8, if light then lightDword x else 0)]
   ++ (if light then lightTrap x 0x30 else [(0x30, 40, 0)])
   ++ [(0x58, 2, x.pending.length + 256 * x.lost.toNat), (0x5A, 38, 0)]
   ++ ((List.range 8).map fun i => match x.pending[i]? with
        | some d => (0x80 + 16 * i, 16, d.tval.toNat + d.cause.toNat * 2 ^ 64 + d.level.code * 2 ^ 72)
        | none => (0x80 + 16 * i, 16, 0))
   ++ [(0x100, 256, 0)]
   ++ ((List.range 16).map fun i => (0x200 + 32 * i, 32, (x.ext.toList.getD i 0).toNat))).map
  fun (f : Field) => (0x1300 + f.1, f.2)

/-! ## Reading back -/

/-- g1 to gn from 8 bytes each. -/
def readG (m : Memory) (base n : Nat) (g : Vector Word 32) : Vector Word 32 :=
  (List.range n).foldl (fun g i => g.setIfInBounds (i + 1) (BitVec.ofNat 64 (rd m base (8 * (i + 1)) 8))) g

/-- The light image and the dwords that travel with it (R324, R325, R391), image at a, dword at b, 40 bytes at c. -/
def readLight (m : Memory) (a b c : Nat) (x : Strand) : Strand :=
  let w := rd m b 0 8
  { x with
    pc := BitVec.ofNat 64 (rd m a 0 8), g := readG m a 7 x.g
    u := { vec := BitVec.ofNat 64 (rd m c 8 8), cause := BitVec.ofNat 64 (rd m c 16 8), val := BitVec.ofNat 64 (rd m c 24 8),
           xpc := BitVec.ofNat 64 (rd m c 32 8) }
    ctl := { x.ctl with
      lmask := BitVec.ofNat 32 (w % 256 / 2 * 2), larr := BitVec.ofNat 32 (w / 256 % 256 / 2 * 2)
      lmode := w / 2 ^ 16 % 2 == 1, laTrap := w / 2 ^ 17 % 2 == 1, priv := Mode.ofCode (w / 2 ^ 18 % 4)
      gen := BitVec.ofNat 64 (rd m c 0 8) } }

/-- The scalar part of an image. -/
def readScalar (m : Memory) (a : Nat) (x : Strand) : Strand :=
  let d := fun o => BitVec.ofNat 64 (rd m a o 8)
  let w := rd m a 0x13C 4
  { x with
    pc := d 0, g := readG m a 31 x.g
    u := { vec := d 0x110, cause := d 0x118, val := d 0x120, xpc := d 0x128 }
    ctl := { x.ctl with
      gen := d 0x100, laStall := d 0x108, prio := BitVec.ofNat 32 (rd m a 0x130 4)
      lmask := BitVec.ofNat 32 (rd m a 0x134 4), larr := BitVec.ofNat 32 (rd m a 0x138 4)
      shp := BitVec.ofNat 13 w, fcr := BitVec.ofNat 15 (w / 2 ^ 13), lmode := w / 2 ^ 28 % 2 == 1
      laTrap := w / 2 ^ 29 % 2 == 1, priv := Mode.ofCode (w / 2 ^ 30) } }

/-- The vector part of an image. -/
def readVector (m : Memory) (a : Nat) (x : Strand) : Strand :=
  let tags := rd m a 0x12A0 8
  let gd := rd m a 0x12A8 2
  { x with
    v := Vector.ofFn fun (n : Fin 16) =>
      { data := BitVec.ofNat 2048 (rd m a (0x140 + 256 * n.val) 256), tag := BitVec.ofNat 4 (tags / 2 ^ (4 * n.val))
        scale := BitVec.ofNat 64 (rd m a (0x1140 + 8 * n.val) 8) }
    k := Vector.ofFn fun (n : Fin 8) => if n.val = 0 then 0 else BitVec.ofNat 256 (rd m a (0x11C0 + 32 * (n.val - 1)) 32)
    q := Vector.ofFn fun (n : Fin 8) => if n.val = 0 then .isTrue else Guard.ofCode (BitVec.ofNat 2 (gd / 2 ^ (2 * n.val)))
    ctl := { x.ctl with lvmask := BitVec.ofNat 16 (rd m a 0x12AA 2), lvarr := BitVec.ofNat 16 (rd m a 0x12AC 2) } }

/-- The state record's part of a strand. -/
def readRecord (m : Memory) (r : Nat) (x : Strand) : Strand :=
  let fl := rd m r 0 8 / 2 ^ 56
  let pend := rd m r 0x58 2
  let pool := rd m r 0x18 8
  { x with
    core := coreOfCode (rd m r 0x10 8), pool := if fl / 2 % 2 = 1 then some pool else none
    parkCycles := BitVec.ofNat 64 (rd m r 0x20 8)
    flags := { x.flags with
      runnable := fl % 2 == 1, heldJob := fl / 4 % 2 == 1, parked := fl / 8 % 2 == 1, callPending := fl / 16 % 2 == 1
      stop := fl / 32 % 2 == 1 }
    lost := pend / 256 % 2 == 1
    pending := (List.range (Nat.min (pend % 16) 8)).map fun i =>
      ⟨BitVec.ofNat 8 (rd m r (0x80 + 16 * i + 8) 1), BitVec.ofNat 64 (rd m r (0x80 + 16 * i) 8),
       Mode.ofCode (rd m r (0x80 + 16 * i + 9) 1)⟩
    ext := Vector.ofFn fun (i : Fin 16) => BitVec.ofNat 256 (rd m r (0x200 + 32 * i.val) 32) }

/-- A strand as its save frame holds it. -/
def readFrame (m : Memory) (base : Nat) (x : Strand) : Strand :=
  let r := base + 0x1300
  let x := match x.cls with
    | .light => readLight m base (r + 0x28) (r + 0x30) x
    | .scalar => readScalar m base x
    | .full => readVector m base (readScalar m base x)
  readRecord m r x

/-- A strand's frame: image and state record. -/
def frameFields (x : Strand) (now : Nat) : List Field := contextImage x ++ stateRecord x now

/-- Address of an overflow entry (R391). -/
def State.ovfAddr (s : State) (p die idx : Nat) : Nat := s.workArea p die + idx % 4096 * 128

/-- An overflow entry (R391). -/
def ovfFields (x : Strand) : List Field :=
  lightImage x ++ [(0x40, 8, x.sid.toNat), (0x48, 8, lightDword x)] ++ lightTrap x 0x50 ++ [(0x78, 8, 0)]

/-! ## The view of a strand -/

/-- A strand as it is: from its frame while saved, from its entry while in an overflow ring. -/
def State.view (s : State) (x : Strand) : Strand :=
  match x.place with
  | .saved | .toPlace => match x.frame with
    | some f => readFrame s.mem f x
    | none => x
  | .ring die idx =>
    let a := s.ovfAddr x.pid die idx
    readLight s.mem a (a + 0x48) (a + 0x50) x
  | _ => x

/-- clk at the save, as the frame holds it. -/
def savedClk (m : Memory) (f : Nat) : Nat := rd m f 0x1308 8

/-- Change a strand wherever it stands: in its frame, in its overflow entry, or on its core. -/
def State.modView (s : State) (sid : Nat) (f : Strand → Strand) : State :=
  match s.strand sid with
  | none => s
  | some x =>
    let y := f (s.view x)
    let s := s.modStrand sid fun _ => y
    match x.place with
    | .saved | .toPlace => match x.frame with
      | some a => s.updateFields a (frameFields y (savedClk s.mem a))
      | none => s
    | .ring die idx => s.updateFields (s.ovfAddr x.pid die idx) (ovfFields y)
    | _ => s

/-- A strand of a sid as it is. -/
def State.viewOf (s : State) (sid : Nat) : Option Strand := (s.strand sid).map s.view

/-- Insert a fault before those of a larger code (R346). -/
def insertFault (f : Deferred) : List Deferred → List Deferred
  | [] => [f]
  | d :: l => if f.cause.toNat < d.cause.toNat then f :: d :: l else d :: insertFault f l

/-- The pending list with a further fault, at a clk: those due in the same cycle stand in ascending code order (R346). -/
def Strand.due (x : Strand) (f : Deferred) (now : Nat) : List Deferred × Nat :=
  let k := if x.dueAt = now then Nat.min x.dueLast x.pending.length else 0
  (x.pending.take (x.pending.length - k) ++ insertFault f (x.pending.drop (x.pending.length - k)), k + 1)

/-- A deferred fault for a strand wherever it stands (R321): a blocked resident one becomes ready to take it, which the
event of its delivery does (R316). A ninth one is dropped and counted. -/
def State.deferTo (s : State) (sid : Nat) (c : BitVec 8) (tval : Word) : State :=
  match s.viewOf sid with
  | none => s
  | some x =>
    let now := s.clk.toNat
    let (l, k) := x.due ⟨c, tval, x.handlingLevel c x.ctl.priv⟩ now
    match l[8]? with
    | none => s.modView sid fun x => { x with pending := l, dueAt := now, dueLast := k }
    | some d =>
      ((s.modView sid fun x => { x with pending := l.take 8, lost := true, dueAt := now, dueLast := k - 1 }).count
        x.pid .deferLost 1).dieLog (dieOf x.core) 2 d.cause.toNat sid

/-! ## Pool images (R326, R353) -/

/-- The scratchpad and tiles of a core as fields of a pool frame. -/
def State.poolFields (s : State) (core : Nat) : List Field :=
  match (s.core core).part with
  | none => []
  | some p =>
    let S := scratchSize p
    let tile := fun n => Assoc.getD (s.core core).tiles n {}
    let nt := 2 * (p.toNat / 32)
    (0, S, Memory.readN s.mem (Memory.scratchBase core) S)
      :: ((List.range nt).map fun n => (S + 2048 * n, 2048, (tile n).data.toNat))
      ++ ((List.range nt).map fun n => (0x1F000 + n, 1, (tile n).tag.toNat))

/-- The lines that the restore of a pool image reads under a partition word, in order (R326, R353). -/
def poolLines (part : BitVec 10) (base : Nat) : List Nat :=
  let nt := 2 * (part.toNat / 32)
  linesIn base (scratchSize part + 2048 * nt) ++ linesIn (base + 0x1F000) nt

/-- Bytes of the context image of a class (R324). -/
def Cls.image : Cls → Nat
  | .light => 0x40
  | .scalar => 0x140
  | .full => 0x1300

/-- The lines that the load of a frame reads: the image of the class, then the state record (R324, R325). -/
def Cls.lines (cls : Cls) (base : Nat) : List Nat := linesIn base cls.image ++ linesIn (base + 0x1300) 0x400

/-- A pool image is restored to a core over whatever it holds (R326, R328), from memory as the resume reads it; errors that
stood in the core's scratchpad and tiles are written over. -/
def State.restorePool (s : State) (m : Memory) (core base : Nat) : State :=
  match (s.core core).part with
  | none => s
  | some p =>
    let S := scratchSize p
    let nt := 2 * (p.toNat / 32)
    let tiles := (List.range nt).map fun n =>
      (n, ({ data := BitVec.ofNat 16384 (Memory.readN m (base + S + 2048 * n) 2048)
             tag := BitVec.ofNat 4 (Memory.readN m (base + 0x1F000 + n) 1) } : Tile))
    let own := fun (a : Nat) => decide (Memory.scratchBase core ≤ a) && decide (a < Memory.scratchBase core + S)
    { s with
      mem := Memory.writeN s.mem (Memory.scratchBase core) (Memory.readN m base S) S
      poison := s.poison.filter fun a => !own a }.modCore core fun c => { c with tiles := tiles, badTiles := [] }

end Sys2Proof.Machine
end

