-- ==== Sys2Proof/Machine/Place.lean ====
section
/-!
DEFINITION. Where strands are: locations and forwarding (18 R329, 21 R359), contexts and admission (07 R143, R149, 24 R390,
R391), sids and the creation of strands (07 R126 to R129, 09 R176).
-/
namespace Sys2Proof.Machine

/-! ## Locations (R329) -/

/-- Where the hub says a strand is. -/
def Strand.loc (x : Strand) : Loc :=
  match x.place with
  | .resident | .shadow | .cut => .core x.core
  | .queued | .urgentQ => .agent (dieOf x.core)
  | .ring d _ | .agent d => .agent d
  | .saved | .toPlace => .agent x.home

/-- The forwarding entries at a location. -/
def State.fwdsAt (s : State) (l : Loc) : List FwdEntry :=
  match l with
  | .core c => (s.core c).fwd
  | .agent d => (s.die d).fwd

/-- Change the forwarding entries at a location. -/
def State.modFwds (s : State) (l : Loc) (f : List FwdEntry → List FwdEntry) : State :=
  match l with
  | .core c => s.modCore c fun x => { x with fwd := f x.fwd }
  | .agent d => s.modDie d fun x => { x with fwd := f x.fwd }

/-- Where a location forwards a sid to. -/
def State.fwdTo (s : State) (l : Loc) (sid : Nat) : Option Loc := ((s.fwdsAt l).find? (·.sid == sid)).map (·.loc)

/-- Whether a core has a free forwarding entry (R359). -/
def State.fwdRoom (s : State) (core : Nat) : Bool := decide ((s.core core).fwd.length < 16)

/-- A forwarding entry as bight reads it (R359). -/
def FwdEntry.word (e : FwdEntry) : BitVec 128 :=
  let place := match e.loc with
    | .core c => c / 1024 % 16 * 2 ^ 76 + c % 1024 / 4 * 2 ^ 64 + c % 4 * 2 ^ 62
    | .agent d => d % 16 * 2 ^ 76 + 2 ^ 61
  BitVec.ofNat 128 (e.sid % 2 ^ 48 * 2 ^ 80 + place + 2 ^ 60 + e.pend.length % 256 * 2 ^ 48 + e.made % 2 ^ 48)

/-- The dies whose agents cache a sid. -/
def State.told (s : State) (sid : Nat) : List Nat := (List.range 16).filter fun d => (s.die d).cache.any (·.sid == sid)

/-- A strand's location changes (R329): the old location forwards until every agent the hub tells has switched. -/
def State.changeLoc (s : State) (sid : Nat) (old new : Loc) : State :=
  if old = new then s
  else
    let told := s.told sid
    let prev := (((s.fwdsAt old).find? (·.sid == sid)).map (·.pend)).getD []
    let s := s.modFwds old fun l => (l.filter (·.sid != sid)) ++
      (if (prev ++ told).isEmpty then [] else [⟨sid, new, (prev ++ told).eraseDups, s.clk.toNat % 2 ^ 48⟩])
    let s := s.modFwds new fun l => l.filter fun e => e.sid != sid || e.loc != new
    s.modHub fun h => { h with notes := h.notes ++ told.map fun d => ⟨d, sid, old, new⟩ }

/-- One agent has switched, with no further note of the change on its way: the entry it was told of is freed when it was the
last. -/
def State.switched (s : State) (die sid : Nat) (old : Loc) : State :=
  if s.hub.notes.any fun n => n.die == die && n.sid == sid && n.old == old then s
  else s.modFwds old fun l => (l.map fun e => if e.sid = sid then { e with pend := e.pend.erase die } else e).filter fun e =>
    e.sid != sid || !e.pend.isEmpty

/-- An agent with no landing in flight to a sid switches to the location it was last told. -/
def State.settleCache (s : State) (die sid : Nat) : State :=
  match (s.die die).cache.find? (·.sid == sid) with
  | none => s
  | some e =>
    if e.flying ≠ 0 then s
    else match e.next.getLast? with
      | none => s
      | some n =>
        let s := e.next.foldl (fun s p => s.switched die sid p.1) s
        s.modDie die fun d => { d with cache := d.cache.map fun c => if c.sid = sid then { c with loc := n.2, next := [] } else c }

/-- Change a sid's cache entry at an agent. -/
def State.modCache (s : State) (die sid : Nat) (f : CacheEntry → CacheEntry) : State :=
  s.modDie die fun d => { d with cache := d.cache.map fun c => if c.sid = sid then f c else c }

/-- Move a strand to a place on a core, its location following. -/
def State.moveTo (s : State) (sid : Nat) (place : Place) (core : Nat) : State :=
  match s.strand sid with
  | none => s
  | some x =>
    let y := { x with
      place := place, core := core
      left := if dieOf x.core = dieOf core || x.left.contains (dieOf x.core) then x.left else x.left ++ [dieOf x.core] }
    (s.modStrand sid fun _ => y).changeLoc sid x.loc y.loc

/-! ## Contexts (R143, R201) -/

/-- Bytes of a context (R126). -/
def Cls.size : Cls → Nat
  | .light => 64
  | .scalar => 320
  | .full => 4864

/-- Register granules of a partition word (R19). -/
def regg (part : BitVec 10) : Nat := part.toNat % 32

/-- Accumulator granules of a partition word (R19). -/
def accg (part : BitVec 10) : Nat := part.toNat / 32

/-- The strands with a context in a core's register region. -/
def State.inRegion (s : State) (core : Nat) : List Strand :=
  s.all.filter fun x => x.core == core && (x.place == .resident || x.place == .cut)

/-- Free contexts of a class in a core's register region, under a partition word when none is in force. -/
def State.freeCtx (s : State) (core : Nat) (part : BitVec 10) (cls : Cls) : Nat :=
  let p := ((s.core core).part).getD part
  let used := (s.inRegion core).foldl (fun n x => n + x.cls.size) 0
  (4096 * regg p - used) / cls.size

/-- Whether a core may hold a strand of a partition and partition word (R143, R150, R201, R361, R404). -/
def State.eligible (s : State) (p : Nat) (part : BitVec 10) (core : Nat) : Bool :=
  s.inBands p core && !s.isHandlerCore core && !((s.die (dieOf core)).serverMask.getLsbD (core % 1024))
    && (match (s.core core).part with
        | none => true
        | some q => q == part)

/-- Resident light strands of a launch slot on a core. -/
def State.lightOn (s : State) (core slot : Nat) : Nat :=
  ((s.inRegion core).filter fun x => x.cls == .light && sidSlot x.sid.toNat == slot).length

/-- The light-slot limit of a slot's launch, of the bound domain for a Creel task (R149, R156). -/
def State.slotLimit (s : State) (slot : Nat) : Nat := (s.slot slot).slots

/-- Whether a core can take in a light strand of a slot and partition now (R149, R390); `counted` for one that migr still
counts. -/
def State.admits (s : State) (core slot p : Nat) (part : BitVec 10) (counted : Bool) : Bool :=
  decide (s.lightOn core slot < s.slotLimit slot) && decide (0 < s.freeCtx core part .light) && (counted || s.mayAdmit p)
    && (s.isHandlerCore core || match (s.core core).part with
        | none => true
        | some q => q == part)

/-- A strand takes a context on a core (R201, R390): the partition word is in force, the strand is counted. -/
def State.makeResident (s : State) (sid core : Nat) : State :=
  match s.strand sid with
  | none => s
  | some x =>
    let part := (s.slot (sidSlot sid)).part
    let s := s.modCore core fun c => { c with part := match c.part with | some p => some p | none => some part }
    let s := if x.resuming then (s.drain core).modCore core fun c => { c with rcache := [] } else s
    let s := if x.moving then s else s.addResident x.pid
    let s := s.modStrand sid fun x => { x.modCtl fun c => { c with part := ((s.core core).part).getD part } with moving := false, resuming := false }
    (s.moveTo sid .resident core).toBack sid

/-! ## Arrival (R149) -/

/-- Depth of a core's arrival queue: the smallest arrq among the launches with strands resident, else the arrival's own. -/
def State.arrqDepth (s : State) (core slot : Nat) : Nat :=
  match (s.inRegion core).map fun x => (s.slot (sidSlot x.sid.toNat)).arrq with
  | [] => (s.slot slot).arrq
  | d :: t => t.foldl Nat.min d

/-- The overflow ring of a partition on a die. -/
def State.ovf (s : State) (die p : Nat) : RingPos := Assoc.getD (s.die die).ovf p {}

/-- The strands in a partition's overflow ring on a die, by their index there. -/
def State.inRing (s : State) (die p : Nat) : List (Nat × Nat) :=
  s.all.filterMap fun x => match x.place with
    | .ring d i => if d = die ∧ x.pid = p then some (i, x.sid.toNat) else none
    | _ => none

/-- Whether the overflow ring holds its 4,096 strands. -/
def State.ringFull (s : State) (die p : Nat) : Bool := decide (4096 ≤ (s.inRing die p).length)

/-- The index of the next strand in an overflow ring: the first from the tail on whose entry no strand uses. -/
def State.ringNext (s : State) (die p : Nat) : Nat :=
  let used := (s.inRing die p).map fun e => e.1 % 4096
  let tail := (s.ovf die p).tail
  (((List.range 4096).map (tail + ·)).find? fun i => !used.contains (i % 4096)).getD tail

/-- The lowest-index ring strand bound for a core. -/
def State.ringHead (s : State) (core : Nat) : Option (Nat × Nat) :=
  let l := s.all.filterMap fun x => match x.place with
    | .ring _ i => if x.core = core then some (i, x.sid.toNat) else none
    | _ => none
  l.foldl (fun a e => match a with
    | none => some e
    | some b => if e.1 < b.1 then some e else some b) none

/-- The strand bound for a core that has waited longest at its die's agent. -/
def State.agentHead (s : State) (core : Nat) : Option Nat :=
  (s.die (dieOf core)).waiting.find? fun sid => (s.strand sid).any (·.core == core)

/-- Whether a strand of a partition waits at a die's agent. -/
def State.agentHolds (s : State) (die p : Nat) : Bool := (s.die die).waiting.any fun sid => (s.strand sid).any (·.pid == p)

/-- A light strand goes into the overflow ring for a core. -/
def State.toRing (s : State) (sid core : Nat) : State :=
  match s.strand sid with
  | none => s
  | some x =>
    let die := dieOf core
    let i := s.ringNext die x.pid
    let s := s.modDie die fun d => { d with
      ovf := Assoc.modify d.ovf x.pid {} fun r => { r with tail := i + 1 }, waiting := d.waiting.filter (· != sid) }
    (s.unitFields die (s.ovfAddr x.pid die i) (ovfFields x)).moveTo sid (.ring die i) core

/-- A light strand goes into a core's arrival queue. -/
def State.toQueue (s : State) (sid core : Nat) : State :=
  ((s.moveTo sid .queued core).modCore core fun c => { c with arrq := c.arrq ++ [sid] }).modDie (dieOf core) fun d =>
    { d with waiting := d.waiting.filter (· != sid) }

/-- Whether the arrival queue of a core has room for a strand of a slot. -/
def State.arrqRoom (s : State) (core slot : Nat) : Bool := decide ((s.core core).arrq.length < s.arrqDepth core slot)

/-- Whether a newcomer of a slot enters a core's arrival queue: there is room, and no older strand of the core waits. -/
def State.straightIn (s : State) (core slot : Nat) : Bool :=
  s.arrqRoom core slot && (s.ringHead core).isNone && (s.agentHead core).isNone

/-- Whether a newcomer of a partition finds its overflow ring open: not full, and nobody waiting for it. -/
def State.ringOpen (s : State) (die p : Nat) : Bool := !s.ringFull die p && !s.agentHolds die p

/-- Whether a light strand of a slot and partition that reaches a core now can be taken by queue or ring. -/
def State.arriveRoom (s : State) (core slot p : Nat) : Bool := s.straightIn core slot || s.ringOpen (dieOf core) p

/-- A light strand reaches a core (R149): its arrival queue, else the die's overflow ring, else the landing agent; behind
those that came before it. -/
def State.arrive (s : State) (sid core : Nat) : State :=
  match s.strand sid with
  | none => s
  | some x =>
    if s.straightIn core (sidSlot sid) then s.toQueue sid core
    else if s.ringOpen (dieOf core) x.pid then s.toRing sid core
    else (s.moveTo sid (.agent (dieOf core)) core).modDie (dieOf core) fun d => { d with waiting := d.waiting ++ [sid] }

/-- The strands at an agent go into their overflow rings, in arrival order, as long as these have room. -/
def State.fillRings (s : State) (die : Nat) : State :=
  (s.die die).waiting.foldl (fun s sid => match s.strand sid with
    | none => s
    | some x => if s.ringFull die x.pid then s else s.toRing sid x.core) s

/-- A core's arrival queue is refilled from the ring, and the ring from the landing agent (R149). -/
def State.refill (s : State) (core : Nat) : Nat → State
  | 0 => s
  | n + 1 =>
    match s.ringHead core, s.agentHead core with
    | some (_, sid), _ =>
      if s.arrqRoom core (sidSlot sid) then
        match s.viewOf sid with
        | none => s
        | some x => State.refill (((s.modStrand sid fun _ => x).toQueue sid core).fillRings (dieOf core)) core n
      else s
    | none, some sid => if s.arrqRoom core (sidSlot sid) then State.refill (s.toQueue sid core) core n else s
    | none, none => s

/-- Whether a core could take in a strand that has arrived there and waits (R149). -/
def State.admitsWaiting (s : State) (core : Nat) : Bool :=
  s.all.any fun x => x.core == core && (match x.place with
      | .queued | .ring _ _ | .agent _ => true
      | _ => false)
    && s.admits core (sidSlot x.sid.toNat) x.pid (s.slot (sidSlot x.sid.toNat)).part x.moving

/-- A strand leaves its core's arrival queue for a context (R149). -/
def State.seat (s : State) (sid core : Nat) : State :=
  (s.modCore core fun c => { c with arrq := c.arrq.filter (· != sid) }).makeResident sid core

/-! ## Sids and new strands -/

/-- Whether a sid names a live strand. -/
def State.liveSid (s : State) (sid : Nat) : Bool := (s.strand sid).isSome

/-- The next index of a kind in a slot that names no live strand (R128), within as many tries as there are strands. -/
def State.nextIndex (s : State) (gen slot kind : Nat) : Nat → Nat → Nat
  | 0, i => i % 2 ^ 30
  | n + 1, i =>
    if s.liveSid (mkSid gen slot kind i) then State.nextIndex s gen slot kind n ((i + 1) % 2 ^ 30)
    else i % 2 ^ 30

/-- Index counter of a kind. -/
def Slot.counter (l : Slot) (kind : Nat) : Nat := if kind = 1 then l.nSpawn else if kind = 2 then l.nTask else l.nHand

/-- Put an index counter. -/
def Slot.setCounter (l : Slot) (kind n : Nat) : Slot :=
  if kind = 1 then { l with nSpawn := n } else if kind = 2 then { l with nTask := n } else { l with nHand := n }

/-- Take a sid of a kind in a slot, of a generation (R127, R128). -/
def State.takeSid (s : State) (gen slot kind : Nat) : Nat × State :=
  let i := s.nextIndex gen slot kind (s.strands.length + 1) ((s.slot slot).counter kind)
  (mkSid gen slot kind i, s.modSlot slot fun l => l.setCounter kind ((i + 1) % 2 ^ 30))

/-- g1 to gn from a list. -/
def gFile (l : List Word) : Vector Word 32 :=
  (l.zipIdx).foldl (fun g (y, i) => g.setIfInBounds (i + 1) y) (Vector.replicate 32 0)

/-- The top of the private stack (R199). -/
def stackTop : Word := 0x00FF000000040000

/-- A strand of a slot as it is created (R10, R15, R129): registers g1 on from a list, g30 the stack top when it can be
named, the slot's pool word, Creel settings, seed and extent table. It stands at its die's agent until a core takes it. -/
def newStrand (l : Slot) (sid : Nat) (cls : Cls) (core : Nat) (pc : Word) (regs : List Word) : Strand :=
  let g := gFile regs
  { live := true, sid := BitVec.ofNat 48 sid, cls := cls, pid := l.pid, core := core, home := dieOf core, place := .agent (dieOf core)
    pc := pc
    g := if cls = .light then g else g.setIfInBounds 30 stackTop
    ext := l.ext, ctl := { part := l.part, cshift := l.cshift, cbound := l.cbound, seed := l.seed } }

/-- The tiles of a core are zero for a new full strand (R10), which has no exception for a core that another full strand
shares (log 17). -/
def State.zeroTiles (s : State) (core : Nat) : State := s.modCore core fun c => { c with tiles := [], badTiles := [] }

/-- A new strand comes to life: no agent knows an older one of its sid. Its private memory is zero (R199). -/
def State.create (s : State) (x : Strand) : State :=
  let sid := x.sid.toNat
  let s := if x.cls = .full then s.zeroTiles x.core else s
  let s := { s with dies := s.dies.map fun (p : Nat × Die) => (p.1, { p.2 with cache := p.2.cache.filter (·.sid != sid) }) }
  s.addStrand x

/-- The best of a list under a measure, the first of equals. -/
def argmax (l : List Nat) (f : Nat → Nat) : Option Nat :=
  l.foldl (fun a i => match a with
    | none => some i
    | some b => if f b < f i then some i else some b) none

/-- Core numbers of a die. -/
def coresOf (die : Nat) : List Nat := (List.range 1024).map fun i => die * 1024 + i

/-- The core of a die where a strand of a class is placed (R143): most free contexts, lowest number. -/
def State.bestCore (s : State) (die p : Nat) (part : BitVec 10) (cls : Cls) : Option Nat :=
  argmax ((coresOf die).filter fun c => s.eligible p part c && decide (0 < s.freeCtx c part cls)) fun c => s.freeCtx c part cls

/-! ## Resume list (R354) -/

/-- Post runnable sids of a partition on a die while the ring has room; without a list they wait (log 20). -/
def State.postAll (s : State) (die p : Nat) : Nat → State
  | 0 => s
  | n + 1 =>
    let r := s.dieRegs die p
    let base := r.srlist.toNat
    match r.posts with
    | [] => s
    | sid :: rest =>
      if base = 0 then s
      else
        let w := rd s.mem base 0 8
        if (w + 2 ^ 64 - rd s.mem base 8 8) % 2 ^ 64 < 510 then
          let s := s.unitWrite (base + 8 * (2 + w % 510)) sid 8
          let s := s.hubWrite base 8 ((w + 1) % 2 ^ 64)
          State.postAll (s.modDieRegs die p fun r => { r with posts := rest }) die p n
        else s

/-- A sid becomes runnable (R330, R358): its record says so, and it is posted, or reported to bight while it is stopped. -/
def State.runnable (s : State) (sid : Nat) : State :=
  match s.viewOf sid with
  | none => s
  | some x =>
    let s := s.modView sid fun x => x.modFlags fun f => { f with runnable := true }
    if x.flags.stop then s
    else
      let s := s.modDieRegs x.home x.pid fun r => { r with posts := r.posts ++ [sid] }
      s.postAll x.home x.pid ((s.dieRegs x.home x.pid).posts.length)

/-- A saved strand is made ready (R356), its other flags changed by `flags`: while stop is set, it is not placed (R358). -/
def State.makeReady (s : State) (sid : Nat) (flags : StrandFlags → StrandFlags) : State :=
  let s := s.modView sid fun x => x.modFlags fun f => { flags f with runnable := false }
  s.modStrand sid fun x => { x with place := if x.place = .saved then .toPlace else x.place }

/-- Whether a strand's push waits for room (R164, R165). -/
def Strand.pushing (x : Strand) : Bool := match x.wait with
  | some (.cpush _ _ _) => true
  | _ => false

end Sys2Proof.Machine
end

