-- ==== Sys2Proof/Machine/Landing.lean ====
section
/-!
DEFINITION. Landings (07 R152 to R154, 09 R174, R180 to R186, 18 R329 to R331, 22 R363): major 0x37 and the events of a
landing on its way.
-/
namespace Sys2Proof.Machine

/-! ## Register sets (R174) -/

/-- Registers of the g file that can receive landings in a class, as a mask. -/
def gMask : Cls → BitVec 32
  | .light => 0xFE
  | _ => 0xFFFFFFFE

/-- Vector registers that can receive landings in a class. -/
def vMask : Cls → BitVec 16
  | .full => 0xFFFF
  | _ => 0

/-- The selected registers of a register-set word, those outside the class ignored. -/
def setG' (x : Strand) (m : Word) : BitVec 32 := m.setWidth 32 &&& gMask x.cls
def setV' (x : Strand) (m : Word) : BitVec 16 := m.extractLsb' 32 16 &&& vMask x.cls

/-- A register-set word (R174). -/
def setWord (g : BitVec 32) (v : BitVec 16) : Word := (g.setWidth 64) ||| (v.setWidth 64 <<< 32)

/-- arr AND M. -/
def Strand.arrived (x : Strand) (m : Word) : Word := setWord (x.ctl.larr &&& setG' x m) (x.ctl.lvarr &&& setV' x m)

/-- open AND M. -/
def Strand.openIn (x : Strand) (m : Word) : Word := setWord (x.ctl.lmask &&& setG' x m) (x.ctl.lvmask &&& setV' x m)

/-- G[d] := arr AND M; arr := arr AND NOT M (R183). -/
def Strand.consume (x : Strand) (d : BitVec 5) (m : Word) : Strand :=
  (x.setG d (x.arrived m)).modCtl fun c => { c with larr := c.larr &&& ~~~setG' x m, lvarr := c.lvarr &&& ~~~setV' x m }

/-! ## Sending (R181, R329) -/

/-- The sid of a landing address (R152). -/
def landSid (a : Word) : Nat := a.toNat / 2 ^ 16

/-- The selector of a landing address (R152). -/
def landSel (a : Word) : Nat := a.toNat % 256

/-- A landing leaves a core through the agent of its die (R329). -/
def State.sendLanding (s : State) (l : Landing) : State :=
  let d := dieOf l.from_
  let sid := landSid l.addr
  match (s.die d).cache.find? (·.sid == sid) with
  | some e =>
    (s.modCache d sid fun c => { c with flying := c.flying + 1 }).modHub fun h =>
      { h with landings := h.landings ++ [{ l with tgt := e.loc }] }
  | none =>
    match s.strand sid with
    | some x =>
      (s.modDie d fun y => { y with cache := y.cache ++ [{ sid := sid, loc := x.loc, flying := 1 }] }).modHub fun h =>
        { h with landings := h.landings ++ [{ l with tgt := x.loc }] }
    | none => s.modHub fun h => { h with landings := h.landings ++ [{ l with tgt := .agent d }] }

/-- A landing of the strand in issue. -/
def State.landing (s : State) (addr : Word) (isV : Bool) (v : Word) (vec : VReg) : State :=
  s.sendLanding { sender := s.st.sid.toNat, addr := addr, isV := isV, value := v, vec := vec
                  source := if isV then 1 else 0, sent := s.clk.toNat % 2 ^ 32, from_ := s.st.core, pid := s.st.pid
                  tgt := .core s.st.core }

/-- Writes that are performed at package scope before a landing leaves (R227). -/
def State.beforeLanding (s : State) : State := s.flushOf s.st

/-- land (R181). -/
def execLand (iv : BitVec 2) (a b : BitVec 5) (sc : BitVec 4) (s : State) : Out :=
  guarded (infoR (Decode.wLand iv a b sc) iv sc (gs [a, b])) s fun s =>
    .next (s.beforeLanding.landing (s.G a) false (s.G b) {}).retire

/-- land.v (R181): a bit 13 that is set is a reserved field, which decoding refuses. -/
def execLandV (iv : BitVec 2) (a : BitVec 5) (b : BitVec 4) (sc : BitVec 4) (s : State) : Out :=
  guarded (infoR (Decode.wLandV iv a b sc) iv sc (gs [a] ++ vs [b])) s fun s =>
    let y := s.V b
    if y.tag = 0xF then trapOut s 0x20 (BitVec.ofNat 64 (0x100 + b.toNat + 0xF * 2 ^ 16))
    else .next (s.beforeLanding.landing (s.G a) true 0 y).retire

/-- lopen (R183). -/
def execLopen (iv : BitVec 2) (a : BitVec 5) (sc : BitVec 4) (s : State) : Out :=
  guarded (infoR (Decode.wLopen iv a sc) iv sc (gs [a])) s fun s =>
    .next (s.modSt fun x => x.modCtl fun c => { c with
      lmask := c.lmask ||| setG' x (s.G a), lvmask := c.lvmask ||| setV' x (s.G a) }).retire

/-- lclose (R183): arrival bits are kept. -/
def execLclose (iv : BitVec 2) (a : BitVec 5) (sc : BitVec 4) (s : State) : Out :=
  guarded (infoR (Decode.wLclose iv a sc) iv sc (gs [a])) s fun s =>
    .next (s.modSt fun x => x.modCtl fun c => { c with
      lmask := c.lmask &&& ~~~setG' x (s.G a), lvmask := c.lvmask &&& ~~~setV' x (s.G a) }).retire

/-- wait.l (R183). -/
def execWaitL (iv : BitVec 2) (d a : BitVec 5) (sc : BitVec 4) (s : State) : Out :=
  guarded (infoR (Decode.wWaitL iv d a sc) iv sc (gs [d, a])) s fun s =>
    let m := s.G a
    if s.st.arrived m ≠ 0 then .next (s.modSt fun x => x.consume d m).retire
    else if s.st.openIn m = 0 then .next (s.setG d 0).retire
    else .next (s.block (.waitL m))

/-- lclr (R183). -/
def execLclr (iv : BitVec 2) (d a : BitVec 5) (sc : BitVec 4) (s : State) : Out :=
  guarded (infoR (Decode.wLclr iv d a sc) iv sc (gs [d, a])) s fun s =>
    .next (s.modSt fun x => x.consume d (s.G a)).retire

/-- umask (R185): no effect at the urgent level or while the hold is in force. -/
def execUmask (iv : BitVec 2) (sc : BitVec 4) (s : State) : Out :=
  guarded (infoR (Decode.wUmask iv sc) iv sc []) s fun s =>
    .next (if s.st.ctl.urg then s else s.modCore s.st.core fun c => { c with
      umask := match c.umask with
        | some h => some h
        | none => some (s.st.sid.toNat, s.clk) }).retire

/-- A hold that has lasted more than n cycles ends, and the strand that set it is due 0x64 (R148). -/
def State.overrun (s : State) (core n : Nat) : State :=
  match (s.core core).umask with
  | none => s
  | some (sid, t) =>
    if s.clk.toNat < t.toNat + n then s
    else (s.modCore core fun c => { c with umask := none }).deferTo sid 0x64 (BitVec.ofNat 64 (t.toNat % 2 ^ 48))

/-- unmask (R185): the core's hold ends, whichever of its strands set it; one that comes more than 512 cycles after the umask
is too late (R148). -/
def execUnmask (iv : BitVec 2) (sc : BitVec 4) (s : State) : Out :=
  guarded (infoR (Decode.wUnmask iv sc) iv sc []) s fun s =>
    .next (if s.st.ctl.urg then s else (s.overrun s.st.core 513).modCore s.st.core fun c => { c with umask := none }).retire

/-! ## Arriving (R153) -/

/-- The cause for which a live strand refuses a landing, in the order of R153, or none. -/
def Strand.refuses (x : Strand) (l : Landing) : Option (BitVec 8) :=
  let sel := landSel l.addr
  let okSel := if l.isV then 0x40 ≤ sel && sel ≤ 0x4F && x.cls == .full
    else 1 ≤ sel && sel ≤ 0x1F && (x.cls != .light || sel ≤ 7)
  if l.addr.toNat / 2 ^ 8 % 2 ^ 8 ≠ 0 ∨ !okSel then some 0x68
  else
    let n := if l.isV then sel - 0x40 else sel
    let isOpen := if l.isV then x.ctl.lvmask.getLsbD n else x.ctl.lmask.getLsbD n
    let busy := if l.isV then x.ctl.lvarr.getLsbD n else x.ctl.larr.getLsbD n
    if !isOpen then some 0x69 else if busy then some 0x6A else none

/-- A landing is written: the register and its arrival bit. -/
def Strand.land (x : Strand) (l : Landing) : Strand :=
  let n := landSel l.addr % 0x20
  if l.isV then
    (x.setV (BitVec.ofNat 4 n) l.vec).modCtl fun c => { c with lvarr := c.lvarr ||| (1#16 <<< (n % 16)) }
  else (x.setG (BitVec.ofNat 5 n) l.value).modCtl fun c => { c with larr := c.larr ||| (1#32 <<< n) }

/-- Whether a strand waits in wait.l on the register a landing names. -/
def Strand.woken (x : Strand) (l : Landing) : Bool :=
  let n := landSel l.addr % 0x20
  match x.wait with
  | some (.waitL m) => if l.isV then (setV' x m).getLsbD n else (setG' x m).getLsbD n
  | _ => false

/-- A landing is off the list, counted off at its sending agent unless its acknowledgment does that (R329). -/
def State.landed (s : State) (l : Landing) (i : Nat) : State :=
  let s := s.modHub fun h => { h with landings := h.landings.eraseIdx i }
  if l.forwarded then s
  else
    let d := dieOf l.from_
    let sid := landSid l.addr
    (s.modCache d sid fun c => { c with flying := c.flying - 1 }).settleCache d sid

/-- A refusal starts back to the sender (R153, R182). -/
def State.refuse (s : State) (l : Landing) (c : BitVec 8) : State :=
  s.modHub fun h => { h with refusals := h.refusals ++ [⟨l, c⟩] }

/-- The sender field of a delay entry (R364). -/
def senderCode (core : Nat) : BitVec 32 := BitVec.ofNat 32 (core / 1024 + core % 1024 / 4 * 16 + core % 4 * 2 ^ 12)

/-- The transit interval from a send time (R363). -/
def State.transit (s : State) (sent : Nat) : Nat := (s.clk.toNat % 2 ^ 32 + 2 ^ 32 - sent % 2 ^ 32) % 2 ^ 32

/-- The core that finally receives a landing measures it (R363, R364). -/
def State.measureLanding (s : State) (core : Nat) (l : Landing) : State :=
  s.modCore core fun c => { c with delay := addDelay c.delay (senderCode l.from_) 1 0 (s.transit l.sent) 0 0 }

/-- A landing is sent on from where it arrived (R329): it is counted, and the sending agent is told, the first time (R359). -/
def State.forward (s : State) (l : Landing) (i : Nat) (tgt : Loc) : State :=
  let s := if l.forwarded then s else s.count l.pid .landFwd 1
  s.modHub fun h => { h with
    landings := h.landings.set i { l with tgt := tgt, forwarded := true }
    acks := if l.forwarded then h.acks else h.acks ++ [⟨dieOf l.from_, landSid l.addr, tgt⟩] }

/-- Landings of one sender to one register keep their order (R154): no earlier one stands before landing i. -/
def Hub.first (h : Hub) (i : Nat) (l : Landing) : Bool :=
  (h.landings.take i).all fun m => m.sender != l.sender || m.addr != l.addr

/-- The outcome of a landing at a live strand (R153): written, or refused; a strand in wait.l on the bit becomes ready, a
saved one runnable. -/
def State.applyLanding (s : State) (sid : Nat) (x : Strand) (l : Landing) : State :=
  match x.refuses l with
  | some c => s.refuse l c
  | none =>
    let s := s.modView sid fun x => x.land l
    if !x.woken l then s
    else if x.place = .saved then s.runnable sid
    else if x.place = .resident ∨ x.place = .shadow then s.again sid
    else s

/-- LANDING_ARRIVAL (R153, R329, R331): landing i reaches the core it is routed to. -/
def execLandingArrival (i : Nat) (s : State) : Out :=
  match s.hub.landings[i]? with
  | none => .next s
  | some l =>
    match l.tgt with
    | .agent _ => .next s
    | .core c =>
      if !s.hub.first i l then .next s
      else
        let sid := landSid l.addr
        match s.strand sid with
        | none => .next (((s.landed l i).refuse l 0x6B).measureLanding c l)
        | some x =>
          if x.core = c ∧ (x.place = .resident ∨ x.place = .shadow) then
            .next (((s.landed l i).applyLanding sid x l).measureLanding c l)
          else .next (s.forward l i (if x.place = .cut then .agent x.home else (s.fwdTo (.core c) sid).getD x.loc))

/-- LANDING_HELD (R330, R149): landing i reaches the agent it is routed to. One for a strand whose save has not ended
waits there. -/
def execLandingHeld (i : Nat) (s : State) : Out :=
  match s.hub.landings[i]? with
  | none => .next s
  | some l =>
    match l.tgt with
    | .core _ => .next s
    | .agent d =>
      if !s.hub.first i l then .next s
      else
        let sid := landSid l.addr
        match s.strand sid with
        | none => .next ((s.landed l i).refuse l 0x6B)
        | some x =>
          if x.place = .cut ∧ x.home = d then .next s
          else if x.loc = .agent d then .next ((s.landed l i).applyLanding sid (s.view x) l)
          else .next (s.forward l i ((s.fwdTo (.agent d) sid).getD x.loc))

/-- A landing-failure record (R182). -/
def failRecord (r : RefusedLanding) : Nat :=
  r.l.addr.toNat + (if r.l.source = 0 then r.l.value.toNat else 0) * 2 ^ 64 + r.cause.toNat * 2 ^ 128 + r.l.source * 2 ^ 136
    + (if r.l.isV && r.l.source == 1 then r.l.vec.tag.toNat else 0) * 2 ^ 144 + r.l.sent % 2 ^ 32 * 2 ^ 160
    + (if r.l.isV && r.l.source == 1 then r.l.vec.scale.toNat else 0) * 2 ^ 192
    + (if r.l.isV then r.l.vec.data.toNat else if r.l.source = 2 then r.l.value.toNat else 0) * 2 ^ 512

/-- The record of a refusal in the sender's landing-failure queue (R182): whether it was written, and the state. -/
def State.failQueue (s : State) (sid : Nat) (r : RefusedLanding) : Bool × State :=
  let a := Memory.privBase sid
  let w := rd s.mem a 0 8
  if (w + 2 ^ 64 - rd s.mem a 8 8) % 2 ^ 64 < 16 then
    (true, (s.devWrite sid (0x40 + 320 * (w % 16)) 320 (failRecord r)).devWrite sid 0 8 ((w + 1) % 2 ^ 64))
  else (false, s.devWrite sid 0x10 8 ((rd s.mem a 0x10 8 + 1) % 2 ^ 64))

/-- LANDING_REFUSAL_RETURN (R182, R177): refusal i reaches its sender, in order; a record that is lost, or a clear lmode,
makes a deferred fault. -/
def execLandingRefusalReturn (i : Nat) (s : State) : Out :=
  match s.hub.refusals[i]? with
  | none => .next s
  | some r =>
    if (s.hub.refusals.take i).any (·.l.sender == r.l.sender) then .next s
    else
      let s := s.modHub fun h => { h with refusals := h.refusals.eraseIdx i }
      match s.viewOf r.l.sender with
      | none => .next (s.count r.l.pid .landLost 1)
      | some x =>
        let (ok, s) := s.failQueue r.l.sender r
        .next (if ok && x.ctl.lmode then s else s.deferTo r.l.sender r.cause r.l.addr)

/-- FORWARD_ACK (R329). -/
def execForwardAck (i : Nat) (s : State) : Out :=
  match s.hub.acks[i]? with
  | none => .next s
  | some a =>
    let s := s.modHub fun h => { h with acks := h.acks.eraseIdx i }
    .next ((s.modCache a.die a.sid fun c => { c with flying := c.flying - 1 }).settleCache a.die a.sid)

/-- LOCATION_UPDATE (R329): the notes of one sid reach an agent in order. -/
def execLocationUpdate (i : Nat) (s : State) : Out :=
  match s.hub.notes[i]? with
  | none => .next s
  | some n =>
    if (s.hub.notes.take i).any fun m => m.die == n.die && m.sid == n.sid then .next s
    else
      let s := s.modHub fun h => { h with notes := h.notes.eraseIdx i }
      if (s.die n.die).cache.any (·.sid == n.sid) then
        .next ((s.modCache n.die n.sid fun c => { c with next := c.next ++ [(n.old, n.new)] }).settleCache n.die n.sid)
      else .next (s.switched n.die n.sid n.old)

end Sys2Proof.Machine
end

