-- ==== Sys2Proof/Machine/Barrier.lean ====
section
/-!
DEFINITION. Barriers and gangs (09 R187 to R191, 22 R381, R382): major 0x38 and the events of pod barriers.
-/
namespace Sys2Proof.Machine

/-! ## Contexts (R130, R188) -/

/-- A pod-group entry (R381). -/
def State.podGroup (s : State) (p c : Nat) : Word := s.cfg p (0xD00 + 8 * c)
def State.podEn (s : State) (p c : Nat) : Bool := (s.podGroup p c).getLsbD 63
def State.podRoot (s : State) (p c : Nat) : Bool := (s.podGroup p c).getLsbD 62
def State.podParent (s : State) (p c : Nat) : Nat := (s.podGroup p c).toNat / 2 ^ 44 % 4096
/-- The children of this device in a group: the destinations of the transmit entry it names. -/
def State.podKids (s : State) (p c : Nat) : List Nat :=
  let w := (s.podGroup p c).toNat / 2 ^ 8 % 256
  if (s.podGroup p c).getLsbD 61 then [] else (List.range (s.txDests p w)).map fun j => (s.txDest p w j).1

/-- A control flit goes down the tree of a group, to every child. -/
def State.sendDown (s : State) (p c : Nat) (body : Control) : State :=
  (s.podKids p c).foldl (fun s d => s.sendControl p d body) s

/-- The context that a strand's barrier of a scope and number names, over the package; none outside the allotment. -/
def State.barCtx (s : State) (x : Strand) (scope : Scope) (c : Nat) : Option Nat :=
  match scope with
  | .quad => if c = 0 then some (2 * quadOf x.core + (if s.splitOf x.pid x.core then halfOf x.core else 0)) else none
  | .die => if c < 16 ∧ (s.cfg x.pid 0x20).getLsbD c then some (16 * dieOf x.core + c) else none
  | .pkg => if (s.cfg x.pid 0x28).getLsbD c then some c else none
  | .pod => if c < 16 ∧ s.podEn x.pid c then some (16 * x.pid + c) else none
  | .core => none

/-- The pod episode of a context. -/
def State.pod (s : State) (ctx : Nat) : PodEpisode := Assoc.getD (s.part (ctx / 16)).pods (ctx % 16) {}

/-- Change a pod episode. -/
def State.modPod (s : State) (ctx : Nat) (f : PodEpisode → PodEpisode) : State :=
  s.modPart (ctx / 16) fun p => { p with pods := Assoc.modify p.pods (ctx % 16) {} f }

/-- The episode of a context: none is open while N is 0. -/
def State.episode (s : State) (scope : Scope) (ctx : Nat) : Episode :=
  match scope with
  | .quad => if ctx % 2 = 0 then (s.quad (ctx / 2)).wired0 else (s.quad (ctx / 2)).wired1
  | .die => Assoc.getD (s.die (ctx / 16)).bars (ctx % 16) {}
  | .pkg => Assoc.getD s.hub.pkgBars ctx {}
  | .pod => (s.pod ctx).ep
  | .core => {}

/-- Put the episode of a context. -/
def State.setEpisode (s : State) (scope : Scope) (ctx : Nat) (e : Episode) : State :=
  match scope with
  | .quad => s.modQuad (ctx / 2) fun q => if ctx % 2 = 0 then { q with wired0 := e } else { q with wired1 := e }
  | .die => s.modDie (ctx / 16) fun d => { d with bars := Assoc.set d.bars (ctx % 16) e }
  | .pkg => s.modHub fun h => { h with pkgBars := Assoc.set h.pkgBars ctx e }
  | .pod => s.modPod ctx fun p => { p with ep := e }
  | .core => s

/-! ## Release -/

/-- A participant's bar completes: the value of a bmax is written, the unit ends. -/
def Strand.pass (x : Strand) (k : Counted) (v : Word) : Strand :=
  { (match k.d with | some d => x.setG d v | none => x).finish with counted := none }

/-- One participant is released (R191): where it waits, its bar completes, in its saved context too; one that a trap took
away completes when it executes the bar again. -/
def State.releaseOne (s : State) (scope : Scope) (ctx : Nat) (v : Word) (sid : Nat) : State :=
  match s.strand sid with
  | none => s
  | some x =>
    match x.counted with
    | none => s
    | some k =>
      if k.scope = scope ∧ k.ctx = ctx ∧ k.result = none then
        match x.wait with
        | some (.barrier _ _ _) => (s.modView sid fun x => x.pass k v).toBack sid
        | _ => s.modStrand sid fun x => { x with counted := some { k with result := some v } }
      else s

/-- Every participant of a context's episode is released, and the context is free (R188). -/
def State.releaseBar (s : State) (scope : Scope) (ctx : Nat) (v : Word) : State :=
  let e := s.episode scope ctx
  e.sids.foldl (fun s sid => s.releaseOne scope ctx v sid) (s.setEpisode scope ctx {})

/-- A pod episode ends on this device: its participants are released, and the release goes down the tree (R382). -/
def State.releasePod (s : State) (ctx : Nat) (v : BitVec 32) : State :=
  ((s.releaseBar .pod ctx (v.setWidth 64)).modPod ctx fun q => { last := q.last }).sendDown (ctx / 16) (ctx % 16)
    (.release (ctx % 16) v)

/-- The magnitude an fp32 value offers: a NaN counts as the canonical one, above every number (R189). -/
def magnitude (y : Word) : BitVec 32 :=
  let m := y.setWidth 32 &&& 0x7FFFFFFF#32
  if m.toNat > 0x7F800000 then 0x7FC00000 else m

/-- The larger magnitude. -/
def maxMag (a b : BitVec 32) : BitVec 32 := if a.toNat < b.toNat then b else a

/-- Whether every landing a strand has sent has been written or refused (R229). -/
def State.landingsDone (s : State) (sid : Nat) : Bool := s.hub.landings.all fun l => l.sender != sid

/-- Earlier writes are performed at the scope of a barrier (R229), those from dies the strand has left at every scope (R230). -/
def State.beforeBarrier (s : State) (scope : Scope) : State :=
  match scope with
  | .pkg | .pod => s.flushOf s.st
  | _ => s.flushLeft s.st

/-- Count an arrival of the strand in issue, which then waits; the N-th releases all, of a pod at its root (R188, R382). -/
def State.arriveBar (s : State) (scope : Scope) (ctx n : Nat) (isMax : Bool) (d : Option (BitVec 5)) (m : BitVec 32) :
    State :=
  let e := s.episode scope ctx
  let e := { n := n, isMax := isMax, sids := e.sids ++ [s.st.sid.toNat], mag := maxMag e.mag m : Episode }
  let s := (s.modSt fun x => { x with counted := some { head := x.pc, scope := scope, ctx := ctx, d := d } }).block
    (.barrier scope ctx d)
  let s := s.setEpisode scope ctx e
  match scope with
  | .pod =>
    let s := s.modPod ctx fun p => { p with counted := p.counted + 1 }
    if s.podRoot (ctx / 16) (ctx % 16) && (s.pod ctx).counted == n then
      s.releasePod ctx e.mag
    else s
  | _ => if e.sids.length = n then s.releaseBar scope ctx (e.mag.setWidth 64) else s

/-- bar and bmax (R188, R189): an arrival already counted at this unit is not counted again (R191). -/
def barrier (inf : Info) (a : BitVec 5) (scope : Scope) (mx : Option (BitVec 5 × BitVec 5)) (s : State) : Out :=
  guarded inf s fun s =>
    let desc := s.G a
    let fresh : Out :=
      match s.barCtx s.st scope (desc.toNat % 64) with
      | none => trapOut s 0x66 desc
      | some ctx =>
        let n := desc.toNat / 2 ^ 32
        let e := s.episode scope ctx
        if n = 0 ∨ (e.n ≠ 0 ∧ (e.n ≠ n ∨ e.isMax ≠ mx.isSome)) then trapOut s 0x65 desc
        else if !s.landingsDone s.st.sid.toNat then .next s.retry
        else .next ((s.beforeBarrier scope).arriveBar scope ctx n mx.isSome (mx.map (·.1))
          (match mx with | some (_, b) => magnitude (s.G b) | none => 0))
    match s.st.counted with
    | none => fresh
    | some k =>
      if k.head = s.st.pc ∧ k.scope = scope then
        match k.result with
        | some v => .next ((s.modSt fun x =>
            { (match k.d with | some d => x.setG d v | none => x) with counted := none }).retire)
        | none => .next (s.block (.barrier scope k.ctx k.d))
      else fresh

/-! ## Major 0x38 -/

/-- bar.quad. -/
def execBarQuad (iv : BitVec 2) (a : BitVec 5) (sc : BitVec 4) (s : State) : Out :=
  barrier (infoR (Decode.wBarQuad iv a sc) iv sc (gs [a])) a .quad none s

/-- bar.die. -/
def execBarDie (iv : BitVec 2) (a : BitVec 5) (sc : BitVec 4) (s : State) : Out :=
  barrier (infoR (Decode.wBarDie iv a sc) iv sc (gs [a])) a .die none s

/-- bar.pkg. -/
def execBarPkg (iv : BitVec 2) (a : BitVec 5) (sc : BitVec 4) (s : State) : Out :=
  barrier (infoR (Decode.wBarPkg iv a sc) iv sc (gs [a])) a .pkg none s

/-- bar.pod. -/
def execBarPod (iv : BitVec 2) (a : BitVec 5) (sc : BitVec 4) (s : State) : Out :=
  barrier (infoR (Decode.wBarPod iv a sc) iv sc (gs [a])) a .pod none s

/-- bmax.quad. -/
def execBmaxQuad (iv : BitVec 2) (d a b : BitVec 5) (sc : BitVec 4) (s : State) : Out :=
  barrier (infoR (Decode.wBmaxQuad iv d a b sc) iv sc (gs [d, a, b])) a .quad (some (d, b)) s

/-- bmax.die. -/
def execBmaxDie (iv : BitVec 2) (d a b : BitVec 5) (sc : BitVec 4) (s : State) : Out :=
  barrier (infoR (Decode.wBmaxDie iv d a b sc) iv sc (gs [d, a, b])) a .die (some (d, b)) s

/-- bmax.pkg. -/
def execBmaxPkg (iv : BitVec 2) (d a b : BitVec 5) (sc : BitVec 4) (s : State) : Out :=
  barrier (infoR (Decode.wBmaxPkg iv d a b sc) iv sc (gs [d, a, b])) a .pkg (some (d, b)) s

/-- bmax.pod. -/
def execBmaxPod (iv : BitVec 2) (d a b : BitVec 5) (sc : BitVec 4) (s : State) : Out :=
  barrier (infoR (Decode.wBmaxPod iv d a b sc) iv sc (gs [d, a, b])) a .pod (some (d, b)) s

/-- A strand's gang (R151, R190): the resident full strands of its launch in its quad, or half. -/
def State.gangMembers (s : State) (x : Strand) : List Strand :=
  s.all.filter fun y => quadOf y.core == quadOf x.core && (!s.splitOf x.pid x.core || halfOf y.core == halfOf x.core)
    && y.place == .resident && y.cls == .full && sidSlot y.sid.toNat == sidSlot x.sid.toNat

/-- The member bits of a strand's gang (R190): the cores that hold a strand of it. -/
def State.gangBits (s : State) (x : Strand) : BitVec 4 :=
  (s.gangMembers x).foldl (fun m y => m ||| (1#4 <<< (y.core % 4))) 0

/-- The membership word (R190). -/
def State.gangWord (s : State) (x : Strand) : Word :=
  BitVec.ofNat 64 (dieOf x.core * 2 ^ 20 + x.core % 1024 / 4 * 2 ^ 8 + halfOf x.core * 2 ^ 7
    + (s.splitOf x.pid x.core).toNat * 2 ^ 6 + x.core % 4 * 2 ^ 4 + (s.gangBits x).toNat)

/-- gang (R190). -/
def execGang (iv : BitVec 2) (d : BitVec 5) (sc : BitVec 4) (s : State) : Out :=
  guarded (infoR (Decode.wGang iv d sc) iv sc (gs [d])) s fun s => .next (s.setG d (s.gangWord s.st)).retire

/-! ## Pod barrier events (R382) -/

/-- A report of a child is counted (R382): an episode opens with its N and kind; one that differs is discarded, at the root
with a count. -/
def State.takeReport (s : State) (ctx : Nat) (r : PodReport) : State :=
  let p := ctx / 16
  let e := (s.pod ctx).ep
  if e.n ≠ 0 ∧ (e.n ≠ r.n ∨ e.isMax ≠ r.isMax) then (if s.podRoot p (ctx % 16) then s.count p .podBad 1 else s)
  else
    let s := s.modPod ctx fun q => { q with
      counted := q.counted + r.arrivals
      ep := { q.ep with n := r.n, isMax := r.isMax, mag := maxMag q.ep.mag r.mag } }
    if s.podRoot p (ctx % 16) && (s.pod ctx).counted == r.n then s.releasePod ctx (s.pod ctx).ep.mag else s

/-- This device's report of a pod episode: the arrivals since its last one (R382). -/
def PodEpisode.report (q : PodEpisode) : PodReport := ⟨q.counted - q.sent, q.ep.n, q.ep.isMax, q.ep.mag⟩

/-- POD_BARRIER_REPORT: a context (16 · partition + number) takes a child's report, or sends its own to the parent, at most
once every 64 cycles. -/
def execPodBarrierReport (ctx : Nat) (child : Option (FlitHead × PodReport)) (s : State) : Out :=
  let p := ctx / 16
  let c := ctx % 16
  match child with
    | some (h, r) => .next (s.takeControl p h fun s =>
        if s.podEn p c && (s.podKids p c).contains h.src then s.takeReport ctx r else s)
    | none =>
      let q := s.pod ctx
      let due := match q.last with
        | none => true
        | some t => decide (t + 64 ≤ s.clk.toNat)
      if !s.podEn p c || s.podRoot p c || !due || q.counted == q.sent then .next s
      else .next ((s.modPod ctx fun q => { q with sent := q.counted, last := some s.clk.toNat }).sendControl p
        (s.podParent p c) (.report c q.report))

/-- POD_BARRIER_RELEASE: the release of an episode reaches a member from its parent: it releases its participants and passes
the release on. -/
def execPodBarrierRelease (ctx : Nat) (flit : ReleaseFlit) (s : State) : Out :=
  let p := ctx / 16
  let c := ctx % 16
  .next (s.takeControl p flit.head fun s =>
    if !s.podEn p c || s.podRoot p c || flit.head.src != s.podParent p c || (s.pod ctx).ep.n == 0 then s else s.releasePod ctx flit.value)

end Sys2Proof.Machine
end

