-- ==== Sys2Proof/Machine/Control.lean ====
section
/-!
DEFINITION. Control flow (05 R97 to R100): majors 0x1C to 0x1F.
-/
namespace Sys2Proof.Machine

/-- Branch target: (head + 4·V) mod 2^56 (R62, R63, R97). -/
def branchTarget (pc v : Word) : Word := BitVec.ofNat 64 ((pc + 4 * v).toNat % 2 ^ 56)

/-- The condition of bc (R64, R97), signed against zero. -/
def branchHolds (c : BitVec 3) (x : Word) : Bool :=
  match c.toNat with
  | 0 => x == 0
  | 1 => x != 0
  | 2 => decide (x.toInt < 0)
  | 3 => decide (0 ≤ x.toInt)
  | 4 => decide (x.toInt ≤ 0)
  | _ => decide (0 < x.toInt)

/-- The checks of a register jump (R99): the cause, or none. -/
def jumpCause (t : Word) : Option (BitVec 8) :=
  if t.toNat / 2 ^ 60 ≠ 0 then some 0x40 else if t.toNat % 4 ≠ 0 then some 0x43 else none

/-- A register jump (R99): pc := T[55:0]. -/
def jumpTo (t : Word) (s : State) (link : State → State) : Out :=
  match jumpCause t with
  | some c => trapOut s c t
  | none => .next ((link s).retireTo (BitVec.ofNat 64 (t.toNat % 2 ^ 56)))

/-- bc (R97). -/
def execBc (iv : BitVec 2) (a : BitVec 5) (c : BitVec 3) (o : BitVec 16) (s : State) : Out :=
  guarded ((infoJ (Decode.wBc iv a c o) iv (gs [a])).need (decide (c.toNat < 6))) s fun s =>
    .next (if branchHolds c (s.G a) then s.retireTo (branchTarget s.st.pc (immV s.st.hints 16 o.toNat)) else s.retire)

/-- dbnz (R97). -/
def execDbnz (iv : BitVec 2) (a : BitVec 5) (o : BitVec 16) (s : State) : Out :=
  guarded (infoJ (Decode.wDbnz iv a o) iv (gs [a])) s fun s =>
    let y := s.G a - 1
    let t := branchTarget s.st.pc (immV s.st.hints 16 o.toNat)
    .next (if y ≠ 0 then (s.setG a y).retireTo t else (s.setG a y).retire)

/-- b (R98). -/
def execB (iv : BitVec 2) (o : BitVec 24) (s : State) : Out :=
  guarded (infoJ (Decode.wB iv o) iv []) s fun s =>
    .next (s.retireTo (branchTarget s.st.pc (immV s.st.hints 24 o.toNat)))

/-- call (R98): G[31] := the address of the call word + 4. -/
def execCall (iv : BitVec 2) (o : BitVec 24) (s : State) : Out :=
  guarded (infoJ (Decode.wCall iv o) iv [.g 31]) s fun s =>
    .next ((s.setG 31 s.nextPc).retireTo (branchTarget s.st.pc (immV s.st.hints 24 o.toNat)))

/-- jr (R99). -/
def execJr (iv : BitVec 2) (a : BitVec 5) (sc : BitVec 4) (s : State) : Out :=
  guarded (infoR (Decode.wJr iv a sc) iv sc (gs [a])) s fun s => jumpTo (s.G a) s id

/-- jrl (R99): T is read before G[31] is written. -/
def execJrl (iv : BitVec 2) (a : BitVec 5) (sc : BitVec 4) (s : State) : Out :=
  guarded (infoR (Decode.wJrl iv a sc) iv sc [.g a.toNat, .g 31]) s fun s =>
    jumpTo (s.G a) s fun s => s.setG 31 s.nextPc

/-- ret (R99). -/
def execRet (iv : BitVec 2) (sc : BitVec 4) (s : State) : Out :=
  guarded (infoR (Decode.wRet iv sc) iv sc [.g 31]) s fun s => jumpTo (s.G 31) s id

end Sys2Proof.Machine
end

