-- ==== Sys2Proof/Machine/StrandOps.lean ====
section
/-!
DEFINITION. Strands (09 R175 to R179), the urgent level (07 R147, R148), admission (R149), messages (09 R197, 22 R361 to
R364), and the delivery of deferred faults (18 R316): majors 0x36 and 0x3A and their events.
-/
namespace Sys2Proof.Machine

/-- The checks of an entry address (R176). -/
def entryCause (a : Word) : Option (BitVec 8) :=
  if a.toNat / 2 ^ 60 ≠ 0 then some 0x40 else if a.toNat % 4 ≠ 0 then some 0x43 else none

/-- A child of the strand in issue on a core, and its sid (R176). -/
def State.child (s : State) (cls : Cls) (core : Nat) (pc arg : Word) : Nat × State :=
  let x := s.st
  let slot := sidSlot x.sid.toNat
  let (sid, s) := s.takeSid (s.slot slot).gen.toNat slot 1
  let y := newStrand (s.slot slot) sid cls core pc [arg, x.sid.setWidth 64]
  (sid, s.create { y with pid := x.pid, ctl := { y.ctl with laTrap := x.ctl.laTrap, priv := x.ctl.priv } })

/-- The core that takes a spawned full strand (R176): one of the parent's die that already holds strands of its launch. -/
def State.spawnCore (s : State) (x : Strand) : Option Nat :=
  let slot := sidSlot x.sid.toNat
  let part := (s.slot slot).part
  argmax ((coresOf (dieOf x.core)).filter fun c =>
    (s.inRegion c).any (fun y => sidSlot y.sid.toNat == slot) && s.eligible x.pid part c
      && decide (0 < s.freeCtx c part .full)) fun c => s.freeCtx c part .full

/-- spawn (R176). -/
def execSpawn (iv : BitVec 2) (d a b : BitVec 5) (sc : BitVec 4) (s : State) : Out :=
  guarded (infoR (Decode.wSpawn iv d a b sc) iv sc (gs [d, a, b])) s fun s =>
    match entryCause (s.G a) with
    | some c => trapOut s c (s.G a)
    | none =>
      match (if s.mayAdmit s.st.pid then s.spawnCore s.st else none) with
      | none => .next (s.setG d 0).retire
      | some core =>
        let (sid, s) := s.child .full core (s.G a) (s.G b)
        .next ((s.makeResident sid core).setG d (BitVec.ofNat 64 sid)).retire

/-- spawn.l (R176): the child enters the parent's core by R149; while the overflow ring is full, it is tried again. -/
def execSpawnL (iv : BitVec 2) (d a b : BitVec 5) (sc : BitVec 4) (s : State) : Out :=
  guarded (infoR (Decode.wSpawnL iv d a b sc) iv sc (gs [d, a, b])) s fun s =>
    match entryCause (s.G a) with
    | some c => trapOut s c (s.G a)
    | none =>
      let core := s.st.core
      if !s.arriveRoom core (sidSlot s.st.sid.toNat) s.st.pid then .next s.retry
      else
        let (sid, s) := s.child .light core (s.G a) (s.G b)
        .next ((s.arrive sid core).setG d (BitVec.ofNat 64 sid)).retire

/-- exit (R177). -/
def execExit (iv : BitVec 2) (sc : BitVec 4) (s : State) : Out :=
  guarded (infoR (Decode.wExit iv sc) iv sc []) s fun s => .next (s.endStrand s.st.sid.toNat)

/-- yield (R178, R24): the strand goes behind the others, as after every unit. -/
def execYield (iv : BitVec 2) (sc : BitVec 4) (s : State) : Out :=
  guarded (infoR (Decode.wYield iv sc) iv sc []) s fun s => .next s.retire

/-- The physical address that migr names, or the cause that it takes (R179). -/
def migrCheck (x : Strand) (a : Word) : Except (BitVec 8) Nat :=
  if x.cls ≠ .light ∨ x.ctl.urg then .error 0x63
  else if a.toNat / 2 ^ 60 ≠ 0 ∨ winOf a = 0xFF then .error 0x40
  else match coverOf x.ext a with
    | none => .error 0x41
    | some e =>
      let pa := Extent.pbase e + (a.toNat % 2 ^ 56 - Extent.vbase e)
      if Extent.revoked e then .error 0x48
      else if Extent.host e then .error 0x46
      else match spaceOf pa with
        | .fabric => .error (if isPod pa then 0xA1 else 0x42)
        | .config => .error 0x42
        | .host => .error 0x46
        | _ => .ok pa

/-- The owner core of a line (R150): the hash of the address over the cores of its die, the next eligible one upwards. -/
def State.ownerCore (s : State) (x : Strand) (pa : Nat) : Option Nat :=
  let die := s.ownerDie pa
  let h := (pa / 64 % 1024) ^^^ (pa / 65536 % 1024)
  let part := (s.slot (sidSlot x.sid.toNat)).part
  ((List.range 1024).map fun i => die * 1024 + (h + i) % 1024).find? fun c => s.eligible x.pid part c

/-- A strand leaves a core: its hold ends, the launch ran there, an empty core drains (R138, R185, R205). -/
def State.leaveCore (s : State) (sid core : Nat) : State :=
  ((s.dropUmask core sid).noteRan sid core).emptyCore core

/-- Whether a core gives a moved strand a context at once: no strand that came before waits there (R149). -/
def State.admitsMoved (s : State) (x : Strand) (core : Nat) : Bool :=
  let slot := sidSlot x.sid.toNat
  s.straightIn core slot && (s.core core).arrq.isEmpty && s.admits core slot x.pid (s.slot slot).part true

/-- A strand that migr moves reaches its new core: a context, if there is one, so that its new location is the core (R359); else
as any arrival. -/
def State.arriveMoved (s : State) (x : Strand) (core : Nat) : State :=
  if s.admitsMoved x core then s.makeResident x.sid.toNat core else s.arrive x.sid.toNat core

/-- migr (R150, R179). -/
def execMigr (iv : BitVec 2) (a : BitVec 5) (sc : BitVec 4) (s : State) : Out :=
  guarded (infoR (Decode.wMigr iv a sc) iv sc (gs [a])) s fun s =>
    match migrCheck s.st (s.G a) with
    | .error c => trapOut s c (s.G a)
    | .ok pa =>
      match s.ownerCore s.st pa with
      | none => .next s.retire
      | some core =>
        let old := s.st.core
        let sid := s.st.sid.toNat
        if core = old then .next s.retire
        else if !s.landingsDone sid then .next s.retry
        else if !s.fwdRoom old then .next ((s.block .fwdRoom).toBack sid)
        else
          let s := s.retire.modSt fun x => { x.completeAll with moving := true }
          .next ((s.arriveMoved s.st core).leaveCore sid old)

/-! ## The urgent level (R147, R148) -/

/-- Whether a core stands at an instruction boundary. -/
def State.atBoundary (s : State) (core : Nat) : Bool :=
  s.all.all fun x => x.core != core || x.wait.isSome || x.hints.isEmpty || !(x.place == .resident || x.place == .shadow)

/-- Whether no earlier handler of the same sender on the die is still to issue its first word (R197): indices count on in the
order of dispatch (R128). -/
def State.startsInTurn (s : State) (x : Strand) : Bool :=
  match (s.core x.core).times.find? (·.sid == x.sid.toNat) with
  | none => true
  | some t => (List.range (4 * s.hub.handlers)).all fun i =>
      (s.core (dieOf x.core * 1024 + 1023 - i)).times.all fun u =>
        u.first.isSome || u.by_ != t.by_ || u.sid == t.sid
          || decide (2 ^ 29 ≤ (sidIndex t.sid + 2 ^ 30 - sidIndex u.sid) % 2 ^ 30)

/-- The head of a core's urgent queue, if nothing but a boundary is still to come before its entry (R147, R185, R197,
R336, R390). -/
def State.urgentDue (s : State) (core : Nat) : Option Strand :=
  let c := s.core core
  if c.shadow.isSome || c.umask.isSome || (s.die (dieOf core)).halted then none
  else (c.urgent.head?.bind s.strand).filter fun x => s.mayAdmit x.pid && s.startsInTurn x

/-- The head of a core's urgent queue enters its shadow bank at a boundary; the results outstanding on the core are written,
and an await without one, a waita, an xreq, a tag.set and a waiting fence are left as not executed (R147, R68, R256, R306). -/
def State.enterShadow (s : State) (core : Nat) : State :=
  match s.urgentDue core with
  | none => s
  | some x =>
      if !s.atBoundary core then s
      else
        let sid := x.sid.toNat
        let s := s.all.foldl (fun s y => if y.core == core && y.place == .resident then
          s.stopStrand y.sid.toNat (some .withdrawn) else s) s
        let s := s.modCore core fun c => { c with
          urgent := c.urgent.tail, shadow := some sid
          part := match c.part with | some p => some p | none => some x.ctl.part }
        let s := (s.addResident x.pid).modStrand sid fun x => x.modCtl fun k => { k with urg := true }
        (s.moveTo sid .shadow core).toBack sid

/-- URGENT_ENTRY. -/
def execUrgentEntry (core : Nat) (s : State) : Out := .next (s.enterShadow core)

/-- URGENT_MASK_OVERRUN (R148): the hold ends, the waiting urgent strand enters, the fault is due. -/
def execUrgentMaskOverrun (core : Nat) (s : State) : Out :=
  .next (if (s.core core).umask.isNone || decide (s.overrun core 512 = s) then s else (s.overrun core 512).enterShadow core)

/-! ## Messages (R197, R361 to R363) -/

/-- Messages that a die's agent holds or is to receive. -/
def State.msgsFor (s : State) (die : Nat) : Nat := (s.die die).msgs.length + (s.hub.msgs.filter (·.die == die)).length

/-- msg. -/
def execMsg (iv : BitVec 2) (a b : BitVec 5) (sc : BitVec 4) (s : State) : Out :=
  guarded (infoR (Decode.wMsg iv a b sc) iv sc (gs [a, b] ++ gRange 7)) s fun s =>
    match entryCause (s.G a) with
    | some c => trapOut s c (s.G a)
    | none =>
      let x := s.st
      let die := (s.G b).toNat % 16
      if !s.onDie x.pid die then trapOut s 0x6E (s.G b)
      else if s.msgsFor die ≥ 1024 then .next s.retry
      else
        let m : Msg := { sender := x.sid.toNat, pid := x.pid, die := die, pc := s.G a
                         regs := Vector.ofFn fun (i : Fin 7) => s.G (BitVec.ofNat 5 (i.val + 1))
                         ext := x.ext, priv := x.ctl.priv, seed := x.ctl.seed, cshift := x.ctl.cshift, cbound := x.ctl.cbound
                         sent := s.clk.toNat % 2 ^ 32, from_ := x.core }
        .next (s.modHub fun h => { h with msgs := h.msgs ++ [m] }).retire

/-- MESSAGE_ARRIVAL (R362): messages of one sender to one die arrive in send order. -/
def execMessageArrival (i : Nat) (s : State) : Out :=
  match s.hub.msgs[i]? with
  | none => .next s
  | some m =>
    if (s.hub.msgs.take i).any fun n => n.sender == m.sender && n.die == m.die then .next s
    else .next ((s.modHub fun h => { h with msgs := h.msgs.eraseIdx i }).modDie m.die fun d => { d with msgs := d.msgs ++ [m] })

/-- The handler core of a die with the shortest urgent queue, the lowest of equals (R197, R361). -/
def State.handlerCore (s : State) (die : Nat) : Option Nat :=
  let cs := ((List.range (4 * s.hub.handlers)).map fun i => die * 1024 + 1024 - 4 * s.hub.handlers + i).filter fun c =>
    decide ((s.core c).urgent.length < 8)
  argmax cs fun c => 8 - (s.core c).urgent.length

/-- The strand that a message becomes (R197, R361). -/
def msgStrand (m : Msg) (sid core : Nat) (part : BitVec 10) : Strand :=
  { live := true, sid := BitVec.ofNat 48 sid, cls := .light, pid := m.pid, core := core, home := m.die, place := .urgentQ
    pc := m.pc, g := gFile m.regs.toList, ext := m.ext
    ctl := { part := part, cshift := m.cshift, cbound := m.cbound, seed := m.seed, priv := m.priv } }

/-- MESSAGE_DISPATCH (R362, R363, R336): the agent passes its first message to a handler core's urgent queue. -/
def execMessageDispatch (die : Nat) (s : State) : Out :=
  match (s.die die).msgs, s.handlerCore die with
  | m :: rest, some core =>
    if !s.mayAdmit m.pid || (s.die die).halted then .next s
    else
      let (sid, s) := s.takeSid (sidGen m.sender) (sidSlot m.sender) 3
      let s := s.modDie die fun d => { d with msgs := rest }
      let part := ((s.core core).part).getD s.hub.handlerPart
      let s := (s.create (msgStrand m sid core part)).modCore core fun c => { c with
        urgent := c.urgent ++ [sid]
        delay := addDelay c.delay (senderCode m.from_) 0 1 (s.transit m.sent) 0 0
        times := c.times ++ [{ sid := sid, by_ := m.sender, sender := senderCode m.from_, enter := s.clk.toNat }] }
      .next s
  | _, _ => .next s

/-! ## Results and deferred faults -/

/-- LONG_LATENCY_RESULT (R76): the oldest outstanding result returns. -/
def execLongLatencyResult (sid : Nat) (s : State) : Out :=
  .next (s.modStrand sid fun x => match x.inflight with
    | [] => x
    | o :: t => { x.complete o with inflight := t })

/-- Whether a wait is left to take a deferred fault (R316). -/
def Wait.yields : Wait → Bool
  | .waitL _ | .waitA _ _ _ _ | .barrier _ _ _ | .cwait | .await _ _ _ _ | .withdrawn | .room | .fwdRoom => true
  | _ => false

/-- DEFERRED_FAULT_DELIVERY (R316, R321): at a boundary, of a blocked strand too. -/
def execDeferredFaultDelivery (sid : Nat) (s : State) : Out :=
  match s.strand sid with
  | none => .next s
  | some x =>
    let free := match x.wait with
      | none => x.hints.isEmpty
      | some w => w.yields
    if free && x.deliverable && (s.urgentDue x.core).isNone && (x.place == .resident || x.place == .shadow) && !x.flags.stop && x.flags.held.isNone
        && !(s.die (dieOf x.core)).halted then .next (s.focus sid).deliver
    else .next s

end Sys2Proof.Machine
end

