-- ==== Sys2Proof/Machine/Engine.lean ====
section
/-!
DEFINITION. Engine queues, tickets, promises and job records (14 R259 to R269), common to every engine.
-/
namespace Sys2Proof.Machine

/-! ## Tickets and records (R260 to R262) -/

/-- A ticket (R260). -/
def ticketOf (id : BitVec 16) (promise : Nat) : Word := BitVec.ofNat 64 (id.toNat * 2 ^ 48 + promise % 2 ^ 48)

/-- The ticket of an entry that has an id. -/
def Entry.ticket (e : Entry) : Option Word := e.id.map fun i => ticketOf i e.promise

/-- Whether a ticket's promise is reached (R260). -/
def State.promiseReached (s : State) (t : Word) : Bool :=
  decide ((s.clk.toNat % 2 ^ 48 + 2 ^ 48 - t.toNat % 2 ^ 48) % 2 ^ 48 < 2 ^ 47)

/-- The flags field of a status word, [22:16] (R261): sat below tinv. -/
def jobFlags (f : BitVec 7) : Nat := f.toNat % 32 + 32 * (f.getLsbD 6).toNat + 64 * (f.getLsbD 5).toNat

/-- A status word (R261). -/
def JobRec.word (r : JobRec) : Word :=
  BitVec.ofNat 64 (r.ticket.toNat / 2 ^ 48 * 2 ^ 48 + r.late.toNat * 2 ^ 32 + Nat.min r.replays 255 * 2 ^ 24
    + jobFlags r.flags * 2 ^ 16 + r.cause.toNat * 2 ^ 8 + r.state)

/-- Final states (R262). -/
def JobRec.final (r : JobRec) : Bool := r.state == 2 || r.state == 3 || r.state == 4

/-- The place of a ticket's record: each half of a split quad keeps records of its own (R261, R283). -/
def recKey (half : Nat) (t : Word) : Nat := 65536 * half + t.toNat / 2 ^ 48

/-- The record of a ticket in a quad, or in a half of a split one (R262, R283). -/
def Quad.record (q : Quad) (half : Nat) (t : Word) : Option JobRec :=
  match Assoc.get q.recs (recKey half t) with
  | some r => if r.ticket = t then some r else none
  | none => none

/-- The status word a ticket reads as in a quad (R262). -/
def Quad.status (q : Quad) (half : Nat) (t : Word) : Word :=
  match q.record half t with
  | some r => r.word
  | none => BitVec.ofNat 64 (t.toNat / 2 ^ 48 * 2 ^ 48 + 2)

/-- Whether a ticket reads as final in a quad. -/
def Quad.isFinal (q : Quad) (half : Nat) (t : Word) : Bool :=
  match q.record half t with
  | some r => r.final
  | none => true

/-- Change the record of a ticket. -/
def State.modRec (s : State) (quad half : Nat) (t : Word) (f : JobRec → JobRec) : State :=
  s.modQuad quad fun q => match q.record half t with
    | some r => { q with recs := Assoc.set q.recs (recKey half t) (f r) }
    | none => q

/-- Change the record of an entry, if it has one. -/
def State.modJob (s : State) (quad : Nat) (e : Entry) (f : JobRec → JobRec) : State :=
  match e.ticket with
  | some t => s.modRec quad e.half t f
  | none => s

/-- The record of an entry. -/
def State.jobRec (s : State) (quad : Nat) (e : Entry) : Option JobRec := e.ticket.bind ((s.quad quad).record e.half)

/-- Set a late bit, numbered as in the status word (R264). -/
def JobRec.setLate (r : JobRec) (bit : Nat) : JobRec := { r with late := r.late ||| (1#8 <<< (bit - 32)) }

/-- Whether an address lies in the page that moves. -/
def Migration.covers (m : Migration) (a : Nat) : Bool := decide (m.page ≤ a) && decide (a < m.page + 64 * m.lines)

/-- Whether an access of a die to one of some addresses is redirected: its page has moved, and the die's copy of the owner
map does not yet say where (R203, R210). -/
def State.redirected (s : State) (die : Nat) (l : List Nat) : Bool :=
  s.hub.migs.any fun m => m.switched && l.any m.covers
    && s.hub.listed (s.die die).owners m.page != s.hub.listed s.hub.owners m.page

/-- An excusing event of an entry's job (R264): its late bit; the effective promise extends by a free value (log 3). -/
def State.excuseJob (s : State) (quad : Nat) (e : Entry) (bit : Nat) : State :=
  s.takeFree.modJob quad e fun r => { r.setLate bit with eff := r.eff + s.freeNat }

/-- What an engine's access leaves: nothing but an excuse where it would have gone over a link that is retraining (R366). -/
def State.overLink (s : State) (quad : Nat) (e : Entry) (act : State → State) : State :=
  let t := act { s with crossed := false }
  if t.crossed then { s with crossed := false }.excuseJob quad e 37 else t

/-! ## Entering a queue (R259, R263) -/

/-- A cost at the operating point of a core's die (R365): points 0 to 3 are 1.1, 0.99, 0.88, 0.77 GHz. -/
def State.cost (s : State) (core cost : Nat) : Nat :=
  let d := 10 - (s.die (dieOf core)).point.toNat
  (cost * 10 + d - 1) / d

/-- The promise of a new entry of queue n of a core's quad (R263). -/
def State.promise (s : State) (core n cost : Nat) : Nat :=
  Nat.max (s.clk.toNat + 8) ((((s.quad (quadOf core)).queue n).getLast?.map (·.promise)).getD 0) + s.cost core cost

/-- Take an id of a quad and make its record (R260, R261). -/
def State.newRec (s : State) (quad half promise owner : Nat) (queue : Nat) : BitVec 16 × State :=
  let id := (s.quad quad).idc
  let r : JobRec := { ticket := ticketOf id promise, eff := promise, owners := [owner], queue := queue }
  (id, s.modQuad quad fun q => { q with idc := id + 1, recs := Assoc.set q.recs (recKey half r.ticket) r })

/-- Work of the strand in issue enters queue n of its quad: the ticket, if it takes one. -/
def State.submit (s : State) (n cost guard : Nat) (work : Work) (ticketed : Bool) : Word × State :=
  let x := s.st
  let quad := quadOf x.core
  let p := s.promise x.core n cost
  let half := s.matQ x.pid x.core
  let e : Entry := { owner := x.sid.toNat, pid := x.pid, guard := guard, promise := p, work := work, half := half, left := x.left }
  if ticketed then
    let (id, s) := s.newRec quad half p x.sid.toNat n
    (ticketOf id p, s.enqueue quad n { e with id := some id })
  else (0, s.enqueue quad n e)

/-! ## The end of an entry -/

/-- The bank of records that a strand's quad, or its half of a split quad, keeps (R262, R283). -/
def State.bank (s : State) (x : Strand) : Nat := s.matQ x.pid x.core

/-- The status word that a ticket reads as to a strand (R262). -/
def State.jobStatus (s : State) (x : Strand) (t : Word) : Word := (s.quad (quadOf x.core)).status (s.bank x) t

/-- Whether a ticket reads as final to a strand. -/
def State.jobFinal (s : State) (x : Strand) (t : Word) : Bool := (s.quad (quadOf x.core)).isFinal (s.bank x) t

/-- A completion is observed (R216, R226, R311): of a job that the records hold, its reflected stores count toward fence.r
from now on. -/
def State.observe (s : State) (sid quad half : Nat) (t : Word) : State :=
  if ((s.quad quad).record half t).any JobRec.final then
    s.modHub fun h => { h with copies := h.copies.map fun c => if c.sid = sid ∧ c.job = some t then { c with job := none } else c }
  else s

/-- Strands that await a ticket which is final now have their result, which returns within its window (R305, R22). -/
def State.wakeAwaits (s : State) (quad half : Nat) (t : Word) : State :=
  let word := (s.quad quad).status half t
  s.all.foldl (fun s x =>
    match x.wait with
    | some (.await _ d u n) =>
      if u = t ∧ quadOf x.core = quad ∧ s.bank x = half then
        (s.finishWaitLL x.sid.toNat n [.g d.toNat] [.g d word]).observe x.sid.toNat quad half t
      else s
    | _ => s) s

/-- A record becomes final. -/
def State.finalize (s : State) (quad : Nat) (e : Entry) (f : JobRec → JobRec) : State :=
  match e.ticket with
  | none => s
  | some t => (s.modRec quad e.half t f).wakeAwaits quad e.half t

/-- The die that services a job (R265, R336): that of the core a booking fills, which may have been booked again elsewhere. -/
def State.serviceDie (s : State) (quad half : Nat) (t : Word) : Nat :=
  ((s.cores.findSome? fun c => c.2.bookQ.findSome? fun e => match e.work with
    | .booking b => if b.quad = quad ∧ e.half = half ∧ e.ticket = some t then some (dieOf b.core) else none
    | _ => none)).getD (quad / 256)

/-- How long a job's promise has been suspended so far, if it is (R265, R336, R358): its die is halted, or one of its owners
is held at a bight stop. -/
def State.suspension (s : State) (quad half : Nat) (r : JobRec) : Option Nat :=
  let d := s.die (s.serviceDie quad half r.ticket)
  let halt := if d.halted then [s.clk.toNat - d.haltedAt] else []
  let holds := r.owners.filterMap fun sid => (s.strand sid).bind fun x =>
    if x.flags.held.isSome then some (s.clk.toNat - x.flags.heldAt) else none
  match halt ++ holds with
  | [] => none
  | l => some (l.foldl Nat.max 0)

/-- Whether the promise of a ticket, as a strand reads it, is suspended (R265). -/
def State.suspended (s : State) (x : Strand) (t : Word) : Bool :=
  match (s.quad (quadOf x.core)).record (s.bank x) t with
  | some r => (s.suspension (quadOf x.core) (s.bank x) r).isSome
  | none => false

/-- Whether an entry ends after its promise. -/
def State.isLate (s : State) (quad : Nat) (e : Entry) : Bool := match s.jobRec quad e with
  | some r => decide (r.eff + (s.suspension quad e.half r).getD 0 < s.clk.toNat)
  | none => decide (e.promise < s.clk.toNat)

/-- A job that ends while its promise is suspended is excused by the halt (R264, R265). -/
def State.excuseHalt (s : State) (quad : Nat) (e : Entry) : State :=
  match s.jobRec quad e with
  | some r => if (s.suspension quad e.half r).isSome then s.modJob quad e (·.setLate 36) else s
  | none => s

/-- An entry leaves queue n; if its own promise had passed, those behind it are excused (R264). -/
def State.leaveQueue (s : State) (quad n : Nat) (e : Entry) : State :=
  let rest := ((s.quad quad).queue n).erase e
  let s' := s.modQuad quad fun q => q.setQueue n rest
  if e.promise < s.clk.toNat then rest.foldl (fun s x => s.excuseJob quad x 34) s' else s'

/-- A job that ends after its promise has a late bit (R265): die memory or network below the nominal rate, if no other event
excused it. -/
def JobRec.excuse (r : JobRec) (late : Bool) : JobRec := if late && r.late == 0 then r.setLate 37 else r

/-- The entry completes (state 2). -/
def State.completeJob (s : State) (quad n : Nat) (e : Entry) (flags : BitVec 7) : State :=
  let late := s.isLate quad e
  ((s.excuseHalt quad e).leaveQueue quad n e).finalize quad e fun r => { (r.excuse late) with state := 2, flags := r.flags ||| flags }

/-- The entry is discarded (state 3, R269). -/
def State.discardJob (s : State) (quad n : Nat) (e : Entry) : State :=
  (s.leaveQueue quad n e).finalize quad e fun r => { r with state := 3 }

/-- Owners of an entry: every member of a gang job. -/
def State.ownersOf (s : State) (quad : Nat) (e : Entry) : List Nat := match s.jobRec quad e with
  | some r => r.owners
  | none => [e.owner]

/-- Every owner of a failed job of a quad takes the fault, or it is counted (R267). -/
def State.faultOwners (s : State) (quad : Nat) (e : Entry) (owners : List Nat) (cause : BitVec 8) : State :=
  owners.foldl (fun s sid =>
    if s.liveSid sid then s.deferTo sid cause ((e.ticket).getD 0) else s.countQuad e.pid quad e.half .jobLost 1) s

/-- The entry fails (state 4, R267): cause and partial length, the memory a signal entry looks at (R270), the faults. -/
def State.failJob (s : State) (quad n : Nat) (e : Entry) (cause : BitVec 8) (partLen : Nat) : State :=
  let late := s.isLate quad e
  let owners := s.ownersOf quad e
  let s := (s.excuseHalt quad e).leaveQueue quad n e
  let s := s.modQuad quad fun q => { q with fails := owners.foldl (fun l sid =>
    if l.any (fun f => f.1 == sid && f.2.1 == n) then l else l ++ [(sid, n, cause)]) q.fails }
  let s := s.finalize quad e fun r => { (r.excuse late) with state := 4, cause := cause, partLen := partLen }
  s.faultOwners quad e owners cause

/-- Put the head of queue n. -/
def State.setHead (s : State) (quad n : Nat) (e : Entry) : State :=
  s.modQuad quad fun q => q.setQueue n (match q.queue n with
    | [] => []
    | _ :: t => e :: t)

/-! ## Guards (R269) -/

/-- The guard of a strand as a queue head samples it: false once its strand has ended. -/
def State.guardOf (s : State) (sid guard : Nat) : Guard :=
  if guard = 0 then .isTrue
  else match s.viewOf sid with
    | some x => x.Q (BitVec.ofNat 3 guard)
    | none => .isFalse

/-- The guards of a job taken together: discarded if one is false, waiting while one is unresolved. -/
def jointGuard (l : List Guard) : Guard :=
  if l.contains .isFalse then .isFalse else if l.contains .unresolved then .unresolved else .isTrue

/-- Whether a die's engines run: it is neither halted nor shut down. -/
def State.enginesRun (s : State) (quad : Nat) : Bool := !(s.die (quad / 256)).halted && !s.hub.down

/-! ## Scratchpad ends (R295) -/

/-- A scratchpad-window address as an engine end: the core and the offset; none for a reserved bit. -/
def scratchEnd (core : Nat) (va : Word) : Option (Nat × Nat) :=
  let named := va.getLsbD 43
  let c := va.toNat / 2 ^ 40 % 4
  if va.toNat / 2 ^ 60 ≠ 0 ∨ winOf va ≠ 0xFE ∨ va.toNat / 2 ^ 44 % 16 ≠ 0 ∨ va.getLsbD 42 ∨ (!named ∧ c ≠ 0) then none
  else some (if named then core / 4 * 4 + c else core, va.toNat % 2 ^ 40)

end Sys2Proof.Machine
end

