-- ==== Sys2Proof/Machine/Ends.lean ====
section
/-!
DEFINITION. The ends of engine jobs: their checks at issue (14 R267, R271, 15 R294, R295), and what a beat reads and writes
(14 R271, R274, 15 R298, 18 R334).
-/
namespace Sys2Proof.Machine

/-! ## Coverage at issue -/

/-- What covers a byte of an end: a scratchpad by R295, else as for any access. -/
def State.findEnd (s : State) (x : Strand) (va : Word) : Option Target :=
  if winOf va = 0xFE then
    match scratchEnd x.core va with
    | some (c, off) =>
      if off < s.scratchOf c then some ⟨Memory.scratchBase c + off, true, true, false, false, false, false⟩ else none
    | none => none
  else s.find x va

/-- Bytes from an address on that its cover covers: to the end of its window or entry, or to the start of another entry. -/
def State.runLen (s : State) (x : Strand) (va : Word) : Nat :=
  let v := va.toNat % 2 ^ 56
  if winOf va = 0xFF then x.privSize - offOf va
  else if winOf va = 0xFE then
    match scratchEnd x.core va with
    | some (c, off) => s.scratchOf c - off
    | none => 0
  else match coverOf x.ext va with
    | none => 0
    | some e => x.ext.toList.foldl (fun n f =>
        if Extent.valid f && decide (v < Extent.vbase f) then Nat.min n (Extent.vbase f - v) else n) (Extent.vbase e + Extent.length e - v)

/-- What covers the bytes of a range, piece by piece, its uncovered parts left out. -/
def State.covers (s : State) (x : Strand) : Nat → Word → Nat → List Target
  | 0, _, _ => []
  | k + 1, va, n =>
    if n = 0 then []
    else match s.findEnd x va with
      | some t =>
        let m := Nat.min n (s.runLen x va)
        t :: State.covers s x k (va + BitVec.ofNat 64 m) (n - m)
      | none =>
        let v := va.toNat % 2 ^ 56
        let m := x.ext.toList.foldl (fun m f =>
          if Extent.valid f && decide (v < Extent.vbase f) then Nat.min m (Extent.vbase f - v) else m) n
        State.covers s x k (va + BitVec.ofNat 64 m) (n - m)

/-- What covers the bytes of a range: at most as many pieces as entries have edges. -/
def State.rangeTargets (s : State) (x : Strand) (r : Word × Nat) : List Target := s.covers x 40 r.1 r.2

/-- The spaces that the covered bytes of a range lie in. -/
def State.rangeSpaces (s : State) (x : Strand) (r : Word × Nat) : List Space := (s.rangeTargets x r).map Target.space

/-- A piece of an end: its first address, its length, what covers it. -/
structure Piece where
  va  : Word
  len : Nat
  t   : Target

/-- The pieces of a range, or its first byte that nothing covers; at most as many pieces as entries have edges. -/
def State.pieces (s : State) (x : Strand) : Nat → Word → Nat → Except Word (List Piece)
  | 0, va, n => if n = 0 then .ok [] else .error va
  | k + 1, va, n =>
    if n = 0 then .ok []
    else match s.findEnd x va with
      | none => .error va
      | some t =>
        let m := Nat.min n (s.runLen x va)
        match State.pieces s x k (va + BitVec.ofNat 64 m) (n - m) with
        | .ok l => .ok (⟨va, m, t⟩ :: l)
        | .error v => .error v

/-- The pieces of several ranges. -/
def State.piecesOf (s : State) (x : Strand) : List (Word × Nat) → Except Word (List Piece)
  | [] => .ok []
  | (va, n) :: t =>
    match s.pieces x 40 va n with
    | .error v => .error v
    | .ok l => match State.piecesOf s x t with
      | .ok m => .ok (l ++ m)
      | .error v => .error v

/-- An end to be checked: the address that names it, the ranges of its bytes, whether it is a destination. -/
structure EndUse where
  addr   : Word
  ranges : List (Word × Nat)
  write  : Bool

/-- The pieces of every end, or the first byte not covered. -/
def State.endPieces (s : State) (x : Strand) : List EndUse → Except Word (List (EndUse × List Piece))
  | [] => .ok []
  | e :: t =>
    match s.piecesOf x e.ranges with
    | .error v => .error v
    | .ok l => match State.endPieces s x t with
      | .ok m => .ok ((e, l) :: m)
      | .error v => .error v

/-- The right an end needs. -/
def EndUse.allowed (e : EndUse) (p : Piece) : Bool :=
  (if e.write then p.t.w else p.t.r) && spaceOf p.t.addr != .config

/-- The checks of R294 from coverage on, each made of the source before the destination, then those of fabric space
(R370): the pieces of the ends. -/
def State.endChecks (s : State) (x : Strand) (ends : List EndUse) : Res (List (List Piece)) :=
  match s.endPieces x ends with
  | .error v => .trap s 0x41 v
  | .ok l =>
    match l.find? fun p => p.2.any (·.t.revoked) with
    | some p => .trap s 0x48 p.1.addr
    | none =>
      match l.find? fun p => p.2.any fun q => !p.1.allowed q with
      | some p => .trap s 0x42 p.1.addr
      | none =>
        match l.find? fun p => !p.1.write && p.2.any fun q => spaceOf q.t.addr == .fabric with
        | some p => .trap s 0xA1 p.1.addr
        | none =>
          let ps := (l.map (·.2)).flatten
          match ps.find? fun q => spaceOf q.t.addr == .nothing with
          | some q => .stop (.noStorage q.t.addr)
          | none =>
            match l.findSome? fun p => p.2.findSome? fun q =>
              if spaceOf q.t.addr = .fabric then (s.reflectCheck x.pid q.t.addr q.len).map fun c => (c, p.1.addr) else none with
            | some (c, v) => .trap s c v
            | none => .ok (l.map (·.2)) s

/-- Rank of a piece in the table of costs (R263): scratchpad, own die, other die, fabric, host. -/
def State.rank (s : State) (core : Nat) (p : Piece) : Nat :=
  match p.t.space with
  | .scratch => 0
  | .fabric => 3
  | .host => 4
  | _ =>
    let first := p.t.addr / 65536
    if (List.range ((p.t.addr + p.len - 1) / 65536 - first + 1)).all fun i => s.ownerDie ((first + i) * 65536) == dieOf core
    then 1 else 2

/-- The end of a job at an address that has passed its checks. -/
def endOf (x : Strand) (va : Word) : End :=
  if winOf va = 0xFE then match scratchEnd x.core va with
    | some (c, off) => .scratch c off
    | none => .mem va
  else .mem va

/-! ## Beats -/

/-- The issuing strand as a job's accesses see it: its private memory, the entries as they stood at issue. -/
def jobView (owner : Nat) (ext : Vector (BitVec 256) 16) : Strand := { sid := BitVec.ofNat 48 owner, ext := ext }

/-- Whether an address lies in a range revoked since the issue. -/
def cutBy (cuts : List (Word × Nat)) (va : Word) : Bool :=
  cuts.any fun c => decide (c.1.toNat % 2 ^ 56 ≤ va.toNat % 2 ^ 56) && decide (va.toNat % 2 ^ 56 < c.1.toNat % 2 ^ 56 + c.2)

/-- Where byte i of an end lies, or the cause that fails the job: a revoked range, a lock that differs from the key, poison
on a source. -/
def State.endByte (s : State) (owner : Nat) (ext : Vector (BitVec 256) 16) (cuts : List (Word × Nat)) (write : Bool) (e : End)
    (i : Nat) : Except (BitVec 8) Nat :=
  let src := fun (a : Nat) => if !write && s.poisoned (Memory.line a) then Except.error (0x45 : BitVec 8) else .ok a
  match e with
  | .scratch core off => src (Memory.scratchBase core + off + i)
  | .phys pa => src (pa + i)
  | .landing _ => .ok 0
  | .mem va =>
    let a := va + BitVec.ofNat 64 i
    if cutBy cuts a then .error 0x48
    else match s.find (jobView owner ext) a with
      | none => .error 0x41
      | some t => if t.t && keyOf va != s.lockAt t.addr then .error 0x44 else src t.addr

/-- The addresses of several bytes of an end, or the first cause. -/
def State.endBytes (s : State) (owner : Nat) (ext : Vector (BitVec 256) 16) (cuts : List (Word × Nat)) (write : Bool) (e : End) :
    List Nat → Except (BitVec 8) (List Nat)
  | [] => .ok []
  | i :: t =>
    match s.endByte owner ext cuts write e i with
    | .error c => .error c
    | .ok a => match State.endBytes s owner ext cuts write e t with
      | .ok l => .ok (a :: l)
      | .error c => .error c

/-- The different lines of a list of addresses, in order. -/
def linesOf (l : List Nat) : List Nat := l.foldl (fun acc a => if acc.contains (Memory.line a) then acc else acc ++ [Memory.line a]) []

/-- A poison mark is cleared (R211): a copy job has written the whole line. -/
def State.unpoison (s : State) (line : Nat) : State := { s with poison := s.poison.filter (· != line) }

/-- The bytes of a beat that lie in one line, as a mask and a line of data. -/
def lineOf (line : Nat) (l : List (Nat × Byte)) : Nat × Nat :=
  l.foldl (fun p q =>
    if Memory.line q.1 = line then (p.1 + 2 ^ (q.1 - line), p.2 + q.2.toNat * 2 ^ (8 * (q.1 - line))) else p) (0, 0)

/-- Whether the first n bytes that a job writes, of which the beat at byte i writes those of a list, cover a line of the
list whole. -/
def wholeLine (line i n : Nat) (l : List (Nat × Byte)) : Bool :=
  l.zipIdx.any fun p => Memory.line p.1.1 == line && decide (p.1.1 - line ≤ i + p.2) && decide (i + p.2 - (p.1.1 - line) + 64 ≤ n)

/-- A beat writes bytes at addresses of the model's memory: die memory at its memory side and at package scope (R226), behind
what its strand had written from dies it has left (R220, R230); a scratchpad or host memory directly. A copy job that has written i bytes before clears the poison of a line that it has
covered whole (R211). -/
def State.beatWrite (s : State) (die : Nat) (left : List Nat) (copied : Option Nat) (l : List (Nat × Byte)) : State :=
  (linesOf (l.map (·.1))).foldl (fun s line =>
    let (mask, data) := lineOf line l
    let s := match spaceOf line with
      | .scratch | .host => { s with mem := Memory.writeMask s.mem line data mask 64 }
      | _ => (s.behindDies left line).sideWrite die line mask data
    if copied.any fun i => wholeLine line i (i + l.length) l then s.unpoison line else s) s

/-- A beat reads bytes at addresses: each line is reached at its memory side, behind the strand's own earlier writes. -/
def State.beatReach (s : State) (die : Nat) (left : List Nat) (l : List Nat) : State :=
  (linesOf l).foldl (fun s line => match spaceOf line with
    | .scratch | .host => s
    | _ => (s.behindDies left line).reach die line) s

/-- Cut a list into dwords. -/
def dwords : Nat → List (Nat × Byte) → List (List (Nat × Byte))
  | 0, _ => []
  | n + 1, l => if l.isEmpty then [] else l.take 8 :: dwords n (l.drop 8)

/-- The reflected stores of a beat (R274, R373): one of the whole beat, or one per dword through a permutation window or
where its bytes do not follow one another. -/
def State.reflectStores (s : State) (pid : Nat) (l : List (Nat × Byte)) : List (List (Nat × Byte)) :=
  match l with
  | [] => []
  | (a, _) :: _ =>
    let whole := (l.zipIdx).all fun p => p.1.1 == a + p.2
    if whole && (isPod a || !s.txPerm pid (fabWin a)) then [l] else dwords 8 l

/-- What a beat finds at its destination: written; a wait, for room in the fabric's queue or for a link that is retraining, with
the late bit that excuses it (R264, R366, R376); or a cause. -/
inductive Beat where
  | done (s : State)
  | wait (bit : Nat)
  | fail (c : BitVec 8)

/-- A beat of an entry writes bytes from offset i of its destination on, for a copy job or for another one. -/
def State.beatTo (s : State) (copy : Bool) (die : Nat) (e : Entry) (ext : Vector (BitVec 256) 16) (dst : End) (i : Nat)
    (bytes : List Byte) : Beat :=
  match s.endBytes e.owner ext e.cuts true dst ((List.range bytes.length).map (i + ·)) with
  | .error c => .fail c
  | .ok addrs =>
    let l := addrs.zip bytes
    if addrs.any fun a => spaceOf a == .fabric then
      let stores := s.reflectStores e.pid l
      match stores.findSome? fun w => match w with
        | [] => none
        | (a, _) :: _ => s.reflectCheck e.pid a w.length with
      | some c => .fail c
      | none =>
        if s.reflectFull e.pid then .wait 38
        else .done (stores.foldl (fun s w => match w with
          | [] => s
          | (a, _) :: _ => s.reflect e.owner e.pid a (w.map (·.2)) none e.ticket) s)
    else
      let t := { s with crossed := false }.beatWrite die e.left (if copy then some i else none) l
      if t.crossed then .wait 37 else .done { t with crossed := s.crossed }

/-- Whether an end lies in host memory at byte i. -/
def State.endHost (s : State) (owner : Nat) (ext : Vector (BitVec 256) 16) (e : End) (i : Nat) : Bool :=
  match s.endByte owner ext [] true e i with
  | .ok a => spaceOf a == .host
  | .error _ => false

end Sys2Proof.Machine
end

