-- ==== Sys2Proof/Machine/CopyJob.lean ====
section
/-!
DEFINITION. The copy unit (14 R271 to R276, 15 R296 to R298): cp, the start of a copy job, its beats, its completion.
-/
namespace Sys2Proof.Machine

/-! ## cp: major 0x30 -/

/-- What a control word asks for under a qualifier (R296). -/
structure CopyArgs where
  qual : CopyQual
  /-- Source length; under .t8 and .t16 the length of the copy. -/
  len  : Nat
  /-- Bytes written to the destination. -/
  out  : Nat
  ok   : Bool
  /-- One qualifier at most: the control word has a layout. -/
  known : Bool := true

/-- The control word of cp under the copy group m of its modifier: 8 .l, 4 .t8, 2 .t16, 1 .dz (R70, R296). -/
def copyArgs (m : Nat) (ctl : Word) : CopyArgs :=
  let w := ctl.toNat
  if m = 4 ∨ m = 2 then
    let z := if m = 4 then 1 else 2
    let pitch := w / 2 ^ 16 % 2 ^ 32
    let c := w / 2 ^ 8 % 2 ^ 7
    let r := w % 2 ^ 7
    { qual := .transpose z pitch c r, len := r * c * z, out := r * c * z
      ok := decide (w / 2 ^ 48 = 0) && !ctl.getLsbD 15 && !ctl.getLsbD 7 && decide (1 ≤ c) && decide (c ≤ 64) && decide (1 ≤ r)
        && decide (r ≤ 64) && decide (pitch % z = 0) && decide (c * z ≤ pitch) }
  else if m = 1 then
    let len := w % 2 ^ 24
    let n := w / 2 ^ 24 % 2 ^ 18
    { qual := .entropy (w / 2 ^ 42 % 2 ^ 11) n, len := len, out := n
      ok := decide (w / 2 ^ 53 = 0) && decide (1 ≤ n) && decide (n ≤ 2 ^ 17) && decide (8 ≤ len) && decide (len ≤ 2 ^ 24 - 8) }
  else
    let len := w % 2 ^ 33
    { qual := if m = 8 then .land else .plain, len := len, out := len
      known := decide (m = 0 ∨ m = 8)
      ok := decide (m = 0 ∨ m = 8) && decide (w / 2 ^ 33 = 0) && decide (8 ≤ len) && decide (len ≤ if m = 8 then 64 else 2 ^ 32) }

/-- Whether a length is off its alignment (R294): the transposing forms name none, and a pair of qualifiers none at all. -/
def CopyArgs.misaligned (c : CopyArgs) : Bool := c.known && match c.qual with
  | .transpose _ _ _ _ => false
  | _ => c.len % 8 != 0

/-- What an end at an address is, if anything covers it. -/
def State.endSpace (s : State) (x : Strand) (va : Word) : Option Space := (s.findEnd x va).map Target.space

/-- Whether a byte of some ranges lies in transmit-window space (R297). -/
def State.inWindow (s : State) (x : Strand) (l : List (Word × Nat)) : Bool :=
  l.any fun r => (s.rangeTargets x r).any fun t => spaceOf t.addr == .fabric && !isPod t.addr

/-- Whether a word names a register of a live strand as a landing address does, and nothing covers it as a virtual address
(R152, R297; log 38). -/
def State.isLanding (s : State) (x : Strand) (va : Word) : Bool :=
  let n := va.toNat % 65536
  (s.findEnd x va).isNone && s.liveSid (va.toNat / 65536)
    && (decide (0x01 ≤ n) && decide (n ≤ 0x1F) || decide (0x40 ≤ n) && decide (n ≤ 0x4F))

/-- The source ranges of a copy (R297). -/
def CopyArgs.srcRanges (c : CopyArgs) (src : Word) : List (Word × Nat) := match c.qual with
  | .transpose z pitch cols rows => (List.range rows).map fun r => (src + BitVec.ofNat 64 (r * pitch), cols * z)
  | _ => [(src, c.len)]

/-- The further conditions of R297 on the ends: every covered byte of a transposing copy is of a kind it accepts. -/
def State.copyEndsOk (s : State) (x : Strand) (c : CopyArgs) (src dst : Word) : Bool :=
  let mem := fun (o : Space) => o == .dieMem || o == .priv
  match c.qual with
  | .transpose _ _ _ _ => (c.srcRanges src).all (fun r => (s.rangeSpaces x r).all mem)
      && (s.rangeSpaces x (dst, c.out)).all fun o => mem o || o == .scratch
  | .entropy tab n => match scratchEnd x.core dst with
    | some (core, off) => decide (64 * tab + 256 ≤ s.scratchOf core) && decide (off + n ≤ s.scratchOf core)
    | none => false
  | _ => true

/-- The form of an address as an engine end (R294 row 1, R295). -/
def badEnd (core : Nat) (va : Word) : Bool := va.toNat / 2 ^ 60 != 0 || winOf va == 0xFE && (scratchEnd core va).isNone

/-- Cost by the rank of the slowest end (R263). -/
def rankCost (r beats : Nat) : Nat :=
  if r = 0 then 40 + beats else if r = 1 then 300 + beats else if r = 2 then 600 + 2 * beats
  else if r = 3 then 1400 + 2 * beats else 2500 + 8 * beats

/-- Cost of a copy (R263). -/
def CopyArgs.cost (c : CopyArgs) (rank : Nat) : Nat :=
  let base := rankCost rank ((Nat.max c.len c.out + 63) / 64)
  match c.qual with
  | .land => 400
  | .transpose _ _ _ _ => base + 64
  | .entropy _ n => base + 4 * ((n + 63) / 64)
  | .plain => base

/-- cp (R296, R297): the checks of R294 in its order, then the entry. -/
def execCp (iv : BitVec 2) (d a b : BitVec 5) (q : BitVec 3) (sc : BitVec 4) (s : State) : Out :=
  guarded (infoR (Decode.wCp iv d a b q sc) iv sc (gs [d, a, b] ++ qs [q])) s fun s =>
    let x := s.st
    if s.queueFull x.core 0 then .next s.retry
    else
      let m := modData x.hints / 64 % 16
      let ctl := s.G d
      let src := s.G a
      let dst := s.G b
      let land := m / 8 % 2 == 1
      let c := copyArgs m ctl
      let ends := if land then [src] else [src, dst]
      match ends.find? (badEnd x.core) with
      | some v => trapOut s 0x40 v
      | none =>
        match ends.find? fun v => v.toNat % 8 != 0 with
        | some v => trapOut s 0x43 v
        | none =>
          if c.misaligned then trapOut s 0x43 (BitVec.ofNat 64 c.len)
          else if s.isLanding x src || s.inWindow x (c.srcRanges src) then trapOut s 0x81 src
          else if !c.ok || !s.copyEndsOk x c src dst then trapOut s 0x81 ctl
          else
            let uses := (⟨src, c.srcRanges src, false⟩ : EndUse) :: if land then [] else [⟨dst, [(dst, c.out)], true⟩]
            (s.endChecks x uses).out fun ps s =>
              let rank := ps.flatten.foldl (fun r p => Nat.max r (s.rank x.core p)) 0
              let job : CopyJob := { src := endOf x src, dst := if land then .landing dst else endOf x dst, len := c.len
                                     qual := c.qual, ext := x.ext }
              let (t, s) := s.submit 0 (c.cost rank) q.toNat (.copy job) true
              .next (s.setG d t).retire

/-! ## Entropy decoding (R41, R275, R276) -/

/-- A complete prefix code (R41). -/
def dzTableOk (tab : List Byte) : Bool :=
  let used := (tab.map BitVec.toNat).filter (· != 0)
  used.all (· ≤ 15) && (used == [1] || decide (1 < used.length) && used.foldl (fun n l => n + 2 ^ (15 - l)) 0 == 2 ^ 15)

/-- The canonical codes (R275): width, code, symbol. -/
def dzCodes (tab : List Byte) : List (Nat × Nat × Nat) :=
  ((List.range 15).foldl (fun p i =>
    let q := (tab.zipIdx).foldl (fun p y =>
      if y.1.toNat = i + 1 then (p.1 + 1, p.2 ++ [(i + 1, p.1, y.2)]) else p) p
    (2 * q.1, q.2)) ((0, []) : Nat × List (Nat × Nat × Nat))).2

/-- The byte a job reads at offset i of its source. -/
def State.jobByte (s : State) (e : Entry) (c : CopyJob) (i : Nat) : Except (BitVec 8) Byte :=
  match s.endByte e.owner c.ext e.cuts false c.src i with
  | .error x => .error x
  | .ok a => .ok (match c.snap with
    | some l => l.getD i 0
    | none => Memory.read s.mem a)

/-- One symbol from bit pos of a source of len bytes on: the symbol and the bit after it. -/
def dzSymbol (read : Nat → Except (BitVec 8) Byte) (len : Nat) (codes : List (Nat × Nat × Nat)) :
    Nat → Nat → Nat → Nat → Except (BitVec 8) (Nat × Nat)
  | 0, _, _, _ => .error 0x83
  | k + 1, w, code, pos =>
    if pos ≥ 8 * len then .error 0x83
    else match read (pos / 8) with
      | .error x => .error x
      | .ok y =>
        let code := 2 * code + y.toNat / 2 ^ (7 - pos % 8) % 2
        match codes.find? fun p => p.1 == w + 1 && p.2.1 == code with
        | some p => .ok (p.2.2, pos + 1)
        | none =>
          if !codes.any fun p => decide (w + 1 ≤ p.1) && p.2.1 / 2 ^ (p.1 - (w + 1)) == code then .error 0x83
          else dzSymbol read len codes k (w + 1) code (pos + 1)

/-- Up to n symbols from bit pos on: the bytes, the bit after them, the cause that stopped them. -/
def dzRun (read : Nat → Except (BitVec 8) Byte) (len : Nat) (codes : List (Nat × Nat × Nat)) :
    Nat → Nat → List Byte → List Byte × Nat × Option (BitVec 8)
  | 0, pos, acc => (acc, pos, none)
  | n + 1, pos, acc =>
    match dzSymbol read len codes 15 0 0 pos with
    | .error x => (acc, pos, some x)
    | .ok (y, p) => dzRun read len codes n p (acc ++ [BitVec.ofNat 8 y])

/-! ## Beats (R271, R298) -/

/-- Bytes that a job writes, or lands, in all. -/
def CopyJob.out (c : CopyJob) : Nat := match c.qual with
  | .transpose z _ cols rows => rows * cols * z
  | .entropy _ n => n
  | _ => c.len

/-- The source offset of output byte j (R272). -/
def CopyJob.srcOff (c : CopyJob) (j : Nat) : Nat := match c.qual with
  | .transpose z pitch _ rows => j / z % rows * pitch + j / z / rows * z + j % z
  | _ => j

/-- The job's own write into a scratchpad that is its source as well: later beats read it (R298). -/
def CopyJob.wrote (c : CopyJob) (i : Nat) (bytes : List Byte) : CopyJob :=
  match c.snap, c.src, c.dst with
  | some l, .scratch k o, .scratch k' o' =>
    if k = k' then { c with snap := some ((l.zipIdx).map fun p =>
      let j := o + p.2
      if o' + i ≤ j ∧ j < o' + i + bytes.length then bytes.getD (j - (o' + i)) 0 else p.1) }
    else c
  | _, _, _ => c

/-- A copy job as it starts (R202, R275): its source in a scratchpad as it stands, its table; or the cause that fails it. -/
def State.copyStart (s : State) (c : CopyJob) : Except (BitVec 8) CopyJob :=
  let c := match c.src with
    | .scratch k off => { c with snap := some (Memory.bytes s.mem (Memory.scratchBase k + off) c.len) }
    | _ => c
  match c.qual, c.dst with
  | .entropy tab _, .scratch k _ =>
    let base := Memory.scratchBase k + 64 * tab
    if (List.range 4).any fun i => s.poisoned (base + 64 * i) then .error 0x45
    else
      let t := Memory.bytes s.mem base 256
      if dzTableOk t then .ok { c with table := t } else .error 0x83
  | _, _ => .ok c

/-- The core a quad's engine acts from for a strand: its own while it is in the quad. -/
def State.jobCore (s : State) (quad sid : Nat) : Nat := match s.strand sid with
  | some x => if quadOf x.core = quad then x.core else 4 * quad
  | none => 4 * quad

/-- The landing address of the register with selector + j (R273): a selector beyond the field stays one that names no
register (log 32). -/
def landAt (la : Word) (j : Nat) : Word := la &&& ~~~0xFFFF#64 ||| BitVec.ofNat 64 (Nat.min (la.toNat % 65536 + j) 65535)

/-- The landing of dword j of a job under .l (R273). -/
def State.jobLanding (s : State) (quad : Nat) (e : Entry) (la : Word) (bytes : List Byte) (j : Nat) : Landing :=
  { sender := e.owner, addr := landAt la j, isV := false
    value := BitVec.ofNat 64 (bytesNat ((bytes.drop (8 * j)).take 8)), vec := {}, source := 2
    sent := s.clk.toNat % 2 ^ 32, from_ := s.jobCore quad e.owner, pid := e.pid, tgt := .core (s.jobCore quad e.owner)
    job := e.ticket.map fun t => (quad, t) }

/-- A beat that a page migration redirects excuses its job (R264). -/
def State.excuseRedirect (s : State) (quad : Nat) (e : Entry) (l : Except (BitVec 8) (List Nat)) : State :=
  match l with
  | .ok a => if s.redirected (quad / 256) a then s.excuseJob quad e 37 else s
  | .error _ => s

/-- One beat of a running copy job. -/
def State.copyBeat (s : State) (quad : Nat) (e : Entry) (c : CopyJob) (hostError : Bool) : State :=
  let die := quad / 256
  let k := Nat.min 64 (c.out - c.done)
  let put := fun (s : State) (c : CopyJob) => s.setHead quad 0 { e with work := .copy c }
  let srcHost := s.endHost e.owner c.ext c.src (c.srcOff c.done)
  let dstHost := match c.qual with
    | .land => false
    | _ => s.endHost e.owner c.ext c.dst c.done
  if hostError && (srcHost || dstHost) then s.failJob quad 0 e 0x85 c.done
  else
    let write := fun (s : State) (c : CopyJob) (bytes : List Byte) (cause : Option (BitVec 8)) =>
      match s.beatTo true die e c.ext c.dst c.done bytes with
      | .wait bit => s.excuseJob quad e bit
      | .fail x => s.failJob quad 0 e x c.done
      | .done s' =>
        let s' := s'.excuseRedirect quad e (s.endBytes e.owner c.ext e.cuts true c.dst ((List.range bytes.length).map (c.done + ·)))
        let c := { c.wrote c.done bytes with done := c.done + bytes.length }
        match cause with
        | none => put s' c
        | some x => (put s' c).failJob quad 0 { e with work := .copy c } x c.done
    match c.qual with
    | .entropy _ _ =>
      let s := (die :: e.left).foldl State.flushPaths s
      let (bytes, pos, cause) := dzRun (s.jobByte e c) c.len (dzCodes c.table) k c.pos []
      let read := (List.range ((pos + 7) / 8 - c.pos / 8)).map (c.pos / 8 + ·)
      let l := s.endBytes e.owner c.ext e.cuts false c.src read
      let s := match l with
        | .ok a => s.countLines die (linesOf a)
        | .error _ => s
      let s := s.excuseRedirect quad e l
      match cause with
      | some x => if x = 0x83 then write s c bytes (some x) else s.failJob quad 0 e x c.done
      | none => write s { c with pos := pos } bytes none
    | _ =>
      let offs := (List.range k).map fun i => c.srcOff (c.done + i)
      match s.endBytes e.owner c.ext e.cuts false c.src offs with
      | .error x => s.failJob quad 0 e x c.done
      | .ok addrs =>
        let s := (s.beatReach die e.left addrs).excuseRedirect quad e (.ok addrs)
        let bytes := match c.snap with
          | some l => offs.map fun o => l.getD o 0
          | none => addrs.map (Memory.read s.mem)
        match c.qual, c.dst with
        | .land, .landing la =>
          if landSid la = e.owner then put s { c with table := bytes, done := c.len }
          else
            let s := (die :: e.left).foldl State.flushPaths s
            let s := (List.range (c.len / 8)).foldl (fun s j => s.sendLanding (s.jobLanding quad e la bytes j)) s
            put s { c with done := c.len }
        | _, _ => write s c bytes none

/-- COPY_BEAT: the running copy job of a quad performs its next beat; a request of a partition that no longer has the quad is
refused and counted, as a miss (R394). -/
def execCopyBeat (quad : Nat) (hostError : Bool) (s : State) : Out :=
  match (s.quad quad).copyQ with
  | [] => .next s
  | e :: _ =>
    match e.work with
    | .copy c =>
      if e.started && !e.held && s.enginesRun quad && decide (c.done < c.out) then
        .next (if s.outside e.pid quad then (s.deny e.pid).failJob quad 0 e 0x41 c.done
          else s.overLink quad e fun s => s.copyBeat quad e c hostError)
      else .next s
    | _ => .next s

/-! ## Completion -/

/-- Whether every register of a job under .l has been written or refused (R273); one that lands in the issuing strand waits
for its save to end. -/
def State.copyDone (s : State) (quad : Nat) (e : Entry) (c : CopyJob) : Bool :=
  decide (c.out ≤ c.done) && match c.qual, c.dst with
    | .land, .landing la =>
      if landSid la = e.owner then (match s.strand e.owner with
        | some x => x.place != .cut
        | none => true)
      else s.hub.landings.all fun l => l.job != e.ticket.map fun t => (quad, t)
    | _, _ => true

/-- Registers of the issuing strand itself are written together at completion (R273), and measured unless they are held
(R363). -/
def State.selfLand (s : State) (quad : Nat) (e : Entry) (c : CopyJob) : State :=
  match c.qual, c.dst with
  | .land, .landing la =>
    if landSid la = e.owner then (List.range (c.len / 8)).foldl (fun s j =>
      let l := s.jobLanding quad e la c.table j
      match s.viewOf e.owner with
      | some x =>
        let s := s.applyLanding e.owner x l
        if x.place == .saved || x.place == .toPlace then s else s.measureLanding x.core l
      | none => s.refuse l 0x6B) s
    else s
  | _, _ => s

/-- A copy job completes. -/
def State.copyComplete (s : State) (quad : Nat) (e : Entry) (c : CopyJob) : State :=
  if s.copyDone quad e c then (s.selfLand quad e c).completeJob quad 0 e 0 else s

end Sys2Proof.Machine
end

