-- ==== Sys2Proof/Machine/Vector.lean ====
section
/-!
DEFINITION. What the vector instructions share (06 R101 to R104, 01 R10 to R14): elements of a register, the mask, the tag
and shape checks, and how a result is written.
-/
namespace Sys2Proof.Machine

/-! ## Elements -/

/-- Element i of w bits (R13, R45). -/
def elem (data w i : Nat) : Nat := data / 2 ^ (w * i) % 2 ^ w

/-- Element width in bits of a tag; the byte for int4, whose unit of mask and address is the byte (R12, R44). -/
def widthOf (t : BitVec 4) : Nat := if t = 12 then 8 else 4 * Wf.tagHalf t

/-- Units of a shape of n elements: bytes of int4, elements otherwise (R12). -/
def unitsOf (t : BitVec 4) (n : Nat) : Nat := if t = 12 then (n + 1) / 2 else n

/-- Rows, columns and elements of the shape (R13). -/
def Strand.rows (x : Strand) : Nat := x.ctl.shp.toNat / 256 + 1
def Strand.cols (x : Strand) : Nat := x.ctl.shp.toNat % 256
def Strand.elems (x : Strand) : Nat := x.rows * x.cols

/-- Units [i, i + n): an active one takes f of its index and of how many active ones precede it, another keeps its old
bits (R102). The bits, and the OR of the flags. -/
def mapUnits (w : Nat) (act : Nat → Bool) (old : Nat) (f : Nat → Nat → Nat × Fl) : Nat → Nat → Nat → Nat × Fl
  | 0, _, _ => (0, 0)
  | n + 1, i, j =>
    if act i then
      let (x, e) := f i j
      let (r, es) := mapUnits w act old f n (i + 1) (j + 1)
      (x % 2 ^ w + 2 ^ w * r, e ||| es)
    else
      let (r, es) := mapUnits w act old f n (i + 1) j
      (elem old w i + 2 ^ w * r, es)

/-- Active units among [i, i + n). -/
def countActive (act : Nat → Bool) : Nat → Nat → Nat
  | 0, _ => 0
  | n + 1, i => (if act i then 1 else 0) + countActive act n (i + 1)

/-- Mask bit i of K[k]. -/
def Strand.active (x : Strand) (k : BitVec 3) (i : Nat) : Bool := (x.K k).getLsbD i

/-- The lowest active index below n, if any (R116). -/
def Strand.lowest (x : Strand) (k : BitVec 3) (n : Nat) : Option Nat := (List.range n).find? (x.active k)

/-! ## Tag classes (R101), lowest tag first -/

def tI : List Nat := [1, 2, 3, 4]
def tF : List Nat := [7, 8, 9]
def tIF : List Nat := [1, 2, 3, 4, 7, 8, 9]
def tIFC : List Nat := [1, 2, 3, 4, 7, 8, 9, 10]
def tAny : List Nat := [0, 1, 2, 3, 4, 5, 6, 7, 8, 9, 10, 11, 12, 13, 14]
def tNo4 : List Nat := [0, 1, 2, 3, 4, 5, 6, 7, 8, 9, 10, 11, 13, 14]

/-! ## Checks of execution -/

/-- A check: the trap it takes, if any. -/
abbrev Check := Option (BitVec 8 × Word)

/-- FORMAT_TAG unless register n carries one of the tags; tag 0xF satisfies none (R11). -/
def Strand.need (x : Strand) (n : BitVec 4) (ok : List Nat) : Check :=
  let t := (x.V n).tag.toNat
  if ok.contains t && t != 15 then none
  else some (0x20, BitVec.ofNat 64 (0x100 + n.toNat + t * 2 ^ 16 + (ok.headD 0) % 16 * 2 ^ 20))

/-- Register n must carry the operating format of register a (R101). -/
def Strand.same (x : Strand) (n a : BitVec 4) : Check := x.need n [(x.V a).tag.toNat]

/-- tval of SHAPE_RANGE (R341): shp, the element size in half-bytes, a row or column index. -/
def Strand.shapeVal (x : Strand) (half index : Nat) : Word :=
  BitVec.ofNat 64 (x.ctl.shp.toNat + half % 256 * 2 ^ 16 + index % 256 * 2 ^ 24)

/-- SHAPE_RANGE unless the shape fits at an element size in half-bytes (R14); vrowb and vcolb name their index (R341). -/
def Strand.fitsAt (x : Strand) (half index : Nat) : Check :=
  if x.elems * half ≤ 512 then none else some (0x21, x.shapeVal half index)

/-- SHAPE_RANGE unless the shape fits, of an instruction without an index. -/
def Strand.fits (x : Strand) (half : Nat) : Check := x.fitsAt half 0

/-- Element size in half-bytes of a register's tag. -/
def Strand.halfOf (x : Strand) (n : BitVec 4) : Nat := Wf.tagHalf (x.V n).tag

/-- A unit's checks, then the first failing check of execution, else the effect. -/
def vguard (inf : Info) (checks : Strand → List Check) (s : State) (body : State → Out) : Out :=
  guarded inf s fun s =>
    match (checks s.st).findSome? id with
    | some (c, t) => trapOut s c t
    | none => body s

/-! ## Writing a result -/

/-- A register of nb bytes of data under a tag; the bytes beyond are zero (R102). -/
def mkVReg (data nb : Nat) (tag : BitVec 4) (scale : Word) : VReg :=
  { data := BitVec.ofNat 2048 (data % 2 ^ (8 * nb)), tag := tag, scale := scale }

/-- The scale field a result takes from va (R101). -/
def keepScale (a : VReg) : Word := if a.tag = 13 ∨ a.tag = 14 then a.scale else 0

/-- The result register of an operation over the units of the shape in format t. -/
def Strand.result (x : Strand) (d : BitVec 4) (k : BitVec 3) (t : BitVec 4) (scale : Word) (f : Nat → Nat → Nat × Fl) :
    VReg × Fl :=
  let n := unitsOf t x.elems
  let w := widthOf t
  let (r, fl) := mapUnits w (x.active k) (x.V d).data.toNat f n 0 0
  (mkVReg r (n * w / 8) t scale, fl)

/-- A vector instruction that writes vd and flags and ends. -/
def State.vwrite (s : State) (d : BitVec 4) (r : VReg × Fl) : Out :=
  .next (s.modSt fun x => (x.setV d r.1).raise r.2).retire

end Sys2Proof.Machine
end

