-- ==== Sys2Proof/Machine/MatrixJob.lean ====
section
/-!
DEFINITION. The matrix array (03 R56, R57, 14 R277 to R283, 15 R299 to R304): the mm forms, the accumulator moves, the start
of a matrix job and its k-groups.
-/
namespace Sys2Proof.Machine

/-! ## Forms (R278) -/

/-- Bytes of an A element. -/
def MForm.size : MForm → Nat
  | .bf16 | .f16 => 2
  | .e4m3 | .e5m2 | .i8 | .tern => 1
  | .f32 => 4
  | .c32 => 8

/-- Bytes of a B group. -/
def MForm.gs : MForm → Nat
  | .bf16 | .f16 => 512
  | .e4m3 | .e5m2 | .i8 => 256
  | .tern => 64
  | .f32 => 1024
  | .c32 => 2048

/-- Cycles per group. -/
def MForm.cycles : MForm → Nat
  | .bf16 | .f16 => 4
  | .e4m3 | .e5m2 | .i8 => 2
  | .tern => 1
  | .f32 => 16
  | .c32 => 64

/-- Tiles of a slice. -/
def MForm.tiles : MForm → Nat
  | .c32 => 4
  | _ => 1

/-- Whether a form may name block scales (R280). -/
def MForm.scales : MForm → Bool
  | .e4m3 | .e5m2 | .i8 | .tern => true
  | _ => false

/-- Whether the elements of A are integers. -/
def MForm.int : MForm → Bool
  | .i8 | .tern => true
  | _ => false

/-- The C tag (R278, R280). -/
def MForm.tag (f : MForm) (sc : Bool) : BitVec 4 :=
  match f with
  | .c32 => 0xA
  | .i8 | .tern => if sc then 0x9 else 0x3
  | _ => 0x9

/-- The format of a floating-point form. -/
def MForm.fmt : MForm → Fmt
  | .bf16 => .b16
  | .f16 => .f16
  | .e4m3 => .e4m3
  | .e5m2 => .e5m2
  | _ => .f32

/-- The form of a code 0 to 7 (R299). -/
def MForm.ofCode : Nat → MForm
  | 0 => .bf16
  | 1 => .f16
  | 2 => .e4m3
  | 3 => .e5m2
  | 4 => .i8
  | 5 => .tern
  | 6 => .f32
  | _ => .c32

/-! ## Unfolding (R281) -/

def unfIh (u : Word) : Nat := u.toNat / 2 ^ 52
def unfIw (u : Word) : Nat := u.toNat / 2 ^ 40 % 4096
def unfCh (u : Word) : Nat := u.toNat / 2 ^ 28 % 4096
def unfKh (u : Word) : Nat := u.toNat / 2 ^ 24 % 16
def unfKw (u : Word) : Nat := u.toNat / 2 ^ 20 % 16
def unfSh (u : Word) : Nat := u.toNat / 2 ^ 17 % 8
def unfSw (u : Word) : Nat := u.toNat / 2 ^ 14 % 8
def unfPh (u : Word) : Nat := u.toNat / 2 ^ 10 % 16
def unfPw (u : Word) : Nat := u.toNat / 2 ^ 6 % 16
def unfDh (u : Word) : Nat := u.toNat / 2 ^ 3 % 8
def unfDw (u : Word) : Nat := u.toNat % 8

/-- The output width or height: Floor((in + 2·pad − dil·(k − 1) − 1) ÷ stride) + 1. -/
def unfOut (i p d k st : Nat) : Int := ((i : Int) + 2 * p - d * ((k : Int) - 1) - 1) / st + 1

def unfOw (u : Word) : Int := unfOut (unfIw u) (unfPw u) (unfDw u) (unfKw u) (unfSw u)
def unfOh (u : Word) : Int := unfOut (unfIh u) (unfPh u) (unfDh u) (unfKh u) (unfSh u)

/-- The checks of R281. -/
def unfOk (u : Word) (k : Nat) : Bool :=
  [unfIh u, unfIw u, unfCh u, unfKh u, unfKw u, unfSh u, unfSw u, unfDh u, unfDw u].all (· != 0)
    && decide (1 ≤ unfOw u) && decide (1 ≤ unfOh u) && k == unfKh u * unfKw u * unfCh u

/-- The element of X that A[r][k] is for an output position q, or none for a zero (R281). -/
def unfIndex (u : Word) (q k : Nat) : Option Nat :=
  let ow := (unfOw u).toNat
  let oy := q / ow
  let ox := q % ow
  let ky := k / (unfKw u * unfCh u)
  let kx := k / unfCh u % unfKw u
  let y := (oy * unfSh u + ky * unfDh u : Int) - unfPh u
  let x := (ox * unfSw u + kx * unfDw u : Int) - unfPw u
  if decide (q < (unfOh u).toNat * ow) && decide (0 ≤ y) && decide (y < unfIh u) && decide (0 ≤ x) && decide (x < unfIw u) then
    some ((y.toNat * unfIw u + x.toNat) * unfCh u + k % unfCh u)
  else none

/-! ## Groups and shares (R277, R301) -/

/-- Number of k-groups. -/
def groupsOf (k : Nat) : Nat := (k + 3) / 4

/-- The core in its quad that supplies B group g: the core whose group it is, or the lowest member for an absent one. -/
def supplier (split : Bool) (half : Nat) (set : BitVec 4) (g : Nat) : Nat :=
  let c := if split then 2 * half + g % 2 else g % 4
  if set.getLsbD c then c else ((List.range 4).find? fun i => set.getLsbD i).getD 0

/-- Number of groups before g that a core supplies. -/
def shareIndex (split : Bool) (half : Nat) (set : BitVec 4) (c g : Nat) : Nat :=
  ((List.range g).filter fun h => supplier split half set h == c).length

/-! ## The job descriptor (R299) -/

/-- Bytes o to o + n - 1 of a descriptor. -/
def descField (d o n : Nat) : Nat := d / 2 ^ (8 * o) % 2 ^ (8 * n)

/-- What a descriptor asks for under the form of its instruction; b 8 is mm.u. -/
structure MatArgs where
  form : MForm
  unf  : Bool
  gid  : Nat
  k    : Nat
  zt   : Nat
  acc  : Bool
  sc   : Bool
  a    : Nat
  b    : Nat
  sa   : Nat
  sb   : Nat
  q0   : Nat
  u    : Word
  /-- No reserved value. -/
  ok   : Bool

/-- Read a descriptor. -/
def matArgs (b d : Nat) : MatArgs :=
  let unf := b == 8
  let uform := descField d 5 1
  let form := if unf then .ofCode (uform % 8) else .ofCode b
  let flags := descField d 6 1
  let sc := flags / 2 % 2 == 1
  let k := descField d 2 2
  let zt := descField d 4 1
  let u : Word := BitVec.ofNat 64 (descField d 0x20 8)
  { form := form, unf := unf, gid := descField d 0 2, k := k, zt := zt, acc := flags % 2 == 1, sc := sc
    a := descField d 0x08 4, b := descField d 0x0C 4, sa := descField d 0x10 4, sb := descField d 0x14 4
    q0 := descField d 0x18 4, u := u
    ok := decide (1 ≤ k) && decide (k ≤ 8192) && decide (zt ≤ 15) && (form != .c32 || zt % 4 == 0)
      && (if unf then decide (uform ≤ 5) else uform == 0) && flags / 4 == 0 && descField d 7 1 == 0
      && (!sc || form.scales) && (sc || descField d 0x10 8 == 0) && (unf || descField d 0x18 4 == 0)
      && descField d 0x1C 4 == 0 && (if unf then unfOk u k else descField d 0x20 8 == 0) && descField d 0x28 24 == 0 }

/-- Bytes from one A row to the next (R277). -/
def MatArgs.rowPitch (m : MatArgs) : Nat := (m.k * m.form.size + 63) / 64 * 64

/-- Scale bytes of a row or column (R280). -/
def scaleLen (k : Nat) : Nat := (k + 31) / 32

/-- Whether every range of a member lies in its scratchpad of S bytes (R300); share is the number of groups it supplies. -/
def MatArgs.inside (m : MatArgs) (S share : Nat) : Bool :=
  (if m.unf then decide (m.a + unfIh m.u * unfIw m.u * unfCh m.u * m.form.size ≤ S)
    else decide (m.a + 7 * m.rowPitch + m.k * m.form.size ≤ S))
    && decide (m.b + share * m.form.gs ≤ S)
    && (!m.sc || decide (m.sa + 8 * scaleLen m.k ≤ S) && decide (m.sb + 64 * scaleLen m.k ≤ S))

/-- The tiles of a slice as named registers. -/
def tilesOf (zt n : Nat) : List RegName := (List.range n).map fun i => .z (zt + i)

/-- A tile of a slice outside the strand's class or part, the lowest: cause and tval (R294). -/
def tileCheck (x : Strand) (zt n : Nat) : Option (BitVec 8 × Word) :=
  ((tilesOf zt n).find? fun r => !x.names r).map fun r => (0x05, r.code)

/-- A waiting entry of a queue that a strand joins (R301): of its gang id, with the strand in the sampled member set, whose core
has not joined; one of the same form before one of another. -/
def State.joinable (s : State) (quad n : Nat) (x : Strand) (m : MatArgs) : Option (Entry × MatJob) :=
  let fits := fun (e : Entry) => match e.work with
    | .matrix j => if !e.started && j.gid.toNat == m.gid && j.sampled.contains x.sid.toNat && j.set.getLsbD (x.core % 4)
          && j.members.all (fun p => p.core != x.core) then some (e, j) else none
    | _ => none
  let l := ((s.quad quad).queue n).filterMap fits
  match l.find? fun p => p.2.form == m.form && p.2.unf == m.unf with
  | some p => some p
  | none => l.head?

/-- The member that a strand's descriptor describes. -/
def MatArgs.member (m : MatArgs) (x : Strand) (guard : Nat) : MatMember :=
  { sid := x.sid.toNat, core := x.core, guard := guard, zt := m.zt, aBase := m.a, bBase := m.b, aScale := m.sa, bScale := m.sb
    q0 := m.q0 }

/-- Whether a joining member disagrees with its gang's job (R282). -/
def MatArgs.differs (m : MatArgs) (j : MatJob) : Bool :=
  m.form != j.form || m.unf != j.unf || m.k != j.k || m.acc != j.acc || m.sc != j.sc || m.u != j.unfold

/-- The waiting entry that an mm would join, if its descriptor can be read (R301). -/
def State.joins (s : State) (b : Nat) (x : Strand) (va : Word) : Option (Entry × MatJob) :=
  match scratchEnd x.core va with
  | none => none
  | some (_, off) =>
    let base := Memory.scratchBase x.core + off
    if va.getLsbD 43 || off % 64 != 0 || decide (s.scratchOf x.core < off + 64) || s.poisoned base then none
    else s.joinable (quadOf x.core) (1 + s.matQ x.pid x.core) x (matArgs b (Memory.readN s.mem base 64))

/-- An mm instruction (R299 to R301); b is its form's code. It needs room in its queue before any check, unless it joins an
entry that stands there (R259, R294; log 38). -/
def matrixJob (b : Nat) (inf : Info) (d a : BitVec 5) (q : BitVec 3) (s : State) : Out :=
  guarded inf s fun s =>
    let x := s.st
    let va := s.G a
    if (s.joins b x va).isNone && s.queueFull x.core (1 + s.matQ x.pid x.core) then .next s.retry
    else if x.cls ≠ .full then trapOut s 0x05 0x400
    else match scratchEnd x.core va with
      | none => trapOut s 0x40 va
      | some (_, off) =>
        if va.getLsbD 43 then trapOut s 0x40 va
        else if off % 64 ≠ 0 then trapOut s 0x43 va
        else
          let S := s.scratchOf x.core
          let base := Memory.scratchBase x.core + off
          if S < off + 64 then trapOut s 0x41 (va + BitVec.ofNat 64 (S - off))
          else if s.poisoned base then trapOut s 0x45 va
          else
            let m := matArgs b (Memory.readN s.mem base 64)
            let quad := quadOf x.core
            let n := 1 + s.matQ x.pid x.core
            let split := s.splitOf x.pid x.core
            let join := s.joinable quad n x m
            let set := match join with
              | some (_, j) => j.set
              | none => s.gangBits x
            let share := shareIndex split (halfOf x.core) set (x.core % 4) (groupsOf m.k)
            if !m.ok || !m.inside S share then trapOut s 0x81 va
            else match tileCheck x m.zt m.form.tiles with
              | some (c, tv) => trapOut s c tv
              | none =>
                let me := m.member x q.toNat
                match join with
                | some (e, j) =>
                  let j' := { j with members := j.members ++ [me], mismatch := j.mismatch || m.differs j }
                  let s := s.modQuad quad fun y => y.setQueue n ((y.queue n).map fun f =>
                    if f = e then { e with work := .matrix j' } else f)
                  let s := s.modJob quad e fun r => { r with owners := r.owners ++ [x.sid.toNat] }
                  .next (s.setG d ((e.ticket).getD 0)).retire
                | none =>
                  let j : MatJob := { gid := BitVec.ofNat 16 m.gid, form := m.form, unf := m.unf, k := m.k, acc := m.acc, sc := m.sc
                                      unfold := m.u, quad := quad, split := split, half := halfOf x.core, set := set, members := [me]
                                      sampled := (s.gangMembers x).map fun y => y.sid.toNat }
                  let (t, s) := s.submit n (64 + groupsOf m.k * m.form.cycles) 0 (.matrix j) true
                  .next (s.setG d t).retire

/-- mm.bf16. -/
def execMmBf16 (iv : BitVec 2) (d a : BitVec 5) (q : BitVec 3) (sc : BitVec 4) (s : State) : Out :=
  matrixJob 0 (infoR (Decode.wMmBf16 iv d a q sc) iv sc (gs [d, a] ++ qs [q])) d a q s

/-- mm.f16. -/
def execMmF16 (iv : BitVec 2) (d a : BitVec 5) (q : BitVec 3) (sc : BitVec 4) (s : State) : Out :=
  matrixJob 1 (infoR (Decode.wMmF16 iv d a q sc) iv sc (gs [d, a] ++ qs [q])) d a q s

/-- mm.e4m3. -/
def execMmE4m3 (iv : BitVec 2) (d a : BitVec 5) (q : BitVec 3) (sc : BitVec 4) (s : State) : Out :=
  matrixJob 2 (infoR (Decode.wMmE4m3 iv d a q sc) iv sc (gs [d, a] ++ qs [q])) d a q s

/-- mm.e5m2. -/
def execMmE5m2 (iv : BitVec 2) (d a : BitVec 5) (q : BitVec 3) (sc : BitVec 4) (s : State) : Out :=
  matrixJob 3 (infoR (Decode.wMmE5m2 iv d a q sc) iv sc (gs [d, a] ++ qs [q])) d a q s

/-- mm.i8. -/
def execMmI8 (iv : BitVec 2) (d a : BitVec 5) (q : BitVec 3) (sc : BitVec 4) (s : State) : Out :=
  matrixJob 4 (infoR (Decode.wMmI8 iv d a q sc) iv sc (gs [d, a] ++ qs [q])) d a q s

/-- mm.tern. -/
def execMmTern (iv : BitVec 2) (d a : BitVec 5) (q : BitVec 3) (sc : BitVec 4) (s : State) : Out :=
  matrixJob 5 (infoR (Decode.wMmTern iv d a q sc) iv sc (gs [d, a] ++ qs [q])) d a q s

/-- mm.f32. -/
def execMmF32 (iv : BitVec 2) (d a : BitVec 5) (q : BitVec 3) (sc : BitVec 4) (s : State) : Out :=
  matrixJob 6 (infoR (Decode.wMmF32 iv d a q sc) iv sc (gs [d, a] ++ qs [q])) d a q s

/-- mm.c32. -/
def execMmC32 (iv : BitVec 2) (d a : BitVec 5) (q : BitVec 3) (sc : BitVec 4) (s : State) : Out :=
  matrixJob 7 (infoR (Decode.wMmC32 iv d a q sc) iv sc (gs [d, a] ++ qs [q])) d a q s

/-- mm.u (R281). -/
def execMmU (iv : BitVec 2) (d a : BitVec 5) (q : BitVec 3) (sc : BitVec 4) (s : State) : Out :=
  matrixJob 8 (infoR (Decode.wMmU iv d a q sc) iv sc (gs [d, a] ++ qs [q])) d a q s

/-! ## Tiles (R202, R304) -/

/-- A tile of a core. -/
def Core.tile (c : Core) (n : Nat) : Tile := Assoc.getD c.tiles n {}

/-- The bytes of n tiles from zt on. -/
def Core.slice (c : Core) (zt n : Nat) : Nat := (List.range n).foldl (fun a i => a + (c.tile (zt + i)).data.toNat * 2 ^ (16384 * i)) 0

/-- Put the bytes of n tiles from zt on, with their tag. -/
def Core.setSlice (c : Core) (zt n x : Nat) (tag : BitVec 4) : Core :=
  (List.range n).foldl (fun c i =>
    { c with tiles := Assoc.set c.tiles (zt + i) { data := BitVec.ofNat 16384 (x / 2 ^ (16384 * i)), tag := tag } }) c

/-- Whether a slice has an uncorrectable error (R342). -/
def Core.badSlice (c : Core) (zt n : Nat) : Bool := c.badTiles.any fun t => decide (zt ≤ t) && decide (t < zt + n)

/-- A slice is written whole: its errors are gone. -/
def Core.cleanSlice (c : Core) (zt n : Nat) : Core := { c with badTiles := c.badTiles.filter fun t => decide (t < zt) || decide (zt + n ≤ t) }

/-- The readout of a compensated part (R57): a NaN or infinity of the sum is carried through. -/
def readPart (sum corr : Nat) : Nat :=
  match Fmt.f32.decode false sum with
  | .fin s m e => (Fmt.f32.sumUp .ne false [(.fin s m e, 0), (Fmt.f32.decode false corr, 0)]).1
  | x => (Fmt.f32.round .ne false 0 x).1

/-- The readout of n columns from c0 on of row r of a compensated slice, as c32 elements (R304). -/
def readCols (slice r c0 n : Nat) : Nat :=
  (List.range n).foldl (fun a i =>
    let w := fun j => elem slice 32 (4 * (64 * r + c0 + i) + j)
    a + (readPart (w 0) (w 1) + readPart (w 2) (w 3) * 2 ^ 32) * 2 ^ (64 * i)) 0

/-! ## Accumulator moves: major 0x32 (R303, R304) -/

/-- acc.clr. -/
def execAccClr (iv : BitVec 2) (d : BitVec 5) (z t : BitVec 4) (q : BitVec 3) (sc : BitVec 4) (s : State) : Out :=
  let n := if t = 0xA then 4 else 1
  guarded ((infoR (Decode.wAccClr iv d z t q sc) iv sc (gs [d] ++ tilesOf z.toNat n ++ qs [q])).need
      ((t == 3 || t == 9 || t == 10) && (t != 10 || z.extractLsb' 0 2 == 0))) s fun s =>
    let m := 1 + s.matQ s.st.pid s.st.core
    if s.queueFull s.st.core m then .next s.retry
    else
      let (tk, s) := s.submit m 16 q.toNat (.accClr s.st.core z.toNat n t) true
      .next (s.setG d tk).retire

/-- acc.rd and acc.rd.c32: the strand waits for the entry's turn; its result is outstanding from then on (R304, log 52). -/
def accRead (inf : Info) (d z : BitVec 4) (r : BitVec 3) (c32 : Bool) (s : State) : Out :=
  guarded inf s fun s =>
    let m := 1 + s.matQ s.st.pid s.st.core
    if s.queueFull s.st.core m then .next s.retry
    else
      let (_, s) := s.submit m 16 0 (.accRd s.st.core z.toNat r.toNat d.toNat c32) false
      .next (s.block (.accRd inf.ahead))

/-- acc.rd. -/
def execAccRd (iv : BitVec 2) (d z : BitVec 4) (r : BitVec 3) (sc : BitVec 4) (s : State) : Out :=
  accRead (infoLL (Decode.wAccRd iv d z r sc) iv sc (vs [d] ++ tilesOf z.toNat 1)) d z r false s

/-- acc.rd.c32. -/
def execAccRdC32 (iv : BitVec 2) (d z : BitVec 4) (r : BitVec 3) (sc : BitVec 4) (s : State) : Out :=
  accRead ((infoLL (Decode.wAccRdC32 iv d z r sc) iv sc (vs [d, d + 1] ++ tilesOf z.toNat 4)).need
    (z.extractLsb' 0 2 == 0 && d.extractLsb' 0 1 == 0)) d z r true s

/-- acc.wr and acc.wr.c32: the values are captured. -/
def accWrite (inf : Info) (checks : Strand → List Check) (d z : BitVec 4) (r : BitVec 3) (c32 : Bool) (s : State) : Out :=
  guarded inf s fun s =>
    let m := 1 + s.matQ s.st.pid s.st.core
    if s.queueFull s.st.core m then .next s.retry
    else match (checks s.st).findSome? id with
      | some (c, tv) => trapOut s c tv
      | none =>
        let (_, s) := s.submit m 16 0 (.accWr s.st.core z.toNat r.toNat c32 (s.V d) (if c32 then s.V (d + 1) else {})) false
        .next s.retire

/-- acc.wr. -/
def execAccWr (iv : BitVec 2) (d z : BitVec 4) (r : BitVec 3) (sc : BitVec 4) (s : State) : Out :=
  accWrite (infoR (Decode.wAccWr iv d z r sc) iv sc (vs [d] ++ tilesOf z.toNat 1)) (fun x => [x.need d [3, 9]]) d z r false s

/-- acc.wr.c32. -/
def execAccWrC32 (iv : BitVec 2) (d z : BitVec 4) (r : BitVec 3) (sc : BitVec 4) (s : State) : Out :=
  accWrite ((infoR (Decode.wAccWrC32 iv d z r sc) iv sc (vs [d, d + 1] ++ tilesOf z.toNat 4)).need
    (z.extractLsb' 0 2 == 0 && d.extractLsb' 0 1 == 0)) (fun x => [x.need d [0xA], x.need (d + 1) [0xA]]) d z r true s

/-- Bytes that acc.st writes (R304). -/
def sliceBytes (c32 : Bool) : Nat := if c32 then 4096 else 2048

/-- acc.st and acc.st.c32: the checks of a destination (R294), of which no byte may lie in host memory (R304), then the
entry. -/
def accStore (inf : Info) (d a : BitVec 5) (z : BitVec 4) (q : BitVec 3) (c32 : Bool) (s : State) : Out :=
  guarded inf s fun s =>
    let x := s.st
    let m := 1 + s.matQ x.pid x.core
    let va := s.G a
    if s.queueFull x.core m then .next s.retry
    else if badEnd x.core va then trapOut s 0x40 va
    else if va.toNat % 64 ≠ 0 then trapOut s 0x43 va
    else if (s.rangeSpaces x (va, sliceBytes c32)).contains .host then trapOut s 0x81 va
    else
      (s.endChecks x [⟨va, [(va, sliceBytes c32)], true⟩]).out fun _ s =>
        let (tk, s) := s.submit m 16 q.toNat (.accSt x.core z.toNat c32 (endOf x va) x.ext 0) true
        .next (s.setG d tk).retire

/-- acc.st. -/
def execAccSt (iv : BitVec 2) (d a : BitVec 5) (z : BitVec 4) (q : BitVec 3) (sc : BitVec 4) (s : State) : Out :=
  accStore (infoR (Decode.wAccSt iv d a z q sc) iv sc (gs [d, a] ++ tilesOf z.toNat 1 ++ qs [q])) d a z q false s

/-- acc.st.c32. -/
def execAccStC32 (iv : BitVec 2) (d a : BitVec 5) (z : BitVec 4) (q : BitVec 3) (sc : BitVec 4) (s : State) : Out :=
  accStore ((infoR (Decode.wAccStC32 iv d a z q sc) iv sc (gs [d, a] ++ tilesOf z.toNat 4 ++ qs [q])).need
    (z.extractLsb' 0 2 == 0)) d a z q true s

/-! ## Accumulator entries at the head -/

/-- FORMAT_TAG's tval for a tile (R11, R304). -/
def tileTag (z : Nat) (found required : BitVec 4) : Word :=
  BitVec.ofNat 64 (0x400 + z % 32 + found.toNat * 2 ^ 16 + required.toNat * 2 ^ 20)

/-- The first tile of a slice whose tag does not serve a read, with the tag it requires. -/
def Core.wrongTile (c : Core) (zt : Nat) (c32 : Bool) : Option (Nat × BitVec 4) :=
  if c32 then ((List.range 4).find? fun i => (c.tile (zt + i)).tag != 0xA).map fun i => (zt + i, 0xA)
  else if (c.tile zt).tag = 3 ∨ (c.tile zt).tag = 9 then none else some (zt, 3)

/-- An acc.rd entry runs (R304): the registers, all or nothing; or the deferred fault of a tag, or of an error in the tile
(R342). -/
def State.runAccRd (s : State) (quad n : Nat) (e : Entry) (core zt row vd : Nat) (c32 : Bool) : State :=
  let s := s.leaveQueue quad n e
  match s.strand e.owner with
  | none => s
  | some x =>
    match x.wait with
    | some (.accRd ahead) =>
      let c := s.core core
      let k := if c32 then 4 else 1
      match c.wrongTile zt c32 with
      | some (z, req) => (s.finishWait e.owner id).deferTo e.owner 0x20 (tileTag z (c.tile z).tag req)
      | none =>
        if c.badSlice zt k then (s.finishWait e.owner id).deferTo e.owner 0x45 (BitVec.ofNat 64 (0x400 + zt % 32))
        else
          let sl := c.slice zt k
          let reg := fun (x : Nat) (t : BitVec 4) => ({ data := BitVec.ofNat 2048 x, tag := t } : VReg)
          let d := BitVec.ofNat 4 vd
          if c32 then s.finishWaitLL e.owner ahead (vs [d, d + 1])
            [.v d (reg (readCols sl row 0 32) 0xA), .v (d + 1) (reg (readCols sl row 32 32) 0xA)]
          else s.finishWaitLL e.owner ahead (vs [d]) [.v d (reg (elem sl 2048 row) (c.tile zt).tag)]
    | _ => s

/-- The new slice of acc.wr.c32: sr and si from the two registers, cr and ci zero. -/
def c32Row (sl row : Nat) (a b : VReg) : Nat :=
  let old := elem sl 8192 row
  let new := (List.range 64).foldl (fun acc col =>
    let w := if col < 32 then elem a.data.toNat 64 col else elem b.data.toNat 64 (col - 32)
    acc + (w % 2 ^ 32 + w / 2 ^ 32 * 2 ^ 64) * 2 ^ (128 * col)) 0
  sl - old * 2 ^ (8192 * row) + new * 2 ^ (8192 * row)

/-- An acc.wr entry runs (R304). -/
def State.runAccWr (s : State) (quad n : Nat) (e : Entry) (core zt row : Nat) (c32 : Bool) (a b : VReg) : State :=
  (s.leaveQueue quad n e).modCore core fun c =>
    if c32 then c.setSlice zt 4 (c32Row (c.slice zt 4) row a b) 0xA
    else
      let sl := c.slice zt 1
      c.setSlice zt 1 (sl - elem sl 2048 row * 2 ^ (2048 * row) + a.data.toNat * 2 ^ (2048 * row)) a.tag

/-- The beats of acc.st from byte i on, k of them left; while the fabric has no room, the started entry goes on later. -/
def State.accBeats (s : State) (quad n : Nat) (e : Entry) (put : Nat → Work) (dst : End) (ext : Vector (BitVec 256) 16)
    (data : Nat) : Nat → Nat → State
  | 0, _ => s.completeJob quad n e 0
  | k + 1, i =>
    match s.beatTo false (quad / 256) e ext dst i (natBytes (data / 2 ^ (8 * i)) 64) with
    | .fail c => s.failJob quad n e c i
    | .wait bit => ((s.excuseJob quad e bit).modJob quad e fun r => { r with state := 1 }).setHead quad n { e with started := true, work := put i }
    | .done s' => State.accBeats (s'.excuseRedirect quad e (s.endBytes e.owner ext e.cuts true dst [i])) quad n e put dst ext data k (i + 64)

/-- An acc.st entry runs (R304), from byte i on. -/
def State.runAccSt (s : State) (quad n : Nat) (e : Entry) (core zt : Nat) (c32 : Bool) (dst : End)
    (ext : Vector (BitVec 256) 16) (i : Nat) : State :=
  let c := s.core core
  match c.wrongTile zt c32 with
  | some _ => s.failJob quad n e 0x20 0
  | none =>
    if c.badSlice zt (if c32 then 4 else 1) then s.failJob quad n e 0x45 0
    else
      let data := if c32 then (List.range 8).foldl (fun a r => a + readCols (c.slice zt 4) r 0 64 * 2 ^ (4096 * r)) 0
        else c.slice zt 1
      s.accBeats quad n e (.accSt core zt c32 dst ext) dst ext data ((if c32 then 64 else 32) - i / 64) i

/-! ## The start of a matrix job (R279, R302) -/

/-- The tiles of a member that hold its slice. -/
def MatJob.tiles (m : MatJob) : Nat := m.form.tiles

/-- A matrix job starts: a gang that disagrees fails (R282), so does an accumulating job on other tags (R279); otherwise the
C tag is written, a job from zero clears its slices, and the scratchpads are taken as they stand. -/
def State.matrixStart (s : State) (quad n : Nat) (e : Entry) (m : MatJob) : State :=
  if m.mismatch then s.failJob quad n e 0x84 0
  else
    let tag := m.form.tag m.sc
    if m.acc && m.members.any fun p => (List.range m.tiles).any fun i => ((s.core p.core).tile (p.zt + i)).tag != tag then
      s.failJob quad n e 0x20 0
    else
      let snap := m.members.map fun p => (p.core, Memory.readN s.mem (Memory.scratchBase p.core) (s.scratchOf p.core))
      let s := m.members.foldl (fun s p => s.modCore p.core fun c =>
        if m.acc then c else (c.cleanSlice p.zt m.tiles).setSlice p.zt m.tiles 0 tag) s
      (s.modJob quad e fun r => { r with state := 1 }).setHead quad n
        { e with started := true, work := .matrix { m with snap := snap } }

/-! ## k-groups (R56, R57, R277 to R281) -/

/-- The member on the lowest core. -/
def MatJob.lowest (m : MatJob) : Option MatMember := m.members.find? fun p => m.members.all fun q => decide (p.core ≤ q.core)

/-- Bytes of a core's scratchpad as they stood at the start. -/
def MatJob.bytes (m : MatJob) (core off n : Nat) : Nat := Assoc.getD m.snap core 0 / 2 ^ (8 * off) % 2 ^ (8 * n)

/-- Offset of A[r][k] in its member's scratchpad, or none for a zero of the unfolding. -/
def MatJob.aOff (m : MatJob) (p : MatMember) (r k : Nat) : Option Nat :=
  if m.unf then (unfIndex m.unfold (p.q0 + r) k).map fun i => p.aBase + i * m.form.size
  else some (p.aBase + r * ((m.k * m.form.size + 63) / 64 * 64) + k * m.form.size)

/-- The bits of A[r][k]. -/
def MatJob.aBits (m : MatJob) (p : MatMember) (r k : Nat) : Nat := match m.aOff p r k with
  | some o => m.bytes p.core o m.form.size
  | none => 0

/-- The core and offset of B group g. -/
def MatJob.bGroup (m : MatJob) (g : Nat) : Nat × Nat :=
  let c := supplier m.split m.half m.set g
  let core := 4 * m.quad + c
  match m.members.find? fun p => p.core == core with
  | some p => (core, p.bBase + shareIndex m.split m.half m.set c g * m.form.gs)
  | none => (core, 0)

/-- The bits of B group g. -/
def MatJob.bBits (m : MatJob) (g : Nat) : Nat := let b := m.bGroup g; m.bytes b.1 b.2 m.form.gs

/-- Element (i, col) of a group of a form of B whose elements have whole bytes. -/
def MForm.bElem (f : MForm) (bits i col : Nat) : Nat := elem bits (2 * f.gs / 64) (64 * i + col)

/-- Integer elements. -/
def sbyte (x : Nat) : Int := (BitVec.ofNat 8 x).toInt
def MForm.bInt (f : MForm) (bits i col : Nat) : Int := match f with
  | .tern => tritOf (elem bits 8 ((64 * i + col) / 5)) ((64 * i + col) % 5)
  | _ => sbyte (f.bElem bits i col)

/-- Whether a tern group holds a byte above 242 (R278). -/
def MForm.badTrits (f : MForm) (bits : Nat) : Bool := f == .tern && (List.range 52).any fun j => decide (242 < elem bits 8 j)

/-- Elements as exact values. -/
def MForm.aNum (f : MForm) (x : Nat) : Num := if f.int then .ofInt (sbyte x) else f.fmt.decode false x
def MForm.bNum (f : MForm) (bits i col : Nat) : Num :=
  if f.int then .ofInt (f.bInt bits i col) else f.fmt.decode false (f.bElem bits i col)

/-- The block scale of a product (R280): the exponent to add, or none for a NaN. -/
def MatJob.scaleAt (m : MatJob) (p : MatMember) (r col k : Nat) : Option Int :=
  if !m.sc then some 0
  else
    let nb := scaleLen m.k
    let ea := m.bytes p.core (p.aScale + r * nb + k / 32) 1
    let eb := match m.lowest with
      | some l => m.bytes l.core (l.bScale + col * nb + k / 32) 1
      | none => 0
    if ea = 255 ∨ eb = 255 then none else some ((ea : Int) + eb - 254)

/-- The ks of group g. -/
def MatJob.ks (m : MatJob) (g : Nat) : List Nat := (List.range (Nat.min 4 (m.k - 4 * g))).map (4 * g + ·)

/-- A group's contribution to a floating-point element, summed exactly and rounded once (R56). A scaled i8 or tern product
that is zero takes the sign of its factors (log 53). -/
def MatJob.floatStep (m : MatJob) (p : MatMember) (g bits r col acc : Nat) : Nat × Fl :=
  Fmt.f32.sumUp .ne false ((Fmt.f32.decode false acc, 0) :: (m.ks g).map fun k =>
    match m.scaleAt p r col k with
    | none => (.nan, 0)
    | some e =>
      let x := (m.form.aNum (m.aBits p r k)).mul (m.form.bNum bits (k - 4 * g) col)
      (x.1.scale e, x.2))

/-- A group's contribution to an integer element: the low 32 bits (R56). -/
def MatJob.intStep (m : MatJob) (p : MatMember) (g bits r col acc : Nat) : Nat :=
  (BitVec.ofInt 32 ((m.ks g).foldl (fun (v : Int) k => v + sbyte (m.aBits p r k) * m.form.bInt bits (k - 4 * g) col) acc)).toNat

/-- TwoSum (R57) on the bits of s and corr with an exact product. -/
def twoSum (w : (Nat × Nat) × Fl) (pr : Num × Fl) : (Nat × Nat) × Fl :=
  let sN := Fmt.f32.decode false w.1.1
  let (t, f1) := Fmt.f32.sumUp .ne false [(sN, 0), pr]
  let fin := fun (x : Num) => match x with
    | .fin _ _ _ => true
    | _ => false
  if !fin sN || !fin pr.1 then ((t, Fmt.f32.nanBits), w.2 ||| f1)
  else
    let (e, f2) := Fmt.f32.sumUp .ne false [(sN, 0), (pr.1, 0), ((Fmt.f32.decode false t).negate, 0)]
    let (c, f3) := Fmt.f32.sumUp .ne false [(Fmt.f32.decode false w.1.2, 0), (Fmt.f32.decode false e, 0)]
    ((t, c), w.2 ||| f1 ||| f2 ||| f3)

/-- A group's contribution to a c32 element: sr, cr, si, ci as 16 bytes (R57). -/
def MatJob.c32Step (m : MatJob) (p : MatMember) (g bits r col acc : Nat) : Nat × Fl :=
  let d := Fmt.f32.decode false
  let re0 := ((acc % 2 ^ 32, acc / 2 ^ 32 % 2 ^ 32), (0 : Fl))
  let im0 := ((acc / 2 ^ 64 % 2 ^ 32, acc / 2 ^ 96 % 2 ^ 32), (0 : Fl))
  let neg := fun (x : Num × Fl) => (x.1.negate, x.2)
  let (re, im) := (m.ks g).foldl (fun (w : ((Nat × Nat) × Fl) × ((Nat × Nat) × Fl)) k =>
    let a := m.aBits p r k
    let b := m.form.bElem bits (k - 4 * g) col
    let (ar, ai) := (d (a % 2 ^ 32), d (a / 2 ^ 32))
    let (br, bi) := (d (b % 2 ^ 32), d (b / 2 ^ 32))
    (twoSum (twoSum w.1 (ar.mul br)) (neg (ai.mul bi)), twoSum (twoSum w.2 (ar.mul bi)) (ai.mul br))) (re0, im0)
  (re.1.1 + re.1.2 * 2 ^ 32 + im.1.1 * 2 ^ 64 + im.1.2 * 2 ^ 96, re.2 ||| im.2)

/-- A member's slice after group g, and the exceptions. -/
def MatJob.sliceStep (m : MatJob) (p : MatMember) (g sl : Nat) : Nat × Fl :=
  let bits := m.bBits g
  let w := if m.form = .c32 then 128 else 32
  (List.range 512).foldl (fun (a : Nat × Fl) i =>
    let (r, col) := (i / 64, i % 64)
    let old := elem sl w i
    let (x, fl) := if m.form = .c32 then m.c32Step p g bits r col old
      else if m.form.int && !m.sc then (m.intStep p g bits r col old, 0)
      else m.floatStep p g bits r col old
    (a.1 + x * 2 ^ (w * i), a.2 ||| fl)) (0, 0)

/-- The lines of the scratchpads that group g reads. -/
def MatJob.reads (m : MatJob) (g : Nat) : List Nat :=
  let line := fun (core off : Nat) => Memory.line (Memory.scratchBase core + off)
  let b := m.bGroup g
  let ks := m.ks g
  let a := (m.members.map fun p => ((List.range 8).map fun r => (ks.map fun k => match m.aOff p r k with
    | some o => [line p.core o, line p.core (o + m.form.size - 1)]
    | none => []).flatten).flatten).flatten
  let bl := (List.range ((m.form.gs + 63) / 64)).map fun i => line b.1 (b.2 + 64 * i)
  let nb := scaleLen m.k
  let sc := if !m.sc then [] else
    (m.members.map fun p => (List.range 8).map fun r => line p.core (p.aScale + r * nb + g / 8)).flatten
      ++ (match m.lowest with
        | some l => (List.range 64).map fun col => line l.core (l.bScale + col * nb + g / 8)
        | none => [])
  a ++ bl ++ (if m.form.gs % 64 = 0 && b.2 % 64 = 0 then [] else [line b.1 (b.2 + m.form.gs - 1)]) ++ sc

/-- One k-group of a running matrix job. -/
def State.matrixGroup (s : State) (quad n : Nat) (e : Entry) (m : MatJob) : State :=
  if (m.reads m.group).any s.poisoned || m.members.any fun p => (s.core p.core).badSlice p.zt m.tiles then s.failJob quad n e 0x45 0
  else
    let tag := m.form.tag m.sc
    let (s, fl) := m.members.foldl (fun (a : State × Fl) p =>
      let (x, f) := m.sliceStep p m.group ((a.1.core p.core).slice p.zt m.tiles)
      (a.1.modCore p.core fun c => c.setSlice p.zt m.tiles x tag, a.2 ||| f)) (s, Fl.when (m.form.badTrits (m.bBits m.group)) Fl.tinv)
    (s.modJob quad e fun r => { r with flags := r.flags ||| fl }).setHead quad n
      { e with work := .matrix { m with group := m.group + 1 } }

/-- MATRIX_GROUP: the running matrix job of a half of a quad accumulates its next k-group. -/
def execMatrixGroup (quad half : Nat) (s : State) : Out :=
  match (s.quad quad).queue (1 + half) with
  | [] => .next s
  | e :: _ =>
    match e.work with
    | .matrix m =>
      if e.started && !e.held && s.enginesRun quad && decide (m.group < groupsOf m.k) then .next (s.matrixGroup quad (1 + half) e m)
      else .next s
    | _ => .next s

end Sys2Proof.Machine
end

