-- ==== Sys2Proof/Machine/EngineInstr.lean ====
section
/-!
DEFINITION. Waiting on jobs, guards and signal entries (15 R305 to R308, 14 R269, R270), and the events of the engine queues
(14 R259, R264 to R269, R282, 11 R247): majors 0x33 and 0x34.
-/
namespace Sys2Proof.Machine

/-! ## Waiting on jobs: major 0x33 (R305) -/

/-- A strand has read the record of a ticket (R311). -/
def State.sees (s : State) (x : Strand) (t : Word) : State := s.observe x.sid.toNat (quadOf x.core) (s.bank x) t

/-- await and await.x: the status of a final record is the result; a promise already reached is a trap of await alone, and
while it is suspended await goes on as await.x (R265, R305). -/
def awaitJob (x : Bool) (inf : Info) (d a : BitVec 5) (s : State) : Out :=
  guarded inf s fun s =>
    let t := s.G a
    if s.jobFinal s.st t then .next ((s.sees s.st t).retireLL inf (gs [d]) [.g d (s.jobStatus s.st t)])
    else
      let missed := !x && s.promiseReached t
      if missed && !s.suspended s.st t then trapOut (s.countQuad s.st.pid (quadOf s.st.core) (s.bank s.st) .jobMiss 1) 0x80 t
      else .next (s.block (.await (x || missed) d t inf.ahead))

/-- await. -/
def execAwait (iv : BitVec 2) (d a : BitVec 5) (sc : BitVec 4) (s : State) : Out :=
  awaitJob false (infoLL (Decode.wAwait iv d a sc) iv sc (gs [d, a])) d a s

/-- await.x. -/
def execAwaitX (iv : BitVec 2) (d a : BitVec 5) (sc : BitVec 4) (s : State) : Out :=
  awaitJob true (infoLL (Decode.wAwaitX iv d a sc) iv sc (gs [d, a])) d a s

/-- PROMISE_MISSED (R265, R305): an await reaches the promise of a job that is not final; a deferred fault that can be
taken at that boundary comes first (R316). -/
def execPromiseMissed (sid : Nat) (s : State) : Out :=
  match s.strand sid with
  | none => .next s
  | some x =>
    match x.wait with
    | some (.await false _ t _) =>
      if s.promiseReached t && !s.jobFinal x t && !s.suspended x t && !(s.die (dieOf x.core)).halted && !x.deliverable
          && (x.place == .resident || x.place == .shadow) && !x.flags.stop && x.flags.held.isNone then
        .next (((s.focus sid).countQuad x.pid (quadOf x.core) (s.bank x) .jobMiss 1).precise 0x80 t)
      else .next s
    | _ => .next s

/-- jpoll. -/
def execJpoll (iv : BitVec 2) (d a : BitVec 5) (sc : BitVec 4) (s : State) : Out :=
  guarded (infoR (Decode.wJpoll iv d a sc) iv sc (gs [d, a])) s fun s =>
    let t := s.G a
    .next ((s.setG d (s.jobStatus s.st t)).sees s.st t).retire

/-- The entry of a ticket that stands queued in a quad, with its queue. -/
def Quad.queued (q : Quad) (half : Nat) (t : Word) : Option (Nat × Entry) :=
  [0, 1, 2].findSome? fun n =>
    ((q.queue n).find? fun e => e.ticket == some t && e.half == half && !e.started).map fun e => (n, e)

/-- jdrop: an entry of the strand, or of its gang, that is queued and not started is discarded. -/
def execJdrop (iv : BitVec 2) (d a : BitVec 5) (sc : BitVec 4) (s : State) : Out :=
  guarded (infoR (Decode.wJdrop iv d a sc) iv sc (gs [d, a])) s fun s =>
    let t := s.G a
    let quad := quadOf s.st.core
    let half := s.bank s.st
    let s := match (s.quad quad).record half t, (s.quad quad).queued half t with
      | some r, some (n, e) => if r.state = 0 ∧ r.owners.contains s.st.sid.toNat then s.discardJob quad n e else s
      | _, _ => s
    .next ((s.setG d (s.jobStatus s.st t)).sees s.st t).retire

/-! ## Guards and signals: major 0x34 (R307, R308) -/

/-- gset. -/
def execGset (iv : BitVec 2) (a : BitVec 5) (q : BitVec 3) (sc : BitVec 4) (s : State) : Out :=
  guarded (infoR (Decode.wGset iv a q sc) iv sc (qs [q] ++ gs [a])) s fun s =>
    .next (s.modSt fun x => x.setQ q (if s.G a = 0 then .isFalse else .isTrue)).retire

/-- gclr. -/
def execGclr (iv : BitVec 2) (q : BitVec 3) (sc : BitVec 4) (s : State) : Out :=
  guarded (infoR (Decode.wGclr iv q sc) iv sc (qs [q])) s fun s => .next (s.modSt fun x => x.setQ q .unresolved).retire

/-- sig.dec. -/
def execSigDec (iv : BitVec 2) (d a : BitVec 5) (n : BitVec 1) (q : BitVec 3) (sc : BitVec 4) (s : State) : Out :=
  guarded (infoR (Decode.wSigDec iv d a n q sc) iv sc (gs [d, a] ++ qs [q])) s fun s =>
    let x := s.st
    let va := s.G a
    let m := if n = 0 then 0 else 1 + s.matQ x.pid x.core
    if s.queueFull x.core m then .next s.retry
    else if va.toNat / 2 ^ 60 ≠ 0 ∨ winOf va = 0xFF ∨ winOf va = 0xFE then trapOut s 0x40 va
    else if va.toNat % 16 ≠ 0 then trapOut s 0x43 va
    else
      (s.endChecks x [⟨va, [(va, 16)], false⟩, ⟨va, [(va, 16)], true⟩]).out fun _ s =>
        match s.find x va with
        | none => trapOut s 0x41 va
        | some t =>
          if t.space = .host then trapOut s 0x47 va
          else
            let (tk, s) := s.submit m 16 q.toNat (.signal va t.addr) true
            .next (s.setG d tk).retire

/-! ## Signals (R136) -/

/-- A signal completes: the status of the first failure, then the decrement at package scope, which wakes the waiters. -/
def State.signalDec (s : State) (pa : Nat) (cause : BitVec 8) : State :=
  let st := Memory.readN s.mem (pa + 8) 8
  let s := if cause ≠ 0 ∧ st / 2 ^ 63 = 0 then s.hubWrite (pa + 8) 8 (2 ^ 63 + cause.toNat) else s
  s.hubWrite pa 8 ((Memory.readN s.mem pa 8 + 2 ^ 64 - 1) % 2 ^ 64)

/-- A signal entry acts (R270): its status names the first failure of its strand in this queue since the strand's previous
signal entry there. It travels behind the writes of the engine's die to the line, and behind the strand's own (R220, R225). -/
def State.runSignal (s : State) (quad n : Nat) (e : Entry) (va : Word) (pa : Nat) : State :=
  if (List.range 16).any fun i => cutBy e.cuts (va + BitVec.ofNat 64 i) then s.failJob quad n e 0x48 0
  else
    let s := (s.behindDies e.left (Memory.line pa)).reach (quad / 256) (Memory.line pa)
    let cause := (((s.quad quad).fails.find? fun f => f.1 == e.owner && f.2.1 == n).map (·.2.2)).getD 0
    let s := s.modQuad quad fun q => { q with fails := q.fails.filter fun f => f.1 != e.owner || f.2.1 != n }
    (s.signalDec pa cause).completeJob quad n e 0

/-! ## Queue heads (R259, R269, R282, R301) -/

/-- An entry starts: jobs run on; accumulator and signal entries are done at once. -/
def State.startEntry (s : State) (quad n : Nat) (e : Entry) : State :=
  match e.work with
  | .copy c =>
    match s.copyStart c with
    | .error x => s.failJob quad n e x 0
    | .ok c' => (s.modJob quad e fun r => { r with state := 1 }).setHead quad n { e with started := true, work := .copy c' }
  | .matrix m => s.matrixStart quad n e m
  | .accClr core zt k tag => (s.modCore core fun c => (c.cleanSlice zt k).setSlice zt k 0 tag).completeJob quad n e 0
  | .accRd core zt row vd c32 => s.runAccRd quad n e core zt row vd c32
  | .accWr core zt row c32 a b => s.runAccWr quad n e core zt row c32 a b
  | .accSt core zt c32 dst ext i => s.runAccSt quad n e core zt c32 dst ext i
  | .signal va pa => s.overLink quad e fun s => s.runSignal quad n e va pa
  | .booking _ => s
  | .join _ => s

/-- The strands that may still join a gang's job for a core of its member set: the sampled ones that have not left it
(R301). -/
def State.candidates (s : State) (m : MatJob) (core : Nat) : List Strand :=
  s.all.filter fun x => x.core == core && m.sampled.contains x.sid.toNat

/-- Cores of a job's member set whose mm has not come. -/
def MatJob.missing (m : MatJob) : List Nat :=
  ((List.range 4).filter fun c => m.set.getLsbD c && m.members.all fun p => p.core != 4 * m.quad + c).map (4 * m.quad + ·)

/-- Whether a strand is cut or saved. -/
def Strand.away (x : Strand) : Bool := x.place == .cut || x.place == .saved || x.place == .toPlace

/-- Whether a member of a gang job is saved, one whose mm has not come included (R327). -/
def State.memberAway (s : State) (m : MatJob) : Bool :=
  (m.members.any fun p => match s.strand p.sid with
    | some x => x.away
    | none => false)
  || m.missing.any fun c => let l := s.candidates m c; !l.isEmpty && l.all Strand.away

/-- The guards an entry names (R269): every member's. -/
def Entry.guards (e : Entry) : List (Nat × Nat) := match e.work with
  | .matrix m => m.members.map fun p => (p.sid, p.guard)
  | _ => [(e.owner, e.guard)]

/-- The record of a saved strand says that it holds a held job (R327). -/
def State.markHeld (s : State) (sid : Nat) : State := s.modView sid fun x => x.modFlags fun f => { f with heldJob := true }

/-- A head that waits on a strand that is saved is held (R327, R264). -/
def State.holdHead (s : State) (quad : Nat) (e : Entry) : State :=
  let sids : List Nat := match e.work with
    | .matrix m => m.members.map fun p => p.sid
    | _ => [e.owner]
  let s := sids.foldl (fun s i => if (s.strand i).any Strand.away then s.markHeld i else s) s
  (s.excuseJob quad e 35).modJob quad e fun r => { r with state := 5 }

/-- A head samples its guards. -/
def State.sampleGuards (s : State) (quad n : Nat) (e : Entry) : State :=
  let s := s.modJob quad e fun r => { r with state := 0 }
  match jointGuard (e.guards.map fun p => s.guardOf p.1 p.2) with
  | .isTrue => s.startEntry quad n e
  | .isFalse => s.discardJob quad n e
  | .unresolved => (s.excuseJob quad e 33).countQuad e.pid quad e.half .jobGuard 1

/-- The head of a queue as one cycle finds it. -/
def State.sampleHead (s : State) (quad n : Nat) (e : Entry) : State :=
  match e.work with
  | .join _ => s
  | .matrix m =>
    if m.missing.any fun c => (s.candidates m c).isEmpty then s.failJob quad n e 0x84 0
    else
      let away := s.memberAway m
      let s := if away then s.holdHead quad e else s.modJob quad e fun r => { r with state := 0 }
      if !m.missing.isEmpty then (s.excuseJob quad e 33).countQuad e.pid quad e.half .gangWait 1
      else if away then s
      else s.sampleGuards quad n e
  | _ => if e.held then s.holdHead quad e else s.sampleGuards quad n e

/-- QUEUE_HEAD_START: the head of a queue of a quad, 0 copy, 1 and 2 matrix, samples what it waits for. -/
def execQueueHeadStart (quad queue : Nat) (s : State) : Out :=
  match (s.quad quad).queue queue with
  | [] => .next s
  | e :: _ => if e.started || !s.enginesRun quad then .next s else .next (s.sampleHead quad queue e)

/-! ## Joins (R247) -/

/-- Whether an entry is the join of a number. -/
def Entry.isJoin (e : Entry) (j : Nat) : Bool := match e.work with
  | .join k => k == j
  | _ => false

/-- Cores of a quad. -/
def coresIn (quad : Nat) : List Nat := (List.range 4).map (4 * quad + ·)

/-- JOIN_RELEASE: a join that is at the head of every queue that holds it leaves them. -/
def execJoinRelease (quad join : Nat) (s : State) : Out :=
  let q := s.quad quad
  let qs := [q.copyQ, q.mat0, q.mat1] ++ (coresIn quad).map fun c => (s.core c).bookQ
  let here := qs.filter fun l => l.any (·.isJoin join)
  if here.all fun l => l.head?.any (·.isJoin join) then
    let s := s.modQuad quad fun q => { q with
      copyQ := q.copyQ.filter (!·.isJoin join), mat0 := q.mat0.filter (!·.isJoin join), mat1 := q.mat1.filter (!·.isJoin join) }
    .next ((coresIn quad).foldl (fun s c => s.modCore c fun k => { k with bookQ := k.bookQ.filter (!·.isJoin join) }) s)
  else .next s

/-! ## The end of a running job -/

/-- JOB_COMPLETE: the running job of a queue has done all its work. -/
def execJobComplete (quad queue : Nat) (s : State) : Out :=
  match (s.quad quad).queue queue with
  | [] => .next s
  | e :: _ =>
    if !e.started || e.held || !s.enginesRun quad then .next s
    else match e.work with
      | .copy c => .next (s.copyComplete quad e c)
      | .matrix m => if groupsOf m.k ≤ m.group then .next (s.completeJob quad queue e 0) else .next s
      | .accSt core zt c32 dst ext i => .next (s.runAccSt quad queue e core zt c32 dst ext i)
      | _ => .next s

/-- JOB_REPLAY (R266): a recoverable error is repaired; what the job has written stands, as it writes the same values. -/
def execJobReplay (quad queue : Nat) (s : State) : Out :=
  match (s.quad quad).queue queue with
  | [] => .next s
  | e :: _ =>
    if !e.started || e.held || !s.enginesRun quad then .next s
    else .next (((s.excuseJob quad e 32).modJob quad e fun r => { r with replays := r.replays + 1 }).countQuad e.pid quad e.half
      .jobReplay 1)

end Sys2Proof.Machine
end

