-- ==== Sys2Proof/Machine/Creel.lean ====
section
/-!
DEFINITION. The Creel (08 R155 to R171, R408, 09 R192 to R196, 24 R391): records, buckets, rings, the far list, dispatch,
snapshots, publications, waves; major 0x39 and the events.
-/
namespace Sys2Proof.Machine

/-! ## Records (R158) -/

/-- A record as the number of its 64 bytes. -/
def TaskRec.toNat (t : TaskRec) : Nat :=
  t.pc.toNat + t.g1.toNat * 2 ^ 64 + t.g2.toNat * 2 ^ 128 + t.g3.toNat * 2 ^ 192 + t.g4.toNat * 2 ^ 256
    + t.g5.toNat * 2 ^ 320 + t.g6.toNat * 2 ^ 384 + t.prio.toNat * 2 ^ 448

/-- The record of 64 bytes. -/
def taskOf (n : Nat) : TaskRec :=
  let d := fun i => BitVec.ofNat 64 (n / 2 ^ (64 * i))
  ⟨d 0, d 1, d 2, d 3, d 4, d 5, d 6, BitVec.ofNat 32 (n / 2 ^ 448)⟩

/-- A record of a pc, the registers g1 to g6 of a strand, and a priority. -/
def Strand.task (x : Strand) (pc : Word) (prio : BitVec 32) : TaskRec := ⟨pc, x.G 1, x.G 2, x.G 3, x.G 4, x.G 5, x.G 6, prio⟩

/-! ## The domain (R155, R156) -/

/-- A partition's Creel domain. -/
def State.dom (s : State) (p : Nat) : Domain := (s.part p).dom

/-- Change a partition's domain. -/
def State.modDom (s : State) (p : Nat) (f : Domain → Domain) : State := s.modPart p fun q => { q with dom := f q.dom }

/-- The dies of a domain, in increasing number. -/
def State.domDies (s : State) (p : Nat) : List Nat := (List.range 16).filter (s.onDie p)

/-- A push or seed record is counted on a die (R168). -/
def State.countPush (s : State) (p die : Nat) : State :=
  (s.modCreel die p fun c => { c with pushed := c.pushed + 1, traffic := true }).modDom p fun d => { d with counted := true }

/-- An idle domain is bound to a launch slot, whose settings it takes (R156). -/
def State.bindDom (s : State) (p slot : Nat) : State :=
  match (s.dom p).bound with
  | some _ => s
  | none =>
    let l := s.slot slot
    s.modDom p fun d => { d with bound := some slot, cshift := l.cshift, cbound := l.cbound, slots := l.slots }

/-- A launch slot is freed and its gen advances (R145, R128). -/
def State.freeSlot (s : State) (slot : Nat) : State := s.modSlot slot fun l => { gen := l.gen + 1 }

/-- A domain becomes idle (R156): unbound, its base 0 on every die, a completed launch's slot freed. -/
def State.idleDom (s : State) (p : Nat) : State :=
  let s' := ((s.domDies p).foldl (fun s e => s.modCreel e p fun c => { c with base := 0 }) s).modDom p fun d =>
    { d with bound := none, pinned := 0 }
  match (s.dom p).bound with
  | some slot => if (s.slot slot).closed then s'.freeSlot slot else s'
  | none => s'

/-- Creel traffic on a die that is no push (R168). -/
def State.creelTraffic (s : State) (p die : Nat) : State := s.modCreel die p fun c => { c with traffic := true }

/-! ## Spill rings and the far list (R164, R165, R391) -/

/-- Address of record i of the spill ring of a bucket. -/
def State.ringAddr (s : State) (p die b i : Nat) : Nat := s.workArea p die + 0x1000000 + 0x40000 * (b % 64) + 64 * (i % 4096)

/-- Address of record i of the far list. -/
def State.farAddr (s : State) (p die i : Nat) : Nat := s.workArea p die + 0x2000000 + 64 * i

/-- The spill ring of a bucket. -/
def CreelSet.ring (c : CreelSet) (b : Nat) : RingPos := Assoc.getD c.rings (b % 64) {}

/-- Records of a ring. -/
def RingPos.len (r : RingPos) : Nat := r.tail - r.head

/-- Absolute bucket of a record (R159). -/
def State.absBucket (s : State) (p : Nat) (t : TaskRec) : Nat := t.prio.toNat / 2 ^ (s.dom p).cshift.toNat

/-- The records of the ring of a bucket, in ring order. -/
def State.ringRecs (s : State) (p die b : Nat) : List TaskRec :=
  let r := (s.creel die p).ring b
  (List.range r.len).map fun i => taskOf (Memory.readN s.mem (s.ringAddr p die b (r.head + i)) 64)

/-- Effective bucket of a record at rest: its absolute one, or the base (R159, R160). -/
def State.effBucket (s : State) (p die : Nat) (t : TaskRec) : Nat := Nat.max (s.absBucket p t) (s.creel die p).base

/-- A record goes to the tail of a ring. -/
def State.toSpill (s : State) (p die b : Nat) (t : TaskRec) : State :=
  let r := (s.creel die p).ring b
  (s.unitWrite (s.ringAddr p die b r.tail) t.toNat 64).modCreel die p fun c =>
    { c with rings := Assoc.set c.rings (b % 64) { r with tail := r.tail + 1 } }

/-- The far list, in its order. -/
def State.farList (s : State) (p die : Nat) : List TaskRec :=
  (List.range (s.creel die p).far).map fun i => taskOf (Memory.readN s.mem (s.farAddr p die i) 64)

/-- Put the far list. -/
def State.setFar (s : State) (p die : Nat) (l : List TaskRec) : State :=
  ((l.zipIdx).foldl (fun (s : State) (q : TaskRec × Nat) => s.unitWrite (s.farAddr p die q.2) q.1.toNat 64) s).modCreel die p
    fun c => { c with far := l.length }

/-- Insert a record behind those of no larger absolute bucket. -/
def State.insertFar (s : State) (p : Nat) (t : TaskRec) : List TaskRec → List TaskRec
  | [] => [t]
  | x :: l => if s.absBucket p x ≤ s.absBucket p t then x :: State.insertFar s p t l else t :: x :: l

/-! ## Placing a record (R159, R164, R165) -/

/-- Whether the resident share of a die is full. -/
def State.shareFull (s : State) (p die : Nat) : Bool := decide (s.creelShare p die ≤ (s.creel die p).entries.length)

/-- Put a record into a bucket: among its late entries or at its tail. -/
def State.addEntry (s : State) (p die b : Nat) (late : Bool) (t : TaskRec) : State :=
  s.modCreel die p fun c => { c with entries := c.entries ++ [⟨b, late, t⟩] }

/-- Whether the next record of a bucket goes to its ring: the ring holds records, or the share is full (R164). -/
def State.viaRing (s : State) (p die b : Nat) : Bool := ((s.creel die p).ring b).len != 0 || s.shareFull p die

/-- A record is placed in a bucket or its ring; none while both are full. -/
def State.toBucket (s : State) (p die b : Nat) (late : Bool) (t : TaskRec) : Option State :=
  if s.viaRing p die b then (if 4096 ≤ ((s.creel die p).ring b).len then none else some (s.toSpill p die b t))
  else some (s.addEntry p die b late t)

/-- Whether the base has come within 64 buckets of a far record (R160). -/
def State.near (s : State) (p die : Nat) (t : TaskRec) : Bool := decide (s.absBucket p t < (s.creel die p).base + 64)

/-- Far records that the base has come near to go into their buckets, as long as there is room (R160). -/
def State.pullFar (s : State) (p die : Nat) : State :=
  let l := s.farList p die
  let (kept, t) := l.foldl (fun (q : List TaskRec × State) r =>
    match (if s.near p die r then
        q.2.toBucket p die (s.effBucket p die r) (decide (s.absBucket p r < (s.creel die p).base)) r else none) with
    | some t => (q.1, t)
    | none => (q.1 ++ [r], q.2)) ([], s)
  if kept.length = l.length then s else t.setFar p die kept

/-- A push is placed against the base that its die has in effect, behind the far records of its bucket; none while there is no
room. -/
def State.placeTask (s : State) (p die : Nat) (t : TaskRec) : Option State :=
  let s := s.pullFar p die
  let a := s.absBucket p t
  let b := (s.creel die p).base
  let e := s.effBucket p die t
  if b + 64 ≤ a then
    (if 2 ^ 20 ≤ (s.creel die p).far then none
     else some ((s.setFar p die (s.insertFar p t (s.farList p die))).countCreel p die .creelFar 1))
  else if (s.farList p die).any fun u => s.near p die u && s.effBucket p die u == e then none
  else (s.toBucket p die e (decide (a < b)) t).map fun u =>
    let u := if s.viaRing p die e then u.countCreel p die .creelSpill 1 else u
    if a < b then u.countCreel p die .creelLate 1 else u

/-! ## Dispatch (R161, R164) -/

/-- The head of a bucket: late entries first. -/
def CreelSet.head (c : CreelSet) (b : Nat) : Option CEntry :=
  match c.entries.find? fun e => e.bucket == b && e.late with
  | some e => some e
  | none => c.entries.find? (·.bucket == b)

/-- The smallest number of a list. -/
def minOf : List Nat → Option Nat
  | [] => none
  | a :: l => some (l.foldl Nat.min a)

/-- The largest bucket a die may dispatch. -/
def State.boundOf (s : State) (p die : Nat) : Nat := (s.creel die p).base + (s.dom p).cbound.toNat

/-- The lowest non-empty bucket that a die may dispatch. -/
def State.lowBucket (s : State) (p die : Nat) : Option Nat :=
  minOf (((s.creel die p).entries.map (·.bucket)).filter fun b => decide (b ≤ s.boundOf p die))

/-- The head of a die's lowest eligible bucket. -/
def State.eligibleHead (s : State) (p die : Nat) : Option CEntry := (s.lowBucket p die).bind (s.creel die p).head

/-- The ring whose head record comes next: eligible, of the lowest absolute bucket. -/
def State.nextRing (s : State) (p die : Nat) : Option (Nat × TaskRec) :=
  (List.range 64).foldl (fun a b =>
    match (s.ringRecs p die b).head? with
    | none => a
    | some t =>
      if s.boundOf p die < s.effBucket p die t then a
      else match a with
        | none => some (b, t)
        | some (_, u) => if s.absBucket p t < s.absBucket p u then some (b, t) else a) none

/-- One record of a ring refills its eligible bucket, if the share has room (R164). -/
def State.refillOne (s : State) (p die : Nat) : State :=
  if s.shareFull p die then s
  else match s.nextRing p die with
    | none => s
    | some (b, t) =>
      let r := (s.creel die p).ring b
      (s.modCreel die p fun c => { c with rings := Assoc.set c.rings b { r with head := r.head + 1 } }).addEntry p die
        (s.effBucket p die t) (decide (s.absBucket p t < (s.creel die p).base)) t

/-- Refill as long as it goes. -/
def State.refillRings (s : State) (p die : Nat) : Nat → State
  | 0 => s
  | n + 1 => State.refillRings (s.refillOne p die) p die n

/-- Every refill that a die can make now; the rings then have room for far records. -/
def State.refillAll (s : State) (p die : Nat) : State :=
  (s.refillRings p die (s.creelShare p die - (s.creel die p).entries.length)).pullFar p die

/-- Whether a core of a die can make a task of the bound launch resident at once (R161): it admits no strand first that has
arrived there before (R149). -/
def State.canTask (s : State) (p core : Nat) : Bool :=
  match (s.dom p).bound with
  | none => false
  | some slot => s.eligible p (s.slot slot).part core && s.admits core slot p (s.slot slot).part false
      && !s.admitsWaiting core

/-- An entry leaves its bucket, and a strand claims its effective bucket. -/
def State.takeEntry (s : State) (p die sid : Nat) (e : CEntry) : State :=
  (s.modCreel die p fun c => { c with
    entries := c.entries.erase e, claims := c.claims ++ [⟨sid, e.bucket, (s.dom p).seq⟩], traffic := true }).modDom p fun d =>
    { d with seq := d.seq + 1 }

/-- The strand a record becomes (R158). -/
def taskStrand (l : Slot) (d : Domain) (p sid core : Nat) (t : TaskRec) : Strand :=
  let x := newStrand l sid .light core t.pc [t.g1, t.g2, t.g3, t.g4, t.g5, t.g6]
  { x with pid := p, ctl := { x.ctl with prio := t.prio, cshift := d.cshift, cbound := d.cbound } }

/-- CREEL_DISPATCH: the head of the lowest eligible bucket of a core's die becomes a strand on that core, which admits it from
its arrival queue at once (R149, R161). -/
def execCreelDispatch (p core : Nat) (s : State) : Out :=
  let die := dieOf core
  if !s.canTask p core || (s.die die).halted || s.hub.down then .next s
  else
    let s := s.refillAll p die
    match s.eligibleHead p die, (s.dom p).bound with
    | some e, some slot =>
      let (sid, s) := s.takeSid (s.slot slot).gen.toNat slot 2
      let s := s.takeEntry p die sid e
      .next (((s.create (taskStrand (s.slot slot) (s.dom p) p sid core e.task)).toQueue sid core).seat sid core)
    | _, _ => .next s

/-- SPILL_RING_REFILL. -/
def execSpillRingRefill (p die : Nat) (s : State) : Out := .next ((s.refillOne p die).pullFar p die)

/-! ## Major 0x39 (R192 to R196) -/

/-- The traps that the members of major 0x39 share (R192): the domain is off, or the kind is wrong. -/
def creelTrap (s : State) (kindOk : Bool) : Option (BitVec 8 × Word) :=
  if !s.crEn s.st.pid then some (0x6C, 0) else if !kindOk then some (0x6D, s.st.sid.setWidth 64) else none

/-- Whether the strand in issue is a Creel task. -/
def State.isTask (s : State) : Bool := sidKind s.st.sid.toNat == 2

/-- Whether an earlier push waits on a die for the place that a push of priority t would take. -/
def State.pushAhead (s : State) (p die n : Nat) (t : TaskRec) : Bool :=
  let b := fun t => Nat.max (s.absBucket p t) (s.creel die p).base
  s.all.any fun x => match x.wait with
    | some (.cpush u d m) => x.pid == p && d == die && decide (m < n) && b u == b t
    | _ => false

/-- cpush (R193). -/
def execCpush (iv : BitVec 2) (a b : BitVec 5) (sc : BitVec 4) (s : State) : Out :=
  guarded (infoR (Decode.wCpush iv a b sc) iv sc (gs [a, b] ++ gRange 6)) s fun s =>
    match creelTrap s true with
    | some (c, v) => trapOut s c v
    | none =>
      match entryCause (s.G a) with
      | some c => trapOut s c (s.G a)
      | none =>
        let x := s.st
        let p := x.pid
        let die := dieOf x.core
        let t := x.task (s.G a) ((s.G b).setWidth 32)
        let s := (s.bindDom p (sidSlot x.sid.toNat)).countPush p die
        let n := (s.dom p).seq
        match (if s.pushAhead p die n t then none else s.placeTask p die t) with
        | some s => .next s.retire
        | none => .next ((s.modDom p fun d => { d with seq := n + 1 }).block (.cpush t die n))

/-- CPUSH_PLACEMENT: a push that waited finds room (R164, R165), behind those that waited longer. -/
def execCpushPlacement (sid : Nat) (s : State) : Out :=
  match s.strand sid with
  | none => .next s
  | some x =>
    match x.wait with
    | some (.cpush t die n) =>
      match (if s.pushAhead x.pid die n t then none else s.placeTask x.pid die t) with
      | some s => .next ((s.modView sid Strand.finish).toBack sid)
      | none => .next s
    | _ => .next s

/-- cpop (R194). -/
def execCpop (iv : BitVec 2) (sc : BitVec 4) (s : State) : Out :=
  guarded (infoR (Decode.wCpop iv sc) iv sc (gRange 7)) s fun s =>
    match creelTrap s s.isTask with
    | some (c, v) => trapOut s c v
    | none =>
      let x := s.st
      let die := dieOf x.core
      let s := s.refillAll x.pid die
      match s.eligibleHead x.pid die with
      | none => .next (s.setG 7 0).retire
      | some e =>
        let t := e.task
        let s := (s.retireTask x.sid.toNat x.pid die).takeEntry x.pid die x.sid.toNat e
        let s := ([(1, t.g1), (2, t.g2), (3, t.g3), (4, t.g4), (5, t.g5), (6, t.g6), (7, t.pc)] : List (BitVec 5 × Word)).foldl
          (fun s q => s.setG q.1 q.2) s
        .next (s.modSt fun x => x.modCtl fun c => { c with prio := t.prio }).retire

/-- cyield (R195): the record is placed first, and tried again while there is no room. -/
def execCyield (iv : BitVec 2) (sc : BitVec 4) (s : State) : Out :=
  guarded (infoR (Decode.wCyield iv sc) iv sc (gRange 6)) s fun s =>
    match creelTrap s s.isTask with
    | some (c, v) => trapOut s c v
    | none =>
      let x := s.st.completeAll
      let p := x.pid
      let die := dieOf x.core
      let t := x.task s.nextPc x.ctl.prio
      match (if s.pushAhead p die (s.dom p).seq t then none else s.placeTask p die t) with
      | none => .next s.retry
      | some s => .next (((s.creelTraffic p die).dropClaim x.sid.toNat p).removeStrand x.sid.toNat)

/-- cwait (R196). -/
def execCwait (iv : BitVec 2) (sc : BitVec 4) (s : State) : Out :=
  guarded (infoR (Decode.wCwait iv sc) iv sc []) s fun s =>
    match creelTrap s (!s.isTask) with
    | some (c, v) => trapOut s c v
    | none => .next (s.block .cwait)

/-- Every strand of a partition in cwait completes it. -/
def State.wakeCwait (s : State) (p : Nat) : State :=
  s.all.foldl (fun s x => if x.pid == p && x.wait == some .cwait then s.finishWait x.sid.toNat id else s) s

/-! ## Snapshots (R160, R167, R168) -/

/-- The lowest effective bucket a die holds. -/
def State.report (s : State) (p die : Nat) : Option Nat :=
  let c := s.creel die p
  minOf (c.entries.map (·.bucket) ++ c.claims.map (·.bucket) ++ (s.farList p die).map (s.effBucket p die)
    ++ ((List.range 64).map fun b => (s.ringRecs p die b).map (s.effBucket p die)).flatten)

/-- Whether a task is blocked (R166): a saved one that resume has made ready only waits for a core, which is no such reason. -/
def State.blocked (s : State) (x : Strand) : Bool :=
  x.place == .cut || x.place == .saved || x.flags.parked || match x.wait with
    | some (.waitL _) | some (.waitA _ _ _ _) | some (.barrier _ _ _) => true
    | some (.await _ _ t _) => s.promiseReached t
    | _ => false

/-- The base of a domain. -/
def State.domBase (s : State) (p : Nat) : Nat := (((s.domDies p).head?).map fun d => (s.creel d p).base).getD 0

/-- The earliest dispatched task in bucket B, if the bucket holds only claims of blocked tasks (R167). -/
def State.pinnedTask (s : State) (p : Nat) : Option Nat :=
  let b := s.domBase p
  let ds := s.domDies p
  let claims := (ds.map fun d => (s.creel d p).claims.filter (·.bucket == b)).flatten
  let held := ds.any fun d => (s.creel d p).entries.any (·.bucket == b)
    || (List.range 64).any fun r => (s.ringRecs p d r).any fun t => s.effBucket p d t == b
  let ready := claims.any fun c => !((s.strand c.sid).any s.blocked)
  if held || ready then none
  else (claims.foldl (fun (a : Option Claim) c => match a with
    | none => some c
    | some k => if c.seq < k.seq then some c else a) none).map (·.sid)

/-- A pinned task that is cut or saved becomes ready to take the fault at its blocking instruction (R167), once its save has
ended: a parked one gives up its request, which its sysc makes again. -/
def State.wakePinned (s : State) (sid : Nat) : State :=
  match s.strand sid with
  | none => s
  | some x =>
    if x.place ≠ .saved ∧ x.place ≠ .cut then s
    else
      let s := s.modDieRegs (dieOf x.core) x.pid fun r => { r with parked := r.parked.filter (· != sid) }
      let s := s.modView sid fun y => if y.flags.parked then { y with wait := none, flags := { y.flags with parked := false } } else y
      s.makeReady sid fun f => { f with wake := x.place == .cut }

/-- The Creel unit that holds a task's claim. -/
def State.claimDie (s : State) (p sid : Nat) : Nat :=
  ((s.domDies p).find? fun d => (s.creel d p).claims.any (·.sid == sid)).getD 0

/-- The pin check of a snapshot (R167). -/
def State.pinCheck (s : State) (p : Nat) : State :=
  let b := s.domBase p
  match s.pinnedTask p with
  | none => s.modDom p fun d => { d with pinned := 0 }
  | some sid =>
    let d := s.dom p
    let n := if d.pinned ≠ 0 ∧ d.pinBase = b then d.pinned + 1 else 1
    let s := s.modDom p fun d => { d with pinned := n, pinBase := b }
    let cinv := s.crCinv p
    if cinv ≠ 0 ∧ cinv < n ∧ (n - 1) % cinv = 0 then
      ((s.deferTo sid 0x70 (BitVec.ofNat 64 b)).wakePinned sid).countCreel p (s.claimDie p sid) .creelPin 1 else s

/-- CREEL_SNAPSHOT, at a clk that is a multiple of 64, once; one that replaces a snapshot not published keeps its traffic. -/
def execCreelSnapshot (p : Nat) (s : State) : Out :=
  let d := s.dom p
  if s.clk.toNat % 64 ≠ 0 ∨ (d.pendingPub ∧ d.snapAt = s.clk.toNat) then .next s
  else
    let ds := s.domDies p
    let s := s.pinCheck p
    let sum := fun (f : CreelSet → Nat) => ds.foldl (fun n d => n + f (s.creel d p)) 0
    let traffic := ds.any fun d => (s.creel d p).traffic
    let s' := ds.foldl (fun t d => t.modCreel d p fun c => { c with traffic := false, report := s.report p d }) s
    .next (s'.modDom p fun d => { d with
      snapPushed := sum (·.pushed), snapRetired := sum (·.retired), snapAt := s.clk.toNat
      snapTraffic := traffic || (d.pendingPub && d.snapTraffic)
      prevTraffic := if d.pendingPub then d.prevTraffic else d.snapTraffic
      counted := false, pendingPub := true })

/-! ## Publications (R156, R160, R163, R168, R171) -/

/-- Insert an entry behind those that come no later: by bucket, late ones first. -/
def insertEntry (e : CEntry) : List CEntry → List CEntry
  | [] => [e]
  | x :: l =>
    if x.bucket < e.bucket || (x.bucket == e.bucket && (x.late || !e.late)) then x :: insertEntry e l else e :: x :: l

/-- A base takes effect on a die: entries and claims below it join its late entries, ring and far records below it are late
too, and far records within 64 buckets of it come in while there is room. -/
def State.raiseBase (s : State) (p die b : Nat) : State :=
  let c := s.creel die p
  let below := (c.entries.filter fun e => decide (e.bucket < b)).foldl (fun l e => insertEntry e l) []
  let rest := c.entries.filter fun e => !decide (e.bucket < b)
  let atRest := ((List.range 64).map fun r => s.ringRecs p die r).flatten ++ s.farList p die
  let moved := below.length + (atRest.filter fun t => decide (s.effBucket p die t < b)).length
    + (c.claims.filter fun k => decide (k.bucket < b)).length
  let s := s.modCreel die p fun c => { c with
    base := b
    entries := rest ++ below.map fun e => { e with bucket := b, late := true }
    claims := c.claims.map fun k => { k with bucket := Nat.max k.bucket b } }
  (s.countCreel p die .creelLate moved).pullFar p die

/-- Eligible resident entries of a die. -/
def State.eligibleCount (s : State) (p die : Nat) : Nat :=
  ((s.creel die p).entries.filter fun e => decide (e.bucket ≤ s.boundOf p die)).length

/-- Up to n entries of the head of a bucket pass to another die. -/
def State.giveEntries (s : State) (p src dst b : Nat) : Nat → State
  | 0 => s
  | n + 1 =>
    match (s.creel src p).head b with
    | none => s
    | some e =>
      if s.shareFull p dst then s
      else State.giveEntries ((s.modCreel src p fun c => { c with entries := c.entries.erase e }).modCreel dst p fun c =>
        { c with entries := c.entries ++ [e] }) p src dst b n

/-- R163: a die with nothing eligible and a core that could take a task receives up to 16 entries of the die with the most. The
dies are served in increasing number, and of several that hold the most the lowest gives (R163 does not say; log 29). -/
def State.balance (s : State) (p : Nat) : State :=
  (s.domDies p).foldl (fun s d =>
    if s.eligibleCount p d ≠ 0 || !(coresOf d).any (s.canTask p) then s
    else match argmax ((s.domDies p).filter fun e => e != d && s.eligibleCount p e != 0) (s.eligibleCount p) with
      | none => s
      | some g => match s.lowBucket p g with
        | none => s
        | some b => s.giveEntries p g d b 16) s

/-- The record that spill-out sends next from a die, and the state without it: the last of the far list, else the tail of
the highest bucket. -/
def State.takeLast (s : State) (p die : Nat) : Option (TaskRec × State) :=
  match (s.farList p die).getLast? with
  | some t => some (t, s.setFar p die (s.farList p die).dropLast)
  | none =>
    let es := (s.creel die p).entries
    match argmax (es.map (·.bucket)) id with
    | none => none
    | some b =>
      let own := es.filter (·.bucket == b)
      match (match (own.filter (!·.late)).getLast? with | some e => some e | none => own.getLast?) with
      | none => none
      | some e => some (e.task, s.modCreel die p fun c => { c with entries := c.entries.erase e })

/-- Fabric address of a byte of a transmit window (R370). -/
def winAddr (w off : Nat) : Nat := 2 ^ 54 + w * 2 ^ 45 + off

/-- One record leaves through a Creel window, into a slot that a free value chooses (log 3); it counts as retired here. -/
def State.sendRecord (s : State) (p die : Nat) (t : TaskRec) : State :=
  let w := s.crOwin p
  let slot := s.freeNat % (s.txLen p w / 64)
  let s := s.takeFree.reflect (2 ^ 48) p (winAddr w (64 * slot)) (natBytes t.toNat 64) none none
  let s := s.modCreel die p fun c => { c with retired := c.retired + 1, traffic := true }
  (s.modDom p fun d => { d with sent := d.sent + 1 }).countCreel p die .creelOut 1

/-- Up to n records of a die are sent out. -/
def State.spillOut (s : State) (p die : Nat) : Nat → State
  | 0 => s
  | n + 1 =>
    if s.reflectFull p then s
    else match s.takeLast p die with
      | none => s
      | some (t, s) => State.spillOut (s.sendRecord p die t) p die n

/-- R171: dies with more resident entries than the threshold send records out through a mapped Creel window. -/
def State.spillOuts (s : State) (p : Nat) : State :=
  let w := s.crOwin p
  if s.crOthr p = 0 ∨ s.crPdom p = 0 ∨ (s.reflectCheck p (winAddr w 0) 64).isSome then s
  else (s.domDies p).foldl (fun s d =>
    if s.crOthr p * 16 < (s.creel d p).entries.length then s.spillOut p d 16 else s) s

/-- CREEL_PUBLICATION, 16 cycles after the snapshot. A push counted since the snapshot keeps the domain busy (R156); cwait does
not look at it, whose traffic the next publication sees (R168). -/
def execCreelPublication (p : Nat) (s : State) : Out :=
  let d := s.dom p
  if !d.pendingPub || s.clk.toNat != d.snapAt + 16 then .next s
  else
    let ds := s.domDies p
    let s := s.modDom p fun d => { d with pendingPub := false }
    let s := match minOf (ds.filterMap fun d => (s.creel d p).report) with
      | none => s
      | some b => if s.domBase p < b then ds.foldl (fun s d => s.raiseBase p d b) s else s
    let s := ds.foldl (fun s e => s.pullFar p e) s
    let zero := d.snapPushed == d.snapRetired
    let met := zero && !d.snapTraffic && !d.prevTraffic
    let s := if zero && !d.counted then s.idleDom p else s
    let s := s.modDom p fun d => { d with quiet := met }
    let s := if met && s.crPdom p == 0 then s.wakeCwait p else s
    .next ((s.balance p).spillOuts p)

/-! ## Pod domains (R169, R170, R383) -/

/-- This device's values of a wave: its live count is that of the last snapshot. -/
def State.ownWave (s : State) (p : Nat) : WaveEntry :=
  let d := s.dom p
  { device := s.hub.device, live := d.snapPushed - d.snapRetired, quiet := d.quiet, sent := d.sent, accepted := d.accepted }

/-- A member's values join a wave, in the order of the devices. -/
def insertWave (e : WaveEntry) (l : List WaveEntry) : List WaveEntry :=
  (l.filter fun w => decide (w.device < e.device)) ++ e :: l.filter fun w => decide (e.device < w.device)

/-- Values are gathered for a wave. -/
def State.gatherWave (s : State) (p : Nat) (e : WaveEntry) : State := s.modDom p fun d => { d with gather := insertWave e d.gather }

/-- Whether a device has gathered its own values and those of every child: the values of the whole part of the tree below it,
as each member sends its own only behind those of its children (R383, log 59). -/
def State.waveWhole (s : State) (p : Nat) : Bool :=
  (s.hub.device :: s.podKids p (s.crPdom p)).all fun d => (s.dom p).gather.any (·.device == d)

/-- A member that is not the root sends its own values up once its children's have gone before them. -/
def State.sendOwn (s : State) (p : Nat) : State :=
  let n := s.crPdom p
  if s.podRoot p n || !s.waveWhole p then s
  else match (s.dom p).gather.find? (·.device == s.hub.device) with
    | none => s
    | some e => (s.modDom p fun d => { d with gather := [] }).sendControl p (s.podParent p n) (.waveUp n e)

/-- A member's values on their way to the root come from a child: they are gathered at the root, and forwarded unchanged
elsewhere, where the child's own are noted (R383). -/
def State.waveFrom (s : State) (p child : Nat) (e : WaveEntry) : State :=
  let n := s.crPdom p
  if s.podRoot p n then s.gatherWave p e
  else
    let s := s.sendControl p (s.podParent p n) (.waveUp n e)
    if e.device = child then (s.gatherWave p e).sendOwn p else s

/-- Whether a wave shows the pod at rest (R169). -/
def waveRest (l : List WaveEntry) : Bool :=
  l.all (fun e => e.live == 0 && e.quiet)
    && l.foldl (fun n e => n + e.sent) 0 == l.foldl (fun n e => n + e.accepted) 0

/-- A whole wave reaches a member: cwait returns when it and the one before agree and show the pod at rest (R169). It goes on
down the tree. -/
def State.takeWave (s : State) (p : Nat) (wave : List WaveEntry) : State :=
  let done := (s.dom p).wave == wave && waveRest wave
  let s := (s.modDom p fun d => { d with wave := wave }).sendDown p (s.crPdom p) (.waveDown (s.crPdom p) wave)
  if done then s.wakeCwait p else s

/-- CREEL_WAVE: a step of a wave along the tree of the domain's group. The own values are taken every 4,096 cycles, once. -/
def execCreelWave (p : Nat) (part : WaveStep) (s : State) : Out :=
  let n := s.crPdom p
  let on := n != 0 && s.podEn p n
  match part with
    | .own =>
      if !on ∨ s.clk.toNat % 4096 ≠ 0 ∨ (s.dom p).waveAt = some s.clk.toNat then .next s
      else .next (((s.modDom p fun d => { d with waveAt := some s.clk.toNat }).gatherWave p (s.ownWave p)).sendOwn p)
    | .up h e => .next (s.takeControl p h fun s => if on && (s.podKids p n).contains h.src then s.waveFrom p h.src e else s)
    | .send =>
      if on && s.podRoot p n && s.waveWhole p then
        .next ((s.modDom p fun d => { d with gather := [] }).takeWave p (s.dom p).gather)
      else .next s
    | .down h wave => .next (s.takeControl p h fun s =>
        if on && !s.podRoot p n && h.src == s.podParent p n then s.takeWave p wave else s)

/-- Die-memory base of a receive window (R372). -/
def State.rxBase (s : State) (p rx : Nat) : Nat := (s.cfg p (0x9000 + 32 * rx)).toNat % 2 ^ 56

/-- The key of a record slot of a receive window. -/
def slotKey (rx slot : Nat) : Nat := rx * 2 ^ 64 + slot

/-- Whether the bytes of a slot have all arrived since it was last pushed (R170). -/
def State.slotFull (s : State) (p rx slot : Nat) : Bool :=
  (Assoc.getD (s.part p).creelBytes (slotKey rx slot) (0, 0)).1 == BitVec.allOnes 64

/-- The die an intake record goes to, which a free value chooses (log 3). -/
def State.intakeDie (s : State) (p : Nat) : Option Nat := (s.domDies p)[s.freeNat % (s.domDies p).length]?

/-- Whether a record is dropped at the intake (R170). -/
def badRecord (n : Nat) : Bool := n / 2 ^ 480 != 0 || (taskOf n).pc.toNat % 4 != 0

/-- CREEL_INTAKE_RECORD (R170): the record of a complete slot is pushed, behind the pushes that wait for its bucket; it is traffic
also where it is dropped (R168). One that reaches an idle domain binds it to no launch (R156 names only a strand's push and a
seed packet as what binds; log 29): it is placed, and dispatched once something else binds. -/
def execCreelIntakeRecord (p rx slot : Nat) (s : State) : Out :=
  if !s.slotFull p rx slot then .next s
  else
    let n := Memory.readN s.mem (s.rxBase p rx + 64 * slot) 64
    let t := taskOf n
    let done := fun (s : State) => s.modPart p fun q => { q with creelBytes := Assoc.erase q.creelBytes (slotKey rx slot) }
    match s.intakeDie p with
    | none => .next s
    | some die =>
      if badRecord n then .next (((done s).creelTraffic p die).countCreel p die .creelBad 1)
      else match (if s.pushAhead p die (s.dom p).seq t then none else s.takeFree.placeTask p die t) with
        | none => .next s
        | some s =>
          .next ((((done s).countPush p die).modDom p fun d => { d with accepted := d.accepted + 1 }).countCreel p die .creelIn 1)

end Sys2Proof.Machine
end

