-- ==== Sys2Proof/Machine/Launch.lean ====
section
/-!
DEFINITION. User queues, packets, nodes and launches (07 R131 to R145, 08 R155, R408): the events of the packet processor,
the ready pool, the master distributor and the completions.
-/
namespace Sys2Proof.Machine

/-! ## Taking a packet (R131) -/

/-- Bytes of a packet, as a number: k of them from an offset. -/
def pk (n off k : Nat) : Nat := n / 2 ^ (8 * off) % 2 ^ (8 * k)

/-- USER_QUEUE_NOTIFY: a write of the notify register, which a part without a boot image does not take (R404). -/
def execUserQueueNotify (p q : Nat) (index : BitVec 64) (s : State) : Out :=
  .next (if 64 ≤ q || !s.hub.booted then s else s.cfgWrite p (0xC000 + 8 * q) index .host)

/-- Whether a node stands in the ready pool of its partition (R140): until its last strand is dispatched, or it is done. -/
def Node.pooled (n : Node) : Bool :=
  n.ready && !n.ended && match n.body with
    | .launch _ count _ _ _ _ _ _ _ _ => decide (n.done < count)
    | _ => true

/-- Whether the ready pool of a partition has room. -/
def State.poolRoom (s : State) (p : Nat) : Bool := decide ((s.hub.nodes.filter fun n => n.pid == p && n.pooled).length < 4096)

/-- The 64 bytes of the packet at a queue's read index, if the processor may take one. -/
def State.nextPacket (s : State) (p q : Nat) : Option Nat :=
  let r := s.readIndex p q
  if 64 ≤ q ∨ !s.enabled p ∨ s.hub.down ∨ r = s.writeIndex p q ∨ !s.poolRoom p then none
  else
    let base := (s.cfg p (0x100 + 16 * q)).toNat / 16 * 16
    some (Memory.readN s.mem (base + 64 * (r % s.ringSize p q)) 64)

/-- Put the read-index dword: the index, and the cause of a rejection without a usable signal (R137). -/
def State.putReadIndex (s : State) (p q r : Nat) (cause : Option (BitVec 8)) : State :=
  let old := (s.cfg p (0x108 + 16 * q)).toNat / 2 ^ 56
  s.setCfg p (0x108 + 16 * q) (BitVec.ofNat 64 (r % 2 ^ 32 + ((cause.map (·.toNat)).getD old) * 2 ^ 56))

/-- The slot is read in: the new read index is published. -/
def State.advance (s : State) (p q : Nat) : State := s.putReadIndex p q (s.readIndex p q + 1) none

/-! ## Addresses (R137) -/

/-- The physical pieces of a range of a partition, of at most k pages, each with the rights asked for (as bits r, w), in die
memory or, where it is allowed, host memory; none if a byte fails. -/
def State.mapRange (s : State) (p rights : Nat) (host : Bool) : Nat → Nat → Nat → Option (List (Nat × Nat))
  | 0, _, n => if n = 0 then some [] else none
  | k + 1, va, n =>
    if n = 0 then some []
    else match s.pageAt p va with
      | none => none
      | some g =>
        let m := Nat.min n (g.vbase + g.size - va % 2 ^ 56)
        let a := g.addr (va % 2 ^ 56)
        if g.rights &&& rights ≠ rights || !(spaceOf a == .dieMem && !g.host || host && g.host && spaceOf a == .host) then none
        else (State.mapRange s p rights host k (va + m) (n - m)).map ((a, m) :: ·)

/-- The same for an address word. -/
def State.mapVa (s : State) (p : Nat) (va : Word) (n rights : Nat) (host : Bool) : Option (List (Nat × Nat)) :=
  if va.toNat / 2 ^ 60 ≠ 0 ∨ 2 ^ 56 < va.toNat % 2 ^ 56 + n then none
  else s.mapRange p rights host (n / 65536 + 2) (va.toNat % 2 ^ 56) n

/-- The physical address of a signal: 16-byte aligned, in die memory, r and w. -/
def State.sigPa (s : State) (p : Nat) (va : Word) : Option Nat :=
  if va.toNat % 16 ≠ 0 then none else ((s.mapVa p va 16 3 false).bind (·.head?)).map (·.1)

/-- An optional signal address: none at all, or one that is usable; otherwise it fails. -/
def State.optSig (s : State) (p : Nat) (va : Word) : Option (Option Nat) :=
  if va = 0 then some none else (s.sigPa p va).map some

/-- The address of byte i of physical pieces. -/
def pieceAt : List (Nat × Nat) → Nat → Nat
  | [], _ => 0
  | (a, n) :: t, i => if i < n then a + i else pieceAt t (i - n)

/-- n bytes from byte i of physical pieces on, as a number. -/
def State.readPieces (s : State) (l : List (Nat × Nat)) (i n : Nat) : Nat :=
  (List.range n).foldl (fun x j => x + Memory.readN s.mem (pieceAt l (i + j)) 1 * 2 ^ (8 * j)) 0

/-! ## Acceptance and rejection (R132, R135) -/

/-- A packet is rejected (R135, R137): its signal is decremented with the cause, or the cause stands in the queue's dword. -/
def State.rejectPacket (s : State) (p q n : Nat) (cause : BitVec 8) : State :=
  match s.optSig p (BitVec.ofNat 64 (pk n 8 8)) with
  | some (some pa) => s.signalDec pa cause
  | _ => s.putReadIndex p q (s.readIndex p q) (some cause)

/-- What every packet keeps to (R132, R137): reserved header bits zero, a usable signal or none. -/
def State.headerOk (s : State) (p n : Nat) : Bool :=
  decide (pk n 0 8 / 64 = 0) && (s.optSig p (BitVec.ofNat 64 (pk n 8 8))).isSome

/-- A packet becomes a node (R140). -/
def State.addNode (s : State) (p q n : Nat) (body : NodeBody) (wait : Option Nat) : State :=
  let va := BitVec.ofNat 64 (pk n 8 8)
  let x : Node :=
    { id := s.hub.nextNode, pid := p, queue := q, acq := pk n 0 1 / 16 % 2 == 1, rel := pk n 0 1 / 32 % 2 == 1, sigVa := va
      signal := (s.optSig p va).getD none, wait := wait, body := body }
  s.modHub fun h => { h with nodes := h.nodes ++ [x], nextNode := h.nextNode + 1 }

/-- Take the next packet of a queue if it is of one of the kinds, and make it what its body gives: a node, or a rejection. -/
def takePacket (p q : Nat) (kinds : Nat → Bool) (body : State → Nat → Except (BitVec 8) (NodeBody × Option Nat)) (s : State) : Out :=
  match s.nextPacket p q with
  | none => .next s
  | some n =>
    if !kinds (pk n 0 1 % 16) then .next s
    else
      let s := s.advance p q
      match (if s.headerOk p n then body s n else .error 0x61) with
      | .ok (b, w) => .next (s.addNode p q n b w)
      | .error c => .next (s.rejectPacket p q n c)

/-! ## The kinds of packet (R133, R134, R139) -/

/-- Whether a partition word keeps to R19. -/
def partOk (w : Nat) : Bool :=
  let regg := w % 32
  let accg := w / 32 % 32
  decide (w / 2 ^ 10 = 0) && decide (2 ≤ regg) && decide (regg ≤ 24) && decide (accg ≤ 8) && decide (regg + accg + 4 ≤ 32)

/-- An operand of a list entry (R134): virtual base, length, mode; none for an entry that is not well formed. -/
def operandOf (n : Nat) : Option (Word × Nat × Nat) :=
  let va := pk n 0 8
  let len := pk n 8 8
  let mode := pk n 16 8
  if len = 0 ∨ len % 64 ≠ 0 ∨ mode / 16 ≠ 0 ∨ pk n 24 8 ≠ 0 ∨ va % 64 ≠ 0 then none else some (BitVec.ofNat 64 va, len, mode)

/-- All of a list, or none. -/
def allSome {α : Type} : List (Option α) → Option (List α)
  | [] => some []
  | a :: t => a.bind fun x => (allSome t).map (x :: ·)

/-- The operands of a launch packet, read when it is accepted (R134). -/
def State.operandList (s : State) (p : Nat) (va : Word) (nops : Nat) : Option (List (Word × Nat × Nat)) :=
  if nops = 0 then some []
  else if va.toNat % 32 ≠ 0 then none
  else (s.mapVa p va (32 * nops) 1 false).bind fun l =>
    allSome ((List.range nops).map fun i => operandOf (s.readPieces l (32 * i) 32))

/-- The body of a launch packet (R133, R135): 0x60 only where the count is the only fault. -/
def State.launchBody (s : State) (p n : Nat) : Except (BitVec 8) (NodeBody × Option Nat) :=
  let count := pk n 0x18 4
  let slots := pk n 0x1D 1
  let arrq := pk n 0x1E 1
  let cshift := pk n 0x1F 1
  let cbound := pk n 0x20 1
  let nops := pk n 0x21 1
  let part := pk n 0x22 2
  match Cls.ofCode (pk n 0x1C 1), s.operandList p (BitVec.ofNat 64 (pk n 0x30 8)) nops, s.optSig p (BitVec.ofNat 64 (pk n 0x38 8)) with
  | some cls, some ops, some wait =>
    if pk n 0x10 8 % 4 ≠ 0 ∨ slots < 2 ∨ 64 < slots ∨ arrq < 4 ∨ 16 < arrq ∨ 31 < cshift ∨ 63 < cbound ∨ 12 < nops ∨ !partOk part
        ∨ pk n 0x24 4 ≠ 0 then .error 0x61
    else if 2 ^ 30 < count then .error 0x60
    else .ok (.launch (BitVec.ofNat 64 (pk n 0x10 8)) count cls slots arrq (BitVec.ofNat 5 cshift) (BitVec.ofNat 6 cbound)
      (BitVec.ofNat 10 part) (BitVec.ofNat 64 (pk n 0x28 8)) ops, wait)
  | _, _, _ => .error 0x61

/-- LAUNCH_PACKET, and every packet of an unknown kind (R132, R135). -/
def execLaunchPacket (p q : Nat) (s : State) : Out :=
  takePacket p q (fun k => k == 1 || k == 0 || decide (6 ≤ k)) (fun s n =>
    if pk n 0 1 % 16 = 1 then s.launchBody p n else .error 0x61) s

/-- SIGNAL_OPERATION_PACKET (R139). -/
def execSignalOperationPacket (p q : Nat) (s : State) : Out :=
  takePacket p q (· == 2) (fun s n =>
    let va := BitVec.ofNat 64 (pk n 0x10 8)
    match s.sigPa p va with
    | none => .error 0x61
    | some pa =>
      if 2 < pk n 0x18 8 ∨ pk n 0x28 24 ≠ 0 then .error 0x61
      else .ok (.signal va pa (pk n 0x18 8) (BitVec.ofNat 64 (pk n 0x20 8)), none)) s

/-- BARRIER_AND_PACKET (R139). -/
def execBarrierAndPacket (p q : Nat) (s : State) : Out :=
  takePacket p q (· == 3) (fun s n =>
    let va := BitVec.ofNat 64 (pk n 0x10 8)
    let count := pk n 0x18 4
    if va.toNat % 16 ≠ 0 ∨ count < 1 ∨ 64 < count ∨ pk n 0x1C 36 ≠ 0 then .error 0x61
    else match s.mapVa p va (16 * count) 1 false with
      | none => .error 0x61
      | some l =>
        match allSome ((List.range count).map fun i =>
          (s.sigPa p (BitVec.ofNat 64 (s.readPieces l (16 * i) 8))).map fun pa =>
            (pa, BitVec.ofNat 64 (s.readPieces l (16 * i + 8) 8))) with
        | some list => .ok (.barrierAnd list, none)
        | none => .error 0x61) s

/-- COPY_PACKET (R139; R271, R274: both ends 8-byte aligned, at most 2^32 bytes). -/
def execCopyPacket (p q : Nat) (s : State) : Out :=
  takePacket p q (· == 4) (fun s n =>
    let src := BitVec.ofNat 64 (pk n 0x10 8)
    let dst := BitVec.ofNat 64 (pk n 0x18 8)
    let len := pk n 0x20 8
    if src.toNat % 8 ≠ 0 ∨ dst.toNat % 8 ≠ 0 ∨ len = 0 ∨ 2 ^ 32 < len ∨ len % 64 ≠ 0 ∨ pk n 0x28 24 ≠ 0 then .error 0x61
    else match s.mapVa p src len 1 true, s.mapVa p dst len 2 true with
      | some a, some b => .ok (.copy src dst a b len, none)
      | _, _ => .error 0x61) s

/-! ## Creel seeds (R155, R156, R408) -/

/-- The slot of the newest live launch of a queue (R156). -/
def State.newestLaunch (s : State) (p q : Nat) : Option Nat :=
  let l := s.hub.slots.filter fun (x : Nat × Slot) => x.2.used && !x.2.closed && x.2.pid == p && x.2.queue == q
  argmax (l.map (·.1)) fun i => (s.slot i).age

/-- Whether a seed of a queue can be taken: the domain is on, and bound or bindable. -/
def State.seedOk (s : State) (p q : Nat) : Bool := s.crEn p && ((s.dom p).bound.isSome || (s.newestLaunch p q).isSome)

/-- CREEL_SEED_PACKET. -/
def execCreelSeedPacket (p q : Nat) (s : State) : Out :=
  takePacket p q (· == 5) (fun s n =>
    let va := BitVec.ofNat 64 (pk n 0x10 8)
    let count := pk n 0x18 8
    if va.toNat % 64 ≠ 0 ∨ count < 1 ∨ 4096 < count ∨ pk n 0x20 8 ≠ 0 ∨ pk n 0x28 24 ≠ 0 ∨ !s.seedOk p q then .error 0x61
    else match s.mapVa p va (64 * count) 1 false with
      | none => .error 0x61
      | some l => .ok (.seed l count, none)) s

/-- Record i of a seed list with the die it goes to (R408); what R170 drops at an intake is pushed here (log 61). -/
def State.seedRec (s : State) (l : List (Nat × Nat)) (ds : List Nat) (i : Nat) : Option (Nat × TaskRec) :=
  (ds[i % ds.length]?).map fun die => (die, taskOf (s.readPieces l (64 * i) 64))

/-- A seed record is placed, behind the pushes that wait for its bucket (R164). -/
def State.placeSeed (s : State) (p die : Nat) (t : TaskRec) : Option State :=
  if s.pushAhead p die (s.dom p).seq t then none else s.placeTask p die t

/-- Records i, i + 1, … of a seed list are pushed in list order over the domain's dies in turn, as long as there is room: how
many have been pushed. -/
def State.seedFrom (s : State) (p : Nat) (l : List (Nat × Nat)) (ds : List Nat) : Nat → Nat → Nat × State
  | 0, i => (i, s)
  | k + 1, i =>
    match s.seedRec l ds i with
    | none => (i, s)
    | some (die, t) =>
      match s.placeSeed p die t with
      | none => (i, s)
      | some s => State.seedFrom (s.countPush p die) p l ds k (i + 1)

/-! ## Nodes -/

/-- The node of an id. -/
def State.nodeOf (s : State) (id : Nat) : Option Node := s.hub.nodes.find? (·.id == id)

/-- Change a node. -/
def State.modNode (s : State) (id : Nat) (f : Node → Node) : State :=
  s.modHub fun h => { h with nodes := h.nodes.map fun n => if n.id = id then f n else n }

/-- The acquire condition of a node (R138): every earlier packet of its queue has completed, and the reflected stores that
their launches made to this device are visible. -/
def State.acquired (s : State) (n : Node) : Bool :=
  !n.acq || (s.hub.nodes.all (fun m => m.pid != n.pid || m.queue != n.queue || decide (n.id ≤ m.id))
    && s.hub.copies.all fun c => c.shown || c.dev != s.hub.device || c.launch.all fun l =>
      l.1 != 64 * n.pid + n.queue || decide (n.id ≤ l.2))

/-- What acquire gives a node (R138, log 54): the stores of earlier launches of its queue leave the buffers of the cores they
ran on, the paths deliver what they carry, and no read cache of the partition keeps a line read before. -/
def State.acquire (s : State) (n : Node) : State :=
  let s := s.cores.foldl (fun s c =>
    if c.2.ran.any fun r => r.queue == 64 * n.pid + n.queue && decide (r.node < n.id) then s.drain c.1 else s) s
  let s := (List.range 16).foldl (fun s d => s.flushPaths d) s
  { s with cores := s.cores.map fun (c : Nat × Core) =>
      (c.1, if s.inBands n.pid c.1 then { c.2 with rcache := [] } else c.2) }

/-- Whether a node's wait signal reads zero, if it names one (R140). -/
def State.waited (s : State) (n : Node) : Bool := match n.wait with
  | none => true
  | some pa => Memory.readN s.mem pa 8 == 0

/-- NODE_READY (R140): a launch without strands is over at once (R135), once its acquire fence and, as for any launch, its wait
signal and the ready pool let it in (R135 names the fences only; log 61). -/
def execNodeReady (node : Nat) (s : State) : Out :=
  match s.nodeOf node with
  | none => .next s
  | some n =>
    if n.ready || !s.acquired n || !s.waited n || !s.poolRoom n.pid || s.hub.down then .next s
    else .next ((if n.acq then s.acquire n else s).modNode node fun n => { n with ready := true, ended := match n.body with
      | .launch _ count _ _ _ _ _ _ _ _ => decide (count = 0)
      | _ => false })

/-- A node completes (R136): its signal, unless its range was revoked (R137); the node is gone. -/
def State.finishNode (s : State) (n : Node) (cause : BitVec 8) : State :=
  let s := match n.signal with
    | none => s
    | some pa =>
      if cutBy n.cuts n.sigVa then
        s.count n.pid .sigLost (if cause ≠ 0 ∧ Memory.readN s.mem (pa + 8) 8 / 2 ^ 63 = 0 then 2 else 1)
      else s.signalDec pa cause
  s.modHub fun h => { h with nodes := h.nodes.filter (·.id != n.id) }

/-- A signal operation (R139), at package scope. -/
def State.signalOp (s : State) (pid : Nat) (cuts : List (Word × Nat)) (va : Word) (pa op : Nat) (y : Word) : State :=
  if cutBy cuts va then s.count pid .sigLost 1
  else
    let x := Memory.readN s.mem pa 8
    s.hubWrite pa 8 ((if op = 0 then x + 2 ^ 64 - y.toNat else if op = 1 then y.toNat else x + y.toNat) % 2 ^ 64)

/-- NODE_COMPLETE: a signal operation is performed; seed records are pushed, and the node completes with the last of them; a
launch that is over without strands completes. A seed whose domain is off by then, or unbound with no live launch of its
queue, fails with 0x61 (log 61). -/
def execNodeComplete (node : Nat) (s : State) : Out :=
  match s.nodeOf node with
  | none => .next s
  | some n =>
    if !n.ready || s.hub.down then .next s
    else if n.ended then .next (s.finishNode n n.cause)
    else match n.body with
      | .signal va pa op y => .next ((s.signalOp n.pid n.cuts va pa op y).finishNode n 0)
      | .seed l count =>
        if !s.seedOk n.pid n.queue then .next (s.finishNode n 0x61)
        else
          let s := match s.newestLaunch n.pid n.queue with
            | some slot => s.bindDom n.pid slot
            | none => s
          let (i, s) := s.seedFrom n.pid l (s.domDies n.pid) (count - n.done) n.done
          .next (if i < count then s.modNode node fun n => { n with done := i } else s.finishNode n 0)
      | _ => .next s

/-- BARRIER_AND_COMPLETE (R139): a listed signal in error fails the node; else every value is at or below its threshold. -/
def execBarrierAndComplete (node : Nat) (s : State) : Out :=
  match s.nodeOf node with
  | none => .next s
  | some n =>
    match n.body with
    | .barrierAnd list =>
      if !n.ready || s.hub.down then .next s
      else match list.findSome? fun e =>
          let st := Memory.readN s.mem (e.1 + 8) 8
          if st / 2 ^ 63 = 1 then some (BitVec.ofNat 8 st) else none with
        | some c => .next (s.finishNode n c)
        | none =>
          if list.all fun e => decide ((BitVec.ofNat 64 (Memory.readN s.mem e.1 8)).toInt ≤ e.2.toInt) then
            .next (s.finishNode n 0)
          else .next s
    | _ => .next s

/-- One beat of the hub's copy engine: 64 bytes from byte i on; a revoked byte or a poisoned source line fails it. -/
def State.hubBeat (s : State) (n : Node) (srcVa dstVa : Word) (src dst : List (Nat × Nat)) (i : Nat) : Except (BitVec 8) State :=
  let r := (List.range 64).map (i + ·)
  let cut := fun (va : Word) => r.any fun j => cutBy n.cuts (va + BitVec.ofNat 64 j)
  let from_ := r.map (pieceAt src)
  if cut srcVa || cut dstVa then .error 0x48
  else if from_.any fun a => s.poisoned (Memory.line a) then .error 0x45
  else
    let l := (r.map (pieceAt dst)).zip (from_.map fun a => BitVec.ofNat 8 (Memory.readN s.mem a 1))
    .ok ((linesOf (l.map (·.1))).foldl (fun s line =>
      let (mask, data) := lineOf line l
      let s := s.performWrite line mask data
      if wholeLine line i (i + 64) l then s.unpoison line else s) s)

/-- Beats of the hub's copy engine in increasing address: the state, and the cause of the beat that failed. -/
def State.hubBeats (s : State) (n : Node) (srcVa dstVa : Word) (src dst : List (Nat × Nat)) : Nat → Nat → State × BitVec 8
  | 0, _ => (s, 0)
  | k + 1, i =>
    match s.hubBeat n srcVa dstVa src dst i with
    | .error c => (s, c)
    | .ok s => State.hubBeats s n srcVa dstVa src dst k (i + 64)

/-- COPY_PACKET_COMPLETE (R139, R344): a host-end error fails the copy after a free number of beats (log 3). -/
def execCopyPacketComplete (node : Nat) (hostError : Bool) (s : State) : Out :=
  match s.nodeOf node with
  | none => .next s
  | some n =>
    match n.body with
    | .copy srcVa dstVa src dst len =>
      if !n.ready || s.hub.down then .next s
      else
        let host := (src ++ dst).any fun q => spaceOf q.1 == .host
        if hostError && host then
          let (s, c) := s.takeFree.hubBeats n srcVa dstVa src dst (s.freeNat % (len / 64)) 0
          .next (s.finishNode n (if c = 0 then 0x85 else c))
        else
          let (s, c) := s.hubBeats n srcVa dstVa src dst (len / 64) 0
          .next (s.finishNode n c)
    | _ => .next s

/-! ## The distributor (R141 to R144) -/

/-- The pieces of a range of an operand, each virtually and physically contiguous, by first byte and pages: at most k of them;
none if more are needed or a page is missing (R142). -/
def State.operandRuns (s : State) (p stop : Nat) : Nat → Nat → Option (List (Nat × List Page))
  | 0, va => if stop ≤ va then some [] else none
  | k + 1, va =>
    if stop ≤ va then some []
    else match s.openPage p va with
      | none => none
      | some g =>
        let l := s.run p stop g runFuel
        (State.operandRuns s p stop k (runEnd stop l)).map ((va, l) :: ·)

/-- The pieces of an operand: base, length, mode. -/
def State.operandPieces (s : State) (p : Nat) (o : Word × Nat × Nat) : Option (List (Nat × List Page)) :=
  if o.1.toNat / 2 ^ 60 ≠ 0 ∨ 2 ^ 56 < o.1.toNat % 2 ^ 56 + o.2.1 then none
  else s.operandRuns p (o.1.toNat % 2 ^ 56 + o.2.1) 17 (o.1.toNat % 2 ^ 56)

/-- The entries over the pieces of an operand that ends at a byte: each has the rights its mode asks for that its pages give
(log 45). -/
def State.operandEntries (s : State) (mode stop : Nat) (l : List (Nat × List Page)) : List Extent :=
  l.filterMap fun r => (r.2.head?).map fun g => s.entryOver g r.1 (runEnd stop r.2) (grant r.2 mode)

/-- The extent table of a launch (R142). -/
def State.launchTable (s : State) (p : Nat) (ops : List (Word × Nat × Nat)) : Option (Vector Extent 16) :=
  match allSome (ops.map fun o =>
    (s.operandPieces p o).map (s.operandEntries o.2.2 (o.1.toNat % 2 ^ 56 + o.2.1))) with
  | none => none
  | some l =>
    let es := l.flatten
    if 16 < es.length then none else some (Vector.ofFn fun (i : Fin 16) => es.getD i.val 0)

/-- The full slots free on a core, where a scalar context counts as one full slot (R141). -/
def State.freeFull (s : State) (core : Nat) (part : BitVec 10) : Nat :=
  let used := (s.inRegion core).foldl (fun n x => n + if x.cls = .light then Cls.light.size else Cls.full.size) 0
  (4096 * regg (((s.core core).part).getD part) - used) / Cls.full.size

/-- What a die reports to the distributor for a partition and partition word (R141): free light slots, free full slots, free
pool granules (those of cores that hold no strand). -/
structure DieReport where
  light    : Nat
  full     : Nat
  granules : Nat

/-- The report of a die (R141). -/
def State.dieReport (s : State) (p : Nat) (part : BitVec 10) (die : Nat) : DieReport :=
  let cores := (coresOf die).filter (s.eligible p part)
  { light := cores.foldl (fun n c => n + s.freeCtx c part .light) 0
    full := cores.foldl (fun n c => n + s.freeFull c part) 0
    granules := 32 * (cores.filter fun c => (s.core c).part.isNone).length }

/-- The free slots of a class that a die reports. -/
def State.dieFree (s : State) (p : Nat) (part : BitVec 10) (cls : Cls) (die : Nat) : Nat :=
  match cls with
  | .light => (s.dieReport p part die).light
  | _ => (s.dieReport p part die).full

/-- Whether a die has room for a strand of a class: a core with a free context (R143). -/
def State.dieRoom (s : State) (p : Nat) (part : BitVec 10) (cls : Cls) (die : Nat) : Bool := (s.bestCore die p part cls).isSome

/-- Whether a partition may make k more strands resident (R390). -/
def State.mayAdmitN (s : State) (p k : Nat) : Bool := match s.limitOf p with
  | none => true
  | some n => decide ((s.part p).resident + k ≤ n)

/-- The smallest count of free full contexts on cores that a group needs, 0 if it does not fit. -/
def State.groupFit (s : State) (p : Nat) (part : BitVec 10) (cores : List Nat) : Nat :=
  (minOf (cores.map fun c => if s.eligible p part c then s.freeCtx c part .full else 0)).getD 0

/-- The groups that a die offers to n strands of a launch whose next index is i (R144): whole quads to groups of four, halves
of split quads to groups of two. -/
def State.groups (s : State) (p die i n : Nat) : List (List Nat) :=
  ((List.range 256).map fun q =>
    let quad := 256 * die + q
    if s.splitOf p (4 * quad) then [[4 * quad, 4 * quad + 1].take n, [4 * quad + 2, 4 * quad + 3].take n]
    else if i % 4 = 0 then [(coresIn quad).take n] else []).flatten

/-- The group of cores a launch's next full strands go to (R144). -/
def State.placeGroup (s : State) (p : Nat) (part : BitVec 10) (i n : Nat) : Option (List Nat) :=
  let fit := s.groupFit p part
  let dies := (s.domDies p).filter fun d => (s.groups p d i n).any fun g => decide (0 < fit g)
  (argmax dies (s.dieFree p part .full)).bind fun d =>
    (s.groups p d i n).foldl (fun a g => match a with
      | none => if 0 < fit g then some g else none
      | some b => if fit b < fit g then some g else some b) none

/-- The cores that the next strands of a launch go to; none while there is no room (R141, R143, R390). -/
def State.launchCores (s : State) (n : Node) : Option (List Nat) :=
  match n.body with
  | .launch _ count cls _ _ _ _ part _ _ =>
    match cls with
    | .full => (s.placeGroup n.pid part n.done (count - n.done)).filter fun g => s.mayAdmitN n.pid g.length
    | _ =>
      if !s.mayAdmit n.pid then none
      else ((argmax ((s.domDies n.pid).filter fun d => s.dieRoom n.pid part cls d) (s.dieFree n.pid part cls)).bind
        fun d => s.bestCore d n.pid part cls).map fun c => [c]
  | _ => none

/-- Whether the limit holds a launch's next gang, for which there is room otherwise (R390). -/
def State.groupHeld (s : State) (n : Node) : Bool :=
  n.ready && match n.body with
  | .launch _ count .full _ _ _ _ part _ _ =>
    (s.placeGroup n.pid part n.done (count - n.done)).any fun g => !s.mayAdmitN n.pid g.length
  | _ => false

/-- The lowest free launch slot. -/
def State.freeLaunchSlot (s : State) : Option Nat := (List.range 1024).find? fun i => !(s.slot i).used

/-- Whether a launch node in the pool can use room now. -/
def State.canLaunch (s : State) (n : Node) : Bool :=
  n.pooled && (n.slot.isSome || s.freeLaunchSlot.isSome) && (s.launchCores n).isSome

/-- One strand of a launch is created on a core (R129, R143). -/
def State.startStrand (s : State) (slot index core : Nat) : State :=
  let l := s.slot slot
  let sid := mkSid l.gen.toNat slot 0 index
  let x := newStrand l sid l.cls core l.entry [BitVec.ofNat 64 index, BitVec.ofNat 64 l.count]
  match l.cls with
  | .light => (s.create x).arrive sid core
  | .scalar | .full => (s.create x).makeResident sid core

/-- A launch takes a slot with its extent table (R142), or fails with 0x62 and creates no strand. -/
def State.openLaunch (s : State) (n : Node) (slot : Nat) : State :=
  match n.body with
  | .launch pc count cls slots arrq cshift cbound part seed ops =>
    match s.launchTable n.pid ops with
    | none => s.modNode n.id fun n => { n with cause := 0x62, ended := true }
    | some ext =>
      let s := ops.foldl (fun t o => ((s.operandPieces n.pid o).getD []).foldl (fun t r => t.notePages n.pid r.2) t) s
      let age := s.hub.nextAge
      let s := s.modSlot slot fun l =>
        { gen := l.gen, used := true, node := n.id, queue := n.queue, pid := n.pid, count := count, cls := cls, slots := slots
          arrq := arrq, cshift := cshift, cbound := cbound, part := part, seed := seed, entry := pc, ext := ext, age := age }
      (s.modHub fun h => { h with nextAge := age + 1 }).modNode n.id fun n => { n with slot := some slot }
  | _ => s

/-- LAUNCH_DISPATCH (R141): the next strand or gang of a launch, unless an older node of its partition can use room. A node's
age counts from its acceptance (log 30). -/
def execLaunchDispatch (node : Nat) (s : State) : Out :=
  match s.nodeOf node with
  | none => .next s
  | some n =>
    if !s.canLaunch n || s.hub.down || s.hub.nodes.any fun m => m.pid == n.pid && decide (m.id < n.id) && s.canLaunch m then .next s
    else
      let s := match n.slot with
        | some _ => s
        | none => match s.freeLaunchSlot with
          | some i => s.openLaunch n i
          | none => s
      match (s.nodeOf node).bind (·.slot), s.launchCores n with
      | some slot, some cores =>
        let s := (cores.zipIdx).foldl (fun s (c : Nat × Nat) => s.startStrand slot (n.done + c.2) c.1) s
        .next (s.modNode node fun n => { n with done := n.done + cores.length })
      | _, _ => .next s

/-! ## The end of a launch (R138, R145) -/

/-- Whether a sid is a launched or spawned strand of a slot's launch. -/
def State.ofLaunch (s : State) (slot sid : Nat) : Bool :=
  sid / 2 ^ 32 == (s.slot slot).gen.toNat * 2 ^ 10 + slot && decide (sidKind sid ≤ 1)

/-- Whether a sid keeps a slot's launch open (R145, R197): a launched or spawned strand, or a handler. -/
def State.holdsLaunch (s : State) (slot sid : Nat) : Bool :=
  sid / 2 ^ 32 == (s.slot slot).gen.toNat * 2 ^ 10 + slot && sidKind sid != 2

/-- Whether a message was sent by a strand of a slot: it becomes a handler of that launch (R197, log 54). -/
def State.msgOf (s : State) (slot : Nat) (m : Msg) : Bool :=
  m.sender / 2 ^ 32 == (s.slot slot).gen.toNat * 2 ^ 10 + slot

/-- Whether a launch's strands and handlers have exited and its strands' engine jobs have completed. -/
def State.launchDone (s : State) (slot : Nat) : Bool :=
  let own := fun (l : List Entry) => l.all fun e => !s.ofLaunch slot e.owner || match e.work with
    | .join _ => true
    | _ => false
  s.all.all (fun x => !s.holdsLaunch slot x.sid.toNat)
    && s.hub.msgs.all (!s.msgOf slot ·) && s.dies.all (fun d => d.2.msgs.all (!s.msgOf slot ·))
    && s.quads.all (fun q => own q.2.copyQ && own q.2.mat0 && own q.2.mat1) && s.cores.all fun c => own c.2.bookQ

/-- Whether a launch's reflected stores to this device are visible (R138). -/
def State.localVisible (s : State) (slot : Nat) : Bool :=
  s.hub.copies.all fun c => c.shown || c.dev != s.hub.device || !s.ofLaunch slot c.sid

/-- The release drain (R138): the buffers of the cores where the launch ran, and what the paths still carry. -/
def State.releaseDrain (s : State) (slot : Nat) : State :=
  let launch := (s.slot slot).gen.toNat * 2 ^ 10 + slot
  let s := s.cores.foldl (fun s c => if c.2.ran.any (·.launch == launch) then s.drain c.1 else s) s
  (List.range 16).foldl (fun s d => s.flushPaths d) s

/-- LAUNCH_COMPLETE. -/
def execLaunchComplete (slot : Nat) (s : State) : Out :=
  let l := s.slot slot
  match s.nodeOf l.node with
  | none => .next s
  | some n =>
    if !l.used || l.closed || n.slot != some slot || decide (n.done < l.count) || !s.launchDone slot
        || (n.rel && !s.localVisible slot) || s.hub.down then .next s
    else
      let s := if n.rel then s.releaseDrain slot else s
      let s := s.finishNode n (l.cause.getD 0)
      .next (if (s.dom l.pid).bound = some slot then s.modSlot slot fun l => { l with closed := true } else s.freeSlot slot)

end Sys2Proof.Machine
end

