-- ==== Sys2Proof/Machine/Fabric.lean ====
section
/-!
DEFINITION. The fabric's receiving side and its tables (22 R367 to R380): arrivals, flags, acknowledgments, routes,
incarnations, replays.
-/
namespace Sys2Proof.Machine

/-! ## Receive windows (R372, R376, R377) -/

/-- Fields of a receive entry. -/
def State.rxControl (s : State) (p rx : Nat) : Word := s.cfg p (0x9000 + 32 * rx)
def State.rxLength (s : State) (p rx : Nat) : Nat := (s.cfg p (0x9008 + 32 * rx)).toNat

/-- Whether a receive window takes n bytes at an offset. -/
def State.rxTakes (s : State) (p rx off n : Nat) (pod : Bool) : Bool :=
  decide (p < 20) && decide (rx < 256) && (s.rxControl p rx).getLsbD 63 && decide (off + n ≤ s.rxLength p rx)
    && (!pod || (s.rxControl p rx).getLsbD 62)

/-- Bytes are written at their owners' memory sides (R376). -/
def State.rxWrite (s : State) (base : Nat) (bytes : List Byte) : State :=
  let l := ((List.range bytes.length).map (base + ·)).zip bytes
  (linesOf (l.map (·.1))).foldl (fun s line =>
    let (mask, data) := lineOf line l
    s.performWrite line mask data) s

/-- Bytes that arrive in a Creel window are noted, with the device they come from (R170). -/
def State.noteCreel (s : State) (p rx off n dev : Nat) : State :=
  if !(s.rxControl p rx).getLsbD 61 then s
  else (List.range n).foldl (fun s i =>
    let o := off + i
    s.modPart p fun q => { q with creelBytes := Assoc.modify q.creelBytes (slotKey rx (o / 64)) (0, dev) fun e =>
      (e.1 ||| (1#64 <<< (o % 64)), dev) }) s

/-- What a copy or a flag of n bytes does at a receive window, or that it is dropped (R377); a partition that is not enabled
refuses it (R394). -/
def State.takeAt (s : State) (p rx off n : Nat) (pod : Bool) (act : State → State) : State :=
  if !s.enabled p then (s.deny p).count p .reflDrop 1
  else if s.rxTakes p rx off n pod then act s
  else s.count p .reflDrop 1

/-- A copy becomes visible in a receive window, or is dropped (R376, R377). -/
def State.takeCopy (s : State) (p dev rx off : Nat) (bytes : List Byte) (pod : Bool) : State :=
  s.takeAt p rx off bytes.length pod fun s =>
    ((s.rxWrite (s.rxBase p rx + off) bytes).noteCreel p rx off bytes.length dev).count p .reflIn 1

/-- A flag is incremented, or dropped (R254, R377). -/
def State.takeFlag (s : State) (p dev rx off : Nat) (pod : Bool) : State :=
  s.takeAt p rx off 8 pod fun s =>
    let a := s.rxBase p rx + off
    (s.rxWrite a (natBytes ((Memory.readN s.mem a 8 + 1) % 2 ^ 64) 8)).noteCreel p rx off 8 dev

/-! ## Arrivals -/

/-- Copy i is visible; its acknowledgment is due. -/
def State.showCopy (s : State) (i : Nat) : State :=
  s.modHub fun h => { h with copies := h.copies.modify i fun c => { c with shown := true } }

/-- Whether a data flit carries an incarnation that is not current (R380). -/
def State.stale (s : State) (f : Flit) : Bool := s.staleHead ⟨f.src, f.srcInc, f.dstInc⟩

/-- A copy or flag that arrives on one of the two ways (R375, R377, R380). -/
def arrival (flag : Bool) (a : Arrival) (s : State) : Out :=
  match a with
  | .own i =>
    match s.hub.copies[i]? with
    | none => .next s
    | some c =>
      if c.dev ≠ s.hub.device || c.flag != flag || c.shown || !s.pathFirst i c || s.hub.down then .next s
      else
        let s := s.showCopy i
        .next (if flag then s.takeFlag c.pid c.dev c.rx c.off c.win.isNone else s.takeCopy c.pid c.dev c.rx c.off c.bytes c.win.isNone)
  | .peer f =>
    if s.hub.down then .next s
    else if s.stale f then .next (s.count f.pid .reflStale 1)
    else .next ((if flag then s.takeFlag f.pid f.src f.rx f.off f.pod
      else s.takeCopy f.pid f.src f.rx f.off f.bytes f.pod).sendControl f.pid f.src (.ack f.rx f.off))

/-- REFLECTED_COPY_ARRIVAL. -/
def execReflectedCopyArrival (flit : Arrival) (s : State) : Out := arrival false flit s

/-- FLAG_INCREMENT. -/
def execFlagIncrement (flit : Arrival) (s : State) : Out := arrival true flit s

/-- REFLECTION_ACK (R369): the copy it answers is visible at its destination; one to this device has been made so before. A
stale one is counted also where its copy is gone (R380). -/
def execReflectionAck (flit : AckFlit) (s : State) : Out :=
  .next (s.takeControl flit.pid flit.head fun s =>
    match s.hub.copies[flit.copy]? with
    | none => s
    | some c =>
      if (c.dev = s.hub.device ∧ !c.shown) || flit.head.src != c.dev || !s.pathFirst flit.copy c then s
      else s.modHub fun h => { h with copies := h.copies.eraseIdx flit.copy })

/-! ## Tables (R368, R369, R379, R380) -/

/-- ROUTE_TABLE_WRITE: reserved bits stay zero; a path with flits under way keeps its route. -/
def execRouteTableWrite (dev : Nat) (entry : BitVec 16) (s : State) : Out :=
  .next (if 4096 ≤ dev then s else s.modHub fun h => { h with routes := Assoc.set h.routes dev (entry &&& 0x831F#16) })

/-- Transmit entries of a partition that name a device go down (R380). -/
def State.txDownFor (s : State) (p dev : Nat) : State :=
  (List.range 256).foldl (fun s w =>
    if (List.range (s.txDests p w)).any fun j => (s.txDest p w j).1 == dev then
      s.setCfg p (0x1000 + 128 * w) (s.txDword p w 0 ||| (1#64 <<< 60))
    else s) s

/-- INCARNATION_ANNOUNCE (R380): what a new incarnation of a peer makes void. -/
def execIncarnationAnnounce (peer : Nat) (inc : BitVec 16) (s : State) : Out :=
  if 4096 ≤ peer ∨ peer = s.hub.device ∨ Assoc.get s.hub.peers peer = some inc then .next s
  else
    let gone := s.hub.copies.filter (·.dev == peer)
    let s := gone.foldl (fun s c => s.count c.pid .reflStale 1) s
    let s := s.modHub fun h => { h with peers := Assoc.set h.peers peer inc, copies := h.copies.filter (·.dev != peer) }
    let s := (List.range 20).foldl (fun s p => (s.txDownFor p peer).modPart p fun q => { q with
      creelBytes := q.creelBytes.filter fun e => e.2.2 != peer || e.2.1 == BitVec.allOnes 64 }) s
    .next (s.hubLog 6 inc.toNat 0)

/-- LINK_REPLAY (R367). -/
def execLinkReplay (p port : Nat) (s : State) : Out := .next (if port < 24 ∧ p < 20 then s.count p .linkReplay 1 else s)

end Sys2Proof.Machine
end

