-- ==== Sys2Proof/Machine/Hints.lean ====
section
/-!
DEFINITION. Hint words (04 R69): major 0x3F. A hint word issues in an opportunity of its own (07 R146) and stands with the
unit whose instruction word follows.
-/
namespace Sys2Proof.Machine

/-- A hint word joins the hints of its unit, of which there are three at most (R59). One that may not follow them traps when
the unit ends: checks 1 and 2 of R74 come first, on each word of the unit (log 49). A fourth ends it at once: the trap names
the first word that broke the sequence (R69, R75). -/
def hintWord (w : BitVec 32) (s : State) : Out :=
  if s.st.hints.length < 3 then .next (s.modSt fun x => { x with hints := x.hints ++ [w] })
  else trapOut s 0x03 (((misplaced [] (s.st.hints ++ [w])).getD w).setWidth 64)

/-- Extension hint (R69). -/
def execHintExtend (iv : BitVec 2) (d : BitVec 22) (s : State) : Out := hintWord (Decode.wHintExtend iv d) s

/-- Modifier hint (R69, R70). -/
def execHintModifier (iv : BitVec 2) (d : BitVec 22) (s : State) : Out := hintWord (Decode.wHintModifier iv d) s

/-- Schedule hint (R69, R72). -/
def execHintSchedule (iv : BitVec 2) (d : BitVec 22) (s : State) : Out := hintWord (Decode.wHintSchedule iv d) s

end Sys2Proof.Machine
end

