-- ==== Sys2Proof/Machine/RoundUnit.lean ====
section
/-!
DEFINITION. The Round (14 R284 to R291, 15 R309, R310, 24 R403): board, unboard, laps, frames, rate changes, model loads.
-/
namespace Sys2Proof.Machine

/-! ## Laps (R286, R287) -/

/-- The rate of a lap: the last change that has taken effect by then. -/
def Round.rateAt (r : Round) (n : Nat) : Nat :=
  (r.rates.foldl (fun (a : Nat × Nat) c => if c.1 ≤ n ∧ a.1 ≤ c.1 then c else a) (0, r.rate)).2

/-- Cycles of a lap of F frames at m quarters: Ceil(F·τ), τ = 45 ÷ (8m). -/
def lapLen (frames m : Nat) : Nat := (frames * 45 + 8 * m - 1) / (8 * m)

/-- Ls of the k-th lap after one that starts at t as lap n. -/
def Round.lapStart (r : Round) (frames : Nat) : Nat → Nat → Nat → Nat
  | 0, _, t => t
  | k + 1, n, t => Round.lapStart r frames k (n + 1) (t + lapLen frames (r.rateAt n))

/-- P(n, f, s) (R286) for a lap not before the one in progress. -/
def Round.pass (r : Round) (frames n f s : Nat) : Nat :=
  r.lapStart frames (n - r.lap) r.lap r.start + f * 45 / (8 * r.rateAt n) + s * 8

/-- P(n, f, s) for the lap before the one in progress as well. -/
def Round.passAny (r : Round) (frames n f s : Nat) : Nat :=
  if n < r.lap then r.prevStart + f * 45 / (8 * r.prevRate) + s * 8 else r.pass frames n f s

/-- The first lap from n on whose frame f passes station s after a time (R288): within k laps. -/
def Round.catchLap (r : Round) (frames f s t : Nat) : Nat → Nat → Nat
  | 0, n => n
  | k + 1, n => if t < r.pass frames n f s then n else Round.catchLap r frames f s t k (n + 1)

/-- The lap in progress at a time. -/
def Round.lapAt (r : Round) (frames t : Nat) : Nat → Nat → Nat
  | 0, n => n
  | k + 1, n => if t < r.lapStart frames (n + 1 - r.lap) r.lap r.start then n else Round.lapAt r frames t k (n + 1)

/-- No more laps than this can have begun by a time: a lap has more cycles than frames. -/
def Round.lapsBy (r : Round) (frames t : Nat) : Nat := (t - r.start) / frames + 2

/-- The lap that passes a station and the number of its next frame there. -/
def Round.at_ (r : Round) (station : Nat) : Nat × Nat := Assoc.getD r.pos station (r.lap, 0)

/-! ## Frames (R284, R285) -/

/-- Where frame f of a model lies in its home die's memory. -/
def frameAddr (m : RoundModel) (f : Nat) : Option Nat :=
  (m.slices.find? fun s => decide (s.first ≤ f) && decide (f < s.first + s.count)).map fun s => s.base + 4096 * (f - s.first)

/-- One bit step of CRC-32C, reflected. -/
def crcBit : Nat → BitVec 32 → BitVec 32
  | 0, c => c
  | n + 1, c => crcBit n (if c.getLsbD 0 then (c >>> 1) ^^^ 0x82F63B78#32 else c >>> 1)

/-- CRC-32C of bytes (RFC 3720). -/
def crc32c (l : List Byte) : BitVec 32 :=
  ~~~(l.foldl (fun c y => crcBit 8 (c ^^^ y.setWidth 32)) 0xFFFFFFFF#32)

/-- A frame as it is read from memory. -/
structure Frame where
  raw     : Bool
  tile    : Nat
  ooff    : Nat
  olen    : Nat
  payload : List Byte
  ok      : Bool

/-- Frame f of a model: ok if its CRC is right and no line of it is poisoned. -/
def State.frameAt (s : State) (m : RoundModel) (f : Nat) : Frame :=
  match frameAddr m f with
  | none => ⟨false, 0, 0, 0, [], false⟩
  | some a =>
    let n := fun o k => Memory.readN s.mem (a + o) k
    let body := Memory.bytes s.mem (a + 4) 4092
    ⟨n 5 1 % 2 == 1, n 8 2, n 0x10 4, n 0x14 4, Memory.bytes s.mem (a + 0x20) (Nat.min (n 0xC 2) 4064),
      (crc32c body).toNat == n 0 4 && (List.range 64).all fun i => !s.poisoned (Memory.line a + 64 * i)⟩

/-- The largest ooff + olen of a layer's frames (R288). -/
def State.layerEnd (s : State) (m : RoundModel) (l : RoundLayer) : Nat :=
  (List.range l.count).foldl (fun a i => let f := s.frameAt m (l.first + i); Nat.max a (f.ooff + f.olen)) 0

/-! ## Bookings -/

/-- The booking of an entry. -/
def Entry.booking (e : Entry) : Option Booking := match e.work with
  | .booking b => some b
  | _ => none

/-- Bookings of a strand that are not final: they stand in booking queues. -/
def State.bookings (s : State) (sid : Nat) : List (Nat × Entry) :=
  (s.cores.map fun (p : Nat × Core) => (p.2.bookQ.filter fun e => e.owner == sid && e.booking.isSome).map fun e => (p.1, e)).flatten

/-- The lap a booking made now at a station catches, whether it missed the lap in progress, and its promise (R288): the lap
before the one in progress may still be passing the station. -/
def State.catch (s : State) (m : RoundModel) (l : RoundLayer) (station : Nat) : Nat × Bool × Nat :=
  let r := s.hub.round
  let now := s.clk.toNat
  let k := r.lapsBy m.frames now
  let cur := r.lapAt m.frames now k r.lap
  let n := if !r.fill && !r.prevFill && decide (0 < r.lap) && decide (now < r.passAny m.frames (r.lap - 1) l.first station)
    then r.lap - 1
    else r.catchLap m.frames l.first station now (k + 2) (if r.fill then r.lap + 1 else r.lap)
  (n, decide (cur < n), r.passAny m.frames n (l.first + l.count - 1) station + 64)

/-- board (R309, R288). -/
def execBoard (iv : BitVec 2) (d a b : BitVec 5) (sc : BitVec 4) (s : State) : Out :=
  guarded (infoR (Decode.wBoard iv d a b sc) iv sc (gs [d, a, b])) s fun s =>
    let x := s.st
    let layer := s.G a
    let va := s.G b
    if (s.core x.core).bookQ.any (·.booking.isNone) || s.bookFull x.core then .next s.retry
    else if (s.bookings x.sid.toNat).length ≥ 4 then trapOut s 0x89 layer
    else
      match s.hub.round.model.bind fun m => (m.layers[layer.toNat]?).map fun l => (m, l) with
      | none => trapOut s 0x8A layer
      | some (m, l) =>
        if layer.toNat ≥ 4096 then trapOut s 0x8A layer
        else match scratchEnd x.core va with
          | none => trapOut s 0x40 va
          | some (_, off) =>
            if va.getLsbD 43 then trapOut s 0x40 va
            else if va.toNat % 64 ≠ 0 then trapOut s 0x43 va
            else if s.scratchOf x.core < off + s.layerEnd m l then trapOut s 0x81 va
            else
              let (n, missed, p) := s.catch m l (dieOf x.core)
              let quad := quadOf x.core
              let half := s.bank x
              let (id, s) := s.newRec quad (s.bank x) p x.sid.toNat 3
              let e : Entry := { owner := x.sid.toNat, pid := x.pid, id := some id, promise := p, started := true, half := half
                                 work := .booking { quad := quad, core := x.core, layer := layer.toNat, off := off, lap := n, first := l.first, count := l.count } }
              let s := s.modJob quad e fun r => { r with state := 1 }
              let s := s.modCore x.core fun c => { c with bookQ := c.bookQ ++ [e] }
              let s := if missed then s.count x.pid .roundMiss 1 else s
              .next (s.setG d (ticketOf id p)).retire

/-- Change a booking entry of a core. -/
def State.setBooking (s : State) (core : Nat) (e : Entry) (b : Booking) : State :=
  s.modCore core fun c => { c with bookQ := c.bookQ.map fun f => if f = e then { e with work := .booking b } else f }

/-- unboard (R310): it passes through its core's booking queue, which must have room (R259). -/
def execUnboard (iv : BitVec 2) (a : BitVec 5) (sc : BitVec 4) (s : State) : Out :=
  guarded (infoR (Decode.wUnboard iv a sc) iv sc (gs [a])) s fun s =>
    let t := s.G a
    if s.bookFull s.st.core then .next s.retry
    else match (s.bookings s.st.sid.toNat).find? fun p => p.2.ticket == some t with
    | some (core, e) =>
      match e.booking with
      | some b => .next (s.setBooking core e { b with cancel := true, rebook := false }).retire
      | none => .next s.retire
    | none => .next s.retire

/-- A booking leaves its core's queue, its record final; if its own promise had passed, the bookings behind it are excused
(R264). -/
def State.endBooking (s : State) (core : Nat) (e : Entry) (b : Booking) (f : JobRec → JobRec) : State :=
  let behind := ((s.core core).bookQ.dropWhile (· != e)).drop 1
  let s' := s.modCore core fun c => { c with bookQ := c.bookQ.erase e }
  (if e.promise < s.clk.toNat then behind.foldl (fun s x => match x.booking with
    | some y => s.excuseJob y.quad x 34
    | none => s) s' else s').finalize b.quad e f

/-- A booking fails (R267). -/
def State.failBooking (s : State) (core : Nat) (e : Entry) (b : Booking) (cause : BitVec 8) : State :=
  let late := s.isLate b.quad e
  ((s.excuseHalt b.quad e).endBooking core e b fun r =>
    { (r.excuse late) with state := 4, cause := cause, partLen := b.wrote }).faultOwners b.quad e [e.owner] cause

/-- Bytes of a frame are written into a core's scratchpad, as far as it reaches. -/
def State.frameWrite (s : State) (core off : Nat) (bytes : List Byte) : State :=
  { s with mem := Memory.writeBytes s.mem (Memory.scratchBase core + off) (bytes.take (s.scratchOf core - off)) }

/-- One frame of its layer reaches a booking (R289, R290): f is its number. A corrupt frame is counted for each booking that it
reaches (R292 does not say whether once for all; log 40). -/
def State.bookFrame (s : State) (core : Nat) (e : Entry) (b : Booking) (f : Nat) (fr : Frame) : State :=
  let last := f + 1 == b.first + b.count
  let finish := fun (s : State) (e : Entry) (b : Booking) =>
    if !last then s
    else if b.corrupt then s.failBooking core e b 0x88
    else
      let late := s.isLate b.quad e
      (s.excuseHalt b.quad e).endBooking core e b fun r => { (r.excuse late) with state := 2 }
  let put := fun (s : State) (b' : Booking) => finish (s.setBooking core e b') { e with work := .booking b' } b'
  if !fr.ok then put (s.count e.pid .roundCorrupt 1) { b with corrupt := true }
  else if fr.tile = 0 then put s { b with table := some (fr.payload.take 256) }
  else if fr.raw then
    let out := fr.payload.take fr.olen
    put (s.frameWrite b.core (b.off + fr.ooff) out) { b with wrote := b.wrote + out.length }
  else match b.table with
    | none => put s b
    | some t =>
      let (out, cause) :=
        if dzTableOk t then
          let r := dzRun (fun i => .ok (fr.payload.getD i 0)) fr.payload.length (dzCodes t) fr.olen 0 []
          (r.1, r.2.2)
        else ([], some 0x83)
      let s := s.frameWrite b.core (b.off + fr.ooff) out
      let b' := { b with wrote := b.wrote + out.length }
      match cause with
      | some c => (s.setBooking core e b').failBooking core { e with work := .booking b' } b' c
      | none => put s b'

/-- One cancelled booking is booked again on a core (R291). It keeps its place in its queue where that is the core's own, or
where a join behind it counts on it (R247); else it goes to the core's queue, once there is room and no join there. -/
def State.rebookOne (s : State) (core tgt : Nat) (e : Entry) (b : Booking) : State :=
  match s.hub.round.model.bind fun m => (m.layers[b.layer]?).map fun l => (m, l) with
  | none => s.failBooking core e b 0x8A
  | some (m, l) =>
    if s.scratchOf tgt < b.off + s.layerEnd m l then s.failBooking core e b 0x81
    else
      let stays := core == tgt || ((s.core core).bookQ.dropWhile (· != e)).any (·.booking.isNone)
      if !stays && ((s.core tgt).bookQ.any (·.booking.isNone) || s.bookFull tgt) then s
      else
        let (n, missed, p) := s.catch m l (dieOf tgt)
        let b' : Booking :=
          { quad := b.quad, core := tgt, layer := b.layer, off := b.off, lap := n, first := l.first, count := l.count }
        let s := if stays then s.setBooking core e b'
          else (s.modCore core fun c => { c with bookQ := c.bookQ.erase e }).modCore tgt fun c =>
            { c with bookQ := c.bookQ ++ [{ e with work := .booking b' }] }
        let s := s.modJob b.quad e fun r => { r with eff := p }
        if missed then s.count e.pid .roundMiss 1 else s

/-- The core on which a cancelled booking can be booked again: its strand's, unless that strand or its die is stopped. -/
def State.rebookAt (s : State) (e : Entry) : Option Nat :=
  ((s.strand e.owner).filter fun x =>
    (x.place == .resident || x.place == .shadow) && !(s.die (dieOf x.core)).halted).map (·.core)

/-- What a frame boundary does to one booking of a station's die (R290, R291, R336): a cancelled one ends or is booked again;
one on a halted die is cancelled by a frame that it cannot decode; another takes its frame. -/
def State.bookBoundary (s : State) (core : Nat) (e : Entry) (b : Booking) (lap f : Nat) (fr : Frame) : State :=
  if b.cancel then
    if !b.rebook then s.endBooking core e b fun r => { r with state := 3 }
    else match s.rebookAt e with
      | some tgt => s.rebookOne core tgt e b
      | none => s
  else if b.lap = lap ∧ b.first ≤ f ∧ f < b.first + b.count then
    if (s.die (dieOf b.core)).halted then
      (s.setBooking core e { b with cancel := true, rebook := true }).excuseJob b.quad e 36
    else s.bookFrame core e b f fr
  else s

/-- Every booking of a station's die, by the core of its queue. -/
def State.atStation (s : State) (station : Nat) : List (Nat × Entry × Booking) :=
  (s.cores.map fun (p : Nat × Core) => p.2.bookQ.filterMap fun e =>
    (e.booking.filter fun b => dieOf b.core == station).map fun b => (p.1, e, b)).flatten

/-- ROUND_FRAME_ARRIVAL (R286): the next frame of its lap passes a station, not before its time. -/
def execRoundFrameArrival (station : Nat) (s : State) : Out :=
  let r := s.hub.round
  match r.model with
  | none => .next s
  | some m =>
    let (lap, f) := r.at_ station
    if r.lap < lap || decide (s.clk.toNat < r.passAny m.frames lap f station) || s.hub.down then .next s
    else
      let s := s.modHub fun h => { h with round := { h.round with
        pos := Assoc.set h.round.pos station (if f + 1 < m.frames then (lap, f + 1) else (lap + 1, 0)) } }
      let fr := s.frameAt m f
      .next ((s.atStation station).foldl (fun s p => s.bookBoundary p.1 p.2.1 p.2.2 lap f fr) s)

/-- HOP_RETRANSMIT (R290, R266): the hop into a station replays a frame, and the ring behind it slips. A booking at that
station or a later one whose frames are passing is replayed and excused; every partition counts the retransmission. -/
def execHopRetransmit (station : Nat) (s : State) : Out :=
  let r := s.hub.round
  if r.model.isNone then .next s
  else
    let s := (List.range 20).foldl (fun s p => if s.enabled p then s.count p .roundHop 1 else s) s
    let hit := ((List.range (16 - station)).map fun i => (s.atStation (station + i)).filter fun p =>
      let (lap, f) := r.at_ (station + i)
      !p.2.2.cancel && p.2.2.lap == lap && decide (f < p.2.2.first + p.2.2.count)).flatten
    .next (hit.foldl (fun s p =>
      let s := (s.excuseJob p.2.2.quad p.2.1 32).excuseJob p.2.2.quad p.2.1 39
      (s.modJob p.2.2.quad p.2.1 fun r => { r with replays := r.replays + 1 }).countQuad p.2.1.pid p.2.2.quad p.2.1.half
        .jobReplay 1) s)

/-! ## The controller (R284, R287, R403) -/

/-- Every booking of the model that is replaced fails (R403), excused (R264). -/
def State.failBookings (s : State) : State :=
  s.cores.foldl (fun s p => p.2.bookQ.foldl (fun s e => match e.booking with
    | some b => (s.excuseJob b.quad e 39).failBooking p.1 e b 0x8A
    | none => s) s) s

/-- A model's descriptor as R284 bounds it. -/
def modelOk (m : RoundModel) : Bool := decide (128 ≤ m.frames) && decide (m.frames ≤ 2 ^ 26) && decide (m.layers.length ≤ 4096)

/-- Every station is to see a lap from its first frame on. -/
def stationsAt (lap : Nat) : List (Nat × (Nat × Nat)) := (List.range 16).map fun s => (s, (lap, 0))

/-- ROUND_MODEL_LOAD (R403), which a part without a boot image does not take (R404): at once if no model is loaded, else at the next lap boundary. -/
def execRoundModelLoad (model : RoundModel) (s : State) : Out :=
  if !modelOk model || !s.hub.booted then .next s
  else .next (s.modHub fun h => { h with round :=
    if h.round.model.isNone then { h.round with model := some model, fill := true, start := s.clk.toNat, pos := stationsAt h.round.lap }
    else { h.round with pending := some model } })

/-- ROUND_LAP_START: the lap in progress ends at Ls(n + 1) (R286). -/
def execRoundLapStart (s : State) : Out :=
  let r := s.hub.round
  match r.model with
  | none => .next s
  | some m =>
    let next := r.start + lapLen m.frames (r.rateAt r.lap)
    if s.clk.toNat < next then .next s
    else
      let n := r.lap + 1
      let r' := { r with prevStart := r.start, prevRate := r.rateAt r.lap, prevFill := r.fill, rate := r.rateAt n, lap := n, start := next
                         rates := r.rates.filter fun c => decide (n < c.1) }
      match r.pending with
      | some p => .next (s.failBookings.modHub fun h => { h with round := { r' with model := some p, pending := none, fill := true, pos := stationsAt n } })
      | none => .next (s.modHub fun h => { h with round := { r' with fill := false } })

/-- ROUND_RATE_WRITE (R287, R403), likewise: 1 to 4 quarters, from the lap after the next on. -/
def execRoundRateWrite (rate : BitVec 3) (s : State) : Out :=
  let q := rate.toNat
  if q = 0 ∨ 4 < q ∨ !s.hub.booted then .next s
  else
    let r := s.hub.round
    match r.model with
    | none => .next (s.modHub fun h => { h with round := { r with rate := q, rates := [] } })
    | some m =>
      let cur := r.lapAt m.frames s.clk.toNat (r.lapsBy m.frames s.clk.toNat) r.lap
      .next (s.modHub fun h => { h with round := { r with rates := r.rates.filter (·.1 != cur + 2) ++ [(cur + 2, q)] } })

/-! ## Booking again (R291, R336) -/

/-- Every booking of a strand that is to be booked again is, on a core. -/
def State.rebook (s : State) (sid tgt : Nat) : State :=
  (s.bookings sid).foldl (fun s p => match p.2.booking with
    | some b => if b.cancel && b.rebook then s.rebookOne p.1 tgt p.2 b else s
    | none => s) s

end Sys2Proof.Machine
end

