-- ==== Sys2Proof/Machine/Save.lean ====
section
/-!
DEFINITION. Pre-emption, the save and the resume of a strand (18 R322 to R328, R330, R333, 20 R353), and their events.
-/
namespace Sys2Proof.Machine

/-! ## The request (R322) -/

/-- Whether an entry is matrix work of a strand's gang. -/
def Entry.matrixOf (e : Entry) (x : Strand) (split : Bool) : Bool := match e.work with
  | .matrix m => e.owner / 2 ^ 32 == x.sid.toNat / 2 ^ 32 && (!split || m.half == halfOf x.core)
  | _ => false

/-- Whether a strand's gang has a matrix entry queued, collecting or running. -/
def State.gangBusy (s : State) (x : Strand) : Bool :=
  let q := s.quad (quadOf x.core)
  x.cls == .full && (q.mat0 ++ q.mat1).any (·.matrixOf x (s.splitOf x.pid x.core))

/-- One strand is to be cut at its next boundary, if it is resident at the normal level. -/
def Strand.askCut (x : Strand) : Strand := if x.place = .resident then x.modFlags fun f => { f with preempt := true } else x

/-- A preempt of a strand is accepted. -/
def State.acceptPreempt (s : State) (sid : Nat) : State :=
  match s.strand sid with
  | none => s
  | some x =>
    if x.place = .resident ∧ s.gangBusy x then (s.gangMembers x).foldl (fun s y => s.modStrand y.sid.toNat Strand.askCut) s
    else s.modStrand sid Strand.askCut

/-! ## The cut (R323 step 1, R327) -/

/-- Whether a strand that is cut goes on waiting at its unit; any other wait is saved as not executed. -/
def Wait.stays : Wait → Bool
  | .waitL _ | .barrier _ _ _ | .cpush _ _ _ | .call => true
  | _ => false

/-- Whether a matrix job has a member. -/
def MatJob.has (m : MatJob) (sid : Nat) : Bool := m.members.any (·.sid == sid)

/-- Whether an entry is a matrix job with a member. -/
def Entry.hasMember (e : Entry) (sid : Nat) : Bool := match e.work with
  | .matrix m => m.has sid
  | _ => false

/-- The running matrix jobs of a cut strand stop and are held. -/
def State.holdMatrix (s : State) (sid quad : Nat) : State :=
  [1, 2].foldl (fun s n =>
    match (s.quad quad).queue n with
    | [] => s
    | e :: _ =>
      if !e.started || e.held || !e.hasMember sid then s
      else
        let s := ((s.setHead quad n { e with held := true }).excuseJob quad e 35).modJob quad e fun r => { r with state := 5 }
        match e.work with
        | .matrix m => m.members.foldl (fun s p => s.markHeld p.sid) s
        | _ => s) s

/-- A strand is cut: it issues nothing more. -/
def State.cut (s : State) (sid : Nat) : State :=
  match s.strand sid with
  | none => s
  | some x =>
    let s := s.modStrand sid fun x =>
      let x := x.completeAll
      let x := if x.wait.any Wait.stays then x else x.again
      { x with place := .cut, ctl := { x.ctl with urg := false }
               flags := { x.flags with
                 preempt := false, runnable := false, stop := x.flags.stop || x.flags.bight } }
    let s := ((s.dropWatches sid).dropUmask x.core sid).modCore x.core fun c => { c with
      shadow := if c.shadow = some sid then none else c.shadow }
    let s := s.wakeWithdrawn x.core
    let s := (s.bookings sid).foldl (fun s p => match p.2.booking with
      | some b => s.excuseJob b.quad p.2 35
      | none => s) s
    (s.cancelBookings sid true).holdMatrix sid (quadOf x.core)

/-- PREEMPTION_CUT: a strand whose pre-emption was accepted stands at a boundary, blocked strands included. -/
def execPreemptionCut (sid : Nat) (s : State) : Out :=
  match s.strand sid with
  | none => .next s
  | some x =>
    let free := match x.wait with
      | none => x.hints.isEmpty
      | some (.accRd _) => false
      | some _ => true
    if x.flags.preempt && free && x.place == .resident && x.flags.held.isNone && !(s.die (dieOf x.core)).halted then
      .next (s.cut sid)
    else .next s

/-! ## The save (R323 steps 2 to 6, R353) -/

/-- A free one of n frames of a size from a base. -/
def freeFrame (base size n : Nat) (used : List Nat) : Option Nat :=
  ((List.range (Nat.min n (used.length + 1))).map fun i => base + size * i).find? fun a => !used.contains a

/-- A free save frame of a partition on a die. -/
def State.freeSave (s : State) (die p : Nat) : Option Nat :=
  let r := s.dieRegs die p
  freeFrame (die * 2 ^ 35 + r.ssave.toNat % 2 ^ 35) 8192 (r.ssave.toNat / 2 ^ 40) r.frames

/-- A free pool frame. -/
def State.freePool (s : State) (die p : Nat) : Option Nat :=
  let r := s.dieRegs die p
  freeFrame (die * 2 ^ 35 + r.spool.toNat % 2 ^ 35) 131072 (r.spool.toNat / 2 ^ 40) r.pools

/-- Whether a strand's matrix work is held (R326). -/
def State.heldMatrix (s : State) (sid quad : Nat) : Bool :=
  let q := s.quad quad
  (q.mat0 ++ q.mat1).any fun e => e.hasMember sid && (e.held || (s.jobRec quad e).any (·.state == 5))

/-- Whether a strand's save takes a pool image (R326). -/
def State.wantsPool (s : State) (x : Strand) : Bool :=
  (s.onCore x.core).all (·.sid == x.sid) || s.heldMatrix x.sid.toNat (quadOf x.core)

/-- Whether an end lies in a core's scratchpad. -/
def End.inScratch (e : End) (core : Nat) : Bool := match e with
  | .scratch c _ => c == core
  | _ => false

/-- Whether an entry works on a core's scratchpad or tiles, the matrix jobs apart. -/
def Entry.onPool (e : Entry) (core : Nat) : Bool := match e.work with
  | .copy c => c.src.inScratch core || c.dst.inScratch core
  | .accClr c _ _ _ => c == core
  | .accWr c _ _ _ _ _ => c == core
  | .accSt c _ _ dst _ _ => c == core || dst.inScratch core
  | _ => false

/-- Set or clear the hold of the entries of a quad that work on a core's scratchpad or tiles. -/
def Quad.holdPool (q : Quad) (core : Nat) (h : Bool) : Quad :=
  let f := fun (l : List Entry) => l.map fun e => if e.onPool core then { e with held := h } else e
  { q with copyQ := f q.copyQ, mat0 := f q.mat0, mat1 := f q.mat1 }

/-- Work on a scratchpad that is saved is held (R327): state 5, late bit 35, held job in the records of its strands. -/
def State.holdPool (s : State) (sid core : Nat) : State :=
  let quad := quadOf core
  let q := s.quad quad
  let es := (q.copyQ ++ q.mat0 ++ q.mat1).filter (·.onPool core)
  let s := s.modQuad quad (·.holdPool core true)
  es.foldl (fun s e =>
    let s := (s.excuseJob quad e 35).modJob quad e fun r => { r with state := 5 }
    let s := s.modStrand sid fun x => x.modFlags fun f => { f with heldJob := true }
    if (s.strand e.owner).any Strand.away then s.markHeld e.owner else s) s

/-- CONTEXT_SAVE_COMPLETE: every landing sent is written or refused, the old core has room to forward (R359), and frames are
free (R353): the store buffer drains, the images are written, and the strand is at its save die's agent. -/
def execContextSaveComplete (sid : Nat) (s : State) : Out :=
  match s.strand sid with
  | none => .next s
  | some x =>
    let core := x.core
    if x.place ≠ .cut || !s.landingsDone sid || !s.fwdRoom core then .next s
    else
      let pool := s.wantsPool x
      match s.freeSave x.home x.pid, s.freePool x.home x.pid with
      | some f, some p => .next (save core pool f p)
      | some f, none => if pool then .next s else .next (save core pool f 0)
      | none, _ => .next s
where
  /-- The save into a frame and, if there is a pool image, a pool frame. -/
  save (core : Nat) (pool : Bool) (f p : Nat) : State :=
    let s := s.drain core
    let s := if pool then
        let s := s.holdPool sid core
        (s.unitFields (dieOf core) p (s.poolFields core)).modStrand sid fun x => { x with pool := some p }
      else s
    match s.strand sid with
    | none => s
    | some x =>
      let x := { x with frame := some f }
      let s := s.modStrand sid fun _ => x
      let s := s.modDieRegs x.home x.pid fun r => { r with
        frames := r.frames ++ [f], pools := if pool then r.pools ++ [p] else r.pools }
      let s := s.unitFields (dieOf core) f (frameFields x s.clk.toNat)
      ((s.moveTo sid (if x.flags.wake then .toPlace else .saved) core).subResident x.pid).leaveCore sid core

/-! ## The resume (R328) -/

/-- Memory as a resume reads it: lines with an uncorrectable error are zero (R345). -/
def State.readable (s : State) (bad : List Nat) : Memory := bad.foldl (fun m l => Memory.clear m l 64) s.mem

/-- The lines of the pool image that a resume of a strand reads. -/
def State.resumeLines (s : State) (x : Strand) : List Nat := match x.pool with
  | some p => poolLines (s.slot (sidSlot x.sid.toNat)).part p
  | none => []

/-- A strand's context is loaded from its frame, and its frames are freed (R328 step 2, R353); the first line that could not
be read, the pool image's before the frame's (R328), makes 0xB1 CONTEXT_POISON (R345). The lines count on their pages (R209). -/
def State.loadSaved (s : State) (sid core : Nat) : State :=
  match s.strand sid with
  | none => s
  | some x =>
    match x.frame with
    | none => s
    | some f =>
      let lines := s.resumeLines x ++ x.cls.lines f
      let bad := lines.filter s.poisoned
      let y := readFrame (s.readable bad) f x
      let y := match y.wait with
        | some (.waitL _) => y.again
        | _ => y
      let y := { y with frame := none, pool := none, core := x.core
                        flags := { y.flags with heldJob := false, runnable := false, bight := false, wake := false } }
      let s := ((s.countLines (dieOf core) lines).modStrand sid fun _ => y).modDieRegs x.home x.pid fun r => { r with
        frames := r.frames.filter (· != f)
        pools := match x.pool with
          | some p => r.pools.filter (· != p)
          | none => r.pools }
      match bad with
      | [] => s
      | a :: _ => s.deferTo sid 0xB1 (BitVec.ofNat 64 a)

/-- The matrix entries of a quad that no saved member holds go on (R328 step 5). -/
def State.freeMatrix (s : State) (quad : Nat) : State :=
  [1, 2].foldl (fun s n =>
    match (s.quad quad).queue n with
    | [] => s
    | e :: _ =>
      match e.work with
      | .matrix m =>
        if e.held && !s.memberAway m then
          (s.setHead quad n { e with held := false }).modJob quad e fun r => { r with state := 1 }
        else s
      | _ => s) s

/-- Work held with a core's pool image goes on (R328 step 5). -/
def State.freePoolWork (s : State) (core : Nat) : State :=
  let quad := quadOf core
  let q := s.quad quad
  let es := (q.copyQ ++ q.mat0 ++ q.mat1).filter fun e => e.onPool core && e.held
  es.foldl (fun s e => s.modJob quad e fun r => { r with state := if e.started then 1 else 0 })
    (s.modQuad quad (·.holdPool core false))

/-- Whether a strand is on its core, or saved and ready to be placed. -/
def Strand.back (x : Strand) : Bool := !x.away || x.place == .toPlace

/-- Whether every saved member of a strand's held matrix jobs has been resumed too, those whose mm has not come included: they
are placed together (R328). -/
def State.gangReady (s : State) (sid quad : Nat) : Bool :=
  let q := s.quad quad
  (q.mat0 ++ q.mat1).all fun e => match e.work with
    | .matrix m => !m.has sid
        || (m.members.all fun p => (s.strand p.sid).all Strand.back) && m.missing.all fun c => (s.candidates m c).all Strand.back
    | _ => true

/-- STRAND_RESUME: a strand that resume made ready is placed on a core. -/
def execStrandResume (sid core : Nat) (s : State) : Out :=
  match s.strand sid with
  | none => .next s
  | some x =>
    let v := s.view x
    let slot := sidSlot sid
    let part := (s.slot slot).part
    if x.place ≠ .toPlace || v.flags.parked || v.flags.stop || (s.die (dieOf core)).halted then .next s
    else if v.flags.heldJob && !(core == v.core && s.gangReady sid (quadOf core)) then .next s
    else if !s.eligible x.pid part core then .next s
    else if x.cls = .light ∧ v.pool = none then
      if !s.arriveRoom core slot x.pid || !s.mayAdmit x.pid then .next s
      else
        let s := (s.loadSaved sid core).modStrand sid fun x => { x with resuming := true }
        .next (s.arrive sid core)
    else if s.freeCtx core part x.cls = 0 || !s.mayAdmit x.pid || (v.pool.isSome && !(s.onCore core).isEmpty) then .next s
    else
      let mem := s.readable ((s.resumeLines v).filter s.poisoned)
      let s := (s.loadSaved sid core).modStrand sid fun x => { x with resuming := true }
      let s := s.makeResident sid core
      let s := match v.pool with
        | some p => (s.restorePool mem core p).freePoolWork core
        | none => s
      .next ((s.freeMatrix (quadOf core)).rebook sid core)

/-! ## Admission (R149) -/

/-- ARRIVAL_ADMIT: a core admits the oldest queued strand that it can admit, and its queue is refilled; the bookings of a
resumed strand are made again (R327). -/
def execArrivalAdmit (core : Nat) (s : State) : Out :=
  match (s.core core).arrq.find? fun sid =>
    match s.strand sid with
    | none => false
    | some x => s.admits core (sidSlot sid) x.pid (s.slot (sidSlot sid)).part x.moving with
  | none => .next (s.refill core (s.strands.length + 1))
  | some sid =>
    .next (((s.seat sid core).rebook sid core).refill core (s.strands.length + 1))

/-! ## Parked callers (R333, R349) -/

/-- The base of a partition's call ring on a die, if it is enabled: 16 KiB aligned (R352). -/
def State.callRing (s : State) (die p : Nat) : Option Nat :=
  let w := (s.dieRegs die p).scring
  if w.getLsbD 63 then some (die * 2 ^ 35 + w.toNat % 2 ^ 35 / 16384 * 16384) else none

/-- The free slots of a call ring (R349). -/
def State.freeCalls (s : State) (base : Nat) : List Nat :=
  (List.range 256).filter fun i => Memory.readN s.mem (base + 64 * i) 8 / 2 ^ 63 = 0

/-- The hub writes a caller's entry into one of the free slots, which a free value chooses (log 3): sid and g1 to g7. -/
def State.writeCall (s : State) (base : Nat) (x : Strand) : State :=
  let l := s.freeCalls base
  match l[s.freeNat % l.length]? with
  | none => s
  | some i =>
    let n := (List.range 7).foldl (fun a j => a + gAt x (j + 1) * 2 ^ (64 * (j + 1))) (x.sid.toNat + 2 ^ 63)
    s.takeFree.performWrite (base + 64 * i) (2 ^ 64 - 1) n

/-- PARKED_CALL_ENTRY: the caller that was parked first enters a slot that is free, and is resumed. -/
def execParkedCallEntry (p die : Nat) (s : State) : Out :=
  match (s.dieRegs die p).parked, s.callRing die p with
  | sid :: rest, some base =>
    match s.strand sid with
    | none => .next (s.modDieRegs die p fun r => { r with parked := rest })
    | some x =>
      if x.place ≠ .saved || (s.freeCalls base).isEmpty then .next s
      else
        let s := (s.writeCall base (s.view x)).modDieRegs die p fun r => { r with parked := rest }
        let s := s.modView sid fun x => x.modFlags fun f => { f with parked := false, callPending := true }
        .next (s.moveTo sid .toPlace x.core)
  | _, _ => .next s

end Sys2Proof.Machine
end

