-- ==== Sys2Proof/Machine/Issue.lean ====
section
/-!
DEFINITION. Issue (07 R146, 18 R316, R336, 24 R400): which strand may issue, what it meets at a unit's head, the fetch of
its next word, and the placing of a word where it is fetched.
-/
namespace Sys2Proof.Machine

/-- Whether a strand is on a core that runs, and neither stopped nor held. -/
def State.active (s : State) (x : Strand) : Bool :=
  x.live && (x.place == .resident || x.place == .shadow) && !x.flags.stop && x.flags.held.isNone
    && !(s.die (dieOf x.core)).halted && !s.hub.down

/-- Whether a strand is ready (R146): it waits for nothing. -/
def State.ready (s : State) (x : Strand) : Bool := s.active x && x.wait.isNone

/-- The ready strands of a core, in order of waiting. -/
def State.readyOn (s : State) (core : Nat) : List Strand :=
  (s.order.filterMap s.strand).filter fun x => x.core == core && s.ready x

/-- The strand that has the next issue opportunity of a core (R146): the one in the middle of a unit, else the urgent one,
else the normal one that has waited longest. -/
def State.nextOn (s : State) (core : Nat) : Option Strand :=
  let l := s.readyOn core
  match l.find? fun x => !x.hints.isEmpty with
  | some x => some x
  | none =>
    match l.find? fun x => x.place == .shadow with
    | some x => some x
    | none => l.head?

/-- Whether a strand may issue now: it has its core's opportunity, or it tries an instruction again that found no room,
between two units. -/
def State.mayIssue (s : State) (sid : Nat) : Bool :=
  match s.strand sid with
  | none => false
  | some x =>
    if x.wait.any (·.tries) then s.active x && (s.readyOn x.core).all fun y => y.hints.isEmpty
    else match s.nextOn x.core with
      | some y => y.sid == x.sid
      | none => false

/-- Whether a strand waits for room. -/
def State.wantsRoom (s : State) (sid : Nat) : Bool :=
  match s.strand sid with
  | none => false
  | some x => x.wait.any (·.tries)

/-- The first strand in order of waiting that may issue; those that wait for room come after the others. -/
def State.anyReady (s : State) : Option Nat :=
  match s.order.find? fun i => s.mayIssue i && !s.wantsRoom i with
  | some i => some i
  | none => s.order.find? s.mayIssue

/-- The event that ends the wait of a fence or of tag.set, if all that it waits for has come (R218, R225, R226, R245, R250). -/
noncomputable def State.fenceDone (s : State) (x : Strand) : Option Instr :=
  let sid := x.sid.toNat
  match x.wait with
  | some (.phase seen) | some (.fenceX seen) =>
    if s.performedUpTo (dieOf x.core) seen then some (.phaseComplete sid) else none
  | some (.fenceR win) => if s.reflected sid win then some (.fenceRComplete sid) else none
  | some (.fenceA die seen) => if s.performedUpTo die seen then some (.fenceAComplete sid) else none
  | some (.tagSet _ _) => some (.tagSetComplete sid)
  | _ => none

/-- The event that performs the first write on a path, if there is one (R225). -/
noncomputable def State.pathDue (s : State) : Option Instr :=
  s.dies.findSome? fun d => d.2.paths.findSome? fun p => (p.2.writes.head?).map fun w =>
    if w.strong then .forwardedAccess d.1 p.1 else .drainedLineArrival d.1 p.1

/-- The arrival of the first copy on the loop-back path that is still to become visible (R375). -/
noncomputable def State.loopDue (s : State) : Option Instr :=
  (s.hub.copies.zipIdx.find? fun c => c.1.dev == s.hub.device && !c.1.shown && s.pathFirst c.2 c.1).map fun c =>
    if c.1.flag then .flagIncrement (.own c.2) else .reflectedCopyArrival (.own c.2)

/-- What the machine itself owes in finite time (R224): writes on the paths and on the loop-back path, and the fences whose
condition holds. -/
noncomputable def State.owed (s : State) : Option Instr :=
  if s.hub.down then none
  else match s.pathDue with
    | some e => some e
    | none => match s.loopDue with
      | some e => some e
      | none => s.all.findSome? s.fenceDone

/-- What happens next: the head of the agenda, or the default (log 2): what is owed, then a ready strand's word. -/
noncomputable def State.turn (s : State) : Turn × State :=
  match s.agenda with
  | t :: rest => (t, { s with agenda := rest })
  | [] =>
    match s.owed with
    | some e => (.event e, s)
    | none =>
      match s.anyReady with
      | some sid => (.word sid, s)
      | none => (.idle, s)

/-- A breakpoint entry that matches the unit head of a strand (R400). -/
def State.breakAt (s : State) (x : Strand) : Option Nat :=
  (List.range 64).find? fun i =>
    let d0 := s.cfg x.pid (0xB000 + 16 * i)
    d0.getLsbD 63 && (d0.getLsbD 62 || d0.toNat % 2 ^ 48 == x.sid.toNat) && s.cfg x.pid (0xB008 + 16 * i) == x.pc

/-- What DEBUG_STOP leaves in the hypervisor's trap registers (R340, R400): cause, tval and xpc, with act clear, since no
handler runs; those of a handler that is active are never overwritten (R319, log 13). -/
def Strand.debugStop (x : Strand) (n : Nat) : Strand :=
  if x.h.act then x
  else { x with h := { x.h with
    cause := trapWord 0x0A false x.ctl.priv false &&& ~~~2048#64, val := BitVec.ofNat 64 n, xpc := x.pc } }

/-- A strand is held at a bight stop (R358, R400), its outstanding results written first (R68): DEBUG_STOP is recorded, as a
trap at H (R401), and the strand stays in its mode at its unit (log 13). -/
def State.hold (s : State) (n : Nat) : State :=
  (s.modSt fun x => (x.completeAll.debugStop n).modFlags fun f =>
    { f with held := some n, heldAt := s.clk.toNat, stepping := false }).dieLog (dieOf s.st.core) 0 0x0A s.st.sid.toNat

/-- What the strand in issue meets at a unit's head before it fetches: the entry of an urgent strand (R147), a pre-emption
that was accepted (R322), a deferred fault (R316), the end of a single step or a breakpoint (R400: the strand is held,
log 12). -/
def State.boundary (s : State) : Option Out :=
  if !s.st.hints.isEmpty then none
  else if (s.urgentDue s.st.core).isSome && s.st.place == .resident && s.atBoundary s.st.core then
    some (.next (s.enterShadow s.st.core))
  else if s.st.flags.preempt && s.st.place == .resident then some (.next (s.cut s.st.sid.toNat))
  else if s.st.deliverable then some (.next s.deliver)
  else if s.st.flags.passBp then none
  else if s.st.flags.stepping then
    some (.next (s.hold 64))
  else match s.breakAt s.st with
    | some i => some (.next (s.hold i))
    | none => none

/-- An instruction that found no room is tried from its head; the first issue of a handler ends its queue interval
(R363). -/
def State.startIssue (s : State) : State :=
  let s := if s.st.wait.any (·.tries) then s.modSt Strand.again else s
  if sidKind s.st.sid.toNat = 3 then
    match (s.core s.st.core).times.find? fun t => t.sid == s.st.sid.toNat && t.first.isNone with
    | none => s
    | some t =>
      let now := s.clk.toNat
      s.modCore s.st.core fun c => { c with
        times := c.times.map fun u => if u.sid = t.sid then { u with first := some now } else u
        delay := addDelay c.delay t.sender 0 0 0 ((now + 2 ^ 32 - t.enter % 2 ^ 32) % 2 ^ 32) 0 }
  else s

/-- A word whose access meets a link that is retraining waits and is tried again from its unit's head: nothing of it has
happened (R366). -/
def State.overLinks (s : State) : Out → Out
  | .next t => .next (if t.crossed then s.retry else t)
  | o => o

/-- A strand as it would issue its next unit if touching any of its outstanding results were a broken promise that traps
(R22): how the model finds out what the interlock of R146 holds. -/
def Strand.probe (x : Strand) : Strand :=
  { x with
    wait := none, inflight := x.inflight.map fun o => { o with left := x.unitLen + o.left }
    u := { vec := 4 }, s := { vec := 4 }, h := { vec := 4 }, ctl := { x.ctl with laTrap := true } }

/-- Whether the trap of a broken promise was taken. -/
def Strand.tripped (x : Strand) : Bool := [x.u, x.s, x.h].any fun r => r.act && r.cause.toNat % 256 == 4

/-- Fetch the next word of the unit in issue (R59, R100). -/
def State.fetchNext (s : State) : Res (BitVec 32) := s.fetchWord (addPc s.st.pc (4 * s.st.hints.length))

/-- The trap of a word that decodes to no instruction (R74, R75): check 3 looks only at the major and comes before the
fields that must be zero. Where the hint asks for .rst and the instruction word has such a field, the word that failed is the
instruction's: a word that names no instruction is not known to be no conversion (log 51). -/
def decodeTrap (e : DecodeError) (w : BitVec 32) (s : State) : BitVec 8 × Word :=
  match e with
  | .illegalVersion => (0x01, w.setWidth 64)
  | .illegalInstruction => (0x00, w.setWidth 64)
  | .reservedField =>
    match sequenceFault s.st.hints w with
    | some h => (0x03, h.setWidth 64)
    | none =>
    if !modOk (modData s.st.hints) (majorOf w) true then (0x02, ((modHint s.st.hints).getD 0).setWidth 64)
    else (0x02, w.setWidth 64)

/-- Physical address of the line a placed word lies in (log 11). -/
def placeLine : Nat := 0x10000

/-- A word is placed where the strand in issue fetches it next (log 11): without a strand in issue, a full strand of sid 0
on core 0; its pc is covered by an executable entry over a line of die 0 that holds the word; no hint, wait or fault comes
before it; and it issues next. -/
def State.placeWord (s : State) (w : BitVec 32) : State :=
  let x := s.st
  let off := x.pc.toNat % 64
  let x := { x with
    live := true, place := .resident, hints := [], wait := none, pending := [], fbuf := []
    flags := { passBp := true }
    ext := x.ext.set 0 (mkExtent (x.pc.toNat % 2 ^ 56 - off) 64 placeLine 0 7 false) }
  let s := { s with st := x, strands := Assoc.erase s.strands x.sid.toNat }
  let s := s.modCore x.core fun c => { c with
    icache := Assoc.erase c.icache placeLine
    part := match c.part with | some p => some p | none => some x.ctl.part }
  let s := if (s.die (dieOf x.core)).halted then s.modDie (dieOf x.core) fun d => { d with halted := false } else s
  let s := [0, dieOf x.core].foldl (fun s d => if s.retrains d then s.modDie d fun y => { y with power := {} } else s) s
  { s with
    mem := Memory.writeN s.mem (placeLine + off) w.toNat 4
    poison := s.poison.filter (· != placeLine)
    order := x.sid.toNat :: s.order.filter (· != x.sid.toNat)
    hub := { s.hub with down := false }
    agenda := [.word x.sid.toNat] }

end Sys2Proof.Machine
end

