-- ==== Sys2Proof/Machine/System.lean ====
section
/-!
DEFINITION. System and privileged instructions (20 R347 to R357): majors 0x3C to 0x3E.
-/
namespace Sys2Proof.Machine

/-! ## Major 0x3C (R348 to R351) -/

/-- sysc (R333, R349): the call enters a free slot of the ring, behind the callers parked before it; with none the caller is
parked and saved. -/
def execSysc (iv : BitVec 2) (sc : BitVec 4) (s : State) : Out :=
  guarded (infoR (Decode.wSysc iv sc) iv sc (gRange 7)) s fun s =>
    let x := s.st
    let die := dieOf x.core
    match s.callRing die x.pid with
    | none => trapOut s 0xA4 (BitVec.ofNat 64 die)
    | some base =>
      if (s.dieRegs die x.pid).parked.isEmpty && !(s.freeCalls base).isEmpty then
        .next (((s.writeCall base x).modSt fun x => x.modFlags fun f => { f with callPending := true }).block .call)
      else
        let sid := x.sid.toNat
        let s := (s.block .call).modSt fun x => x.modFlags fun f => { f with parked := true }
        .next ((s.modDieRegs die x.pid fun r => { r with parked := r.parked ++ [sid] }).cut sid)

/-- trap (R348). -/
def execTrap (iv : BitVec 2) (a : BitVec 5) (sc : BitVec 4) (s : State) : Out :=
  guarded (infoR (Decode.wTrap iv a sc) iv sc (gs [a])) s fun s => trapOut s 0x08 (s.G a)

/-- Whether eret takes ERET_STATE at the strand's level (R350). -/
def eretBad (x : Strand) : Bool :=
  let h := x.ctl.priv
  let r := x.trapRegs h
  !r.act || decide (h.code < r.cause.toNat / 512 % 4) || decide (r.xpc.toNat / 2 ^ 60 ≠ 0) || decide (r.xpc.toNat % 4 ≠ 0)

/-- eret (R320, R350). -/
def execEret (iv : BitVec 2) (sc : BitVec 4) (s : State) : Out :=
  guarded (infoR (Decode.wEret iv sc) iv sc []) s fun s =>
    if eretBad s.st then trapOut s 0x0B ((Decode.wEret iv sc).setWidth 64) else .next (s.eret.retireTo s.eret.st.pc)

/-- brk (R348). -/
def execBrk (iv : BitVec 2) (sc : BitVec 4) (s : State) : Out :=
  guarded (infoR (Decode.wBrk iv sc) iv sc []) s fun s => trapOut s 0x09 ((Decode.wBrk iv sc).setWidth 64)

/-- halt (R351): the strand is saved as by pre-emption, with stop set, to go on at the unit after. -/
def execHalt (iv : BitVec 2) (sc : BitVec 4) (s : State) : Out :=
  guarded ((infoR (Decode.wHalt iv sc) iv sc []).from .supervisor) s fun s =>
    let sid := s.st.sid.toNat
    let s := s.retire.modSt fun x => x.modFlags fun f => { f with stop := true }
    .next ((s.hubLog 1 0 sid).cut sid)

/-! ## Special registers: major 0x3D (R14 to R19, R352) -/

/-- Trap register i of a level: tvec, tcause, tval, xpc. -/
def TrapRegs.get (r : TrapRegs) (i : Nat) : Word :=
  if i = 0 then r.vec else if i = 1 then r.cause else if i = 2 then r.val else r.xpc

/-- Put trap register i of a level. -/
def TrapRegs.put (r : TrapRegs) (i : Nat) (v : Word) : TrapRegs :=
  if i = 0 then { r with vec := v } else if i = 1 then { r with cause := v } else if i = 2 then { r with val := v }
  else { r with xpc := v }

/-- smode (R18). -/
def Ctl.smode (c : Ctl) : Word := BitVec.ofNat 64 (c.priv.code + 4 * c.laTrap.toNat + 8 * c.urg.toNat)

/-- The value of a special register (R352), if its number is assigned: pc is the address of the mfs word itself. -/
def State.special (s : State) (n : Nat) : Option Word :=
  let x := s.st
  let c := x.ctl
  let r := s.dieRegs (dieOf x.core) x.pid
  if n = 0x000 then some (addPc x.pc (4 * x.hints.length))
  else if n = 0x001 then some (x.sid.setWidth 64)
  else if n = 0x002 then some (c.shp.setWidth 64)
  else if n = 0x003 then some (c.fcr.setWidth 64)
  else if n = 0x004 then some c.smode
  else if n = 0x005 then some c.laStall
  else if n = 0x006 then some (c.prio.setWidth 64)
  else if n = 0x007 then some s.clk
  else if n = 0x008 then some (c.part.setWidth 64)
  else if n = 0x009 then some (c.cshift.setWidth 64)
  else if n = 0x00A then some (c.cbound.setWidth 64)
  else if n = 0x010 then some (c.lmask.setWidth 64)
  else if n = 0x011 then some (c.lvmask.setWidth 64)
  else if n = 0x012 then some (c.larr.setWidth 64)
  else if n = 0x013 then some (c.lvarr.setWidth 64)
  else if n = 0x014 then some (BitVec.ofNat 64 c.lmode.toNat)
  else if 0x020 ≤ n ∧ n ≤ 0x023 then some (x.u.get (n - 0x020))
  else if 0x100 ≤ n ∧ n ≤ 0x103 then some (x.s.get (n - 0x100))
  else if 0x104 ≤ n ∧ n ≤ 0x106 then x.sdlg.toList[n - 0x104]?
  else if n = 0x108 then some r.srlist
  else if n = 0x109 then some r.scring
  else if n = 0x10A then some r.ssave
  else if n = 0x10B then some r.spool
  else if 0x200 ≤ n ∧ n ≤ 0x203 then some (x.h.get (n - 0x200))
  else if 0x204 ≤ n ∧ n ≤ 0x206 then x.hdlg.toList[n - 0x204]?
  else none

/-- Bits of sdlg0 to sdlg2 and hdlg0 to hdlg2 that a write changes: the others are fixed by a floor, status or reserved
codes (R318, R339 to R345). -/
def sdlgMask (i : Nat) : Word := if i = 0 then 0x00000003000003BF else if i = 1 then 0x00007F68000001FF else 0x0000000E0000073B
def hdlgMask (i : Nat) : Word := if i = 0 then 0x0000000300000BFF else if i = 1 then 0x00017F78000001FF else 0x0000007E0000073B

/-- What a write of a trap register does: bits [63:13] of a cause register must be zero (R317). -/
def putTrap (r : TrapRegs) (i : Nat) (v : Word) : Option TrapRegs :=
  if i = 1 ∧ v.toNat / 2 ^ 13 ≠ 0 then none else some (r.put i v)

/-- What mts does with a register: the state, or the cause: 0x07 for one that may only be read, 0x02 for a reserved field. -/
def State.putSpecial (s : State) (n : Nat) (v : Word) : Except (BitVec 8) State :=
  let x := s.st
  let die := dieOf x.core
  let ctl := fun (f : Ctl → Ctl) => Except.ok (s.modSt fun x => x.modCtl f)
  let trapReg := fun (m : Mode) (i : Nat) => match putTrap (x.trapRegs m) i v with
    | some r => Except.ok (s.modSt fun x => x.setTrapRegs m r)
    | none => Except.error 0x02
  let dieReg := fun (f : DieRegs → DieRegs) => s.modDieRegs die x.pid f
  if n = 0x002 then
    (if v.toNat / 2 ^ 13 ≠ 0 ∨ v.toNat % 2 ^ 8 = 0 then .error 0x02 else ctl fun c => { c with shp := v.setWidth 13 })
  else if n = 0x003 then
    (if v.toNat / 2 ^ 15 ≠ 0 ∨ v.toNat / 16 % 16 ≠ 0 ∨ v.toNat % 8 > 4 then .error 0x02
     else ctl fun c => { c with fcr := v.setWidth 15 })
  else if n = 0x004 then
    (if v.toNat / 8 ≠ x.ctl.urg.toNat ∨ v.toNat % 4 ≠ x.ctl.priv.code then .error 0x07
     else ctl fun c => { c with laTrap := v.getLsbD 2 })
  else if n = 0x010 then ctl fun c => { c with lmask := setG' x v }
  else if n = 0x011 then ctl fun c => { c with lvmask := v.setWidth 16 &&& vMask x.cls }
  else if n = 0x014 then (if v.toNat > 1 then .error 0x02 else ctl fun c => { c with lmode := v.getLsbD 0 })
  else if 0x020 ≤ n ∧ n ≤ 0x023 then trapReg .user (n - 0x020)
  else if 0x100 ≤ n ∧ n ≤ 0x103 then trapReg .supervisor (n - 0x100)
  else if 0x104 ≤ n ∧ n ≤ 0x106 then
    .ok (s.modSt fun x => { x with sdlg := x.sdlg.setIfInBounds (n - 0x104) (v &&& sdlgMask (n - 0x104)) })
  else if n = 0x108 then .ok ((dieReg fun r => { r with srlist := v }).postAll die x.pid (s.dieRegs die x.pid).posts.length)
  else if n = 0x109 then .ok (dieReg fun r => { r with scring := v })
  else if n = 0x10A then .ok (dieReg fun r => { r with ssave := v })
  else if n = 0x10B then .ok (dieReg fun r => { r with spool := v })
  else if 0x200 ≤ n ∧ n ≤ 0x203 then trapReg .hypervisor (n - 0x200)
  else if 0x204 ≤ n ∧ n ≤ 0x206 then
    .ok (s.modSt fun x => { x with hdlg := x.hdlg.setIfInBounds (n - 0x204) (v &&& hdlgMask (n - 0x204)) })
  else .error 0x07

/-- The number of a special register (R352). -/
def specialNum (n m : BitVec 5) : Nat := n.toNat * 32 + m.toNat

/-- The lowest mode that may name a number (R16, R352). -/
def specialMode (n : Nat) : Mode :=
  if n / 0x100 = 1 then .supervisor else if n / 0x100 = 2 then .hypervisor else .user

/-- The facts of mfs and mts: the tval of 0x06 is the number. -/
def infoSpecial (word : BitVec 32) (iv : BitVec 2) (sc : BitVec 4) (d n m : BitVec 5) : Info :=
  { infoR word iv sc (gs [d]) with
    priv := specialMode (specialNum n m), ptv := BitVec.ofNat 64 (specialNum n m) }

/-- The flags of an outstanding result stand in fcr before an instruction reads or writes it (R7, R104). -/
def Strand.settleFlags (x : Strand) (n : Nat) : Strand :=
  if n = 0x003 && x.inflight.any fun o => o.writes.any fun w => match w with
    | .fcr _ => true
    | _ => false then x.completeAll else x

/-- mfs (R352). -/
def execMfs (iv : BitVec 2) (d n m : BitVec 5) (sc : BitVec 4) (s : State) : Out :=
  guarded (infoSpecial (Decode.wMfs iv d n m sc) iv sc d n m) s fun s =>
    let s := s.modSt (·.settleFlags (specialNum n m))
    match s.special (specialNum n m) with
    | some v => .next (s.setG d v).retire
    | none => trapOut s 0x07 (BitVec.ofNat 64 (specialNum n m))

/-- mts (R352). -/
def execMts (iv : BitVec 2) (d n m : BitVec 5) (sc : BitVec 4) (s : State) : Out :=
  let w := Decode.wMts iv d n m sc
  guarded (infoSpecial w iv sc d n m) s fun s =>
    let s := s.modSt (·.settleFlags (specialNum n m))
    match s.putSpecial (specialNum n m) (s.G d) with
    | .ok s => .next s.retire
    | .error c => trapOut s c (if c = 0x02 then w.setWidth 64 else BitVec.ofNat 64 (specialNum n m))

/-! ## Strands under the supervisor: major 0x3E (R355 to R357) -/

/-- The live strand of the executing partition that a word names in [47:0]. -/
def State.named (s : State) (w : Word) : Option Strand :=
  (s.strand (w.toNat % 2 ^ 48)).filter fun x => x.pid == s.st.pid

/-- Whether a strand's state record is written. -/
def Strand.isSaved (x : Strand) : Bool := x.place == .saved || x.place == .toPlace

/-- Whether a save of a strand was accepted and has not ended: an operation on it waits (R357). -/
def Strand.saving (x : Strand) : Bool := x.place == .cut || x.flags.preempt

/-- CONTEXT_STATE (R355). -/
def contextState (s : State) (w : Word) : Out := trapOut s 0xA5 (BitVec.ofNat 64 (w.toNat % 2 ^ 48))

/-- Whether one entry, or one window with its implicit rights, covers n bytes (R356, R199, R200). -/
def State.coversAll (s : State) (x : Strand) (va : Word) (n : Nat) : Bool :=
  if winOf va = 0xFF then decide (offOf va + n ≤ x.privSize)
  else if winOf va = 0xFE then decide (offOf va + n ≤ s.scratchOf x.core)
  else (coverOf x.ext va).any fun e => decide (va.toNat % 2 ^ 56 + n ≤ Extent.vbase e + Extent.length e)

/-- The address of n bytes of a save area (R356): aligned, covered with the right, not host-mapped; a revoked entry takes
0x48, configuration space 0x42 (R388). -/
def State.saveArea (s : State) (va : Word) (n align : Nat) (write : Bool) : Res Nat :=
  let bad := Res.trap s 0xA6 va
  if va.toNat % align ≠ 0 ∨ va.toNat / 2 ^ 60 ≠ 0 then bad
  else match s.find s.st va with
    | none => bad
    | some t =>
      if !s.coversAll s.st va n || !(if write then t.w else t.r) || t.host then bad
      else if t.revoked then .trap s 0x48 va
      else match t.space with
        | .dieMem | .priv | .scratch => .ok t.addr s
        | .nothing => .stop (.noStorage t.addr)
        | .config => .trap s 0x42 va
        | _ => bad

/-- Bytes of a save frame (R353). -/
def frameSize : Nat := 5888

/-- The lines of n bytes from a 64-byte aligned address. -/
def linesFrom (a n : Nat) : List Nat := (List.range (n / 64)).map fun i => a + 64 * i

/-- A strand's unit acts as an atomic of .ar .pkg (R231, R356): earlier writes are performed first. -/
def State.asAtomic (s : State) : State := s.flushOf s.st

/-- The bytes that a privileged instruction reads: at the memory side; poison is 0x45 (R211). -/
def State.readArea (s : State) (va : Word) (a n : Nat) : Res Nat :=
  let ls := ((List.range (n / 32)).map fun i => Memory.line (a + 32 * i)).eraseDups
  let s := ls.foldl (fun s l => s.reach (dieOf s.st.core) l) s
  if ls.any s.poisoned then .trap s 0x45 va else .ok (Memory.readN s.mem a n) s

/-- The save frame of a saved strand as the hub addresses it. -/
def Strand.frameAt (x : Strand) : Nat := x.frame.getD 0

/-- ctx.sv (R356). -/
def execCtxSv (iv : BitVec 2) (a b : BitVec 5) (sc : BitVec 4) (s : State) : Out :=
  guarded ((infoR (Decode.wCtxSv iv a b sc) iv sc (gs [a, b])).from .supervisor) s fun s =>
    match s.named (s.G a) with
    | none => contextState s (s.G a)
    | some x =>
      if x.saving then .next s.retry
      else if !x.isSaved then contextState s (s.G a)
      else (s.saveArea (s.G b) frameSize 64 true).out fun pa s =>
        let s := s.asAtomic
        let n := Memory.readN s.mem x.frameAt frameSize
        let core := s.st.core
        .next ((linesFrom 0 frameSize).foldl (fun s o =>
          (s.sideWrite (dieOf core) (pa + o) (2 ^ 64 - 1) (n / 2 ^ (8 * o) % 2 ^ 512)).dropLine core (pa + o)) s).retire

/-- Whether the zero fields of a frame image are zero, and its priv does not exceed a mode (R324, R325, R356). -/
def imageOk (cls : Cls) (mode n : Nat) : Bool :=
  let f := fun o k => n / 2 ^ (8 * o) % 2 ^ (8 * k)
  let z := fun o k => f o k == 0
  let light := cls == .light
  z 0x135A 38 && z 0x1400 256 && (light || (z 0x1328 8 && z 0x1330 40))
    && (cls != .full || (z 0x12AE 82 && f 0x12A8 2 % 4 == 0))
    && decide ((if light then f 0x1328 8 / 2 ^ 18 % 4 else f 0x13C 4 / 2 ^ 30) ≤ mode)

/-- A saved strand goes on from the frame that ctx.ld has written (R328, R356): it still waits only at the pc where it was
cut, and as a caller only while its record says so (log 56). -/
def Strand.reloaded (old new : Strand) : Strand :=
  let calls := new.flags.callPending || new.flags.parked
  if new.pc = old.pc && (old.wait == some .call) == calls then new
  else { new with hints := [], wait := if calls then some .call else none }

/-- ctx.ld (R356). -/
def execCtxLd (iv : BitVec 2) (a b : BitVec 5) (sc : BitVec 4) (s : State) : Out :=
  guarded ((infoR (Decode.wCtxLd iv a b sc) iv sc (gs [a, b])).from .hypervisor) s fun s =>
    match s.named (s.G a) with
    | none => contextState s (s.G a)
    | some x =>
      if x.saving || x.pushing then .next s.retry
      else if !x.isSaved then contextState s (s.G a)
      else (s.saveArea (s.G b) frameSize 64 false).out fun pa s =>
        (s.asAtomic.readArea (s.G b) pa frameSize).out fun n s =>
          let w := n / 2 ^ (8 * 0x1300) % 2 ^ 64
          if !imageOk x.cls s.st.ctl.priv.code n then trapOut s 0xA6 (s.G b)
          else if w % 2 ^ 48 ≠ x.sid.toNat ∨ w / 2 ^ 48 % 4 ≠ x.cls.code then contextState s (s.G a)
          else
            let v := s.view x
            let s := s.unitWrite x.frameAt n frameSize
            .next (s.modStrand x.sid.toNat fun z =>
              let y := v.reloaded (s.view z)
              { z with hints := y.hints, wait := y.wait }).retire

/-- preempt (R322, R355, R356). -/
def execPreempt (iv : BitVec 2) (a : BitVec 5) (sc : BitVec 4) (s : State) : Out :=
  guarded ((infoR (Decode.wPreempt iv a sc) iv sc (gs [a])).from .supervisor) s fun s =>
    match s.named (s.G a) with
    | none => contextState s (s.G a)
    | some x => .next (s.acceptPreempt x.sid.toNat).retire

/-- A call is answered (R333, R356): g1 is written, the unit of the sysc ends. -/
def State.answerCall (s : State) (sid : Nat) (y : Word) : State :=
  (s.modView sid fun x => { (x.setG 1 y).finish with flags := { x.flags with callPending := false } }).toBack sid

/-- The flags that resume leaves: stop is cleared (R351, R356), but not that of bight's preempt (R358, log 55). -/
def StrandFlags.resumed (f : StrandFlags) : StrandFlags := { f with stop := f.stop && f.bight }

/-- What resume does with the strand it names (R355, R356); none is CONTEXT_STATE. -/
def State.resumeStrand (s : State) (x : Strand) (y : Word) : Option State :=
  let v := s.view x
  let sid := x.sid.toNat
  if v.flags.callPending then
    let s := s.answerCall sid y
    some (if x.isSaved then s.makeReady sid .resumed else s.modStrand sid fun x => x.modFlags .resumed)
  else if x.isSaved && !v.flags.parked then some (s.makeReady sid .resumed)
  else none

/-- resume. -/
def execResume (iv : BitVec 2) (a b : BitVec 5) (sc : BitVec 4) (s : State) : Out :=
  guarded ((infoR (Decode.wResume iv a b sc) iv sc (gs [a, b])).from .supervisor) s fun s =>
    match s.named (s.G a) with
    | none => contextState s (s.G a)
    | some x =>
      if x.saving then .next s.retry
      else match s.resumeStrand x (s.G b) with
        | some s => .next s.retire
        | none => contextState s (s.G a)

/-- xmap (R356). -/
def execXmap (iv : BitVec 2) (a b : BitVec 5) (sc : BitVec 4) (s : State) : Out :=
  guarded ((infoR (Decode.wXmap iv a b sc) iv sc (gs [a, b])).from .hypervisor) s fun s =>
    match s.named (s.G a) with
    | none => contextState s (s.G a)
    | some x =>
      if x.saving then .next s.retry
      else if !x.isSaved then contextState s (s.G a)
      else
        let i := (s.G b).toNat % 16
        let va := s.G b - BitVec.ofNat 64 i
        (s.saveArea va 32 32 false).out fun pa s =>
          (s.asAtomic.readArea va pa 32).out fun n s =>
            .next (s.unitWrite (x.frameAt + 0x1500 + 32 * i) n 32).retire

end Sys2Proof.Machine
end

