-- ==== Sys2Proof/Machine/HostSide.lean ====
section
/-!
DEFINITION. The host's side (24 R387 to R389, R396 to R399, R402), resets and boot (22 R379, 24 R401, R404), errors that ECC
finds (24 R405, 18 R345).
-/
namespace Sys2Proof.Machine

/-! ## Writes by the host (R388, R389, R397, R398, R404) -/

/-- Whether the part serves the host: it has booted (R404) and not shut down (R406). -/
def State.serves (s : State) : Bool := s.hub.booted && !s.hub.down

/-- A host write of a configuration dword, on a part that takes it. -/
def State.hostCfg (s : State) (p off : Nat) (v : Word) : State := if s.serves then s.cfgWrite p off v .host else s

/-- PCTL_WRITE. -/
def execPctlWrite (p : Nat) (value : BitVec 64) (s : State) : Out := .next (s.hostCfg p 0 value)

/-- PARTITION_CONFIG_WRITE. -/
def execPartitionConfigWrite (p offset : Nat) (value : BitVec 64) (s : State) : Out := .next (s.hostCfg p offset value)

/-- The dwords given for a transmit entry that lie above dword 0, written in order from dword i. -/
def State.putEntry (s : State) (p index : Nat) : Nat → List (BitVec 64) → State
  | _, [] => s
  | i, v :: rest => if 15 < i then s else State.putEntry (s.hostCfg p (0x1000 + 128 * index + 8 * i) v) p index (i + 1) rest

/-- TRANSMIT_ENTRY_WRITE: dwords 1 to 15 as given, then dword 0, which may enable the entry (R371). -/
def execTransmitEntryWrite (p index : Nat) (dwords : List (BitVec 64)) (s : State) : Out :=
  if 256 ≤ index then .next s
  else match dwords with
    | [] => .next s
    | d :: rest => .next ((s.putEntry p index 1 rest).hostCfg p (0x1000 + 128 * index) d)

/-- HWQ_DOORBELL. -/
def execHwqDoorbell (p q : Nat) (value : BitVec 64) (s : State) : Out :=
  .next (if q < 64 then s.hostCfg p (0xC200 + 8 * q) value else s)

/-- COUNTER_CLEAR. -/
def execCounterClear (p counter : Nat) (s : State) : Out :=
  .next (if counter < 36 then s.hostCfg p (0xD000 + 8 * counter) 0 else s)

/-- HOST_ATOMICOP: an unsupported-request completion, and nothing else (R387). -/
def execHostAtomicOp (_addr : BitVec 64) (s : State) : Out := .next s

/-- HOST_PORT_TRAINING: a port's training, by which device traffic is striped. -/
def execHostPortTraining (port : Nat) (up : Bool) (rate width : Nat) (s : State) : Out :=
  .next (s.modHub fun h => { h with ports := h.ports.setIfInBounds port { up := up, rate := rate, width := width } })

/-! ## Hardware queues (R396, R397) -/

/-- A message-signalled interrupt. -/
def State.irq (s : State) (v : Nat) : State := s.modHub fun h => { h with irqs := h.irqs ++ [⟨v⟩] }

/-- Entries of a hardware queue's ring. -/
def State.hwqSize (s : State) (p q : Nat) : Nat := 2 ^ (4 + s.hwqDword p q 0 / 2 ^ 56 % 16)

/-- Die and host addresses of an entry. -/
def State.hwqDie (s : State) (p q j : Nat) : Nat := s.hwqDword p q 0 % 2 ^ 56 + 64 * (j % s.hwqSize p q)
def State.hwqHost (s : State) (p q j : Nat) : Nat := s.hwqDword p q 2 % 2 ^ 56 + 64 * (j % s.hwqSize p q)

/-- prod and cons as the control block holds them. -/
def State.hwqProd (s : State) (p q : Nat) : Nat := Memory.readN s.mem (s.hwqControl p q) 8
def State.hwqCons (s : State) (p q : Nat) : Nat := Memory.readN s.mem (s.hwqControl p q + 8) 8

/-- The count last reported to the host. -/
def State.hwqTold (s : State) (p q : Nat) : Nat := ((Assoc.getD (s.part p).hwq q {}).told).toNat

/-- A count is reported at the descriptor's host address, and the vector is raised if interrupts are on. -/
def State.hwqTell (s : State) (p q n : Nat) : State :=
  let d := s.hwqDword p q 3
  let s := s.hubWrite (d / 2 ^ 16 % 2 ^ 40 * 2 ^ 16) 8 n
  let s := s.modPart p fun x => { x with hwq := Assoc.modify x.hwq q {} fun h => { h with told := BitVec.ofNat 64 n } }
  if d / 2 ^ 63 = 1 then s.irq (d % 2 ^ 11) else s

/-- A whole line written by the host's side clears its poison (R211). -/
def State.hostLine (s : State) (a n : Nat) : State :=
  let s := s.hubWrite a 64 n
  { s with poison := s.poison.filter (· != Memory.line a) }

/-- Entries from count j on, n of them, move between the rings, in increasing order. -/
def State.hwqCopy (s : State) (p q : Nat) (out : Bool) : Nat → Nat → State
  | _, 0 => s
  | j, n + 1 =>
    let src := if out then s.hwqDie p q j else s.hwqHost p q j
    let dst := if out then s.hwqHost p q j else s.hwqDie p q j
    State.hwqCopy (s.hostLine dst (Memory.readN s.mem src 64)) p q out (j + 1) n

/-- The entries to move: from the first not yet moved to the producer's count, at most a ring ahead of the consumer's. -/
def hwqRange (moved prod cons size : Nat) : Nat × Nat :=
  let stop := Nat.min prod (cons + size)
  let start := if cons ≤ moved ∧ moved ≤ stop then moved else cons
  (start, stop)

/-- Whether a queue runs: a partition and a descriptor with en. -/
def State.hwqOn (s : State) (p q : Nat) : Bool := !s.hub.down && decide (p < 20) && decide (q < 64) && decide (s.hwqDword p q 0 / 2 ^ 63 = 1)

/-- HWQ_OUTBOUND_TRANSFER: entries, then the count and the interrupt. -/
def execHwqOutboundTransfer (p q : Nat) (s : State) : Out :=
  if !s.hwqOn p q || decide (q < 32) then .next s
  else
    let (a, b) := hwqRange (s.hwqTold p q) (s.hwqProd p q) (s.hwqCons p q) (s.hwqSize p q)
    if b ≤ a then .next s else .next ((s.hwqCopy p q true a (b - a)).hwqTell p q b)

/-- HWQ_INBOUND_TRANSFER: entries, then prod into the control block; a change of cons is reported. -/
def execHwqInboundTransfer (p q : Nat) (s : State) : Out :=
  if !s.hwqOn p q || decide (32 ≤ q) then .next s
  else
    let (a, b) := hwqRange (s.hwqProd p q) (s.cfg p (0xC200 + 8 * q)).toNat (s.hwqCons p q) (s.hwqSize p q)
    let s := if b ≤ a then s else (s.hwqCopy p q false a (b - a)).hubWrite (s.hwqControl p q) 8 b
    .next (if s.hwqCons p q = s.hwqTold p q then s else s.hwqTell p q (s.hwqCons p q))

/-- The numbers of a list, each once and rising. -/
def rising (l : List Nat) : List Nat :=
  l.foldl (fun sorted a => (sorted.takeWhile (· < a)) ++ a :: (sorted.dropWhile (· ≤ a))) []

/-! ## Trace (R399) -/

/-- The state code of a sampled strand (R399); the code of a state the table does not list is a free value (log 25). -/
def State.traceCode (s : State) (x : Strand) : Nat :=
  if !s.active x then s.freeNat % 256
  else match x.wait with
    | none => if s.interlocked then 1 else 0
    | some (.waitL _) => 2
    | some (.waitA _ _ _ _) => 3
    | some (.barrier _ _ _) => 4
    | some (.await _ _ _ _) => 5
    | some (.accRd _) => 1
    | some .room => 6
    | _ => s.freeNat % 256

/-- The record of a sample. -/
def State.traceRecord (s : State) (x : Strand) : Nat :=
  s.clk.toNat + x.sid.toNat * 2 ^ 64 + x.pc.toNat * 2 ^ 128 + s.traceCode x * 2 ^ 192

/-- The sample period of a partition (R389). -/
def State.samplePeriod (s : State) (p : Nat) : Nat := Nat.max 1024 ((s.cfg p 0x48).toNat % 2 ^ 32)

/-- The strand of a partition that a core samples next (R399): the resident ones in turn, by rising sid (log 25). -/
def State.sampleTurn (s : State) (core p : Nat) : Option Nat :=
  let sids := rising ((s.all.filter fun x =>
    x.core == core && x.pid == p && (x.place == .resident || x.place == .shadow)).map (·.sid.toNat))
  match Assoc.get (s.core core).traced p with
  | none => sids.head?
  | some l => match sids.find? (l.2 < ·) with
    | some i => some i
    | none => sids.head?

/-- Whether a core's sample for a partition is due: a period has passed since the last one. -/
def State.sampleDue (s : State) (core p : Nat) : Bool := match Assoc.get (s.core core).traced p with
  | none => true
  | some l => decide (l.1 + s.samplePeriod p ≤ s.clk.toNat)

/-- TRACE_SAMPLE: the record, then the count. -/
def execTraceSample (core sid : Nat) (s : State) : Out :=
  match s.strand sid with
  | none => .next s
  | some x =>
    if x.core ≠ core || !(s.cfg x.pid 0x48).getLsbD 63 || s.sampleTurn core x.pid != some sid || !s.sampleDue core x.pid then .next s
    else
      let s := s.modCore core fun c => { c with traced := Assoc.set c.traced x.pid (s.clk.toNat, sid) }
      let base := (s.cfg x.pid 0x50).toNat % 2 ^ 39 / 2 ^ 20 * 2 ^ 20
      let n := Memory.readN s.mem (base + 0xFFFF8) 8
      let rec_ := s.traceRecord x
      .next ((s.takeFree.hubWrite (base + 32 * (n % 32767)) 32 rec_).hubWrite (base + 0xFFFF8) 8 (n + 1))

/-! ## Checkpoint (R402) -/

/-- CHECKPOINT_START: a host base, unless a checkpoint runs. -/
def execCheckpointStart (base : BitVec 64) (s : State) : Out :=
  .next (if s.serves && base.getLsbD 55 && s.hub.ckpt.isNone then s.modHub fun h => { h with ckpt := some base } else s)

/-- Die memory copied behind a base, in the canonical form. -/
def Memory.copyDies (m : Memory) (base : Nat) : Memory :=
  (m.filter fun c => decide (c.1 < base))
    ++ ((m.filter fun c => decide (c.1 < 2 ^ 39)).map fun c => (base + c.1, c.2))
    ++ m.filter fun c => decide (base + 2 ^ 39 ≤ c.1)

/-- The pages that have migrated, laid out as they stand in the dies' memory: what a page left behind at its home is a free
value, and the page is where the owner map says (R203, log 34). -/
def Memory.copyMoved (m mem : Memory) (base : Nat) (owners : List (Nat × PagePlace)) (left : Nat) : Memory :=
  let m := owners.foldl (fun m o => Memory.writeN m (base + 65536 * o.1) (left % 2 ^ (8 * o.2.size)) o.2.size) m
  owners.foldl (fun m o => Memory.writeN m (base + o.2.addr) (Memory.readN mem (65536 * o.1) o.2.size) o.2.size) m

/-- The physical address of a byte of die memory (R203). -/
def Hub.place (h : Hub) (a : Nat) : Nat := match h.owners.find? fun o => 65536 * o.1 ≤ a && a < 65536 * o.1 + o.2.size with
  | some o => o.2.addr + (a - 65536 * o.1)
  | none => a

/-- CHECKPOINT_COMPLETE: the dies' memory, poisoned lines as 0xFF, the result word, whose value nothing gives, the list of
the poisoned lines behind it, and vector 0. -/
def execCheckpointComplete (s : State) : Out :=
  match s.hub.ckpt.filter fun _ => !s.hub.down with
  | none => .next s
  | some w =>
    let base := w.toNat % 2 ^ 56
    let bad := rising ((s.poison.filter (· < 2 ^ 39)).map s.hub.place)
    let m := Memory.copyMoved (Memory.copyDies s.mem base) s.mem base s.hub.owners s.takeFree.freeNat
    let m := bad.foldl (fun m l => Memory.writeN m (base + l) (2 ^ 512 - 1) 64) m
    let m := Memory.writeN m (base + 2 ^ 39) (s.freeNat % 2 ^ 64) 8
    let m := (List.range bad.length).foldl (fun m i => Memory.writeN m (base + 2 ^ 39 + 8 * (i + 1)) (bad.getD i 0) 8) m
    .next (({ s.takeFree.takeFree with mem := m }.modHub fun h => { h with ckpt := none }).irq 0)

/-! ## Reset and boot (R379, R401, R404) -/

/-- The next incarnation: modulo 2^16, skipping 0. -/
def nextInc (i : BitVec 16) : BitVec 16 := if i = 0xFFFF#16 then 1 else i + 1

/-- What a valid image sets: the firmware, the server cores of each die, the handler quads and their partition word, which keeps
to R19 (R361). -/
def State.bootWith (s : State) (img : BootImage) : State :=
  let s := s.modHub fun h => { h with
    booted := true, firmware := img.firmware, handlers := Nat.min img.handlers 8
    handlerPart := if partOk img.handlerPart.toNat then img.handlerPart else h.handlerPart }
  img.serverMask.foldl (fun s m => if m.1 < 16 then s.modDie m.1 fun d => { d with serverMask := m.2 } else s) s

/-- The image is verified: its settings, or a part with every partition disabled; the result is logged. -/
def State.boot (s : State) (img : BootImage) : State :=
  if img.valid then (s.bootWith img).hubLog 8 0 0
  else (s.modHub fun h => { h with booted := false }).hubLog 8 1 0

/-- The device takes a new incarnation: it is logged, and announced for the fabric manager to relay (R379); 0 is none. -/
def State.takeInc (s : State) (inc : BitVec 16) : State :=
  if inc = 0 then s
  else (s.modHub fun h => { h with
    inc := inc
    control := h.control ++ [{ pid := 0, head := ⟨h.device, inc, 0⟩, dst := h.device, body := .announce inc }] }).hubLog 6 inc.toNat 0

/-- The machine that a reset leaves before it boots: reset values, but for memory, the incarnation, what lies outside the
part, and the model's own fields; the reset and the incarnation are logged. -/
def State.afterReset (s : State) (warm : Bool) (inc : BitVec 16) : State :=
  let r : State := { State.reset with
    mem := if warm then s.mem.filter fun c => decide (c.1 < 2 ^ 60) else s.mem.filter fun c => decide (2 ^ 55 ≤ c.1 ∧ c.1 < 2 ^ 56)
    poison := if warm then s.poison.filter fun l => decide (l < 2 ^ 60) else s.poison.filter fun l => decide (2 ^ 55 ≤ l)
    dies := if warm then s.dies.map fun (d : Nat × Die) => (d.1, ({ bbox := d.2.bbox } : Die)) else []
    agenda := s.agenda
    free := s.free }
  let r := r.modHub fun h => { h with
    device := s.hub.device, inc := 0, ports := s.hub.ports, irqs := s.hub.irqs
    bbox := if warm then s.hub.bbox else [] }
  (r.hubLog 7 (if warm then 1 else 0) 0).takeInc inc

/-- RESET_COLD: the incarnation before this reset comes from the image (R379). -/
def execResetCold (image : BootImage) (s : State) : Out :=
  .next ((s.afterReset false (if image.valid then nextInc image.incarnation else 0)).boot image)

/-- RESET_WARM: the incarnation follows the one before. -/
def execResetWarm (image : BootImage) (s : State) : Out := .next ((s.afterReset true (nextInc s.hub.inc)).boot image)

/-- RECOVERY_IMAGE_WRITE: only a part that failed to boot shows the page; a part without an incarnation takes the
one after the image's. -/
def execRecoveryImageWrite (image : BootImage) (s : State) : Out :=
  if s.hub.booted then .next s
  else
    let s := if image.valid && s.hub.inc == 0 then
        s.takeInc (nextInc image.incarnation) else s
    .next (s.boot image)

/-! ## Errors (R200, R211, R345, R405) -/

/-- An error that ECC corrected is counted. -/
def State.corrected (s : State) (p : Nat) : State := s.count p .memCorr 1

/-- A partition by a free value: the spec names none for an error that scrubbing corrects. -/
def State.anyPart (s : State) : Option Nat :=
  let l := (List.range 20).filter s.enabled
  l[s.freeNat % l.length]?

/-- Whether a line lies in a die's memory: at its physical address, or in the private memory of a live strand (R199). -/
def State.dieLine (s : State) (line : Nat) : Bool := decide (line < 2 ^ 39) || spaceOf line == .priv && !s.freed line

/-- An uncorrectable error in a line of memory: poisoned, and logged by its die. -/
def State.spoil (s : State) (line : Nat) : State :=
  let d := s.ownerDie line
  (s.addPoison line).dieLog d 3 d 0

/-- PATROL_SCRUB. -/
def execPatrolScrub (line : Nat) (err : EccOutcome) (s : State) : Out :=
  let l := Memory.line line
  if !s.dieLine l then .next s
  else match err with
    | .clean => .next s
    | .corrected => .next (match s.anyPart with
      | some p => s.takeFree.corrected p
      | none => s.takeFree)
    | .uncorrectable => .next (s.spoil l)

/-- A trap register of a level with an undefined value; a cause register keeps its zero bits. -/
def TrapRegs.spoil (r : TrapRegs) (i v : Nat) : TrapRegs := r.put i (BitVec.ofNat 64 (if i = 1 then v % 2 ^ 13 else v))

/-- A special register of a strand with an undefined value within its width; sid, which names the strand in the model, is
left as it is. -/
def Strand.spoilSpecial (x : Strand) (n v : Nat) : Strand :=
  let ctl := fun (f : Ctl → Ctl) => x.modCtl f
  if n = 0x000 then { x with pc := BitVec.ofNat 64 (v % 2 ^ 56 / 4 * 4) }
  else if n = 0x002 then ctl fun c => { c with shp := BitVec.ofNat 13 v }
  else if n = 0x003 then ctl fun c => { c with fcr := BitVec.ofNat 15 v }
  else if n = 0x004 then ctl fun c => { c with priv := Mode.ofCode (v % 3), laTrap := v / 4 % 2 == 1, urg := v / 8 % 2 == 1 }
  else if n = 0x005 then ctl fun c => { c with laStall := BitVec.ofNat 64 v }
  else if n = 0x006 then ctl fun c => { c with prio := BitVec.ofNat 32 v }
  else if n = 0x008 then ctl fun c => { c with part := BitVec.ofNat 10 v }
  else if n = 0x009 then ctl fun c => { c with cshift := BitVec.ofNat 5 v }
  else if n = 0x00A then ctl fun c => { c with cbound := BitVec.ofNat 6 v }
  else if n = 0x010 then ctl fun c => { c with lmask := BitVec.ofNat 32 v }
  else if n = 0x011 then ctl fun c => { c with lvmask := BitVec.ofNat 16 v }
  else if n = 0x012 then ctl fun c => { c with larr := BitVec.ofNat 32 v }
  else if n = 0x013 then ctl fun c => { c with lvarr := BitVec.ofNat 16 v }
  else if n = 0x014 then ctl fun c => { c with lmode := v % 2 == 1 }
  else if 0x020 ≤ n ∧ n ≤ 0x023 then { x with u := x.u.spoil (n - 0x020) v }
  else if 0x100 ≤ n ∧ n ≤ 0x103 then { x with s := x.s.spoil (n - 0x100) v }
  else if 0x104 ≤ n ∧ n ≤ 0x106 then { x with sdlg := x.sdlg.setIfInBounds (n - 0x104) (BitVec.ofNat 64 v &&& sdlgMask (n - 0x104)) }
  else if 0x200 ≤ n ∧ n ≤ 0x203 then { x with h := x.h.spoil (n - 0x200) v }
  else if 0x204 ≤ n ∧ n ≤ 0x206 then { x with hdlg := x.hdlg.setIfInBounds (n - 0x204) (BitVec.ofNat 64 v &&& hdlgMask (n - 0x204)) }
  else x

/-- A register of a strand's context with an undefined value: files 0 g, 1 v, 2 k, 3 q, 5 special, 6 the g registers of the
shadow bank (R345). None if the context holds no such register. -/
def Strand.spoilReg (x : Strand) (file num v : Nat) : Option Strand :=
  if file = 0 ∨ (file = 6 ∧ x.place = .shadow) then
    if num < 32 ∧ x.names (.g num) then some (x.setG (BitVec.ofNat 5 num) (BitVec.ofNat 64 v)) else none
  else if file = 1 then
    if num < 16 ∧ x.names (.v num) then
      some (x.setV (BitVec.ofNat 4 num) ⟨BitVec.ofNat 2048 v, BitVec.ofNat 4 (v / 2 ^ 2048), BitVec.ofNat 64 (v / 2 ^ 2052)⟩)
    else none
  else if file = 2 then
    if num < 8 ∧ x.names (.k num) then some (x.setK (BitVec.ofNat 3 num) (BitVec.ofNat 256 v)) else none
  else if file = 3 then
    if num < 8 ∧ x.names (.q num) then some (x.setQ (BitVec.ofNat 3 num) (Guard.ofCode (BitVec.ofNat 2 (v % 3)))) else none
  else if file = 5 then some (x.spoilSpecial num v)
  else none

/-- Whether a strand's context is in a core's SRAM. -/
def Strand.inSram (x : Strand) : Bool := match x.place with
  | .resident | .shadow | .cut | .queued | .urgentQ => true
  | _ => false

/-- The coding of a register that REG_ERROR reports (R345, R9): the file in [10:8] and the number's low five bits in [4:0];
the rest of a special register's number, for which that coding has no place, in [15:11] (log 57). -/
def regErrorCode (file num : Nat) : Word := BitVec.ofNat 64 (file % 8 * 256 + num % 32 + num / 32 * 2 ^ 11)

/-- ECC_ERROR. -/
def execEccError (site : EccSite) (s : State) : Out :=
  match site with
  | .register sid file num =>
    match s.strand sid with
    | none => .next s
    | some x =>
      if !x.inSram then .next s
      else match x.spoilReg file num s.freeNat with
        | none => .next s
        | some y =>
          .next (((s.takeFree.modStrand sid fun _ => y).deferTo sid 0xB0 (regErrorCode file num)).dieLog
            (dieOf x.core) 3 (dieOf x.core) sid)
  | .scratch core line =>
    if line < 2048 ∧ core < 16384 then
      let a := Memory.scratchBase core + 64 * line
      .next ((s.addPoison a).dieLog (dieOf core) 3 (dieOf core) 0)
    else .next s
  | .tile core n =>
    .next (if n < 64 ∧ core < 16384 then
      (s.modCore core fun c => { c with badTiles := c.badTiles ++ [n] }).dieLog (dieOf core) 3 (dieOf core) 0 else s)
  | .memory line => .next (if s.dieLine (Memory.line line) then s.spoil (Memory.line line) else s)
  | .corrected p => .next (if p < 20 then s.corrected p else s)

end Sys2Proof.Machine
end

