-- ==== Sys2Proof/Machine/Manage.lean ====
section
/-!
DEFINITION. What the hub, bight and the power manager do to running work: page migration (10 R209 to R211, 24 R395),
revocation (18 R334), halts, stops and steps (18 R336, R358, 24 R400), operating points and links (22 R365, R366, 24 R406).
-/
namespace Sys2Proof.Machine

/-! ## Page migration -/

/-- mpol fields (R395). -/
def State.mpolEn (s : State) (p : Nat) : Bool := (s.cfg p 0x38).getLsbD 63
def State.mpolDelta (s : State) (p : Nat) : Nat := (s.cfg p 0x38).toNat / 2 ^ 8 % 256
def State.mpolMin (s : State) (p : Nat) : Nat := (s.cfg p 0x38).toNat % 256

/-- The count of a page from a die. -/
def State.pageCount (s : State) (page die : Nat) : Nat := Assoc.getD s.hub.pageCnt (page * 16 + die) 0

/-- The die that a page should move to under a partition's policy (R395): the highest count, the lowest die of equals. -/
def State.moveTarget (s : State) (p page : Nat) : Option Nat :=
  let owner := s.ownerDie (page * 65536)
  match argmax (List.range 16) (s.pageCount page) with
  | none => none
  | some d =>
    let n := s.pageCount page d
    if d ≠ owner ∧ s.mpolMin p ≤ n ∧ s.pageCount page owner + s.mpolDelta p ≤ n ∧ !s.inWork (page * 65536) then some d else none

/-- COUNTER_HALVING, every 2^20 cycles: moves of pages of 64 KiB and 2 MiB are scheduled from the counts, which then halve
(R203, R209). The partition whose tables mapped a page governs it (log 34). -/
def execCounterHalving (s : State) : Out :=
  if s.clk.toNat % 2 ^ 20 ≠ 0 then .next s
  else
    let pages := (s.hub.pageCnt.map fun (e : Nat × Nat) => e.1 / 16).eraseDups
    let s' := pages.foldl (fun t page =>
      match Assoc.get s.hub.pages page with
      | none => t
      | some i =>
        if !s.enabled i.pid || !s.mpolEn i.pid || i.size == 2 ^ 31 || t.hub.migs.any (·.page == page * 65536) then t
        else match s.moveTarget i.pid page with
          | none => t
          | some d => t.modHub fun h => { h with migs := h.migs ++ [{ pid := i.pid, page := page * 65536, lines := i.size / 64
                                                                      src := s.ownerDie (page * 65536), dst := d }] }) s
    .next (s'.modHub fun h => { h with pageCnt := (h.pageCnt.map fun (e : Nat × Nat) => (e.1, e.2 / 2)).filter (·.2 != 0) })

/-- The move that the engine is copying. -/
def State.moving (s : State) : Option Migration := s.hub.migs.find? fun m => !m.switched

/-- Change the move of a page. -/
def State.modMig (s : State) (page : Nat) (f : Migration → Migration) : State :=
  s.modHub fun h => { h with migs := h.migs.map fun m => if m.page = page then f m else m }

/-- A move is abandoned (R211): the owner map stays, the copy is discarded, mig.abandon counts. -/
def State.abandon (s : State) (m : Migration) : State :=
  (s.modHub fun h => { h with migs := h.migs.filter (·.page != m.page) }).count m.pid .migAbandon 1

/-- The copy of a line at the old owner meets an error that abandons the move; one that could not be read is recorded as
poisoned and logged (R211, R405). -/
def State.copyFails (s : State) (m : Migration) (line : Nat) (unreadable : Bool) : State :=
  let s := s.abandon m
  if unreadable then (s.addPoison line).dieLog m.src 3 m.src 0 else s

/-- MIGRATION_COPY (R210, R211, R241): the next line is copied; the first one fires the watches of the page; a beat that
faults and an uncorrectable error abandon the move. -/
def execMigrationCopy (beat : CopyOutcome) (s : State) : Out :=
  match s.moving with
  | none => .next s
  | some m =>
    if m.lines ≤ m.copied then .next s
    else
      let s := if m.copied = 0 then
          (((s.die m.src).watches.map (·.line)).filter m.covers).foldl State.fireWatches s else s
      .next (match beat with
        | .copied => s.modMig m.page fun m => { m with copied := m.copied + 1 }
        | .fault => s.copyFails m (m.page + 64 * m.copied) false
        | .unreadable => s.copyFails m (m.page + 64 * m.copied) true)

/-- What the recopy of marked lines meets, and at which of them: a free value (R211, log 34). -/
def State.recopyOutcome (s : State) (l : List Nat) : Option (Nat × Bool) :=
  match l[s.freeNat / 3 % l.length]? with
  | none => none
  | some line => if s.freeNat % 3 = 0 then none else some (line, s.freeNat % 3 == 2)

/-- The frame of a page in the memory of its new owner: the spec leaves it open, a free value (log 34). -/
def State.newFrame (s : State) (m : Migration) : PagePlace :=
  ⟨m.dst, m.dst * 2 ^ 35 + s.freeNat % (2 ^ 35 / (64 * m.lines)) * (64 * m.lines), 64 * m.lines⟩

/-- MIGRATION_SWITCH (R210): what is on its way to the old owner is performed, marked lines are recopied, which an error
turns into the end of the move (R211), and the owner map names the new owner and the page's address there. The page's watches
move with it, even beyond the 2,048 that a die holds: the spec says nothing of watches at the switch (log 34). -/
def execMigrationSwitch (s : State) : Out :=
  match s.moving with
  | none => .next s
  | some m =>
    if m.copied < m.lines then .next s
    else
      let s := (List.range 16).foldl (fun s d => s.pathFlush d m.src) s
      let marked := (s.moving.map (·.recopy)).getD []
      match s.recopyOutcome marked with
      | some (line, unreadable) => .next (s.takeFree.copyFails m line unreadable)
      | none =>
      let s := s.takeFree
      let here := fun (w : Watch) => m.covers w.line
      let ws := (s.die m.src).watches.filter here
      let s := s.modDie m.src fun d => { d with watches := d.watches.filter fun w => !here w }
      let s := s.modDie m.dst fun d => { d with watches := d.watches ++ ws }
      let s := s.modHub fun h => { h with
        owners := Assoc.set (h.owners.filter fun o => !m.covers (o.1 * 65536)) (pageOf m.page) (s.newFrame m) }
      .next (s.takeFree.modMig m.page fun m => { m with switched := true, recopy := [] })

/-- MIGRATION_REDIRECT_END (R210): every die has taken the page's new place into its copy of the owner map. -/
def execMigrationRedirectEnd (s : State) : Out :=
  match s.hub.migs.find? (·.switched) with
  | none => .next s
  | some m =>
    let moved := s.hub.owners.filter fun o => m.covers (o.1 * 65536)
    let s := (List.range 16).foldl (fun s d => s.modDie d fun x => { x with
      owners := (x.owners.filter fun o => !m.covers (o.1 * 65536)) ++ moved }) s
    .next (s.modHub fun h => { h with migs := h.migs.filter (·.page != m.page) })

/-! ## Revocation (R334) -/

/-- Whether an entry overlaps a range of virtual addresses. -/
def Extent.overlaps (e : Extent) (base len : Nat) : Bool :=
  e.valid && decide (e.vbase < base + len) && decide (base < e.vbase + e.length)

/-- An entry with revoked set if it overlaps a range. -/
def Extent.revoke (base len : Nat) (e : Extent) : Extent := if e.overlaps base len then e ||| BitVec.ofNat 256 (2 ^ 78) else e

/-- The bytes of a line, stored through some virtual addresses of it, that lie in a range of virtual addresses. -/
def deadMask (vas : List Nat) (base len : Nat) : BitVec 64 :=
  (List.range 64).foldl (fun m i => if vas.any fun a => decide (base ≤ a + i) && decide (a + i < base + len)
    then m ||| (1#64 <<< i) else m) 0

/-- A line drained onto a path loses its bytes inside a revoked range (R334). -/
def PathWrite.revoke (p base len : Nat) (w : PathWrite) : PathWrite :=
  if w.strong || w.pid != p then w else { w with mask := w.mask &&& ~~~deadMask w.vas base len }

/-- A partition's writes on a path that lie in a revoked range (R334): drained lines lose their bytes there and are counted;
a strong store was accepted before the revocation and is performed before its die applies it (log 58). -/
def State.revokePath (s : State) (p base len : Nat) (src dst : Nat) : State :=
  let hit := (s.path src dst).writes.filter fun w => w.pid == p && (w.mask &&& deadMask w.vas base len) != 0
  let s := (s.modDie src fun d => { d with paths := Assoc.modify d.paths dst {} fun q =>
    { q with writes := q.writes.map (·.revoke p base len) } })
  let s := if hit.all (·.strong) then s else s.count p .xlatDiscard (hit.filter (!·.strong)).length
  if hit.any (·.strong) then s.pathFlush src dst else s

/-- The same of every path. -/
def State.revokePaths (s : State) (p base len : Nat) : State :=
  s.dies.foldl (fun s d => d.2.paths.foldl (fun s q => s.revokePath p base len d.1 q.1) s) s

/-- HOST_REVOCATION: every entry of the partition that overlaps the range, wherever it is kept; buffered bytes and the work
already issued know of it. -/
def execHostRevocation (p : Nat) (base len : BitVec 64) (s : State) : Out :=
  let b := base.toNat % 2 ^ 56
  let n := len.toNat
  if n = 0 then .next s
  else
    let strands := s.all.filter (·.pid == p)
    let rev := fun (t : Vector (BitVec 256) 16) => t.map fun e => Extent.revoke b n e
    let cut := fun (l : List Entry) => l.map fun (e : Entry) => if e.pid = p then { e with cuts := e.cuts ++ [(base, n)] } else e
    let msg := fun (m : Msg) => if m.pid = p then { m with ext := rev m.ext } else m
    let s := s.revokePaths p b n
    let s := strands.foldl (fun s x => s.modView x.sid.toNat fun x => { x with ext := rev x.ext }) s
    let s := { s with
      quads := s.quads.map fun (q : Nat × Quad) => (q.1, { q.2 with copyQ := cut q.2.copyQ, mat0 := cut q.2.mat0, mat1 := cut q.2.mat1 })
      cores := s.cores.map fun (c : Nat × Core) => (c.1, { c.2 with
        bookQ := cut c.2.bookQ
        sbuf := c.2.sbuf.map fun (l : SbLine) => if l.pid = p then { l with dead := l.dead ||| deadMask l.vas b n } else l })
      dies := s.dies.map fun (d : Nat × Die) => (d.1, { d.2 with msgs := d.2.msgs.map msg }) }
    .next (s.modHub fun (h : Hub) => { h with
      msgs := h.msgs.map msg
      slots := h.slots.map fun (l : Nat × Slot) => (l.1, if l.2.used && l.2.pid == p then { l.2 with ext := rev l.2.ext } else l.2)
      nodes := h.nodes.map fun (x : Node) => if x.pid = p then { x with cuts := x.cuts ++ [(base, n)] } else x
      revokes := h.revokes ++ [({ pid := p, base := base, len := n } : Revocation)] })

/-- REVOCATION_COMPLETE: beats being indivisible, none is bound for the range any more. -/
def execRevocationComplete (i : Nat) (s : State) : Out := .next (s.modHub fun h => { h with revokes := h.revokes.eraseIdx i })

/-! ## bight (R336, R358, R400) -/

/-- The unfinished jobs of some records, by quad and half, grow their effective promise by a halt (R265) and are excused
(R264). -/
def State.extend (s : State) (n : Nat) (which : Nat → Nat → JobRec → Bool) : State :=
  { s with quads := s.quads.map fun (q : Nat × Quad) => (q.1, { q.2 with recs := q.2.recs.map fun (r : Nat × JobRec) =>
    (r.1, if which q.1 (r.1 / 65536) r.2 && !r.2.final then { r.2.setLate 36 with eff := r.2.eff + n } else r.2) }) }

/-- An await that has reached its promise while it was suspended goes on as await.x (R265, R305). -/
def State.awaitOn (s : State) : State :=
  s.all.foldl (fun s x => match x.wait with
    | some (.await false d t n) =>
      if s.promiseReached t && s.suspended x t then
        s.modStrand x.sid.toNat fun x => { x with wait := some (.await true d t n) }
      else s
    | _ => s) s

/-- DIE_HALT: the die's cores stop at instruction boundaries, with the results outstanding there written; an await without one,
a waita, an xreq, a tag.set and a waiting fence are left as not executed (R336, R68, R244, R256, R306). -/
def execDieHalt (die : Nat) (s : State) : Out :=
  .next (if 16 ≤ die || (s.die die).halted then s
    else
      let s := s.modDie die fun d => { d with halted := true, haltedAt := s.clk.toNat }
      s.all.foldl (fun s x => if dieOf x.core == die && (x.place == .resident || x.place == .shadow) then
        s.stopStrand x.sid.toNat none else s) s)

/-- DIE_HALT_RELEASE: bookings that the halt cancelled are booked again where their strands are (R336, R291). -/
def execDieHaltRelease (die : Nat) (s : State) : Out :=
  if !(s.die die).halted then .next s
  else
    let n := s.clk.toNat - (s.die die).haltedAt
    let t := s.awaitOn
    let s := (t.modDie die fun d => { d with halted := false }).extend n fun q h r => t.serviceDie q h r.ticket == die
    .next (s.all.foldl (fun s x => if dieOf x.core == die && x.place == .resident then s.rebook x.sid.toNat x.core else s) s)

/-- BIGHT_PREEMPT: preempt with hypervisor rights; the strand's record has stop set. -/
def execBightPreempt (sid : Nat) (s : State) : Out :=
  match s.strand sid with
  | none => .next s
  | some x =>
    if x.isSaved then .next (s.modView sid fun x => x.modFlags fun f => { f with stop := true, bight := true })
    else if x.place = .cut then .next (s.modStrand sid fun x => x.modFlags fun f => { f with stop := true, bight := true })
    else if x.place = .resident then
      .next ((s.acceptPreempt sid).modStrand sid fun x => x.modFlags fun f => { f with bight := true })
    else .next s

/-- BIGHT_RESUME: resume of a saved strand that is not parked clears stop (R358); a pending call stays pending. -/
def execBightResume (sid : Nat) (s : State) : Out :=
  match s.viewOf sid with
  | none => .next s
  | some x => .next (if x.isSaved && !x.flags.parked then s.makeReady sid fun f => { f with stop := false, bight := false }
    else s)

/-- A held strand goes on: its jobs' promises were suspended (R358, R265). -/
def State.release (s : State) (sid : Nat) (step : Bool) : State :=
  match s.strand sid with
  | none => s
  | some x =>
    if x.flags.held.isNone then s
    else
      let s := s.awaitOn.extend (s.clk.toNat - x.flags.heldAt) fun _ _ r => r.owners.contains sid
      s.modStrand sid fun x => x.modFlags fun f => { f with held := none, passBp := true, stepping := step }

/-- SINGLE_STEP. -/
def execSingleStep (sid : Nat) (s : State) : Out := .next (s.release sid true)

/-- BIGHT_CONTINUE. -/
def execBightContinue (sid : Nat) (s : State) : Out := .next (s.release sid false)

/-- DELAY_TABLE_CLEAR (R364). -/
def execDelayTableClear (core : Nat) (s : State) : Out := .next (s.modCore core fun c => { c with delay := [] })

/-! ## Power (R365, R366, R406) -/

/-- Change the pending changes of a die. -/
def State.modPower (s : State) (die : Nat) (f : PowerChange → PowerChange) : State :=
  s.modDie die fun d => { d with power := f d.power }

/-- A change of the point becomes pending: the die's queues close, unless the link is retraining for another change; it
comes behind those that are pending already. -/
def State.askPoint (s : State) (die : Nat) (point : BitVec 2) : State :=
  s.modPower die fun p => if p.point.isSome then { p with points := p.points ++ [point] }
    else { p with point := some point, stage := if p.stage = 0 then 1 else p.stage }

/-- The point that a die will run at once every pending change is done. -/
def State.lastPoint (s : State) (die : Nat) : BitVec 2 :=
  let d := s.die die
  (d.power.points.getLast?).getD (d.power.point.getD d.point)

/-- OPERATING_POINT_CHANGE. -/
def execOperatingPointChange (die : Nat) (point : BitVec 2) (s : State) : Out := .next (if 16 ≤ die then s else s.askPoint die point)

/-- LINK_WIDTH_CHANGE: 0 full, 1 half, 2 quarter. -/
def execLinkWidthChange (die : Nat) (width : BitVec 2) (s : State) : Out :=
  .next (if 16 ≤ die || width == 3 then s
    else s.modPower die fun p => if p.width.isSome then { p with widths := p.widths ++ [width] }
      else { p with width := some width, stage := if p.stage = 0 then 2 else p.stage })

/-- A pending width takes effect. -/
def Die.setWidth (d : Die) : Die := { d with width := (d.power.width).getD d.width, power := { d.power with width := none } }

/-- One change is done; the next begins, a width before a point (R366). -/
def PowerChange.next (p : PowerChange) : PowerChange :=
  let w := match p.width with | some w => some w | none => p.widths.head?
  let n := match p.point with | some n => some n | none => p.points.head?
  { width := w, point := n, stage := if w.isSome then 2 else if n.isSome then 1 else 0
    widths := if p.width.isSome then p.widths else p.widths.drop 1, points := if p.point.isSome then p.points else p.points.drop 1 }

/-- LINK_RETRAIN_COMPLETE: the width first, then, once the queues have drained, the point; the queues reopen. -/
def execLinkRetrainComplete (die : Nat) (s : State) : Out :=
  let p := (s.die die).power
  if p.stage = 2 then
    .next (s.modDie die fun d => let d := d.setWidth; { d with power := d.power.next })
  else if p.stage = 1 && s.drained die then
    match p.point with
    | none => .next s
    | some n =>
      .next ((s.modDie die fun d => let d := d.setWidth; { d with point := n, power := { d.power with point := none }.next }).dieLog die 4 n.toNat 0)
  else .next s

/-- THERMAL_STEP: one point lower than the die is to run at, logged. -/
def execThermalStep (die : Nat) (s : State) : Out :=
  let n := s.lastPoint die
  .next (if 16 ≤ die || n == 3 then s else (s.askPoint die (n + 1)).hubLog 5 die 0)

/-- THERMAL_RECOVERY: one point higher. -/
def execThermalRecovery (die : Nat) (s : State) : Out :=
  let n := s.lastPoint die
  .next (if 16 ≤ die || n == 0 then s else s.askPoint die (n - 1))

/-- THERMAL_SHUTDOWN: nothing runs any more; the black boxes hold their records. -/
def execThermalShutdown (s : State) : Out := .next (s.modHub fun h => { h with down := true })

end Sys2Proof.Machine
end

