-- ==== Sys2Proof/Machine/VecArith.lean ====
section
/-!
DEFINITION. Element-wise vector arithmetic and logic (06 R105, R106) and the vector-scalar forms (06 R116): majors 0x20 and
0x26.
-/
namespace Sys2Proof.Machine

/-! ## One element -/

/-- An integer operation on Va, Vb and Vd. -/
abbrev IntOp := Int → Int → Int → Int

/-- One element of format t: floating point through `ff`, c32 by its two fp32 parts, integers through `fi` with the
signedness of the form and .sat (R106). -/
def arithElem (t : BitVec 4) (signed sat : Bool) (rm : RM) (fz : Bool) (fi : IntOp) (ff : FloatOp) (a b d : Nat) : Nat × Fl :=
  if t = 10 then
    let (lo, e) := ff .f32 rm fz (a % 2 ^ 32) (b % 2 ^ 32) (d % 2 ^ 32)
    let (hi, e') := ff .f32 rm fz (a / 2 ^ 32) (b / 2 ^ 32) (d / 2 ^ 32)
    (lo + 2 ^ 32 * hi, e ||| e')
  else match Fmt.ofTag t with
    | some f => ff f rm fz a b d
    | none =>
      let w := widthOf t
      intResult sat signed w (fi (asInt signed w a) (asInt signed w b) (asInt signed w d))

/-- A result over the elements of va, vb and vd in the format of va. -/
def Strand.lanes (x : Strand) (d a : BitVec 4) (k : BitVec 3) (b : Nat → Nat) (f : Nat → Nat → Nat → Nat × Fl) :
    VReg × Fl :=
  let t := (x.V a).tag
  let w := widthOf t
  x.result d k t (keepScale (x.V a)) fun i _ => f (elem (x.V a).data.toNat w i) (b i) (elem (x.V d).data.toNat w i)

/-- Element i of vb in the format of va. -/
def Strand.lane (x : Strand) (b a : BitVec 4) (i : Nat) : Nat := elem (x.V b).data.toNat (widthOf (x.V a).tag) i

/-! ## Major 0x20 -/

/-- vd := f of va and vb (R105). -/
def arith2 (word : BitVec 32) (iv : BitVec 2) (d a b : BitVec 4) (k : BitVec 3) (sc : BitVec 4) (acc : List Nat)
    (signed satOk : Bool) (fi : IntOp) (ff : FloatOp) (s : State) : Out :=
  vguard (infoR word iv sc (vs [d, a, b] ++ ks [k])) (fun x => [x.need a acc, x.same b a, x.fits (x.halfOf a)]) s fun s =>
    let x := s.st
    s.vwrite d (x.lanes d a k (x.lane b a)
      (arithElem (x.V a).tag signed (satOk && x.satOn) x.rm.plain x.fz fi ff))

/-- vd := f of va, vb and its own old value (R105). -/
def arith3 (word : BitVec 32) (iv : BitVec 2) (d a b : BitVec 4) (k : BitVec 3) (sc : BitVec 4) (fi : IntOp) (ff : FloatOp)
    (s : State) : Out :=
  vguard (infoR word iv sc (vs [d, a, b] ++ ks [k]))
    (fun x => [x.same d a, x.need a tIF, x.same b a, x.fits (x.halfOf a)]) s fun s =>
    let x := s.st
    s.vwrite d (x.lanes d a k (x.lane b a) (arithElem (x.V a).tag true x.satOn x.rm.plain x.fz fi ff))

/-- vd := f of va (R105). -/
def arith1 (word : BitVec 32) (iv : BitVec 2) (d a : BitVec 4) (k : BitVec 3) (sc : BitVec 4) (acc : List Nat) (fi : IntOp)
    (ff : FloatOp) (s : State) : Out :=
  vguard (infoR word iv sc (vs [d, a] ++ ks [k])) (fun x => [x.need a acc, x.fits (x.halfOf a)]) s fun s =>
    let x := s.st
    s.vwrite d (x.lanes d a k (fun _ => 0) (arithElem (x.V a).tag true x.satOn x.rm.plain x.fz fi ff))

/-- vd := a bitwise or shift function of the bits of va and vb and the width (R105, R106). -/
def bits2 (word : BitVec 32) (iv : BitVec 2) (d a b : BitVec 4) (k : BitVec 3) (sc : BitVec 4) (acc : List Nat)
    (f : Nat → Nat → Nat → Nat) (s : State) : Out :=
  vguard (infoR word iv sc (vs [d, a, b] ++ ks [k])) (fun x => [x.need a acc, x.same b a, x.fits (x.halfOf a)]) s fun s =>
    let x := s.st
    s.vwrite d (x.lanes d a k (x.lane b a) fun p q _ => (f (widthOf (x.V a).tag) p q, 0))

/-- An operation that no floating-point format reaches. -/
def noFloat : FloatOp := fun _ _ _ _ _ _ => (0, 0)

/-- AND NOT of w bits. -/
def andNot (w a b : Nat) : Nat := a &&& (2 ^ w - 1 - b % 2 ^ w)

/-- Shifts by the whole unsigned count (R106). -/
def shlElem (w a c : Nat) : Nat := if w ≤ c then 0 else a * 2 ^ c % 2 ^ w
def shrElem (w a c : Nat) : Nat := if w ≤ c then 0 else a / 2 ^ c
def sraElem (w a c : Nat) : Nat := wrap w (asInt true w a / ((2 ^ Nat.min c (w - 1) : Nat) : Int))


/-- vadd (R105). -/
def execVadd (iv : BitVec 2) (d a b : BitVec 4) (k : BitVec 3) (sc : BitVec 4) (s : State) : Out :=
  arith2 (Decode.wVadd iv d a b k sc) iv d a b k sc tIFC true true (fun a b _ => a + b) fAdd s

/-- vadd.n (R105). -/
def execVaddN (iv : BitVec 2) (d a b : BitVec 4) (k : BitVec 3) (sc : BitVec 4) (s : State) : Out :=
  arith2 (Decode.wVaddN iv d a b k sc) iv d a b k sc tI false true (fun a b _ => a + b) noFloat s

/-- vsub (R105). -/
def execVsub (iv : BitVec 2) (d a b : BitVec 4) (k : BitVec 3) (sc : BitVec 4) (s : State) : Out :=
  arith2 (Decode.wVsub iv d a b k sc) iv d a b k sc tIFC true true (fun a b _ => a - b) fSub s

/-- vsub.n (R105). -/
def execVsubN (iv : BitVec 2) (d a b : BitVec 4) (k : BitVec 3) (sc : BitVec 4) (s : State) : Out :=
  arith2 (Decode.wVsubN iv d a b k sc) iv d a b k sc tI false true (fun a b _ => a - b) noFloat s

/-- vmul (R105). -/
def execVmul (iv : BitVec 2) (d a b : BitVec 4) (k : BitVec 3) (sc : BitVec 4) (s : State) : Out :=
  arith2 (Decode.wVmul iv d a b k sc) iv d a b k sc tIF true true (fun a b _ => a * b) fMul s

/-- vmul.n (R105). -/
def execVmulN (iv : BitVec 2) (d a b : BitVec 4) (k : BitVec 3) (sc : BitVec 4) (s : State) : Out :=
  arith2 (Decode.wVmulN iv d a b k sc) iv d a b k sc tI false true (fun a b _ => a * b) noFloat s

/-- vfma (R105): rounded once. -/
def execVfma (iv : BitVec 2) (d a b : BitVec 4) (k : BitVec 3) (sc : BitVec 4) (s : State) : Out :=
  arith3 (Decode.wVfma iv d a b k sc) iv d a b k sc (fun a b d => a * b + d) fFma s

/-- vfms (R105): rounded once. -/
def execVfms (iv : BitVec 2) (d a b : BitVec 4) (k : BitVec 3) (sc : BitVec 4) (s : State) : Out :=
  arith3 (Decode.wVfms iv d a b k sc) iv d a b k sc (fun a b d => d - a * b) fFms s

/-- vmin (R105). -/
def execVmin (iv : BitVec 2) (d a b : BitVec 4) (k : BitVec 3) (sc : BitVec 4) (s : State) : Out :=
  arith2 (Decode.wVmin iv d a b k sc) iv d a b k sc tIF true false (fun a b _ => min a b) (fPick false) s

/-- vmin.n (R105). -/
def execVminN (iv : BitVec 2) (d a b : BitVec 4) (k : BitVec 3) (sc : BitVec 4) (s : State) : Out :=
  arith2 (Decode.wVminN iv d a b k sc) iv d a b k sc tI false false (fun a b _ => min a b) noFloat s

/-- vmax (R105). -/
def execVmax (iv : BitVec 2) (d a b : BitVec 4) (k : BitVec 3) (sc : BitVec 4) (s : State) : Out :=
  arith2 (Decode.wVmax iv d a b k sc) iv d a b k sc tIF true false (fun a b _ => max a b) (fPick true) s

/-- vmax.n (R105). -/
def execVmaxN (iv : BitVec 2) (d a b : BitVec 4) (k : BitVec 3) (sc : BitVec 4) (s : State) : Out :=
  arith2 (Decode.wVmaxN iv d a b k sc) iv d a b k sc tI false false (fun a b _ => max a b) noFloat s

/-- vabs (R105, R106). -/
def execVabs (iv : BitVec 2) (d a : BitVec 4) (k : BitVec 3) (sc : BitVec 4) (s : State) : Out :=
  arith1 (Decode.wVabs iv d a k sc) iv d a k sc tIF (fun a _ _ => (a.natAbs : Int)) fAbs s

/-- vneg (R105, R106). -/
def execVneg (iv : BitVec 2) (d a : BitVec 4) (k : BitVec 3) (sc : BitVec 4) (s : State) : Out :=
  arith1 (Decode.wVneg iv d a k sc) iv d a k sc tIFC (fun a _ _ => -a) fNeg s

/-- vand (R105). -/
def execVand (iv : BitVec 2) (d a b : BitVec 4) (k : BitVec 3) (sc : BitVec 4) (s : State) : Out :=
  bits2 (Decode.wVand iv d a b k sc) iv d a b k sc tAny (fun _ a b => a &&& b) s

/-- vor (R105). -/
def execVor (iv : BitVec 2) (d a b : BitVec 4) (k : BitVec 3) (sc : BitVec 4) (s : State) : Out :=
  bits2 (Decode.wVor iv d a b k sc) iv d a b k sc tAny (fun _ a b => a ||| b) s

/-- vxor (R105). -/
def execVxor (iv : BitVec 2) (d a b : BitVec 4) (k : BitVec 3) (sc : BitVec 4) (s : State) : Out :=
  bits2 (Decode.wVxor iv d a b k sc) iv d a b k sc tAny (fun _ a b => a ^^^ b) s

/-- vandn (R105). -/
def execVandn (iv : BitVec 2) (d a b : BitVec 4) (k : BitVec 3) (sc : BitVec 4) (s : State) : Out :=
  bits2 (Decode.wVandn iv d a b k sc) iv d a b k sc tAny (andNot) s

/-- vshl (R105). -/
def execVshl (iv : BitVec 2) (d a b : BitVec 4) (k : BitVec 3) (sc : BitVec 4) (s : State) : Out :=
  bits2 (Decode.wVshl iv d a b k sc) iv d a b k sc tI (shlElem) s

/-- vshr (R105). -/
def execVshr (iv : BitVec 2) (d a b : BitVec 4) (k : BitVec 3) (sc : BitVec 4) (s : State) : Out :=
  bits2 (Decode.wVshr iv d a b k sc) iv d a b k sc tI (shrElem) s

/-- vsra (R105). -/
def execVsra (iv : BitVec 2) (d a b : BitVec 4) (k : BitVec 3) (sc : BitVec 4) (s : State) : Out :=
  bits2 (Decode.wVsra iv d a b k sc) iv d a b k sc tI (sraElem) s

/-- vavg (R105). -/
def execVavg (iv : BitVec 2) (d a b : BitVec 4) (k : BitVec 3) (sc : BitVec 4) (s : State) : Out :=
  arith2 (Decode.wVavg iv d a b k sc) iv d a b k sc tI true false (fun a b _ => (a + b + 1) / 2) noFloat s

/-- vavg.n (R105). -/
def execVavgN (iv : BitVec 2) (d a b : BitVec 4) (k : BitVec 3) (sc : BitVec 4) (s : State) : Out :=
  arith2 (Decode.wVavgN iv d a b k sc) iv d a b k sc tI false false (fun a b _ => (a + b + 1) / 2) noFloat s

/-! ## Major 0x26 -/

/-- The scalar operand: the low element-width bits of G[g] (R116). -/
def Strand.scalarOf (x : Strand) (g : BitVec 5) (w : Nat) : Nat := (x.G g).toNat % 2 ^ w

/-- vd := f of va and s (R116). -/
def arithS (word : BitVec 32) (iv : BitVec 2) (d a : BitVec 4) (g : BitVec 5) (k : BitVec 3) (sc : BitVec 4)
    (acc : List Nat) (signed acc3 : Bool) (fi : IntOp) (ff : FloatOp) (s : State) : Out :=
  vguard (infoR word iv sc (vs [d, a] ++ gs [g] ++ ks [k]))
    (fun x => (if acc3 then [x.same d a] else []) ++ [x.need a acc, x.fits (x.halfOf a)]) s fun s =>
    let x := s.st
    let b := x.scalarOf g (widthOf (x.V a).tag)
    s.vwrite d (x.lanes d a k (fun _ => b) (arithElem (x.V a).tag signed x.satOn x.rm.plain x.fz fi ff))

/-- vadds (R116). -/
def execVadds (iv : BitVec 2) (d a : BitVec 4) (g : BitVec 5) (k : BitVec 3) (sc : BitVec 4) (s : State) : Out :=
  arithS (Decode.wVadds iv d a g k sc) iv d a g k sc tIF true false (fun a b _ => a + b) fAdd s

/-- vadds.n (R116). -/
def execVaddsN (iv : BitVec 2) (d a : BitVec 4) (g : BitVec 5) (k : BitVec 3) (sc : BitVec 4) (s : State) : Out :=
  arithS (Decode.wVaddsN iv d a g k sc) iv d a g k sc tI false false (fun a b _ => a + b) noFloat s

/-- vmuls (R116). -/
def execVmuls (iv : BitVec 2) (d a : BitVec 4) (g : BitVec 5) (k : BitVec 3) (sc : BitVec 4) (s : State) : Out :=
  arithS (Decode.wVmuls iv d a g k sc) iv d a g k sc tIF true false (fun a b _ => a * b) fMul s

/-- vmuls.n (R116). -/
def execVmulsN (iv : BitVec 2) (d a : BitVec 4) (g : BitVec 5) (k : BitVec 3) (sc : BitVec 4) (s : State) : Out :=
  arithS (Decode.wVmulsN iv d a g k sc) iv d a g k sc tI false false (fun a b _ => a * b) noFloat s

/-- vfmas (R116). -/
def execVfmas (iv : BitVec 2) (d a : BitVec 4) (g : BitVec 5) (k : BitVec 3) (sc : BitVec 4) (s : State) : Out :=
  arithS (Decode.wVfmas iv d a g k sc) iv d a g k sc tIF true true (fun a b d => a * b + d) fFma s

/-- vbcast (R116): tag and scale field stay; int4 takes G[g][3:0] into both nibbles. -/
def execVbcast (iv : BitVec 2) (d : BitVec 4) (g : BitVec 5) (k : BitVec 3) (sc : BitVec 4) (s : State) : Out :=
  vguard (infoR (Decode.wVbcast iv d g k sc) iv sc (vs [d] ++ gs [g] ++ ks [k]))
    (fun x => [x.need d tAny, x.fits (x.halfOf d)]) s fun s =>
    let x := s.st
    let t := (x.V d).tag
    let y := if t = 12 then x.scalarOf g 4 * 17 else x.scalarOf g (widthOf t)
    s.vwrite d (x.result d k t (x.V d).scale fun _ _ => (y, 0))

/-- vget and vget.n (R116): the element at the lowest active index, 0 without one. -/
def getLane (word : BitVec 32) (iv : BitVec 2) (a : BitVec 4) (g : BitVec 5) (k : BitVec 3) (sc : BitVec 4) (signed : Bool)
    (acc : List Nat) (s : State) : Out :=
  vguard (infoR word iv sc (gs [g] ++ vs [a] ++ ks [k])) (fun x => [x.need a acc, x.fits (x.halfOf a)]) s fun s =>
    let x := s.st
    let t := (x.V a).tag
    let w := widthOf t
    let y := match x.lowest k x.elems with
      | some j => asInt (signed && tI.contains t.toNat) w (elem (x.V a).data.toNat w j)
      | none => 0
    .next (s.setG g (BitVec.ofInt 64 y)).retire

/-- vget (R116). -/
def execVget (iv : BitVec 2) (a : BitVec 4) (g : BitVec 5) (k : BitVec 3) (sc : BitVec 4) (s : State) : Out :=
  getLane (Decode.wVget iv a g k sc) iv a g k sc true tNo4 s

/-- vget.n (R116): its .n code takes FORMAT_TAG on a floating-point or c32 register (R103). -/
def execVgetN (iv : BitVec 2) (a : BitVec 4) (g : BitVec 5) (k : BitVec 3) (sc : BitVec 4) (s : State) : Out :=
  getLane (Decode.wVgetN iv a g k sc) iv a g k sc false [0, 1, 2, 3, 4, 11, 13, 14] s

/-- vset (R116): only the element at the lowest active index; tag and scale field stay. -/
def execVset (iv : BitVec 2) (d : BitVec 4) (g : BitVec 5) (k : BitVec 3) (sc : BitVec 4) (s : State) : Out :=
  vguard (infoR (Decode.wVset iv d g k sc) iv sc (vs [d] ++ gs [g] ++ ks [k]))
    (fun x => [x.need d tNo4, x.fits (x.halfOf d)]) s fun s =>
    let x := s.st
    let t := (x.V d).tag
    let w := widthOf t
    let j := x.lowest k x.elems
    let (r, _) := mapUnits w (fun i => j == some i) (x.V d).data.toNat (fun _ _ => (x.scalarOf g w, 0)) x.elems 0 0
    s.vwrite d (mkVReg r (x.elems * w / 8) t (x.V d).scale, 0)

end Sys2Proof.Machine
end

