-- ==== Sys2Proof/Machine/Special.lean ====
section
/-!
DEFINITION. The special functions (03 R55): division, square roots and reciprocals exactly, the transcendental ones to 640
binary places, which fixes the correctly rounded result (log 10).
-/
namespace Sys2Proof.Machine

/-- Bits of the root of x from bit n - 1 down, added to r. -/
def isqrtFrom (x : Nat) : Nat → Nat → Nat
  | 0, r => r
  | n + 1, r => if (r + 2 ^ n) * (r + 2 ^ n) ≤ x then isqrtFrom x n (r + 2 ^ n) else isqrtFrom x n r

/-- Floor of the square root. -/
def isqrt (x : Nat) : Nat := isqrtFrom x (x.log2 / 2 + 1) 0

/-- A value just known to lie between q · 2^e and (q + 1) · 2^e, or to equal q · 2^e: the odd last place keeps it apart
from every tie. -/
def sticky (neg : Bool) (q : Nat) (e : Int) (exact : Bool) : Num := .fin neg (2 * q + if exact then 0 else 1) (e - 1)

/-- x ÷ y (R55). -/
def divNum (x y : Num) : Num × Fl :=
  match x, y with
  | .nan, _ => (.nan, 0)
  | _, .nan => (.nan, 0)
  | .inf _, .inf _ => (.nan, Fl.nv)
  | .inf s, .fin t _ _ => (.inf (s != t), 0)
  | .fin s _ _, .inf t => (.zero (s != t), 0)
  | .fin s m e, .fin t n f =>
    if n = 0 then (if m = 0 then (.nan, Fl.nv) else (.inf (s != t), Fl.dz))
    else if m = 0 then (.zero (s != t), 0)
    else
      let k := 80 + n.log2
      (sticky (s != t) (m * 2 ^ k / n) (e - f - k) (m * 2 ^ k % n == 0), 0)

/-- 1 ÷ x: rcp (R55). -/
def rcpNum (x : Num) : Num × Fl := divNum (.fin false 1 0) x

/-- Square root (R55). -/
def sqrtNum (x : Num) : Num × Fl :=
  match x with
  | .nan => (.nan, 0)
  | .inf s => if s then (.nan, Fl.nv) else (.inf false, 0)
  | .fin s m e =>
    if m = 0 then (.zero s, 0)
    else if s then (.nan, Fl.nv)
    else
      let (m, e) := if e % 2 = 0 then (m, e) else (2 * m, e - 1)
      let q := isqrt (m * 2 ^ 160)
      (sticky false q (e / 2 - 80) (q * q == m * 2 ^ 160), 0)

/-- 1 ÷ square root (R55). -/
def rsqNum (x : Num) : Num × Fl :=
  match x with
  | .nan => (.nan, 0)
  | .inf s => if s then (.nan, Fl.nv) else (.zero false, 0)
  | .fin s m e =>
    if m = 0 then (.inf s, Fl.dz)
    else if s then (.nan, Fl.nv)
    else
      let (m, e) := if e % 2 = 0 then (m, e) else (2 * m, e - 1)
      let q := isqrt (2 ^ 320 / m)
      (sticky false q (-(e / 2) - 160) (q * q * m == 2 ^ 320), 0)

/-! ## Fixed point with 640 binary places -/

/-- 2^640. -/
def fixOne : Nat := 2 ^ 640

/-- ln 2 · 2^640, rounded down. -/
def fixLn2 : Nat :=
  0xb17217f7d1cf79abc9e3b39803f2f6af40f343267298b62d8a0d175b8baafa2be7b876206debac98559552fb4afa1b10ed2eae35c138214427573b291169b8253e96ca16224ae8c51acbda11317c387e

/-- π · 2^640, rounded down. -/
def fixPi : Nat :=
  0x3243f6a8885a308d313198a2e03707344a4093822299f31d0082efa98ec4e6c89452821e638d01377be5466cf34e90c6cc0ac29b7c97c50dd3f84d5b5b54709179216d5d98979fb1bd1310ba698dfb5ac

/-- Terms t, t·x/k, t·x²/(k(k+1)), … of an exponential series, n of them, summed. -/
def expSum (x : Nat) : Nat → Nat → Nat → Nat
  | 0, _, _ => 0
  | n + 1, k, t => t + expSum x n (k + 1) (t * x / fixOne / k)

/-- e^x for a fixed-point x in [0, 1). -/
def fixExp (x : Nat) : Nat := expSum x 160 1 fixOne

/-- The even part of the sine series: t − t·x²/(k(k+1)) + …, n terms, as the terms of one sign minus those of the other. -/
def sinSum (x2 : Nat) : Nat → Nat → Nat → Int
  | 0, _, _ => 0
  | n + 1, k, t => (t : Int) - sinSum x2 n (k + 2) (t * x2 / fixOne / (k * (k + 1)))

/-- sin(π·t) for a fixed-point t in [0, 1/2]. -/
def fixSinPi (t : Nat) : Nat :=
  let x := t * fixPi / fixOne
  (sinSum (x * x / fixOne) 90 2 x).toNat

/-- z + z³/3 + z⁵/5 + …, n terms. -/
def atanhSum (z2 : Nat) : Nat → Nat → Nat → Nat
  | 0, _, _ => 0
  | n + 1, k, t => t / k + atanhSum z2 n (k + 2) (t * z2 / fixOne)

/-- ln of num/den in [1, 2) in fixed point. -/
def fixLn (num den : Nat) : Nat :=
  let z := (num - den) * fixOne / (num + den)
  2 * atanhSum (z * z / fixOne) 210 1 z

/-- The fixed-point value of m · 2^e, for e ≥ −640. -/
def toFix (m : Nat) (e : Int) : Nat := if 0 ≤ e then m * 2 ^ e.toNat * fixOne else m * fixOne / 2 ^ (-e).toNat

/-- 2^x (R55). -/
def exp2Num (x : Num) : Num × Fl :=
  match x with
  | .nan => (.nan, 0)
  | .inf s => (if s then .zero false else .inf false, 0)
  | .fin s m e =>
    if m = 0 then (.fin false 1 0, 0)
    else if (m.log2 : Int) + e ≥ 10 then (sticky false 1 (if s then -1000 else 1000) false, 0)
    else
      let v := toFix m e
      let (n, f) : Int × Nat :=
        if s then (if v % fixOne = 0 then (-((v / fixOne : Nat) : Int), 0) else (-((v / fixOne : Nat) : Int) - 1, fixOne - v % fixOne))
        else (((v / fixOne : Nat) : Int), v % fixOne)
      if f = 0 then (.fin false 1 n, 0)
      else (sticky false (fixExp (f * fixLn2 / fixOne)) (n - 640) false, 0)

/-- log2 x (R55). -/
def log2Num (x : Num) : Num × Fl :=
  match x with
  | .nan => (.nan, 0)
  | .inf s => if s then (.nan, Fl.nv) else (.inf false, 0)
  | .fin s m e =>
    if m = 0 then (.inf true, Fl.dz)
    else if s then (.nan, Fl.nv)
    else
      let E := (m.log2 : Int) + e
      if m = 2 ^ m.log2 then (.ofInt E, 0)
      else
        let fr := fixLn m (2 ^ m.log2) * fixOne / fixLn2
        let v : Int := E * fixOne + fr
        (sticky (decide (v < 0)) v.natAbs (-640) false, 0)

/-- sin(π·a) for a = m · 2^e ≥ 0: sign and magnitude; the exact cases 0 and ±1 apart. -/
def sinPiPos (m : Nat) (e : Int) : Num :=
  let t := if 0 ≤ e then m * 2 ^ e.toNat * fixOne % (2 * fixOne) else m * fixOne / 2 ^ (-e).toNat % (2 * fixOne)
  let neg := decide (t ≥ fixOne)
  let t := t % fixOne
  let t := if 2 * t > fixOne then fixOne - t else t
  if t = 0 then .zero false
  else if 2 * t = fixOne then .fin neg 1 0
  else sticky neg (fixSinPi t) (-640) false

/-- sinpi (R55): zero at an integer n, +0 for n ≥ 0 and −0 for n < 0. -/
def sinpiNum (x : Num) : Num × Fl :=
  match x with
  | .nan => (.nan, 0)
  | .inf _ => (.nan, Fl.nv)
  | .fin s m e =>
    match sinPiPos m e with
    | .fin t n f => if n = 0 then (.zero (s && decide (m ≠ 0)), 0) else (.fin (s != t) n f, 0)
    | y => (y, 0)

/-- cospi (R55). -/
def cospiNum (x : Num) : Num × Fl :=
  match x with
  | .nan => (.nan, 0)
  | .inf _ => (.nan, Fl.nv)
  | .fin _ m e =>
    if e ≥ 0 then (sinPiPos (2 * m * 2 ^ e.toNat + 1) (-1), 0)
    else (sinPiPos (2 * m + 2 ^ (-e).toNat) (e - 1), 0)

/-- tanh (R55), by (E − 1) ÷ (E + 1) with E = e^(2x). -/
def tanhNum (x : Num) : Num × Fl :=
  match x with
  | .nan => (.nan, 0)
  | .inf s => (.fin s 1 0, 0)
  | .fin s m e =>
    if m = 0 then (.zero s, 0)
    else if (m.log2 : Int) + e ≥ 6 then (sticky s (fixOne - 1) (-640) false, 0)
    else
      let y := 2 * toFix m e
      let n := y / fixLn2
      let E := fixExp (y - n * fixLn2) * 2 ^ n
      (sticky s ((E - fixOne) * fixOne / (E + fixOne)) (-640) false, 0)

end Sys2Proof.Machine
end

