-- ==== Sys2Proof/Machine/VecReduce.lean ====
section
/-!
DEFINITION. Vector reductions (06 R109, R110): major 0x23.
-/
namespace Sys2Proof.Machine

/-- A reduction: the classes it accepts, its identity in a width of integers and in a format, what it makes of its first
element and how it combines two. -/
structure RedOp where
  acc    : List Nat
  signed : Bool
  identI : Nat → Nat
  identF : Fmt → Nat
  liftI  : Nat → Nat → Nat
  liftF  : Fmt → Bool → Nat → Nat
  combI  : Nat → Nat → Nat → Nat
  combF  : FloatOp

/-- A NaN that a reduction writes is the canonical one (R47). -/
def Fmt.canon (f : Fmt) (b : Nat) : Nat := if f.decode false b == .nan then f.nanBits else b

/-- The magnitude of a floating-point element, a NaN being the canonical one (R110). -/
def Fmt.magnitude (f : Fmt) (fz : Bool) (b : Nat) : Nat := if f.decode false b == .nan then f.nanBits else f.read fz b % 2 ^ (f.w - 1)

/-- The larger magnitude; a NaN stays (R110). -/
def fAmax : FloatOp := fun f _ fz v b _ =>
  let m := f.magnitude fz b
  if f.decode false v == .nan || f.decode false b == .nan then (f.nanBits, 0)
  else (if (f.decode fz v).lt (f.decode fz m) then m else v, 0)

/-- The unsigned magnitude of a signed integer (R110). -/
def absElem (w x : Nat) : Nat := (asInt true w x).natAbs

/-- The reductions of R109. -/
def redAdd : RedOp := ⟨tIFC, true, fun _ => 0, fun _ => 0, fun _ x => x, fun f fz b => f.read fz b, fun w a b => (a + b) % 2 ^ w, fAdd⟩
def redMin : RedOp := ⟨tIF, true, fun w => 2 ^ (w - 1) - 1, fun f => f.infBits, fun _ x => x, fun f fz b => f.read fz b,
  fun w a b => if asInt true w a ≤ asInt true w b then a else b, fPick false⟩
def redMax : RedOp := ⟨tIF, true, fun w => 2 ^ (w - 1), fun f => f.signBit true + f.infBits, fun _ x => x, fun f fz b => f.read fz b,
  fun w a b => if asInt true w a ≤ asInt true w b then b else a, fPick true⟩
def redAnd : RedOp := ⟨tI, false, fun w => 2 ^ w - 1, fun _ => 0, fun _ x => x, fun _ _ b => b, fun _ a b => a &&& b, noFloat⟩
def redOr : RedOp := ⟨tI, false, fun _ => 0, fun _ => 0, fun _ x => x, fun _ _ b => b, fun _ a b => a ||| b, noFloat⟩
def redAmax : RedOp := ⟨tIF, false, fun _ => 0, fun _ => 0, absElem, fun f fz b => f.magnitude fz b,
  fun w a b => Nat.max a (absElem w b), fAmax⟩
def redMinN : RedOp := ⟨tI, false, fun w => 2 ^ w - 1, fun _ => 0, fun _ x => x, fun _ _ b => b, fun _ a b => Nat.min a b, noFloat⟩
def redMaxN : RedOp := ⟨tI, false, fun _ => 0, fun _ => 0, fun _ x => x, fun _ _ b => b, fun _ a b => Nat.max a b, noFloat⟩

/-- Combine the elements of a list in turn from a first one, each step rounded (R110). -/
def redFold (f : Nat → Nat → Nat × Fl) (v : Nat) (e : Fl) : List Nat → Nat × Fl
  | [] => (v, e)
  | b :: t => let (r, e') := f v b; redFold f r (e ||| e') t

/-- Reduce a list of elements in one floating-point format. -/
def RedOp.float (op : RedOp) (f : Fmt) (rm : RM) (fz : Bool) (l : List Nat) : Nat × Fl :=
  match l with
  | [] => (op.identF f, 0)
  | a :: t => let (r, e) := redFold (fun v b => op.combF f rm fz v b 0) (op.liftF f fz a) 0 t; (f.canon r, e)

/-- Reduce a list of elements of format t, the active ones of a group in increasing index (R110). -/
def RedOp.reduce (op : RedOp) (t : BitVec 4) (rm : RM) (fz : Bool) (l : List Nat) : Nat × Fl :=
  if t = 10 then
    let (lo, e) := op.float .f32 rm fz (l.map (· % 2 ^ 32))
    let (hi, e') := op.float .f32 rm fz (l.map (· / 2 ^ 32))
    (lo + 2 ^ 32 * hi, e ||| e')
  else match Fmt.ofTag t with
    | some f => op.float f rm fz l
    | none =>
      let w := widthOf t
      match l with
      | [] => (op.identI w, 0)
      | a :: t => redFold (fun v b => (op.combI w v b, 0)) (op.liftI w a) 0 t

/-- The active elements of a register at a list of indices. -/
def Strand.pick (x : Strand) (a : BitVec 4) (k : BitVec 3) (l : List Nat) : List Nat :=
  (l.filter (x.active k)).map fun i => elem (x.V a).data.toNat (widthOf (x.V a).tag) i

/-- vred.op.all (R109). -/
def reduceAll (word : BitVec 32) (iv : BitVec 2) (a : BitVec 4) (g : BitVec 5) (k : BitVec 3) (sc : BitVec 4) (op : RedOp)
    (s : State) : Out :=
  vguard (infoR word iv sc (gs [g] ++ vs [a] ++ ks [k])) (fun x => [x.need a op.acc, x.fits (x.halfOf a)]) s fun s =>
    let x := s.st
    let t := (x.V a).tag
    let (r, fl) := op.reduce t x.rm.plain x.fz (x.pick a k (List.range x.elems))
    let y := BitVec.ofInt 64 (asInt (op.signed && tI.contains t.toNat) (widthOf t) r)
    .next ((s.setG g y).modSt (·.raise fl)).retire

/-- vred.op.row and vred.op.col (R109): group j reduces its active elements, the indices of `group`, into the element at
`place`; the mask does not hold back the elements written, so that a group without an active one gives the identity (R110)
and every other element of the shape is zero (log 31). -/
def reduceInto (word : BitVec 32) (iv : BitVec 2) (d a : BitVec 4) (k : BitVec 3) (sc : BitVec 4) (op : RedOp)
    (group : Strand → Nat → List Nat) (place : Strand → Nat → Option Nat) (s : State) : Out :=
  vguard (infoR word iv sc (vs [d, a] ++ ks [k])) (fun x => [x.need a op.acc, x.fits (x.halfOf a)]) s fun s =>
    let x := s.st
    let t := (x.V a).tag
    s.vwrite d (x.result d 0 t 0 fun i _ => match place x i with
      | some j => op.reduce t x.rm.plain x.fz (x.pick a k (group x j))
      | none => (0, 0))

/-- The indices of row r and of column c. -/
def Strand.rowOf (x : Strand) (r : Nat) : List Nat := (List.range x.cols).map (r * x.cols + ·)
def Strand.colOf (x : Strand) (c : Nat) : List Nat := (List.range x.rows).map (· * x.cols + c)

/-- Element (r, 0) takes row r; element (0, c) takes column c. -/
def Strand.rowAt (x : Strand) (i : Nat) : Option Nat := if i % x.cols = 0 then some (i / x.cols) else none
def Strand.colAt (x : Strand) (i : Nat) : Option Nat := if i < x.cols then some i else none

/-- vred.add.all (R109). -/
def execVredAddAll (iv : BitVec 2) (a : BitVec 4) (g : BitVec 5) (k : BitVec 3) (sc : BitVec 4) (s : State) : Out :=
  reduceAll (Decode.wVredAddAll iv a g k sc) iv a g k sc redAdd s

/-- vred.min.all (R109). -/
def execVredMinAll (iv : BitVec 2) (a : BitVec 4) (g : BitVec 5) (k : BitVec 3) (sc : BitVec 4) (s : State) : Out :=
  reduceAll (Decode.wVredMinAll iv a g k sc) iv a g k sc redMin s

/-- vred.max.all (R109). -/
def execVredMaxAll (iv : BitVec 2) (a : BitVec 4) (g : BitVec 5) (k : BitVec 3) (sc : BitVec 4) (s : State) : Out :=
  reduceAll (Decode.wVredMaxAll iv a g k sc) iv a g k sc redMax s

/-- vred.and.all (R109). -/
def execVredAndAll (iv : BitVec 2) (a : BitVec 4) (g : BitVec 5) (k : BitVec 3) (sc : BitVec 4) (s : State) : Out :=
  reduceAll (Decode.wVredAndAll iv a g k sc) iv a g k sc redAnd s

/-- vred.or.all (R109). -/
def execVredOrAll (iv : BitVec 2) (a : BitVec 4) (g : BitVec 5) (k : BitVec 3) (sc : BitVec 4) (s : State) : Out :=
  reduceAll (Decode.wVredOrAll iv a g k sc) iv a g k sc redOr s

/-- vred.amax.all (R109). -/
def execVredAmaxAll (iv : BitVec 2) (a : BitVec 4) (g : BitVec 5) (k : BitVec 3) (sc : BitVec 4) (s : State) : Out :=
  reduceAll (Decode.wVredAmaxAll iv a g k sc) iv a g k sc redAmax s

/-- vred.min.n.all (R109). -/
def execVredMinNAll (iv : BitVec 2) (a : BitVec 4) (g : BitVec 5) (k : BitVec 3) (sc : BitVec 4) (s : State) : Out :=
  reduceAll (Decode.wVredMinNAll iv a g k sc) iv a g k sc redMinN s

/-- vred.max.n.all (R109). -/
def execVredMaxNAll (iv : BitVec 2) (a : BitVec 4) (g : BitVec 5) (k : BitVec 3) (sc : BitVec 4) (s : State) : Out :=
  reduceAll (Decode.wVredMaxNAll iv a g k sc) iv a g k sc redMaxN s

/-- vred.add.row (R109). -/
def execVredAddRow (iv : BitVec 2) (d a : BitVec 4) (k : BitVec 3) (sc : BitVec 4) (s : State) : Out :=
  reduceInto (Decode.wVredAddRow iv d a k sc) iv d a k sc redAdd Strand.rowOf Strand.rowAt s

/-- vred.min.row (R109). -/
def execVredMinRow (iv : BitVec 2) (d a : BitVec 4) (k : BitVec 3) (sc : BitVec 4) (s : State) : Out :=
  reduceInto (Decode.wVredMinRow iv d a k sc) iv d a k sc redMin Strand.rowOf Strand.rowAt s

/-- vred.max.row (R109). -/
def execVredMaxRow (iv : BitVec 2) (d a : BitVec 4) (k : BitVec 3) (sc : BitVec 4) (s : State) : Out :=
  reduceInto (Decode.wVredMaxRow iv d a k sc) iv d a k sc redMax Strand.rowOf Strand.rowAt s

/-- vred.and.row (R109). -/
def execVredAndRow (iv : BitVec 2) (d a : BitVec 4) (k : BitVec 3) (sc : BitVec 4) (s : State) : Out :=
  reduceInto (Decode.wVredAndRow iv d a k sc) iv d a k sc redAnd Strand.rowOf Strand.rowAt s

/-- vred.or.row (R109). -/
def execVredOrRow (iv : BitVec 2) (d a : BitVec 4) (k : BitVec 3) (sc : BitVec 4) (s : State) : Out :=
  reduceInto (Decode.wVredOrRow iv d a k sc) iv d a k sc redOr Strand.rowOf Strand.rowAt s

/-- vred.amax.row (R109). -/
def execVredAmaxRow (iv : BitVec 2) (d a : BitVec 4) (k : BitVec 3) (sc : BitVec 4) (s : State) : Out :=
  reduceInto (Decode.wVredAmaxRow iv d a k sc) iv d a k sc redAmax Strand.rowOf Strand.rowAt s

/-- vred.min.n.row (R109). -/
def execVredMinNRow (iv : BitVec 2) (d a : BitVec 4) (k : BitVec 3) (sc : BitVec 4) (s : State) : Out :=
  reduceInto (Decode.wVredMinNRow iv d a k sc) iv d a k sc redMinN Strand.rowOf Strand.rowAt s

/-- vred.max.n.row (R109). -/
def execVredMaxNRow (iv : BitVec 2) (d a : BitVec 4) (k : BitVec 3) (sc : BitVec 4) (s : State) : Out :=
  reduceInto (Decode.wVredMaxNRow iv d a k sc) iv d a k sc redMaxN Strand.rowOf Strand.rowAt s

/-- vred.add.col (R109). -/
def execVredAddCol (iv : BitVec 2) (d a : BitVec 4) (k : BitVec 3) (sc : BitVec 4) (s : State) : Out :=
  reduceInto (Decode.wVredAddCol iv d a k sc) iv d a k sc redAdd Strand.colOf Strand.colAt s

/-- vred.min.col (R109). -/
def execVredMinCol (iv : BitVec 2) (d a : BitVec 4) (k : BitVec 3) (sc : BitVec 4) (s : State) : Out :=
  reduceInto (Decode.wVredMinCol iv d a k sc) iv d a k sc redMin Strand.colOf Strand.colAt s

/-- vred.max.col (R109). -/
def execVredMaxCol (iv : BitVec 2) (d a : BitVec 4) (k : BitVec 3) (sc : BitVec 4) (s : State) : Out :=
  reduceInto (Decode.wVredMaxCol iv d a k sc) iv d a k sc redMax Strand.colOf Strand.colAt s

/-- vred.and.col (R109). -/
def execVredAndCol (iv : BitVec 2) (d a : BitVec 4) (k : BitVec 3) (sc : BitVec 4) (s : State) : Out :=
  reduceInto (Decode.wVredAndCol iv d a k sc) iv d a k sc redAnd Strand.colOf Strand.colAt s

/-- vred.or.col (R109). -/
def execVredOrCol (iv : BitVec 2) (d a : BitVec 4) (k : BitVec 3) (sc : BitVec 4) (s : State) : Out :=
  reduceInto (Decode.wVredOrCol iv d a k sc) iv d a k sc redOr Strand.colOf Strand.colAt s

/-- vred.amax.col (R109). -/
def execVredAmaxCol (iv : BitVec 2) (d a : BitVec 4) (k : BitVec 3) (sc : BitVec 4) (s : State) : Out :=
  reduceInto (Decode.wVredAmaxCol iv d a k sc) iv d a k sc redAmax Strand.colOf Strand.colAt s

/-- vred.min.n.col (R109). -/
def execVredMinNCol (iv : BitVec 2) (d a : BitVec 4) (k : BitVec 3) (sc : BitVec 4) (s : State) : Out :=
  reduceInto (Decode.wVredMinNCol iv d a k sc) iv d a k sc redMinN Strand.colOf Strand.colAt s

/-- vred.max.n.col (R109). -/
def execVredMaxNCol (iv : BitVec 2) (d a : BitVec 4) (k : BitVec 3) (sc : BitVec 4) (s : State) : Out :=
  reduceInto (Decode.wVredMaxNCol iv d a k sc) iv d a k sc redMaxN Strand.colOf Strand.colAt s

end Sys2Proof.Machine
end

