-- ==== Sys2Proof/Machine/VecConvert.lean ====
section
/-!
DEFINITION. Conversion and packing (06 R111 to R114), special functions (R115), dot products and complex multiply (R121),
block scales and quantisation (R122): majors 0x24, 0x25, 0x29 and 0x2A.
-/
namespace Sys2Proof.Machine

/-! ## Major 0x24: vcvt -/

/-- Whether a tag is of a class. -/
def isI (t : BitVec 4) : Bool := tI.contains t.toNat
def isB (t : BitVec 4) : Bool := t == 13 || t == 14

/-- The source tags a target accepts under a fn code (R103, R112), lowest first: an integer target takes the other integer
widths, and the floating formats under the .i code. Neither be4 nor bi8 counts as a floating-point F that a .n code refuses
(R103 names the tags of class B nowhere; log 41). -/
def cvtSources (t : BitVec 4) (signed : Bool) : List Nat :=
  if t = 10 then (if signed then [9, 10] else [])
  else
    (tI.filter (· != t.toNat)) ++ (if signed then [5, 6, 7, 8, 9] else []) ++ (if tF.contains t.toNat then [13, 14] else [])

/-- The check of a vcvt's pair (R11, R112). -/
def Strand.cvtPair (x : Strand) (a t : BitVec 4) (signed : Bool) : Check :=
  x.need a (if (cvtSources t signed).isEmpty then [16 + 9] else cvtSources t signed)

/-- Formats into which a conversion rounds stochastically (R51, R52). -/
def stochastic (t : BitVec 4) : Bool := t == 5 || t == 6 || t == 7 || t == 8

/-- The rounding mode of a conversion into t: stochastic only where it applies (R51). -/
def RM.into (rm : RM) (t : BitVec 4) : RM := if rm = .st && !stochastic t then .ne else rm

/-- Outputs a conversion of n active elements draws (R52). -/
def RM.draws (rm : RM) (t : BitVec 4) (n : Nat) : Nat := if rm = .st && stochastic t then n else 0

/-- The number that the j-th active element of a conversion rounds with (R52). -/
def Strand.rnd (x : Strand) (j : Nat) : Nat := (x.output j).toNat % 2 ^ 32

/-- Convert one value into format t (R51, R112). -/
def numInto (t : BitVec 4) (signed : Bool) (rm : RM) (fz : Bool) (rnd : Nat) (v : Num) : Nat × Fl :=
  match Fmt.ofTag t with
  | some f => f.round (rm.into t) fz rnd v
  | none =>
    let w := widthOf t
    let (y, e) := v.toRange (rm.into t) (loOf signed w) (hiOf signed w)
    (wrap w y, e)

/-- Convert one element of format f into format t (R112). -/
def cvtElem (x : Strand) (f t : BitVec 4) (scale : Word) (signed : Bool) (i j b : Nat) : Nat × Fl :=
  let (rm, fz) := (x.rm, x.fz)
  if f = 10 then (Fmt.f32.canon (b % 2 ^ 32) + 2 ^ 32 * Fmt.f32.canon (b / 2 ^ 32), 0)
  else if t = 10 then Fmt.f32.round .ne fz 0 (Fmt.f32.decode fz b)
  else if isB f then
    let (v, e) := blockValue (f == 13) b (scale.toNat / 2 ^ (8 * (i / 32)) % 256) rm.plain
    let (r, e') := numInto t signed rm fz (x.rnd j) v
    (r, e ||| e')
  else match Fmt.ofTag f with
    | some g => numInto t signed rm fz (x.rnd j) (g.decode fz b)
    | none =>
      let y := asInt signed (widthOf f) b
      if isI t then (wrap (widthOf t) y, 0) else numInto t signed rm fz (x.rnd j) (.ofInt y)

/-- vcvt and its .n code (R111, R112); a be4 or bi8 source hands its scale field on (R101). -/
def convert (word : BitVec 32) (iv : BitVec 2) (d a t : BitVec 4) (k : BitVec 3) (sc : BitVec 4) (signed : Bool) (s : State) :
    Out :=
  vguard { (infoR word iv sc (vs [d, a] ++ ks [k])).need (Wf.cvtTarget t) with conv := true }
    (fun x => [x.cvtPair a t signed, x.fits (Nat.max (x.halfOf a) (Wf.tagHalf t))]) s fun s =>
    let x := s.st
    let va := x.V a
    let r := x.result d k t (keepScale va) fun i j => cvtElem x va.tag t va.scale signed i j (elem va.data.toNat (widthOf va.tag) i)
    (s.modSt (·.drew (x.rm.draws t (countActive (x.active k) x.elems 0)))).vwrite d r

/-- vcvt (R111). -/
def execVcvt (iv : BitVec 2) (d a t : BitVec 4) (k : BitVec 3) (sc : BitVec 4) (s : State) : Out :=
  convert (Decode.wVcvt iv d a t k sc) iv d a t k sc true s

/-- vcvt with the .n code (R111, R103). -/
def execVcvtN (iv : BitVec 2) (d a t : BitVec 4) (k : BitVec 3) (sc : BitVec 4) (s : State) : Out :=
  convert (Decode.wVcvtN iv d a t k sc) iv d a t k sc false s

/-! ## Major 0x24: vpack, vunpack, vsat -/

/-- n bytes of a function of their index. -/
def buildBytes (n : Nat) (f : Nat → Nat × Fl) : Nat × Fl := mapUnits 8 (fun _ => true) 0 (fun i _ => f i) n 0 0

/-- An int4 nibble of an int8 element, clamped (R113); absent elements are zero. -/
def nibbleOf (x : Nat → Option Int) (i : Nat) : Nat × Fl :=
  match x i with
  | none => (0, 0)
  | some v => clampTo true 4 v

/-- The trit of an int8 element by its sign (R113). -/
def signOf (x : Nat → Option Int) (i : Nat) : Int :=
  match x i with
  | none => 0
  | some v => if v < 0 then -1 else if 0 < v then 1 else 0

/-- vpack (R113): no mask. -/
def execVpack (iv : BitVec 2) (d a t sc : BitVec 4) (s : State) : Out :=
  vguard ((infoR (Decode.wVpack iv d a t sc) iv sc (vs [d, a])).need (t == 11 || t == 12))
    (fun x => [x.need a [1], x.fits 2]) s fun s =>
    let x := s.st
    let n := x.elems
    let v := fun i => if i < n then some (asInt true 8 (elem (x.V a).data.toNat 8 i)) else none
    let big := (List.range n).any fun i => match v i with | some y => decide (1 < y.natAbs) | none => false
    let r := if t = 12 then
        buildBytes ((n + 1) / 2) fun i =>
          let (lo, e) := nibbleOf v (2 * i)
          let (hi, e') := nibbleOf v (2 * i + 1)
          (lo + 16 * hi, e ||| e')
      else
        let (b, _) := buildBytes ((n + 4) / 5) fun j => (tritByte fun i => signOf v (5 * j + i), 0)
        (b, Fl.when big Fl.sat)
    s.vwrite d (mkVReg r.1 256 t 0, r.2)

/-- vunpack.i8 (R113): the inverse of vpack. -/
def execVunpack (iv : BitVec 2) (d a sc : BitVec 4) (s : State) : Out :=
  vguard (infoR (Decode.wVunpack iv d a sc) iv sc (vs [d, a]))
    (fun x => [x.need a [11, 12], x.fits 2,
      if (x.V a).tag = 11 ∧ 5 * x.elems > 256 then some (0x21, x.shapeVal 2 0) else none]) s fun s =>
    let x := s.st
    let n := x.elems
    let data := (x.V a).data.toNat
    let r := if (x.V a).tag = 12 then buildBytes n fun i => (wrap 8 (asInt true 4 (elem data 4 i)), 0)
      else buildBytes (5 * n) fun i =>
        let b := elem data 8 (i / 5)
        (wrap 8 (tritOf b (i % 5)), Fl.when (decide (242 < b)) Fl.tinv)
    s.vwrite d (mkVReg r.1 256 1 0, r.2)

/-- vsat and its .n code (R114). -/
def saturate (word : BitVec 32) (iv : BitVec 2) (d a t : BitVec 4) (k : BitVec 3) (sc : BitVec 4) (signed : Bool) (s : State) :
    Out :=
  vguard ((infoR word iv sc (vs [d, a] ++ ks [k])).need (Wf.satTarget t))
    (fun x => [x.need a tI, x.fits (Nat.max (x.halfOf a) (Wf.tagHalf t))]) s fun s =>
    let x := s.st
    let w := widthOf (x.V a).tag
    s.vwrite d (x.result d k t 0 fun i _ => clampTo signed (widthOf t) (asInt true w (elem (x.V a).data.toNat w i)))

/-- vsat (R114). -/
def execVsat (iv : BitVec 2) (d a t : BitVec 4) (k : BitVec 3) (sc : BitVec 4) (s : State) : Out :=
  saturate (Decode.wVsat iv d a t k sc) iv d a t k sc true s

/-- vsat with the .n code (R114). -/
def execVsatN (iv : BitVec 2) (d a t : BitVec 4) (k : BitVec 3) (sc : BitVec 4) (s : State) : Out :=
  saturate (Decode.wVsatN iv d a t k sc) iv d a t k sc false s

/-! ## Major 0x25 -/

/-- A special function of one operand (R55, R115): rounded to nearest-even, under fz; long-latency. -/
def special1 (word : BitVec 32) (iv : BitVec 2) (d a : BitVec 4) (k : BitVec 3) (sc : BitVec 4) (f : Num → Num × Fl) (s : State) :
    Out :=
  let inf := infoLL word iv sc (vs [d, a] ++ ks [k])
  vguard inf (fun x => [x.need a tF, x.fits (x.halfOf a)]) s fun s =>
    let x := s.st
    let g := (Fmt.ofTag (x.V a).tag).getD .f32
    let (r, fl) := x.lanes d a k (fun _ => 0) fun b _ _ => g.finish .ne x.fz (f (g.decode x.fz b))
    .next (s.retireLL inf (vs [d]) [.v d r, .fcr (fcrBits fl)])

/-- vrcp (R55, R115). -/
def execVrcp (iv : BitVec 2) (d a : BitVec 4) (k : BitVec 3) (sc : BitVec 4) (s : State) : Out :=
  special1 (Decode.wVrcp iv d a k sc) iv d a k sc rcpNum s

/-- vrsq (R55, R115). -/
def execVrsq (iv : BitVec 2) (d a : BitVec 4) (k : BitVec 3) (sc : BitVec 4) (s : State) : Out :=
  special1 (Decode.wVrsq iv d a k sc) iv d a k sc rsqNum s

/-- vsqrt (R55, R115). -/
def execVsqrt (iv : BitVec 2) (d a : BitVec 4) (k : BitVec 3) (sc : BitVec 4) (s : State) : Out :=
  special1 (Decode.wVsqrt iv d a k sc) iv d a k sc sqrtNum s

/-- vexp2 (R55, R115). -/
def execVexp2 (iv : BitVec 2) (d a : BitVec 4) (k : BitVec 3) (sc : BitVec 4) (s : State) : Out :=
  special1 (Decode.wVexp2 iv d a k sc) iv d a k sc exp2Num s

/-- vlog2 (R55, R115). -/
def execVlog2 (iv : BitVec 2) (d a : BitVec 4) (k : BitVec 3) (sc : BitVec 4) (s : State) : Out :=
  special1 (Decode.wVlog2 iv d a k sc) iv d a k sc log2Num s

/-- vsinpi (R55, R115). -/
def execVsinpi (iv : BitVec 2) (d a : BitVec 4) (k : BitVec 3) (sc : BitVec 4) (s : State) : Out :=
  special1 (Decode.wVsinpi iv d a k sc) iv d a k sc sinpiNum s

/-- vcospi (R55, R115). -/
def execVcospi (iv : BitVec 2) (d a : BitVec 4) (k : BitVec 3) (sc : BitVec 4) (s : State) : Out :=
  special1 (Decode.wVcospi iv d a k sc) iv d a k sc cospiNum s

/-- vtanh (R55, R115). -/
def execVtanh (iv : BitVec 2) (d a : BitVec 4) (k : BitVec 3) (sc : BitVec 4) (s : State) : Out :=
  special1 (Decode.wVtanh iv d a k sc) iv d a k sc tanhNum s

/-- vdiv (R55, R115). -/
def execVdiv (iv : BitVec 2) (d a b : BitVec 4) (k : BitVec 3) (sc : BitVec 4) (s : State) : Out :=
  let inf := infoLL (Decode.wVdiv iv d a b k sc) iv sc (vs [d, a, b] ++ ks [k])
  vguard inf (fun x => [x.need a tF, x.same b a, x.fits (x.halfOf a)]) s fun s =>
    let x := s.st
    let g := (Fmt.ofTag (x.V a).tag).getD .f32
    let (r, fl) := x.lanes d a k (x.lane b a) fun p q _ => g.finish .ne x.fz (divNum (g.decode x.fz p) (g.decode x.fz q))
    .next (s.retireLL inf (vs [d]) [.v d r, .fcr (fcrBits fl)])

/-! ## Major 0x29 -/

/-- The tag vdot requires of vd for a format of its sources (R121). -/
def dotTag (f : BitVec 4) : BitVec 4 := if f = 1 then 3 else 9

/-- Source elements per element of a dot product (R121). -/
def dotWidth (f : BitVec 4) : Nat := if f = 7 ∨ f = 8 then 2 else 4

/-- One element of a dot product from Vd and the sources (R121). -/
def dotElem (f : BitVec 4) (signed sat : Bool) (rm : RM) (fz : Bool) (a b d i : Nat) : Nat × Fl :=
  let w := widthOf f
  let js := (List.range (dotWidth f)).map (dotWidth f * i + ·)
  match Fmt.ofTag f with
  | some g =>
    Fmt.f32.sumUp rm fz ((Fmt.f32.decode fz d, 0) :: js.map fun j => (g.decode fz (elem a w j)).mul (g.decode fz (elem b w j)))
  | none =>
    intResult sat signed 32 (js.foldl (fun v j => v + asInt signed w (elem a w j) * asInt signed w (elem b w j)) (asInt signed 32 d))

/-- vdot and vdot.n (R121). -/
def dotProduct (word : BitVec 32) (iv : BitVec 2) (d a b : BitVec 4) (k : BitVec 3) (sc : BitVec 4) (acc : List Nat)
    (signed : Bool) (s : State) : Out :=
  vguard (infoR word iv sc (vs [d, a, b] ++ ks [k]))
    (fun x => [if acc.contains (x.V a).tag.toNat then x.need d [(dotTag (x.V a).tag).toNat] else none, x.need a acc, x.same b a,
      x.fits 8]) s fun s =>
    let x := s.st
    s.vwrite d (x.result d k (x.V d).tag 0 fun i _ => dotElem (x.V a).tag signed x.satOn x.rm.plain x.fz
      (x.V a).data.toNat (x.V b).data.toNat (elem (x.V d).data.toNat 32 i) i)

/-- vdot (R121). -/
def execVdot (iv : BitVec 2) (d a b : BitVec 4) (k : BitVec 3) (sc : BitVec 4) (s : State) : Out :=
  dotProduct (Decode.wVdot iv d a b k sc) iv d a b k sc [1, 5, 6, 7, 8] true s

/-- vdot.n (R121): int8 read unsigned. -/
def execVdotN (iv : BitVec 2) (d a b : BitVec 4) (k : BitVec 3) (sc : BitVec 4) (s : State) : Out :=
  dotProduct (Decode.wVdotN iv d a b k sc) iv d a b k sc [1] false s

/-- One element of vcmul (R121): each part exact, then rounded once. -/
def cmulElem (rm : RM) (fz : Bool) (a b : Nat) : Nat × Fl :=
  let re := fun (z : Nat) => Fmt.f32.decode fz (z % 2 ^ 32)
  let im := fun (z : Nat) => Fmt.f32.decode fz (z / 2 ^ 32)
  let p := (im a).mul (im b)
  let (r, e) := Fmt.f32.sumUp rm fz [(re a).mul (re b), (p.1.negate, p.2)]
  let (i, e') := Fmt.f32.sumUp rm fz [(re a).mul (im b), (im a).mul (re b)]
  (r + 2 ^ 32 * i, e ||| e')

/-- vcmul (R121). -/
def execVcmul (iv : BitVec 2) (d a b : BitVec 4) (k : BitVec 3) (sc : BitVec 4) (s : State) : Out :=
  vguard (infoR (Decode.wVcmul iv d a b k sc) iv sc (vs [d, a, b] ++ ks [k]))
    (fun x => [x.need a [10], x.same b a, x.fits (x.halfOf a)]) s fun s =>
    let x := s.st
    s.vwrite d (x.lanes d a k (x.lane b a) fun p q _ => cmulElem x.rm.plain x.fz p q)

/-! ## Major 0x2A -/

/-- The larger magnitude of a block so far and a value, as fp32 bits; a NaN stays (R122). -/
def blockMax (m : Nat) (v : Num) : Nat :=
  if Fmt.f32.decode false m == .nan || v == .nan then Fmt.f32.nanBits
  else if (Fmt.f32.decode false m).lt v.abs then (Fmt.f32.round .ne false 0 v.abs).1 else m

/-- vbmax (R122): the largest magnitude of each block of 32 elements, as fp32. -/
def execVbmax (iv : BitVec 2) (d a : BitVec 4) (k : BitVec 3) (sc : BitVec 4) (s : State) : Out :=
  vguard (infoR (Decode.wVbmax iv d a k sc) iv sc (vs [d, a] ++ ks [k]))
    (fun x => [x.need a tF, x.fits 8]) s fun s =>
    let x := s.st
    let g := (Fmt.ofTag (x.V a).tag).getD .f32
    let block := fun b => (x.pick a k ((List.range 32).map (32 * b + ·) |>.filter (· < x.elems))).foldl
      (fun m e => blockMax m (g.decode x.fz e)) 0
    let (r, _) := mapUnits 32 (fun _ => true) 0 (fun b _ => (block b, 0)) 8 0 0
    s.vwrite d (mkVReg r 32 9 0, 0)

/-- vscale (R122): the scale bytes of vd from fp32 magnitudes or from int8 bytes. Of a negative Va[b], m is the absolute
value, since the m of R50 is a magnitude (log 41). -/
def execVscale (iv : BitVec 2) (d a sc : BitVec 4) (s : State) : Out :=
  vguard (infoR (Decode.wVscale iv d a sc) iv sc (vs [d, a]))
    (fun x => [x.need d [13, 14], x.need a [1, 9], x.fits (Nat.max (x.halfOf a) 2)]) s fun s =>
    let x := s.st
    let data := (x.V a).data.toNat
    let (r, _) := buildBytes 8 fun b =>
      (if (x.V a).tag = 9 then scaleByte ((x.V d).tag == 13) (Fmt.f32.decode x.fz (elem data 32 b)).abs else elem data 8 b, 0)
    s.vwrite d ({ x.V d with scale := BitVec.ofNat 64 r }, 0)

/-- vquant (R122, R50): each active element under the scale byte of its block. -/
def execVquant (iv : BitVec 2) (d a : BitVec 4) (k : BitVec 3) (sc : BitVec 4) (s : State) : Out :=
  vguard { infoR (Decode.wVquant iv d a k sc) iv sc (vs [d, a] ++ ks [k]) with conv := true }
    (fun x => [x.need d [13, 14], x.need a tF, x.fits (x.halfOf a)]) s fun s =>
    let x := s.st
    let (vd, va) := (x.V d, x.V a)
    let g := (Fmt.ofTag va.tag).getD .f32
    let t : BitVec 4 := if vd.tag = 13 then 5 else 1
    let r := x.result d k vd.tag vd.scale fun i j =>
      quantise (vd.tag == 13) (g.decode x.fz (elem va.data.toNat (widthOf va.tag) i))
        (vd.scale.toNat / 2 ^ (8 * (i / 32)) % 256) (x.rm.into t) (x.rnd j)
    (s.modSt (·.drew (x.rm.draws t (countActive (x.active k) x.elems 0)))).vwrite d r

end Sys2Proof.Machine
end

