-- ==== Sys2Proof/Machine/VecMem.lean ====
section
/-!
DEFINITION. Vector loads and stores (06 R117 to R119), gather and scatter (06 R120): majors 0x27 and 0x28.
-/
namespace Sys2Proof.Machine

/-! ## Lists of plain accesses (R119) -/

/-- Every load of a list is checked before any has an effect: the first failure traps. -/
def State.checkLoads (s : State) (x : Strand) (size pol : Nat) : List Word → Res Unit
  | [] => .ok () s
  | a :: t => (s.loadPlain x .load a size pol).bind fun _ _ => State.checkLoads s x size pol t

/-- The loads of a list, in order. -/
def State.performLoads (s : State) (x : Strand) (size pol : Nat) : List Word → Res (List Nat)
  | [] => .ok [] s
  | a :: t => (s.loadPlain x .load a size pol).bind fun v s =>
    (State.performLoads s x size pol t).bind fun l s => .ok (v :: l) s

/-- Every load of a list, all or nothing. -/
def State.loadList (s : State) (x : Strand) (size pol : Nat) (l : List Word) : Res (List Nat) :=
  (s.checkLoads x size pol l).bind fun _ _ => s.performLoads x size pol l

/-- Every store of a list is checked before any has an effect, each lock where it is read (R209); the targets, in order (R119,
R370). -/
def State.checkStores (s : State) (x : Strand) (size : Nat) : List Word → Res (List Target)
  | [] => .ok [] s
  | a :: t => (s.checkStore x a size).bind fun g s =>
    match spaceOf g.addr with
    | .fabric =>
      match s.reflectCheck x.pid g.addr size with
      | some c => .trap s c a
      | none => (State.checkStores s x size t).bind fun l s => .ok (g :: l) s
    | _ => (State.checkStores s x size t).bind fun l s => .ok (g :: l) s

/-- One checked store of a list: into the store buffer, the scratchpad, or onto the fabric. -/
def State.storeTarget (s : State) (x : Strand) (size : Nat) (p : Target × Word × Nat) : State :=
  match spaceOf p.1.addr with
  | .fabric => s.reflect x.sid.toNat x.pid p.1.addr (natBytes p.2.2 size) none none
  | _ => s.storeAt x p.2.1 p.1 size p.2.2

/-- Every store of a list in order, all or nothing; retried while the fabric has no room (R376) or a copy job has
still to read what it would write (R271). -/
def storeList (s : State) (size : Nat) (l : List (Word × Nat)) : Out :=
  (s.checkStores s.st size (l.map (·.1))).out fun ts s =>
    if ts.any (fun g => spaceOf g.addr == .fabric) && s.reflectFull s.st.pid || ts.any (s.scratchBusy · size) then .next s.retry
    else .next ((ts.zip l).foldl (fun s' p => s'.storeTarget s.st size p) s).retire

/-! ## Addresses (R117, R120) -/

/-- Address of unit i under a layout: element size in bytes, byte units for int4 (R117). -/
def Strand.unitAddr (x : Strand) (b : BitVec 5) (l : BitVec 2) (t : BitVec 4) (i : Nat) : Word :=
  let size := widthOf t / 8
  let e := if t = 12 then 2 * i else i
  let (r, c) := (BitVec.ofNat 64 (e / x.cols), e % x.cols)
  let stride := x.G (b + 1)
  match l.toNat with
  | 0 => lea (x.G b) (BitVec.ofNat 64 (i * size))
  | 1 => lea (x.G b) (r * stride + BitVec.ofNat 64 (if t = 12 then c / 2 else c * size))
  | _ => lea (x.G b) (BitVec.ofNat 64 c * stride + r * BitVec.ofNat 64 size)

/-- An int4 row must hold whole bytes under layout 01 (R117). -/
def Strand.evenCols (x : Strand) (l : BitVec 2) (t : BitVec 4) : Check :=
  if t = 12 ∧ l = 1 ∧ x.cols % 2 = 1 then some (0x21, x.shapeVal 1 0) else none

/-- Address registers of a layout. -/
def layoutRegs (b : BitVec 5) (l : BitVec 2) : List RegName := if l = 0 then gs [b] else gs [b, b + 1]

/-- The active units of n. -/
def Strand.activeUnits (x : Strand) (k : BitVec 3) (n : Nat) : List Nat := (List.range n).filter (x.active k)

/-- The register whose active units take a list of values, in order; the others keep their bits (R102). -/
def Strand.loadResult (x : Strand) (d : BitVec 4) (k : BitVec 3) (t : BitVec 4) (scale : Word) (l : List Nat) : VReg :=
  (x.result d k t scale fun _ j => (l.getD j 0, 0)).1

/-! ## The instructions -/

/-- vld (R117 to R119). -/
def execVld (iv : BitVec 2) (d : BitVec 4) (b : BitVec 5) (t : BitVec 4) (k : BitVec 3) (l : BitVec 2) (sc : BitVec 4) (s : State) :
    Out :=
  let inf := (infoLL (Decode.wVld iv d b t k l sc) iv sc (vs [d] ++ layoutRegs b l ++ ks [k])).need (Wf.vldLayout t b l)
  vguard inf (fun x => [x.fits (Wf.tagHalf t), x.evenCols l t]) s fun s =>
    let x := s.st
    (s.loadList x (widthOf t / 8) s.policy ((x.activeUnits k (unitsOf t x.elems)).map (x.unitAddr b l t))).out fun vals s =>
      .next (s.retireLL inf (vs [d]) [.v d (x.loadResult d k t (if isB t then 0x7F7F7F7F7F7F7F7F else 0) vals)])

/-- The tags whose elements fit a layout of vst (R117): any, 1 byte, 2 bytes. -/
def layoutTags (l : BitVec 2) : List Nat := if l = 2 then [0, 1, 5, 6, 11, 13, 14] else if l = 3 then [2, 7, 8] else tAny

/-- vst (R117 to R119). -/
def execVst (iv : BitVec 2) (d : BitVec 4) (b : BitVec 5) (k : BitVec 3) (l : BitVec 2) (sc : BitVec 4) (s : State) : Out :=
  vguard ((infoR (Decode.wVst iv d b k l sc) iv sc (vs [d] ++ layoutRegs b l ++ ks [k])).need (Wf.vstLayout b l))
    (fun x => [x.need d (layoutTags l), x.fits (x.halfOf d), x.evenCols l (x.V d).tag]) s fun s =>
    let x := s.st
    let t := (x.V d).tag
    storeList s (widthOf t / 8) ((x.activeUnits k (unitsOf t x.elems)).map fun i =>
      (x.unitAddr b l t i, elem (x.V d).data.toNat (widthOf t) i))

/-- Address of element i of a gather or scatter (R120). -/
def Strand.indexAddr (x : Strand) (b : BitVec 5) (v : BitVec 4) (l : BitVec 2) (i : Nat) : Word :=
  let w := widthOf (x.V v).tag
  lea (x.G b) (BitVec.ofInt 64 (asInt true w (elem (x.V v).data.toNat w i)) <<< l.toNat)

/-- The checks of a gather or scatter (R120). -/
def indexChecks (d v : BitVec 4) (x : Strand) : List Check :=
  [x.need d tNo4, x.need v [3, 4], x.fits (Nat.max (x.halfOf d) (x.halfOf v))]

/-- vgather (R120). -/
def execVgather (iv : BitVec 2) (d : BitVec 4) (b : BitVec 5) (i : BitVec 4) (k : BitVec 3) (l : BitVec 2) (sc : BitVec 4)
    (s : State) : Out :=
  let inf := infoLL (Decode.wVgather iv d b i k l sc) iv sc (vs [d] ++ gs [b] ++ vs [i] ++ ks [k])
  vguard inf (indexChecks d i) s fun s =>
    let x := s.st
    let t := (x.V d).tag
    (s.loadList x (widthOf t / 8) s.policy ((x.activeUnits k x.elems).map (x.indexAddr b i l))).out fun vals s =>
      .next (s.retireLL inf (vs [d]) [.v d (x.loadResult d k t (x.V d).scale vals)])

/-- vscatter (R120). -/
def execVscatter (iv : BitVec 2) (d : BitVec 4) (b : BitVec 5) (i : BitVec 4) (k : BitVec 3) (l : BitVec 2) (sc : BitVec 4)
    (s : State) : Out :=
  vguard (infoR (Decode.wVscatter iv d b i k l sc) iv sc (vs [d] ++ gs [b] ++ vs [i] ++ ks [k])) (indexChecks d i) s fun s =>
    let x := s.st
    let w := widthOf (x.V d).tag
    storeList s (w / 8) ((x.activeUnits k x.elems).map fun j =>
      (x.indexAddr b i l j, elem (x.V d).data.toNat w j))

end Sys2Proof.Machine
end

