-- ==== Sys2Proof/Machine/VecSelect.lean ====
section
/-!
DEFINITION. Vector compares (06 R107) and selection and permutation (06 R108): majors 0x21 and 0x22.
-/
namespace Sys2Proof.Machine

/-! ## Major 0x21 -/

/-- The order of two elements as a compare sees it: unordered, or less, equal, greater. -/
inductive Order where
  | unordered | less | equal | greater
  deriving DecidableEq, Repr

/-- The order of two floating-point values: +0 equals −0, a NaN is unordered (R107). -/
def Num.order (x y : Num) : Order :=
  if x == .nan || y == .nan then .unordered else if x.lt y then .less else if x.eq y then .equal else .greater

/-- The order of two integers. -/
def intOrder (x y : Int) : Order := if x < y then .less else if x = y then .equal else .greater

/-- A relation of element bits of format t; c32 is equal if both parts are (R107). -/
def relHolds (t : BitVec 4) (signed fz : Bool) (rel : Order → Bool) (all : Bool) (a b : Nat) : Bool :=
  let f32 := fun p q => rel ((Fmt.f32.decode fz p).order (Fmt.f32.decode fz q))
  if t = 10 then
    let (l, h) := (f32 (a % 2 ^ 32) (b % 2 ^ 32), f32 (a / 2 ^ 32) (b / 2 ^ 32))
    if all then l && h else l || h
  else match Fmt.ofTag t with
    | some f => rel ((f.decode fz a).order (f.decode fz b))
    | none => rel (intOrder (asInt signed (widthOf t) a) (asInt signed (widthOf t) b))

/-- Bits [i, i + n) of a mask: an active one takes p, another keeps its value. -/
def mapMask (act : Nat → Bool) (old : BitVec 256) (p : Nat → Bool) : Nat → Nat → Nat
  | 0, _ => 0
  | n + 1, i => (if (if act i then p i else old.getLsbD i) then 1 else 0) + 2 * mapMask act old p n (i + 1)

/-- A compare into K[d] (R107): bits from n on are cleared. -/
def vcompare (word : BitVec 32) (iv : BitVec 2) (d : BitVec 3) (a b : BitVec 4) (k : BitVec 3) (sc : BitVec 4)
    (acc : List Nat) (signed : Bool) (rel : Order → Bool) (all : Bool) (s : State) : Out :=
  vguard (infoR word iv sc (ks [d] ++ vs [a, b] ++ ks [k]))
    (fun x => [x.need a acc, x.same b a, x.fits (x.halfOf a)]) s fun s =>
    let x := s.st
    let w := widthOf (x.V a).tag
    let m := mapMask (x.active k) (x.K d) (fun i => relHolds (x.V a).tag signed x.fz rel all
      (elem (x.V a).data.toNat w i) (elem (x.V b).data.toNat w i)) x.elems 0
    .next (s.modSt (·.setK d (BitVec.ofNat 256 m))).retire

/-- vcmp.eq (R107). -/
def execVcmpEq (iv : BitVec 2) (d : BitVec 3) (a b : BitVec 4) (k : BitVec 3) (sc : BitVec 4) (s : State) : Out :=
  vcompare (Decode.wVcmpEq iv d a b k sc) iv d a b k sc [1, 2, 3, 4, 5, 6, 7, 8, 9, 10] true (· == .equal) true s

/-- vcmp.ne (R107). -/
def execVcmpNe (iv : BitVec 2) (d : BitVec 3) (a b : BitVec 4) (k : BitVec 3) (sc : BitVec 4) (s : State) : Out :=
  vcompare (Decode.wVcmpNe iv d a b k sc) iv d a b k sc [1, 2, 3, 4, 5, 6, 7, 8, 9, 10] true (· != .equal) false s

/-- vcmp.lt (R107). -/
def execVcmpLt (iv : BitVec 2) (d : BitVec 3) (a b : BitVec 4) (k : BitVec 3) (sc : BitVec 4) (s : State) : Out :=
  vcompare (Decode.wVcmpLt iv d a b k sc) iv d a b k sc [1, 2, 3, 4, 5, 6, 7, 8, 9] true (· == .less) true s

/-- vcmp.lt.n (R107). -/
def execVcmpLtN (iv : BitVec 2) (d : BitVec 3) (a b : BitVec 4) (k : BitVec 3) (sc : BitVec 4) (s : State) : Out :=
  vcompare (Decode.wVcmpLtN iv d a b k sc) iv d a b k sc tI false (· == .less) true s

/-- vcmp.le (R107). -/
def execVcmpLe (iv : BitVec 2) (d : BitVec 3) (a b : BitVec 4) (k : BitVec 3) (sc : BitVec 4) (s : State) : Out :=
  vcompare (Decode.wVcmpLe iv d a b k sc) iv d a b k sc [1, 2, 3, 4, 5, 6, 7, 8, 9] true (fun o => o == .less || o == .equal) true s

/-- vcmp.le.n (R107). -/
def execVcmpLeN (iv : BitVec 2) (d : BitVec 3) (a b : BitVec 4) (k : BitVec 3) (sc : BitVec 4) (s : State) : Out :=
  vcompare (Decode.wVcmpLeN iv d a b k sc) iv d a b k sc tI false (fun o => o == .less || o == .equal) true s

/-- vcmp.unord (R107). -/
def execVcmpUnord (iv : BitVec 2) (d : BitVec 3) (a b : BitVec 4) (k : BitVec 3) (sc : BitVec 4) (s : State) : Out :=
  vcompare (Decode.wVcmpUnord iv d a b k sc) iv d a b k sc [5, 6, 7, 8, 9] true (· == .unordered) true s

/-! ## Major 0x22 -/

/-- A permutation under the mask (R108): unit i of vd takes the element of va at an index, or zero. -/
def vpermute (inf : Info) (checks : Strand → List Check) (d a : BitVec 4) (k : BitVec 3) (src : Strand → Nat → Option Nat)
    (s : State) : Out :=
  vguard inf checks s fun s =>
    let x := s.st
    let w := widthOf (x.V a).tag
    s.vwrite d (x.result d k (x.V a).tag (x.V a).scale fun i _ =>
      (match src x i with
        | some j => elem (x.V a).data.toNat w j
        | none => 0, 0))

/-- vsel (R108): k selects; every element of the shape is written. -/
def execVsel (iv : BitVec 2) (d a b : BitVec 4) (k : BitVec 3) (sc : BitVec 4) (s : State) : Out :=
  vguard (infoR (Decode.wVsel iv d a b k sc) iv sc (vs [d, a, b] ++ ks [k]))
    (fun x => [x.need a tAny, x.same b a, x.fits (x.halfOf a)]) s fun s =>
    let x := s.st
    let w := widthOf (x.V a).tag
    s.vwrite d (x.result d 0 (x.V a).tag (x.V a).scale fun i _ =>
      (elem (if x.active k i then (x.V a).data.toNat else (x.V b).data.toNat) w i, 0))

/-- vperm (R108): the indices are the bytes of an int8 register. -/
def execVperm (iv : BitVec 2) (d a b : BitVec 4) (k : BitVec 3) (sc : BitVec 4) (s : State) : Out :=
  vpermute (infoR (Decode.wVperm iv d a b k sc) iv sc (vs [d, a, b] ++ ks [k]))
    (fun x => [x.need a tNo4, x.need b [1], x.fits (x.halfOf a)]) d a k
    (fun x i => let j := elem (x.V b).data.toNat 8 i; if j < x.elems then some j else none) s

/-- vtrn (R108): the transposed tile in the layout of a columns × rows shape. -/
def execVtrn (iv : BitVec 2) (d a : BitVec 4) (k : BitVec 3) (sc : BitVec 4) (s : State) : Out :=
  vpermute (infoR (Decode.wVtrn iv d a k sc) iv sc (vs [d, a] ++ ks [k])) (fun x => [x.need a tNo4, x.fits (x.halfOf a)]) d a k
    (fun x i => some (i % x.rows * x.cols + i / x.rows)) s

/-- SHAPE_RANGE for a row or column index beyond the shape (R108, R341). -/
def Strand.indexFits (x : Strand) (a n : BitVec 4) (limit : Nat) : Check :=
  if n.toNat < limit then none else some (0x21, x.shapeVal (x.halfOf a) n.toNat)

/-- vrowb (R108). -/
def execVrowb (iv : BitVec 2) (d a n : BitVec 4) (k : BitVec 3) (sc : BitVec 4) (s : State) : Out :=
  vpermute (infoR (Decode.wVrowb iv d a n k sc) iv sc (vs [d, a] ++ ks [k]))
    (fun x => [x.need a tNo4, x.fitsAt (x.halfOf a) n.toNat, x.indexFits a n x.rows]) d a k
    (fun x i => some (n.toNat * x.cols + i % x.cols)) s

/-- vcolb (R108). -/
def execVcolb (iv : BitVec 2) (d a n : BitVec 4) (k : BitVec 3) (sc : BitVec 4) (s : State) : Out :=
  vpermute (infoR (Decode.wVcolb iv d a n k sc) iv sc (vs [d, a] ++ ks [k]))
    (fun x => [x.need a tNo4, x.fitsAt (x.halfOf a) n.toNat, x.indexFits a n x.cols]) d a k
    (fun x i => some (i / x.cols * x.cols + n.toNat)) s

/-- vslide (R108). -/
def execVslide (iv : BitVec 2) (d a n : BitVec 4) (k : BitVec 3) (sc : BitVec 4) (s : State) : Out :=
  vpermute (infoR (Decode.wVslide iv d a n k sc) iv sc (vs [d, a] ++ ks [k]))
    (fun x => [x.need a tNo4, x.fits (x.halfOf a)]) d a k
    (fun x i => if i + n.toNat < x.elems then some (i + n.toNat) else none) s

end Sys2Proof.Machine
end

