-- ==== Sys2Proof/Machine/VecMisc.lean ====
section
/-!
DEFINITION. Random fill and tag access (06 R123) and mask operations (06 R124): majors 0x2B and 0x2C.
-/
namespace Sys2Proof.Machine

/-- vrand (R123): the next outputs of the generator, in increasing index. -/
def execVrand (iv : BitVec 2) (d : BitVec 4) (k : BitVec 3) (sc : BitVec 4) (s : State) : Out :=
  vguard (infoR (Decode.wVrand iv d k sc) iv sc (vs [d] ++ ks [k]))
    (fun x => [x.need d [0, 1, 2, 3, 4, 5, 6, 7, 8, 9, 10, 13, 14], x.fits (x.halfOf d)]) s fun s =>
    let x := s.st
    let r := x.result d k (x.V d).tag (x.V d).scale fun _ j => ((x.output j).toNat, 0)
    (s.modSt (·.drew (countActive (x.active k) x.elems 0))).vwrite d r

/-- vtag.set (R123): the bytes and the scale field of va, under tag T. -/
def execVtagSet (iv : BitVec 2) (d a t sc : BitVec 4) (s : State) : Out :=
  vguard ((infoR (Decode.wVtagSet iv d a t sc) iv sc (vs [d, a])).need (t != 15)) (fun x => [x.need a tAny]) s fun s =>
    s.vwrite d ({ s.V a with tag := t }, 0)

/-- vtag.get (R123): the tag, or the scale field. It does not use k, which must be zero (R61). -/
def execVtagGet (iv : BitVec 2) (d a : BitVec 4) (l : BitVec 1) (k : BitVec 3) (sc : BitVec 4) (s : State) : Out :=
  vguard ((infoR (Decode.wVtagGet iv d a l k sc) iv sc (gs [d.setWidth 5] ++ vs [a])).need (k == 0)) (fun x => [x.need a tAny]) s fun s =>
    .next (s.setG (d.setWidth 5) (if l = 0 then (s.V a).tag.setWidth 64 else (s.V a).scale)).retire

/-! ## Masks -/

/-- K[d] := m, over all 256 bits (R124). -/
def maskWrite (word : BitVec 32) (iv : BitVec 2) (d : BitVec 3) (sc : BitVec 4) (srcs : List (BitVec 3))
    (f : Strand → BitVec 256) (s : State) : Out :=
  guarded (infoR word iv sc (ks (d :: srcs))) s fun s => .next (s.modSt fun x => x.setK d (f x)).retire

/-- kand (R124). -/
def execKand (iv : BitVec 2) (d a b : BitVec 3) (sc : BitVec 4) (s : State) : Out :=
  maskWrite (Decode.wKand iv d a b sc) iv d sc [a, b] (fun x => x.K a &&& x.K b) s

/-- kor (R124). -/
def execKor (iv : BitVec 2) (d a b : BitVec 3) (sc : BitVec 4) (s : State) : Out :=
  maskWrite (Decode.wKor iv d a b sc) iv d sc [a, b] (fun x => x.K a ||| x.K b) s

/-- kxor (R124). -/
def execKxor (iv : BitVec 2) (d a b : BitVec 3) (sc : BitVec 4) (s : State) : Out :=
  maskWrite (Decode.wKxor iv d a b sc) iv d sc [a, b] (fun x => x.K a ^^^ x.K b) s

/-- knot (R124). -/
def execKnot (iv : BitVec 2) (d a : BitVec 3) (sc : BitVec 4) (s : State) : Out :=
  maskWrite (Decode.wKnot iv d a sc) iv d sc [a] (fun x => ~~~x.K a) s

/-- kmov (R124). -/
def execKmov (iv : BitVec 2) (d a : BitVec 3) (sc : BitVec 4) (s : State) : Out :=
  maskWrite (Decode.wKmov iv d a sc) iv d sc [a] (fun x => x.K a) s

/-- kset (R124): bits 0 to count − 1, the count held minus one in two nibbles. -/
def execKset (iv : BitVec 2) (d : BitVec 3) (h l sc : BitVec 4) (s : State) : Out :=
  maskWrite (Decode.wKset iv d h l sc) iv d sc [] (fun _ => BitVec.ofNat 256 (2 ^ (16 * h.toNat + l.toNat + 1) - 1)) s

/-- Bits i < n of the current shape, a mask having 256. -/
def Strand.shapeBits (x : Strand) (a : BitVec 3) : List Bool := (List.range x.elems).map (x.K a).getLsbD

/-- The facts of a count over the bits of the shape; vb is not used and must be zero (R61, R124). -/
def countInfo (word : BitVec 32) (iv : BitVec 2) (d : BitVec 4) (a : BitVec 3) (b sc : BitVec 4) : Info :=
  (infoR word iv sc (gs [d.setWidth 5] ++ ks [a])).need (b == 0)

/-- A count over the bits of the shape into G[d] (R124). -/
def maskCount (inf : Info) (d : BitVec 4) (a : BitVec 3) (f : List Bool → Nat) (s : State) : Out :=
  guarded inf s fun s =>
    .next (s.setG (d.setWidth 5) (BitVec.ofNat 64 (f (s.st.shapeBits a)))).retire

/-- kpop (R124). -/
def execKpop (iv : BitVec 2) (d : BitVec 4) (a : BitVec 3) (sc : BitVec 4) (s : State) : Out :=
  maskCount (infoR (Decode.wKpop iv d a sc) iv sc (gs [d.setWidth 5] ++ ks [a])) d a (fun l => (l.filter id).length) s

/-- kany (R124). -/
def execKany (iv : BitVec 2) (d : BitVec 4) (a : BitVec 3) (b sc : BitVec 4) (s : State) : Out :=
  maskCount (countInfo (Decode.wKany iv d a b sc) iv d a b sc) d a (fun l => if l.any id then 1 else 0) s

/-- kall (R124). -/
def execKall (iv : BitVec 2) (d : BitVec 4) (a : BitVec 3) (b sc : BitVec 4) (s : State) : Out :=
  maskCount (countInfo (Decode.wKall iv d a b sc) iv d a b sc) d a (fun l => if l.all id then 1 else 0) s

end Sys2Proof.Machine
end

