-- ==== Sys2Proof/Machine/Dispatch.lean ====
section
/-!
DEFINITION. Dispatch: one arm per instruction and event, each one call of its meaning.
-/
namespace Sys2Proof.Machine

/-- The effect of an instruction issued by the strand in issue, or of an event. -/
def exec (i : Instr) (s : State) : Host.Outcome State Fault Refusal :=
  match i with
  | .add iv d a b sc => Sys2Proof.Machine.execAdd iv d a b sc s
  | .sub iv d a b sc => Sys2Proof.Machine.execSub iv d a b sc s
  | .and iv d a b sc => Sys2Proof.Machine.execAnd iv d a b sc s
  | .or iv d a b sc => Sys2Proof.Machine.execOr iv d a b sc s
  | .xor iv d a b sc => Sys2Proof.Machine.execXor iv d a b sc s
  | .andn iv d a b sc => Sys2Proof.Machine.execAndn iv d a b sc s
  | .orn iv d a b sc => Sys2Proof.Machine.execOrn iv d a b sc s
  | .shl iv d a b sc => Sys2Proof.Machine.execShl iv d a b sc s
  | .shr iv d a b sc => Sys2Proof.Machine.execShr iv d a b sc s
  | .sra iv d a b sc => Sys2Proof.Machine.execSra iv d a b sc s
  | .rot iv d a b sc => Sys2Proof.Machine.execRot iv d a b sc s
  | .min iv d a b sc => Sys2Proof.Machine.execMin iv d a b sc s
  | .max iv d a b sc => Sys2Proof.Machine.execMax iv d a b sc s
  | .minn iv d a b sc => Sys2Proof.Machine.execMinn iv d a b sc s
  | .maxn iv d a b sc => Sys2Proof.Machine.execMaxn iv d a b sc s
  | .mul iv d a b sc => Sys2Proof.Machine.execMul iv d a b sc s
  | .mulh iv d a b sc => Sys2Proof.Machine.execMulh iv d a b sc s
  | .mulhn iv d a b sc => Sys2Proof.Machine.execMulhn iv d a b sc s
  | .div iv d a b sc => Sys2Proof.Machine.execDiv iv d a b sc s
  | .divn iv d a b sc => Sys2Proof.Machine.execDivn iv d a b sc s
  | .rem iv d a b sc => Sys2Proof.Machine.execRem iv d a b sc s
  | .remn iv d a b sc => Sys2Proof.Machine.execRemn iv d a b sc s
  | .clz iv d a sc => Sys2Proof.Machine.execClz iv d a sc s
  | .ctz iv d a sc => Sys2Proof.Machine.execCtz iv d a sc s
  | .popc iv d a sc => Sys2Proof.Machine.execPopc iv d a sc s
  | .bswap iv d a sc => Sys2Proof.Machine.execBswap iv d a sc s
  | .bfx iv d a b sc => Sys2Proof.Machine.execBfx iv d a b sc s
  | .bfi iv d a b sc => Sys2Proof.Machine.execBfi iv d a b sc s
  | .sextB iv d a sc => Sys2Proof.Machine.execSextB iv d a sc s
  | .sextH iv d a sc => Sys2Proof.Machine.execSextH iv d a sc s
  | .sextW iv d a sc => Sys2Proof.Machine.execSextW iv d a sc s
  | .zextB iv d a sc => Sys2Proof.Machine.execZextB iv d a sc s
  | .zextH iv d a sc => Sys2Proof.Machine.execZextH iv d a sc s
  | .zextW iv d a sc => Sys2Proof.Machine.execZextW iv d a sc s
  | .cmpEq iv d a b sc => Sys2Proof.Machine.execCmpEq iv d a b sc s
  | .cmpNe iv d a b sc => Sys2Proof.Machine.execCmpNe iv d a b sc s
  | .cmpLt iv d a b sc => Sys2Proof.Machine.execCmpLt iv d a b sc s
  | .cmpLtn iv d a b sc => Sys2Proof.Machine.execCmpLtn iv d a b sc s
  | .cmpLe iv d a b sc => Sys2Proof.Machine.execCmpLe iv d a b sc s
  | .cmpLen iv d a b sc => Sys2Proof.Machine.execCmpLen iv d a b sc s
  | .selNz iv d a b sc => Sys2Proof.Machine.execSelNz iv d a b sc s
  | .addi iv d a ix sc => Sys2Proof.Machine.execAddi iv d a ix sc s
  | .andi iv d a ix sc => Sys2Proof.Machine.execAndi iv d a ix sc s
  | .ori iv d a ix sc => Sys2Proof.Machine.execOri iv d a ix sc s
  | .xori iv d a ix sc => Sys2Proof.Machine.execXori iv d a ix sc s
  | .muli iv d a ix sc => Sys2Proof.Machine.execMuli iv d a ix sc s
  | .shli iv d a n sc => Sys2Proof.Machine.execShli iv d a n sc s
  | .shri iv d a n sc => Sys2Proof.Machine.execShri iv d a n sc s
  | .srai iv d a n sc => Sys2Proof.Machine.execSrai iv d a n sc s
  | .roti iv d a n sc => Sys2Proof.Machine.execRoti iv d a n sc s
  | .cmpi iv d a c ix sc => Sys2Proof.Machine.execCmpi iv d a c ix sc s
  | .ldLit iv d ix sc => Sys2Proof.Machine.execLdLit iv d ix sc s
  | .movi iv d ix => Sys2Proof.Machine.execMovi iv d ix s
  | .lea iv d a b sc => Sys2Proof.Machine.execLea iv d a b sc s
  | .xkeySet iv d a b sc => Sys2Proof.Machine.execXkeySet iv d a b sc s
  | .xkeyGet iv d a sc => Sys2Proof.Machine.execXkeyGet iv d a sc s
  | .ld iv d b o z sc => Sys2Proof.Machine.execLd iv d b o z sc s
  | .st iv d b o z sc => Sys2Proof.Machine.execSt iv d b o z sc s
  | .ldX iv d b ix h z sc => Sys2Proof.Machine.execLdX iv d b ix h z sc s
  | .stX iv d b ix h z sc => Sys2Proof.Machine.execStX iv d b ix h z sc s
  | .ldS iv d b c o z sc => Sys2Proof.Machine.execLdS iv d b c o z sc s
  | .stS iv d b c o z sc => Sys2Proof.Machine.execStS iv d b c o z sc s
  | .amoAdd iv d a b z sc => Sys2Proof.Machine.execAmoAdd iv d a b z sc s
  | .amoAnd iv d a b z sc => Sys2Proof.Machine.execAmoAnd iv d a b z sc s
  | .amoOr iv d a b z sc => Sys2Proof.Machine.execAmoOr iv d a b z sc s
  | .amoXor iv d a b z sc => Sys2Proof.Machine.execAmoXor iv d a b z sc s
  | .amoMin iv d a b z sc => Sys2Proof.Machine.execAmoMin iv d a b z sc s
  | .amoMax iv d a b z sc => Sys2Proof.Machine.execAmoMax iv d a b z sc s
  | .amoMinn iv d a b z sc => Sys2Proof.Machine.execAmoMinn iv d a b z sc s
  | .amoMaxn iv d a b z sc => Sys2Proof.Machine.execAmoMaxn iv d a b z sc s
  | .amoSwap iv d a b z sc => Sys2Proof.Machine.execAmoSwap iv d a b z sc s
  | .amoFadd iv d a b sc => Sys2Proof.Machine.execAmoFadd iv d a b sc s
  | .cas iv d a b z sc => Sys2Proof.Machine.execCas iv d a b z sc s
  | .waita iv d a b sc => Sys2Proof.Machine.execWaita iv d a b sc s
  | .wake iv a sc => Sys2Proof.Machine.execWake iv a sc s
  | .phase iv c sc => Sys2Proof.Machine.execPhase iv c sc s
  | .fenceX iv sc => Sys2Proof.Machine.execFenceX iv sc s
  | .fenceR iv a sc => Sys2Proof.Machine.execFenceR iv a sc s
  | .fenceA iv a sc => Sys2Proof.Machine.execFenceA iv a sc s
  | .qfence iv a sc => Sys2Proof.Machine.execQfence iv a sc s
  | .ifence iv sc => Sys2Proof.Machine.execIfence iv sc s
  | .tagSet iv a b sc => Sys2Proof.Machine.execTagSet iv a b sc s
  | .tagGet iv d a sc => Sys2Proof.Machine.execTagGet iv d a sc s
  | .xreq iv d a b sc => Sys2Proof.Machine.execXreq iv d a b sc s
  | .xrel iv a sc => Sys2Proof.Machine.execXrel iv a sc s
  | .stF iv d a b z sc => Sys2Proof.Machine.execStF iv d a b z sc s
  | .bc iv a c o => Sys2Proof.Machine.execBc iv a c o s
  | .dbnz iv a o => Sys2Proof.Machine.execDbnz iv a o s
  | .b iv o => Sys2Proof.Machine.execB iv o s
  | .call iv o => Sys2Proof.Machine.execCall iv o s
  | .jr iv a sc => Sys2Proof.Machine.execJr iv a sc s
  | .jrl iv a sc => Sys2Proof.Machine.execJrl iv a sc s
  | .ret iv sc => Sys2Proof.Machine.execRet iv sc s
  | .vadd iv d a b k sc => Sys2Proof.Machine.execVadd iv d a b k sc s
  | .vaddN iv d a b k sc => Sys2Proof.Machine.execVaddN iv d a b k sc s
  | .vsub iv d a b k sc => Sys2Proof.Machine.execVsub iv d a b k sc s
  | .vsubN iv d a b k sc => Sys2Proof.Machine.execVsubN iv d a b k sc s
  | .vmul iv d a b k sc => Sys2Proof.Machine.execVmul iv d a b k sc s
  | .vmulN iv d a b k sc => Sys2Proof.Machine.execVmulN iv d a b k sc s
  | .vfma iv d a b k sc => Sys2Proof.Machine.execVfma iv d a b k sc s
  | .vfms iv d a b k sc => Sys2Proof.Machine.execVfms iv d a b k sc s
  | .vmin iv d a b k sc => Sys2Proof.Machine.execVmin iv d a b k sc s
  | .vminN iv d a b k sc => Sys2Proof.Machine.execVminN iv d a b k sc s
  | .vmax iv d a b k sc => Sys2Proof.Machine.execVmax iv d a b k sc s
  | .vmaxN iv d a b k sc => Sys2Proof.Machine.execVmaxN iv d a b k sc s
  | .vabs iv d a k sc => Sys2Proof.Machine.execVabs iv d a k sc s
  | .vneg iv d a k sc => Sys2Proof.Machine.execVneg iv d a k sc s
  | .vand iv d a b k sc => Sys2Proof.Machine.execVand iv d a b k sc s
  | .vor iv d a b k sc => Sys2Proof.Machine.execVor iv d a b k sc s
  | .vxor iv d a b k sc => Sys2Proof.Machine.execVxor iv d a b k sc s
  | .vandn iv d a b k sc => Sys2Proof.Machine.execVandn iv d a b k sc s
  | .vshl iv d a b k sc => Sys2Proof.Machine.execVshl iv d a b k sc s
  | .vshr iv d a b k sc => Sys2Proof.Machine.execVshr iv d a b k sc s
  | .vsra iv d a b k sc => Sys2Proof.Machine.execVsra iv d a b k sc s
  | .vavg iv d a b k sc => Sys2Proof.Machine.execVavg iv d a b k sc s
  | .vavgN iv d a b k sc => Sys2Proof.Machine.execVavgN iv d a b k sc s
  | .vcmpEq iv d a b k sc => Sys2Proof.Machine.execVcmpEq iv d a b k sc s
  | .vcmpNe iv d a b k sc => Sys2Proof.Machine.execVcmpNe iv d a b k sc s
  | .vcmpLt iv d a b k sc => Sys2Proof.Machine.execVcmpLt iv d a b k sc s
  | .vcmpLtN iv d a b k sc => Sys2Proof.Machine.execVcmpLtN iv d a b k sc s
  | .vcmpLe iv d a b k sc => Sys2Proof.Machine.execVcmpLe iv d a b k sc s
  | .vcmpLeN iv d a b k sc => Sys2Proof.Machine.execVcmpLeN iv d a b k sc s
  | .vcmpUnord iv d a b k sc => Sys2Proof.Machine.execVcmpUnord iv d a b k sc s
  | .vsel iv d a b k sc => Sys2Proof.Machine.execVsel iv d a b k sc s
  | .vperm iv d a b k sc => Sys2Proof.Machine.execVperm iv d a b k sc s
  | .vtrn iv d a k sc => Sys2Proof.Machine.execVtrn iv d a k sc s
  | .vrowb iv d a n k sc => Sys2Proof.Machine.execVrowb iv d a n k sc s
  | .vcolb iv d a n k sc => Sys2Proof.Machine.execVcolb iv d a n k sc s
  | .vslide iv d a n k sc => Sys2Proof.Machine.execVslide iv d a n k sc s
  | .vredAddAll iv a g k sc => Sys2Proof.Machine.execVredAddAll iv a g k sc s
  | .vredMinAll iv a g k sc => Sys2Proof.Machine.execVredMinAll iv a g k sc s
  | .vredMaxAll iv a g k sc => Sys2Proof.Machine.execVredMaxAll iv a g k sc s
  | .vredAndAll iv a g k sc => Sys2Proof.Machine.execVredAndAll iv a g k sc s
  | .vredOrAll iv a g k sc => Sys2Proof.Machine.execVredOrAll iv a g k sc s
  | .vredAmaxAll iv a g k sc => Sys2Proof.Machine.execVredAmaxAll iv a g k sc s
  | .vredMinNAll iv a g k sc => Sys2Proof.Machine.execVredMinNAll iv a g k sc s
  | .vredMaxNAll iv a g k sc => Sys2Proof.Machine.execVredMaxNAll iv a g k sc s
  | .vredAddRow iv d a k sc => Sys2Proof.Machine.execVredAddRow iv d a k sc s
  | .vredMinRow iv d a k sc => Sys2Proof.Machine.execVredMinRow iv d a k sc s
  | .vredMaxRow iv d a k sc => Sys2Proof.Machine.execVredMaxRow iv d a k sc s
  | .vredAndRow iv d a k sc => Sys2Proof.Machine.execVredAndRow iv d a k sc s
  | .vredOrRow iv d a k sc => Sys2Proof.Machine.execVredOrRow iv d a k sc s
  | .vredAmaxRow iv d a k sc => Sys2Proof.Machine.execVredAmaxRow iv d a k sc s
  | .vredMinNRow iv d a k sc => Sys2Proof.Machine.execVredMinNRow iv d a k sc s
  | .vredMaxNRow iv d a k sc => Sys2Proof.Machine.execVredMaxNRow iv d a k sc s
  | .vredAddCol iv d a k sc => Sys2Proof.Machine.execVredAddCol iv d a k sc s
  | .vredMinCol iv d a k sc => Sys2Proof.Machine.execVredMinCol iv d a k sc s
  | .vredMaxCol iv d a k sc => Sys2Proof.Machine.execVredMaxCol iv d a k sc s
  | .vredAndCol iv d a k sc => Sys2Proof.Machine.execVredAndCol iv d a k sc s
  | .vredOrCol iv d a k sc => Sys2Proof.Machine.execVredOrCol iv d a k sc s
  | .vredAmaxCol iv d a k sc => Sys2Proof.Machine.execVredAmaxCol iv d a k sc s
  | .vredMinNCol iv d a k sc => Sys2Proof.Machine.execVredMinNCol iv d a k sc s
  | .vredMaxNCol iv d a k sc => Sys2Proof.Machine.execVredMaxNCol iv d a k sc s
  | .vcvt iv d a t k sc => Sys2Proof.Machine.execVcvt iv d a t k sc s
  | .vcvtN iv d a t k sc => Sys2Proof.Machine.execVcvtN iv d a t k sc s
  | .vpack iv d a t sc => Sys2Proof.Machine.execVpack iv d a t sc s
  | .vunpack iv d a sc => Sys2Proof.Machine.execVunpack iv d a sc s
  | .vsat iv d a t k sc => Sys2Proof.Machine.execVsat iv d a t k sc s
  | .vsatN iv d a t k sc => Sys2Proof.Machine.execVsatN iv d a t k sc s
  | .vrcp iv d a k sc => Sys2Proof.Machine.execVrcp iv d a k sc s
  | .vrsq iv d a k sc => Sys2Proof.Machine.execVrsq iv d a k sc s
  | .vsqrt iv d a k sc => Sys2Proof.Machine.execVsqrt iv d a k sc s
  | .vexp2 iv d a k sc => Sys2Proof.Machine.execVexp2 iv d a k sc s
  | .vlog2 iv d a k sc => Sys2Proof.Machine.execVlog2 iv d a k sc s
  | .vsinpi iv d a k sc => Sys2Proof.Machine.execVsinpi iv d a k sc s
  | .vcospi iv d a k sc => Sys2Proof.Machine.execVcospi iv d a k sc s
  | .vtanh iv d a k sc => Sys2Proof.Machine.execVtanh iv d a k sc s
  | .vdiv iv d a b k sc => Sys2Proof.Machine.execVdiv iv d a b k sc s
  | .vadds iv d a g k sc => Sys2Proof.Machine.execVadds iv d a g k sc s
  | .vaddsN iv d a g k sc => Sys2Proof.Machine.execVaddsN iv d a g k sc s
  | .vmuls iv d a g k sc => Sys2Proof.Machine.execVmuls iv d a g k sc s
  | .vmulsN iv d a g k sc => Sys2Proof.Machine.execVmulsN iv d a g k sc s
  | .vfmas iv d a g k sc => Sys2Proof.Machine.execVfmas iv d a g k sc s
  | .vbcast iv d g k sc => Sys2Proof.Machine.execVbcast iv d g k sc s
  | .vget iv a g k sc => Sys2Proof.Machine.execVget iv a g k sc s
  | .vgetN iv a g k sc => Sys2Proof.Machine.execVgetN iv a g k sc s
  | .vset iv d g k sc => Sys2Proof.Machine.execVset iv d g k sc s
  | .vld iv d b t k l sc => Sys2Proof.Machine.execVld iv d b t k l sc s
  | .vst iv d b k l sc => Sys2Proof.Machine.execVst iv d b k l sc s
  | .vgather iv d b ix k l sc => Sys2Proof.Machine.execVgather iv d b ix k l sc s
  | .vscatter iv d b ix k l sc => Sys2Proof.Machine.execVscatter iv d b ix k l sc s
  | .vdot iv d a b k sc => Sys2Proof.Machine.execVdot iv d a b k sc s
  | .vdotN iv d a b k sc => Sys2Proof.Machine.execVdotN iv d a b k sc s
  | .vcmul iv d a b k sc => Sys2Proof.Machine.execVcmul iv d a b k sc s
  | .vbmax iv d a k sc => Sys2Proof.Machine.execVbmax iv d a k sc s
  | .vscale iv d a sc => Sys2Proof.Machine.execVscale iv d a sc s
  | .vquant iv d a k sc => Sys2Proof.Machine.execVquant iv d a k sc s
  | .vrand iv d k sc => Sys2Proof.Machine.execVrand iv d k sc s
  | .vtagSet iv d a t sc => Sys2Proof.Machine.execVtagSet iv d a t sc s
  | .vtagGet iv d a l k sc => Sys2Proof.Machine.execVtagGet iv d a l k sc s
  | .kand iv d a b sc => Sys2Proof.Machine.execKand iv d a b sc s
  | .kor iv d a b sc => Sys2Proof.Machine.execKor iv d a b sc s
  | .kxor iv d a b sc => Sys2Proof.Machine.execKxor iv d a b sc s
  | .knot iv d a sc => Sys2Proof.Machine.execKnot iv d a sc s
  | .kmov iv d a sc => Sys2Proof.Machine.execKmov iv d a sc s
  | .kpop iv d a sc => Sys2Proof.Machine.execKpop iv d a sc s
  | .kany iv d a b sc => Sys2Proof.Machine.execKany iv d a b sc s
  | .kall iv d a b sc => Sys2Proof.Machine.execKall iv d a b sc s
  | .kset iv d h l sc => Sys2Proof.Machine.execKset iv d h l sc s
  | .cp iv d a b q sc => Sys2Proof.Machine.execCp iv d a b q sc s
  | .mmBf16 iv d a q sc => Sys2Proof.Machine.execMmBf16 iv d a q sc s
  | .mmF16 iv d a q sc => Sys2Proof.Machine.execMmF16 iv d a q sc s
  | .mmE4m3 iv d a q sc => Sys2Proof.Machine.execMmE4m3 iv d a q sc s
  | .mmE5m2 iv d a q sc => Sys2Proof.Machine.execMmE5m2 iv d a q sc s
  | .mmI8 iv d a q sc => Sys2Proof.Machine.execMmI8 iv d a q sc s
  | .mmTern iv d a q sc => Sys2Proof.Machine.execMmTern iv d a q sc s
  | .mmF32 iv d a q sc => Sys2Proof.Machine.execMmF32 iv d a q sc s
  | .mmC32 iv d a q sc => Sys2Proof.Machine.execMmC32 iv d a q sc s
  | .mmU iv d a q sc => Sys2Proof.Machine.execMmU iv d a q sc s
  | .accClr iv d z t q sc => Sys2Proof.Machine.execAccClr iv d z t q sc s
  | .accRd iv d z r sc => Sys2Proof.Machine.execAccRd iv d z r sc s
  | .accRdC32 iv d z r sc => Sys2Proof.Machine.execAccRdC32 iv d z r sc s
  | .accWr iv d z r sc => Sys2Proof.Machine.execAccWr iv d z r sc s
  | .accWrC32 iv d z r sc => Sys2Proof.Machine.execAccWrC32 iv d z r sc s
  | .accSt iv d a z q sc => Sys2Proof.Machine.execAccSt iv d a z q sc s
  | .accStC32 iv d a z q sc => Sys2Proof.Machine.execAccStC32 iv d a z q sc s
  | .await iv d a sc => Sys2Proof.Machine.execAwait iv d a sc s
  | .awaitX iv d a sc => Sys2Proof.Machine.execAwaitX iv d a sc s
  | .jpoll iv d a sc => Sys2Proof.Machine.execJpoll iv d a sc s
  | .jdrop iv d a sc => Sys2Proof.Machine.execJdrop iv d a sc s
  | .gset iv a q sc => Sys2Proof.Machine.execGset iv a q sc s
  | .gclr iv q sc => Sys2Proof.Machine.execGclr iv q sc s
  | .sigDec iv d a n q sc => Sys2Proof.Machine.execSigDec iv d a n q sc s
  | .board iv d a b sc => Sys2Proof.Machine.execBoard iv d a b sc s
  | .unboard iv a sc => Sys2Proof.Machine.execUnboard iv a sc s
  | .spawn iv d a b sc => Sys2Proof.Machine.execSpawn iv d a b sc s
  | .spawnL iv d a b sc => Sys2Proof.Machine.execSpawnL iv d a b sc s
  | .exit iv sc => Sys2Proof.Machine.execExit iv sc s
  | .yield iv sc => Sys2Proof.Machine.execYield iv sc s
  | .migr iv a sc => Sys2Proof.Machine.execMigr iv a sc s
  | .land iv a b sc => Sys2Proof.Machine.execLand iv a b sc s
  | .landV iv a b sc => Sys2Proof.Machine.execLandV iv a b sc s
  | .lopen iv a sc => Sys2Proof.Machine.execLopen iv a sc s
  | .lclose iv a sc => Sys2Proof.Machine.execLclose iv a sc s
  | .waitL iv d a sc => Sys2Proof.Machine.execWaitL iv d a sc s
  | .lclr iv d a sc => Sys2Proof.Machine.execLclr iv d a sc s
  | .umask iv sc => Sys2Proof.Machine.execUmask iv sc s
  | .unmask iv sc => Sys2Proof.Machine.execUnmask iv sc s
  | .barQuad iv a sc => Sys2Proof.Machine.execBarQuad iv a sc s
  | .barDie iv a sc => Sys2Proof.Machine.execBarDie iv a sc s
  | .barPkg iv a sc => Sys2Proof.Machine.execBarPkg iv a sc s
  | .barPod iv a sc => Sys2Proof.Machine.execBarPod iv a sc s
  | .bmaxQuad iv d a b sc => Sys2Proof.Machine.execBmaxQuad iv d a b sc s
  | .bmaxDie iv d a b sc => Sys2Proof.Machine.execBmaxDie iv d a b sc s
  | .bmaxPkg iv d a b sc => Sys2Proof.Machine.execBmaxPkg iv d a b sc s
  | .bmaxPod iv d a b sc => Sys2Proof.Machine.execBmaxPod iv d a b sc s
  | .gang iv d sc => Sys2Proof.Machine.execGang iv d sc s
  | .cpush iv a b sc => Sys2Proof.Machine.execCpush iv a b sc s
  | .cpop iv sc => Sys2Proof.Machine.execCpop iv sc s
  | .cyield iv sc => Sys2Proof.Machine.execCyield iv sc s
  | .cwait iv sc => Sys2Proof.Machine.execCwait iv sc s
  | .msg iv a b sc => Sys2Proof.Machine.execMsg iv a b sc s
  | .sysc iv sc => Sys2Proof.Machine.execSysc iv sc s
  | .trap iv a sc => Sys2Proof.Machine.execTrap iv a sc s
  | .eret iv sc => Sys2Proof.Machine.execEret iv sc s
  | .brk iv sc => Sys2Proof.Machine.execBrk iv sc s
  | .halt iv sc => Sys2Proof.Machine.execHalt iv sc s
  | .mfs iv d n m sc => Sys2Proof.Machine.execMfs iv d n m sc s
  | .mts iv d n m sc => Sys2Proof.Machine.execMts iv d n m sc s
  | .ctxSv iv a b sc => Sys2Proof.Machine.execCtxSv iv a b sc s
  | .ctxLd iv a b sc => Sys2Proof.Machine.execCtxLd iv a b sc s
  | .preempt iv a sc => Sys2Proof.Machine.execPreempt iv a sc s
  | .resume iv a b sc => Sys2Proof.Machine.execResume iv a b sc s
  | .xmap iv a b sc => Sys2Proof.Machine.execXmap iv a b sc s
  | .hintExtend iv d => Sys2Proof.Machine.execHintExtend iv d s
  | .hintModifier iv d => Sys2Proof.Machine.execHintModifier iv d s
  | .hintSchedule iv d => Sys2Proof.Machine.execHintSchedule iv d s
  | .longLatencyResult sid => Sys2Proof.Machine.execLongLatencyResult sid s
  | .deferredFaultDelivery sid => Sys2Proof.Machine.execDeferredFaultDelivery sid s
  | .userQueueNotify p q index => Sys2Proof.Machine.execUserQueueNotify p q index s
  | .launchPacket p q => Sys2Proof.Machine.execLaunchPacket p q s
  | .signalOperationPacket p q => Sys2Proof.Machine.execSignalOperationPacket p q s
  | .barrierAndPacket p q => Sys2Proof.Machine.execBarrierAndPacket p q s
  | .copyPacket p q => Sys2Proof.Machine.execCopyPacket p q s
  | .creelSeedPacket p q => Sys2Proof.Machine.execCreelSeedPacket p q s
  | .nodeReady node => Sys2Proof.Machine.execNodeReady node s
  | .launchDispatch node => Sys2Proof.Machine.execLaunchDispatch node s
  | .launchComplete slot => Sys2Proof.Machine.execLaunchComplete slot s
  | .nodeComplete node => Sys2Proof.Machine.execNodeComplete node s
  | .barrierAndComplete node => Sys2Proof.Machine.execBarrierAndComplete node s
  | .copyPacketComplete node hostError => Sys2Proof.Machine.execCopyPacketComplete node hostError s
  | .urgentEntry core => Sys2Proof.Machine.execUrgentEntry core s
  | .urgentMaskOverrun core => Sys2Proof.Machine.execUrgentMaskOverrun core s
  | .arrivalAdmit core => Sys2Proof.Machine.execArrivalAdmit core s
  | .landingArrival ix => Sys2Proof.Machine.execLandingArrival ix s
  | .landingHeld ix => Sys2Proof.Machine.execLandingHeld ix s
  | .landingRefusalReturn ix => Sys2Proof.Machine.execLandingRefusalReturn ix s
  | .forwardAck ix => Sys2Proof.Machine.execForwardAck ix s
  | .locationUpdate ix => Sys2Proof.Machine.execLocationUpdate ix s
  | .creelSnapshot p => Sys2Proof.Machine.execCreelSnapshot p s
  | .creelPublication p => Sys2Proof.Machine.execCreelPublication p s
  | .creelDispatch p core => Sys2Proof.Machine.execCreelDispatch p core s
  | .cpushPlacement sid => Sys2Proof.Machine.execCpushPlacement sid s
  | .spillRingRefill p die => Sys2Proof.Machine.execSpillRingRefill p die s
  | .creelWave p part => Sys2Proof.Machine.execCreelWave p part s
  | .creelIntakeRecord p rx slot => Sys2Proof.Machine.execCreelIntakeRecord p rx slot s
  | .waitaReread sid => Sys2Proof.Machine.execWaitaReread sid s
  | .phaseComplete sid => Sys2Proof.Machine.execPhaseComplete sid s
  | .fenceRComplete sid => Sys2Proof.Machine.execFenceRComplete sid s
  | .fenceAComplete sid => Sys2Proof.Machine.execFenceAComplete sid s
  | .tagSetComplete sid => Sys2Proof.Machine.execTagSetComplete sid s
  | .translationAnswer sid => Sys2Proof.Machine.execTranslationAnswer sid s
  | .drainedLineArrival src dst => Sys2Proof.Machine.execDrainedLineArrival src dst s
  | .forwardedAccess src dst => Sys2Proof.Machine.execForwardedAccess src dst s
  | .counterHalving => Sys2Proof.Machine.execCounterHalving s
  | .migrationCopy beat => Sys2Proof.Machine.execMigrationCopy beat s
  | .migrationSwitch => Sys2Proof.Machine.execMigrationSwitch s
  | .migrationRedirectEnd => Sys2Proof.Machine.execMigrationRedirectEnd s
  | .queueHeadStart quad queue => Sys2Proof.Machine.execQueueHeadStart quad queue s
  | .joinRelease quad join => Sys2Proof.Machine.execJoinRelease quad join s
  | .copyBeat quad hostError => Sys2Proof.Machine.execCopyBeat quad hostError s
  | .matrixGroup quad half => Sys2Proof.Machine.execMatrixGroup quad half s
  | .jobComplete quad queue => Sys2Proof.Machine.execJobComplete quad queue s
  | .jobReplay quad queue => Sys2Proof.Machine.execJobReplay quad queue s
  | .promiseMissed sid => Sys2Proof.Machine.execPromiseMissed sid s
  | .roundLapStart => Sys2Proof.Machine.execRoundLapStart s
  | .roundFrameArrival station => Sys2Proof.Machine.execRoundFrameArrival station s
  | .hopRetransmit station => Sys2Proof.Machine.execHopRetransmit station s
  | .preemptionCut sid => Sys2Proof.Machine.execPreemptionCut sid s
  | .contextSaveComplete sid => Sys2Proof.Machine.execContextSaveComplete sid s
  | .strandResume sid core => Sys2Proof.Machine.execStrandResume sid core s
  | .parkedCallEntry p die => Sys2Proof.Machine.execParkedCallEntry p die s
  | .messageArrival ix => Sys2Proof.Machine.execMessageArrival ix s
  | .messageDispatch die => Sys2Proof.Machine.execMessageDispatch die s
  | .hostRevocation p base len => Sys2Proof.Machine.execHostRevocation p base len s
  | .revocationComplete ix => Sys2Proof.Machine.execRevocationComplete ix s
  | .dieHalt die => Sys2Proof.Machine.execDieHalt die s
  | .bightPreempt sid => Sys2Proof.Machine.execBightPreempt sid s
  | .bightResume sid => Sys2Proof.Machine.execBightResume sid s
  | .singleStep sid => Sys2Proof.Machine.execSingleStep sid s
  | .operatingPointChange die point => Sys2Proof.Machine.execOperatingPointChange die point s
  | .linkWidthChange die width => Sys2Proof.Machine.execLinkWidthChange die width s
  | .linkRetrainComplete die => Sys2Proof.Machine.execLinkRetrainComplete die s
  | .thermalStep die => Sys2Proof.Machine.execThermalStep die s
  | .thermalRecovery die => Sys2Proof.Machine.execThermalRecovery die s
  | .thermalShutdown => Sys2Proof.Machine.execThermalShutdown s
  | .linkReplay p port => Sys2Proof.Machine.execLinkReplay p port s
  | .reflectedCopyArrival flit => Sys2Proof.Machine.execReflectedCopyArrival flit s
  | .flagIncrement flit => Sys2Proof.Machine.execFlagIncrement flit s
  | .reflectionAck flit => Sys2Proof.Machine.execReflectionAck flit s
  | .routeTableWrite dev entry => Sys2Proof.Machine.execRouteTableWrite dev entry s
  | .incarnationAnnounce peer inc => Sys2Proof.Machine.execIncarnationAnnounce peer inc s
  | .podBarrierReport ctx child => Sys2Proof.Machine.execPodBarrierReport ctx child s
  | .podBarrierRelease ctx flit => Sys2Proof.Machine.execPodBarrierRelease ctx flit s
  | .pctlWrite p value => Sys2Proof.Machine.execPctlWrite p value s
  | .partitionConfigWrite p offset value => Sys2Proof.Machine.execPartitionConfigWrite p offset value s
  | .transmitEntryWrite p index dwords => Sys2Proof.Machine.execTransmitEntryWrite p index dwords s
  | .hwqDoorbell p q value => Sys2Proof.Machine.execHwqDoorbell p q value s
  | .hwqOutboundTransfer p q => Sys2Proof.Machine.execHwqOutboundTransfer p q s
  | .hwqInboundTransfer p q => Sys2Proof.Machine.execHwqInboundTransfer p q s
  | .hostAtomicOp addr => Sys2Proof.Machine.execHostAtomicOp addr s
  | .counterClear p counter => Sys2Proof.Machine.execCounterClear p counter s
  | .traceSample core sid => Sys2Proof.Machine.execTraceSample core sid s
  | .checkpointStart base => Sys2Proof.Machine.execCheckpointStart base s
  | .checkpointComplete => Sys2Proof.Machine.execCheckpointComplete s
  | .roundModelLoad model => Sys2Proof.Machine.execRoundModelLoad model s
  | .roundRateWrite rate => Sys2Proof.Machine.execRoundRateWrite rate s
  | .resetCold image => Sys2Proof.Machine.execResetCold image s
  | .resetWarm image => Sys2Proof.Machine.execResetWarm image s
  | .patrolScrub line err => Sys2Proof.Machine.execPatrolScrub line err s
  | .eccError site => Sys2Proof.Machine.execEccError site s
  | .dieHaltRelease die => Sys2Proof.Machine.execDieHaltRelease die s
  | .bightContinue sid => Sys2Proof.Machine.execBightContinue sid s
  | .hostPortTraining port up rate width => Sys2Proof.Machine.execHostPortTraining port up rate width s
  | .recoveryImageWrite image => Sys2Proof.Machine.execRecoveryImageWrite image s
  | .delayTableClear core => Sys2Proof.Machine.execDelayTableClear core s

end Sys2Proof.Machine
end

