-- ==== Sys2Proof/Machine/Tick.lean ====
section
/-!
DEFINITION. The passing of cycles: the package cycle counter (01 R2, log 2), the counters of cycles spent waiting (08 R164,
18 R333, 20 R353, 21 R359, 22 R366, 24 R390), and the resume list taking what has room (20 R354).
-/
namespace Sys2Proof.Machine

/-- Whether a strand is a caller that is parked, or leaves its core for it (R333). -/
def State.parkedCall (s : State) (x : Strand) : Bool := (s.view x).flags.parked

/-- The pushes that wait for room, by partition and die (R164, R165): those of strands, and the next records of seed lists and
of intakes that find none. -/
def State.stalls (s : State) : List (Nat × Nat) :=
  (s.all.filterMap fun x => match x.wait with
    | some (.cpush _ d _) => some (x.pid, d)
    | _ => none)
  ++ (s.hub.nodes.filterMap fun n => match n.body with
    | .seed l count =>
      if n.ready && !n.ended && decide (n.done < count) then
        match s.seedRec l (s.domDies n.pid) n.done with
        | some (die, t) => if (s.placeSeed n.pid die t).isNone then some (n.pid, die) else none
        | none => none
      else none
    | _ => none)
  ++ ((s.hub.parts.map fun q => q.2.creelBytes.filterMap fun e =>
    let rx := e.1 / 2 ^ 64
    let n := Memory.readN s.mem (s.rxBase q.1 rx + 64 * (e.1 % 2 ^ 64)) 64
    if e.2.1 != BitVec.allOnes 64 || badRecord n then none
    else match s.intakeDie q.1 with
      | some die => if (s.placeSeed q.1 die (taskOf n)).isNone then some (q.1, die) else none
      | none => none)).flatten

/-- The counters that rise with the cycles a strand spends where it is: a leaving without a forwarding
entry (R359), a cut without a frame (R353), a parked call (R333). -/
def State.waitCounters (s : State) (x : Strand) : List Counter :=
  (if s.parkedCall x then [.syscPark] else [])
  ++ match x.place with
    | .resident => if x.wait == some .fwdRoom then [.fwdWait] else []
    | .cut =>
      if !s.landingsDone x.sid.toNat then []
      else if !s.fwdRoom x.core then [.fwdWait]
      else if (s.freeSave x.home x.pid).isNone || (s.wantsPool x && (s.freePool x.home x.pid).isNone) then [.ctxWait]
      else []
    | _ => []

/-- Whether an admission of a partition waits (R390): a queued, overflowed or resumed strand, a message at an agent, a launch
with strands to come, an eligible task. -/
def State.admission (s : State) (p : Nat) : Bool :=
  (s.all.any fun x => x.pid == p && match x.place with
    | .queued | .ring _ _ => !x.moving
    | .urgentQ => true
    | .toPlace => !(s.view x).flags.parked && !(s.view x).flags.stop
    | _ => false)
  || (s.dies.any fun d => d.2.msgs.any (·.pid == p))
  || (s.hub.nodes.any fun n => n.pid == p && n.ready && match n.body with
    | .launch _ count _ _ _ _ _ _ _ _ => decide (n.done < count)
    | _ => false)
  || (s.domDies p).any fun d => (s.eligibleHead p d).isSome

/-- A parked strand's own count of cycles, kept in its record (R333). -/
def State.countParked (s : State) (n : Nat) : State :=
  (s.all.filter s.parkedCall).foldl (fun s x =>
    s.modView x.sid.toNat fun y => { y with parkCycles := y.parkCycles + BitVec.ofNat 64 n }) s

/-- n cycles are counted for everything that waited through them, as the state before them shows. -/
def State.accrue (s : State) (n : Nat) : State :=
  let waits := (s.all.map fun x => (s.waitCounters x).map fun c => (x.pid, c)).flatten
  let power := ((s.dies.filter fun d => d.2.power.stage != 0).map fun d =>
    (((List.range 20).filter fun p => s.enabled p && s.onDie p d.1).map fun p => (p, Counter.pmWait))).flatten
  let limit := ((List.range 20).filter fun p =>
    (!s.mayAdmit p && s.admission p) || s.hub.nodes.any fun n => n.pid == p && s.groupHeld n).map fun p => (p, Counter.limWait)
  s.stalls.foldl (fun s c => s.countCreel c.1 c.2 .creelStall n)
    ((waits ++ power ++ limit).foldl (fun s c => s.count c.1 c.2 n) (s.countParked n))

/-- Every resume list takes the runnable strands that wait for it, while it has room (R354). -/
def State.postLists (s : State) : State :=
  s.dies.foldl (fun s d => d.2.regs.foldl (fun s r => s.postAll d.1 r.1 r.2.posts.length) s) s

/-- A free number of cycles passes (log 2). -/
def State.tick (s : State) : State :=
  let n := s.freeNat
  let t := (s.accrue n).postLists
  { t with free := s.free + 1, clk := s.clk + BitVec.ofNat 64 n }

/-- The tick of an outcome. -/
def tickOut : Out → Out
  | .next s => .next s.tick
  | .fault r => .fault r
  | .refused r => .refused r

end Sys2Proof.Machine
end

