-- ==== Sys2Proof/Machine/Step.lean ====
section
/-!
DEFINITION. One step of the machine: what happens next (log 2), the issue of one word (07 R146), fetch, decode, and the
placing of an instruction where the next step fetches it. It only calls the operations of Machine/Issue.lean.
-/
namespace Sys2Proof.Machine

/-- A decoded word, or the trap its decoding takes (R74 checks 1, 2 and 4). -/
noncomputable def issueWord (w : BitVec 32) (s : State) : Out :=
  match decode w with
  | .ok i => exec i s
  | .error e => trapOut s (decodeTrap e w s).1 (decodeTrap e w s).2

/-- The strand in issue issues one word, or takes what comes first at its boundary. -/
noncomputable def stepStrand (s : State) : Out :=
  match s.boundary with
  | some o => o
  | none => (s.fetchNext).out issueWord

/-- A trace sample finds out first whether the interlock holds the strand (R399). -/
noncomputable def State.sampled (s : State) : Instr → State
  | .traceSample _ sid =>
    { s with interlocked := match (((s.focus sid).modSt Strand.probe).fetchNext).out issueWord with
      | .next t => t.st.tripped
      | _ => false }
  | _ => s

/-- One step: the head of the agenda; with an empty agenda, the ready strand that may issue (log 2). Cycles pass. -/
noncomputable def step (s : State) : Out :=
  match s.turn with
  | (.idle, s) => .next s.tick
  | (.event e, s) => tickOut (if hasWord e then .next s else exec e (s.sampled e))
  | (.word sid, s) =>
    let e := { (s.focus sid).startIssue with crossed := false }
    tickOut (if s.mayIssue sid then e.overLinks (stepStrand e) else .next s)

/-- The same state with an instruction where the next step fetches its word (log 11). -/
def State.withFetchWord (s : State) (_nbits w : Nat) : State := s.placeWord (BitVec.ofNat 32 w)

end Sys2Proof.Machine
end

