-- ==== Sys2Proof/Safety.lean ====
section
/-!
DEFINITION. What counts as a safe step, and the terms in which claims are stated: when a unit passes its checks, the state in
which its own effect begins, and what an effect leaves as it was.
-/
namespace Sys2Proof

/-- An outcome is a next state. -/
def Safe (o : Machine.Out) : Prop := ∃ t, o = .next t

/-- A state from which the next step is safe. -/
def SafeStep (s : Machine.State) : Prop := Safe (Machine.step s)

/-- A machine that runs k steps without a stop. -/
def SafeFor (k : Nat) (s : Machine.State) : Prop := Safe (Host.Core.run core k s)

namespace Claims
open Machine

/-- The unit passes checks 3 to 7 of R74: no hint, field, privilege or class is refused, and no promise of R22 is broken
under la.trap. -/
def Passes (inf : Info) (s : State) : Prop :=
  unitCheck inf s.st = none ∧
    ((broken inf.regs s.st.unitLen s.st.inflight).isNone = true ∨ s.st.ctl.laTrap = false)

/-- The state in which the instruction's own effect begins: outstanding results that the unit's registers meet are written
(R22, R23), and a promise broken without la.trap counts in la.stall. -/
def entry (inf : Info) (s : State) : State :=
  s.modSt fun x =>
    if (broken inf.regs x.unitLen x.inflight).isNone then x.settle inf.regs
    else (x.settle inf.regs).modCtl fun c => { c with laStall := c.laStall + 1 }

/-- Everything outside the strands' own state is as it was: every byte of memory, poison, locks, cores, quads, dies, hub,
the other strands, the clock. -/
structure UnitsKept (s t : State) : Prop where
  bytes   : ∀ a, Memory.read t.mem a = Memory.read s.mem a
  poison  : t.poison = s.poison
  locks   : t.locks = s.locks
  cores   : t.cores = s.cores
  quads   : t.quads = s.quads
  dies    : t.dies = s.dies
  hub     : t.hub = s.hub
  strands : t.strands = s.strands
  clk     : t.clk = s.clk

/-- The strand in issue keeps its vector, mask and guard registers. -/
structure VectorKept (s t : State) : Prop where
  v : ∀ n, t.st.V n = s.st.V n
  k : ∀ n, t.st.K n = s.st.K n
  q : ∀ n, t.st.Q n = s.st.Q n

/-- The strand in issue keeps its special registers (fcr with its flags, the mode, the shape, counters and masks), its trap
registers of every level, delegations, pending faults, extents, and who and where it is. -/
structure SpecialKept (e t : State) : Prop where
  ctl     : t.st.ctl = e.st.ctl
  u       : t.st.u = e.st.u
  s       : t.st.s = e.st.s
  h       : t.st.h = e.st.h
  sdlg    : t.st.sdlg = e.st.sdlg
  hdlg    : t.st.hdlg = e.st.hdlg
  pending : t.st.pending = e.st.pending
  ext     : t.st.ext = e.st.ext
  sid     : t.st.sid = e.st.sid
  core    : t.st.core = e.st.core
  place   : t.st.place = e.st.place

/-- The strand's unit has ended: pc is the given address, no hint words are left, the strand waits for nothing, and
every lookahead window has shrunk by the unit's words (R22, R59). -/
structure Ended (s t : State) (pc : Word) : Prop where
  pc       : t.st.pc = pc
  hints    : t.st.hints = []
  wait     : t.st.wait = none
  inflight : t.st.inflight = s.st.inflight.map fun o => { o with left := o.left - s.st.unitLen }

/-- An instruction with these facts, its checks passed, ends in a next state that stands so to the state at its entry. -/
def Completes (i : Instr) (inf : Info) (s : State) (effect : State → State → Prop) : Prop :=
  Passes inf s → ∃ t, exec i s = .next t ∧ effect (entry inf s) t

/-- The same where more is asked of the state at the entry. -/
def CompletesWhen (i : Instr) (inf : Info) (s : State) (pre : State → Prop) (effect : State → State → Prop) : Prop :=
  Passes inf s → pre (entry inf s) → ∃ t, exec i s = .next t ∧ effect (entry inf s) t

/-- G[d] becomes y, where g0 discards the write (R8); every other scalar register keeps its value. -/
def SetsG (s t : State) (d : BitVec 5) (y : Word) : Prop :=
  t.G d = (if d = 0 then 0 else y) ∧ ∀ n, n ≠ d → t.G n = s.G n

/-- Every scalar register keeps its value. -/
def KeepsG (s t : State) : Prop := ∀ n, t.G n = s.G n

/-- The unit writes G[d] and nothing else, and control goes to pc. -/
structure ScalarEffect (s t : State) (d : BitVec 5) (y pc : Word) : Prop where
  g       : SetsG s t d y
  vector  : VectorKept s t
  special : SpecialKept s t
  units   : UnitsKept s t
  ended   : Ended s t pc

/-- The unit writes no register and no memory, and control goes to pc. -/
structure JumpEffect (s t : State) (pc : Word) : Prop where
  g       : KeepsG s t
  vector  : VectorKept s t
  special : SpecialKept s t
  units   : UnitsKept s t
  ended   : Ended s t pc

/-- The unit has ended with a long-latency result outstanding (R22, R76): no register has changed yet, the next unit
follows, and the result stands last among those outstanding, with the address of its instruction word, the window that iv 01
promises, its destination set and the writes that will be made. -/
structure Outstanding (e t : State) (inf : Info) (dests : List RegName) (writes : List RegWrite) : Prop where
  g        : KeepsG e t
  vector   : VectorKept e t
  special  : SpecialKept e t
  pc       : t.st.pc = e.nextPc
  hints    : t.st.hints = []
  wait     : t.st.wait = none
  inflight : t.st.inflight = (e.st.inflight.map fun o => { o with left := o.left - e.st.unitLen }) ++
    [⟨e.st.wordPc, inf.ahead, dests, writes⟩]

/-- The unit writes no register; control goes to the next unit, and what else it changes is said elsewhere. -/
structure StrandGoesOn (e t : State) : Prop where
  g       : KeepsG e t
  vector  : VectorKept e t
  special : SpecialKept e t
  ended   : Ended e t e.nextPc

/-! ## Vectors (06) -/

/-- Unit i of w bits of a vector register (R12, R13). -/
def unitAt (r : VReg) (w i : Nat) : Nat := (r.data.extractLsb' (w * i) w).toNat

/-- Active units of a mask below i. -/
def activeBelow (m : BitVec 256) (i : Nat) : Nat := ((List.range i).filter m.getLsbD).length

/-- The register r holds a result over n units of w bits under a mask (R102): an active unit i is f of i and of the number
of active units before it, any other keeps its bits, the rest of the register is zero; with the tag and scale field of the
result (R101). -/
structure Lanes (r old : VReg) (m : BitVec 256) (tag : BitVec 4) (scale : Word) (n w : Nat) (f : Nat → Nat → Nat × Fl) : Prop where
  tag    : r.tag = tag
  scale  : r.scale = scale
  active : ∀ i, i < n → m.getLsbD i = true → unitAt r w i = (f i (activeBelow m i)).1 % 2 ^ w
  masked : ∀ i, i < n → m.getLsbD i = false → unitAt r w i = unitAt old w i
  tail   : ∀ i, n ≤ i → unitAt r w i = 0

/-- The sticky flags that the active units raise are set in fcr[14:8], no other bit of fcr changes, and of the special
registers only the generator's count, by `draws` (R17, R52, R104). -/
structure Raises (e t : State) (m : BitVec 256) (n : Nat) (f : Nat → Nat → Nat × Fl) (draws : Nat) : Prop where
  fcr  : ∀ j, t.st.ctl.fcr.getLsbD j = (e.st.ctl.fcr.getLsbD j ||
    decide (8 ≤ j ∧ j < 15 ∧ ∃ i, i < n ∧ m.getLsbD i = true ∧ (f i (activeBelow m i)).2.getLsbD (j - 8) = true))
  rest : t.st.ctl = { e.st.ctl with fcr := t.st.ctl.fcr, gen := e.st.ctl.gen + BitVec.ofNat 64 draws }
  trap : t.st.u = e.st.u ∧ t.st.s = e.st.s ∧ t.st.h = e.st.h ∧ t.st.pending = e.st.pending ∧ t.st.ext = e.st.ext

/-- The unit writes V[d] and flags, and nothing else: no other register, no byte of memory. -/
structure VectorEffect (e t : State) (d : BitVec 4) (m : BitVec 256) (tag : BitVec 4) (scale : Word) (n w : Nat)
    (f : Nat → Nat → Nat × Fl) (draws : Nat) : Prop where
  lanes  : Lanes (t.st.V d) (e.st.V d) m tag scale n w f
  others : ∀ i, i ≠ d → t.st.V i = e.st.V i
  g      : KeepsG e t
  k      : ∀ i, t.st.K i = e.st.K i
  q      : ∀ i, t.st.Q i = e.st.Q i
  flags  : Raises e t m n f draws
  units  : UnitsKept e t
  ended  : Ended e t e.nextPc

/-- The unit ends with one vector register outstanding, which will hold a result, and with it the sticky flags that the active
units raise (R76, R104); no register has changed yet. -/
structure VectorOutstanding (e t : State) (inf : Info) (d : BitVec 4) (m : BitVec 256) (tag : BitVec 4) (scale : Word)
    (n w : Nat) (f : Nat → Nat → Nat × Fl) : Prop where
  result : ∃ r b, Lanes r (e.st.V d) m tag scale n w f ∧
    (∀ j, b.getLsbD j = decide (8 ≤ j ∧ j < 15 ∧ ∃ i, i < n ∧ m.getLsbD i = true ∧
      (f i (activeBelow m i)).2.getLsbD (j - 8) = true)) ∧
    t.st.inflight = (e.st.inflight.map fun o => { o with left := o.left - e.st.unitLen }) ++
      [⟨e.st.wordPc, inf.ahead, vs [d], [.v d r, .fcr b]⟩]
  g      : KeepsG e t
  vector : VectorKept e t
  special : SpecialKept e t
  units  : UnitsKept e t
  pc     : t.st.pc = e.nextPc

/-- Of all registers the unit writes V[d] alone; no byte of memory changes, and the next unit follows. -/
structure OnlyV (e t : State) (d : BitVec 4) : Prop where
  v     : ∀ i, i ≠ d → t.st.V i = e.st.V i
  k     : ∀ i, t.st.K i = e.st.K i
  q     : ∀ i, t.st.Q i = e.st.Q i
  g     : KeepsG e t
  ctl   : t.st.ctl = { e.st.ctl with fcr := t.st.ctl.fcr }
  trap  : t.st.u = e.st.u ∧ t.st.s = e.st.s ∧ t.st.h = e.st.h ∧ t.st.pending = e.st.pending ∧ t.st.ext = e.st.ext
  units : UnitsKept e t
  ended : Ended e t e.nextPc

/-- The unit writes K[d] and nothing else, where k0 discards the write (R8). -/
structure MaskEffect (e t : State) (d : BitVec 3) (m : BitVec 256) : Prop where
  k       : ∀ i, t.st.K i = if i = 0 then BitVec.allOnes 256 else if i = d then m else e.st.K i
  v       : ∀ i, t.st.V i = e.st.V i
  q       : ∀ i, t.st.Q i = e.st.Q i
  g       : KeepsG e t
  special : SpecialKept e t
  units   : UnitsKept e t
  ended   : Ended e t e.nextPc

/-- The current shape fits the registers at an element size in half-bytes (R14). -/
def Fits (e : State) (half : Nat) : Prop := e.st.rows * e.st.cols * half ≤ 512

/-! ## Memory (05, 10, 12) -/

/-- The strand in issue may access n bytes at va as the kind of access asks, and they lie at the target: checks 1 to 6 of
R95, with the windows of R199 and R200 and the spaces of R142, R370 and R388. -/
structure Granted (e : State) (a : Acc) (va : Word) (n : Nat) (tgt : Target) : Prop where
  form    : a ≠ .fetch → va >>> 60 = 0
  scratch : winOf va = 0xFE → a ≠ .stF ∧ (a ≠ .fetch → va.toNat / 2 ^ 40 % 256 = 0 ∧ a ≠ .waita ∧ a ≠ .wake)
  aligned : n ∣ va.toNat
  covered : e.find e.st va = some tgt
  live    : tgt.revoked = false
  rights  : a.allowed tgt = true
  host    : tgt.host = false
  space   : spaceOf tgt.addr = .dieMem ∨ spaceOf tgt.addr = .priv ∨ spaceOf tgt.addr = .scratch ∨
    (spaceOf tgt.addr = .config ∧ a.config = true) ∨
    (spaceOf tgt.addr = .fabric ∧ a ≠ .wake ∧ (isPod tgt.addr = true → a.reads = false))

/-- The access is granted in die or private memory, and e' is the state it finds at the owner's memory side: the strand's own
writes to the line from dies it has left are performed (R230), and for an access that reads, and for wake, the writes ahead
of it on its path (R225). Its key matches the granule's lock there if the target is tag-checked (R212). -/
structure AtSide (e : State) (a : Acc) (va : Word) (n : Nat) (tgt : Target) (e' : State) : Prop where
  granted : Granted e a va n tgt
  space   : spaceOf tgt.addr = .dieMem ∨ spaceOf tgt.addr = .priv
  found   : e' = if a.reads = true ∨ a = .wake then (e.behind e.st (Memory.line tgt.addr)).reach (dieOf e.st.core) (Memory.line tgt.addr)
    else e.behind e.st (Memory.line tgt.addr)
  key     : tgt.t = true → keyOf va = e'.lockAt tgt.addr

/-- A strand that waited at its unit has gone on to the next one (R146): it waits for nothing. -/
structure GoesOn (x y : Strand) : Prop where
  pc    : y.pc = addPc x.pc (4 * x.unitLen)
  hints : y.hints = []
  wait  : y.wait = none
  sid   : y.sid = x.sid

/-- The live strand of a sid, as it is before and after, stands in a relation. -/
def StrandMoves (s t : State) (sid : Nat) (r : Strand → Strand → Prop) : Prop :=
  ∃ x y, s.strand sid = some x ∧ t.strand sid = some y ∧ r x y

/-- The n bytes from a on have become those of v, little-endian (R5), and every other byte is as before. -/
def Wrote (s t : State) (a n v : Nat) : Prop :=
  ∀ b, Memory.read t.mem b = if a ≤ b ∧ b < a + n then BitVec.ofNat 8 (v / 2 ^ (8 * (b - a))) else Memory.read s.mem b

/-- Every byte of memory is as before. -/
def BytesKept (s t : State) : Prop := ∀ b, Memory.read t.mem b = Memory.read s.mem b

end Claims
end Sys2Proof
end

