-- ==== Sys2Proof/Certificates/Slice0/Obligations.lean ====
section
/-!
DEFINITION. The statements for the provers, each about the machine, most of them about every state and every operand.
-/
namespace Sys2Proof.Claims
open Machine

/-! ## Scalar instructions (05) -/

/-- The function code of a word of format R (R60). -/
def fnOf (w : BitVec 32) : Nat := (w.extractLsb' 4 5).toNat

/-- Instructions of two scalar sources with what G[d] becomes of them (R79, R80, R83, R84, R90). -/
def twoSource (iv : BitVec 2) (d a b : BitVec 5) (sc : BitVec 4) : List (Instr × (Word → Word → Word)) :=
  [ (.add iv d a b sc, fun x y => x + y), (.sub iv d a b sc, fun x y => x - y)
  , (.and iv d a b sc, fun x y => x &&& y), (.or iv d a b sc, fun x y => x ||| y), (.xor iv d a b sc, fun x y => x ^^^ y)
  , (.andn iv d a b sc, fun x y => x &&& ~~~y), (.orn iv d a b sc, fun x y => x ||| ~~~y)
  , (.shl iv d a b sc, fun x y => x <<< (y &&& 63)), (.shr iv d a b sc, fun x y => x >>> (y &&& 63))
  , (.sra iv d a b sc, fun x y => x.sshiftRight' (y &&& 63)), (.rot iv d a b sc, fun x y => x.rotateRight (y.toNat % 64))
  , (.min iv d a b sc, fun x y => if x.slt y then x else y), (.max iv d a b sc, fun x y => if x.slt y then y else x)
  , (.minn iv d a b sc, fun x y => if x.ult y then x else y), (.maxn iv d a b sc, fun x y => if x.ult y then y else x)
  , (.mul iv d a b sc, fun x y => x * y)
  , (.mulh iv d a b sc, fun x y => (x.signExtend 128 * y.signExtend 128).extractLsb' 64 64)
  , (.mulhn iv d a b sc, fun x y => (x.setWidth 128 * y.setWidth 128).extractLsb' 64 64)
  , (.cmpEq iv d a b sc, fun x y => if x = y then 1 else 0), (.cmpNe iv d a b sc, fun x y => if x = y then 0 else 1)
  , (.cmpLt iv d a b sc, fun x y => if x.slt y then 1 else 0), (.cmpLtn iv d a b sc, fun x y => if x.ult y then 1 else 0)
  , (.cmpLe iv d a b sc, fun x y => if y.slt x then 0 else 1), (.cmpLen iv d a b sc, fun x y => if y.ult x then 0 else 1)
  , (.lea iv d a b sc, fun x y => (x &&& 0xFF00000000000000) ||| ((x + y) &&& 0x00FFFFFFFFFFFFFF))
  , (.xkeySet iv d a b sc, fun x y => (x &&& 0xF0FFFFFFFFFFFFFF) ||| ((y &&& 0xF) <<< 56)) ]

/-- Instructions of one scalar source with what G[d] becomes of it (R82, R86, R90). -/
def oneSource (iv : BitVec 2) (d a : BitVec 5) (n : BitVec 6) (sc : BitVec 4) : List (Instr × (Word → Word)) :=
  [ (.clz iv d a sc, fun x => BitVec.ofNat 64 (((List.range 64).find? x.getMsbD).getD 64))
  , (.ctz iv d a sc, fun x => BitVec.ofNat 64 (((List.range 64).find? x.getLsbD).getD 64))
  , (.popc iv d a sc, fun x => BitVec.ofNat 64 ((List.range 64).filter x.getLsbD).length)
  , (.bswap iv d a sc, fun x => x.extractLsb' 0 8 ++ x.extractLsb' 8 8 ++ x.extractLsb' 16 8 ++ x.extractLsb' 24 8 ++
      x.extractLsb' 32 8 ++ x.extractLsb' 40 8 ++ x.extractLsb' 48 8 ++ x.extractLsb' 56 8)
  , (.sextB iv d a sc, fun x => (x.setWidth 8).signExtend 64), (.zextB iv d a sc, fun x => x &&& 0xFF)
  , (.sextH iv d a sc, fun x => (x.setWidth 16).signExtend 64), (.zextH iv d a sc, fun x => x &&& 0xFFFF)
  , (.sextW iv d a sc, fun x => (x.setWidth 32).signExtend 64), (.zextW iv d a sc, fun x => x &&& 0xFFFFFFFF)
  , (.xkeyGet iv d a sc, fun x => (x >>> 56) &&& 0xF)
  , (.shli iv d a n sc, fun x => x <<< n), (.shri iv d a n sc, fun x => x >>> n)
  , (.srai iv d a n sc, fun x => x.sshiftRight' n), (.roti iv d a n sc, fun x => x.rotateRight n.toNat) ]

/-- Instructions of a scalar source and the sign-extended immediate V with what G[d] becomes of them (R85). -/
def immediate (iv : BitVec 2) (d a : BitVec 5) (i : BitVec 10) (sc : BitVec 4) : List (Instr × (Word → Word → Word)) :=
  [ (.addi iv d a i sc, fun x v => x + v), (.andi iv d a i sc, fun x v => x &&& v), (.ori iv d a i sc, fun x v => x ||| v)
  , (.xori iv d a i sc, fun x v => x ^^^ v), (.muli iv d a i sc, fun x v => x * v) ]

/-- Divisions with what will be written to G[d] (R80, R81). -/
def division (iv : BitVec 2) (d a b : BitVec 5) (sc : BitVec 4) : List (Instr × (Word → Word → Word)) :=
  [ (.div iv d a b sc, fun x y => if y = 0 then BitVec.allOnes 64 else x.sdiv y)
  , (.divn iv d a b sc, fun x y => if y = 0 then BitVec.allOnes 64 else x / y)
  , (.rem iv d a b sc, fun x y => if y = 0 then x else x.srem y)
  , (.remn iv d a b sc, fun x y => if y = 0 then x else x % y) ]

/-- The relation of a condition code, in the order of R64. -/
def relation (c : BitVec 3) (x y : Word) : Bool :=
  [x == y, x != y, x.slt y, !x.slt y, !y.slt x, y.slt x, x.ult y, !x.ult y].getD c.toNat false

/-- The field a descriptor names (R83): its position and its length cut to the register's end. -/
def fieldAt (b : Word) : Nat × Nat := ((b &&& 63).toNat, min ((b >>> 8) &&& 127).toNat (64 - (b &&& 63).toNat))

/-- Where a branch of displacement V goes: the head of its unit plus 4·V, modulo 2^56 (R97). -/
def branchTo (e : State) (v : Word) : Word := (e.st.pc + 4 * v) &&& 0x00FFFFFFFFFFFFFF

/-- A jump target that R99 refuses: bits [63:60] not zero, or else not a multiple of 4. -/
def jumpRefused (x : Word) : Option (BitVec 8) :=
  if x >>> 60 ≠ 0 then some 0x40 else if x &&& 3 ≠ 0 then some 0x43 else none

/-! ## Rounding (03 R46, R47, R51 to R53) -/

/-- The floating-point formats with their largest finite value, infinity and canonical NaN (R46). e4m3 has no infinity: what
overflows is its largest finite value (R51). -/
def formats : List (Fmt × Nat × Nat × Nat) :=
  [ (.f32, 0x7F7FFFFF, 0x7F800000, 0x7FC00000), (.f16, 0x7BFF, 0x7C00, 0x7E00), (.b16, 0x7F7F, 0x7F80, 0x7FC0)
  , (.e5m2, 0x7B, 0x7C, 0x7E), (.e4m3, 0x7E, 0x7E, 0x7F) ]

/-- The magnitude of the unsigned encoding b of a format (R46), its exponents going on without end (R51). -/
def magnitude (f : Fmt) (b : Nat) : ℚ :=
  if b / 2 ^ f.mw = 0 then (b : ℚ) * 2 ^ (1 - (f.bias : Int) - f.mw)
  else ((b % 2 ^ f.mw + 2 ^ f.mw : Nat) : ℚ) * 2 ^ (((b / 2 ^ f.mw : Nat) : Int) - f.bias - f.mw)

/-- An exact magnitude, by the numbers below it and above it. -/
structure Cut where
  below : ℚ → Prop
  above : ℚ → Prop

/-- A rational magnitude, and the square root of one. -/
def cutAt (v : ℚ) : Cut := ⟨fun q => q < v, fun q => v < q⟩
def cutRoot (v : ℚ) : Cut := ⟨fun q => q * q < v, fun q => v < q * q⟩

/-- Step b of a ladder is the nearest to a magnitude, the even one where two are (R51). -/
def Nearest (mag : Nat → ℚ) (c : Cut) (b : Nat) : Prop :=
  (b = 0 ∨ c.below ((mag (b - 1) + mag b) / 2) ∨ (¬ c.above ((mag (b - 1) + mag b) / 2) ∧ b % 2 = 0)) ∧
  (c.above ((mag b + mag (b + 1)) / 2) ∨ (¬ c.below ((mag b + mag (b + 1)) / 2) ∧ b % 2 = 0))

/-- It is the last that does not exceed the magnitude. -/
def Truncates (mag : Nat → ℚ) (c : Cut) (b : Nat) : Prop := ¬ c.above (mag b) ∧ c.above (mag (b + 1))

/-- It is the first that the magnitude does not exceed. -/
def Reaches (mag : Nat → ℚ) (c : Cut) (b : Nat) : Prop := ¬ c.below (mag b) ∧ (b = 0 ∨ c.below (mag (b - 1)))

/-- The step that a mode picks for a magnitude of a sign (R51); under stochastic rounding the step above the last that does not
exceed it if rnd < floor(D · 2^32) (R52). -/
def Picks (mag : Nat → ℚ) (rm : RM) (neg : Bool) (rnd : Nat) (c : Cut) (b : Nat) : Prop :=
  match rm with
  | .ne => Nearest mag c b
  | .tz => Truncates mag c b
  | .up => if neg then Truncates mag c b else Reaches mag c b
  | .dn => if neg then Reaches mag c b else Truncates mag c b
  | .st => ∃ t, Truncates mag c t ∧ (c.above (mag t + (rnd + 1) / 2 ^ 32 * (mag (t + 1) - mag t)) → b = t) ∧
      (¬ c.above (mag t + (rnd + 1) / 2 ^ 32 * (mag (t + 1) - mag t)) → b = t + 1)

/-- r is a nonzero magnitude of a sign, rounded into a format, with its exceptions (R51 to R53): a magnitude above the largest
finite value is converted to nearest-even where the mode is stochastic. Under fz the exceptions of a tiny value are as
without it (log 53). -/
def Rounded (p : Fmt × Nat × Nat × Nat) (rm : RM) (fz : Bool) (rnd : Nat) (neg : Bool) (c : Cut) (r : Nat × Fl) : Prop :=
  ∃ m b, ((rm = .st ∧ c.below (magnitude p.1 p.2.1)) → m = RM.ne) ∧ (¬ (rm = .st ∧ c.below (magnitude p.1 p.2.1)) → m = rm) ∧
    Picks (magnitude p.1) m neg rnd c b ∧
    (p.2.1 < b → r = (p.1.signBit neg +
        (if m = .tz ∨ (m = .up ∧ neg = true) ∨ (m = .dn ∧ neg = false) then p.2.1 else p.2.2.1),
      Fl.of ||| Fl.nx ||| (if p.1.ieee then 0 else Fl.sat))) ∧
    (b ≤ p.2.1 → (fz && p.1.flush) = true → 0 < b → b < 2 ^ p.1.mw → r = (p.1.signBit neg, Fl.uf ||| Fl.nx)) ∧
    (b ≤ p.2.1 → ((fz && p.1.flush) = false ∨ b = 0 ∨ 2 ^ p.1.mw ≤ b) → r.1 = p.1.signBit neg + b ∧
      (c.below (magnitude p.1 b) ∨ c.above (magnitude p.1 b) →
        (c.above (magnitude p.1 (2 ^ p.1.mw)) → r.2 = Fl.uf ||| Fl.nx) ∧ (¬ c.above (magnitude p.1 (2 ^ p.1.mw)) → r.2 = Fl.nx)) ∧
      (¬ (c.below (magnitude p.1 b) ∨ c.above (magnitude p.1 b)) → r.2 = 0))

/-- The value of a finite number. -/
def value : Machine.Num → ℚ
  | .fin s m e => (if s then -1 else 1) * ((m : ℚ) * 2 ^ e)
  | _ => 0

/-- A number is finite. -/
def IsFin (x : Machine.Num) : Prop := ∃ s m e, x = .fin s m e

/-- Operations on three elements with whether they read the third, and the terms that they add: sign and value (R105). -/
def floatSums : List (FloatOp × Bool × (Machine.Num → Machine.Num → Machine.Num → List (Bool × ℚ))) :=
  [ (fAdd, false, fun x y _ => [(x.neg?, value x), (y.neg?, value y)])
  , (fSub, false, fun x y _ => [(x.neg?, value x), (!y.neg?, -value y)])
  , (fMul, false, fun x y _ => [(x.neg? ^^ y.neg?, value x * value y)])
  , (fFma, true, fun x y z => [(x.neg? ^^ y.neg?, value x * value y), (z.neg?, value z)])
  , (fFms, true, fun x y z => [(!(x.neg? ^^ y.neg?), -(value x * value y)), (z.neg?, value z)]) ]

/-! ## Memory (05, 11, 12) -/

/-- Bytes of a size code (R65, R92). -/
def bytesOf (z : BitVec 3) : Nat := [1, 1, 2, 2, 4, 4, 8, 8].getD z.toNat 8

/-- A loaded value in a register (R92): codes 000, 010 and 100 extend the sign, the others extend with zeros. -/
def extended (z : BitVec 3) (v : Nat) : Word :=
  [(BitVec.ofNat 8 v).signExtend 64, (BitVec.ofNat 8 v).setWidth 64, (BitVec.ofNat 16 v).signExtend 64,
    (BitVec.ofNat 16 v).setWidth 64, (BitVec.ofNat 32 v).signExtend 64, (BitVec.ofNat 32 v).setWidth 64].getD z.toNat
    (BitVec.ofNat 64 v)

/-- Lea of R90. -/
def leaOf (p x : Word) : Word := (p &&& 0xFF00000000000000) ||| ((p + x) &&& 0x00FFFFFFFFFFFFFF)

/-- Plain loads with their facts, their effective address, their size and how the value is extended (R89, R91, R92). -/
def plainLoads (iv : BitVec 2) (d b i : BitVec 5) (o : BitVec 7) (h : BitVec 2) (z : BitVec 3) (l : BitVec 10) (sc : BitVec 4) :
    List (Instr × Info × Acc × (State → Word) × Nat × (Nat → Word)) :=
  [ (.ld iv d b o z sc, (infoLL (encode (.ld iv d b o z sc)) iv sc (gs [d, b])).need (z != 7), .load,
      fun e => leaOf (e.G b) (immV e.st.hints 7 o.toNat * BitVec.ofNat 64 (bytesOf z)), bytesOf z, extended z)
  , (.ldX iv d b i h z sc, (infoLL (encode (.ldX iv d b i h z sc)) iv sc (gs [d, b, i])).need (z != 7), .load,
      fun e => leaOf (e.G b) (e.G i <<< h.toNat), bytesOf z, extended z)
  , (.ldLit iv d l sc, infoLL (encode (.ldLit iv d l sc)) iv sc (gs [d]), .lit,
      fun e => (e.st.pc &&& 0xFFFFFFFFFFFFFFF8) + 8 * immV e.st.hints 10 l.toNat, 8, BitVec.ofNat 64) ]

/-- Plain stores with their facts and their effective address (R91); z is 000, 010, 100 or 110. -/
def plainStores (iv : BitVec 2) (d b i : BitVec 5) (o : BitVec 7) (h : BitVec 2) (z : BitVec 3) (sc : BitVec 4) :
    List (Instr × Info × (State → Word)) :=
  [ (.st iv d b o z sc, (infoR (encode (.st iv d b o z sc)) iv sc (gs [d, b])).need (z.getLsbD 0 == false),
      fun e => leaOf (e.G b) (immV e.st.hints 7 o.toNat * BitVec.ofNat 64 (bytesOf z)))
  , (.stX iv d b i h z sc, (infoR (encode (.stX iv d b i h z sc)) iv sc (gs [d, b, i])).need (z.getLsbD 0 == false),
      fun e => leaOf (e.G b) (e.G i <<< h.toNat)) ]

/-- The line as a load of the core sees it (R94): the read cache's copy or the memory side's line, the core's buffered
stores laid over it. -/
def lineSeen (e : State) (core line : Nat) : Line :=
  (e.core core).merge line (match (e.core core).cached line with
    | some c => c.data
    | none => e.lineAt line)

/-- The lock a load of the core compares with (R206): the cached copy's, or the memory side's. -/
def lockSeen (e : State) (core addr : Nat) : BitVec 4 :=
  match (e.core core).cached (Memory.line addr) with
  | some c => if addr % 64 < 32 then c.lock0 else c.lock1
  | none => e.lockAt addr

/-- The state a plain load of a strand finds (R225, R230): an uncached line of die or private memory is read at its owner's
memory side, behind the strand's own writes from dies it has left and those ahead on the path. -/
def findsFor (x : Strand) (e : State) (addr : Nat) : State :=
  if spaceOf addr = .scratch ∨ ((e.core x.core).cached (Memory.line addr)).isSome then e
  else (e.behind x (Memory.line addr)).reach (dieOf x.core) (Memory.line addr)

/-- The state a plain load of the strand in issue finds. -/
def loadFinds (e : State) (addr : Nat) : State := findsFor e.st e addr

/-- The n bytes that a plain load of a strand gets at a target (R94, R200). -/
def seenBy (x : Strand) (e : State) (tgt : Target) (n : Nat) : Nat :=
  if spaceOf tgt.addr = .scratch then Memory.readN e.mem tgt.addr n
  else Line.bytes (lineSeen (findsFor x e tgt.addr) x.core (Memory.line tgt.addr)) (tgt.addr - Memory.line tgt.addr) n

/-- A plain load of a strand at an address has taken e to m: no byte has changed beyond the writes it found ahead of it, no
store has left the buffer, and the read cache holds nothing but what it held and the line as it was found (R94, R206). -/
structure LoadStep (x : Strand) (e m : State) (addr : Nat) : Prop where
  bytes : BytesKept (findsFor x e addr) m
  locks : m.locks = e.locks
  dies  : m.dies = (findsFor x e addr).dies
  sbuf  : (m.core x.core).sbuf = (e.core x.core).sbuf
  cache : ∀ line c, (m.core x.core).cached line = some c →
    (e.core x.core).cached line = some c ∨ (line = Memory.line addr ∧ c.data = (findsFor x e addr).lineAt line)

/-- Loads of n bytes at a list of addresses, one after the other, have given these values and have taken e to t. -/
def LoadsInOrder (x : Strand) (n : Nat) : State → List Word → List Nat → State → Prop
  | e, [], vals, t => vals = [] ∧ t = e
  | e, a :: l, vals, t => ∃ tgt m rest, e.find x a = some tgt ∧ vals = seenBy x e tgt n :: rest ∧ LoadStep x e m tgt.addr ∧
      LoadsInOrder x n m l rest t

/-- The state a plain store finds (R95, R209, R230): behind the strand's own writes to the line from dies it has left, and,
where it reads the granule's lock at the memory side, behind the writes ahead on the path. -/
def storeFinds (e : State) (tgt : Target) : State :=
  if tgt.t = true ∧ ((e.core e.st.core).cached (Memory.line tgt.addr)).isNone then
    (e.behind e.st (Memory.line tgt.addr)).reach (dieOf e.st.core) (Memory.line tgt.addr)
  else e.behind e.st (Memory.line tgt.addr)

/-- Atomics of a size bit with the new value of the old one and of G[b], both of w bits (R237). -/
def amos (iv : BitVec 2) (d a b : BitVec 5) (z : BitVec 1) (sc : BitVec 4) : List (Instr × ((w : Nat) → BitVec w → BitVec w → BitVec w)) :=
  [ (.amoAdd iv d a b z sc, fun _ x y => x + y), (.amoAnd iv d a b z sc, fun _ x y => x &&& y)
  , (.amoOr iv d a b z sc, fun _ x y => x ||| y), (.amoXor iv d a b z sc, fun _ x y => x ^^^ y)
  , (.amoMin iv d a b z sc, fun _ x y => if y.slt x then y else x), (.amoMax iv d a b z sc, fun _ x y => if x.slt y then y else x)
  , (.amoMinn iv d a b z sc, fun _ x y => if y.ult x then y else x), (.amoMaxn iv d a b z sc, fun _ x y => if x.ult y then y else x)
  , (.amoSwap iv d a b z sc, fun _ _ y => y) ]

/-- Whether a unit's modifier makes an atomic release, and whether it makes its scope .pkg (R239): the default is .ar .die. -/
def releases (e : State) : Bool := !(modData e.st.hints).testBit 17 || (modData e.st.hints).testBit 16
def atPkg (e : State) : Bool := (modData e.st.hints).testBit 17 && modData e.st.hints / 2 ^ 12 % 8 == 3

/-- What a release of a strand has performed first (R222, log 43): every write on the paths of the dies it has left, and at
scope .pkg every write on the paths of its die. -/
def releasedAt (e : State) (x : Strand) (release pkg : Bool) : State :=
  if release then (if pkg then e.flushOf x else e.flushLeft x) else e

/-- The state in which a strong store at the memory side is performed (R222, R225): released writes first, then the writes
ahead of it on its own path. -/
def performedAt (e : State) (x : Strand) (release pkg : Bool) (addr : Nat) : State :=
  (releasedAt e x release pkg).reach (dieOf x.core) (Memory.line addr)

/-- What the drain of a store buffer writes to a byte of its own die's memory (R205, R334): the youngest of its lines that holds
the byte, revoked bytes apart. -/
def drainedByte (e : State) (core a : Nat) : Option Byte :=
  (((e.core core).sbuf.filter fun l => e.ownerDie l.line == dieOf core && !e.freed l.line).reverse.find? fun l =>
    decide (l.line ≤ a) && decide (a < l.line + 64) && l.mask.getLsbD (a - l.line) && !l.dead.getLsbD (a - l.line)).map fun l =>
      l.data.extractLsb' (8 * (a - l.line)) 8

/-- The lines that the drain gives to the path to another die, in the order in which the buffer holds them (R218, R225). -/
def drainedLines (e : State) (core die : Nat) : List PathWrite :=
  ((e.core core).sbuf.filter fun l => e.ownerDie l.line == die).map fun l =>
    { line := l.line, mask := l.mask &&& ~~~l.dead, data := l.data, strong := false, pid := l.pid, vas := l.vas }

/-- A core's store buffer has drained (R205, R218): lines of its own die's pages are written, those of another die's stand at
the end of the path to it, and no other byte and no other path has changed. -/
structure Drained (e t : State) (core : Nat) : Prop where
  empty    : (t.core core).sbuf = []
  bytes    : ∀ a, Memory.read t.mem a = (drainedByte e core a).getD (Memory.read e.mem a)
  accepted : ∀ die, die ≠ dieOf core → (t.path (dieOf core) die).writes = (e.path (dieOf core) die).writes ++ drainedLines e core die ∧
    (t.path (dieOf core) die).accepted = (e.path (dieOf core) die).accepted + (drainedLines e core die).length
  own      : t.path (dieOf core) (dieOf core) = e.path (dieOf core) (dieOf core)
  paths    : ∀ src die, src ≠ dieOf core → t.path src die = e.path src die
  locks    : t.locks = e.locks
  poison   : t.poison = e.poison

/-! ## Vectors (06) -/

/-- The tag of V[a], as a number. -/
def tagOf (e : State) (a : BitVec 4) : Nat := (e.st.V a).tag.toNat

/-- Units and their width in the format of V[a] (R12, R44). -/
def unitsIn (e : State) (a : BitVec 4) : Nat := unitsOf (e.st.V a).tag (e.st.rows * e.st.cols)
def widthIn (e : State) (a : BitVec 4) : Nat := widthOf (e.st.V a).tag

/-- V[a] carries one of the tags, and the shape fits its format. -/
def Ready (e : State) (a : BitVec 4) (tags : List Nat) : Prop :=
  tagOf e a ∈ tags ∧ tagOf e a ≠ 15 ∧ Fits e (Wf.tagHalf (e.st.V a).tag)

/-- Element-wise arithmetic of two sources (R105, R106): the tags accepted, whether integers are signed, whether .sat clamps,
the integer and the floating-point operation. -/
def vectorTwo (iv : BitVec 2) (d a b : BitVec 4) (k : BitVec 3) (sc : BitVec 4) :
    List (Instr × List Nat × Bool × Bool × IntOp × FloatOp) :=
  [ (.vadd iv d a b k sc, [1, 2, 3, 4, 7, 8, 9, 10], true, true, fun x y _ => x + y, fAdd)
  , (.vaddN iv d a b k sc, [1, 2, 3, 4], false, true, fun x y _ => x + y, noFloat)
  , (.vsub iv d a b k sc, [1, 2, 3, 4, 7, 8, 9, 10], true, true, fun x y _ => x - y, fSub)
  , (.vsubN iv d a b k sc, [1, 2, 3, 4], false, true, fun x y _ => x - y, noFloat)
  , (.vmul iv d a b k sc, [1, 2, 3, 4, 7, 8, 9], true, true, fun x y _ => x * y, fMul)
  , (.vmulN iv d a b k sc, [1, 2, 3, 4], false, true, fun x y _ => x * y, noFloat)
  , (.vmin iv d a b k sc, [1, 2, 3, 4, 7, 8, 9], true, false, fun x y _ => min x y, fPick false)
  , (.vminN iv d a b k sc, [1, 2, 3, 4], false, false, fun x y _ => min x y, noFloat)
  , (.vmax iv d a b k sc, [1, 2, 3, 4, 7, 8, 9], true, false, fun x y _ => max x y, fPick true)
  , (.vmaxN iv d a b k sc, [1, 2, 3, 4], false, false, fun x y _ => max x y, noFloat)
  , (.vavg iv d a b k sc, [1, 2, 3, 4], true, false, fun x y _ => (x + y + 1) / 2, noFloat)
  , (.vavgN iv d a b k sc, [1, 2, 3, 4], false, false, fun x y _ => (x + y + 1) / 2, noFloat) ]

/-- Multiply and accumulate into V[d], which carries the operating format too (R105). -/
def vectorThree (iv : BitVec 2) (d a b : BitVec 4) (k : BitVec 3) (sc : BitVec 4) : List (Instr × IntOp × FloatOp) :=
  [ (.vfma iv d a b k sc, fun x y z => x * y + z, fFma), (.vfms iv d a b k sc, fun x y z => z - x * y, fFms) ]

/-- Arithmetic of one source (R105). -/
def vectorOne (iv : BitVec 2) (d a : BitVec 4) (k : BitVec 3) (sc : BitVec 4) : List (Instr × List Nat × IntOp × FloatOp) :=
  [ (.vabs iv d a k sc, [1, 2, 3, 4, 7, 8, 9], fun x _ _ => if x < 0 then -x else x, fAbs)
  , (.vneg iv d a k sc, [1, 2, 3, 4, 7, 8, 9, 10], fun x _ _ => -x, fNeg) ]

/-- Logic and shifts of w-bit elements (R105, R106): any format for the logic, integers for the shifts, whose count is the
whole unsigned element. -/
def vectorBits (iv : BitVec 2) (d a b : BitVec 4) (k : BitVec 3) (sc : BitVec 4) :
    List (Instr × List Nat × ((w : Nat) → BitVec w → BitVec w → BitVec w)) :=
  [ (.vand iv d a b k sc, List.range 15, fun _ x y => x &&& y), (.vor iv d a b k sc, List.range 15, fun _ x y => x ||| y)
  , (.vxor iv d a b k sc, List.range 15, fun _ x y => x ^^^ y), (.vandn iv d a b k sc, List.range 15, fun _ x y => x &&& ~~~y)
  , (.vshl iv d a b k sc, [1, 2, 3, 4], fun _ x y => x <<< y.toNat), (.vshr iv d a b k sc, [1, 2, 3, 4], fun _ x y => x >>> y.toNat)
  , (.vsra iv d a b k sc, [1, 2, 3, 4], fun _ x y => x.sshiftRight y.toNat) ]

/-- Forms of two sources whose second is the scalar register's low bits (R116): whether V[d] is read. -/
def vectorScalar (iv : BitVec 2) (d a : BitVec 4) (g : BitVec 5) (k : BitVec 3) (sc : BitVec 4) :
    List (Instr × List Nat × Bool × Bool × IntOp × FloatOp) :=
  [ (.vadds iv d a g k sc, [1, 2, 3, 4, 7, 8, 9], true, false, fun x y _ => x + y, fAdd)
  , (.vaddsN iv d a g k sc, [1, 2, 3, 4], false, false, fun x y _ => x + y, noFloat)
  , (.vmuls iv d a g k sc, [1, 2, 3, 4, 7, 8, 9], true, false, fun x y _ => x * y, fMul)
  , (.vmulsN iv d a g k sc, [1, 2, 3, 4], false, false, fun x y _ => x * y, noFloat)
  , (.vfmas iv d a g k sc, [1, 2, 3, 4, 7, 8, 9], true, true, fun x y z => x * y + z, fFma) ]

/-- The scale field that a result takes from V[a] (R101). -/
def scaleFrom (e : State) (a : BitVec 4) : Word := if tagOf e a = 13 ∨ tagOf e a = 14 then (e.st.V a).scale else 0

/-- Selection and permutation (R108): the mask under which it writes, what its sources must be, and where unit i comes from. -/
def vectorMoves (iv : BitVec 2) (d a b n : BitVec 4) (k : BitVec 3) (sc : BitVec 4) :
    List (Instr × List RegName × Bool × (State → Prop) × (State → Nat → Option (BitVec 4 × Nat))) :=
  [ (.vsel iv d a b k sc, vs [d, a, b] ++ ks [k], true, fun e => tagOf e a ≠ 15 ∧ tagOf e b = tagOf e a,
      fun e i => some (if (e.st.K k).getLsbD i then a else b, i))
  , (.vperm iv d a b k sc, vs [d, a, b] ++ ks [k], false, fun e => tagOf e a ≠ 12 ∧ tagOf e a ≠ 15 ∧ tagOf e b = 1,
      fun e i => if unitAt (e.st.V b) 8 i < e.st.rows * e.st.cols then some (a, unitAt (e.st.V b) 8 i) else none)
  , (.vtrn iv d a k sc, vs [d, a] ++ ks [k], false, fun e => tagOf e a ≠ 12 ∧ tagOf e a ≠ 15,
      fun e i => some (a, i % e.st.rows * e.st.cols + i / e.st.rows))
  , (.vrowb iv d a n k sc, vs [d, a] ++ ks [k], false, fun e => tagOf e a ≠ 12 ∧ tagOf e a ≠ 15 ∧ n.toNat < e.st.rows,
      fun e i => some (a, n.toNat * e.st.cols + i % e.st.cols))
  , (.vcolb iv d a n k sc, vs [d, a] ++ ks [k], false, fun e => tagOf e a ≠ 12 ∧ tagOf e a ≠ 15 ∧ n.toNat < e.st.cols,
      fun e i => some (a, i / e.st.cols * e.st.cols + n.toNat))
  , (.vslide iv d a n k sc, vs [d, a] ++ ks [k], false, fun e => tagOf e a ≠ 12 ∧ tagOf e a ≠ 15,
      fun e i => if i + n.toNat < e.st.rows * e.st.cols then some (a, i + n.toNat) else none) ]

/-- Compares into K[d] (R107): the tags accepted, the signedness of integers, and the relation. -/
def vectorCompares (iv : BitVec 2) (d : BitVec 3) (a b : BitVec 4) (k : BitVec 3) (sc : BitVec 4) :
    List (Instr × List Nat × Bool × (Order → Bool) × Bool) :=
  [ (.vcmpEq iv d a b k sc, [1, 2, 3, 4, 5, 6, 7, 8, 9, 10], true, fun o => o == .equal, true)
  , (.vcmpNe iv d a b k sc, [1, 2, 3, 4, 5, 6, 7, 8, 9, 10], true, fun o => o != .equal, false)
  , (.vcmpLt iv d a b k sc, [1, 2, 3, 4, 5, 6, 7, 8, 9], true, fun o => o == .less, true)
  , (.vcmpLtN iv d a b k sc, [1, 2, 3, 4], false, fun o => o == .less, true)
  , (.vcmpLe iv d a b k sc, [1, 2, 3, 4, 5, 6, 7, 8, 9], true, fun o => o == .less || o == .equal, true)
  , (.vcmpLeN iv d a b k sc, [1, 2, 3, 4], false, fun o => o == .less || o == .equal, true)
  , (.vcmpUnord iv d a b k sc, [5, 6, 7, 8, 9], true, fun o => o == .unordered, true) ]

/-- Reductions of the whole shape into G[g] (R109). -/
def reductionsAll (iv : BitVec 2) (a : BitVec 4) (g : BitVec 5) (k : BitVec 3) (sc : BitVec 4) : List (Instr × RedOp × Bool) :=
  [ (.vredAddAll iv a g k sc, redAdd, true), (.vredMinAll iv a g k sc, redMin, true), (.vredMaxAll iv a g k sc, redMax, true)
  , (.vredAndAll iv a g k sc, redAnd, false), (.vredOrAll iv a g k sc, redOr, false), (.vredAmaxAll iv a g k sc, redAmax, false)
  , (.vredMinNAll iv a g k sc, redMinN, false), (.vredMaxNAll iv a g k sc, redMaxN, false) ]

/-- Reductions by row and by column (R109), with whether it is by row. -/
def reductionsLines (iv : BitVec 2) (d a : BitVec 4) (k : BitVec 3) (sc : BitVec 4) : List (Instr × RedOp × Bool) :=
  [ (.vredAddRow iv d a k sc, redAdd, true), (.vredMinRow iv d a k sc, redMin, true), (.vredMaxRow iv d a k sc, redMax, true)
  , (.vredAndRow iv d a k sc, redAnd, true), (.vredOrRow iv d a k sc, redOr, true), (.vredAmaxRow iv d a k sc, redAmax, true)
  , (.vredMinNRow iv d a k sc, redMinN, true), (.vredMaxNRow iv d a k sc, redMaxN, true)
  , (.vredAddCol iv d a k sc, redAdd, false), (.vredMinCol iv d a k sc, redMin, false), (.vredMaxCol iv d a k sc, redMax, false)
  , (.vredAndCol iv d a k sc, redAnd, false), (.vredOrCol iv d a k sc, redOr, false), (.vredAmaxCol iv d a k sc, redAmax, false)
  , (.vredMinNCol iv d a k sc, redMinN, false), (.vredMaxNCol iv d a k sc, redMaxN, false) ]

/-- The active elements of V[a] at a list of indices, in the order of the list (R110). -/
def elementsAt (e : State) (a : BitVec 4) (k : BitVec 3) (l : List Nat) : List Nat :=
  (l.filter (e.st.K k).getLsbD).map (unitAt (e.st.V a) (widthIn e a))

/-- Special functions of one operand (R55, R115). -/
def specials (iv : BitVec 2) (d a : BitVec 4) (k : BitVec 3) (sc : BitVec 4) : List (Instr × (Machine.Num → Machine.Num × Fl)) :=
  [ (.vrcp iv d a k sc, rcpNum), (.vrsq iv d a k sc, rsqNum), (.vsqrt iv d a k sc, sqrtNum), (.vexp2 iv d a k sc, exp2Num)
  , (.vlog2 iv d a k sc, log2Num), (.vsinpi iv d a k sc, sinpiNum), (.vcospi iv d a k sc, cospiNum), (.vtanh iv d a k sc, tanhNum) ]

/-- Address of unit i of a vector load or store (R117), unit i standing for element i, or for elements 2i and 2i + 1 of
int4: contiguous, by rows of a pitch G[b + 1], or by columns of that pitch. -/
def layoutAddr (e : State) (b : BitVec 5) (l : BitVec 2) (t : BitVec 4) (i : Nat) : Word :=
  let size := widthOf t / 8
  let el := if t = 12 then 2 * i else i
  let r := BitVec.ofNat 64 (el / e.st.cols)
  let c := el % e.st.cols
  if l = 0 then leaOf (e.G b) (BitVec.ofNat 64 (i * size))
  else if l = 1 then leaOf (e.G b) (r * e.G (b + 1) + BitVec.ofNat 64 (if t = 12 then c / 2 else c * size))
  else leaOf (e.G b) (BitVec.ofNat 64 c * e.G (b + 1) + r * BitVec.ofNat 64 size)

/-- Address of element i of a gather or scatter (R120): the signed index of V[x], shifted. -/
def gatherAddr (e : State) (b : BitVec 5) (x : BitVec 4) (l : BitVec 2) (i : Nat) : Word :=
  leaOf (e.G b) ((BitVec.ofNat (widthIn e x) (unitAt (e.st.V x) (widthIn e x) i)).signExtend 64 <<< l.toNat)

/-- Every address of a list may be loaded from by the strand in issue (R95): checks 1 to 6 pass, the bytes lie in die or
private memory or in the scratchpad, their line is not poisoned, and the key is the granule's lock, in the read cache as at
the memory side. -/
def Loadable (e : State) (size : Nat) (l : List Word) : Prop :=
  ∀ a ∈ l, ∃ tgt, Granted e .load a size tgt ∧
    (spaceOf tgt.addr = .dieMem ∨ spaceOf tgt.addr = .priv ∨ spaceOf tgt.addr = .scratch) ∧
    e.poisoned (Memory.line tgt.addr) = false ∧
    (tgt.t = true → keyOf a = lockSeen e e.st.core tgt.addr ∧ keyOf a = e.lockAt tgt.addr)

/-- Every load of a list may be made: each address may be loaded from, or the loads succeed one after the other. -/
def MayLoad (e : State) (size : Nat) (l : List Word) : Prop :=
  Loadable e size l ∨ ∃ vals e', e.loadList e.st size e.policy l = .ok vals e'

/-- Loads at a list of addresses are outstanding in the active units of V[d], as PlainLoad gives each its value (R119). -/
def VectorLoaded (e t : State) (inf : Info) (d : BitVec 4) (k : BitVec 3) (tag : BitVec 4) (scale : Word) (n w : Nat) (l : List Word) :
    Prop :=
  ∃ r vals e', LoadsInOrder e.st (w / 8) e l vals e' ∧ BytesKept e' t ∧ t.locks = e.locks ∧
    Lanes r (e.st.V d) (e.st.K k) tag scale n w (fun _ j => (vals.getD j 0, 0)) ∧ Outstanding e t inf (vs [d]) [.v d r]

/-- The active units of n, lowest first. -/
def activeOnes (e : State) (k : BitVec 3) (n : Nat) : List Nat := (List.range n).filter (e.st.K k).getLsbD

/-- What a core sees of a line after a list of stores of n bytes each, later ones over earlier ones: its byte i. -/
def overlaid (stores : List (Target × Nat)) (n line i : Nat) (old : Byte) : Byte :=
  stores.foldl (fun b p =>
    if line = Memory.line p.1.addr ∧ p.1.addr ≤ line + i ∧ line + i < p.1.addr + n then
      BitVec.ofNat 8 (p.2 / 2 ^ (8 * (line + i - p.1.addr))) else b) old

/-- Mask operations over all 256 bits (R124). -/
def maskOps (iv : BitVec 2) (d a b : BitVec 3) (h l sc : BitVec 4) : List (Instr × List (BitVec 3) × (State → BitVec 256)) :=
  [ (.kand iv d a b sc, [d, a, b], fun e => e.st.K a &&& e.st.K b), (.kor iv d a b sc, [d, a, b], fun e => e.st.K a ||| e.st.K b)
  , (.kxor iv d a b sc, [d, a, b], fun e => e.st.K a ^^^ e.st.K b), (.knot iv d a sc, [d, a], fun e => ~~~(e.st.K a))
  , (.kmov iv d a sc, [d, a], fun e => e.st.K a)
  , (.kset iv d h l sc, [d], fun _ => BitVec.allOnes 256 >>> (255 - (h ++ l).toNat)) ]

/-- Counts over the shape's bits of a mask into G[d] (R124), with what check 4 asks of the field that they do not use (R61). -/
def maskCounts (iv : BitVec 2) (d : BitVec 4) (a : BitVec 3) (b sc : BitVec 4) : List (Instr × Bool × (List Bool → Nat)) :=
  [ (.kpop iv d a sc, true, fun l => l.count true), (.kany iv d a b sc, b == 0, fun l => if true ∈ l then 1 else 0)
  , (.kall iv d a b sc, b == 0, fun l => if false ∈ l then 0 else 1) ]

/-! ## Events and waiting strands -/

/-- The instruction or event answers a next state of which something holds. -/
def Gives (i : Instr) (s : State) (p : State → Prop) : Prop := ∃ t, exec i s = .next t ∧ p t

/-- The strand in issue is live and stands beside the others, not among them. -/
def Issuing (e : State) : Prop := e.st.live = true ∧ Assoc.get e.strands e.st.sid.toNat = none

/-- The strand in issue waits at its unit: no register has changed, and the unit has not ended. -/
structure Waits (e t : State) (w : Wait) : Prop where
  g     : KeepsG e t
  wait  : t.st.wait = some w
  pc    : t.st.pc = e.st.pc
  hints : t.st.hints = e.st.hints

/-! ## Fabric space (22) -/

/-- Where a store to a fabric address goes (R370, R373, R374): device, receive window, offset. -/
def destinations (e : State) (a : Nat) : List (Nat × Nat × Nat) :=
  if isPod a then [(podDev a, podRx a, podOff a)] else e.copiesOf e.st.pid (fabWin a) (fabOff a)

/-- A store of n bytes to a fabric address passes R370, finds room (R376), and every destination is this device or has a
route, as has every copy under way. -/
structure Sendable (e : State) (a n : Nat) : Prop where
  window : isPod a = false → fabOff a + n ≤ e.txLen e.st.pid (fabWin a) ∧ e.txEn e.st.pid (fabWin a) = true ∧
    e.txDown e.st.pid (fabWin a) = false
  room   : (e.hub.copies.filter fun c => c.pid == e.st.pid && !c.shown).length < 4096
  routes : ∀ d ∈ destinations e a, d.1 = e.hub.device ∨ (Assoc.getD e.hub.routes d.1 0).getLsbD 15 = true
  flying : ∀ c ∈ e.hub.copies, c.dev = e.hub.device ∨ c.route.getLsbD 15 = true

/-- Copies have left (R373): one to each destination in order, with the data, and behind each, if there is a flag, an
increment at the flag's offset (R254); no byte of memory has changed. -/
structure Sent (e t : State) (a : Nat) (bytes : List Byte) (flag : Option Nat) : Prop where
  copies : ∃ l, t.hub.copies = e.hub.copies ++ l ∧
    l.map (fun c => (c.sid, c.pid, c.dev, c.rx, c.off, c.bytes, c.flag, c.shown)) =
      ((destinations e a).map fun d => (e.st.sid.toNat, e.st.pid, d.1, d.2.1, d.2.2, bytes, false, false) ::
        (match flag with | some f => [(e.st.sid.toNat, e.st.pid, d.1, d.2.1, f, [], true, false)] | none => [])).flatten
  bytes  : BytesKept e t
  cores  : t.cores = e.cores
  quads  : t.quads = e.quads
  dies   : t.dies = e.dies

/-- The low n bytes of a word, lowest first (R5). -/
def wordBytes (x : Word) (n : Nat) : List Byte := (List.range n).map fun i => x.extractLsb' (8 * i) 8

/-! ## Deferred faults (R318, R321, R346) -/

/-- The level that handles a cause (R318): the hypervisor's if hdlg does not pass it on, else the supervisor's if sdlg does
not, else the user's, and never one below the strand's own mode. -/
def levelOf (x : Strand) (c : BitVec 8) : Mode :=
  let h : Mode := if dlgBit x.hdlg c = false then .hypervisor else if dlgBit x.sdlg c = false then .supervisor else .user
  if h.code ≤ x.ctl.priv.code then x.ctl.priv else h

/-- A strand's pending list has a further fault, at the level that handles its cause: the last, but for those of a larger
code that became due in the same cycle. -/
def FaultDue (s : State) (x y : Strand) (c : BitVec 8) (tval : Word) : Prop :=
  ∃ l r, x.pending = l ++ r ∧ y.pending = l ++ ⟨c, tval, levelOf x c⟩ :: r ∧
    (r ≠ [] → x.dueAt = s.clk.toNat ∧ r.length ≤ x.dueLast) ∧ ∀ d ∈ r.head?, c.toNat < d.cause.toNat

/-! ## Register sets (R174) -/

/-- A register-set word selects g register n of the strand, or v register n. -/
def picksG (x : Strand) (m : Word) (n : Nat) : Bool :=
  decide (1 ≤ n) && decide (n < (if x.cls = .light then 8 else 32)) && m.getLsbD n
def picksV (x : Strand) (m : Word) (n : Nat) : Bool := decide (x.cls = .full) && decide (n < 16) && m.getLsbD (32 + n)

/-- arr AND M in the layout of R174. -/
def arrivedIn (x : Strand) (m : Word) (i : Nat) : Bool :=
  if i < 32 then picksG x m i && x.ctl.larr.getLsbD i else picksV x m (i - 32) && x.ctl.lvarr.getLsbD (i - 32)

/-- open AND M in the same layout. -/
def openAt (x : Strand) (m : Word) (i : Nat) : Bool :=
  if i < 32 then picksG x m i && x.ctl.lmask.getLsbD i else picksV x m (i - 32) && x.ctl.lvmask.getLsbD (i - 32)

/-- The unit consumes the arrival bits of M (R183): they go to G[d] and are cleared, no other bit and no other register
changes. -/
structure Consumes (e t : State) (d : BitVec 5) (m : Word) : Prop where
  g      : ∃ y, SetsG e t d y ∧ ∀ i, i < 64 → y.getLsbD i = arrivedIn e.st m i
  larr   : ∀ n, t.st.ctl.larr.getLsbD n = (e.st.ctl.larr.getLsbD n && !picksG e.st m n)
  lvarr  : ∀ n, t.st.ctl.lvarr.getLsbD n = (e.st.ctl.lvarr.getLsbD n && !picksV e.st m n)
  rest   : t.st.ctl = { e.st.ctl with larr := t.st.ctl.larr, lvarr := t.st.ctl.lvarr }
  vector : VectorKept e t
  units  : UnitsKept e t
  ended  : Ended e t e.nextPc

/-! ## Barriers (R188 to R191) -/

/-- The barrier instructions with their registers, their scope, and the destination and source of a bmax. -/
noncomputable def barriers (iv : BitVec 2) (d a b : BitVec 5) (sc : BitVec 4) : List (Instr × List (BitVec 5) × Scope × Option (BitVec 5 × BitVec 5)) :=
  [ (.barQuad iv a sc, [a], .quad, none), (.barDie iv a sc, [a], .die, none)
  , (.barPkg iv a sc, [a], .pkg, none), (.barPod iv a sc, [a], .pod, none)
  , (.bmaxQuad iv d a b sc, [d, a, b], .quad, some (d, b)), (.bmaxDie iv d a b sc, [d, a, b], .die, some (d, b))
  , (.bmaxPkg iv d a b sc, [d, a, b], .pkg, some (d, b)), (.bmaxPod iv d a b sc, [d, a, b], .pod, some (d, b)) ]

/-- The largest of two offers of a bmax (R189): sign dropped, a NaN canonical and above every number. -/
def offered (y : Word) : Nat :=
  if 0x7F800000 < (y &&& 0x7FFFFFFF).toNat then 0x7FC00000 else (y &&& 0x7FFFFFFF).toNat

/-- An arrival of the strand in issue at a context would be the last one (R188, R382). -/
def Last (e : State) (scope : Scope) (ctx n : Nat) : Prop :=
  if scope = .pod then e.podRoot (ctx / 16) (ctx % 16) = true ∧ (e.pod ctx).counted + 1 = n
  else (e.episode scope ctx).sids.length + 1 = n

/-- The arrival counts: the context is allotted, N agrees with the episode, no arrival of the strand is counted already, and
its landings are written. -/
structure Arrives (e : State) (scope : Scope) (ctx n : Nat) (isMax : Bool) (desc : Word) : Prop where
  allotted : e.barCtx e.st scope (desc.toNat % 64) = some ctx
  count   : n = desc.toNat / 2 ^ 32 ∧ n ≠ 0
  agrees  : (e.episode scope ctx).n = 0 ∨ ((e.episode scope ctx).n = n ∧ (e.episode scope ctx).isMax = isMax)
  fresh   : e.st.counted = none
  landed  : ∀ l ∈ e.hub.landings, l.sender ≠ e.st.sid.toNat
  issuing : Issuing e ∧ e.st.place = .resident

/-- The unit of a bar or bmax has completed, as the arrival that ends its episode (R188, R189, R190): the context is free; G[d] of a
bmax holds the largest magnitude offered, a bar writes no register. -/
structure EndsEpisode (e t : State) (scope : Scope) (ctx : Nat) (max? : Option (BitVec 5 × BitVec 5)) : Prop where
  pc      : t.st.pc = e.nextPc
  unit    : t.st.wait = none ∧ t.st.hints = []
  counted : t.st.counted = none
  free    : (t.episode scope ctx).n = 0 ∧ (t.episode scope ctx).sids = []
  bar     : max? = none → KeepsG e t
  bmax    : ∀ q ∈ max?, SetsG e t q.1 (BitVec.ofNat 64 (max (e.episode scope ctx).mag.toNat (offered (e.G q.2))))

/-- The arrival is counted, and it is the last of its episode. -/
def LastArrival (e : State) (scope : Scope) (ctx n : Nat) (isMax : Bool) (desc : Word) : Prop :=
  Arrives e scope ctx n isMax desc ∧ Last e scope ctx n

/-- The strand's arrival at this bar was counted before and its episode has been released since, with a value (R191). -/
def ReleasedBefore (e : State) (scope : Scope) (k : Counted) (v : Word) : Prop :=
  e.st.counted = some k ∧ k.head = e.st.pc ∧ k.scope = scope ∧ k.result = some v

/-! ## Strands (09) -/

/-- A live strand of a sid stands so. -/
def Stands (t : State) (sid : Nat) (p : Strand → Prop) : Prop := ∃ y, t.strand sid = some y ∧ p y

/-- An entry address that R176 accepts. -/
def Entry0 (a : Word) : Prop := a.toNat / 2 ^ 60 = 0 ∧ a.toNat % 4 = 0

/-- The sid of the next strand of a kind in a slot (R127, R128), while no live strand has it. -/
def nextSid (e : State) (slot kind : Nat) : Nat := mkSid (e.slot slot).gen.toNat slot kind ((e.slot slot).counter kind)

/-- A child as R176 creates it: its class, core, place and pc, g1 the argument, g2 the parent's sid, the parent's mode. -/
structure Child (e : State) (y : Strand) (cls : Cls) (core : Nat) (place : Place) (pc arg : Word) : Prop where
  cls   : y.cls = cls
  core  : y.core = core
  place : y.place = place
  pc    : y.pc = pc
  g1    : y.G 1 = arg
  g2    : y.G 2 = e.st.sid.setWidth 64
  mode  : y.ctl.priv = e.st.ctl.priv
  laTrap : y.ctl.laTrap = e.st.ctl.laTrap
  ext   : y.ext = (e.slot (sidSlot e.st.sid.toNat)).ext
  rest  : y.wait = none ∧ y.hints = [] ∧ y.inflight = [] ∧ y.pending = []

/-! ## Creel (08) -/

/-- The shift of a domain as a push finds it (R156): of the launch slot that an idle domain is bound to. -/
def pushShift (e : State) : Nat := match (e.dom e.st.pid).bound with
  | some _ => (e.dom e.st.pid).cshift.toNat
  | none => (e.slot (sidSlot e.st.sid.toNat)).cshift.toNat

/-- No record of the far list of the strand's die lies within 64 buckets of the base, under a shift (R160). -/
def FarAway (e : State) (shift : Nat) : Prop :=
  ∀ t ∈ e.farList e.st.pid (dieOf e.st.core), (e.creel (dieOf e.st.core) e.st.pid).base + 64 ≤ t.prio.toNat / 2 ^ shift

/-- No far record of a die lies within 64 buckets of the base (R160). -/
def FarOff (s : State) (p die : Nat) : Prop := ∀ t ∈ s.farList p die, (s.creel die p).base + 64 ≤ s.absBucket p t

/-- Values e have joined those that a member has gathered: the last of a device in the place of those before. -/
def Gathered (s t : State) (p : Nat) (e : WaveEntry) : Prop :=
  ∀ f, f ∈ (t.dom p).gather ↔ f = e ∨ (f ∈ (s.dom p).gather ∧ f.device ≠ e.device)

/-- Values have gone to the parent, if there is a route. -/
def SentUp (s t : State) (p : Nat) (l : List WaveEntry) : Prop :=
  (Assoc.getD s.hub.routes (s.podParent p (s.crPdom p)) 0).getLsbD 15 = true →
    t.hub.control = s.hub.control ++ l.map fun e =>
      ⟨p, ⟨s.hub.device, s.hub.inc, Assoc.getD s.hub.peers (s.podParent p (s.crPdom p)) 0⟩, s.podParent p (s.crPdom p),
        .waveUp (s.crPdom p) e⟩

/-- Values e have come to a member of the domain's group from a child, or are its own where the child is the device itself (R383):
the root gathers them; another forwards what a child passes on, notes a child's own values, and sends its own behind those of all
its children (log 59). No byte of memory has changed. -/
structure WaveGoesUp (s t : State) (p child : Nat) (e : WaveEntry) : Prop where
  bytes  : BytesKept s t
  root   : s.podRoot p (s.crPdom p) = true → Gathered s t p e ∧ t.hub.control = s.hub.control
  passes : s.podRoot p (s.crPdom p) = false → e.device ≠ child → SentUp s t p [e] ∧ (t.dom p).gather = (s.dom p).gather
  waits  : s.podRoot p (s.crPdom p) = false → e.device = child →
    (∃ d ∈ s.hub.device :: s.podKids p (s.crPdom p), d ≠ child ∧ ∀ f ∈ (s.dom p).gather, f.device ≠ d) →
    Gathered s t p e ∧ SentUp s t p (if child = s.hub.device then [] else [e])
  whole  : s.podRoot p (s.crPdom p) = false → e.device = child →
    (∀ d ∈ s.hub.device :: s.podKids p (s.crPdom p), d ≠ child → ∃ f ∈ (s.dom p).gather, f.device = d) →
    (t.dom p).gather = [] ∧ (child = s.hub.device → SentUp s t p [e]) ∧
    ∀ own ∈ (s.dom p).gather, (∀ f ∈ (s.dom p).gather, f.device = s.hub.device → f = own) → own.device = s.hub.device →
      child ≠ s.hub.device → SentUp s t p [e, own]

/-- A whole wave has reached this device (R169, R383): it holds it, passes it on to every child that has a route, and a strand
in cwait goes on if it and the wave before agree and show the pod at rest. -/
structure WaveTaken (s t : State) (p : Nat) (wave : List WaveEntry) : Prop where
  bytes : BytesKept s t
  held  : (t.dom p).wave = wave
  down  : (∀ d ∈ s.podKids p (s.crPdom p), (Assoc.getD s.hub.routes d 0).getLsbD 15 = true) →
    t.hub.control = s.hub.control ++ (s.podKids p (s.crPdom p)).map fun d =>
      ⟨p, ⟨s.hub.device, s.hub.inc, Assoc.getD s.hub.peers d 0⟩, d, .waveDown (s.crPdom p) wave⟩
  waits : ∀ sid x, (s.dom p).wave = wave → (∀ e ∈ wave, e.live = 0 ∧ e.quiet = true) →
    (wave.map (·.sent)).sum = (wave.map (·.accepted)).sum → s.strand sid = some x → x.sid.toNat = sid → x.pid = p →
    x.wait = some .cwait → (s.all.filter fun y => y.sid == x.sid) = [x] →
    StrandMoves s t sid fun x y => GoesOn x y ∧ y.g = x.g ∧ y.v = x.v ∧ y.k = x.k ∧ y.ctl = x.ctl ∧ y.ext = x.ext

/-- A record of a priority has room in its bucket's entries on the strand's die, no push and no far record waits for them,
and its bucket lies within 64 of the base (R159, R160). -/
structure Placeable (e : State) (prio : BitVec 32) (shift bucket : Nat) : Prop where
  shifted : bucket = prio.toNat / 2 ^ shift
  window : (e.creel (dieOf e.st.core) e.st.pid).base ≤ bucket ∧ bucket < (e.creel (dieOf e.st.core) e.st.pid).base + 64
  ring   : ((e.creel (dieOf e.st.core) e.st.pid).ring bucket).len = 0
  share  : (e.creel (dieOf e.st.core) e.st.pid).entries.length < e.creelShare e.st.pid (dieOf e.st.core)
  queue  : ∀ x ∈ e.all, ∀ r d n, x.wait ≠ some (.cpush r d n)
  far    : FarAway e shift

/-! ## Engines (14, 15) -/

/-- The promise of a new entry of queue n of the quad of the strand in issue (R263, R365): the cost at the operating point of
its die after the later of clk + 8 and the promise of the entry ahead. -/
def promised (e : State) (n cost : Nat) : Nat :=
  max (e.clk.toNat + 8) ((((e.quad (quadOf e.st.core)).queue n).getLast?.map (·.promise)).getD 0) +
    (cost * 10 + (10 - (e.die (dieOf e.st.core)).point.toNat) - 1) / (10 - (e.die (dieOf e.st.core)).point.toNat)

/-- The promise that a ticket carries is reached (R260). -/
def PromisePast (e : State) (t : Word) : Prop :=
  (e.clk.toNat % 2 ^ 48 + 2 ^ 48 - t.toNat % 2 ^ 48) % 2 ^ 48 < 2 ^ 47

/-- A queue of the strand's quad has room and is open (R259, R366). -/
def QueueRoom (e : State) (n : Nat) : Prop :=
  (e.die (dieOf e.st.core)).power.stage ≠ 1 ∧ ((e.quad (quadOf e.st.core)).queue n).length < (if n = 0 then 64 else 32)

/-- The half of its quad whose job records the strand in issue reads: 1 on the upper half of a split quad, else 0 (R283,
R389). -/
def recordBank (e : State) : Nat := if e.splitOf e.st.pid e.st.core = true ∧ e.st.core % 4 / 2 = 1 then 1 else 0

/-- The matrix queue of the strand in issue: queue 1, or queue 2 on the upper half of a split quad (R259, R389). -/
def matrixQueue (e : State) : Nat := 1 + recordBank e

/-- Nothing but a queue of the strand's quad has changed of the units. -/
structure QueueFrame (e t : State) (n : Nat) : Prop where
  queues  : ∀ m, m < 3 → m ≠ n → (t.quad (quadOf e.st.core)).queue m = (e.quad (quadOf e.st.core)).queue m
  quads   : ∀ q, q ≠ quadOf e.st.core → t.quad q = e.quad q
  bytes   : BytesKept e t
  cores   : t.cores = e.cores
  dies    : t.dies = e.dies
  strands : t.strands = e.strands
  hub     : t.hub = e.hub
  locks   : t.locks = e.locks
  poison  : t.poison = e.poison

/-- Work has entered queue n of the strand's quad and its ticket stands in G[d] (R259 to R263): id and promise, one entry at
the tail, a record in state 0, the quad's next id. -/
structure Submitted (e t : State) (d : BitVec 5) (n cost guard : Nat) (work : Work) : Prop where
  g       : SetsG e t d (BitVec.ofNat 64 ((e.quad (quadOf e.st.core)).idc.toNat * 2 ^ 48 + promised e n cost % 2 ^ 48))
  entry   : (t.quad (quadOf e.st.core)).queue n = (e.quad (quadOf e.st.core)).queue n ++
    [{ owner := e.st.sid.toNat, pid := e.st.pid, guard := guard, id := some (e.quad (quadOf e.st.core)).idc
       promise := promised e n cost, work := work, half := recordBank e, left := e.st.left }]
  record  : (t.quad (quadOf e.st.core)).record (recordBank e)
      (BitVec.ofNat 64 ((e.quad (quadOf e.st.core)).idc.toNat * 2 ^ 48 + promised e n cost % 2 ^ 48)) =
    some { ticket := BitVec.ofNat 64 ((e.quad (quadOf e.st.core)).idc.toNat * 2 ^ 48 + promised e n cost % 2 ^ 48)
           eff := promised e n cost, owners := [e.st.sid.toNat], queue := n }
  id      : (t.quad (quadOf e.st.core)).idc = (e.quad (quadOf e.st.core)).idc + 1
  frame   : QueueFrame e t n
  vector  : VectorKept e t
  special : SpecialKept e t
  ended   : Ended e t e.nextPc

/-- An entry without a ticket stands at the tail of queue n. -/
def Queued (e t : State) (n cost : Nat) (work : Work) : Prop :=
  (t.quad (quadOf e.st.core)).queue n = (e.quad (quadOf e.st.core)).queue n ++
    [{ owner := e.st.sid.toNat, pid := e.st.pid, promise := promised e n cost, work := work, half := recordBank e
       left := e.st.left }] ∧
  (t.quad (quadOf e.st.core)).idc = (e.quad (quadOf e.st.core)).idc ∧ QueueFrame e t n

/-- The mm instructions with the codes of their forms (R299). -/
noncomputable def matrixForms (iv : BitVec 2) (d a : BitVec 5) (q : BitVec 3) (sc : BitVec 4) : List (Instr × Nat) :=
  [ (.mmBf16 iv d a q sc, 0), (.mmF16 iv d a q sc, 1), (.mmE4m3 iv d a q sc, 2), (.mmE5m2 iv d a q sc, 3), (.mmI8 iv d a q sc, 4)
  , (.mmTern iv d a q sc, 5), (.mmF32 iv d a q sc, 6), (.mmC32 iv d a q sc, 7), (.mmU iv d a q sc, 8) ]

/-- The descriptor of an mm stands at an offset of the own scratchpad and keeps to R299 to R301: its fields, its ranges, its
tiles. -/
structure Described (e : State) (va : Word) (b off : Nat) (m : MatArgs) : Prop where
  full    : e.st.cls = .full
  window  : scratchEnd e.st.core va = some (e.st.core, off) ∧ va.getLsbD 43 = false
  aligned : off % 64 = 0
  covered : off + 64 ≤ e.scratchOf e.st.core
  clean   : e.poisoned (Memory.scratchBase e.st.core + off) = false
  read    : m = matArgs b (Memory.readN e.mem (Memory.scratchBase e.st.core + off) 64)
  ok      : m.ok = true
  tiles   : ∀ r ∈ tilesOf m.zt m.form.tiles, e.st.names r = true

/-- A copy as R296 and R297 accept it: the control word, the two addresses, their ends. -/
structure Copyable (e : State) (ctl src dst : Word) (c : CopyArgs) (ps : List (List Piece)) : Prop where
  args    : c = copyArgs (modData e.st.hints / 64 % 16) ctl ∧ c.ok = true
  plain   : modData e.st.hints / 64 % 16 / 8 % 2 = 0
  ends    : badEnd e.st.core src = false ∧ badEnd e.st.core dst = false
  aligned : src.toNat % 8 = 0 ∧ dst.toNat % 8 = 0 ∧ c.misaligned = false
  kinds   : e.isLanding e.st src = false ∧ e.inWindow e.st (c.srcRanges src) = false ∧ e.copyEndsOk e.st c src dst = true
  covered : e.endChecks e.st [⟨src, c.srcRanges src, false⟩, ⟨dst, [(dst, c.out)], true⟩] = .ok ps e

/-- The same under .l, whose destination is a landing address. -/
structure CopyableLand (e : State) (ctl src : Word) (c : CopyArgs) (ps : List (List Piece)) : Prop where
  args    : c = copyArgs (modData e.st.hints / 64 % 16) ctl ∧ c.ok = true
  land    : modData e.st.hints / 64 % 16 / 8 % 2 = 1
  ends    : badEnd e.st.core src = false
  aligned : src.toNat % 8 = 0 ∧ c.misaligned = false
  kinds   : e.isLanding e.st src = false ∧ e.inWindow e.st (c.srcRanges src) = false
  covered : e.endChecks e.st [⟨src, c.srcRanges src, false⟩] = .ok ps e

/-- The rank of the slowest end of a copy (R263). -/
def slowest (e : State) (ps : List (List Piece)) : Nat := ps.flatten.foldl (fun r p => max r (e.rank e.st.core p)) 0

/-! ## Traps (18) -/

/-- The level can be entered: its handler is not active, and it has one. -/
def CanEnter (x : Strand) (h : Mode) : Prop := (x.trapRegs h).cause.getLsbD 11 = false ∧ (x.trapRegs h).vec ≠ 0

/-- The strand has taken a trap at a level (R319): xpc holds the unit's head, tcause the cause, the kind, the mode before and
act, tval the value; the mode is the level's, and pc the handler's address. The other levels' registers are kept, and
outstanding results have been written, with their sticky flags (R68, R104). -/
structure Trapped (x y : Strand) (h : Mode) (c : BitVec 8) (tval : Word) (deferred lost : Bool) : Prop where
  regs   : y.trapRegs h = ⟨(x.trapRegs h).vec, BitVec.ofNat 64 (c.toNat + (if deferred then 256 else 0) +
    512 * x.ctl.priv.code + 2048 + (if lost then 4096 else 0)), tval, x.pc⟩
  others : ∀ m, m ≠ h → y.trapRegs m = x.trapRegs m
  pc     : y.pc = (x.trapRegs h).vec
  ctl    : y.ctl = { x.completeAll.ctl with priv := h }
  unit   : y.hints = [] ∧ y.wait = none ∧ y.inflight = []
  sid    : y.sid = x.sid

/-! ## Special registers (01 R14 to R19, 20 R352) -/

/-- What a strand may read of its own special registers, with their numbers. -/
def specialReads (e : State) : List (Nat × Word) :=
  [ (0x000, addPc e.st.pc (4 * e.st.hints.length)), (0x001, e.st.sid.setWidth 64), (0x002, e.st.ctl.shp.setWidth 64)
  , (0x003, e.st.ctl.fcr.setWidth 64)
  , (0x004, BitVec.ofNat 64 (e.st.ctl.priv.code + (if e.st.ctl.laTrap then 4 else 0) + (if e.st.ctl.urg then 8 else 0)))
  , (0x005, e.st.ctl.laStall), (0x006, e.st.ctl.prio.setWidth 64), (0x007, e.clk), (0x008, e.st.ctl.part.setWidth 64)
  , (0x009, e.st.ctl.cshift.setWidth 64), (0x00A, e.st.ctl.cbound.setWidth 64), (0x010, e.st.ctl.lmask.setWidth 64)
  , (0x011, e.st.ctl.lvmask.setWidth 64), (0x012, e.st.ctl.larr.setWidth 64), (0x013, e.st.ctl.lvarr.setWidth 64)
  , (0x014, if e.st.ctl.lmode then 1 else 0)
  , (0x020, e.st.u.vec), (0x021, e.st.u.cause), (0x022, e.st.u.val), (0x023, e.st.u.xpc)
  , (0x100, e.st.s.vec), (0x101, e.st.s.cause), (0x102, e.st.s.val), (0x103, e.st.s.xpc)
  , (0x104, e.st.sdlg[0]), (0x105, e.st.sdlg[1]), (0x106, e.st.sdlg[2])
  , (0x108, (e.dieRegs (dieOf e.st.core) e.st.pid).srlist), (0x109, (e.dieRegs (dieOf e.st.core) e.st.pid).scring)
  , (0x10A, (e.dieRegs (dieOf e.st.core) e.st.pid).ssave), (0x10B, (e.dieRegs (dieOf e.st.core) e.st.pid).spool)
  , (0x200, e.st.h.vec), (0x201, e.st.h.cause), (0x202, e.st.h.val), (0x203, e.st.h.xpc)
  , (0x204, e.st.hdlg[0]), (0x205, e.st.hdlg[1]), (0x206, e.st.hdlg[2]) ]

/-- The numbers that a strand may write, with the values each takes; a resume list that has sids to take is told elsewhere. -/
def specialWrites (e : State) : List (Nat × (Word → Prop)) :=
  [ (0x002, fun v => v.toNat < 2 ^ 13 ∧ v.toNat % 256 ≠ 0)
  , (0x003, fun v => v.toNat < 2 ^ 15 ∧ v.toNat / 16 % 16 = 0 ∧ v.toNat % 8 ≤ 4)
  , (0x004, fun v => v.toNat / 8 = (if e.st.ctl.urg then 1 else 0) ∧ v.toNat % 4 = e.st.ctl.priv.code)
  , (0x010, fun _ => True), (0x011, fun _ => True), (0x014, fun v => v.toNat ≤ 1)
  , (0x020, fun _ => True), (0x021, fun v => v.toNat < 2 ^ 13), (0x022, fun _ => True), (0x023, fun _ => True)
  , (0x100, fun _ => True), (0x101, fun v => v.toNat < 2 ^ 13), (0x102, fun _ => True), (0x103, fun _ => True)
  , (0x104, fun _ => True), (0x105, fun _ => True), (0x106, fun _ => True)
  , (0x108, fun _ => (e.dieRegs (dieOf e.st.core) e.st.pid).posts = [])
  , (0x109, fun _ => True), (0x10A, fun _ => True), (0x10B, fun _ => True)
  , (0x200, fun _ => True), (0x201, fun v => v.toNat < 2 ^ 13), (0x202, fun _ => True), (0x203, fun _ => True)
  , (0x204, fun _ => True), (0x205, fun _ => True), (0x206, fun _ => True) ]

/-- What a write of a value leaves in a register that holds `old`: the landing masks keep the registers of the class, the
delegation sets the bits that R318 fixes. -/
def writtenAs (x : Strand) (n : Nat) (v old : Word) : Word :=
  if n = 0x010 then v &&& (if x.cls = .light then 0xFE else 0xFFFFFFFE)
  else if n = 0x011 then (if x.cls = .full then v &&& 0xFFFF else 0)
  else if n = 0x104 then v &&& 0x00000003000003BF
  else if n = 0x105 then v &&& 0x00007F68000001FF
  else if n = 0x106 then v &&& 0x0000000E0000073B
  else if n = 0x204 then v &&& 0x0000000300000BFF
  else if n = 0x205 then v &&& 0x00017F78000001FF
  else if n = 0x206 then v &&& 0x0000007E0000073B
  else if n = 0x004 then (old &&& ~~~4) ||| (v &&& 4)
  else v

/-- The facts of mfs and mts as R16 and R352 give them: the lowest mode by the number's hundreds, the number as tval. -/
def specialInfo (word : BitVec 32) (iv : BitVec 2) (sc : BitVec 4) (d n m : BitVec 5) : Info :=
  { infoR word iv sc (gs [d]) with
    priv := if (n.toNat * 32 + m.toNat) / 256 = 1 then .supervisor else if (n.toNat * 32 + m.toNat) / 256 = 2 then .hypervisor else .user
    ptv := BitVec.ofNat 64 (n.toNat * 32 + m.toNat) }

/-- The six privileged words with the mode each needs (R347, R355). -/
noncomputable def privileged (iv : BitVec 2) (a b : BitVec 5) (sc : BitVec 4) : List (Instr × List (BitVec 5) × Mode) :=
  [ (.halt iv sc, [], .supervisor), (.ctxSv iv a b sc, [a, b], .supervisor), (.ctxLd iv a b sc, [a, b], .hypervisor)
  , (.preempt iv a sc, [a], .supervisor), (.resume iv a b sc, [a, b], .supervisor), (.xmap iv a b sc, [a, b], .hypervisor) ]

/-- The facts of a privileged word. -/
def privilegedInfo (iv : BitVec 2) (sc : BitVec 4) (p : Instr × List (BitVec 5) × Mode) : Info :=
  (infoR (encode p.1) iv sc (gs p.2.1)).from p.2.2

/-- What a special register of a number reads as, if it is one of the strand's own or its die's. -/
def specialValue (e : State) (n : Nat) : Option Word := ((specialReads e).find? (·.1 == n)).map (·.2)

/-- The state in which mfs and mts of a number act: fcr stands with the flags of the outstanding results, which are written
first if any of them carries some (R7, R104). -/
def flagsIn (e : State) (n : Nat) : State :=
  if n = 3 ∧ ∃ o ∈ e.st.inflight, ∃ b, RegWrite.fcr b ∈ o.writes then { e with st := e.st.completeAll } else e

/-- No matrix entry of the strand's quad has the strand as a member. -/
def NoMatrix (e : State) : Prop :=
  ∀ n, ∀ x ∈ (e.quad (quadOf e.st.core)).queue n, x.hasMember e.st.sid.toNat = false

/-! ## Events -/

/-- The live strand of a sid. -/
def Live (s : State) (sid : Nat) (x : Strand) : Prop := s.strand sid = some x ∧ x.live = true ∧ x.sid.toNat = sid

/-- Nothing but the strand of a sid has changed. -/
structure Alone (s t : State) (sid : Nat) : Prop where
  bytes  : BytesKept s t
  poison : t.poison = s.poison
  locks  : t.locks = s.locks
  cores  : t.cores = s.cores
  quads  : t.quads = s.quads
  dies   : t.dies = s.dies
  hub    : t.hub = s.hub
  others : ∀ n, n ≠ sid → t.strand n = s.strand n

/-- G[d] of a strand has become v, where g0 discards the write (R8), and it keeps every other scalar register. -/
def GetsG (x y : Strand) (d : BitVec 5) (v : Word) : Prop :=
  ∀ n, y.G n = if n = d then (if d = 0 then 0 else v) else x.G n

/-- A strand keeps its registers, special registers and extents. -/
def RegsKept (x y : Strand) : Prop :=
  y.g = x.g ∧ y.v = x.v ∧ y.k = x.k ∧ y.q = x.q ∧ y.ctl = x.ctl ∧ y.u = x.u ∧ y.s = x.s ∧ y.h = x.h ∧ y.ext = x.ext

/-- A waiting strand's unit is to be executed again (R146). -/
def TriesAgain (x y : Strand) : Prop := y.wait = none ∧ y.hints = [] ∧ y.pc = x.pc ∧ RegsKept x y

/-- A counter of a partition has risen by n, saturating (R398). -/
def Counts (s t : State) (p : Nat) (c : Counter) (n : Nat) : Prop :=
  (Assoc.getD (t.part p).counters c.index 0).toNat =
    min ((Assoc.getD (s.part p).counters c.index 0).toNat + n) (2 ^ 64 - 1)

/-- A strand may take a trap now: it is on its core, at a boundary or waiting, and nothing holds it. -/
def Takes (s : State) (x : Strand) : Prop :=
  (x.place = .resident ∨ x.place = .shadow) ∧ x.flags.stop = false ∧ x.flags.held = none ∧ (s.die (dieOf x.core)).halted = false

/-- Waits that a stop leaves as not executed, to be executed again (R244, R256, R306): await, waita, xreq, tag.set and the
fences. -/
def LeftUndone (w : Wait) : Prop :=
  (∃ x d t n, w = .await x d t n) ∨ (∃ l ea d f, w = .waitA l ea d f) ∨ (∃ d va req, w = .xreq d va req) ∨
  (∃ ea len, w = .tagSet ea len) ∨ (∃ n, w = .phase n) ∨ (∃ n, w = .fenceX n) ∨ (∃ win, w = .fenceR win) ∨ ∃ d n, w = .fenceA d n

/-- No watch of a strand is armed. -/
def Unwatched (t : State) (sid : Nat) : Prop := ∀ die, ∀ w ∈ (t.die die).watches, w.sid ≠ sid

/-- No link is retraining (R366). -/
def Linked (s : State) : Prop := ∀ d, s.retrains d = false

/-- Nothing stands on the paths of a quad's die, nor on those of the dies that an entry's strand had left (R220, R230). -/
def Ahead (s : State) (quad : Nat) (e : Entry) : Prop := ∀ a ∈ quad / 256 :: e.left, ∀ d, (s.path a d).writes = []

/-- No strand waits in an overflow ring or at an agent. -/
def RingsEmpty (s : State) : Prop := ∀ x ∈ s.all, (∀ d i, x.place ≠ .ring d i) ∧ ∀ d, x.place ≠ .agent d

/-- A completion signal has been decremented (R136): its value by one, its status to the first cause; no other byte changes. -/
structure Signals (s t : State) (pa : Nat) (cause : BitVec 8) : Prop where
  value  : Memory.readN t.mem pa 8 = (Memory.readN s.mem pa 8 + 2 ^ 64 - 1) % 2 ^ 64
  status : Memory.readN t.mem (pa + 8) 8 = if cause ≠ 0 ∧ Memory.readN s.mem (pa + 8) 8 / 2 ^ 63 = 0 then 2 ^ 63 + cause.toNat
    else Memory.readN s.mem (pa + 8) 8
  others : ∀ a, a < pa ∨ pa + 16 ≤ a → Memory.read t.mem a = Memory.read s.mem a

/-- A node has completed (R136, R137): it is gone, and its signal, if it has one in die memory that is not revoked, is
decremented. -/
structure NodeDone (s t : State) (n : Node) (cause : BitVec 8) : Prop where
  gone    : t.hub.nodes = s.hub.nodes.filter (·.id != n.id)
  signal  : ∀ pa, n.signal = some pa → pa % 16 = 0 → pa < 2 ^ 39 → cutBy n.cuts n.sigVa = false → Signals s t pa cause
  revoked : ∀ pa, n.signal = some pa → cutBy n.cuts n.sigVa = true → BytesKept s t ∧
    Counts s t n.pid .sigLost (if cause ≠ 0 ∧ Memory.readN s.mem (pa + 8) 8 / 2 ^ 63 = 0 then 2 else 1)
  none    : n.signal = none → BytesKept s t

/-- The packet processor may take a packet of a queue (R131), whose 64 bytes are n. -/
structure PacketAt (s : State) (p q n : Nat) : Prop where
  queue   : q < 64
  enabled : (s.cfg p 0).getLsbD 63 = true
  up      : s.hub.down = false
  written : (s.cfg p (0x108 + 16 * q)).toNat % 2 ^ 32 ≠ (s.cfg p (0xC000 + 8 * q)).toNat
  room    : (s.hub.nodes.filter fun n => n.pid == p && n.pooled).length < 4096
  bytes   : n = Memory.readN s.mem ((s.cfg p (0x100 + 16 * q)).toNat / 16 * 16 +
    64 * ((s.cfg p (0x108 + 16 * q)).toNat % 2 ^ 32 % 2 ^ (4 + (s.cfg p (0x100 + 16 * q)).toNat % 16))) 64

/-- The reserved bits of the header are zero, and the packet names no signal or one that can be used (R132, R137). -/
def HeaderOk (s : State) (p n : Nat) : Prop :=
  pk n 0 8 / 64 = 0 ∧ (pk n 8 8 = 0 ∨ (s.sigPa p (BitVec.ofNat 64 (pk n 8 8))).isSome = true)

/-- The read index of a queue has advanced by one. -/
def Advanced (s t : State) (p q : Nat) : Prop :=
  (t.cfg p (0x108 + 16 * q)).toNat % 2 ^ 32 = ((s.cfg p (0x108 + 16 * q)).toNat % 2 ^ 32 + 1) % 2 ^ 32

/-- A packet has become the newest node (R132, R140). -/
def Accepted (s t : State) (p q n : Nat) (body : NodeBody) (wait : Option Nat) : Prop :=
  Advanced s t p q ∧ BytesKept s t ∧ t.hub.nextNode = s.hub.nextNode + 1 ∧ ∃ x, t.hub.nodes = s.hub.nodes ++ [x] ∧
    x.id = s.hub.nextNode ∧ x.pid = p ∧ x.queue = q ∧ x.acq = n.testBit 4 ∧ x.rel = n.testBit 5 ∧ x.body = body ∧ x.wait = wait ∧
    x.signal = (if pk n 8 8 = 0 then none else s.sigPa p (BitVec.ofNat 64 (pk n 8 8))) ∧ x.ready = false ∧ x.done = 0

/-- A packet has been rejected (R135, R137): no node, the cause in its signal or in the queue's read-index dword. -/
def Rejected (s t : State) (p q n : Nat) (cause : BitVec 8) : Prop :=
  Advanced s t p q ∧ t.hub.nodes = s.hub.nodes ∧
  (pk n 8 8 = 0 → BytesKept s t ∧ (t.cfg p (0x108 + 16 * q)).toNat / 2 ^ 56 = cause.toNat) ∧
  ∀ pa, pk n 8 8 ≠ 0 → s.sigPa p (BitVec.ofNat 64 (pk n 8 8)) = some pa → pa % 16 = 0 → Signals s t pa cause

/-- A launch packet that R133 and R134 accept but for its count. -/
structure LaunchFields (s : State) (p n : Nat) (cls : Cls) (ops : List (Word × Nat × Nat)) (wait : Option Nat) : Prop where
  kind   : pk n 0 1 % 16 = 1
  header : HeaderOk s p n
  cls    : Cls.ofCode (pk n 0x1C 1) = some cls
  ops    : s.operandList p (BitVec.ofNat 64 (pk n 0x30 8)) (pk n 0x21 1) = some ops
  wait   : s.optSig p (BitVec.ofNat 64 (pk n 0x38 8)) = some wait
  entry  : pk n 0x10 8 % 4 = 0
  slots  : 2 ≤ pk n 0x1D 1 ∧ pk n 0x1D 1 ≤ 64
  arrq   : 4 ≤ pk n 0x1E 1 ∧ pk n 0x1E 1 ≤ 16
  creel  : pk n 0x1F 1 ≤ 31 ∧ pk n 0x20 1 ≤ 63
  nops   : pk n 0x21 1 ≤ 12
  part   : partOk (pk n 0x22 2) = true
  zero   : pk n 0x24 4 = 0

/-- Landing i stands first of those of its sender to its register (R154), and goes to a location. -/
structure LandingAt (s : State) (i : Nat) (l : Landing) (tgt : Loc) : Prop where
  at_   : s.hub.landings[i]? = some l
  tgt   : l.tgt = tgt
  first : ∀ j m, j < i → s.hub.landings[j]? = some m → m.sender ≠ l.sender ∨ m.addr ≠ l.addr

/-- A landing address names a scalar or a vector register n that a strand of the class has (R152, R153). -/
def NamesG (x : Strand) (l : Landing) (n : BitVec 5) : Prop :=
  l.isV = false ∧ l.addr.extractLsb' 0 16 = n.setWidth 16 ∧ 1 ≤ n.toNat ∧ (x.cls = .light → n.toNat ≤ 7)
def NamesV (x : Strand) (l : Landing) (n : BitVec 4) : Prop :=
  l.isV = true ∧ l.addr.extractLsb' 0 16 = 0x40 + n.setWidth 16 ∧ x.cls = .full

/-- The landing is written (R153, R183): its register and its arrival bit, and nothing else of the strand's registers. -/
def Lands (x y : Strand) (l : Landing) : Prop :=
  (∀ n, NamesG x l n → (∀ m, y.G m = if m = n then l.value else x.G m) ∧ y.v = x.v ∧
    (∀ m, y.ctl.larr.getLsbD m = (x.ctl.larr.getLsbD m || m == n.toNat)) ∧ y.ctl = { x.ctl with larr := y.ctl.larr }) ∧
  (∀ n, NamesV x l n → (∀ m, y.V m = if m = n then l.vec else x.V m) ∧ y.g = x.g ∧
    (∀ m, y.ctl.lvarr.getLsbD m = (x.ctl.lvarr.getLsbD m || m == n.toNat)) ∧ y.ctl = { x.ctl with lvarr := y.ctl.lvarr })

/-- A landing is off the list, and a refusal with a cause is on its way back (R153, R182). -/
def RefusedWith (s t : State) (i : Nat) (l : Landing) (c : BitVec 8) : Prop :=
  t.hub.landings = s.hub.landings.eraseIdx i ∧ t.hub.refusals = s.hub.refusals ++ [⟨l, c⟩] ∧ BytesKept s t

/-- A line of memory is recorded as poisoned, and its die's black box has the record (R211, R401). -/
def Spoiled (s t : State) (line : Nat) : Prop :=
  t.poisoned line = true ∧ (∀ l, l ≠ line → t.poisoned l = s.poisoned l) ∧ BytesKept s t ∧
    (t.die (s.ownerDie line)).bbox.getLast? = some (bboxRecord 3 (s.ownerDie line) 0 s.clk)

/-- Every job of some records that has no final state has its promise moved by n and late bit 36 set (R264, R265); the others
are kept. -/
def Moved (s t : State) (n : Nat) (which : Nat → Nat → JobRec → Prop) : Prop :=
  ∀ q i r, Assoc.get (s.quad q).recs i = some r →
    (which q (i / 65536) r → r.final = false → Assoc.get (t.quad q).recs i = some { r.setLate 36 with eff := r.eff + n }) ∧
    ((¬ which q (i / 65536) r ∨ r.final = true) → Assoc.get (t.quad q).recs i = some r)

/-- A strand that a die's halt stops (R336, R68, R244, R256, R306): its outstanding results are written, a unit that it has begun
starts again, and a wait that R256 leaves as not executed is withdrawn. -/
structure Stopped (x y : Strand) : Prop where
  pc       : y.pc = x.pc
  inflight : y.inflight = []
  regs     : RegsKept x.completeAll y
  begun    : x.wait = none → y.hints = [] ∧ y.wait = none
  undone   : ∀ w, x.wait = some w → LeftUndone w → y.hints = [] ∧ y.wait = none
  waits    : (∀ w, x.wait = some w → ¬ LeftUndone w) → y.wait = x.wait

/-- An await that has reached its promise while that was suspended waits on as await.x (R265, R305). -/
def AwaitsOn (s t : State) : Prop :=
  ∀ sid x d k n, Live s sid x → (s.all.filter fun y => y.sid == x.sid) = [x] → x.wait = some (.await false d k n) → PromisePast s k →
    s.suspended x k = true → Stands t sid fun y => y.wait = some (.await true d k n)

/-- The bits that a configuration dword of the S blocks keeps (R157, R372, R381, R395): the others read zero. -/
def keptBits (off : Nat) : Word :=
  if off = 0x30 then 0xFFFFFFFFFFF00001 else if off = 0x38 then 0x800000000000FFFF
  else if 0xD00 ≤ off ∧ off < 0xD80 then 0xE0FFF0000000FF00
  else if 0x9000 ≤ off ∧ off < 0xB000 then (if off % 32 = 0 then 0xE0FFFFFFFFFFFFFF else if off % 32 = 8 then -1 else 0)
  else -1

/-- One configuration dword of a partition has become x. -/
def CfgSet (s t : State) (p off : Nat) (x : Word) : Prop := ∀ o, t.cfg p o = if o = off then x else s.cfg p o

/-- Copy i of this device's stands before no other of its strand's on its path (R228). -/
def CopyAt (s : State) (i : Nat) (c : Copy) : Prop :=
  s.hub.copies[i]? = some c ∧ ∀ j d, j < i → s.hub.copies[j]? = some d → d.shown = true ∨ d.sid ≠ c.sid ∨ d.samePath c = false

/-- A receive window of an enabled partition takes n bytes at an offset (R372, R376, R377, R394). -/
def Receives (s : State) (p rx off n : Nat) (pod : Bool) : Prop :=
  p < 20 ∧ rx < 256 ∧ (s.cfg p 0).getLsbD 63 = true ∧ (s.cfg p (0x9000 + 32 * rx)).getLsbD 63 = true ∧ off + n ≤ (s.cfg p (0x9008 + 32 * rx)).toNat ∧
    (pod = true → (s.cfg p (0x9000 + 32 * rx)).getLsbD 62 = true)

/-- What arrives in a receive window (R254, R376, R377): the bytes of a copy, or one added to a flag; what the window does not
take is dropped and counted. -/
structure Received (s t : State) (flag : Bool) (p rx off : Nat) (bytes : List Byte) (pod : Bool) : Prop where
  copied  : flag = false → Receives s p rx off bytes.length pod → Counts s t p .reflIn 1 ∧
    Wrote s t ((s.cfg p (0x9000 + 32 * rx)).toNat % 2 ^ 56 + off) bytes.length (bytesNat bytes)
  raised  : flag = true → Receives s p rx off 8 pod →
    Wrote s t ((s.cfg p (0x9000 + 32 * rx)).toNat % 2 ^ 56 + off) 8
      (Memory.readN s.mem ((s.cfg p (0x9000 + 32 * rx)).toNat % 2 ^ 56 + off) 8 + 1)
  dropped : ¬ Receives s p rx off (if flag then 8 else bytes.length) pod → BytesKept s t ∧ Counts s t p .reflDrop 1

/-- A participant of a pod episode has been released with a value (R188, R191, R382): its unit has ended, and a bmax has
received the value. -/
def Released (s t : State) (ctx : Nat) (v : BitVec 32) : Prop :=
  ∀ sid x k, sid ∈ (s.pod ctx).ep.sids → Live s sid x → x.place = .resident → x.counted = some k → k.scope = .pod → k.ctx = ctx →
    k.result = none → (∃ c n d, x.wait = some (.barrier c n d)) → StrandMoves s t sid fun x y =>
      GoesOn x y ∧ y.counted = none ∧ (k.d = none → RegsKept x y) ∧ ∀ d, k.d = some d → GetsG x y d (v.setWidth 64)


/-- Entry e stands first in queue n of a quad whose engines run, before others; its record, of ticket k, is r. -/
structure AtHead (s : State) (quad n : Nat) (e : Entry) (rest : List Entry) (k : Word) (r : JobRec) : Prop where
  queue  : (s.quad quad).queue n = e :: rest
  active : (s.die (quad / 256)).halted = false ∧ s.hub.down = false
  ticket : e.ticket = some k
  record : (s.quad quad).record e.half k = some r

/-- The entry at a head has become e, its record r; the others stand as they stood. -/
def HeadIs (t : State) (quad n : Nat) (e : Entry) (rest : List Entry) (k : Word) (r : JobRec) : Prop :=
  (t.quad quad).queue n = e :: rest ∧ (t.quad quad).record e.half k = some r

/-- The entry at a head has left its queue, with a final state and a cause (R261). -/
def HeadLeft (t : State) (quad n : Nat) (e : Entry) (rest : List Entry) (k : Word) (state : Nat) (cause : BitVec 8) : Prop :=
  (t.quad quad).queue n = rest ∧ ∃ r, (t.quad quad).record e.half k = some r ∧ r.state = state ∧ r.cause = cause

/-- The job at a head has failed (R267): its owner, if live, has the deferred fault. -/
def HeadFailed (s t : State) (quad n : Nat) (e : Entry) (rest : List Entry) (k : Word) (r : JobRec) (cause : BitVec 8) : Prop :=
  HeadLeft t quad n e rest k 4 cause ∧ ∀ sid x, r.owners = [sid] → Live s sid x → x.place = .resident → x.pending.length < 8 →
    StrandMoves s t sid fun x y => FaultDue s x y cause k

/-- The queues that a join can stand in (R247): those of a quad and of its cores. -/
def joinQueues (s : State) (quad : Nat) : List (List Entry) :=
  [(s.quad quad).copyQ, (s.quad quad).mat0, (s.quad quad).mat1] ++ (List.range 4).map fun c => (s.core (4 * quad + c)).bookQ

/-- Element (r, k) of A, or (i, col) of B group g, of a job of the form i8 (R277, R278). -/
def i8A (m : MatJob) (p : MatMember) (r k : Nat) : BitVec 32 :=
  (BitVec.ofNat 8 (m.bytes p.core (p.aBase + r * ((m.k + 63) / 64 * 64) + k) 1)).signExtend 32
def i8B (m : MatJob) (g i col : Nat) : BitVec 32 :=
  (BitVec.ofNat 8 (m.bytes (m.bGroup g).1 ((m.bGroup g).2 + 64 * i + col) 1)).signExtend 32

/-- The sum of the products of group g of an i8 job for element (r, col) (R277). -/
def i8Group (m : MatJob) (p : MatMember) (g r col : Nat) : BitVec 32 :=
  (List.range (min 4 (m.k - 4 * g))).foldl (fun v i => v + i8A m p r (4 * g + i) * i8B m g i col) 0

/-- One core holds entries of booking queues, and a booking stands alone in its queue; its record, of ticket k, is r. -/
structure Booked (s : State) (core : Nat) (x : Entry) (b : Booking) (k : Word) (r : JobRec) : Prop where
  alone  : ∃ c, s.cores = [(core, c)] ∧ c.bookQ = [x]
  work   : x.work = .booking b
  ticket : x.ticket = some k
  record : (s.quad b.quad).record x.half k = some r

/-- The time at which a frame of the lap in progress passes a station (R286). -/
def framePass (r : Round) (f station : Nat) : Nat := r.start + f * 45 / (8 * r.rateAt r.lap) + station * 8

/-! ## Steps -/

/-- The strand in issue comes next, its word lies whole in one line at a physical address, and nothing stands between it and
its memory: its next instruction is i. -/
structure Fetches (s : State) (i : Instr) (q : State) (pa : Nat) : Prop where
  turn    : s.agenda = .word s.st.sid.toNat :: q.agenda
  rest    : q = { s with agenda := q.agenda }
  live    : s.st.live = true
  issue   : q.mayIssue s.st.sid.toNat = true
  ready   : s.st.hints = [] ∧ s.st.wait = none ∧ sidKind s.st.sid.toNat ≠ 3
  clear   : q.urgentDue s.st.core = none ∧ s.st.pending = [] ∧ s.st.flags.preempt = false ∧
    (s.st.flags.passBp = true ∨ (s.st.flags.stepping = false ∧ q.breakAt s.st = none))
  covered : s.st.pc.toNat < 2 ^ 56 ∧ ∃ t, q.check s.st .fetch s.st.pc 1 = .ok t q ∧ t.addr = pa
  aligned : pa % 4 = 0
  unread  : Assoc.get s.st.fbuf (Memory.line pa) = none ∧ Assoc.get (s.core s.st.core).icache (Memory.line pa) = none ∧
    (s.core s.st.core).icache.length < 256
  clean   : s.poisoned (Memory.line pa) = false
  settled : ∀ a ∈ dieOf s.st.core :: s.st.left, ∀ d, (s.path a d).writes = []
  decodes : decode (BitVec.ofNat 32 (Memory.readN s.mem pa 4)) = .ok i

end Sys2Proof.Claims

section
open Sys2Proof Sys2Proof.Machine Sys2Proof.Claims

/-- Scalar instructions of one and of two sources (R79, R80, R82, R84, R86, R90): the register they write, and that they write
nothing else. Codes that R79, R80, R84 and R90 do not list are illegal. -/
def Obligations.ScalarResult : Prop :=
  (∀ iv d a n sc, ∀ p ∈ oneSource iv d a n sc, ∀ s, Completes p.1 (infoR (encode p.1) iv sc (gs [d, a])) s fun e t =>
    ScalarEffect e t d (p.2 (e.G a)) e.nextPc) ∧
  (∀ iv d a b sc, ∀ p ∈ twoSource iv d a b sc, ∀ s, Completes p.1 (infoR (encode p.1) iv sc (gs [d, a, b])) s fun e t =>
    ScalarEffect e t d (p.2 (e.G a) (e.G b)) e.nextPc) ∧
  ∀ w : BitVec 32, w.getLsbD 31 = false →
    (majorOf w = 0x01 ∧ 0x0E < fnOf w) ∨ (majorOf w = 0x02 ∧ 0x06 < fnOf w) ∨ (majorOf w = 0x04 ∧ 0x06 < fnOf w) ∨
      (majorOf w = 0x0F ∧ 0x02 < fnOf w) → decode w = .error .illegalInstruction

/-- Reading and rounding of floating-point numbers (R46, R47, R51 to R53): what each encoding stands for, subnormals read as
zeros under fz, and what every rounding mode makes of an exact value, with the exceptions it raises; and rounding to an integer
of a range (R51). Under fz the exceptions of a tiny value are as without it, which is the model's reading (log 53). -/
def Obligations.RoundingResult : Prop :=
  (∀ p ∈ formats, ∀ fz : Bool,
    (∀ b, b < 2 ^ p.1.w → ∀ neg n, neg = b.testBit (p.1.w - 1) → n = b % 2 ^ (p.1.w - 1) →
      (p.1.ieee = true → n = p.2.2.1 → p.1.decode fz b = .inf neg) ∧
      ((if p.1.ieee then p.2.2.1 else p.2.1) < n → p.1.decode fz b = .nan) ∧
      (n ≤ p.2.1 → ∃ m e, p.1.decode fz b = .fin neg m e ∧
        (m : ℚ) * 2 ^ e = if (fz && p.1.flush) = true ∧ n < 2 ^ p.1.mw then 0 else magnitude p.1 n)) ∧
    (∀ rm rnd neg, p.1.round rm fz rnd .nan = (p.2.2.2, 0) ∧
      p.1.round rm fz rnd (.inf neg) = (p.1.signBit neg + p.2.2.1, if p.1.ieee then 0 else Fl.of ||| Fl.nx ||| Fl.sat) ∧
      (∀ e, p.1.round rm fz rnd (.fin neg 0 e) = (p.1.signBit neg, 0)) ∧
      ∀ (m : Nat) e, m ≠ 0 → Rounded p rm fz rnd neg (cutAt ((m : ℚ) * 2 ^ e)) (p.1.round rm fz rnd (.fin neg m e)))) ∧
  ∀ (rm : RM) (lo hi : Int), lo ≤ hi →
    Num.toRange .nan rm lo hi = (0, Fl.nv) ∧
    (∀ neg : Bool, Num.toRange (.inf neg) rm lo hi = (if neg then lo else hi, Fl.sat ||| Fl.nx)) ∧
    ∀ (neg : Bool) (m : Nat) e, ∃ b v, Picks (fun n => n) (if rm = .st then .ne else rm) neg 0 (cutAt ((m : ℚ) * 2 ^ e)) b ∧
      v = (if neg then -(b : Int) else b) ∧
      ((v < lo ∨ hi < v) → Num.toRange (.fin neg m e) rm lo hi = (max lo (min hi v), Fl.sat ||| Fl.nx)) ∧
      (lo ≤ v → v ≤ hi → ((b : ℚ) = m * 2 ^ e → Num.toRange (.fin neg m e) rm lo hi = (v, 0)) ∧
        ((b : ℚ) ≠ m * 2 ^ e → Num.toRange (.fin neg m e) rm lo hi = (v, Fl.nx)))

/-- Scalar instructions with an immediate (R85, R87, R88), and its value (R25): the field, or the data of one or two extension
hints ahead of it, the first hint most significant, sign-extended; bfx, bfi and sel.nz (R83, R84), bit i of the result. -/
def Obligations.ImmediateAndField : Prop :=
  (∀ iv d a b sc s,
    (Completes (.bfx iv d a b sc) (infoR (encode (.bfx iv d a b sc)) iv sc (gs [d, a, b])) s fun e t =>
      ∃ y, ScalarEffect e t d y e.nextPc ∧ ∀ i, y.getLsbD i =
        (decide (i < (fieldAt (e.G b)).2) && (e.G a).getLsbD ((fieldAt (e.G b)).1 + i))) ∧
    (Completes (.bfi iv d a b sc) (infoR (encode (.bfi iv d a b sc)) iv sc (gs [d, a, b])) s fun e t =>
      ∃ y, ScalarEffect e t d y e.nextPc ∧ ∀ i, y.getLsbD i =
        if (fieldAt (e.G b)).1 ≤ i ∧ i < (fieldAt (e.G b)).1 + (fieldAt (e.G b)).2 then
          (e.G a).getLsbD (i - (fieldAt (e.G b)).1) else (e.G d).getLsbD i) ∧
    (Completes (.selNz iv d a b sc) (infoR (encode (.selNz iv d a b sc)) iv sc (gs [d, a, b])) s fun e t =>
      (e.G a ≠ 0 → ScalarEffect e t d (e.G b) e.nextPc) ∧ (e.G a = 0 → JumpEffect e t e.nextPc))) ∧
  (∀ iv d a sc s,
    (∀ i, ∀ p ∈ immediate iv d a i sc, Completes p.1 (infoR (encode p.1) iv sc (gs [d, a])) s fun e t =>
      ScalarEffect e t d (p.2 (e.G a) (immV e.st.hints 10 i.toNat)) e.nextPc) ∧
    (∀ c i, Completes (.cmpi iv d a c i sc) (infoR (encode (.cmpi iv d a c i sc)) iv sc (gs [d, a])) s fun e t =>
      ScalarEffect e t d (if relation c (e.G a) (immV e.st.hints 7 i.toNat) then 1 else 0) e.nextPc) ∧
    (∀ i, Completes (.movi iv d i) (infoJ (encode (.movi iv d i)) iv (gs [d])) s fun e t =>
      ScalarEffect e t d (immV e.st.hints 19 i.toNat) e.nextPc)) ∧
  ((∀ x : BitVec 10, immV [] 10 x.toNat = x.signExtend 64) ∧
  (∀ (w : BitVec 32) (x : BitVec 10), hintKind w = 0 →
    immV [w] 10 x.toNat = (w.extractLsb' 0 22 ++ x).signExtend 64) ∧
  (∀ (v w : BitVec 32) (x : BitVec 10), hintKind v = 0 → hintKind w = 0 →
    immV [v, w] 10 x.toNat = (v.extractLsb' 0 22 ++ w.extractLsb' 0 22 ++ x).signExtend 64) ∧
  (∀ (m : BitVec 32) (x : BitVec 10), hintKind m = 1 → immV [m] 10 x.toNat = x.signExtend 64))

/-- The floating-point operations of vector elements (R47, R55, R104 to R106): sums, products and multiply-adds of finite elements
are the exact value rounded once, an exact zero with the sign that R104 gives it, and the NaNs and infinities are those of R47;
minimum and maximum choose an operand, sign operations change no other bit; quotients, reciprocals and square roots of finite
elements are the exact value rounded to nearest-even. -/
def Obligations.ElementRounding : Prop :=
  (∀ p ∈ formats, ∀ q ∈ floatSums, ∀ (rm : RM) (fz : Bool) (a b d : Nat) (x y z : Machine.Num) (l : List (Bool × ℚ)),
    x = p.1.decode fz a → y = p.1.decode fz b → z = p.1.decode fz d → l = q.2.2 x y z →
    (IsFin x → IsFin y → (q.2.1 = true → IsFin z) →
      (∀ neg, (l.map (·.2)).sum ≠ 0 → (neg = true ↔ (l.map (·.2)).sum < 0) →
        Rounded p rm fz 0 neg (cutAt |(l.map (·.2)).sum|) (q.1 p.1 rm fz a b d)) ∧
      ((l.map (·.2)).sum = 0 → (∀ neg, (∀ t ∈ l, t = (neg, 0)) → q.1 p.1 rm fz a b d = (p.1.signBit neg, 0)) ∧
        ((∀ neg, ∃ t ∈ l, t ≠ (neg, 0)) → q.1 p.1 rm fz a b d = (p.1.signBit (rm == .dn), 0)))) ∧
    (x = .nan ∨ y = .nan ∨ (q.2.1 = true ∧ z = .nan) → (q.1 p.1 rm fz a b d).1 = p.2.2.2)) ∧
  (∀ p ∈ formats, ∀ (rm : RM) (fz : Bool) (a b : Nat) (x y : Machine.Num) (neg : Bool),
    x = p.1.decode fz a → y = p.1.decode fz b → x = .inf neg →
    (y = .inf (!neg) → fAdd p.1 rm fz a b 0 = (p.2.2.2, Fl.nv)) ∧
    (y ≠ .nan → y ≠ .inf (!neg) → fAdd p.1 rm fz a b 0 = (p.1.signBit neg + p.2.2.1, 0)) ∧
    (IsFin y → value y = 0 → fMul p.1 rm fz a b 0 = (p.2.2.2, Fl.nv)) ∧
    (y ≠ .nan → (IsFin y → value y ≠ 0) → fMul p.1 rm fz a b 0 = (p.1.signBit (neg ^^ y.neg?) + p.2.2.1, 0))) ∧
  (∀ p ∈ formats, ∀ (rm : RM) (fz : Bool) (a b : Nat), a < 2 ^ p.1.w → b < 2 ^ p.1.w → ∀ x y, x = p.1.decode fz a → y = p.1.decode fz b →
    (∀ most : Bool, (fPick most p.1 rm fz a b 0).2 = 0 ∧
      (x = .nan → y = .nan → (fPick most p.1 rm fz a b 0).1 = p.2.2.2) ∧
      (x = .nan → IsFin y → p.1.decode fz (fPick most p.1 rm fz a b 0).1 = p.1.decode fz b) ∧
      (IsFin x → IsFin y → ∃ c ∈ [a, b], ∀ z, z = p.1.decode false (fPick most p.1 rm fz a b 0).1 →
        value z = value (p.1.decode fz c) ∧ z.neg? = (p.1.decode fz c).neg? ∧
        value z = (if most then max (value x) (value y) else min (value x) (value y)) ∧
        (value x = value y → z.neg? = if most then x.neg? && y.neg? else x.neg? || y.neg?))) ∧
    (x = .nan → fAbs p.1 rm fz a b 0 = (p.2.2.2, 0) ∧ fNeg p.1 rm fz a b 0 = (p.2.2.2, 0)) ∧
    (IsFin x → (fAbs p.1 rm fz a b 0).2 = 0 ∧ (fNeg p.1 rm fz a b 0).2 = 0 ∧
      ∀ u v, u = p.1.decode false (fAbs p.1 rm fz a b 0).1 → v = p.1.decode false (fNeg p.1 rm fz a b 0).1 →
        value u = |value x| ∧ u.neg? = false ∧ value v = -value x ∧ v.neg? = !x.neg?)) ∧
  ∀ p ∈ formats, p.1 = .f16 ∨ p.1 = .b16 ∨ p.1 = .f32 → ∀ (fz : Bool) (a b : Nat) (x y : Machine.Num),
    x = p.1.decode fz a → y = p.1.decode fz b → IsFin x → value x ≠ 0 →
    (IsFin y → value y ≠ 0 → Rounded p .ne fz 0 (x.neg? ^^ y.neg?) (cutAt |value x / value y|) (p.1.finish .ne fz (divNum x y))) ∧
    Rounded p .ne fz 0 x.neg? (cutAt |1 / value x|) (p.1.finish .ne fz (rcpNum x)) ∧
    (0 < value x → Rounded p .ne fz 0 false (cutRoot (value x)) (p.1.finish .ne fz (sqrtNum x)) ∧
      Rounded p .ne fz 0 false (cutRoot (1 / value x)) (p.1.finish .ne fz (rsqNum x)))

/-- Division (R80, R81): the result is outstanding with destination set {G[d]}, memory is untouched. -/
def Obligations.DivisionResult : Prop :=
  ∀ iv d a b sc, ∀ p ∈ division iv d a b sc, ∀ s, Completes p.1 (infoLL (encode p.1) iv sc (gs [d, a, b])) s fun e t =>
    Outstanding e t (infoLL (encode p.1) iv sc (gs [d, a, b])) (gs [d]) [.g d (p.2 (e.G a) (e.G b))] ∧ UnitsKept e t

/-- Branches and calls (R97, R98), and register jumps (R99): to T[55:0] if T is a legal address, T read before G[31] is
written; else the trap, with T as its tval and nothing written. An unlisted code is illegal, a field that must be zero reserved. -/
def Obligations.ControlTransfer : Prop :=
  (∀ iv s,
    (∀ a c o, Completes (.bc iv a c o) ((infoJ (encode (.bc iv a c o)) iv (gs [a])).need (decide (c.toNat < 6))) s fun e t =>
      JumpEffect e t (if relation c (e.G a) 0 then branchTo e (immV e.st.hints 16 o.toNat) else e.nextPc)) ∧
    (∀ a o, Completes (.dbnz iv a o) (infoJ (encode (.dbnz iv a o)) iv (gs [a])) s fun e t =>
      ScalarEffect e t a (e.G a - 1) (if e.G a = 1 then e.nextPc else branchTo e (immV e.st.hints 16 o.toNat))) ∧
    (∀ o, Completes (.b iv o) (infoJ (encode (.b iv o)) iv []) s fun e t =>
      JumpEffect e t (branchTo e (immV e.st.hints 24 o.toNat))) ∧
    (∀ o, Completes (.call iv o) (infoJ (encode (.call iv o)) iv [.g 31]) s fun e t =>
      ScalarEffect e t 31 e.nextPc (branchTo e (immV e.st.hints 24 o.toNat)))) ∧
  (∀ iv a sc s,
    (Completes (.jr iv a sc) (infoR (encode (.jr iv a sc)) iv sc (gs [a])) s fun e t =>
      (jumpRefused (e.G a) = none → JumpEffect e t (e.G a &&& 0x00FFFFFFFFFFFFFF)) ∧
      ∀ c, jumpRefused (e.G a) = some c → t = e.precise c (e.G a)) ∧
    (Completes (.jrl iv a sc) (infoR (encode (.jrl iv a sc)) iv sc (gs [a, 31])) s fun e t =>
      (jumpRefused (e.G a) = none → ScalarEffect e t 31 e.nextPc (e.G a &&& 0x00FFFFFFFFFFFFFF)) ∧
      ∀ c, jumpRefused (e.G a) = some c → t = e.precise c (e.G a)) ∧
    (Completes (.ret iv sc) (infoR (encode (.ret iv sc)) iv sc (gs [31])) s fun e t =>
      (jumpRefused (e.G 31) = none → JumpEffect e t (e.G 31 &&& 0x00FFFFFFFFFFFFFF)) ∧
      ∀ c, jumpRefused (e.G 31) = some c → t = e.precise c (e.G 31))) ∧
  ∀ w : BitVec 32, w.getLsbD 31 = false →
    (majorOf w = 0x1C → w.extractLsb' 16 3 = 7 → decode w = .error .illegalInstruction) ∧
    (majorOf w = 0x1F → 0x02 < fnOf w → decode w = .error .illegalInstruction) ∧
    (majorOf w = 0x1F → fnOf w < 0x02 → w.extractLsb' 19 5 ≠ 0 ∨ w.extractLsb' 9 5 ≠ 0 → decode w = .error .reservedField) ∧
    (majorOf w = 0x1F → fnOf w = 0x02 → w.extractLsb' 9 15 ≠ 0 → decode w = .error .reservedField)

/-! ## Memory -/

/-- An access is granted in the order of R95 exactly when none of its checks fails, and the first that fails decides its
cause (R95, R142, R200, R234, R370, R388): the address, the alignment, the cover, a revoked entry, the rights, a host-mapped
entry.
The tval is the address, and nothing has changed. The order of coverage, rights and window is the model's reading (log 42).
-/
def Obligations.AccessChecks : Prop :=
  (∀ e a va n tgt, Granted e a va n tgt ↔ e.check e.st a va n = .ok tgt e) ∧
  (∀ (e : State) (a : Acc) (va : Word) (n : Nat), a ≠ .fetch →
    (va >>> 60 ≠ 0 → e.check e.st a va n = .trap e 0x40 va) ∧
    (winOf va = 0xFE → (a = .waita ∨ a = .wake ∨ va.toNat / 2 ^ 40 % 256 ≠ 0) → e.check e.st a va n = .trap e 0x40 va) ∧
    (va >>> 60 = 0 → winOf va ≠ 0xFE →
      (¬ n ∣ va.toNat → e.check e.st a va n = .trap e 0x43 va) ∧
      (n ∣ va.toNat →
        (e.find e.st va = none → e.check e.st a va n = .trap e 0x41 va) ∧
        ∀ tgt, e.find e.st va = some tgt →
          (tgt.revoked = true → e.check e.st a va n = .trap e 0x48 va) ∧
          (tgt.revoked = false →
            (a.allowed tgt = false → e.check e.st a va n = .trap e 0x42 va) ∧
            (a.allowed tgt = true → tgt.space = .host →
              e.check e.st a va n = .trap e (if a = .atomic then 0x47 else 0x46) va)))))

/-- Plain loads and ld.lit (R89, R91, R92, R94, R95): the bytes of the line as the core sees it, extended, will be written to
G[d]; no byte of memory changes beyond the writes that were ahead on the path. That a load takes its value at issue is the
model's choice (log 8). -/
def Obligations.PlainLoad : Prop :=
  ∀ iv d b i o h z l sc s tgt, ∀ p ∈ plainLoads iv d b i o h z l sc,
    CompletesWhen p.1 p.2.1 s
      (fun e => Granted e p.2.2.1 (p.2.2.2.1 e) p.2.2.2.2.1 tgt ∧ (loadFinds e tgt.addr).poisoned (Memory.line tgt.addr) = false ∧
        (spaceOf tgt.addr ≠ .scratch → p.2.2.1 = .load → tgt.t = true →
          keyOf (p.2.2.2.1 e) = lockSeen (loadFinds e tgt.addr) e.st.core tgt.addr))
      fun e t =>
        Outstanding e t p.2.1 (gs [d]) [.g d (p.2.2.2.2.2
          (if spaceOf tgt.addr = .scratch then Memory.readN e.mem tgt.addr p.2.2.2.2.1
           else Line.bytes (lineSeen (loadFinds e tgt.addr) e.st.core (Memory.line tgt.addr))
             (tgt.addr - Memory.line tgt.addr) p.2.2.2.2.1))] ∧
        BytesKept (loadFinds e tgt.addr) t ∧ t.locks = e.locks ∧ t.quads = e.quads ∧ t.clk = e.clk

/-- What a load of the core sees of a line (R94): byte by byte, the youngest of the core's buffered stores that wrote it. -/
def Obligations.BufferedBytes : Prop :=
  ∀ (c : Core) (line : Nat) (base : Line) (i : Nat), i < 64 →
    (c.merge line base).extractLsb' (8 * i) 8 =
      ((c.sbuf.reverse.find? fun l => l.line == line && l.mask.getLsbD i).map fun l => l.data.extractLsb' (8 * i) 8).getD
        (base.extractLsb' (8 * i) 8)

/-- Plain stores (R92, R94, R95, R205): into the scratchpad at once, where no copy job has still to read there (R271); else
into the core's store buffer, where every load of the core sees the stored bytes and no other byte changes, in memory beyond
the strand's own writes from dies it has left (R230) and those that a lock read found ahead of it (R209), or in what the core
sees. -/
def Obligations.PlainStore : Prop :=
  ∀ iv d b i o h z sc s tgt, ∀ p ∈ plainStores iv d b i o h z sc,
    CompletesWhen p.1 p.2.1 s
      (fun e => Granted e .store (p.2.2 e) (bytesOf z) tgt ∧ spaceOf tgt.addr ≠ .fabric ∧
        (tgt.t = true → keyOf (p.2.2 e) = lockSeen e e.st.core tgt.addr) ∧ e.scratchBusy tgt (bytesOf z) = false ∧
        (spaceOf tgt.addr ≠ .scratch → (e.core e.st.core).sbuf.length < 32 ∨
          (e.core e.st.core).sbuf.any (fun l => l.line == Memory.line tgt.addr) = true))
      fun e t => StrandGoesOn e t ∧ t.locks = e.locks ∧ t.poison = e.poison ∧
        (spaceOf tgt.addr = .scratch → Wrote e t tgt.addr (bytesOf z) (e.G d).toNat ∧ t.cores = e.cores ∧ t.hub = e.hub ∧
          t.dies = e.dies) ∧
        (spaceOf tgt.addr ≠ .scratch → (∀ b, b = storeFinds e tgt →
            BytesKept b t ∧ t.hub = b.hub ∧ t.dies = b.dies) ∧
          ∀ line base i, i < 64 →
            ((t.core e.st.core).merge line base).extractLsb' (8 * i) 8 =
              if line = Memory.line tgt.addr ∧ tgt.addr ≤ line + i ∧ line + i < tgt.addr + bytesOf z then
                (e.G d).extractLsb' (8 * (line + i - tgt.addr)) 8
              else ((e.core e.st.core).merge line base).extractLsb' (8 * i) 8)

/-- ld.s (R235, R236): the bytes at the owner's memory side, zero-extended, whatever the read cache and the store buffer
hold. -/
def Obligations.StrongLoad : Prop :=
  ∀ iv d b c o z sc s tgt e',
    CompletesWhen (.ldS iv d b c o z sc)
      ((infoLL (encode (.ldS iv d b c o z sc)) iv sc (gs [d, b])).need (Wf.scope c && (o == 0 || o == 1))) s
      (fun e => AtSide e (.strongLd (if z = 0 then 4 else 8)) (e.G b) (if z = 0 then 4 else 8) tgt e' ∧
        e'.poisoned (Memory.line tgt.addr) = false)
      fun e t =>
        Outstanding e t ((infoLL (encode (.ldS iv d b c o z sc)) iv sc (gs [d, b])).need (Wf.scope c && (o == 0 || o == 1)))
          (gs [d]) [.g d (BitVec.ofNat 64 (Memory.readN e'.mem tgt.addr (if z = 0 then 4 else 8)))] ∧
        BytesKept e' t ∧ t.cores = e.cores ∧ t.locks = e.locks

/-- st.s (R222, R225, R235, R236): at .pkg, or on the core's own die, the bytes are written at the owner's memory side; below
.pkg another die's path takes them and no byte of them has changed yet. At .rel the writes that the paths of the dies the strand
has left had accepted are performed first, at .pkg.rel those of its own die's paths too, which is the model's reading
(log 43). The core's read cache no longer holds the line, its store buffer no older
bytes of them (R220), and nothing is left outstanding to a register. -/
def Obligations.StrongStore : Prop :=
  ∀ iv d b c o z sc s tgt e',
    CompletesWhen (.stS iv d b c o z sc)
      ((infoLL (encode (.stS iv d b c o z sc)) iv sc (gs [d, b])).need (Wf.scope c && (o == 0 || o == 2))) s
      (fun e => AtSide e (.strongSt (if z = 0 then 4 else 8)) (e.G b) (if z = 0 then 4 else 8) tgt e' ∧
        (if z = 0 then 4 else 8) ∣ tgt.addr ∧ e'.freed (Memory.line tgt.addr) = false)
      fun e t =>
        Outstanding e t ((infoLL (encode (.stS iv d b c o z sc)) iv sc (gs [d, b])).need (Wf.scope c && (o == 0 || o == 2)))
          [] [] ∧
        ((t.core e.st.core).cached (Memory.line tgt.addr)).isNone = true ∧ t.locks = e.locks ∧
        (∀ l ∈ (t.core e.st.core).sbuf, l.line = Memory.line tgt.addr → ∀ i, tgt.addr % 64 ≤ i →
          i < tgt.addr % 64 + (if z = 0 then 4 else 8) → l.mask.getLsbD i = false) ∧
        (c = 3 ∨ e'.ownerDie (Memory.line tgt.addr) = dieOf e.st.core →
          Wrote (performedAt e' e.st (o == 2) (c == 3) tgt.addr) t tgt.addr (if z = 0 then 4 else 8) (e.G d).toNat) ∧
        (c ≠ 3 → e'.ownerDie (Memory.line tgt.addr) ≠ dieOf e.st.core → BytesKept (releasedAt e' e.st (o == 2) false) t ∧
          (t.path (dieOf e.st.core) (e'.ownerDie (Memory.line tgt.addr))).accepted =
            (e'.path (dieOf e.st.core) (e'.ownerDie (Memory.line tgt.addr))).accepted + 1)

/-- Atomics (R237, R238): one read-modify-write of die or private memory at its owner's memory side. The old value will be
written to G[d], the new value stands in memory, and the core's read cache drops the line; no other byte changes beyond the
writes that a release performs first, which is the model's reading (log 43). -/
def Obligations.AtomicResult : Prop :=
  ∀ iv d a b z sc s tgt e', ∀ p ∈ amos iv d a b z sc,
    CompletesWhen p.1 (infoLL (encode p.1) iv sc (gs [d, a, b])) s
      (fun e => AtSide e .atomic (e.G a) (if z = 0 then 4 else 8) tgt e' ∧ (if z = 0 then 4 else 8) ∣ tgt.addr ∧
        e'.poisoned (Memory.line tgt.addr) = false ∧ e'.freed (Memory.line tgt.addr) = false)
      fun e t => ∀ f w old, f = releasedAt e' e.st (releases e) (atPkg e) → w = (if z = 0 then 32 else 64) →
          old = Memory.readN f.mem tgt.addr (w / 8) →
        Outstanding e t (infoLL (encode p.1) iv sc (gs [d, a, b])) (gs [d]) [.g d (BitVec.ofNat 64 old)] ∧
        Wrote f t tgt.addr (w / 8)
          (p.2 w (BitVec.ofNat w old) ((e.G b).setWidth w)).toNat ∧
        ((t.core e.st.core).cached (Memory.line tgt.addr)).isNone = true ∧ t.locks = e.locks

/-- cas and amo.fadd (R237, R238): cas writes G[b] where it finds G[d], and otherwise leaves what it found; amo.fadd writes the
sum rounded to nearest-even, whatever the rounding mode, and leaves the flags. The writes that a release performs first are the
model's reading (log 43). -/
def Obligations.CompareAndFloatAdd : Prop :=
  ∀ iv d a b z sc s tgt e',
    (CompletesWhen (.cas iv d a b z sc) (infoLL (encode (.cas iv d a b z sc)) iv sc (gs [d, a, b])) s
      (fun e => AtSide e .atomic (e.G a) (if z = 0 then 4 else 8) tgt e' ∧ (if z = 0 then 4 else 8) ∣ tgt.addr ∧
        e'.poisoned (Memory.line tgt.addr) = false ∧ e'.freed (Memory.line tgt.addr) = false)
      fun e t => ∀ f w old, f = releasedAt e' e.st (releases e) (atPkg e) → w = (if z = 0 then 32 else 64) →
          old = Memory.readN f.mem tgt.addr (w / 8) →
        Outstanding e t (infoLL (encode (.cas iv d a b z sc)) iv sc (gs [d, a, b])) (gs [d]) [.g d (BitVec.ofNat 64 old)] ∧
        (BitVec.ofNat w old = (e.G d).setWidth w → Wrote f t tgt.addr (w / 8) (e.G b).toNat) ∧
        (BitVec.ofNat w old ≠ (e.G d).setWidth w → BytesKept f t)) ∧
    (CompletesWhen (.amoFadd iv d a b sc) (infoLL (encode (.amoFadd iv d a b sc)) iv sc (gs [d, a, b])) s
      (fun e => AtSide e .atomic (e.G a) 4 tgt e' ∧ 4 ∣ tgt.addr ∧
        e'.poisoned (Memory.line tgt.addr) = false ∧ e'.freed (Memory.line tgt.addr) = false)
      fun e t => ∀ f old, f = releasedAt e' e.st (releases e) (atPkg e) → old = Memory.readN f.mem tgt.addr 4 →
        Outstanding e t (infoLL (encode (.amoFadd iv d a b sc)) iv sc (gs [d, a, b])) (gs [d]) [.g d (BitVec.ofNat 64 old)] ∧
        Wrote f t tgt.addr 4
          (Fmt.f32.round .ne false 0 (Num.sum .ne [Fmt.f32.decode false old,
            Fmt.f32.decode false ((e.G b).toNat % 2 ^ 32)]).1).1 ∧
        t.st.ctl.fcr = e.st.ctl.fcr)

/-- waita and wake (R225, R241, R242): where the owner's watch table of 2,048 is full waita counts it and completes with the
value; else it completes with a value that differs from G[b], or waits with its watch armed. wake, behind the writes of its
path, takes every watch off the line, so that their strands read again. -/
def Obligations.WatchResult : Prop :=
  ∀ iv d a b sc s tgt e',
    (CompletesWhen (.waita iv d a b sc) (infoR (encode (.waita iv d a b sc)) iv sc (gs [d, a, b])) s
      (fun e => AtSide e .waita (e.G a) 8 tgt e' ∧ e'.poisoned (Memory.line tgt.addr) = false)
      fun e t => ∀ v ws, v = BitVec.ofNat 64 (Memory.readN e'.mem tgt.addr 8) →
        ws = (e'.die (e'.ownerDie (Memory.line tgt.addr))).watches.filter (fun w => w.sid != e'.st.sid.toNat) →
        (v ≠ e.G b → ws.length < 2048 → SetsG e t d v ∧ Ended e t e.nextPc ∧ BytesKept e' t ∧ t.hub = e'.hub) ∧
        (2048 ≤ ws.length → SetsG e t d v ∧ Ended e t e.nextPc ∧ BytesKept e' t ∧ Counts e' t e.st.pid .waitFull 1) ∧
        (v = e.G b → ws.length < 2048 → KeepsG e t ∧ BytesKept e' t ∧ t.st.pc = e.st.pc ∧
          t.st.wait = some (.waitA (Memory.line tgt.addr) (e.G a) d false) ∧
          (t.die (e'.ownerDie (Memory.line tgt.addr))).watches = ws ++ [⟨Memory.line tgt.addr, e'.st.sid.toNat⟩])) ∧
    (CompletesWhen (.wake iv a sc) (infoR (encode (.wake iv a sc)) iv sc (gs [a])) s
      (fun e => AtSide e .wake (e.G a) 8 tgt e' ∧ (e'.die (e'.ownerDie (Memory.line tgt.addr))).halted = false)
      fun e t => StrandGoesOn e t ∧ BytesKept e' t ∧
        (t.die (e'.ownerDie (Memory.line tgt.addr))).watches =
          (e'.die (e'.ownerDie (Memory.line tgt.addr))).watches.filter fun w => w.line != Memory.line tgt.addr)

/-- ld.s, st.s, the atomics and cas in the scratchpad window (R200, R234): performed at the core's SRAM, at once where no
copy job has still to read the bytes (R271). The writes that a release performs first are the model's reading (log 43). -/
def Obligations.ScratchpadAccess : Prop :=
  ∀ iv d b a c o z sc s tgt n, n = (if z = 0 then 4 else 8) →
    (CompletesWhen (.ldS iv d b c o z sc)
      ((infoLL (encode (.ldS iv d b c o z sc)) iv sc (gs [d, b])).need (Wf.scope c && (o == 0 || o == 1))) s
      (fun e => Granted e (.strongLd n) (e.G b) n tgt ∧ spaceOf tgt.addr = .scratch ∧
        e.poisoned (Memory.line tgt.addr) = false)
      fun e t => Outstanding e t
          ((infoLL (encode (.ldS iv d b c o z sc)) iv sc (gs [d, b])).need (Wf.scope c && (o == 0 || o == 1)))
          (gs [d]) [.g d (BitVec.ofNat 64 (Memory.readN e.mem tgt.addr n))] ∧ UnitsKept e t) ∧
    (CompletesWhen (.stS iv d b c o z sc)
      ((infoLL (encode (.stS iv d b c o z sc)) iv sc (gs [d, b])).need (Wf.scope c && (o == 0 || o == 2))) s
      (fun e => Granted e (.strongSt n) (e.G b) n tgt ∧ spaceOf tgt.addr = .scratch ∧ e.scratchBusy tgt n = false)
      fun e t => Outstanding e t
          ((infoLL (encode (.stS iv d b c o z sc)) iv sc (gs [d, b])).need (Wf.scope c && (o == 0 || o == 2))) [] [] ∧
        Wrote (releasedAt e e.st (o == 2) (c == 3)) t tgt.addr n (e.G d).toNat) ∧
    (∀ p ∈ amos iv d a b z sc, CompletesWhen p.1 (infoLL (encode p.1) iv sc (gs [d, a, b])) s
      (fun e => Granted e .atomic (e.G a) n tgt ∧ spaceOf tgt.addr = .scratch ∧ e.scratchBusy tgt n = false ∧
        e.poisoned (Memory.line tgt.addr) = false)
      fun e t => ∀ f old, f = releasedAt e e.st (releases e) (atPkg e) → old = Memory.readN f.mem tgt.addr n →
        Outstanding e t (infoLL (encode p.1) iv sc (gs [d, a, b])) (gs [d]) [.g d (BitVec.ofNat 64 old)] ∧
        Wrote f t tgt.addr n
          (p.2 (8 * n) (BitVec.ofNat (8 * n) old) ((e.G b).setWidth (8 * n))).toNat) ∧
    (CompletesWhen (.cas iv d a b z sc) (infoLL (encode (.cas iv d a b z sc)) iv sc (gs [d, a, b])) s
      (fun e => Granted e .atomic (e.G a) n tgt ∧ spaceOf tgt.addr = .scratch ∧ e.scratchBusy tgt n = false ∧
        e.poisoned (Memory.line tgt.addr) = false)
      fun e t => ∀ f old, f = releasedAt e e.st (releases e) (atPkg e) → old = Memory.readN f.mem tgt.addr n →
        Outstanding e t (infoLL (encode (.cas iv d a b z sc)) iv sc (gs [d, a, b])) (gs [d]) [.g d (BitVec.ofNat 64 old)] ∧
        (BitVec.ofNat (8 * n) old = (e.G d).setWidth (8 * n) → Wrote f t tgt.addr n (e.G b).toNat))

/-! ## Fences, tags and extents (11, 12) -/

/-- phase, fence.x and ifence (R205, R214, R218, R226, R248). A drain writes the buffered bytes of the die's own pages at their
memory side and gives the lines of other dies' pages to the paths there; no other byte changes. phase drains the core's store
buffer, performs what the strand left on the paths of other dies (R230), and no byte changes beyond that; it ends at once, the
read cache emptied, at .quad and .die and where every write the die's paths accepted has been performed, and waits otherwise;
fence.x does the same at .pkg and keeps the read cache. ifence empties the core's instruction cache and the strand's fetch buffer.
fence.r and fence.a (R225, R245, R246) end at once where the strand's reflected stores to the window G[a][7:0] (to any window
where G[a][63] is set) are visible, or where every write that the paths of die G[a][3:0] have accepted is performed; else the
strand waits. Which of the fences wait, and for what, is the model's reading (log 43). -/
def Obligations.FenceResult : Prop :=
  (∀ e core, Drained e (e.drainPath core) core) ∧
  (∀ iv c sc s,
    (Completes (.phase iv c sc) ((infoR (encode (.phase iv c sc)) iv sc []).need (c == 1 || c == 2 || c == 3)) s fun e t =>
      KeepsG e t ∧ VectorKept e t ∧ SpecialKept e t ∧ (t.core e.st.core).sbuf = [] ∧ t.st.left = [] ∧
      (∀ f, f = (e.drainPath e.st.core).flushLeft e.st → BytesKept f t ∧ t.dies = f.dies) ∧
      ((Ended e t e.nextPc ∧ (t.core e.st.core).rcache = [] ∧
          (c = 3 → t.performedUpTo (dieOf e.st.core) (t.acceptedBy (dieOf e.st.core)) = true)) ∨
        (c = 3 ∧ t.st.pc = e.st.pc ∧ t.st.wait = some (.phase (t.acceptedBy (dieOf e.st.core))) ∧
          t.performedUpTo (dieOf e.st.core) (t.acceptedBy (dieOf e.st.core)) = false)) ∧
      (c ≠ 3 → t.st.pc = e.nextPc)) ∧
    (Completes (.fenceX iv sc) (infoR (encode (.fenceX iv sc)) iv sc []) s fun e t =>
      KeepsG e t ∧ VectorKept e t ∧ SpecialKept e t ∧ (t.core e.st.core).sbuf = [] ∧ t.st.left = [] ∧
      (∀ f, f = (e.drainPath e.st.core).flushLeft e.st → BytesKept f t ∧ t.dies = f.dies) ∧
      ((Ended e t e.nextPc ∧ t.performedUpTo (dieOf e.st.core) (t.acceptedBy (dieOf e.st.core)) = true) ∨
        (t.st.pc = e.st.pc ∧ t.st.wait = some (.fenceX (t.acceptedBy (dieOf e.st.core))) ∧
          t.performedUpTo (dieOf e.st.core) (t.acceptedBy (dieOf e.st.core)) = false))) ∧
    (Completes (.ifence iv sc) (infoR (encode (.ifence iv sc)) iv sc []) s fun e t =>
      StrandGoesOn e t ∧ BytesKept e t ∧ (t.core e.st.core).icache = [] ∧ t.st.fbuf = [])) ∧
  (∀ iv a sc s,
    (Completes (.fenceR iv a sc) (infoR (encode (.fenceR iv a sc)) iv sc (gs [a])) s fun e t =>
      UnitsKept e t ∧ ∀ win, win = (if (e.G a).getLsbD 63 then none else some ((e.G a).setWidth 8).toNat) →
        (e.reflected e.st.sid.toNat win = true → StrandGoesOn e t) ∧
        (e.reflected e.st.sid.toNat win = false → t.st = { e.st with wait := some (.fenceR win) })) ∧
    (Completes (.fenceA iv a sc) (infoR (encode (.fenceA iv a sc)) iv sc (gs [a])) s fun e t =>
      UnitsKept e t ∧ ∀ die, die = ((e.G a).setWidth 4).toNat →
        ((∀ p ∈ (e.die die).paths, (e.path die p.1).writes = [] ∧ p.2.accepted = (e.path die p.1).accepted) → StrandGoesOn e t) ∧
        (e.performedUpTo die (e.acceptedBy die) = false →
          t.st = { e.st with wait := some (.fenceA die (e.acceptedBy die)) })))

/-- tag.set and tag.get (R212, R250, R251): the locks of the granules become the key of the address, no other lock changes;
with a granule on another die the strand waits. tag.get returns the granule's lock. What tag.set logs is the model's reading
(log 19). -/
def Obligations.TagResult : Prop :=
  ∀ iv d a b sc s,
    (∀ pa n, CompletesWhen (.tagSet iv a b sc) (infoR (encode (.tagSet iv a b sc)) iv sc (gs [a, b])) s
      (fun e => tagCheck e.st (e.G a) (e.G b) = .ok (pa, n))
      fun e t =>
        ((∀ i, i < n → e.ownerDie (pa + 32 * i) = dieOf e.st.core) → StrandGoesOn e t ∧
          BytesKept (if n = 0 then e else e.flushOf e.st) t ∧
          ∀ g, t.lockAt (32 * g) = if pa / 32 ≤ g ∧ g < pa / 32 + n then (e.G a).extractLsb' 56 4 else e.lockAt (32 * g)) ∧
        ((∃ i, i < n ∧ e.ownerDie (pa + 32 * i) ≠ dieOf e.st.core) →
          t.st = { e.st with wait := some (.tagSet (e.G a) (e.G b)) } ∧ UnitsKept e t)) ∧
    (∀ tgt e', CompletesWhen (.tagGet iv d a sc) (infoLL (encode (.tagGet iv d a sc)) iv sc (gs [d, a])) s
      (fun e => Granted e .tagGet (e.G a) 1 tgt ∧ spaceOf tgt.addr = .dieMem ∧
        e' = (e.behind e.st (Memory.line tgt.addr)).reach (dieOf e.st.core) (Memory.line tgt.addr) ∧
        e'.poisoned (Memory.line tgt.addr) = false)
      fun e t => Outstanding e t (infoLL (encode (.tagGet iv d a sc)) iv sc (gs [d, a])) (gs [d])
          [.g d ((e'.lockAt tgt.addr).setWidth 64)] ∧ BytesKept e' t ∧ t.locks = e.locks)

/-- xreq and xrel (R252, R253): where a valid entry covers the address, G[d] receives the lowest such entry's index in [3:0],
its rights in [11:8] and its revoked bit in [12], and nothing else changes; without one the strand waits for the translation
engine. xrel makes entry G[a][3:0] invalid and changes no other bit of any entry. When xreq answers at once is the model's
reading (log 45). -/
def Obligations.ExtentResult : Prop :=
  ∀ iv d a b sc s,
    (Completes (.xreq iv d a b sc) (infoR (encode (.xreq iv d a b sc)) iv sc (gs [d, a, b])) s fun e t =>
      UnitsKept e t ∧
      (∀ i (h : i < 16), Extent.covers e.st.ext[i] (e.G a) = true →
        (∀ j (_ : j < i), Extent.covers (e.st.ext[j]'(by omega)) (e.G a) = false) →
        ScalarEffect e t d (BitVec.ofNat 64 i ||| ((e.st.ext[i]).extractLsb' 192 4).setWidth 64 <<< 8 |||
          (if (e.st.ext[i]).getLsbD 78 then 0x1000 else 0)) e.nextPc) ∧
      ((∀ i (h : i < 16), Extent.covers e.st.ext[i] (e.G a) = false) →
        t.st = { e.st with wait := some (.xreq d (e.G a) (e.G b)) })) ∧
    (Completes (.xrel iv a sc) (infoR (encode (.xrel iv a sc)) iv sc (gs [a])) s fun e t =>
      KeepsG e t ∧ VectorKept e t ∧ t.st.ctl = e.st.ctl ∧ UnitsKept e t ∧ Ended e t e.nextPc ∧
      ∀ i (h : i < 16) j, (t.st.ext[i]).getLsbD j =
        ((e.st.ext[i]).getLsbD j && !(decide (i = (e.G a).toNat % 16) && decide (j = 77))))

/-! ## Vectors -/

/-- Element-wise arithmetic of one, two or three vectors, logic and shifts (R101, R102, R104 to R106): which operation each active
element undergoes, under which rounding mode and fz. IntegerElement and ElementRounding say what the operations give. Where the
rules name no format or size, the model's reading stands (log 41). -/
def Obligations.VectorArithResult : Prop :=
  (∀ iv d a b k sc s, ∀ p ∈ vectorTwo iv d a b k sc,
    CompletesWhen p.1 (infoR (encode p.1) iv sc (vs [d, a, b] ++ ks [k])) s
      (fun e => Ready e a p.2.1 ∧ tagOf e b = tagOf e a)
      fun e t => VectorEffect e t d (e.st.K k) (e.st.V a).tag (scaleFrom e a) (unitsIn e a) (widthIn e a)
        (fun i _ => arithElem (e.st.V a).tag p.2.2.1 (p.2.2.2.1 && e.st.satOn) e.st.rm.plain e.st.fz p.2.2.2.2.1 p.2.2.2.2.2
          (unitAt (e.st.V a) (widthIn e a) i) (unitAt (e.st.V b) (widthIn e a) i) (unitAt (e.st.V d) (widthIn e a) i)) 0) ∧
  (∀ iv d a b k sc s,
    (∀ p ∈ vectorThree iv d a b k sc, CompletesWhen p.1 (infoR (encode p.1) iv sc (vs [d, a, b] ++ ks [k])) s
      (fun e => Ready e a [1, 2, 3, 4, 7, 8, 9] ∧ tagOf e b = tagOf e a ∧ tagOf e d = tagOf e a)
      fun e t => VectorEffect e t d (e.st.K k) (e.st.V a).tag 0 (unitsIn e a) (widthIn e a)
        (fun i _ => arithElem (e.st.V a).tag true e.st.satOn e.st.rm.plain e.st.fz p.2.1 p.2.2
          (unitAt (e.st.V a) (widthIn e a) i) (unitAt (e.st.V b) (widthIn e a) i) (unitAt (e.st.V d) (widthIn e a) i)) 0) ∧
    (∀ p ∈ vectorOne iv d a k sc, CompletesWhen p.1 (infoR (encode p.1) iv sc (vs [d, a] ++ ks [k])) s
      (fun e => Ready e a p.2.1)
      fun e t => VectorEffect e t d (e.st.K k) (e.st.V a).tag 0 (unitsIn e a) (widthIn e a)
        (fun i _ => arithElem (e.st.V a).tag true e.st.satOn e.st.rm.plain e.st.fz p.2.2.1 p.2.2.2
          (unitAt (e.st.V a) (widthIn e a) i) 0 (unitAt (e.st.V d) (widthIn e a) i)) 0) ∧
    (∀ p ∈ vectorBits iv d a b k sc, CompletesWhen p.1 (infoR (encode p.1) iv sc (vs [d, a, b] ++ ks [k])) s
      (fun e => Ready e a p.2.1 ∧ tagOf e b = tagOf e a)
      fun e t => VectorEffect e t d (e.st.K k) (e.st.V a).tag (scaleFrom e a) (unitsIn e a) (widthIn e a)
        (fun i _ => ((p.2.2 (widthIn e a) (BitVec.ofNat _ (unitAt (e.st.V a) (widthIn e a) i))
          (BitVec.ofNat _ (unitAt (e.st.V b) (widthIn e a) i))).toNat, 0)) 0))

/-- Integer elements (R45, R106): the low bits of the exact result; under .sat the nearest value of the width, and the flag
sat where that differs. Integer conversions (R112): into a wider width with the fn's signedness, into a narrower one by its low
bits. -/
def Obligations.IntegerElement : Prop :=
  (∀ (t : BitVec 4) (signed sat : Bool) (rm : RM) (fz : Bool) (fi : IntOp) (ff : FloatOp) (a b d w : Nat) (x : Int),
    t.toNat ∈ [1, 2, 3, 4] → w = 4 * 2 ^ t.toNat → x = fi (asInt signed w a) (asInt signed w b) (asInt signed w d) →
    (sat = false → arithElem t signed sat rm fz fi ff a b d = ((x % 2 ^ w).toNat, 0)) ∧
    (sat = true →
      let lo : Int := if signed then -2 ^ (w - 1) else 0
      let hi : Int := if signed then 2 ^ (w - 1) - 1 else 2 ^ w - 1
      arithElem t signed sat rm fz fi ff a b d =
        ((max lo (min hi x) % 2 ^ w).toNat, if lo ≤ x ∧ x ≤ hi then 0 else Fl.sat))) ∧
  (∀ (x : Strand) (f t : BitVec 4) (scale : Word) (signed : Bool) (i j b : Nat),
    f.toNat ∈ [1, 2, 3, 4] → t.toNat ∈ [1, 2, 3, 4] →
    cvtElem x f t scale signed i j b =
      (if signed then ((BitVec.ofNat (4 * 2 ^ f.toNat) b).signExtend (4 * 2 ^ t.toNat)).toNat
        else ((BitVec.ofNat (4 * 2 ^ f.toNat) b).setWidth (4 * 2 ^ t.toNat)).toNat, 0))

/-- The vector-scalar forms, vbcast, vset, vget and vget.n (R116). That vget.n takes be4 and bi8 elements is the model's
reading (log 41). -/
def Obligations.VectorScalarResult : Prop :=
  ∀ iv d a g k sc s,
    (∀ p ∈ vectorScalar iv d a g k sc, CompletesWhen p.1 (infoR (encode p.1) iv sc (vs [d, a] ++ gs [g] ++ ks [k])) s
      (fun e => Ready e a p.2.1 ∧ (p.2.2.2.1 = true → tagOf e d = tagOf e a))
      fun e t => VectorEffect e t d (e.st.K k) (e.st.V a).tag 0 (unitsIn e a) (widthIn e a)
        (fun i _ => arithElem (e.st.V a).tag p.2.2.1 e.st.satOn e.st.rm.plain e.st.fz p.2.2.2.2.1 p.2.2.2.2.2
          (unitAt (e.st.V a) (widthIn e a) i) ((e.G g).toNat % 2 ^ widthIn e a) (unitAt (e.st.V d) (widthIn e a) i)) 0) ∧
    (CompletesWhen (.vbcast iv d g k sc) (infoR (encode (.vbcast iv d g k sc)) iv sc (vs [d] ++ gs [g] ++ ks [k])) s
      (fun e => Ready e d (List.range 15))
      fun e t => VectorEffect e t d (e.st.K k) (e.st.V d).tag (e.st.V d).scale (unitsIn e d) (widthIn e d)
        (fun _ _ => (if tagOf e d = 12 then (e.G g).toNat % 16 + 16 * ((e.G g).toNat % 16)
          else (e.G g).toNat % 2 ^ widthIn e d, 0)) 0) ∧
    (CompletesWhen (.vset iv d g k sc) (infoR (encode (.vset iv d g k sc)) iv sc (vs [d] ++ gs [g] ++ ks [k])) s
      (fun e => Ready e d (List.range 15) ∧ tagOf e d ≠ 12)
      fun e t => ∀ m, (∀ i, i < 256 → (BitVec.getLsbD m i = true ↔
            (e.st.K k).getLsbD i = true ∧ i < e.st.rows * e.st.cols ∧ ∀ j, j < i → (e.st.K k).getLsbD j = false)) →
        VectorEffect e t d m (e.st.V d).tag (e.st.V d).scale (e.st.rows * e.st.cols) (widthIn e d)
          (fun _ _ => ((e.G g).toNat % 2 ^ widthIn e d, 0)) 0) ∧
    (CompletesWhen (.vget iv a g k sc) (infoR (encode (.vget iv a g k sc)) iv sc (gs [g] ++ vs [a] ++ ks [k])) s
      (fun e => Ready e a (List.range 15) ∧ tagOf e a ≠ 12)
      fun e t => ((∀ i, i < e.st.rows * e.st.cols → (e.st.K k).getLsbD i = false) → ScalarEffect e t g 0 e.nextPc) ∧
        ∀ j, j < e.st.rows * e.st.cols → (e.st.K k).getLsbD j = true → (∀ i, i < j → (e.st.K k).getLsbD i = false) →
          ScalarEffect e t g (if tagOf e a ∈ [1, 2, 3, 4]
            then (BitVec.ofNat (widthIn e a) (unitAt (e.st.V a) (widthIn e a) j)).signExtend 64
            else BitVec.ofNat 64 (unitAt (e.st.V a) (widthIn e a) j)) e.nextPc) ∧
    (CompletesWhen (.vgetN iv a g k sc) (infoR (encode (.vgetN iv a g k sc)) iv sc (gs [g] ++ vs [a] ++ ks [k])) s
      (fun e => Ready e a [0, 1, 2, 3, 4, 11, 13, 14])
      fun e t => ((∀ i, i < e.st.rows * e.st.cols → (e.st.K k).getLsbD i = false) → ScalarEffect e t g 0 e.nextPc) ∧
        ∀ j, j < e.st.rows * e.st.cols → (e.st.K k).getLsbD j = true → (∀ i, i < j → (e.st.K k).getLsbD i = false) →
          ScalarEffect e t g (BitVec.ofNat 64 (unitAt (e.st.V a) (widthIn e a) j)) e.nextPc)

/-- Selection and permutation (R108): the bits of the source unit, or zero where the index names none. -/
def Obligations.VectorMoveResult : Prop :=
  ∀ iv d a b n k sc s, ∀ p ∈ vectorMoves iv d a b n k sc,
    CompletesWhen p.1 (infoR (encode p.1) iv sc p.2.1) s
      (fun e => p.2.2.2.1 e ∧ Fits e (Wf.tagHalf (e.st.V a).tag))
      fun e t => VectorEffect e t d (if p.2.2.1 then BitVec.allOnes 256 else e.st.K k) (e.st.V a).tag (e.st.V a).scale
        (unitsIn e a) (widthIn e a)
        (fun i _ => (match p.2.2.2.2 e i with
          | some (r, j) => unitAt (e.st.V r) (widthIn e a) j
          | none => 0, 0)) 0

/-- Compares (R107): bit i of K[d] for each active element, masked-off bits of the shape kept, the bits above it cleared,
no flag. -/
def Obligations.VectorCompareResult : Prop :=
  ∀ iv d a b k sc s, ∀ p ∈ vectorCompares iv d a b k sc,
    CompletesWhen p.1 (infoR (encode p.1) iv sc (ks [d] ++ vs [a, b] ++ ks [k])) s
      (fun e => Ready e a p.2.1 ∧ tagOf e b = tagOf e a)
      fun e t => ∃ m, MaskEffect e t d m ∧ ∀ i, m.getLsbD i =
        (decide (i < e.st.rows * e.st.cols) && decide (i < 256) && if (e.st.K k).getLsbD i then
          relHolds (e.st.V a).tag p.2.2.1 e.st.fz p.2.2.2.1 p.2.2.2.2 (unitAt (e.st.V a) (widthIn e a) i)
            (unitAt (e.st.V b) (widthIn e a) i)
         else (e.st.K d).getLsbD i)

/-- Reductions (R109, R110): the active elements of the shape in increasing index into G[g], sign-extended for signed integer
operations; row r into element (r, 0) or column c into element (0, c), whatever the mask holds for that element (DEDUCED,
log 31), every other element zero. -/
def Obligations.ReductionResult : Prop :=
  ∀ iv d a g k sc s,
    (∀ p ∈ reductionsAll iv a g k sc, CompletesWhen p.1 (infoR (encode p.1) iv sc (gs [g] ++ vs [a] ++ ks [k])) s
      (fun e => Ready e a p.2.1.acc)
      fun e t => ∀ r, r = p.2.1.reduce (e.st.V a).tag e.st.rm.plain e.st.fz
          (elementsAt e a k (List.range (e.st.rows * e.st.cols))) →
        SetsG e t g (BitVec.ofInt 64 (if p.2.2 && (tagOf e a ∈ [1, 2, 3, 4]) then asInt true (widthIn e a) r.1
          else (r.1 % 2 ^ widthIn e a : Nat))) ∧
        VectorKept e t ∧ UnitsKept e t ∧ Ended e t e.nextPc ∧
        t.st.ctl = { e.st.ctl with fcr := e.st.ctl.fcr ||| (r.2.setWidth 15 <<< 8) }) ∧
    (∀ p ∈ reductionsLines iv d a k sc, CompletesWhen p.1 (infoR (encode p.1) iv sc (vs [d, a] ++ ks [k])) s
      (fun e => Ready e a p.2.1.acc)
      fun e t => VectorEffect e t d (BitVec.allOnes 256) (e.st.V a).tag 0 (unitsIn e a) (widthIn e a)
        (fun i _ =>
          if p.2.2 then
            if i % e.st.cols = 0 then p.2.1.reduce (e.st.V a).tag e.st.rm.plain e.st.fz
              (elementsAt e a k ((List.range e.st.cols).map (i + ·))) else (0, 0)
          else
            if i < e.st.cols then p.2.1.reduce (e.st.V a).tag e.st.rm.plain e.st.fz
              (elementsAt e a k ((List.range e.st.rows).map (· * e.st.cols + i))) else (0, 0)) 0)

/-- Conversions (R111, R112) and saturation (R114): element i in the width of the target, under its tag, the generator's
count raised by the outputs drawn. Where the rules name no format or size, the model's reading stands (log 41). -/
def Obligations.VectorConvertResult : Prop :=
  ∀ iv d a tg k sc s signed,
    (CompletesWhen (if signed then .vcvt iv d a tg k sc else .vcvtN iv d a tg k sc)
      { (infoR (if signed then encode (.vcvt iv d a tg k sc) else encode (.vcvtN iv d a tg k sc)) iv sc
          (vs [d, a] ++ ks [k])).need (decide (tg.toNat ∈ [1, 2, 3, 4, 5, 6, 7, 8, 9, 10])) with conv := true } s
      (fun e => tagOf e a ∈ cvtSources tg signed ∧ Fits e (max (Wf.tagHalf (e.st.V a).tag) (Wf.tagHalf tg)))
      fun e t => VectorEffect e t d (e.st.K k) tg (scaleFrom e a) (e.st.rows * e.st.cols) (widthOf tg)
        (fun i j => cvtElem e.st (e.st.V a).tag tg (e.st.V a).scale signed i j (unitAt (e.st.V a) (widthIn e a) i))
        (if e.st.rm = .st ∧ tg.toNat ∈ [5, 6, 7, 8] then activeBelow (e.st.K k) (e.st.rows * e.st.cols) else 0)) ∧
    (CompletesWhen (if signed then .vsat iv d a tg k sc else .vsatN iv d a tg k sc)
      ((infoR (if signed then encode (.vsat iv d a tg k sc) else encode (.vsatN iv d a tg k sc)) iv sc
          (vs [d, a] ++ ks [k])).need (decide (tg.toNat ∈ [1, 2, 3, 4]))) s
      (fun e => tagOf e a ∈ [1, 2, 3, 4] ∧ Fits e (max (Wf.tagHalf (e.st.V a).tag) (Wf.tagHalf tg)))
      fun e t => VectorEffect e t d (e.st.K k) tg 0 (e.st.rows * e.st.cols) (widthOf tg)
        (fun i _ =>
          let x := (BitVec.ofNat (widthIn e a) (unitAt (e.st.V a) (widthIn e a) i)).toInt
          let lo : Int := if signed then -2 ^ (widthOf tg - 1) else 0
          let hi : Int := if signed then 2 ^ (widthOf tg - 1) - 1 else 2 ^ widthOf tg - 1
          ((max lo (min hi x) % 2 ^ widthOf tg).toNat, if lo ≤ x ∧ x ≤ hi then 0 else Fl.sat)) 0)

/-- vpack and vunpack (R113, R45, R48): int4 nibbles clamped and sign-extended; trits by sign, five to a byte. That the nibble
beyond an odd count becomes 0 is the model's reading (log 41). -/
def Obligations.PackResult : Prop :=
  ∀ iv d a tg sc s,
    (CompletesWhen (.vpack iv d a tg sc) ((infoR (encode (.vpack iv d a tg sc)) iv sc (vs [d, a])).need (tg == 11 || tg == 12)) s
      (fun e => tagOf e a = 1 ∧ Fits e 2)
      fun e t => (t.st.V d).tag = tg ∧ (t.st.V d).scale = 0 ∧ OnlyV e t d ∧
        ∀ x : Nat → Int, (∀ i, x i = if i < e.st.rows * e.st.cols then ((e.st.V a).data.extractLsb' (8 * i) 8).toInt else 0) →
          (tg = 12 → ∀ i, ((t.st.V d).data.extractLsb' (4 * i) 4).toInt = max (-8) (min 7 (x i))) ∧
          (tg = 11 → ∀ i, i < 5 * ((e.st.rows * e.st.cols + 4) / 5) →
            tritOf (unitAt (t.st.V d) 8 (i / 5)) (i % 5) = if x i < 0 then -1 else if 0 < x i then 1 else 0) ∧
          (tg = 11 → ∀ j, (e.st.rows * e.st.cols + 4) / 5 ≤ j → unitAt (t.st.V d) 8 j = 0) ∧
          ((∀ i, if tg = 12 then -8 ≤ x i ∧ x i ≤ 7 else -1 ≤ x i ∧ x i ≤ 1) → t.st.ctl.fcr = e.st.ctl.fcr) ∧
          ((∃ i, if tg = 12 then x i < -8 ∨ 7 < x i else x i < -1 ∨ 1 < x i) →
            t.st.ctl.fcr = e.st.ctl.fcr ||| (Fl.sat.setWidth 15 <<< 8))) ∧
    (CompletesWhen (.vunpack iv d a sc) (infoR (encode (.vunpack iv d a sc)) iv sc (vs [d, a])) s
      (fun e => (tagOf e a = 12 ∧ Fits e 2) ∨ (tagOf e a = 11 ∧ Fits e 2 ∧ 5 * (e.st.rows * e.st.cols) ≤ 256))
      fun e t => (t.st.V d).tag = 1 ∧ (t.st.V d).scale = 0 ∧ OnlyV e t d ∧
        (tagOf e a = 12 → ∀ i, ((t.st.V d).data.extractLsb' (8 * i) 8).toInt =
          if i < e.st.rows * e.st.cols then ((e.st.V a).data.extractLsb' (4 * i) 4).toInt else 0) ∧
        (tagOf e a = 11 → ∀ i, ((t.st.V d).data.extractLsb' (8 * i) 8).toInt =
          if i < 5 * (e.st.rows * e.st.cols) then tritOf (unitAt (e.st.V a) 8 (i / 5)) (i % 5) else 0) ∧
        ((tagOf e a = 12 ∨ ∀ j, j < e.st.rows * e.st.cols → unitAt (e.st.V a) 8 j ≤ 242) → t.st.ctl.fcr = e.st.ctl.fcr) ∧
        ((tagOf e a = 11 ∧ ∃ j, j < e.st.rows * e.st.cols ∧ 242 < unitAt (e.st.V a) 8 j) →
          t.st.ctl.fcr = e.st.ctl.fcr ||| (Fl.tinv.setWidth 15 <<< 8)))

/-- Special functions and vdiv (R55, R76, R104, R115): the values of the model's functions, rounded to nearest-even whatever the
mode, are outstanding, and with them the flags that they raise. ElementRounding says that quotients, reciprocals and roots are
the exact value rounded once; how the value of a transcendental function is found is the model's reading (log 10). -/
def Obligations.SpecialFunctionResult : Prop :=
  ∀ iv d a b k sc s fmt, fmt ∈ [Fmt.f16, Fmt.b16, Fmt.f32] →
    (∀ p ∈ specials iv d a k sc, CompletesWhen p.1 (infoLL (encode p.1) iv sc (vs [d, a] ++ ks [k])) s
      (fun e => Ready e a [7, 8, 9] ∧ Fmt.ofTag (e.st.V a).tag = some fmt)
      fun e t => VectorOutstanding e t (infoLL (encode p.1) iv sc (vs [d, a] ++ ks [k])) d (e.st.K k) (e.st.V a).tag 0
        (unitsIn e a) (widthIn e a) fun i _ =>
          fmt.finish .ne e.st.fz (p.2 (fmt.decode e.st.fz (unitAt (e.st.V a) (widthIn e a) i)))) ∧
    (CompletesWhen (.vdiv iv d a b k sc) (infoLL (encode (.vdiv iv d a b k sc)) iv sc (vs [d, a, b] ++ ks [k])) s
      (fun e => Ready e a [7, 8, 9] ∧ tagOf e b = tagOf e a ∧ Fmt.ofTag (e.st.V a).tag = some fmt)
      fun e t => VectorOutstanding e t (infoLL (encode (.vdiv iv d a b k sc)) iv sc (vs [d, a, b] ++ ks [k])) d (e.st.K k)
        (e.st.V a).tag 0 (unitsIn e a) (widthIn e a) fun i _ =>
          fmt.finish .ne e.st.fz (divNum (fmt.decode e.st.fz (unitAt (e.st.V a) (widthIn e a) i))
            (fmt.decode e.st.fz (unitAt (e.st.V b) (widthIn e a) i))))

/-- Dot products and complex multiply (R121): each result rounded once from exact products and sums, int8 in exact integers.
What a product of a zero and an infinity raises beside a NaN is the model's reading (log 53). -/
def Obligations.DotResult : Prop :=
  ∀ iv d a b k sc s,
    (CompletesWhen (.vdot iv d a b k sc) (infoR (encode (.vdot iv d a b k sc)) iv sc (vs [d, a, b] ++ ks [k])) s
      (fun e => tagOf e a ∈ [1, 5, 6, 7, 8] ∧ tagOf e b = tagOf e a ∧ tagOf e d = (if tagOf e a = 1 then 3 else 9) ∧ Fits e 8)
      fun e t => VectorEffect e t d (e.st.K k) (e.st.V d).tag 0 (e.st.rows * e.st.cols) 32 (fun i _ =>
        match Fmt.ofTag (e.st.V a).tag with
        | some f => Fmt.f32.sumUp e.st.rm.plain e.st.fz ((Fmt.f32.decode e.st.fz (unitAt (e.st.V d) 32 i), 0) ::
            (List.range (if 7 ≤ tagOf e a then 2 else 4)).map fun j =>
              (f.decode e.st.fz (unitAt (e.st.V a) (widthIn e a) ((if 7 ≤ tagOf e a then 2 else 4) * i + j))).mul
                (f.decode e.st.fz (unitAt (e.st.V b) (widthIn e a) ((if 7 ≤ tagOf e a then 2 else 4) * i + j))))
        | none => intResult e.st.satOn true 32
            (((List.range 4).map fun j => ((e.st.V a).data.extractLsb' (8 * (4 * i + j)) 8).toInt *
              ((e.st.V b).data.extractLsb' (8 * (4 * i + j)) 8).toInt).sum + ((e.st.V d).data.extractLsb' (32 * i) 32).toInt)) 0) ∧
    (CompletesWhen (.vdotN iv d a b k sc) (infoR (encode (.vdotN iv d a b k sc)) iv sc (vs [d, a, b] ++ ks [k])) s
      (fun e => tagOf e a = 1 ∧ tagOf e b = 1 ∧ tagOf e d = 3 ∧ Fits e 8)
      fun e t => VectorEffect e t d (e.st.K k) (e.st.V d).tag 0 (e.st.rows * e.st.cols) 32 (fun i _ =>
        intResult e.st.satOn false 32
            (((List.range 4).map fun j => unitAt (e.st.V a) 8 (4 * i + j) * unitAt (e.st.V b) 8 (4 * i + j)).sum +
              unitAt (e.st.V d) 32 i : Nat)) 0) ∧
    (CompletesWhen (.vcmul iv d a b k sc) (infoR (encode (.vcmul iv d a b k sc)) iv sc (vs [d, a, b] ++ ks [k])) s
      (fun e => Ready e a [10] ∧ tagOf e b = 10)
      fun e t => VectorEffect e t d (e.st.K k) 10 0 (e.st.rows * e.st.cols) 64 (fun i _ =>
        cmulElem e.st.rm.plain e.st.fz (unitAt (e.st.V a) 64 i) (unitAt (e.st.V b) 64 i)) 0)

/-- Block scales and quantisation (R49, R50, R122): vbmax takes the largest magnitude of each block of 32 into eight fp32
elements; vscale sets the scale bytes and keeps the data; vquant quantises under them: x · 2^(127 − E) rounded into e4m3 or
to an integer from -127 to 127, as RoundingResult says. The scale byte is that of the least s with m · 2^(−s) at most 448 or
127. That vscale takes the absolute value of an element, and that the shape is checked against the largest element size, are
the model's readings (log 41). -/
def Obligations.BlockScaleResult : Prop :=
  (∀ be4 : Bool, scaleByte be4 .nan = 255 ∧ (∀ neg, scaleByte be4 (.inf neg) = 254) ∧ (∀ neg e, scaleByte be4 (.fin neg 0 e) = 127) ∧
    ∀ neg (m : Nat) e, m ≠ 0 → ∃ s : Int, (m : ℚ) * 2 ^ (e - s) ≤ (if be4 then 448 else 127) ∧
      (if be4 then 448 else 127) < (m : ℚ) * 2 ^ (e - (s - 1)) ∧ ((scaleByte be4 (.fin neg m e) : Nat) : Int) = max 0 (min 254 (s + 127))) ∧
  (∀ (neg : Bool) m e scale rm rnd, quantise true (.fin neg m e) scale rm rnd =
      Fmt.e4m3.round rm false rnd (.fin neg m (e + (127 - scale))) ∧
    quantise false (.fin neg m e) scale rm rnd = (((BitVec.ofInt 8 ((Num.toRange (.fin neg m (e + (127 - scale))) rm (-127) 127).1)).toNat),
      (Num.toRange (.fin neg m (e + (127 - scale))) rm (-127) 127).2)) ∧
  ∀ iv d a k sc s,
    (∀ fmt, CompletesWhen (.vbmax iv d a k sc) (infoR (encode (.vbmax iv d a k sc)) iv sc (vs [d, a] ++ ks [k])) s
      (fun e => Ready e a [7, 8, 9] ∧ Fits e 8 ∧ Fmt.ofTag (e.st.V a).tag = some fmt)
      fun e t => VectorEffect e t d (BitVec.allOnes 256) 9 0 8 32 (fun b _ =>
        (((List.range 32).filter fun j => decide (32 * b + j < e.st.rows * e.st.cols) && (e.st.K k).getLsbD (32 * b + j)).foldl
          (fun m j => blockMax m (fmt.decode e.st.fz (unitAt (e.st.V a) (widthIn e a) (32 * b + j)))) 0, 0)) 0) ∧
    (CompletesWhen (.vscale iv d a sc) (infoR (encode (.vscale iv d a sc)) iv sc (vs [d, a])) s
      (fun e => tagOf e d ∈ [13, 14] ∧ tagOf e a ∈ [1, 9] ∧ Fits e (max (Wf.tagHalf (e.st.V a).tag) 2))
      fun e t => OnlyV e t d ∧ t.st.ctl.fcr = e.st.ctl.fcr ∧
        (t.st.V d).data = (e.st.V d).data ∧ (t.st.V d).tag = (e.st.V d).tag ∧
        ∀ b, b < 8 → ((t.st.V d).scale.extractLsb' (8 * b) 8).toNat =
          (if tagOf e a = 1 then unitAt (e.st.V a) 8 b
           else scaleByte (tagOf e d == 13) (Fmt.f32.decode e.st.fz (unitAt (e.st.V a) 32 b)).abs)) ∧
    (∀ fmt, CompletesWhen (.vquant iv d a k sc)
      { infoR (encode (.vquant iv d a k sc)) iv sc (vs [d, a] ++ ks [k]) with conv := true } s
      (fun e => tagOf e d ∈ [13, 14] ∧ Ready e a [7, 8, 9] ∧ Fmt.ofTag (e.st.V a).tag = some fmt)
      fun e t => VectorEffect e t d (e.st.K k) (e.st.V d).tag (e.st.V d).scale (e.st.rows * e.st.cols) 8 (fun i j =>
        quantise (tagOf e d == 13) (fmt.decode e.st.fz (unitAt (e.st.V a) (widthIn e a) i))
          ((e.st.V d).scale.extractLsb' (8 * (i / 32)) 8).toNat
          (if e.st.rm = .st ∧ tagOf e d = 14 then .ne else e.st.rm) ((e.st.output j).toNat % 2 ^ 32))
        (if e.st.rm = .st ∧ tagOf e d = 13 then activeBelow (e.st.K k) (e.st.rows * e.st.cols) else 0))

/-- vrand, vtag.set and vtag.get (R58, R123), and the mask operations (R124). That a mask's bits beyond 256 count as 0 is the
model's reading (log 41). -/
def Obligations.VectorMiscResult : Prop :=
  ∀ iv d a tg k sc s,
    (CompletesWhen (.vrand iv d k sc) (infoR (encode (.vrand iv d k sc)) iv sc (vs [d] ++ ks [k])) s
      (fun e => Ready e d [0, 1, 2, 3, 4, 5, 6, 7, 8, 9, 10, 13, 14])
      fun e t => VectorEffect e t d (e.st.K k) (e.st.V d).tag (e.st.V d).scale (e.st.rows * e.st.cols) (widthIn e d)
        (fun _ j => ((e.st.output j).toNat, 0)) (activeBelow (e.st.K k) (e.st.rows * e.st.cols))) ∧
    (CompletesWhen (.vtagSet iv d a tg sc) ((infoR (encode (.vtagSet iv d a tg sc)) iv sc (vs [d, a])).need (tg != 15)) s
      (fun e => tagOf e a ≠ 15)
      fun e t => t.st.V d = ⟨(e.st.V a).data, tg, (e.st.V a).scale⟩ ∧ OnlyV e t d ∧
        t.st.ctl.fcr = e.st.ctl.fcr) ∧
    (∀ l k0, CompletesWhen (.vtagGet iv d a l k0 sc)
      ((infoR (encode (.vtagGet iv d a l k0 sc)) iv sc (gs [d.setWidth 5] ++ vs [a])).need (k0 == 0)) s (fun e => tagOf e a ≠ 15)
      fun e t => ScalarEffect e t (d.setWidth 5) (if l = 0 then (e.st.V a).tag.setWidth 64 else (e.st.V a).scale) e.nextPc) ∧
    (∀ kd ka kb h l, ∀ p ∈ maskOps iv kd ka kb h l sc, Completes p.1 (infoR (encode p.1) iv sc (ks p.2.1)) s fun e t =>
      MaskEffect e t kd (p.2.2 e)) ∧
    (∀ ka b, ∀ p ∈ maskCounts iv d ka b sc, Completes p.1 ((infoR (encode p.1) iv sc (gs [d.setWidth 5] ++ ks [ka])).need p.2.1) s fun e t =>
      ScalarEffect e t (d.setWidth 5)
        (BitVec.ofNat 64 (p.2.2 ((List.range (e.st.rows * e.st.cols)).map (e.st.K ka).getLsbD))) e.nextPc)

/-- Vector loads and gathers (R117 to R120). vld and vgather complete where every active unit's address may be loaded from:
covered with r, aligned, not revoked, in die or private memory or the scratchpad, its line not poisoned, its key the lock's;
and wherever every load of the list succeeds. The active units of V[d], in increasing index, will hold the bytes that plain loads
see at their addresses one after the other, under the tag of the form; no byte of memory changes beyond the writes that were
ahead on the path. -/
def Obligations.VectorLoadResult : Prop :=
  ∀ iv d b tg k l sc x s inf,
    (inf = (infoLL (encode (.vld iv d b tg k l sc)) iv sc
        (vs [d] ++ (if l = 0 then gs [b] else gs [b, b + 1]) ++ ks [k])).need (Wf.vldLayout tg b l) →
      CompletesWhen (.vld iv d b tg k l sc) inf s
        (fun e => Fits e (Wf.tagHalf tg) ∧ (tg = 12 → l = 1 → e.st.cols % 2 = 0) ∧
          MayLoad e (widthOf tg / 8) ((activeOnes e k (unitsOf tg (e.st.rows * e.st.cols))).map (layoutAddr e b l tg)))
        fun e t => VectorLoaded e t inf d k tg (if tg = 13 ∨ tg = 14 then 0x7F7F7F7F7F7F7F7F else 0)
          (unitsOf tg (e.st.rows * e.st.cols)) (widthOf tg)
          ((activeOnes e k (unitsOf tg (e.st.rows * e.st.cols))).map (layoutAddr e b l tg))) ∧
    (inf = infoLL (encode (.vgather iv d b x k l sc)) iv sc (vs [d] ++ gs [b] ++ vs [x] ++ ks [k]) →
      CompletesWhen (.vgather iv d b x k l sc) inf s
        (fun e => tagOf e d ≠ 12 ∧ tagOf e d ≠ 15 ∧ tagOf e x ∈ [3, 4] ∧
          Fits e (max (Wf.tagHalf (e.st.V d).tag) (Wf.tagHalf (e.st.V x).tag)) ∧
          MayLoad e (widthIn e d / 8) ((activeOnes e k (e.st.rows * e.st.cols)).map (gatherAddr e b x l)))
        fun e t => VectorLoaded e t inf d k (e.st.V d).tag (e.st.V d).scale (e.st.rows * e.st.cols) (widthIn e d)
          ((activeOnes e k (e.st.rows * e.st.cols)).map (gatherAddr e b x l)))

/-- Vector stores and scatters (R117 to R120): where every active unit's store is allowed, into die or private memory, and the
store buffer has room, the core sees each active unit's bytes at its address, later units over earlier ones, and no other
byte has changed beyond the strand's own writes from dies it has left (R230) and those that lock reads found ahead of them
(R209). -/
def Obligations.VectorStoreResult : Prop :=
  ∀ iv d b k l sc x s ts e',
    (CompletesWhen (.vst iv d b k l sc) ((infoR (encode (.vst iv d b k l sc)) iv sc
        (vs [d] ++ (if l = 0 then gs [b] else gs [b, b + 1]) ++ ks [k])).need (l == 0 || b != 31)) s
      (fun e => tagOf e d ∈ layoutTags l ∧ tagOf e d ≠ 15 ∧ Fits e (Wf.tagHalf (e.st.V d).tag) ∧
        (tagOf e d = 12 → l = 1 → e.st.cols % 2 = 0) ∧
        e.checkStores e.st (widthIn e d / 8) ((activeOnes e k (unitsIn e d)).map (layoutAddr e b l (e.st.V d).tag)) = .ok ts e' ∧
        (∀ g ∈ ts, spaceOf g.addr = .dieMem ∨ spaceOf g.addr = .priv) ∧ (e.core e.st.core).sbuf.length + ts.length ≤ 32)
      fun e t => StrandGoesOn e t ∧
        BytesKept (ts.foldl (fun s g => s.behind e.st (Memory.line g.addr)) e') t ∧ ∀ line base i, i < 64 →
        ((t.core e.st.core).merge line base).extractLsb' (8 * i) 8 =
          overlaid (ts.zip ((activeOnes e k (unitsIn e d)).map fun u => unitAt (e.st.V d) (widthIn e d) u)) (widthIn e d / 8)
            line i (((e.core e.st.core).merge line base).extractLsb' (8 * i) 8)) ∧
    (CompletesWhen (.vscatter iv d b x k l sc) (infoR (encode (.vscatter iv d b x k l sc)) iv sc
        (vs [d] ++ gs [b] ++ vs [x] ++ ks [k])) s
      (fun e => tagOf e d ≠ 12 ∧ tagOf e d ≠ 15 ∧ tagOf e x ∈ [3, 4] ∧
        Fits e (max (Wf.tagHalf (e.st.V d).tag) (Wf.tagHalf (e.st.V x).tag)) ∧
        e.checkStores e.st (widthIn e d / 8) ((activeOnes e k (e.st.rows * e.st.cols)).map (gatherAddr e b x l)) = .ok ts e' ∧
        (∀ g ∈ ts, spaceOf g.addr = .dieMem ∨ spaceOf g.addr = .priv) ∧ (e.core e.st.core).sbuf.length + ts.length ≤ 32)
      fun e t => StrandGoesOn e t ∧
        BytesKept (ts.foldl (fun s g => s.behind e.st (Memory.line g.addr)) e') t ∧ ∀ line base i, i < 64 →
        ((t.core e.st.core).merge line base).extractLsb' (8 * i) 8 =
          overlaid (ts.zip ((activeOnes e k (e.st.rows * e.st.cols)).map fun u => unitAt (e.st.V d) (widthIn e d) u))
            (widthIn e d / 8) line i (((e.core e.st.core).merge line base).extractLsb' (8 * i) 8))

/-! ## Fabric -/

/-- Stores into fabric space (R254, R370, R373, R376): st, st.s and st.f send one copy to each destination, and st.f a flag
increment behind each. No byte of memory changes. The order of the checks and the route a copy keeps are the model's readings
(logs 42, 47). -/
def Obligations.ReflectedStore : Prop :=
  ∀ iv d a b i o h z c r w sc s tgt,
    (∀ p ∈ plainStores iv d b i o h z sc,
      CompletesWhen p.1 p.2.1 s
        (fun e => Granted e .store (p.2.2 e) (bytesOf z) tgt ∧ spaceOf tgt.addr = .fabric ∧ Sendable e tgt.addr (bytesOf z))
        fun e t => StrandGoesOn e t ∧ Sent e t tgt.addr (wordBytes (e.G d) (bytesOf z)) none) ∧
    (CompletesWhen (.stS iv d b c r w sc)
      ((infoLL (encode (.stS iv d b c r w sc)) iv sc (gs [d, b])).need (Wf.scope c && (r == 0 || r == 2))) s
      (fun e => Granted e (.strongSt (if w = 0 then 4 else 8)) (e.G b) (if w = 0 then 4 else 8) tgt ∧
        spaceOf tgt.addr = .fabric ∧ Sendable e tgt.addr (if w = 0 then 4 else 8))
      fun e t => KeepsG e t ∧ t.st.pc = e.nextPc ∧ Sent e t tgt.addr (wordBytes (e.G d) (if w = 0 then 4 else 8)) none) ∧
    (∀ f, CompletesWhen (.stF iv d a b w sc) (infoR (encode (.stF iv d a b w sc)) iv sc (gs [d, a, b])) s
      (fun e => Granted e .stF (e.G a) (if w = 0 then 8 else 4) tgt ∧ spaceOf tgt.addr = .fabric ∧ isPod tgt.addr = false ∧
        (e.G b).toNat % 8 = 0 ∧ flagOff e.st.ext (fabWin tgt.addr) (e.G b) = some f ∧
        f + 8 ≤ e.txLen e.st.pid (fabWin tgt.addr) ∧ Sendable e tgt.addr (if w = 0 then 8 else 4))
      fun e t => StrandGoesOn e t ∧ Sent e t tgt.addr (wordBytes (e.G d) (if w = 0 then 8 else 4)) (some f))

/-! ## Strands -/

/-- spawn, spawn.l, exit, yield and migr (R176 to R179). A child takes the next sid of its launch, and G[d] receives it, or 0
where no core has room; a strand that exits is no longer live and its private memory reads zero; yield puts the strand behind
the others; migr moves a light strand to the owner core of the address: into a context if the core admits it and nobody waits
there, else into its arrival queue, and else into the overflow ring or to the landing agent. -/
def Obligations.StrandResult : Prop :=
  ∀ iv d a b sc s,
    (∀ core, CompletesWhen (.spawn iv d a b sc) (infoR (encode (.spawn iv d a b sc)) iv sc (gs [d, a, b])) s
      (fun e => Entry0 (e.G a) ∧ Issuing e ∧ e.mayAdmit e.st.pid = true ∧ e.spawnCore e.st = some core ∧
        e.strand (nextSid e (sidSlot e.st.sid.toNat) 1) = none)
      fun e t => ∀ sid, sid = nextSid e (sidSlot e.st.sid.toNat) 1 →
        SetsG e t d (BitVec.ofNat 64 sid) ∧ VectorKept e t ∧ SpecialKept e t ∧ BytesKept e t ∧ Ended e t e.nextPc ∧
        Stands t sid fun y => Child e y .full core .resident (e.G a) (e.G b)) ∧
    (CompletesWhen (.spawn iv d a b sc) (infoR (encode (.spawn iv d a b sc)) iv sc (gs [d, a, b])) s
      (fun e => Entry0 (e.G a) ∧ (e.mayAdmit e.st.pid = false ∨ e.spawnCore e.st = none))
      fun e t => ScalarEffect e t d 0 e.nextPc) ∧
    (CompletesWhen (.spawnL iv d a b sc) (infoR (encode (.spawnL iv d a b sc)) iv sc (gs [d, a, b])) s
      (fun e => Entry0 (e.G a) ∧ Issuing e ∧ e.straightIn e.st.core (sidSlot e.st.sid.toNat) = true ∧
        e.strand (nextSid e (sidSlot e.st.sid.toNat) 1) = none)
      fun e t => ∀ sid, sid = nextSid e (sidSlot e.st.sid.toNat) 1 →
        SetsG e t d (BitVec.ofNat 64 sid) ∧ VectorKept e t ∧ SpecialKept e t ∧ BytesKept e t ∧ Ended e t e.nextPc ∧
        Stands t sid fun y => Child e y .light e.st.core .queued (e.G a) (e.G b)) ∧
    (CompletesWhen (.exit iv sc) (infoR (encode (.exit iv sc)) iv sc []) s Issuing
      fun e t => t.strand e.st.sid.toNat = none ∧
        ∀ off, off < 2 ^ 18 → Memory.read t.mem (Memory.privBase e.st.sid.toNat + off) = 0) ∧
    (Completes (.yield iv sc) (infoR (encode (.yield iv sc)) iv sc []) s fun e t =>
      JumpEffect e t e.nextPc ∧ t.order = e.order.filter (· != e.st.sid.toNat) ++ [e.st.sid.toNat]) ∧
    (∀ pa core, CompletesWhen (.migr iv a sc) (infoR (encode (.migr iv a sc)) iv sc (gs [a])) s
      (fun e => migrCheck e.st (e.G a) = .ok pa ∧ e.ownerCore e.st pa = some core ∧ Issuing e ∧
        (core ≠ e.st.core → (∀ l ∈ e.hub.landings, l.sender ≠ e.st.sid.toNat) ∧ (e.core e.st.core).fwd.length < 16))
      fun e t =>
        (core = e.st.core → JumpEffect e t e.nextPc) ∧
        (core ≠ e.st.core → t.st.core = core ∧ t.st.pc = e.nextPc ∧ t.st.sid = e.st.sid ∧
          (e.st.inflight = [] → KeepsG e t) ∧ (e.admitsMoved e.st core = true → t.st.place = .resident) ∧
          (e.admitsMoved e.st core = false → e.straightIn core (sidSlot e.st.sid.toNat) = true →
            t.st.place = .queued ∧ e.st.sid.toNat ∈ (t.core core).arrq) ∧
          (e.straightIn core (sidSlot e.st.sid.toNat) = false →
            t.st.place = .agent (dieOf core) ∨ ∃ i, t.st.place = .ring (dieOf core) i)))

/-- Landings (R148, R174, R181, R183, R185, R227). land and land.v send one landing, the writes of the die's paths performed ahead of it,
as log 43 reads a .pkg release, and write no register; the register-set instructions change the landing state as R183 says; umask and unmask set and end the
hold of the core, and do nothing at the urgent level; an unmask after more than 512 cycles makes the fault of R148 due. Who
may end the hold of umask, and where landings look entries up, are the model's readings (logs 15, 32). -/
def Obligations.LandingResult : Prop :=
  ∀ iv d a b v sc s,
    (Completes (.land iv a b sc) (infoR (encode (.land iv a b sc)) iv sc (gs [a, b])) s fun e t =>
      StrandGoesOn e t ∧ BytesKept (e.flushOf e.st) t ∧
        ∃ l, t.hub.landings = e.hub.landings ++ [l] ∧ l.sender = e.st.sid.toNat ∧ l.addr = e.G a ∧ l.value = e.G b ∧
          l.isV = false ∧ l.source = 0 ∧ l.from_ = e.st.core ∧ l.pid = e.st.pid) ∧
    (CompletesWhen (.landV iv a v sc) (infoR (encode (.landV iv a v sc)) iv sc (gs [a] ++ vs [v])) s
      (fun e => (e.st.V v).tag ≠ 0xF)
      fun e t => StrandGoesOn e t ∧ BytesKept (e.flushOf e.st) t ∧
        ∃ l, t.hub.landings = e.hub.landings ++ [l] ∧ l.sender = e.st.sid.toNat ∧ l.addr = e.G a ∧ l.vec = e.st.V v ∧
          l.isV = true ∧ l.source = 1 ∧ l.from_ = e.st.core ∧ l.pid = e.st.pid) ∧
    (Completes (.lopen iv a sc) (infoR (encode (.lopen iv a sc)) iv sc (gs [a])) s fun e t =>
      KeepsG e t ∧ VectorKept e t ∧ UnitsKept e t ∧ Ended e t e.nextPc ∧
        (∀ n, t.st.ctl.lmask.getLsbD n = (e.st.ctl.lmask.getLsbD n || picksG e.st (e.G a) n)) ∧
        (∀ n, t.st.ctl.lvmask.getLsbD n = (e.st.ctl.lvmask.getLsbD n || picksV e.st (e.G a) n)) ∧
        t.st.ctl = { e.st.ctl with lmask := t.st.ctl.lmask, lvmask := t.st.ctl.lvmask }) ∧
    (Completes (.lclose iv a sc) (infoR (encode (.lclose iv a sc)) iv sc (gs [a])) s fun e t =>
      KeepsG e t ∧ VectorKept e t ∧ UnitsKept e t ∧ Ended e t e.nextPc ∧
        (∀ n, t.st.ctl.lmask.getLsbD n = (e.st.ctl.lmask.getLsbD n && !picksG e.st (e.G a) n)) ∧
        (∀ n, t.st.ctl.lvmask.getLsbD n = (e.st.ctl.lvmask.getLsbD n && !picksV e.st (e.G a) n)) ∧
        t.st.ctl = { e.st.ctl with lmask := t.st.ctl.lmask, lvmask := t.st.ctl.lvmask }) ∧
    (Completes (.waitL iv d a sc) (infoR (encode (.waitL iv d a sc)) iv sc (gs [d, a])) s fun e t =>
      ((∃ i, i < 64 ∧ arrivedIn e.st (e.G a) i = true) → Consumes e t d (e.G a)) ∧
      ((∀ i, i < 64 → arrivedIn e.st (e.G a) i = false) → (∀ i, i < 64 → openAt e.st (e.G a) i = false) →
        ScalarEffect e t d 0 e.nextPc) ∧
      ((∀ i, i < 64 → arrivedIn e.st (e.G a) i = false) → (∃ i, i < 64 ∧ openAt e.st (e.G a) i = true) →
        Waits e t (.waitL (e.G a)) ∧ SpecialKept e t ∧ UnitsKept e t)) ∧
    (Completes (.lclr iv d a sc) (infoR (encode (.lclr iv d a sc)) iv sc (gs [d, a])) s fun e t => Consumes e t d (e.G a)) ∧
    (Completes (.umask iv sc) (infoR (encode (.umask iv sc)) iv sc []) s fun e t =>
      StrandGoesOn e t ∧ BytesKept e t ∧ (t.core e.st.core).umask =
        (if e.st.ctl.urg = true ∨ (e.core e.st.core).umask.isSome = true then (e.core e.st.core).umask
         else some (e.st.sid.toNat, e.clk))) ∧
    (Completes (.unmask iv sc) (infoR (encode (.unmask iv sc)) iv sc []) s fun e t =>
      KeepsG e t ∧ VectorKept e t ∧ t.st.ctl = e.st.ctl ∧ Ended e t e.nextPc ∧
      ((e.st.ctl.urg = true ∨ ∀ h since, (e.core e.st.core).umask = some (h, since) → e.clk.toNat ≤ since.toNat + 512) →
        StrandGoesOn e t ∧ BytesKept e t) ∧
      (∀ since, e.st.ctl.urg = false → (e.core e.st.core).umask = some (e.st.sid.toNat, since) → since.toNat + 512 < e.clk.toNat →
        Issuing e → e.st.place = .resident → e.st.pending.length < 8 →
        FaultDue e e.st t.st 0x64 (BitVec.ofNat 64 (since.toNat % 2 ^ 48))) ∧
      (t.core e.st.core).umask = (if e.st.ctl.urg = true then (e.core e.st.core).umask else none))

/-- Barriers and gang (R188 to R191). An arrival that is not the last leaves the strand waiting and stands in the episode.
No byte changes beyond the writes performed first (R229, R230, log 43).
bar.quad, bar.die, bar.pkg, bar.pod, bmax.quad, bmax.die, bmax.pkg and bmax.pod complete where their arrival is the last: G[d] of a
bmax receives the largest magnitude, and the context is free; each completes too where its arrival, counted before, has been
released since. gang always completes with the membership word. The contexts of a partition and an arrival counted once are the
model's readings (logs 14, 44). -/
def Obligations.BarrierResult : Prop :=
  ∀ iv d a b sc s,
    (∀ p ∈ barriers iv d a b sc, ∀ ctx n, CompletesWhen p.1 (infoR (encode p.1) iv sc (gs p.2.1)) s
      (fun e => Arrives e p.2.2.1 ctx n p.2.2.2.isSome (e.G a) ∧ ¬ Last e p.2.2.1 ctx n)
      fun e t => Waits e t (.barrier p.2.2.1 ctx (p.2.2.2.map (·.1))) ∧
        (t.episode p.2.2.1 ctx).sids = (e.episode p.2.2.1 ctx).sids ++ [e.st.sid.toNat] ∧
        (t.episode p.2.2.1 ctx).n = n ∧ (t.episode p.2.2.1 ctx).isMax = p.2.2.2.isSome ∧
        BytesKept (if p.2.2.1 = .pkg ∨ p.2.2.1 = .pod then e.flushOf e.st else e.flushLeft e.st) t) ∧
    (∀ ctx n,
      CompletesWhen (.barQuad iv a sc) (infoR (encode (.barQuad iv a sc)) iv sc (gs [a])) s
        (fun e => LastArrival e .quad ctx n false (e.G a)) (fun e t => EndsEpisode e t .quad ctx none) ∧
      CompletesWhen (.barDie iv a sc) (infoR (encode (.barDie iv a sc)) iv sc (gs [a])) s
        (fun e => LastArrival e .die ctx n false (e.G a)) (fun e t => EndsEpisode e t .die ctx none) ∧
      CompletesWhen (.barPkg iv a sc) (infoR (encode (.barPkg iv a sc)) iv sc (gs [a])) s
        (fun e => LastArrival e .pkg ctx n false (e.G a)) (fun e t => EndsEpisode e t .pkg ctx none) ∧
      CompletesWhen (.barPod iv a sc) (infoR (encode (.barPod iv a sc)) iv sc (gs [a])) s
        (fun e => LastArrival e .pod ctx n false (e.G a)) (fun e t => EndsEpisode e t .pod ctx none) ∧
      CompletesWhen (.bmaxQuad iv d a b sc) (infoR (encode (.bmaxQuad iv d a b sc)) iv sc (gs [d, a, b])) s
        (fun e => LastArrival e .quad ctx n true (e.G a)) (fun e t => EndsEpisode e t .quad ctx (some (d, b))) ∧
      CompletesWhen (.bmaxDie iv d a b sc) (infoR (encode (.bmaxDie iv d a b sc)) iv sc (gs [d, a, b])) s
        (fun e => LastArrival e .die ctx n true (e.G a)) (fun e t => EndsEpisode e t .die ctx (some (d, b))) ∧
      CompletesWhen (.bmaxPkg iv d a b sc) (infoR (encode (.bmaxPkg iv d a b sc)) iv sc (gs [d, a, b])) s
        (fun e => LastArrival e .pkg ctx n true (e.G a)) (fun e t => EndsEpisode e t .pkg ctx (some (d, b))) ∧
      CompletesWhen (.bmaxPod iv d a b sc) (infoR (encode (.bmaxPod iv d a b sc)) iv sc (gs [d, a, b])) s
        (fun e => LastArrival e .pod ctx n true (e.G a)) (fun e t => EndsEpisode e t .pod ctx (some (d, b)))) ∧
    (∀ p ∈ barriers iv d a b sc, ∀ k v, CompletesWhen p.1 (infoR (encode p.1) iv sc (gs p.2.1)) s
      (fun e => ReleasedBefore e p.2.2.1 k v)
      fun e t => Ended e t e.nextPc ∧ t.st.counted = none ∧ UnitsKept e t ∧ VectorKept e t ∧ SpecialKept e t ∧
        (k.d = none → KeepsG e t) ∧ ∀ c ∈ k.d, SetsG e t c v) ∧
    (Completes (.gang iv d sc) (infoR (encode (.gang iv d sc)) iv sc (gs [d])) s fun e t =>
      ∃ w, ScalarEffect e t d w e.nextPc ∧ (e.st.core < 16384 → w.toNat / 2 ^ 20 = dieOf e.st.core ∧
        w.toNat / 2 ^ 8 % 4096 = e.st.core % 1024 / 4 ∧ w.toNat / 2 ^ 7 % 2 = e.st.core % 4 / 2 ∧
        w.getLsbD 6 = e.splitOf e.st.pid e.st.core ∧ w.toNat / 16 % 4 = e.st.core % 4 ∧
        ∀ c, c < 4 → (w.getLsbD c = true ↔
          (e.splitOf e.st.pid e.st.core = true → c / 2 = e.st.core % 4 / 2) ∧
          ∃ y ∈ e.all, y.core = 4 * quadOf e.st.core + c ∧ y.place = .resident ∧ y.cls = .full ∧
            sidSlot y.sid.toNat = sidSlot e.st.sid.toNat)))

/-- Creel instructions and msg (R192 to R197). cpush places a record of pc G[a], the strand's g1 to g6 and priority G[b] in
its bucket; cpop takes the head of the lowest eligible bucket into g1 to g7 and prio, or writes g7 := 0; cyield places the
strand as a record and ends it; cwait leaves it not ready; msg sends a message with g1 to g7. The rings' keys are the model's
choice (log 29). -/
def Obligations.CreelResult : Prop :=
  ∀ iv a b sc s,
    (∀ bucket, CompletesWhen (.cpush iv a b sc) (infoR (encode (.cpush iv a b sc)) iv sc (gs [a, b] ++ gRange 6)) s
      (fun e => e.crEn e.st.pid = true ∧ Entry0 (e.G a) ∧ Placeable e ((e.G b).setWidth 32) (pushShift e) bucket)
      fun e t => StrandGoesOn e t ∧ BytesKept e t ∧
        (t.creel (dieOf e.st.core) e.st.pid).entries = (e.creel (dieOf e.st.core) e.st.pid).entries ++
          [⟨bucket, false, ⟨e.G a, e.G 1, e.G 2, e.G 3, e.G 4, e.G 5, e.G 6, (e.G b).setWidth 32⟩⟩] ∧
        (t.creel (dieOf e.st.core) e.st.pid).pushed = (e.creel (dieOf e.st.core) e.st.pid).pushed + 1) ∧
    (CompletesWhen (.cpop iv sc) (infoR (encode (.cpop iv sc)) iv sc (gRange 7)) s
      (fun e => e.crEn e.st.pid = true ∧ sidKind e.st.sid.toNat = 2 ∧ e.st.core < 16384 ∧ FarAway e (e.dom e.st.pid).cshift.toNat ∧
        ∀ k, ((e.creel (dieOf e.st.core) e.st.pid).ring k).len = 0)
      fun e t =>
        ((∀ c ∈ (e.creel (dieOf e.st.core) e.st.pid).entries,
            (e.creel (dieOf e.st.core) e.st.pid).base + (e.dom e.st.pid).cbound.toNat < c.bucket) →
          ScalarEffect e t 7 0 e.nextPc) ∧
        ∀ c, e.eligibleHead e.st.pid (dieOf e.st.core) = some c →
          Ended e t e.nextPc ∧ VectorKept e t ∧ BytesKept e t ∧
          [t.G 1, t.G 2, t.G 3, t.G 4, t.G 5, t.G 6, t.G 7] =
            [c.task.g1, c.task.g2, c.task.g3, c.task.g4, c.task.g5, c.task.g6, c.task.pc] ∧
          (∀ n, 7 < n → t.G n = e.G n) ∧ t.st.ctl = { e.st.ctl with prio := c.task.prio } ∧
          (t.creel (dieOf e.st.core) e.st.pid).retired = (e.creel (dieOf e.st.core) e.st.pid).retired + 1 ∧
          (t.creel (dieOf e.st.core) e.st.pid).entries = (e.creel (dieOf e.st.core) e.st.pid).entries.erase c ∧
          ∃ k, (t.creel (dieOf e.st.core) e.st.pid).claims =
            (e.creel (dieOf e.st.core) e.st.pid).claims.filter (·.sid != e.st.sid.toNat) ++ [⟨e.st.sid.toNat, c.bucket, k⟩]) ∧
    (∀ bucket, CompletesWhen (.cyield iv sc) (infoR (encode (.cyield iv sc)) iv sc (gRange 6)) s
      (fun e => e.crEn e.st.pid = true ∧ sidKind e.st.sid.toNat = 2 ∧ Issuing e ∧ e.st.inflight = [] ∧
        Placeable e e.st.ctl.prio (e.dom e.st.pid).cshift.toNat bucket)
      fun e t => t.strand e.st.sid.toNat = none ∧
        (t.creel (dieOf e.st.core) e.st.pid).entries = (e.creel (dieOf e.st.core) e.st.pid).entries ++
          [⟨bucket, false, ⟨e.nextPc, e.G 1, e.G 2, e.G 3, e.G 4, e.G 5, e.G 6, e.st.ctl.prio⟩⟩] ∧
        (t.creel (dieOf e.st.core) e.st.pid).pushed = (e.creel (dieOf e.st.core) e.st.pid).pushed ∧
        (t.creel (dieOf e.st.core) e.st.pid).retired = (e.creel (dieOf e.st.core) e.st.pid).retired) ∧
    (CompletesWhen (.cwait iv sc) (infoR (encode (.cwait iv sc)) iv sc []) s
      (fun e => e.crEn e.st.pid = true ∧ sidKind e.st.sid.toNat ≠ 2)
      fun e t => Waits e t .cwait ∧ SpecialKept e t ∧ UnitsKept e t) ∧
    (CompletesWhen (.msg iv a b sc) (infoR (encode (.msg iv a b sc)) iv sc (gs [a, b] ++ gRange 7)) s
      (fun e => Entry0 (e.G a) ∧ e.onDie e.st.pid ((e.G b).toNat % 16) = true ∧ e.msgsFor ((e.G b).toNat % 16) < 1024)
      fun e t => StrandGoesOn e t ∧ BytesKept e t ∧
        ∃ m, t.hub.msgs = e.hub.msgs ++ [m] ∧ m.sender = e.st.sid.toNat ∧ m.die = (e.G b).toNat % 16 ∧ m.pc = e.G a ∧
          m.regs.toList = [e.G 1, e.G 2, e.G 3, e.G 4, e.G 5, e.G 6, e.G 7] ∧ m.pid = e.st.pid ∧ m.ext = e.st.ext)

/-! ## Engines -/

/-- Engine instructions (R259 to R263, R283, R296 to R304, R308): where the operands are as the spec asks and the queue has room,
the work stands at the tail of its queue and G[d] holds the ticket; acc.rd waits for its entry; acc.wr takes no ticket; a
member of a collecting gang joins its job and receives that job's ticket. The order of the checks is the model's choice (log
38). -/
def Obligations.EngineSubmit : Prop :=
  ∀ iv d a b q z v k r n sc s,
    (∀ c ps, CompletesWhen (.cp iv d a b q sc) (infoR (encode (.cp iv d a b q sc)) iv sc (gs [d, a, b] ++ qs [q])) s
      (fun e => QueueRoom e 0 ∧ Copyable e (e.G d) (e.G a) (e.G b) c ps)
      fun e t => Submitted e t d 0 (c.cost (slowest e ps)) q.toNat
        (.copy { src := endOf e.st (e.G a), dst := endOf e.st (e.G b), len := c.len, qual := c.qual, ext := e.st.ext })) ∧
    (∀ c ps, CompletesWhen (.cp iv d a b q sc) (infoR (encode (.cp iv d a b q sc)) iv sc (gs [d, a, b] ++ qs [q])) s
      (fun e => QueueRoom e 0 ∧ CopyableLand e (e.G d) (e.G a) c ps)
      fun e t => Submitted e t d 0 (c.cost (slowest e ps)) q.toNat
        (.copy { src := endOf e.st (e.G a), dst := .landing (e.G b), len := c.len, qual := c.qual, ext := e.st.ext })) ∧
    (∀ p ∈ matrixForms iv d a q sc, ∀ off m, CompletesWhen p.1 (infoR (encode p.1) iv sc (gs [d, a] ++ qs [q])) s
      (fun e => QueueRoom e (matrixQueue e) ∧ Described e (e.G a) p.2 off m ∧
        e.joinable (quadOf e.st.core) (matrixQueue e) e.st m = none ∧
        m.inside (e.scratchOf e.st.core) (shareIndex (e.splitOf e.st.pid e.st.core) (e.st.core % 4 / 2) (e.gangBits e.st)
          (e.st.core % 4) (groupsOf m.k)) = true)
      fun e t => Submitted e t d (matrixQueue e) (64 + groupsOf m.k * m.form.cycles) 0
        (.matrix { gid := BitVec.ofNat 16 m.gid, form := m.form, unf := m.unf, k := m.k, acc := m.acc, sc := m.sc, unfold := m.u
                   quad := quadOf e.st.core, split := e.splitOf e.st.pid e.st.core, half := e.st.core % 4 / 2
                   set := e.gangBits e.st, members := [m.member e.st q.toNat]
                   sampled := (e.gangMembers e.st).map fun y => y.sid.toNat })) ∧
    (∀ p ∈ matrixForms iv d a q sc, ∀ off m x j, CompletesWhen p.1 (infoR (encode p.1) iv sc (gs [d, a] ++ qs [q])) s
      (fun e => Described e (e.G a) p.2 off m ∧ e.joinable (quadOf e.st.core) (matrixQueue e) e.st m = some (x, j) ∧
        m.inside (e.scratchOf e.st.core) (shareIndex (e.splitOf e.st.pid e.st.core) (e.st.core % 4 / 2) j.set
          (e.st.core % 4) (groupsOf m.k)) = true)
      fun e t => SetsG e t d ((x.ticket).getD 0) ∧ VectorKept e t ∧ SpecialKept e t ∧ Ended e t e.nextPc ∧
        QueueFrame e t (matrixQueue e) ∧
        (t.quad (quadOf e.st.core)).queue (matrixQueue e) = ((e.quad (quadOf e.st.core)).queue (matrixQueue e)).map fun y =>
          if y = x then { x with work := .matrix { j with
            members := j.members ++ [m.member e.st q.toNat], mismatch := j.mismatch || m.differs j } } else y) ∧
    (CompletesWhen (.accClr iv d z k q sc) ((infoR (encode (.accClr iv d z k q sc)) iv sc
        (gs [d] ++ tilesOf z.toNat (if k = 0xA then 4 else 1) ++ qs [q])).need
        ((k == 3 || k == 9 || k == 10) && (k != 10 || z.extractLsb' 0 2 == 0))) s
      (fun e => QueueRoom e (matrixQueue e))
      fun e t => Submitted e t d (matrixQueue e) 16 q.toNat (.accClr e.st.core z.toNat (if k = 0xA then 4 else 1) k)) ∧
    (∀ p ∈ [(Instr.accRd iv v z r sc, false), (Instr.accRdC32 iv v z r sc, true)],
      CompletesWhen p.1 ((infoLL (encode p.1) iv sc ((if p.2 then vs [v, v + 1] else vs [v]) ++ tilesOf z.toNat (if p.2 then 4 else 1))).need
          (!p.2 || (z.extractLsb' 0 2 == 0 && v.extractLsb' 0 1 == 0))) s
        (fun e => QueueRoom e (matrixQueue e))
        fun e t => Waits e t (.accRd (if iv = 1 then sc.toNat else 0)) ∧ VectorKept e t ∧ SpecialKept e t ∧
          Queued e t (matrixQueue e) 16 (.accRd e.st.core z.toNat r.toNat v.toNat p.2)) ∧
    (∀ p ∈ [(Instr.accWr iv v z r sc, false), (Instr.accWrC32 iv v z r sc, true)],
      CompletesWhen p.1 ((infoR (encode p.1) iv sc ((if p.2 then vs [v, v + 1] else vs [v]) ++ tilesOf z.toNat (if p.2 then 4 else 1))).need
          (!p.2 || (z.extractLsb' 0 2 == 0 && v.extractLsb' 0 1 == 0))) s
        (fun e => QueueRoom e (matrixQueue e) ∧
          if p.2 then tagOf e v = 10 ∧ tagOf e (v + 1) = 10 else tagOf e v = 3 ∨ tagOf e v = 9)
        fun e t => KeepsG e t ∧ VectorKept e t ∧ SpecialKept e t ∧ Ended e t e.nextPc ∧
          Queued e t (matrixQueue e) 16
            (.accWr e.st.core z.toNat r.toNat p.2 (e.st.V v) (if p.2 then e.st.V (v + 1) else {}))) ∧
    (∀ p ∈ [(Instr.accSt iv d a z q sc, false), (Instr.accStC32 iv d a z q sc, true)], ∀ ps,
      CompletesWhen p.1 ((infoR (encode p.1) iv sc (gs [d, a] ++ tilesOf z.toNat (if p.2 then 4 else 1) ++ qs [q])).need
        (!p.2 || z.extractLsb' 0 2 == 0)) s
        (fun e => QueueRoom e (matrixQueue e) ∧ badEnd e.st.core (e.G a) = false ∧ (e.G a).toNat % 64 = 0 ∧
          (e.rangeSpaces e.st (e.G a, if p.2 then 4096 else 2048)).contains .host = false ∧
          e.endChecks e.st [⟨e.G a, [(e.G a, if p.2 then 4096 else 2048)], true⟩] = .ok ps e)
        fun e t => Submitted e t d (matrixQueue e) 16 q.toNat
          (.accSt e.st.core z.toNat p.2 (endOf e.st (e.G a)) e.st.ext 0)) ∧
    (∀ tgt ps, CompletesWhen (.sigDec iv d a n q sc) (infoR (encode (.sigDec iv d a n q sc)) iv sc (gs [d, a] ++ qs [q])) s
      (fun e => QueueRoom e (if n = 0 then 0 else matrixQueue e) ∧ (e.G a).toNat / 2 ^ 60 = 0 ∧ winOf (e.G a) ≠ 0xFF ∧
        winOf (e.G a) ≠ 0xFE ∧ (e.G a).toNat % 16 = 0 ∧ e.find e.st (e.G a) = some tgt ∧ tgt.space ≠ .host ∧
        e.endChecks e.st [⟨e.G a, [(e.G a, 16)], false⟩, ⟨e.G a, [(e.G a, 16)], true⟩] = .ok ps e)
      fun e t => Submitted e t d (if n = 0 then 0 else matrixQueue e) 16 q.toNat (.signal (e.G a) tgt.addr))

/-- Waiting on jobs and guards (R262, R265, R283, R305, R307, R309, R310): await returns the status of a final record, which
is outstanding; it traps where the promise is reached first and not suspended, and waits otherwise; await.x does not trap;
jpoll returns the status as it stands; jdrop discards a queued job of the strand, and G[d] receives its status, which is
then discarded; gset, gclr, qfence, board and unboard.
await's comparison with the promise in the ticket, when jdrop discards, and when the window of an await opens, are the
model's (logs 37, 39, 52). -/
def Obligations.JobResult : Prop :=
  ∀ iv d a b q sc s,
    (Completes (.await iv d a sc) (infoLL (encode (.await iv d a sc)) iv sc (gs [d, a])) s fun e t =>
      ((e.quad (quadOf e.st.core)).isFinal (recordBank e) (e.G a) = true →
        Outstanding e t (infoLL (encode (.await iv d a sc)) iv sc (gs [d, a])) (gs [d])
          [.g d ((e.quad (quadOf e.st.core)).status (recordBank e) (e.G a))] ∧ BytesKept e t) ∧
      ((e.quad (quadOf e.st.core)).isFinal (recordBank e) (e.G a) = false →
        (PromisePast e (e.G a) → e.suspended e.st (e.G a) = false → t =
          (e.countQuad e.st.pid (quadOf e.st.core) (recordBank e) .jobMiss 1).precise 0x80 (e.G a)) ∧
        (PromisePast e (e.G a) → e.suspended e.st (e.G a) = true →
          Waits e t (.await true d (e.G a) (if iv = 1 then sc.toNat else 0)) ∧ UnitsKept e t) ∧
        (¬ PromisePast e (e.G a) → Waits e t (.await false d (e.G a) (if iv = 1 then sc.toNat else 0)) ∧ UnitsKept e t))) ∧
    (Completes (.awaitX iv d a sc) (infoLL (encode (.awaitX iv d a sc)) iv sc (gs [d, a])) s fun e t =>
      ((e.quad (quadOf e.st.core)).isFinal (recordBank e) (e.G a) = true →
        Outstanding e t (infoLL (encode (.awaitX iv d a sc)) iv sc (gs [d, a])) (gs [d])
          [.g d ((e.quad (quadOf e.st.core)).status (recordBank e) (e.G a))] ∧ BytesKept e t) ∧
      ((e.quad (quadOf e.st.core)).isFinal (recordBank e) (e.G a) = false →
        Waits e t (.await true d (e.G a) (if iv = 1 then sc.toNat else 0)) ∧ UnitsKept e t)) ∧
    (Completes (.jpoll iv d a sc) (infoR (encode (.jpoll iv d a sc)) iv sc (gs [d, a])) s fun e t =>
      SetsG e t d ((e.quad (quadOf e.st.core)).status (recordBank e) (e.G a)) ∧ Ended e t e.nextPc ∧ BytesKept e t ∧
        SpecialKept e t ∧ t.quads = e.quads) ∧
    (CompletesWhen (.jdrop iv d a sc) (infoR (encode (.jdrop iv d a sc)) iv sc (gs [d, a])) s (fun e => e.st.wait = none)
      fun e t => t.st.pc = e.nextPc ∧ BytesKept e t ∧
      ((∀ x, (e.quad (quadOf e.st.core)).record (recordBank e) (e.G a) = some x → x.state ≠ 0 ∨ e.st.sid.toNat ∉ x.owners) →
        SetsG e t d ((e.quad (quadOf e.st.core)).status (recordBank e) (e.G a)) ∧ t.quads = e.quads) ∧
      ∀ x n y, (e.quad (quadOf e.st.core)).record (recordBank e) (e.G a) = some x → x.state = 0 → e.st.sid.toNat ∈ x.owners →
        (e.quad (quadOf e.st.core)).queued (recordBank e) (e.G a) = some (n, y) →
        SetsG e t d ((t.quad (quadOf e.st.core)).status (recordBank e) (e.G a)) ∧
        ((t.quad (quadOf e.st.core)).status (recordBank e) (e.G a)).toNat % 256 = 3 ∧
        ((t.quad (quadOf e.st.core)).record (recordBank e) (e.G a)).map (·.state) = some 3 ∧
        (t.quad (quadOf e.st.core)).queue n = ((e.quad (quadOf e.st.core)).queue n).erase y) ∧
    (Completes (.gset iv a q sc) (infoR (encode (.gset iv a q sc)) iv sc (qs [q] ++ gs [a])) s fun e t =>
      KeepsG e t ∧ SpecialKept e t ∧ UnitsKept e t ∧ Ended e t e.nextPc ∧ (∀ n, t.st.V n = e.st.V n) ∧ (∀ n, t.st.K n = e.st.K n) ∧
        ∀ n, t.st.Q n = if n = 0 then .isTrue else if n = q then (if e.G a = 0 then .isFalse else .isTrue) else e.st.Q n) ∧
    (Completes (.gclr iv q sc) (infoR (encode (.gclr iv q sc)) iv sc (qs [q])) s fun e t =>
      KeepsG e t ∧ SpecialKept e t ∧ UnitsKept e t ∧ Ended e t e.nextPc ∧ (∀ n, t.st.V n = e.st.V n) ∧ (∀ n, t.st.K n = e.st.K n) ∧
        ∀ n, t.st.Q n = if n = 0 then .isTrue else if n = q then .unresolved else e.st.Q n) ∧
    (CompletesWhen (.qfence iv a sc) (infoR (encode (.qfence iv a sc)) iv sc (gs [a])) s
      (fun e => ((e.G a).getLsbD 0 = true → QueueRoom e 0) ∧ ((e.G a).getLsbD 1 = true → QueueRoom e (matrixQueue e)) ∧
        ((e.G a).getLsbD 2 = true → (e.die (dieOf e.st.core)).power.stage ≠ 1 ∧ (e.core e.st.core).bookQ.length < 16))
      fun e t => StrandGoesOn e t ∧ BytesKept e t ∧ ∃ x, x.work = .join (e.quad (quadOf e.st.core)).joins ∧ x.id = none ∧
        (t.quad (quadOf e.st.core)).queue 0 = (e.quad (quadOf e.st.core)).queue 0 ++ (if (e.G a).getLsbD 0 then [x] else []) ∧
        (t.quad (quadOf e.st.core)).queue (matrixQueue e) = (e.quad (quadOf e.st.core)).queue (matrixQueue e) ++
          (if (e.G a).getLsbD 1 then [x] else []) ∧
        (t.core e.st.core).bookQ = (e.core e.st.core).bookQ ++ (if (e.G a).getLsbD 2 then [x] else [])) ∧
    (∀ m l off, CompletesWhen (.board iv d a b sc) (infoR (encode (.board iv d a b sc)) iv sc (gs [d, a, b])) s
      (fun e => (∀ x ∈ (e.core e.st.core).bookQ, x.booking.isSome = true) ∧ (e.core e.st.core).bookQ.length < 16 ∧
        (e.die (dieOf e.st.core)).power.stage ≠ 1 ∧ (e.bookings e.st.sid.toNat).length < 4 ∧ e.hub.round.model = some m ∧
        m.layers[(e.G a).toNat]? = some l ∧ (e.G a).toNat < 4096 ∧ scratchEnd e.st.core (e.G b) = some (e.st.core, off) ∧
        (e.G b).getLsbD 43 = false ∧ (e.G b).toNat % 64 = 0 ∧ off + e.layerEnd m l ≤ e.scratchOf e.st.core)
      fun e t => ∀ lap missed p, e.catch m l (dieOf e.st.core) = (lap, missed, p) →
        SetsG e t d (BitVec.ofNat 64 ((e.quad (quadOf e.st.core)).idc.toNat * 2 ^ 48 + p % 2 ^ 48)) ∧
        Ended e t e.nextPc ∧ BytesKept e t ∧
        (t.core e.st.core).bookQ = (e.core e.st.core).bookQ ++
          [{ owner := e.st.sid.toNat, pid := e.st.pid, id := some (e.quad (quadOf e.st.core)).idc, promise := p, started := true
             half := recordBank e
             work := .booking { quad := quadOf e.st.core, core := e.st.core, layer := (e.G a).toNat, off := off, lap := lap, first := l.first
                                count := l.count } }] ∧
        (t.quad (quadOf e.st.core)).idc = (e.quad (quadOf e.st.core)).idc + 1) ∧
    (CompletesWhen (.unboard iv a sc) (infoR (encode (.unboard iv a sc)) iv sc (gs [a])) s
      (fun e => (e.die (dieOf e.st.core)).power.stage ≠ 1 ∧ (e.core e.st.core).bookQ.length < 16) fun e t =>
      StrandGoesOn e t ∧ BytesKept e t ∧ t.quads = e.quads ∧
      ((∀ p ∈ e.bookings e.st.sid.toNat, p.2.ticket ≠ some (e.G a)) → UnitsKept e t) ∧
      ∀ core x y, (e.core core).bookQ = [x] → x.owner = e.st.sid.toNat → x.ticket = some (e.G a) →
        e.bookings e.st.sid.toNat = [(core, x)] → x.booking = some y →
        (t.core core).bookQ = [{ x with work := .booking { y with cancel := true, rebook := false } }])

/-! ## Traps, special registers, strands under the supervisor -/

/-- Taking a precise trap (R318, R319, R204): the level's registers, the mode, the handler's address; a level whose handler is
active passes the trap on as TRAP_NESTED; with the hypervisor's handler active the strand stops; a level without a handler
ends it. trap and brk take their traps; eret returns as R320 says where R350 allows it. -/
def Obligations.TrapAndReturn : Prop :=
  (∀ (s : State) (c : BitVec 8) (v : Word) (h : Mode), h = levelOf s.st c →
    (CanEnter s.st h → Trapped s.st (s.precise c v).st h c v false false ∧ BytesKept s (s.precise c v) ∧
      (s.st.inflight = [] → KeepsG s (s.precise c v) ∧ VectorKept s (s.precise c v))) ∧
    ((s.st.trapRegs h).cause.getLsbD 11 = true → h = .user → CanEnter s.st .supervisor →
      Trapped s.st (s.precise c v).st .supervisor 0xA0 (BitVec.ofNat 64 (c.toNat + 512 * s.st.ctl.priv.code + 2048)) false false) ∧
    ((s.st.trapRegs h).cause.getLsbD 11 = true → h = .supervisor → CanEnter s.st .hypervisor →
      Trapped s.st (s.precise c v).st .hypervisor 0xA0 (BitVec.ofNat 64 (c.toNat + 512 * s.st.ctl.priv.code + 2048)) false false) ∧
    ((s.st.trapRegs h).cause.getLsbD 11 = true → h = .hypervisor →
      (s.precise c v).st.flags.stop = true ∧ (s.precise c v).st.pc = s.st.pc ∧
        (s.precise c v).st.ctl = s.st.completeAll.ctl) ∧
    ((s.st.trapRegs h).cause.getLsbD 11 = false → (s.st.trapRegs h).vec = 0 → Issuing s →
      (s.precise c v).strand s.st.sid.toNat = none)) ∧
  ∀ iv a sc s,
    (Completes (.trap iv a sc) (infoR (encode (.trap iv a sc)) iv sc (gs [a])) s fun e t => t = e.precise 0x08 (e.G a)) ∧
    (Completes (.brk iv sc) (infoR (encode (.brk iv sc)) iv sc []) s fun e t =>
      t = e.precise 0x09 ((encode (.brk iv sc)).setWidth 64)) ∧
    (∀ h, CompletesWhen (.eret iv sc) (infoR (encode (.eret iv sc)) iv sc []) s (fun e => h = e.st.ctl.priv)
      fun e t =>
        (((e.st.trapRegs h).cause.getLsbD 11 = true ∧ (e.st.trapRegs h).cause.toNat / 512 % 4 ≤ h.code ∧
            (e.st.trapRegs h).xpc.toNat / 2 ^ 60 = 0 ∧ (e.st.trapRegs h).xpc.toNat % 4 = 0) →
          KeepsG e t ∧ VectorKept e t ∧ UnitsKept e t ∧ Ended e t (e.st.trapRegs h).xpc ∧
          t.st.ctl.priv.code = (e.st.trapRegs h).cause.toNat / 512 % 4 ∧ t.st.ctl = { e.st.ctl with priv := t.st.ctl.priv } ∧
          (t.st.trapRegs h).cause = (e.st.trapRegs h).cause &&& ~~~0x800 ∧ (t.st.trapRegs h).vec = (e.st.trapRegs h).vec ∧
          (t.st.trapRegs h).val = (e.st.trapRegs h).val ∧ (t.st.trapRegs h).xpc = (e.st.trapRegs h).xpc ∧
          ∀ m, m ≠ h → t.st.trapRegs m = e.st.trapRegs m) ∧
        (¬ ((e.st.trapRegs h).cause.getLsbD 11 = true ∧ (e.st.trapRegs h).cause.toNat / 512 % 4 ≤ h.code ∧
            (e.st.trapRegs h).xpc.toNat / 2 ^ 60 = 0 ∧ (e.st.trapRegs h).xpc.toNat % 4 = 0) →
          t = e.precise 0x0B ((encode (.eret iv sc)).setWidth 64)))

/-- mfs and mts (R14 to R19, R352): every register the strand may name reads as it stands, and a write of a value that the
register takes changes that register alone. That the flags of an outstanding result stand in fcr before either names it is
the model's choice (log 52). -/
def Obligations.SpecialRegisterResult : Prop :=
  ∀ iv d n m sc s k, k = n.toNat * 32 + m.toNat →
    (∀ v, CompletesWhen (.mfs iv d n m sc) (specialInfo (encode (.mfs iv d n m sc)) iv sc d n m) s
      (fun e => specialValue (flagsIn e k) k = some v)
      fun e t => ScalarEffect (flagsIn e k) t d v e.nextPc) ∧
    (CompletesWhen (.mts iv d n m sc) (specialInfo (encode (.mts iv d n m sc)) iv sc d n m) s
      (fun e => ∃ p ∈ specialWrites (flagsIn e k), p.1 = k ∧ p.2 ((flagsIn e k).G d))
      fun e t => KeepsG (flagsIn e k) t ∧ VectorKept (flagsIn e k) t ∧ Ended (flagsIn e k) t e.nextPc ∧
        BytesKept e t ∧ t.poison = e.poison ∧ t.locks = e.locks ∧ t.cores = e.cores ∧ t.quads = e.quads ∧ t.hub = e.hub ∧
        t.strands = e.strands ∧
        ∀ i, i ≠ 0 → specialValue t i = if i = k then
          (specialValue (flagsIn e k) i).map (writtenAs e.st i ((flagsIn e k).G d)) else specialValue (flagsIn e k) i)

/-- sysc, halt and the words of major 0x3E (R333, R349, R351, R355, R356): a call enters a free slot of the ring, or the
caller is parked and cut; halt cuts the strand with stop set; ctx.sv and ctx.ld copy a frame, xmap one entry of it; preempt
is accepted; resume makes a saved strand ready and clears stop, unless bight set it (R358, log 55), and answers a pending
call. That halt's record is of kind 1 with
data 0 is the model's reading (log 24); what the spec leaves open of a save and a return is its choice (log 28). -/
def Obligations.SupervisorResult : Prop :=
  ∀ iv a b sc s,
    (∀ base, CompletesWhen (.sysc iv sc) (infoR (encode (.sysc iv sc)) iv sc (gRange 7)) s
      (fun e => Issuing e ∧ e.st.core < 16384 ∧ e.callRing (dieOf e.st.core) e.st.pid = some base)
      fun e t =>
        ((e.dieRegs (dieOf e.st.core) e.st.pid).parked = [] → (∃ i, i < 256 ∧ Memory.readN e.mem (base + 64 * i) 8 / 2 ^ 63 = 0) →
          Waits e t .call ∧ t.st.flags.callPending = true ∧
          ∃ i, i < 256 ∧ Memory.readN e.mem (base + 64 * i) 8 / 2 ^ 63 = 0 ∧
            Memory.readN t.mem (base + 64 * i) 8 = e.st.sid.toNat + 2 ^ 63 ∧
            ∀ j, 1 ≤ j → j ≤ 7 → Memory.readN t.mem (base + 64 * i + 8 * j) 8 = (e.G (BitVec.ofNat 5 j)).toNat) ∧
        (((e.dieRegs (dieOf e.st.core) e.st.pid).parked ≠ [] ∨
            ∀ i, i < 256 → Memory.readN e.mem (base + 64 * i) 8 / 2 ^ 63 ≠ 0) →
          t.st.place = .cut ∧ t.st.flags.parked = true ∧ t.st.wait = some .call ∧ t.st.pc = e.st.pc ∧
          (t.dieRegs (dieOf e.st.core) e.st.pid).parked = (e.dieRegs (dieOf e.st.core) e.st.pid).parked ++ [e.st.sid.toNat])) ∧
    (CompletesWhen (.halt iv sc) (privilegedInfo iv sc (.halt iv sc, [], .supervisor)) s Issuing
      fun e t => t.st.place = .cut ∧ t.st.flags.stop = true ∧ t.st.pc = e.nextPc ∧ t.st.hints = [] ∧ t.st.wait = none ∧
        (e.st.inflight = [] → KeepsG e t) ∧ (NoMatrix e → BytesKept e t) ∧ t.hub.bbox.getLast? = some (bboxRecord 1 0 e.st.sid.toNat e.clk)) ∧
    (∀ x pa f, CompletesWhen (.ctxSv iv a b sc) (privilegedInfo iv sc (.ctxSv iv a b sc, [a, b], .supervisor)) s
      (fun e => Issuing e ∧ e.strand ((e.G a).toNat % 2 ^ 48) = some x ∧ x.pid = e.st.pid ∧ x.place = .saved ∧
        x.flags.preempt = false ∧ x.frame = some f ∧ e.saveArea (e.G b) 5888 64 true = .ok pa e)
      fun e t => StrandGoesOn e t ∧ ∀ i, i < 5888 → Memory.read t.mem (pa + i) = Memory.read (e.flushOf e.st).mem (f + i)) ∧
    (∀ x pa f y e', CompletesWhen (.ctxLd iv a b sc) (privilegedInfo iv sc (.ctxLd iv a b sc, [a, b], .hypervisor)) s
      (fun e => e.strand ((e.G a).toNat % 2 ^ 48) = some x ∧ x.pid = e.st.pid ∧ x.sid ≠ e.st.sid ∧ x.place = .saved ∧
        x.flags.preempt = false ∧ x.pushing = false ∧ x.frame = some f ∧ e.saveArea (e.G b) 5888 64 false = .ok pa e ∧ (e.flushOf e.st).readArea (e.G b) pa 5888 = .ok y e' ∧
        imageOk x.cls e'.st.ctl.priv.code y = true ∧ y / 2 ^ (8 * 0x1300) % 2 ^ 48 = x.sid.toNat ∧
        y / 2 ^ (8 * 0x1300) / 2 ^ 48 % 4 = x.cls.code)
      fun e t => t.st.pc = e.nextPc ∧ KeepsG e t ∧
        ∀ i, i < 5888 → Memory.read t.mem (f + i) = BitVec.ofNat 8 (y / 2 ^ (8 * i))) ∧
    (∀ x, CompletesWhen (.preempt iv a sc) (privilegedInfo iv sc (.preempt iv a sc, [a], .supervisor)) s
      (fun e => e.strand ((e.G a).toNat % 2 ^ 48) = some x ∧ x.sid.toNat = (e.G a).toNat % 2 ^ 48 ∧ x.pid = e.st.pid ∧
        x.place = .resident)
      fun e t => t.st.pc = e.nextPc ∧ KeepsG e t ∧ BytesKept e t ∧
        Stands t x.sid.toNat fun y => e.gangBusy x = false → y.flags.preempt = true) ∧
    (∀ x, CompletesWhen (.resume iv a b sc) (privilegedInfo iv sc (.resume iv a b sc, [a, b], .supervisor)) s
      (fun e => e.strand ((e.G a).toNat % 2 ^ 48) = some x ∧ x.sid.toNat = (e.G a).toNat % 2 ^ 48 ∧ x.pid = e.st.pid ∧
        x.sid ≠ e.st.sid ∧ x.flags.preempt = false ∧
        ((x.place = .saved ∧ (e.view x).flags.parked = false ∧ (e.view x).flags.callPending = false) ∨
          (x.place = .resident ∧ x.flags.callPending = true)))
      fun e t => StrandGoesOn e t ∧
        (x.place = .saved → Stands t x.sid.toNat fun y => y.place = .toPlace ∧ y.flags.runnable = false ∧
          y.flags.stop = ((e.view x).flags.stop && x.flags.bight)) ∧
        (x.place = .resident → StrandMoves e t x.sid.toNat fun x y => GoesOn x y ∧ y.G 1 = e.G b ∧
          y.flags.callPending = false ∧ ∀ n, n ≠ 1 → y.G n = x.G n)) ∧
    (∀ x pa f y e', CompletesWhen (.xmap iv a b sc) (privilegedInfo iv sc (.xmap iv a b sc, [a, b], .hypervisor)) s
      (fun e => e.strand ((e.G a).toNat % 2 ^ 48) = some x ∧ x.pid = e.st.pid ∧ x.place = .saved ∧ x.flags.preempt = false ∧
        x.frame = some f ∧
        e.saveArea (e.G b - BitVec.ofNat 64 ((e.G b).toNat % 16)) 32 32 false = .ok pa e ∧
        (e.flushOf e.st).readArea (e.G b - BitVec.ofNat 64 ((e.G b).toNat % 16)) pa 32 = .ok y e')
      fun e t => t.st.pc = e.nextPc ∧ KeepsG e t ∧
        ∀ i, i < 32 → Memory.read t.mem (f + 0x1500 + 32 * ((e.G b).toNat % 16) + i) = BitVec.ofNat 8 (y / 2 ^ (8 * i)))

/-- Checks ahead of a unit's effect (R22, R69, R74, R75), in their order, on the two-source scalar instructions and the
privileged words: hints that the word does not accept, a register outside the class, a broken promise under la.trap, a mode
below the one needed. A hint word joins those before it and changes nothing else; the first that may not follow them is the
one that failed when the unit ends. The order of checks that two rules name is the model's reading (logs 42 and 49). -/
def Obligations.UnitChecks : Prop :=
  (∀ iv d a b sc s, ∀ p ∈ twoSource iv d a b sc,
    (∀ w, misplaced [] s.st.hints = some w → exec p.1 s = .next (s.precise 0x03 (w.setWidth 64))) ∧
    (misplaced [] s.st.hints = none → ((∃ w ∈ s.st.hints, hintKind w = 0) ∨ true ∈ modGroups (modData s.st.hints)) →
      exec p.1 s = .next (s.precise 0x03 ((encode p.1).setWidth 64))) ∧
    (s.st.hints = [] → Wf.mark iv sc = true →
      (∀ r, s.st.cls = .light → [d, a, b].find? (fun x => decide (8 ≤ x.toNat)) = some r →
        exec p.1 s = .next (s.precise 0x05 (r.setWidth 64))) ∧
      (∀ o, (s.st.cls = .light → ∀ x ∈ [d, a, b], x.toNat < 8) →
        s.st.inflight.find? (fun o => decide (1 ≤ o.left) && o.dests.any fun r => r != .g 0 && (gs [d, a, b]).contains r) = some o →
        s.st.ctl.laTrap = true → exec p.1 s = .next (s.precise 0x04 o.addr)))) ∧
  (∀ iv a b sc s, ∀ p ∈ privileged iv a b sc, s.st.hints = [] → Wf.mark iv sc = true → s.st.ctl.priv.code < p.2.2.code →
    exec p.1 s = .next (s.precise 0x06 ((encode p.1).setWidth 64))) ∧
  (∀ iv d n m sc s, ∀ i ∈ [Instr.mfs iv d n m sc, Instr.mts iv d n m sc], s.st.hints = [] → Wf.mark iv sc = true →
    ((n.toNat / 8 = 1 ∧ s.st.ctl.priv = .user) ∨ (n.toNat / 8 = 2 ∧ s.st.ctl.priv ≠ .hypervisor)) →
    exec i s = .next (s.precise 0x06 (BitVec.ofNat 64 (n.toNat * 32 + m.toNat)))) ∧
  (∀ iv d s, ∀ i ∈ [Instr.hintExtend iv d, Instr.hintModifier iv d, Instr.hintSchedule iv d],
    exec i s = .next { s with st := { s.st with hints := s.st.hints ++ [encode i] } }) ∧
  (∀ l, misplaced [] l = none ↔ l.length ≤ 1 ∨ l.map hintKind ∈ [[0, 0], [1, 0], [1, 0, 0]]) ∧
  (∀ l w r, misplaced [] l = none → misplaced [] (l ++ [w]) ≠ none → misplaced [] (l ++ w :: r) = some w)

/-! ## Events of strands -/

/-- Events that end a wait at a unit (R76, R218, R225, R226, R241, R245, R250, R252): each happens when what the strand waits
for has come, the strand goes on after its unit with the register the unit writes, and before that nothing happens. What a
fence waits for is the model's reading (log 43), and so is the answer to xreq: the run of pages it covers and the rights they
all give (log 45). -/
def Obligations.WaitEvents : Prop :=
  ∀ (s : State) (sid : Nat) (x : Strand), s.strand sid = some x →
    (∀ o rest, x.inflight = o :: rest → Gives (.longLatencyResult sid) s fun t => Alone s t sid ∧ StrandMoves s t sid fun x y =>
      y.inflight = rest ∧ y.pc = x.pc ∧ y.wait = x.wait ∧
      (∀ d v, o.writes = [.g d v] → GetsG x y d v ∧ y.v = x.v ∧ y.ctl = x.ctl) ∧
      (∀ d r, o.writes = [.v d r] → y.g = x.g ∧ (∀ n, y.V n = if n = d then r else x.V n) ∧ y.ctl = x.ctl) ∧
      ∀ d r b, o.writes = [.v d r, .fcr b] → y.g = x.g ∧ (∀ n, y.V n = if n = d then r else x.V n) ∧
        y.ctl = { x.ctl with fcr := x.ctl.fcr ||| b }) ∧
    (∀ line ea d, x.wait = some (.waitA line ea d true) →
      (∀ tgt s', s.strongCheck x .waita ea 8 true true = .ok tgt s' → s'.strand sid = some x →
        Gives (.waitaReread sid) s fun t => BytesKept s' t ∧ StrandMoves s t sid fun x y =>
          GoesOn x y ∧ GetsG x y d (BitVec.ofNat 64 (s'.strongRead tgt 8))) ∧
      ((∀ tgt s', s.strongCheck x .waita ea 8 true true ≠ .ok tgt s') →
        Gives (.waitaReread sid) s fun t => Alone s t sid ∧ StrandMoves s t sid TriesAgain)) ∧
    (∀ seen, x.wait = some (.phase seen) →
      (s.performedUpTo (dieOf x.core) seen = true → Gives (.phaseComplete sid) s fun t =>
        BytesKept s t ∧ (t.core x.core).rcache = [] ∧ StrandMoves s t sid fun x y => GoesOn x y ∧ RegsKept x y) ∧
      (s.performedUpTo (dieOf x.core) seen = false → exec (.phaseComplete sid) s = .next s)) ∧
    (∀ seen, x.wait = some (.fenceX seen) →
      (s.performedUpTo (dieOf x.core) seen = true → Gives (.phaseComplete sid) s fun t =>
        Alone s t sid ∧ StrandMoves s t sid fun x y => GoesOn x y ∧ RegsKept x y) ∧
      (s.performedUpTo (dieOf x.core) seen = false → exec (.phaseComplete sid) s = .next s)) ∧
    (∀ win, x.wait = some (.fenceR win) →
      (s.reflected sid win = true → Gives (.fenceRComplete sid) s fun t =>
        Alone s t sid ∧ StrandMoves s t sid fun x y => GoesOn x y ∧ RegsKept x y) ∧
      (s.reflected sid win = false → exec (.fenceRComplete sid) s = .next s)) ∧
    (∀ die seen, x.wait = some (.fenceA die seen) →
      (s.performedUpTo die seen = true → Gives (.fenceAComplete sid) s fun t =>
        Alone s t sid ∧ StrandMoves s t sid fun x y => GoesOn x y ∧ RegsKept x y) ∧
      (s.performedUpTo die seen = false → exec (.fenceAComplete sid) s = .next s)) ∧
    (∀ ea len, x.wait = some (.tagSet ea len) →
      (∀ pa n, tagCheck x ea len = .ok (pa, n) → Gives (.tagSetComplete sid) s fun t =>
        BytesKept (s.flushOf x) t ∧ (StrandMoves s t sid fun x y => GoesOn x y ∧ RegsKept x y) ∧
        ∀ g, t.lockAt (32 * g) = if pa / 32 ≤ g ∧ g < pa / 32 + n then ea.extractLsb' 56 4 else s.lockAt (32 * g)) ∧
      (∀ c, tagCheck x ea len = .error c → Gives (.tagSetComplete sid) s fun t =>
        Alone s t sid ∧ StrandMoves s t sid TriesAgain)) ∧
    (∀ d va req, x.wait = some (.xreq d va req) →
      (∀ i (h : i < 16), Extent.covers x.ext[i] va = false) →
      ((2 ^ 60 ≤ va.toNat ∨ s.pageAt x.pid (va.toNat % 2 ^ 56) = none) → Gives (.translationAnswer sid) s fun t =>
        Alone s t sid ∧ StrandMoves s t sid fun x y => GoesOn x y ∧ GetsG x y d (-2) ∧ y.ext = x.ext) ∧
      (∀ g, va.toNat < 2 ^ 60 → s.pageAt x.pid (va.toNat % 2 ^ 56) = some g → spaceOf g.base = .config →
        Gives (.translationAnswer sid) s fun t => BytesKept s t ∧ Counts s t x.pid .cfgDeny 1 ∧
          StrandMoves s t sid fun x y => GoesOn x y ∧ GetsG x y d (-2) ∧ y.ext = x.ext) ∧
      ∀ g l r, va.toNat < 2 ^ 60 → s.pageAt x.pid (va.toNat % 2 ^ 56) = some g → spaceOf g.base ≠ .config →
        l = s.run x.pid (xlateLimit x (va.toNat % 2 ^ 56) req.toNat) g runFuel → r = grant l (req.toNat / 2 ^ 60) →
        (r = 0 → Gives (.translationAnswer sid) s fun t =>
          Alone s t sid ∧ StrandMoves s t sid fun x y => GoesOn x y ∧ GetsG x y d (-3) ∧ y.ext = x.ext) ∧
        (r ≠ 0 → (∀ i (h : i < 16), Extent.valid x.ext[i] = true) → Gives (.translationAnswer sid) s fun t =>
          Alone s t sid ∧ StrandMoves s t sid fun x y => GoesOn x y ∧ GetsG x y d (-1) ∧ y.ext = x.ext) ∧
        (∀ i (h : i < 16), r ≠ 0 → Extent.valid x.ext[i] = false →
          (∀ j (_ : j < i), Extent.valid (x.ext[j]'(by omega)) = true) →
          Gives (.translationAnswer sid) s fun t => BytesKept s t ∧ t.cores = s.cores ∧ t.quads = s.quads ∧ t.dies = s.dies ∧
            t.locks = s.locks ∧ t.hub = { s.hub with pages := t.hub.pages } ∧
            StrandMoves s t sid fun x y => GoesOn x y ∧
              (∀ j (hj : j < 16), j ≠ i → y.ext[j] = x.ext[j]) ∧
              y.ext[i] = s.entryOver g (va.toNat % 2 ^ 56 / 64 * 64)
                (runEnd (xlateLimit x (va.toNat % 2 ^ 56) req.toNat) l) r ∧
              GetsG x y d (BitVec.ofNat 64 i ||| ((y.ext[i]).extractLsb' 192 4).setWidth 64 <<< 8)))

/-- Events in which a strand traps, enters, leaves or comes back to its core: delivery of a deferred fault (R316, R321), a
missed promise (R265), urgent entry and overrun (R147, R148), admission (R149), the cut and the save of a pre-emption (R322,
R323), the placing of a strand made ready (R328), the entry of a parked call (R333). What the spec leaves open of a save and
a return is the model's choice (log 28). -/
def Obligations.StrandEvents : Prop :=
  ∀ (s : State) (sid : Nat) (x : Strand), Live s sid x →
    (∀ c v h rest, x.pending = ⟨c, v, h⟩ :: rest → CanEnter x h → Takes s x →
      ((x.wait = none ∧ x.hints = []) ∨ ∃ w, x.wait = some w ∧ w.yields = true) → s.urgentDue x.core = none →
      Gives (.deferredFaultDelivery sid) s fun t => BytesKept s t ∧ StrandMoves s t sid fun x y =>
        Trapped x y h c v true x.lost ∧ y.pending = rest ∧ y.lost = false) ∧
    (∀ d k n, x.wait = some (.await false d k n) → PromisePast s k → s.jobFinal x k = false → s.suspended x k = false →
      (∀ f ∈ x.pending.head?, (x.trapRegs f.level).cause.getLsbD 11 = true) → Takes s x →
      CanEnter x (levelOf x 0x80) → Gives (.promiseMissed sid) s fun t =>
        BytesKept s t ∧ Counts s t x.pid .jobMiss 1 ∧ StrandMoves s t sid fun x y => Trapped x y (levelOf x 0x80) 0x80 k false false) ∧
    (∀ core rest, (s.core core).urgent = sid :: rest → (s.core core).shadow = none → (s.core core).umask = none →
      (s.die (dieOf core)).halted = false → s.startsInTurn x = true → x.place = .urgentQ →
      s.atBoundary core = true → s.mayAdmit x.pid = true → Gives (.urgentEntry core) s fun t =>
        BytesKept s t ∧ (t.core core).shadow = some sid ∧ (t.core core).urgent = rest ∧
        (t.part x.pid).resident = (s.part x.pid).resident + 1 ∧
        (StrandMoves s t sid fun x y => y.place = .shadow ∧ y.core = core ∧ y.ctl = { x.ctl with urg := true } ∧ y.pc = x.pc) ∧
        ∀ n z, n ≠ sid → Live s n z → z.core = core → z.place = .resident →
          ((∃ w, z.wait = some w ∧ LeftUndone w) → Unwatched t n) ∧ Stands t n fun y => y.inflight = [] ∧ y.pc = z.pc ∧
            (∀ w, z.wait = some w → LeftUndone w → y.wait = some .withdrawn) ∧
            ∀ w, z.wait = some w → ¬ LeftUndone w → y.wait = z.wait) ∧
    (∀ core since, (s.core core).umask = some (sid, since) → since.toNat + 512 ≤ s.clk.toNat → x.place = .resident →
      Gives (.urgentMaskOverrun core) s fun t => BytesKept s t ∧ (t.core core).umask = none ∧ StrandMoves s t sid fun x y =>
        (x.pending.length < 8 → FaultDue s x y 0x64 (BitVec.ofNat 64 (since.toNat % 2 ^ 48))) ∧
        (8 ≤ x.pending.length → y.lost = true ∧ (x.dueAt ≠ s.clk.toNat → y.pending = x.pending.take 8))) ∧
    (∀ core rest, (s.core core).arrq = sid :: rest → x.place = .queued → x.resuming = false → RingsEmpty s →
      (s.die (dieOf core)).waiting = [] → s.bookings sid = [] →
      s.admits core (sidSlot sid) x.pid (s.slot (sidSlot sid)).part x.moving = true → Gives (.arrivalAdmit core) s fun t =>
        BytesKept s t ∧ (t.core core).arrq = rest.filter (· != sid) ∧
        (t.core core).part = some ((s.core core).part.getD (s.slot (sidSlot sid)).part) ∧
        StrandMoves s t sid fun x y => y.place = .resident ∧ y.core = core ∧ y.pc = x.pc ∧ y.g = x.g ∧ y.wait = x.wait) ∧
    (x.flags.preempt = true → ((x.wait = none ∧ x.hints = []) ∨ ∃ w, x.wait = some w ∧ ∀ n, w ≠ .accRd n) → x.place = .resident →
      x.flags.held = none → (s.die (dieOf x.core)).halted = false → Gives (.preemptionCut sid) s fun t =>
        ((s.quad (quadOf x.core)).mat0 = [] → (s.quad (quadOf x.core)).mat1 = [] → BytesKept s t) ∧
        Unwatched t sid ∧ StrandMoves s t sid fun x y =>
          y.place = .cut ∧ y.flags.preempt = false ∧ y.flags.stop = (x.flags.stop || x.flags.bight) ∧
          y.ctl = { x.completeAll.ctl with urg := false } ∧ y.inflight = [] ∧ y.pc = x.pc ∧
          y.wait = (if x.wait.any Wait.stays then x.wait else none) ∧ (x.inflight = [] → y.g = x.g ∧ y.v = x.v)) ∧
    (∀ f, x.place = .cut → (∀ l ∈ s.hub.landings, l.sender ≠ sid) → (s.core x.core).fwd.length < 16 → s.wantsPool x = false →
      s.freeSave x.home x.pid = some f → Gives (.contextSaveComplete sid) s fun t =>
        (t.core x.core).sbuf = [] ∧ f ∈ (t.dieRegs x.home x.pid).frames ∧
        Memory.readN t.mem (f + 0x1300) 8 % 2 ^ 48 = sid ∧ Memory.readN t.mem (f + 0x1300) 8 / 2 ^ 48 % 4 = x.cls.code ∧
        StrandMoves s t sid fun x y => y.place = (if x.flags.wake then .toPlace else .saved) ∧ y.frame = some f) ∧
    (∀ core, x.place = .toPlace → (s.view x).flags.parked = false → (s.view x).flags.heldJob = false → (s.view x).pool = none →
      (s.view x).flags.stop = false → s.mayAdmit x.pid = true → (s.die (dieOf core)).halted = false →
      s.eligible x.pid (s.slot (sidSlot sid)).part core = true → s.poison = [] →
      (x.cls = .light → s.straightIn core (sidSlot sid) = true → Gives (.strandResume sid core) s fun t =>
        (t.core core).arrq = (s.core core).arrq ++ [sid] ∧ StrandMoves s t sid fun x y => y.place = .queued ∧ y.core = core ∧
          y.resuming = true ∧ y.pc = (s.view x).pc ∧ y.g = (s.view x).g ∧ y.frame = none) ∧
      (x.cls ≠ .light → s.freeCtx core (s.slot (sidSlot sid)).part x.cls ≠ 0 → s.bookings sid = [] →
        Gives (.strandResume sid core) s fun t => StrandMoves s t sid fun x y => y.place = .resident ∧ y.core = core ∧
          y.pc = (s.view x).pc ∧ y.g = (s.view x).g ∧ y.frame = none)) ∧
    (∀ die base rest f, die < 16 → (s.dieRegs die x.pid).parked = sid :: rest → s.callRing die x.pid = some base → x.place = .saved →
      x.frame = some f → (f + 5888 ≤ base ∨ base + 16384 ≤ f) → (∃ i, i < 256 ∧ Memory.readN s.mem (base + 64 * i) 8 / 2 ^ 63 = 0) →
      Gives (.parkedCallEntry x.pid die) s fun t => (t.dieRegs die x.pid).parked = rest ∧
        (∃ i, i < 256 ∧ Memory.readN s.mem (base + 64 * i) 8 / 2 ^ 63 = 0 ∧
          Memory.readN t.mem (base + 64 * i) 8 = (s.view x).sid.toNat + 2 ^ 63) ∧
        StrandMoves s t sid fun _ y => y.place = .toPlace ∧ y.flags.parked = false ∧ y.flags.callPending = true)

/-- User queues, packets and nodes (R131 to R145, R155, R408): what a notify leaves, what each packet becomes, when a node is
ready and what it does, and the start and the end of a launch. The order of the packet processor's checks and the placing of
strands are the model's choices (log 30), as is what an acquire drains, clears and waits for (log 54), that a launch without
strands waits for its signal, and what a seed finds that can no longer bind (log 61). -/
def Obligations.LaunchEvents : Prop :=
  (∀ (s : State) p q index, p < 20 → q < 64 → s.hub.booted = true → Gives (.userQueueNotify p q index) s fun t => BytesKept s t ∧
    t.cfg p (0xC000 + 8 * q) = BitVec.ofNat 64 (index.toNat % 2 ^ 32)) ∧
  (∀ (s : State) p q n, PacketAt s p q n →
    (∀ cls ops wait, LaunchFields s p n cls ops wait →
      (pk n 0x18 4 ≤ 2 ^ 30 → Gives (.launchPacket p q) s fun t => Accepted s t p q n
        (.launch (BitVec.ofNat 64 (pk n 0x10 8)) (pk n 0x18 4) cls (pk n 0x1D 1) (pk n 0x1E 1) (BitVec.ofNat 5 (pk n 0x1F 1))
          (BitVec.ofNat 6 (pk n 0x20 1)) (BitVec.ofNat 10 (pk n 0x22 2)) (BitVec.ofNat 64 (pk n 0x28 8)) ops) wait) ∧
      (2 ^ 30 < pk n 0x18 4 → Gives (.launchPacket p q) s fun t => Rejected s t p q n 0x60)) ∧
    ((pk n 0 1 % 16 = 0 ∨ 6 ≤ pk n 0 1 % 16) → Gives (.launchPacket p q) s fun t => Rejected s t p q n 0x61) ∧
    (∀ pa, pk n 0 1 % 16 = 2 → HeaderOk s p n → s.sigPa p (BitVec.ofNat 64 (pk n 0x10 8)) = some pa → pk n 0x18 8 ≤ 2 →
      pk n 0x28 24 = 0 → Gives (.signalOperationPacket p q) s fun t => Accepted s t p q n
        (.signal (BitVec.ofNat 64 (pk n 0x10 8)) pa (pk n 0x18 8) (BitVec.ofNat 64 (pk n 0x20 8))) none) ∧
    (∀ l list, pk n 0 1 % 16 = 3 → HeaderOk s p n → pk n 0x10 8 % 16 = 0 → 1 ≤ pk n 0x18 4 → pk n 0x18 4 ≤ 64 → pk n 0x1C 36 = 0 →
      s.mapVa p (BitVec.ofNat 64 (pk n 0x10 8)) (16 * pk n 0x18 4) 1 false = some l →
      (List.range (pk n 0x18 4)).map (fun i => (s.sigPa p (BitVec.ofNat 64 (s.readPieces l (16 * i) 8)),
        BitVec.ofNat 64 (s.readPieces l (16 * i + 8) 8))) = list.map (fun e => (some e.1, e.2)) →
      Gives (.barrierAndPacket p q) s fun t => Accepted s t p q n (.barrierAnd list) none) ∧
    (∀ a b, pk n 0 1 % 16 = 4 → HeaderOk s p n → pk n 0x10 8 % 8 = 0 → pk n 0x18 8 % 8 = 0 → pk n 0x20 8 ≠ 0 →
      pk n 0x20 8 ≤ 2 ^ 32 →
      pk n 0x20 8 % 64 = 0 → pk n 0x28 24 = 0 → s.mapVa p (BitVec.ofNat 64 (pk n 0x10 8)) (pk n 0x20 8) 1 true = some a →
      s.mapVa p (BitVec.ofNat 64 (pk n 0x18 8)) (pk n 0x20 8) 2 true = some b → Gives (.copyPacket p q) s fun t => Accepted s t p q n
        (.copy (BitVec.ofNat 64 (pk n 0x10 8)) (BitVec.ofNat 64 (pk n 0x18 8)) a b (pk n 0x20 8)) none) ∧
    (∀ l, pk n 0 1 % 16 = 5 → HeaderOk s p n → pk n 0x10 8 % 64 = 0 → 1 ≤ pk n 0x18 8 → pk n 0x18 8 ≤ 4096 → pk n 0x20 8 = 0 →
      pk n 0x28 24 = 0 → s.seedOk p q = true → s.mapVa p (BitVec.ofNat 64 (pk n 0x10 8)) (64 * pk n 0x18 8) 1 false = some l →
      Gives (.creelSeedPacket p q) s fun t => Accepted s t p q n (.seed l (pk n 0x18 8)) none)) ∧
  (∀ (s : State) (id : Nat) (n : Node), s.nodeOf id = some n → s.hub.down = false →
    (n.ready = false → n.acq = true → (∃ c ∈ s.hub.copies, ∃ k, c.dev = s.hub.device ∧ c.shown = false ∧
        c.launch = some (64 * n.pid + n.queue, k) ∧ k < n.id) → exec (.nodeReady id) s = .next s) ∧
    (n.ready = false → (n.acq = true → (∀ m ∈ s.hub.nodes, m.pid = n.pid → m.queue = n.queue → n.id ≤ m.id) ∧
        ∀ c ∈ s.hub.copies, ∀ k, c.dev = s.hub.device → c.shown = false → c.launch = some (64 * n.pid + n.queue, k) → n.id ≤ k) →
      (∀ pa, n.wait = some pa → Memory.readN s.mem pa 8 = 0) →
      (s.hub.nodes.filter fun m => m.pid == n.pid && m.pooled).length < 4096 → Gives (.nodeReady id) s fun t =>
        BytesKept (if n.acq then s.acquire n else s) t ∧
        (n.acq = true → (∀ core, s.inBands n.pid core = true → (t.core core).rcache = []) ∧
          ∀ core, ∀ r ∈ (s.core core).ran, r.queue = 64 * n.pid + n.queue → r.node < n.id → (t.core core).sbuf = []) ∧
        ∃ m, t.nodeOf id = some m ∧ m.ready = true ∧ m.body = n.body ∧ m.done = n.done) ∧
    (n.ready = true →
      (∀ slot cores pc count cls slots arrq cshift cbound part seed ops,
        n.body = .launch pc count cls slots arrq cshift cbound part seed ops → n.slot = some slot → n.ended = false → n.done < count →
        (∀ m ∈ s.hub.nodes, m.pid = n.pid → m.id < n.id → s.canLaunch m = false) → s.launchCores n = some cores → slot < 1024 →
        n.done + cores.length ≤ 2 ^ 30 →
        (∀ i, i < cores.length → s.strand (mkSid (s.slot slot).gen.toNat slot 0 (n.done + i)) = none) → Gives (.launchDispatch id) s fun t =>
          (∃ m, t.nodeOf id = some m ∧ m.done = n.done + cores.length) ∧
          ∀ i core, cores[i]? = some core → Stands t (mkSid (s.slot slot).gen.toNat slot 0 (n.done + i)) fun y =>
            y.cls = (s.slot slot).cls ∧ y.core = core ∧ y.pc = (s.slot slot).entry ∧
            y.G 1 = BitVec.ofNat 64 (n.done + i) ∧ y.G 2 = BitVec.ofNat 64 (s.slot slot).count ∧ y.ext = (s.slot slot).ext ∧
            ((s.slot slot).cls ≠ .light → y.place = .resident)) ∧
      (∀ pc count cls slots arrq cshift cbound part seed ops slot,
        n.body = .launch pc count cls slots arrq cshift cbound part seed ops → n.slot = none → n.ended = false → n.done < count →
        (∀ m ∈ s.hub.nodes, m.pid = n.pid → m.id < n.id → s.canLaunch m = false) → (s.launchCores n).isSome = true →
        s.freeLaunchSlot = some slot → Gives (.launchDispatch id) s fun t =>
          (s.launchTable n.pid ops = none → BytesKept s t ∧ t.strands = s.strands ∧
            ∃ m, t.nodeOf id = some m ∧ m.cause = 0x62 ∧ m.ended = true) ∧
          ∀ ext, s.launchTable n.pid ops = some ext → (t.slot slot).used = true ∧ (t.slot slot).node = n.id ∧
            (t.slot slot).gen = (s.slot slot).gen ∧ (t.slot slot).count = count ∧ (t.slot slot).cls = cls ∧
            (t.slot slot).entry = pc ∧ (t.slot slot).part = part ∧ (t.slot slot).ext = ext ∧
            ∃ m, t.nodeOf id = some m ∧ m.slot = some slot) ∧
      (n.ended = true → Gives (.nodeComplete id) s fun t => NodeDone s t n n.cause) ∧
      (∀ va pa op y, n.body = .signal va pa op y → n.ended = false → n.signal = none → cutBy n.cuts va = false → pa % 16 = 0 →
        pa < 2 ^ 39 → Gives (.nodeComplete id) s fun t => t.hub.nodes = s.hub.nodes.filter (·.id != n.id) ∧
          Memory.readN t.mem pa 8 = (if op = 0 then (BitVec.ofNat 64 (Memory.readN s.mem pa 8) - y).toNat else if op = 1 then y.toNat
            else (BitVec.ofNat 64 (Memory.readN s.mem pa 8) + y).toNat) ∧
          ∀ a, a < pa ∨ pa + 8 ≤ a → Memory.read t.mem a = Memory.read s.mem a) ∧
      (∀ l count, n.body = .seed l count → n.ended = false →
        (s.seedOk n.pid n.queue = false → Gives (.nodeComplete id) s fun t => NodeDone s t n 0x61) ∧
        ∀ die s' slot, s.seedOk n.pid n.queue = true → (s.dom n.pid).bound = some slot → n.done + 1 = count →
          (s.domDies n.pid)[n.done % (s.domDies n.pid).length]? = some die →
          s.placeSeed n.pid die (taskOf (s.readPieces l (64 * n.done) 64)) = some s' →
          Gives (.nodeComplete id) s fun t => NodeDone (s'.countPush n.pid die) t n 0) ∧
      (∀ list, n.body = .barrierAnd list →
        ((∀ e ∈ list, Memory.readN s.mem (e.1 + 8) 8 / 2 ^ 63 ≠ 1 ∧
            (BitVec.ofNat 64 (Memory.readN s.mem e.1 8)).toInt ≤ e.2.toInt) →
          Gives (.barrierAndComplete id) s fun t => NodeDone s t n 0) ∧
        ((∀ e ∈ list, Memory.readN s.mem (e.1 + 8) 8 / 2 ^ 63 ≠ 1) →
          (∃ e ∈ list, e.2.toInt < (BitVec.ofNat 64 (Memory.readN s.mem e.1 8)).toInt) → exec (.barrierAndComplete id) s = .next s)) ∧
      (∀ srcVa dstVa a b len, n.body = .copy srcVa dstVa [(a, len)] [(b, len)] len → n.signal = none → n.cuts = [] → len % 64 = 0 →
        (a + len ≤ b ∨ b + len ≤ a) → (∀ i, i < len → s.poisoned (Memory.line (a + i)) = false ∧ s.freed (Memory.line (b + i)) = false) →
        Gives (.copyPacketComplete id false) s fun t => t.hub.nodes = s.hub.nodes.filter (·.id != n.id) ∧
          ∀ c, Memory.read t.mem c = if b ≤ c ∧ c < b + len then Memory.read s.mem (a + (c - b)) else Memory.read s.mem c))) ∧
  (∀ (s : State) (slot : Nat) (n : Node), s.nodeOf (s.slot slot).node = some n → (s.slot slot).used = true →
    (s.slot slot).closed = false → n.slot = some slot → (s.slot slot).count ≤ n.done → s.launchDone slot = true →
    (n.rel = true → s.localVisible slot = true) → s.hub.down = false → Gives (.launchComplete slot) s fun t =>
      NodeDone (if n.rel then s.releaseDrain slot else s) t n ((s.slot slot).cause.getD 0) ∧
      (n.rel = true → ∀ core, ∀ r ∈ (s.core core).ran, r.launch = (s.slot slot).gen.toNat * 2 ^ 10 + slot →
        (t.core core).sbuf = []) ∧
      ((s.dom (s.slot slot).pid).bound ≠ some slot → t.slot slot = { gen := (s.slot slot).gen + 1 }) ∧
      ((s.dom (s.slot slot).pid).bound = some slot → t.slot slot = { s.slot slot with closed := true }))

/-- Landings on their way, their refusals and acknowledgments, and messages (R153, R154, R182, R329, R330, R362, R363). Where
entries are looked up, and the mode of a handler, are the model's (logs 16, 32). -/
def Obligations.LandingEvents : Prop :=
  (∀ (s : State) i l c, LandingAt s i l (.core c) →
    (s.strand (l.addr.toNat / 2 ^ 16) = none → Gives (.landingArrival i) s fun t => RefusedWith s t i l 0x6B) ∧
    ∀ x, Live s (l.addr.toNat / 2 ^ 16) x → x.core = c →
      ((x.place = .resident ∨ x.place = .shadow) →
        (∀ n, (NamesG x l n → x.ctl.lmask.getLsbD n.toNat = true → x.ctl.larr.getLsbD n.toNat = false →
          Gives (.landingArrival i) s fun t => BytesKept s t ∧ t.hub.landings = s.hub.landings.eraseIdx i ∧
            t.hub.refusals = s.hub.refusals ∧ StrandMoves s t (l.addr.toNat / 2 ^ 16) fun x y => Lands x y l ∧ y.pc = x.pc ∧
              y.wait = (match x.wait with | some (.waitL m) => if picksG x m n.toNat then none else x.wait
                                          | w => w)) ∧
          (NamesG x l n → x.ctl.lmask.getLsbD n.toNat = false → Gives (.landingArrival i) s fun t => RefusedWith s t i l 0x69) ∧
          (NamesG x l n → x.ctl.lmask.getLsbD n.toNat = true → x.ctl.larr.getLsbD n.toNat = true →
            Gives (.landingArrival i) s fun t => RefusedWith s t i l 0x6A)) ∧
        (∀ n, (NamesV x l n → x.ctl.lvmask.getLsbD n.toNat = true → x.ctl.lvarr.getLsbD n.toNat = false →
          Gives (.landingArrival i) s fun t => BytesKept s t ∧ t.hub.landings = s.hub.landings.eraseIdx i ∧
            t.hub.refusals = s.hub.refusals ∧ StrandMoves s t (l.addr.toNat / 2 ^ 16) fun x y => Lands x y l ∧ y.pc = x.pc ∧
              y.wait = (match x.wait with | some (.waitL m) => if picksV x m n.toNat then none else x.wait
                                          | w => w)) ∧
          (NamesV x l n → x.ctl.lvmask.getLsbD n.toNat = false → Gives (.landingArrival i) s fun t => RefusedWith s t i l 0x69)) ∧
        ((∀ n, ¬ NamesG x l n) → (∀ n, ¬ NamesV x l n) → Gives (.landingArrival i) s fun t => RefusedWith s t i l 0x68)) ∧
      (x.place = .cut → Gives (.landingArrival i) s fun t => BytesKept s t ∧
        Counts s t l.pid .landFwd (if l.forwarded then 0 else 1) ∧
        t.hub.landings = s.hub.landings.set i { l with tgt := .agent x.home, forwarded := true })) ∧
  (∀ (s : State) i l d, LandingAt s i l (.agent d) →
    (s.strand (l.addr.toNat / 2 ^ 16) = none → Gives (.landingHeld i) s fun t => RefusedWith s t i l 0x6B) ∧
    (∀ x, s.strand (l.addr.toNat / 2 ^ 16) = some x → x.place = .cut → x.home = d → exec (.landingHeld i) s = .next s) ∧
    ∀ x n, Live s (l.addr.toNat / 2 ^ 16) x → x.place = .saved → x.home = d → NamesG (s.view x) l n →
      ((s.view x).ctl.lmask.getLsbD n.toNat = true → (s.view x).ctl.larr.getLsbD n.toNat = false →
        Gives (.landingHeld i) s fun t => t.hub.landings = s.hub.landings.eraseIdx i ∧ t.hub.refusals = s.hub.refusals ∧
          Stands t (l.addr.toNat / 2 ^ 16) fun y => y.place = .saved ∧
            ((s.view x).wait = none → y.G n = l.value ∧ (∀ m, m ≠ n → y.G m = (s.view x).G m) ∧ y.pc = (s.view x).pc) ∧
            ∀ m, (s.view x).wait = some (.waitL m) → picksG (s.view x) m n.toNat = true → y.flags.runnable = true) ∧
      ((s.view x).ctl.lmask.getLsbD n.toNat = false → Gives (.landingHeld i) s fun t => RefusedWith s t i l 0x69)) ∧
  (∀ (s : State) i r, s.hub.refusals[i]? = some r → (∀ j q, j < i → s.hub.refusals[j]? = some q → q.l.sender ≠ r.l.sender) →
    (s.strand r.l.sender = none → Gives (.landingRefusalReturn i) s fun t => BytesKept s t ∧
      t.hub.refusals = s.hub.refusals.eraseIdx i ∧ Counts s t r.l.pid .landLost 1) ∧
    ∀ x w rd, Live s r.l.sender x → x.place = .resident → w = Memory.readN s.mem (Memory.privBase r.l.sender) 8 →
      rd = Memory.readN s.mem (Memory.privBase r.l.sender + 8) 8 → Gives (.landingRefusalReturn i) s fun t =>
        t.hub.refusals = s.hub.refusals.eraseIdx i ∧
        ((BitVec.ofNat 64 w - BitVec.ofNat 64 rd).toNat < 16 →
          Memory.readN t.mem (Memory.privBase r.l.sender) 8 = (w + 1) % 2 ^ 64 ∧
          Memory.readN t.mem (Memory.privBase r.l.sender + 0x40 + 320 * (w % 16)) 8 = r.l.addr.toNat ∧
          Memory.readN t.mem (Memory.privBase r.l.sender + 0x40 + 320 * (w % 16) + 16) 1 = r.cause.toNat) ∧
        (¬ (BitVec.ofNat 64 w - BitVec.ofNat 64 rd).toNat < 16 →
          Memory.readN t.mem (Memory.privBase r.l.sender + 0x10) 8 =
            (Memory.readN s.mem (Memory.privBase r.l.sender + 0x10) 8 + 1) % 2 ^ 64) ∧
        StrandMoves s t r.l.sender fun x y =>
          ((BitVec.ofNat 64 w - BitVec.ofNat 64 rd).toNat < 16 → x.ctl.lmode = true → y.pending = x.pending) ∧
          (x.ctl.lmode = false ∨ ¬ (BitVec.ofNat 64 w - BitVec.ofNat 64 rd).toNat < 16 → x.pending.length < 8 →
            FaultDue s x y r.cause r.l.addr)) ∧
  (∀ (s : State) i a e, s.hub.acks[i]? = some a → (s.die a.die).cache = [e] → e.sid = a.sid → Gives (.forwardAck i) s fun t =>
    BytesKept s t ∧ t.hub.acks = s.hub.acks.eraseIdx i ∧
    (e.next = [] ∨ 2 ≤ e.flying → (t.die a.die).cache = [{ e with flying := e.flying - 1 }]) ∧
    ∀ l o n, e.next = l ++ [(o, n)] → e.flying = 1 → (t.die a.die).cache = [{ e with flying := 0, loc := n, next := [] }]) ∧
  (∀ (s : State) i n e, s.hub.notes[i]? = some n →
    (∀ j m, j < i → s.hub.notes[j]? = some m → m.die ≠ n.die ∨ m.sid ≠ n.sid) → (s.die n.die).cache = [e] → e.sid = n.sid →
    Gives (.locationUpdate i) s fun t => BytesKept s t ∧ t.hub.notes = s.hub.notes.eraseIdx i ∧
      (e.flying = 0 → (t.die n.die).cache = [{ e with loc := n.new, next := [] }]) ∧
      (e.flying ≠ 0 → (t.die n.die).cache = [{ e with next := e.next ++ [(n.old, n.new)] }])) ∧
  (∀ (s : State) i m, s.hub.msgs[i]? = some m →
    (∀ j n, j < i → s.hub.msgs[j]? = some n → n.sender ≠ m.sender ∨ n.die ≠ m.die) → Gives (.messageArrival i) s fun t =>
      BytesKept s t ∧ t.hub.msgs = s.hub.msgs.eraseIdx i ∧ (t.die m.die).msgs = (s.die m.die).msgs ++ [m]) ∧
  (∀ (s : State) die m rest core sid, (s.die die).msgs = m :: rest → s.handlerCore die = some core → s.mayAdmit m.pid = true →
    (s.die die).halted = false →
    sid = mkSid (sidGen m.sender) (sidSlot m.sender) 3 ((s.slot (sidSlot m.sender)).counter 3) → s.strand sid = none →
    Gives (.messageDispatch die) s fun t => BytesKept s t ∧ (t.die die).msgs = rest ∧
        (t.core core).urgent = (s.core core).urgent ++ [sid] ∧ Stands t sid fun y => y.cls = .light ∧ y.place = .urgentQ ∧
          y.core = core ∧ y.pc = m.pc ∧ (∀ i (h : i < 7), y.G (BitVec.ofNat 5 (i + 1)) = m.regs[i]) ∧
          y.ext = m.ext ∧ y.ctl.priv = m.priv)

/-- The Creel's events (R155 to R171, R408): dispatch of the head of the lowest eligible bucket, a push that waited, a refill
from a spill ring, snapshots with the pin check, publications, waves, and records from another device. The rings' keys, and
when a wave is whole, are the model's (logs 29, 59). -/
def Obligations.CreelEvents : Prop :=
  (∀ (s : State) p core slot e rest, s.canTask p core = true → (s.die (dieOf core)).halted = false → s.hub.down = false →
    (s.dom p).bound = some slot → (∀ b, ((s.creel (dieOf core) p).ring b).len = 0) → FarOff s p (dieOf core) →
    (s.creel (dieOf core) p).entries = e :: rest → e.bucket ≤ (s.creel (dieOf core) p).base + (s.dom p).cbound.toNat →
    (∀ f ∈ rest, e.bucket < f.bucket ∨ (e.bucket = f.bucket ∧ (e.late = true ∨ f.late = false))) →
    s.strand (nextSid s slot 2) = none → Gives (.creelDispatch p core) s fun t => BytesKept s t ∧
      ∀ sid, sid = nextSid s slot 2 → (t.creel (dieOf core) p).entries = rest ∧
        (t.creel (dieOf core) p).claims = (s.creel (dieOf core) p).claims ++ [⟨sid, e.bucket, (s.dom p).seq⟩] ∧
        Stands t sid fun y => y.cls = .light ∧ y.place = .resident ∧ y.core = core ∧ y.pid = p ∧
          y.pc = e.task.pc ∧ y.G 1 = e.task.g1 ∧ y.G 2 = e.task.g2 ∧ y.G 3 = e.task.g3 ∧
          y.G 4 = e.task.g4 ∧ y.G 5 = e.task.g5 ∧ y.G 6 = e.task.g6 ∧ y.ctl.prio = e.task.prio) ∧
  (∀ (s : State) p die b u, b < 64 → ((s.creel die p).ring b).len ≠ 0 → (∀ c, c < 64 → c ≠ b → ((s.creel die p).ring c).len = 0) →
    (s.creel die p).entries.length < s.creelShare p die →
    u = taskOf (Memory.readN s.mem (s.ringAddr p die b ((s.creel die p).ring b).head) 64) →
    s.effBucket p die u ≤ (s.creel die p).base + (s.dom p).cbound.toNat → FarOff s p die → Gives (.spillRingRefill p die) s fun t => BytesKept s t ∧
      (t.creel die p).entries = (s.creel die p).entries ++
        [⟨s.effBucket p die u, decide (s.absBucket p u < (s.creel die p).base), u⟩] ∧
      (t.creel die p).ring b = { (s.creel die p).ring b with head := ((s.creel die p).ring b).head + 1 }) ∧
  (∀ (s : State) sid x u die n, Live s sid x → x.place = .resident → x.wait = some (.cpush u die n) →
    (∀ y ∈ s.all, ∀ v m, y.wait = some (.cpush v die m) → y.pid = x.pid → n ≤ m) →
    (∀ s', s.placeTask x.pid die u = some s' → Gives (.cpushPlacement sid) s fun t => BytesKept s' t ∧
      t.creel die x.pid = s'.creel die x.pid ∧ StrandMoves s t sid fun x y => GoesOn x y ∧ RegsKept x y) ∧
    (s.placeTask x.pid die u = none → exec (.cpushPlacement sid) s = .next s)) ∧
  (∀ (s : State) p, s.clk.toNat % 64 = 0 → ((s.dom p).pendingPub = false ∨ (s.dom p).snapAt ≠ s.clk.toNat) →
    Gives (.creelSnapshot p) s fun t =>
    (t.dom p).pendingPub = true ∧ (t.dom p).counted = false ∧ (t.dom p).snapAt = s.clk.toNat ∧
    (t.dom p).snapPushed = ((s.domDies p).map fun d => (s.creel d p).pushed).sum ∧
    (t.dom p).snapRetired = ((s.domDies p).map fun d => (s.creel d p).retired).sum ∧
    (t.dom p).snapTraffic = ((s.domDies p).any (fun d => (s.creel d p).traffic) || ((s.dom p).pendingPub && (s.dom p).snapTraffic)) ∧
    (t.dom p).prevTraffic = (if (s.dom p).pendingPub then (s.dom p).prevTraffic else (s.dom p).snapTraffic) ∧
    (∀ d ∈ s.domDies p, (t.creel d p).traffic = false) ∧
    (s.crCinv p = 0 → BytesKept s t ∧ ∀ d ∈ s.domDies p, (t.creel d p).report = s.report p d) ∧
    ∀ sid x j, s.pinnedTask p = some sid → Live s sid x → x.place = .resident → x.pending.length < 8 → s.crCinv p ≠ 0 → 1 ≤ j →
      (s.dom p).pinned = s.crCinv p * j → (s.dom p).pinBase = s.domBase p → StrandMoves s t sid fun x y =>
        FaultDue s x y 0x70 (BitVec.ofNat 64 (s.domBase p))) ∧
  (∀ (s : State) p, s.clk.toNat = (s.dom p).snapAt + 16 → (s.dom p).pendingPub = true → Gives (.creelPublication p) s fun t =>
    (t.dom p).pendingPub = false ∧
    (∀ b, (s.dom p).snapPushed ≠ (s.dom p).snapRetired → s.domBase p < b →
      (∀ d ∈ s.domDies p, ∀ r, (s.creel d p).report = some r → b ≤ r) → (∃ d ∈ s.domDies p, (s.creel d p).report = some b) →
      ∀ d ∈ s.domDies p, (t.creel d p).base = b) ∧
    ((s.dom p).snapPushed = (s.dom p).snapRetired → (s.dom p).counted = false → (t.dom p).bound = none ∧
      ∀ d ∈ s.domDies p, (t.creel d p).base = 0) ∧
    ((s.dom p).counted = true → (t.dom p).bound = (s.dom p).bound) ∧
    ∀ sid x, (s.dom p).snapPushed = (s.dom p).snapRetired → (s.dom p).snapTraffic = false → (s.dom p).prevTraffic = false →
      s.crPdom p = 0 → Live s sid x → x.pid = p → x.wait = some .cwait → (s.all.filter fun y => y.sid == x.sid) = [x] →
      StrandMoves s t sid fun x y => GoesOn x y ∧ RegsKept x y) ∧
  (∀ (s : State) p h e w, s.staleHead h = true →
    (Gives (.creelWave p (.up h e)) s fun t => BytesKept s t ∧ Counts s t p .reflStale 1 ∧ (t.dom p).gather = (s.dom p).gather) ∧
    Gives (.creelWave p (.down h w)) s fun t => BytesKept s t ∧ Counts s t p .reflStale 1 ∧ (t.dom p).wave = (s.dom p).wave) ∧
  (∀ (s : State) p own, s.crPdom p ≠ 0 → s.podEn p (s.crPdom p) = true →
    own = ⟨s.hub.device, (s.dom p).snapPushed - (s.dom p).snapRetired, (s.dom p).quiet, (s.dom p).sent, (s.dom p).accepted⟩ →
    (s.clk.toNat % 4096 = 0 → (s.dom p).waveAt ≠ some s.clk.toNat → Gives (.creelWave p .own) s fun t =>
      WaveGoesUp s t p s.hub.device own ∧ (t.dom p).waveAt = some s.clk.toNat) ∧
    ((s.clk.toNat % 4096 ≠ 0 ∨ (s.dom p).waveAt = some s.clk.toNat) → exec (.creelWave p .own) s = .next s) ∧
    (∀ h e, s.staleHead h = false → h.src ∈ s.podKids p (s.crPdom p) → h.src ≠ s.hub.device →
      Gives (.creelWave p (.up h e)) s fun t => WaveGoesUp s t p h.src e) ∧
    (s.podRoot p (s.crPdom p) = true →
      (∀ d ∈ s.hub.device :: s.podKids p (s.crPdom p), ∃ e ∈ (s.dom p).gather, e.device = d) →
      Gives (.creelWave p .send) s fun t => WaveTaken s t p (s.dom p).gather ∧ (t.dom p).gather = []) ∧
    (∀ h w, s.podRoot p (s.crPdom p) = false → h.src = s.podParent p (s.crPdom p) → s.staleHead h = false →
      Gives (.creelWave p (.down h w)) s fun t => WaveTaken s t p w)) ∧
  (∀ (s : State) p rx slot src n, Assoc.get (s.part p).creelBytes (slotKey rx slot) = some (BitVec.allOnes 64, src) →
    s.domDies p ≠ [] → n = Memory.readN s.mem (s.rxBase p rx + 64 * slot) 64 →
    ((n / 2 ^ 480 ≠ 0 ∨ n % 4 ≠ 0) → Gives (.creelIntakeRecord p rx slot) s fun t => BytesKept s t ∧ Counts s t p .creelBad 1 ∧
      (∃ die ∈ s.domDies p, (t.creel die p).traffic = true) ∧ Assoc.get (t.part p).creelBytes (slotKey rx slot) = none) ∧
    (n / 2 ^ 480 = 0 → n % 4 = 0 → (∀ y ∈ s.all, ∀ r d m, y.wait ≠ some (.cpush r d m)) →
      (∀ die ∈ s.domDies p, (s.takeFree.placeTask p die (taskOf n)).isSome = true) →
      Gives (.creelIntakeRecord p rx slot) s fun t => Counts s t p .creelIn 1 ∧ (t.dom p).accepted = (s.dom p).accepted + 1 ∧
        Assoc.get (t.part p).creelBytes (slotKey rx slot) = none ∧
        ∃ die ∈ s.domDies p, (t.creel die p).pushed = (s.creel die p).pushed + 1))

/-- Events of the paths between dies, of pages, of revocation and of errors in memory (R205, R208 to R211, R225, R334, R395,
R366, R405). How the hub knows a page, what the recopy of a moved page meets, what a revocation cuts at once, and what an error
leaves in a register are the model's (logs 26, 34, 35, 57, 58). -/
def Obligations.PathAndPageEvents : Prop :=
  (∀ (s : State) src dst w rest, (s.path src dst).writes = w :: rest → s.freed w.line = false → s.retrains src = false →
    s.retrains dst = false → Gives (if w.strong then .forwardedAccess src dst else .drainedLineArrival src dst) s fun t =>
      (t.path src dst).writes = rest ∧ (t.path src dst).accepted = (s.path src dst).accepted ∧
      (∀ i, i < 64 → Memory.read t.mem (w.line + i) =
        if w.mask.getLsbD i then w.data.extractLsb' (8 * i) 8 else Memory.read s.mem (w.line + i)) ∧
      ∀ a, a < w.line ∨ w.line + 64 ≤ a → Memory.read t.mem a = Memory.read s.mem a) ∧
  (∀ (s : State) src dst w rest, (s.path src dst).writes = w :: rest →
    exec (if w.strong then .drainedLineArrival src dst else .forwardedAccess src dst) s = .next s ∧
    (s.retrains src = true ∨ s.retrains dst = true →
      exec (if w.strong then .forwardedAccess src dst else .drainedLineArrival src dst) s = .next s)) ∧
  (∀ s : State, s.clk.toNat % 2 ^ 20 = 0 → (s.hub.pageCnt.map (·.1)).Nodup → Gives .counterHalving s fun t => BytesKept s t ∧
    (∀ k, Assoc.getD t.hub.pageCnt k 0 = Assoc.getD s.hub.pageCnt k 0 / 2) ∧
    ∀ page n p i d, Assoc.get s.hub.pages page = some ⟨n, p⟩ → n ≠ 2 ^ 31 → s.enabled p = true → s.mpolEn p = true →
      (Assoc.get s.hub.pageCnt (16 * page + i)).isSome = true → i < 16 →
      s.moveTarget p page = some d → (∀ m ∈ s.hub.migs, m.page ≠ page * 65536) →
      ∃ m ∈ t.hub.migs, m.page = page * 65536 ∧ m.lines = n / 64 ∧ m.src = s.ownerDie (page * 65536) ∧ m.dst = d ∧ m.copied = 0 ∧
        m.pid = p) ∧
  (∀ (s : State) m, s.hub.migs = [m] →
    (m.switched = false → m.copied < m.lines →
      (Gives (.migrationCopy .copied) s fun t => BytesKept s t ∧ t.hub.migs = [{ m with copied := m.copied + 1 }]) ∧
      (Gives (.migrationCopy .fault) s fun t => BytesKept s t ∧ t.hub.migs = [] ∧ t.hub.owners = s.hub.owners ∧
        t.poison = s.poison ∧ Counts s t m.pid .migAbandon 1) ∧
      (Gives (.migrationCopy .unreadable) s fun t => BytesKept s t ∧ t.hub.migs = [] ∧ t.hub.owners = s.hub.owners ∧
        t.poisoned (m.page + 64 * m.copied) = true ∧ Counts s t m.pid .migAbandon 1 ∧
        (t.die m.src).bbox.getLast? = some (bboxRecord 3 m.src 0 s.clk))) ∧
    (m.switched = false → m.lines ≤ m.copied → m.page < 2 ^ 39 →
      (Gives .migrationSwitch s fun t => (∀ d, d < 16 → (t.path d m.src).writes = []) ∧
        ((t.ownerDie m.page = m.dst ∧ t.hub.migs = [{ m with switched := true, recopy := [] }]) ∨
          (t.hub.owners = s.hub.owners ∧ t.hub.migs = [] ∧ Counts s t m.pid .migAbandon 1))) ∧
      (m.recopy = [] → (∀ d, d < 16 → (s.path d m.src).writes = []) → Gives .migrationSwitch s fun t => BytesKept s t ∧
        t.poison = s.poison ∧ t.ownerDie m.page = m.dst ∧ t.hub.migs = [{ m with switched := true, recopy := [] }])) ∧
    (m.switched = true → Gives .migrationRedirectEnd s fun t => BytesKept s t ∧ t.hub.migs = [] ∧ t.hub.owners = s.hub.owners ∧
      ∀ d, d < 16 → ∀ o, m.page ≤ o.1 * 65536 → o.1 * 65536 < m.page + 64 * m.lines →
        (o ∈ (t.die d).owners ↔ o ∈ s.hub.owners))) ∧
  (∀ (s : State) p base len, len ≠ 0 → Gives (.hostRevocation p base len) s fun t =>
    t.hub.revokes = s.hub.revokes ++ [{ pid := p, base := base, len := len.toNat }] ∧
    (∀ sid x, Live s sid x → x.pid = p → (x.place = .resident ∨
        ((s.all.filter fun y => y.pid == p) = [x] ∧ ∀ src dst, (s.path src dst).writes = [])) →
          StrandMoves s t sid fun _ y => ∀ i (h : i < 16) j, (y.ext[i]).getLsbD j =
      (((s.view x).ext[i]).getLsbD j || (j == 78 && Extent.overlaps (s.view x).ext[i] (base.toNat % 2 ^ 56) len.toNat))) ∧
    (∀ n, (s.slot n).used = true → (s.slot n).pid = p → (t.slot n).ext = (s.slot n).ext.map (Extent.revoke (base.toNat % 2 ^ 56) len.toNat)) ∧
    (∀ n ∈ t.hub.nodes, n.pid = p → (base, len.toNat) ∈ n.cuts) ∧
    (∀ core (i : Nat) (l : SbLine), (s.core core).sbuf[i]? = some l → l.pid = p → ∃ d : BitVec 64, (t.core core).sbuf[i]? = some { l with dead := d } ∧
      ∀ j, j < 64 → (d.getLsbD j = true ↔ l.dead.getLsbD j = true ∨
        ∃ a ∈ l.vas, base.toNat % 2 ^ 56 ≤ a + j ∧ a + j < base.toNat % 2 ^ 56 + len.toNat)) ∧
    ∀ q, ∀ e ∈ (t.quad q).copyQ ++ (t.quad q).mat0 ++ (t.quad q).mat1, e.pid = p → (base, len.toNat) ∈ e.cuts) ∧
  (∀ (s : State) i, Gives (.revocationComplete i) s fun t => BytesKept s t ∧ t.hub.revokes = s.hub.revokes.eraseIdx i) ∧
  (∀ (s : State) line, (Memory.line line < 2 ^ 39 ∨
      (2 ^ 66 ≤ Memory.line line ∧ ∃ x, s.strand ((Memory.line line - 2 ^ 66) / 2 ^ 18) = some x)) →
    (Gives (.patrolScrub line .uncorrectable) s fun t => Spoiled s t (Memory.line line)) ∧
    (Gives (.eccError (.memory line)) s fun t => Spoiled s t (Memory.line line)) ∧ exec (.patrolScrub line .clean) s = .next s ∧
    ∀ p, s.anyPart = some p → Gives (.patrolScrub line .corrected) s fun t => BytesKept s t ∧ Counts s t p .memCorr 1) ∧
  ∀ s : State,
    (∀ core line, core < 16384 → line < 2048 → Gives (.eccError (.scratch core line)) s fun t => BytesKept s t ∧
      t.poisoned (Memory.scratchBase core + 64 * line) = true ∧ (t.die (dieOf core)).bbox.getLast? = some (bboxRecord 3 (dieOf core) 0 s.clk)) ∧
    (∀ core n, core < 16384 → n < 64 → Gives (.eccError (.tile core n)) s fun t => BytesKept s t ∧ n ∈ (t.core core).badTiles ∧
      (t.die (dieOf core)).bbox.getLast? = some (bboxRecord 3 (dieOf core) 0 s.clk)) ∧
    (∀ p, p < 20 → Gives (.eccError (.corrected p)) s fun t => BytesKept s t ∧ Counts s t p .memCorr 1) ∧
    ∀ sid x n, Live s sid x → x.place = .resident → n < 32 → x.names (.g n) = true → x.pending.length < 8 →
      Gives (.eccError (.register sid 0 n)) s fun t => BytesKept s t ∧
        (t.die (dieOf x.core)).bbox.getLast? = some (bboxRecord 3 (dieOf x.core) sid s.clk) ∧ StrandMoves s t sid fun x y =>
        FaultDue s x y 0xB0 (BitVec.ofNat 64 n) ∧ y.pc = x.pc ∧ y.v = x.v ∧
        ∀ m, m ≠ BitVec.ofNat 5 n → y.G m = x.G m

/-- Events of the fabric (R170, R254, R367 to R382): copies and flags that arrive, from this device and from a peer,
acknowledgments, the route table, incarnations, pod barriers. Peers not known, contexts and routes kept are the model's
readings (logs 33, 44, 47). -/
def Obligations.FabricEvents : Prop :=
  (∀ (s : State) p port, p < 20 → port < 24 → Gives (.linkReplay p port) s fun t => BytesKept s t ∧ Counts s t p .linkReplay 1) ∧
  (∀ (s : State) flag, s.hub.down = false →
    (∀ f, s.stale f = true → Gives (if flag then .flagIncrement (.peer f) else .reflectedCopyArrival (.peer f)) s fun t =>
      BytesKept s t ∧ Counts s t f.pid .reflStale 1) ∧
    (∀ f, s.stale f = false → (Assoc.getD s.hub.routes f.src 0).getLsbD 15 = true →
      Gives (if flag then .flagIncrement (.peer f) else .reflectedCopyArrival (.peer f)) s fun t =>
        Received s t flag f.pid f.rx f.off f.bytes f.pod ∧ t.hub.control = s.hub.control ++
          [⟨f.pid, ⟨s.hub.device, s.hub.inc, Assoc.getD s.hub.peers f.src 0⟩, f.src, .ack f.rx f.off⟩]) ∧
    ∀ i c, CopyAt s i c → c.dev = s.hub.device → c.flag = flag → c.shown = false →
      Gives (if flag then .flagIncrement (.own i) else .reflectedCopyArrival (.own i)) s fun t =>
        Received s t flag c.pid c.rx c.off c.bytes c.win.isNone ∧ t.hub.copies[i]? = some { c with shown := true }) ∧
  (∀ (s : State) p h i, s.staleHead h = true → Gives (.reflectionAck ⟨p, h, i⟩) s fun t => BytesKept s t ∧
    t.hub.copies = s.hub.copies ∧ Counts s t p .reflStale 1) ∧
  (∀ (s : State) p i c h, CopyAt s i c → s.staleHead h = false → h.src = c.dev → (c.dev ≠ s.hub.device ∨ c.shown = true) →
    Gives (.reflectionAck ⟨p, h, i⟩) s fun t => BytesKept s t ∧ t.hub.copies = s.hub.copies.eraseIdx i) ∧
  (∀ (s : State) dev entry, dev < 4096 → Gives (.routeTableWrite dev entry) s fun t => BytesKept s t ∧
    ∀ d, Assoc.getD t.hub.routes d 0 = if d = dev then entry &&& 0x831F else Assoc.getD s.hub.routes d 0) ∧
  (∀ (s : State) peer inc, peer < 4096 → peer ≠ s.hub.device → Assoc.get s.hub.peers peer ≠ some inc →
    Gives (.incarnationAnnounce peer inc) s fun t => BytesKept s t ∧ Assoc.get t.hub.peers peer = some inc ∧
      t.hub.copies = s.hub.copies.filter (·.dev != peer) ∧ t.hub.bbox.getLast? = some (bboxRecord 6 inc.toNat 0 s.clk) ∧
      ∀ p w j, p < 20 → w < 256 → j < s.txDests p w → (s.txDest p w j).1 = peer → t.txDown p w = true) ∧
  (∀ (s : State) ctx p h r v, p = ctx / 16 → s.staleHead h = true →
    (Gives (.podBarrierReport ctx (some (h, r))) s fun t => BytesKept s t ∧ t.pod ctx = s.pod ctx ∧ Counts s t p .reflStale 1) ∧
    Gives (.podBarrierRelease ctx ⟨h, v⟩) s fun t => BytesKept s t ∧ t.pod ctx = s.pod ctx ∧ Counts s t p .reflStale 1) ∧
  (∀ (s : State) ctx p c, p = ctx / 16 → c = ctx % 16 → s.podEn p c = true →
    (∀ (h : FlitHead) (r : PodReport), s.staleHead h = false → h.src ∈ s.podKids p c →
      ((s.pod ctx).ep.n = 0 ∨ ((s.pod ctx).ep.n = r.n ∧ (s.pod ctx).ep.isMax = r.isMax)) →
      (s.podRoot p c = false ∨ (s.pod ctx).counted + r.arrivals ≠ r.n → Gives (.podBarrierReport ctx (some (h, r))) s fun t =>
        BytesKept s t ∧ (t.pod ctx).counted = (s.pod ctx).counted + r.arrivals ∧ (t.pod ctx).ep.n = r.n ∧ (t.pod ctx).ep.isMax = r.isMax ∧
        (t.pod ctx).ep.mag.toNat = max (s.pod ctx).ep.mag.toNat r.mag.toNat ∧ (t.pod ctx).ep.sids = (s.pod ctx).ep.sids) ∧
      (s.podRoot p c = true → (s.pod ctx).counted + r.arrivals = r.n → Gives (.podBarrierReport ctx (some (h, r))) s fun t =>
        t.pod ctx = { last := (s.pod ctx).last } ∧
          ∀ v : BitVec 32, v.toNat = max (s.pod ctx).ep.mag.toNat r.mag.toNat → Released s t ctx v)) ∧
    (∀ (h : FlitHead) (r : PodReport), s.staleHead h = false → h.src ∈ s.podKids p c → (s.pod ctx).ep.n ≠ 0 →
      ((s.pod ctx).ep.n ≠ r.n ∨ (s.pod ctx).ep.isMax ≠ r.isMax) →
      s.podRoot p c = true → Gives (.podBarrierReport ctx (some (h, r))) s fun t => BytesKept s t ∧
        t.pod ctx = s.pod ctx ∧ Counts s t p .podBad 1) ∧
    (s.podRoot p c = false →
      ((s.pod ctx).counted ≠ (s.pod ctx).sent → (∀ k, (s.pod ctx).last = some k → k + 64 ≤ s.clk.toNat) →
        Gives (.podBarrierReport ctx none) s fun t => BytesKept s t ∧
          t.pod ctx = { s.pod ctx with sent := (s.pod ctx).counted, last := some s.clk.toNat } ∧
          ((Assoc.getD s.hub.routes (s.podParent p c) 0).getLsbD 15 = true → t.hub.control = s.hub.control ++
            [⟨p, ⟨s.hub.device, s.hub.inc, Assoc.getD s.hub.peers (s.podParent p c) 0⟩, s.podParent p c,
              .report c ⟨(s.pod ctx).counted - (s.pod ctx).sent, (s.pod ctx).ep.n, (s.pod ctx).ep.isMax, (s.pod ctx).ep.mag⟩⟩])) ∧
      ∀ (h : FlitHead) v, s.staleHead h = false → h.src = s.podParent p c → (s.pod ctx).ep.n ≠ 0 →
        Gives (.podBarrierRelease ctx ⟨h, v⟩) s fun t =>
          (t.pod ctx).ep.n = 0 ∧ (t.pod ctx).ep.sids = [] ∧ Released s t ctx v ∧
          ((∀ d ∈ s.podKids p c, (Assoc.getD s.hub.routes d 0).getLsbD 15 = true) →
            t.hub.control = s.hub.control ++ (s.podKids p c).map fun d =>
              ⟨p, ⟨s.hub.device, s.hub.inc, Assoc.getD s.hub.peers d 0⟩, d, .release c v⟩)))

/-- Events of the management side (R264, R265, R336, R345, R358, R364 to R366, R400, R406): a die halts and goes on, bight
stops and starts strands, the operating point and the link width change, and a package that grows too hot shuts down. When a
halt extends promises, and in what order changes that are pending follow, are the model's (logs 36, 46). -/
def Obligations.ManagementEvents : Prop :=
  (∀ (s : State) die, die < 16 →
    ((s.die die).halted = false → Gives (.dieHalt die) s fun t => BytesKept s t ∧ (t.die die).halted = true ∧ (t.die die).haltedAt = s.clk.toNat ∧
      t.quads = s.quads ∧ t.cores = s.cores ∧ ∀ sid x, Live s sid x →
        (dieOf x.core = die → x.place = .resident ∨ x.place = .shadow → StrandMoves s t sid Stopped ∧
          ((∃ w, x.wait = some w ∧ LeftUndone w) → Unwatched t sid)) ∧
        ((∀ y ∈ s.all, y.sid = x.sid → dieOf y.core ≠ die) → StrandMoves s t sid fun x y => y = x)) ∧
    ((s.die die).halted = true → (∀ c ∈ s.cores, ∀ e ∈ c.2.bookQ, ∀ b, e.work = .booking b → b.cancel = false) →
      Gives (.dieHaltRelease die) s fun t => BytesKept s t ∧ (t.die die).halted = false ∧ AwaitsOn s t ∧
        Moved s t (s.clk.toNat - (s.die die).haltedAt) fun q half r => s.serviceDie q half r.ticket = die) ∧
    ((s.die die).power.point = none → (∀ point, Gives (.operatingPointChange die point) s fun t => BytesKept s t ∧
        (t.die die).power.point = some point ∧ (t.die die).power.stage = (if (s.die die).power.stage = 0 then 1 else (s.die die).power.stage) ∧
        (t.die die).point = (s.die die).point) ∧
      ((s.die die).power.points = [] →
        ((s.die die).point ≠ 3 → Gives (.thermalStep die) s fun t => BytesKept s t ∧
          (t.die die).power.point = some ((s.die die).point + 1) ∧ t.hub.bbox.getLast? = some (bboxRecord 5 die 0 s.clk)) ∧
        ((s.die die).point ≠ 0 → Gives (.thermalRecovery die) s fun t => BytesKept s t ∧
          (t.die die).power.point = some ((s.die die).point - 1)))) ∧
    (∀ n, (s.die die).power.point = some n →
      (∀ point, Gives (.operatingPointChange die point) s fun t => BytesKept s t ∧ (t.die die).power.point = some n ∧
        (t.die die).power.points = (s.die die).power.points ++ [point]) ∧
      ∀ last, last = ((s.die die).power.points.getLast?).getD n → last ≠ 3 → Gives (.thermalStep die) s fun t => BytesKept s t ∧
        (t.die die).power.points = (s.die die).power.points ++ [last + 1] ∧
        t.hub.bbox.getLast? = some (bboxRecord 5 die 0 s.clk)) ∧
    (∀ width, width ≠ 3 → (s.die die).power.width = none → Gives (.linkWidthChange die width) s fun t => BytesKept s t ∧
      (t.die die).power.width = some width ∧ (t.die die).power.stage = (if (s.die die).power.stage = 0 then 2 else (s.die die).power.stage)) ∧
    (∀ width, width ≠ 3 → (s.die die).power.width.isSome = true → Gives (.linkWidthChange die width) s fun t => BytesKept s t ∧
      (t.die die).power.widths = (s.die die).power.widths ++ [width]) ∧
    (∀ width, (s.die die).power.stage = 2 → (s.die die).power.width = some width → (s.die die).power.widths = [] →
      (s.die die).power.points = [] → Gives (.linkRetrainComplete die) s fun t => BytesKept s t ∧
      (t.die die).width = width ∧ (t.die die).power.width = none ∧ (t.die die).point = (s.die die).point ∧
      (t.die die).power.stage = if (s.die die).power.point.isSome then 1 else 0) ∧
    (∀ point next rest, (s.die die).power.stage = 1 → s.drained die = true → (s.die die).power.point = some point →
      (s.die die).power.width = none → (s.die die).power.widths = [] → (s.die die).power.points = next :: rest →
      Gives (.linkRetrainComplete die) s fun t => BytesKept s t ∧ (t.die die).point = point ∧
        (t.die die).power = { stage := 1, point := some next, points := rest }) ∧
    (∀ point, (s.die die).power.stage = 1 → s.drained die = true → (s.die die).power.point = some point →
      (s.die die).power.widths = [] → (s.die die).power.points = [] → Gives (.linkRetrainComplete die) s fun t => BytesKept s t ∧ (t.die die).point = point ∧ (t.die die).power = {} ∧
        (t.die die).bbox.getLast? = some (bboxRecord 4 point.toNat 0 s.clk)) ∧
    ((s.die die).power.stage = 1 → s.drained die = false → exec (.linkRetrainComplete die) s = .next s)) ∧
  (∀ (s : State) sid x, Live s sid x →
    (x.place = .resident → Gives (.bightPreempt sid) s fun t => BytesKept s t ∧
      (StrandMoves s t sid fun x y => y = { x with flags := { x.flags with preempt := true, bight := true } }) ∧
      ∀ n z, Live s n z → s.gangBusy x = true → z ∈ s.gangMembers x → Stands t n fun y => y.flags.preempt = true) ∧
    (x.place = .saved ∨ x.place = .cut → Gives (.bightPreempt sid) s fun t => StrandMoves s t sid fun x y =>
      y.flags.stop = true ∧ y.flags.bight = true ∧ y.place = x.place) ∧
    (x.place = .saved → (s.view x).flags.parked = false → Gives (.bightResume sid) s fun t => StrandMoves s t sid fun _ y =>
      y.place = .toPlace ∧ y.flags.stop = false ∧ y.flags.bight = false ∧ y.flags.runnable = false) ∧
    (x.flags.held.isSome = true → x.wait = none → (s.all.filter fun y => y.sid == x.sid) = [x] → ∀ step : Bool,
      Gives (if step then .singleStep sid else .bightContinue sid) s fun t => BytesKept s t ∧ AwaitsOn s t ∧
        Moved s t (s.clk.toNat - x.flags.heldAt) (fun _ _ r => sid ∈ r.owners) ∧
        StrandMoves s t sid fun x y => y = { x with flags := { x.flags with held := none, passBp := true, stepping := step } })) ∧
  ∀ s : State,
    (Gives .thermalShutdown s fun t => BytesKept s t ∧ t.hub.down = true ∧ t.dies = s.dies) ∧
    ∀ core, Gives (.delayTableClear core) s fun t => BytesKept s t ∧ (t.core core).delay = []

/-- Events of the host side (R371, R379, R387 to R389, R396 to R399, R401, R402, R404): configuration, hardware queues,
counters, trace, checkpoints, resets. The places of counters, the counts of hardware queues, the checkpoint's order, what
resets keep, the black box and the state codes are the model's (logs 7, 21 to 25). -/
def Obligations.HostEvents : Prop :=
  (∀ (s : State) p, p < 20 → s.hub.booted = true → s.hub.down = false →
    (∀ v : Word, (v.getLsbD 63 = true → s.enabled p = false → (∀ q ∈ s.others p, s.cfg q 0x08 &&& s.cfg p 0x08 = 0) ∧
        (s.cfg p 0x58).getLsbD 63 = true ∧ ∀ q ∈ s.others p, s.cfg q 0x58 ≠ s.cfg p 0x58) →
      (v.getLsbD 63 = false → s.enabled p = true → ∀ x ∈ s.all, x.pid ≠ p) → Gives (.pctlWrite p v) s fun t => BytesKept s t ∧
        t.cfg p 0 = v &&& 0x800001FF00000000 ∧ ∀ off, off ≠ 0 → t.cfg p off = s.cfg p off) ∧
    (∀ v : Word, v.getLsbD 63 = false → s.enabled p = true → (∃ x ∈ s.all, x.pid = p) → Gives (.pctlWrite p v) s fun t => BytesKept s t ∧
      (∀ off, t.cfg p off = s.cfg p off) ∧ Counts s t p .cfgDeny 1) ∧
    (∀ off v, off % 8 = 0 → (off ∈ [0x30, 0x38, 0x40, 0x48, 0x50] ∨ (0x100 ≤ off ∧ off < 0xD80) ∨ (0x9000 ≤ off ∧ off < 0xB400)) →
      Gives (.partitionConfigWrite p off v) s fun t => BytesKept s t ∧ CfgSet s t p off (v &&& keptBits off)) ∧
    (∀ off v x refused, (off = 0x08 ∧ x = v ∧ (refused ↔ s.enabled p = true)) ∨ (off = 0x10 ∧ x = v ∧ (refused ↔ s.enabled p = true)) ∨
        (off = 0x58 ∧ x = v &&& 0x80000007F8000000 ∧ (refused ↔ s.enabled p = true)) ∨
        (off = 0x18 ∧ x = v ∧ (refused ↔ s.enabled p = true ∧ ∃ d, d < 16 ∧
          16 < v.toNat / 2 ^ (4 * d) % 16 + ((s.others p).map fun q => s.creelShare q d / 256).sum)) ∨
        (off = 0x20 ∧ x = v &&& 0xFFFF ∧ (refused ↔ ∃ q ∈ s.others p, s.cfg q 0x20 &&& x ≠ 0)) ∨
        (off = 0x28 ∧ x = v ∧ (refused ↔ ∃ q ∈ s.others p, s.cfg q 0x28 &&& x ≠ 0)) →
      (¬ refused → Gives (.partitionConfigWrite p off v) s fun t => BytesKept s t ∧ CfgSet s t p off x) ∧
      (refused → Gives (.partitionConfigWrite p off v) s fun t => BytesKept s t ∧ (∀ o, t.cfg p o = s.cfg p o) ∧
        Counts s t p .cfgDeny 1)) ∧
    (∀ off v, (0x60 ≤ off ∧ off < 0x100) ∨ (0xD80 ≤ off ∧ off < 0x1000) ∨ (0xB400 ≤ off ∧ off < 0xC000) →
      exec (.partitionConfigWrite p off v) s = .next s) ∧
    (∀ index d rest, index < 256 → rest.length = 15 → Gives (.transmitEntryWrite p index (d :: rest)) s fun t => BytesKept s t ∧
      (∀ i (h : i < rest.length), t.txDword p index (i + 1) = rest[i]) ∧
      (d.getLsbD 63 = false ∨ txEntryOk s.hub.device (fun j => if j = 0 then (d &&& ~~~(1#64 <<< 60)).toNat else (rest.getD (j - 1) 0).toNat) = true →
        t.txDword p index 0 = d &&& ~~~(1#64 <<< 60)) ∧
      (d.getLsbD 63 = true → txEntryOk s.hub.device (fun j => if j = 0 then (d &&& ~~~(1#64 <<< 60)).toNat else (rest.getD (j - 1) 0).toNat) = false →
        t.txEn p index = false ∧ Counts s t p .cfgDeny 1)) ∧
    (∀ q v, q < 64 → s.hwqControl p q % 64 = 0 → s.hwqControl p q < 2 ^ 39 → Gives (.hwqDoorbell p q v) s fun t =>
      t.cfg p (0xC200 + 8 * q) = v ∧ (q < 32 → BytesKept s t) ∧
      (32 ≤ q → Wrote s t (s.hwqControl p q + 8) 8 v.toNat)) ∧
    (∀ n, n < 36 → Gives (.counterClear p n) s fun t => BytesKept s t ∧
      (∀ m, Assoc.getD (t.part p).counters m 0 = if m = n then 0 else Assoc.getD (s.part p).counters m 0) ∧
      (∀ d m, Assoc.getD (t.creel d p).bank m 0 = if m = n then 0 else Assoc.getD (s.creel d p).bank m 0) ∧
      ∀ q m, Assoc.getD (t.quad q).bank0 m 0 =
          (if m = n ∧ s.inBands p (4 * q) = true then 0 else Assoc.getD (s.quad q).bank0 m 0) ∧
        Assoc.getD (t.quad q).bank1 m 0 = if m = n ∧ s.inBands p (4 * q) = true then 0 else Assoc.getD (s.quad q).bank1 m 0)) ∧
  (∀ (s : State) p q prod cons size die host dd, p < 20 → q < 64 → s.hub.down = false → s.hwqDword p q 0 / 2 ^ 63 = 1 → size = s.hwqSize p q →
    die = s.hwqDword p q 0 % 2 ^ 56 → host = s.hwqDword p q 2 % 2 ^ 56 → dd = s.hwqDword p q 3 / 2 ^ 16 % 2 ^ 40 * 2 ^ 16 →
    die % 64 = 0 → die + 64 * size ≤ 2 ^ 39 → host % 64 = 0 → 2 ^ 55 ≤ host → host + 64 * size ≤ dd → cons = s.hwqCons p q →
    (32 ≤ q → prod = s.hwqProd p q →
      ∀ a b, b = min prod (cons + size) → a = (if cons ≤ s.hwqTold p q ∧ s.hwqTold p q ≤ b then s.hwqTold p q else cons) →
        (a < b → Gives (.hwqOutboundTransfer p q) s fun t =>
          (∀ j i, a ≤ j → j < b → i < 64 → Memory.read t.mem (host + 64 * (j % size) + i) = Memory.read s.mem (die + 64 * (j % size) + i)) ∧
          Memory.readN t.mem dd 8 = b ∧ t.hwqTold p q = b ∧
          t.hub.irqs = s.hub.irqs ++ (if s.hwqDword p q 3 / 2 ^ 63 = 1 then [⟨s.hwqDword p q 3 % 2 ^ 11⟩] else [])) ∧
        (b ≤ a → exec (.hwqOutboundTransfer p q) s = .next s)) ∧
    (q < 32 → prod = (s.cfg p (0xC200 + 8 * q)).toNat → s.hwqControl p q % 64 = 0 → s.hwqControl p q < 2 ^ 39 →
      (s.hwqControl p q + 64 ≤ die ∨ die + 64 * size ≤ s.hwqControl p q) →
      ∀ a b, b = min prod (cons + size) → a = (if cons ≤ s.hwqProd p q ∧ s.hwqProd p q ≤ b then s.hwqProd p q else cons) →
        (a < b → cons = s.hwqTold p q → Gives (.hwqInboundTransfer p q) s fun t =>
          (∀ j i, a ≤ j → j < b → i < 64 → Memory.read t.mem (die + 64 * (j % size) + i) = Memory.read s.mem (host + 64 * (j % size) + i)) ∧
          t.hwqProd p q = b ∧ t.hwqCons p q = cons ∧ t.hub.irqs = s.hub.irqs) ∧
        (b ≤ a → cons ≠ s.hwqTold p q → Gives (.hwqInboundTransfer p q) s fun t => Wrote s t dd 8 cons ∧ t.hwqTold p q = cons ∧
          t.hub.irqs = s.hub.irqs ++ (if s.hwqDword p q 3 / 2 ^ 63 = 1 then [⟨s.hwqDword p q 3 % 2 ^ 11⟩] else [])))) ∧
  (∀ (s : State) sid x core base n, Live s sid x → x.core = core → (x.place = .resident ∨ x.place = .shadow) →
    (s.cfg x.pid 0x48).getLsbD 63 = true → base = (s.cfg x.pid 0x50).toNat % 2 ^ 39 / 2 ^ 20 * 2 ^ 20 →
    n = Memory.readN s.mem (base + 0xFFFF8) 8 →
    (s.sampleTurn core x.pid ≠ some sid ∨ s.sampleDue core x.pid = false → exec (.traceSample core sid) s = .next s) ∧
    (s.sampleTurn core x.pid = some sid → s.sampleDue core x.pid = true → Gives (.traceSample core sid) s fun t =>
      Memory.readN t.mem (base + 32 * (n % 32767)) 8 = s.clk.toNat ∧ Memory.readN t.mem (base + 32 * (n % 32767) + 8) 8 = sid ∧
      Memory.readN t.mem (base + 32 * (n % 32767) + 16) 8 = x.pc.toNat ∧ Memory.readN t.mem (base + 32 * (n % 32767) + 25) 7 = 0 ∧
      (s.active x = true →
        (x.wait = none → Memory.readN t.mem (base + 32 * (n % 32767) + 24) 1 = if s.interlocked then 1 else 0) ∧
        (∀ m, x.wait = some (.accRd m) → Memory.readN t.mem (base + 32 * (n % 32767) + 24) 1 = 1) ∧
        (∀ m, x.wait = some (.waitL m) → Memory.readN t.mem (base + 32 * (n % 32767) + 24) 1 = 2)) ∧
      Memory.readN t.mem (base + 0xFFFF8) 8 = (n + 1) % 2 ^ 64 ∧
      Assoc.get (t.core core).traced x.pid = some (s.clk.toNat, sid))) ∧
  (∀ (s : State) (w : Word), s.hub.ckpt = none → s.hub.booted = true → s.hub.down = false → w.getLsbD 55 = true → Gives (.checkpointStart w) s fun t =>
    BytesKept s t ∧ t.hub.ckpt = some w) ∧
  (∀ (s : State) (w : Word), s.hub.ckpt = some w → s.hub.down = false → (∀ l ∈ s.poison, l % 64 = 0) →
    Gives .checkpointComplete s fun t => t.hub.ckpt = none ∧ t.hub.irqs = s.hub.irqs ++ [⟨0⟩] ∧
      (s.hub.owners = [] → ∀ i, i < 2 ^ 39 → Memory.read t.mem (w.toNat % 2 ^ 56 + i) =
        if s.poisoned (Memory.line i) then 0xFF else Memory.read s.mem i) ∧
      ∀ k a, s.hub.owners = [(k, a)] → 65536 * k + a.size ≤ 2 ^ 39 → a.addr + a.size ≤ 2 ^ 39 → a.addr % 64 = 0 →
        (∀ l ∈ s.poison, l < 2 ^ 39 → (65536 * k ≤ l ∧ l < 65536 * k + a.size) ∨ l + 64 ≤ a.addr ∨ a.addr + a.size ≤ l) →
        ∀ i, i < a.size → Memory.read t.mem (w.toNat % 2 ^ 56 + a.addr + i) =
          if s.poisoned (Memory.line (65536 * k + i)) then 0xFF else Memory.read s.mem (65536 * k + i)) ∧
  (∀ (s : State) a, exec (.hostAtomicOp a) s = .next s) ∧
  (∀ (s : State) port up rate width, (h : port < 2) → Gives (.hostPortTraining port up rate width) s fun t => BytesKept s t ∧
    t.hub.ports[port] = { up := up, rate := rate, width := width }) ∧
  (∀ (s : State) (image : BootImage),
    (Gives (.resetCold image) s fun t => t.st = {} ∧ t.strands = [] ∧ t.cores = [] ∧ t.quads = [] ∧ t.locks = [] ∧ t.clk = 0 ∧
      t.hub.parts = [] ∧ t.hub.nodes = [] ∧ t.hub.booted = image.valid ∧
      (image.valid = true → t.hub.inc = (if image.incarnation = 0xFFFF then 1 else image.incarnation + 1) ∧
        t.hub.control = [⟨0, ⟨s.hub.device, t.hub.inc, 0⟩, s.hub.device, .announce t.hub.inc⟩] ∧ t.hub.firmware = image.firmware ∧
        (partOk image.handlerPart.toNat = true → t.hub.handlerPart = image.handlerPart)) ∧
      ∀ a, Memory.read t.mem a = if 2 ^ 55 ≤ a ∧ a < 2 ^ 56 then Memory.read s.mem a else 0) ∧
    (Gives (.resetWarm image) s fun t => t.st = {} ∧ t.strands = [] ∧ t.cores = [] ∧ t.quads = [] ∧ t.clk = 0 ∧ t.hub.parts = [] ∧
      t.hub.nodes = [] ∧ t.hub.booted = image.valid ∧ t.hub.inc = (if s.hub.inc = 0xFFFF then 1 else s.hub.inc + 1) ∧
      t.hub.control = [⟨0, ⟨s.hub.device, t.hub.inc, 0⟩, s.hub.device, .announce t.hub.inc⟩] ∧
      (∀ d, (t.die d).bbox = (s.die d).bbox) ∧ ∀ a, a < 2 ^ 60 → Memory.read t.mem a = Memory.read s.mem a) ∧
    (s.hub.booted = false → Gives (.recoveryImageWrite image) s fun t => BytesKept s t ∧ t.hub.booted = image.valid ∧
      (image.valid = true → t.hub.firmware = image.firmware ∧ t.hub.inc =
        if s.hub.inc ≠ 0 then s.hub.inc else if image.incarnation = 0xFFFF then 1 else image.incarnation + 1)) ∧
    (s.hub.booted = true → exec (.recoveryImageWrite image) s = .next s))


/-- Events of the engine queues (R202, R247, R264 to R271, R277 to R282, R301, R304, R327): the head of a queue with its
guards and its gang, joins, the beats of a copy, the groups of a matrix job, the end of a job and its replay. What a job
takes at its start, and the late bits, are the model's (logs 38, 39). -/
def Obligations.QueueEvents : Prop :=
  (∀ s quad n e rest k r, AtHead s quad n e rest k r → e.started = false → e.held = false →
    ((∀ m, e.work ≠ .matrix m) → (∀ j, e.work ≠ .join j) →
      (s.guardOf e.owner e.guard = .unresolved → Gives (.queueHeadStart quad n) s fun t => BytesKept s t ∧
        (∃ x, HeadIs t quad n e rest k { r.setLate 33 with state := 0, eff := r.eff + x }) ∧ Counts s t e.pid .jobGuard 1) ∧
      (s.guardOf e.owner e.guard = .isFalse → Gives (.queueHeadStart quad n) s fun t => BytesKept s t ∧
        HeadLeft t quad n e rest k 3 r.cause) ∧
      (s.guardOf e.owner e.guard = .isTrue →
        (∀ c, e.work = .copy c → (∀ tab len, c.qual ≠ .entropy tab len) →
          (∀ va, c.src = .mem va → Gives (.queueHeadStart quad n) s fun t => BytesKept s t ∧
            HeadIs t quad n { e with started := true } rest k { r with state := 1 }) ∧
          ∀ core off, c.src = .scratch core off → Gives (.queueHeadStart quad n) s fun t => BytesKept s t ∧
            HeadIs t quad n { e with started := true
                                     work := .copy { c with snap := some (Memory.bytes s.mem (Memory.scratchBase core + off) c.len) } }
              rest k { r with state := 1 }) ∧
        (∀ core zt num tag, e.work = .accClr core zt num tag → Gives (.queueHeadStart quad n) s fun t => BytesKept s t ∧
          HeadLeft t quad n e rest k 2 r.cause ∧
          ∀ j, (t.core core).tile j = if zt ≤ j ∧ j < zt + num then { data := 0, tag := tag } else (s.core core).tile j) ∧
        ∀ va pa, e.work = .signal va pa → pa % 16 = 0 → pa < 2 ^ 39 → Linked s → Ahead s quad e →
          (∀ i, i < 16 → cutBy e.cuts (va + BitVec.ofNat 64 i) = false) →
          Gives (.queueHeadStart quad n) s fun t => HeadLeft t quad n e rest k 2 r.cause ∧
            Signals s t pa ((((s.quad quad).fails.find? fun f => f.1 == e.owner && f.2.1 == n).map (·.2.2)).getD 0))) ∧
    (∀ m, e.work = .matrix m →
      ((∃ c ∈ m.missing, s.candidates m c = []) → Gives (.queueHeadStart quad n) s fun t => HeadFailed s t quad n e rest k r 0x84) ∧
      ((∀ c ∈ m.missing, s.candidates m c ≠ []) → s.memberAway m = false →
        (m.missing ≠ [] → Gives (.queueHeadStart quad n) s fun t => BytesKept s t ∧ 
          (∃ x, HeadIs t quad n e rest k { r.setLate 33 with state := 0, eff := r.eff + x }) ∧ Counts s t e.pid .gangWait 1) ∧
        (m.missing = [] →
          ((∃ p ∈ m.members, s.guardOf p.sid p.guard = .isFalse) → Gives (.queueHeadStart quad n) s fun t => BytesKept s t ∧
            HeadLeft t quad n e rest k 3 r.cause) ∧
          ((∀ p ∈ m.members, s.guardOf p.sid p.guard ≠ .isFalse) → (∃ p ∈ m.members, s.guardOf p.sid p.guard = .unresolved) →
            Gives (.queueHeadStart quad n) s fun t => BytesKept s t ∧ (∃ x, HeadIs t quad n e rest k { r.setLate 33 with state := 0, eff := r.eff + x }) ∧
              Counts s t e.pid .jobGuard 1) ∧
          ((∀ p ∈ m.members, s.guardOf p.sid p.guard = .isTrue) →
            (m.mismatch = true → Gives (.queueHeadStart quad n) s fun t => HeadFailed s t quad n e rest k r 0x84) ∧
            (m.mismatch = false → m.acc = true →
              (∃ p ∈ m.members, ∃ i, i < m.form.tiles ∧ ((s.core p.core).tile (p.zt + i)).tag ≠ m.form.tag m.sc) →
              Gives (.queueHeadStart quad n) s fun t => HeadFailed s t quad n e rest k r 0x20) ∧
            (m.mismatch = false → m.acc = true →
              (∀ p ∈ m.members, ∀ i, i < m.form.tiles → ((s.core p.core).tile (p.zt + i)).tag = m.form.tag m.sc) →
              Gives (.queueHeadStart quad n) s fun t => BytesKept s t ∧ (∀ c, t.core c = s.core c) ∧
                ∃ snap, HeadIs t quad n { e with started := true, work := .matrix { m with snap := snap } } rest k { r with state := 1 }) ∧
            (m.mismatch = false → m.acc = false → Gives (.queueHeadStart quad n) s fun t => BytesKept s t ∧
              (∀ p ∈ m.members, ∀ i, i < m.form.tiles → (t.core p.core).tile (p.zt + i) = { data := 0, tag := m.form.tag m.sc }) ∧
              ∃ snap, HeadIs t quad n { e with started := true, work := .matrix { m with snap := snap } } rest k
                { r with state := 1 }))))) ) ∧
  (∀ s quad n e rest x core zt row vd ahead, (s.quad quad).queue n = e :: rest → (s.die (quad / 256)).halted = false → s.hub.down = false →
    e.started = false → e.held = false → e.guard = 0 → e.id = none → e.work = .accRd core zt row vd false → Live s e.owner x →
    x.wait = some (.accRd ahead) → zt ∉ (s.core core).badTiles →
    (((s.core core).tile zt).tag = 3 ∨ ((s.core core).tile zt).tag = 9 → Gives (.queueHeadStart quad n) s fun t => BytesKept s t ∧
      (t.quad quad).queue n = rest ∧ StrandMoves s t e.owner fun x y => GoesOn x y ∧ RegsKept x y ∧ y.inflight.getLast? =
        some ⟨x.wordPc, ahead, vs [BitVec.ofNat 4 vd], [.v (BitVec.ofNat 4 vd)
          { data := ((s.core core).tile zt).data.extractLsb' (2048 * row) 2048, tag := ((s.core core).tile zt).tag, scale := 0 }]⟩) ∧
    (((s.core core).tile zt).tag ≠ 3 → ((s.core core).tile zt).tag ≠ 9 → x.place = .resident → x.pending.length < 8 →
      Gives (.queueHeadStart quad n) s fun t => BytesKept s t ∧ (t.quad quad).queue n = rest ∧ StrandMoves s t e.owner fun x y =>
        GoesOn x y ∧ RegsKept x y ∧ ∃ v : Word, FaultDue s x y 0x20 v ∧
          v.toNat % 2 ^ 20 = 0x400 + zt % 32 + ((s.core core).tile zt).tag.toNat * 2 ^ 16)) ∧
  (∀ s quad j,
    ((∀ l ∈ joinQueues s quad, (∃ e ∈ l, e.isJoin j = true) → ∃ e rest, l = e :: rest ∧ e.isJoin j = true) →
      Gives (.joinRelease quad j) s fun t => BytesKept s t ∧
        joinQueues t quad = (joinQueues s quad).map fun l => l.filter fun e => !e.isJoin j) ∧
    ((∃ l ∈ joinQueues s quad, ∃ e rest, l = e :: rest ∧ e.isJoin j = false ∧ ∃ x ∈ rest, x.isJoin j = true) →
      exec (.joinRelease quad j) s = .next s)) ∧
  (∀ s quad e rest k r c froms dests, AtHead s quad 0 e rest k r → e.started = true → e.held = false → e.work = .copy c →
    c.qual = .plain → c.snap = none → c.done < c.len → Linked s → Ahead s quad e → s.outside e.pid quad = false →
    s.endBytes e.owner c.ext e.cuts false c.src ((List.range (min 64 (c.len - c.done))).map (c.done + ·)) = .ok froms →
    s.endBytes e.owner c.ext e.cuts true c.dst ((List.range (min 64 (c.len - c.done))).map (c.done + ·)) = .ok dests →
    s.redirected (quad / 256) froms = false → s.redirected (quad / 256) dests = false → dests.Nodup → (∀ a ∈ dests, spaceOf a = .scratch ∨ spaceOf a = .dieMem) →
    Gives (.copyBeat quad false) s fun t =>
      HeadIs t quad 0 { e with work := .copy { c with done := c.done + min 64 (c.len - c.done) } } rest k r ∧
      (∀ i (h : i < froms.length), Memory.read t.mem (dests.getD i 0) = Memory.read s.mem froms[i]) ∧
      ∀ a, a ∉ dests → Memory.read t.mem a = Memory.read s.mem a) ∧
  (∀ s quad e rest k r c hostError, AtHead s quad 0 e rest k r → e.started = true → e.held = false → e.work = .copy c →
    c.done < c.out → s.outside e.pid quad = true → Gives (.copyBeat quad hostError) s fun t => BytesKept s t ∧
      HeadFailed s t quad 0 e rest k r 0x41 ∧ Counts s t e.pid .cfgDeny 1) ∧
  (∀ s quad half e rest k r m, half < 2 → AtHead s quad (1 + half) e rest k r → e.started = true → e.held = false → e.work = .matrix m →
    m.group < (m.k + 3) / 4 → (m.members.map (·.core)).Nodup → (∀ p ∈ m.members, (s.core p.core).badTiles = []) →
    ((∃ l ∈ m.reads m.group, s.poisoned l = true) → Gives (.matrixGroup quad half) s fun t =>
      HeadFailed s t quad (1 + half) e rest k r 0x45) ∧
    ((∀ l ∈ m.reads m.group, s.poisoned l = false) → Gives (.matrixGroup quad half) s fun t => BytesKept s t ∧
      (t.quad quad).queue (1 + half) = { e with work := .matrix { m with group := m.group + 1 } } :: rest ∧
      (∀ p ∈ m.members, m.form = .i8 → m.unf = false → m.sc = false →
        ((t.core p.core).tile p.zt).tag = 3 ∧ ∀ i, i < 8 → ∀ col, col < 64 →
          ((t.core p.core).tile p.zt).data.extractLsb' (32 * (64 * i + col)) 32 =
            ((s.core p.core).tile p.zt).data.extractLsb' (32 * (64 * i + col)) 32 + i8Group m p m.group i col) ∧
      ∀ c, (∀ p ∈ m.members, p.core ≠ c) → t.core c = s.core c)) ∧
  (∀ s quad n e rest k r, AtHead s quad n e rest k r → e.started = true → e.held = false →
    (∀ c, e.work = .copy c → (∀ la, c.dst ≠ .landing la) →
      (n = 0 → c.out ≤ c.done → Gives (.jobComplete quad n) s fun t => BytesKept s t ∧ HeadLeft t quad n e rest k 2 r.cause) ∧
      (c.done < c.out → exec (.jobComplete quad n) s = .next s)) ∧
    (∀ m, e.work = .matrix m →
      ((m.k + 3) / 4 ≤ m.group → Gives (.jobComplete quad n) s fun t => BytesKept s t ∧ HeadLeft t quad n e rest k 2 r.cause) ∧
      (m.group < (m.k + 3) / 4 → exec (.jobComplete quad n) s = .next s)) ∧
    Gives (.jobReplay quad n) s fun t => BytesKept s t ∧ (∃ x, HeadIs t quad n e rest k { r.setLate 32 with replays := r.replays + 1, eff := r.eff + x }) ∧
      Counts s t e.pid .jobReplay 1) ∧
  ∀ s quad n e rest k r, AtHead s quad n e rest k r → e.started = false → e.held = true →
    (∀ m, e.work ≠ .matrix m) → (∀ j, e.work ≠ .join j) → Gives (.queueHeadStart quad n) s fun t =>
      ∃ x, HeadIs t quad n e rest k { r.setLate 35 with state := 5, eff := r.eff + x }

/-- Events of the Round (R284, R286, R287, R289, R290, R403): laps, rate changes, model loads, frames that pass a station,
hops that retransmit. A poisoned line as a failed CRC, and where round.hop counts, are the model's (log 40). -/
def Obligations.RoundEvents : Prop :=
  (∀ (s : State) m, s.hub.round.model = some m →
    (s.clk.toNat < s.hub.round.start + (m.frames * 45 + 8 * s.hub.round.rateAt s.hub.round.lap - 1) / (8 * s.hub.round.rateAt s.hub.round.lap) →
      exec .roundLapStart s = .next s) ∧
    (s.hub.round.start + (m.frames * 45 + 8 * s.hub.round.rateAt s.hub.round.lap - 1) / (8 * s.hub.round.rateAt s.hub.round.lap) ≤ s.clk.toNat →
      Gives .roundLapStart s fun t => t.hub.round.lap = s.hub.round.lap + 1 ∧
        t.hub.round.start = s.hub.round.start +
          (m.frames * 45 + 8 * s.hub.round.rateAt s.hub.round.lap - 1) / (8 * s.hub.round.rateAt s.hub.round.lap) ∧
        t.hub.round.rate = s.hub.round.rateAt (s.hub.round.lap + 1) ∧
        (s.hub.round.pending = none → BytesKept s t ∧ t.cores = s.cores ∧ t.hub.round.model = some m ∧ t.hub.round.fill = false) ∧
        ∀ p, s.hub.round.pending = some p → t.hub.round.model = some p ∧ t.hub.round.pending = none ∧ t.hub.round.fill = true ∧
          ∀ core x b k r, Booked s core x b k r → (t.core core).bookQ = [] ∧
            ∃ y, (t.quad b.quad).record x.half k = some y ∧ y.state = 4 ∧ y.cause = 0x8A)) ∧
  (∀ (s : State) (q : BitVec 3), (q = 0 ∨ 4 < q.toNat → exec (.roundRateWrite q) s = .next s) ∧
    (s.hub.booted = false → exec (.roundRateWrite q) s = .next s) ∧
    (q ≠ 0 → q.toNat ≤ 4 → s.hub.booted = true →
      (s.hub.round.model = none → Gives (.roundRateWrite q) s fun t => BytesKept s t ∧ t.hub.round.rate = q.toNat) ∧
      ∀ m, s.hub.round.model = some m → s.hub.round.rates = [] →
        s.clk.toNat < s.hub.round.start + (m.frames * 45 + 8 * s.hub.round.rate - 1) / (8 * s.hub.round.rate) →
        Gives (.roundRateWrite q) s fun t => BytesKept s t ∧ ∀ n, t.hub.round.rateAt n =
          if n < s.hub.round.lap + 2 then s.hub.round.rate else q.toNat)) ∧
  (∀ (s : State) m, s.hub.booted = true → 128 ≤ m.frames → m.frames ≤ 2 ^ 26 → m.layers.length ≤ 4096 →
    (s.hub.round.model = none → Gives (.roundModelLoad m) s fun t => BytesKept s t ∧ t.hub.round.model = some m ∧
      t.hub.round.fill = true ∧ t.hub.round.start = s.clk.toNat ∧ t.hub.round.lap = s.hub.round.lap ∧
      ∀ d, d < 16 → Assoc.getD t.hub.round.pos d (0, 1) = (s.hub.round.lap, 0)) ∧
    (s.hub.round.model.isSome = true → Gives (.roundModelLoad m) s fun t => BytesKept s t ∧
      t.hub.round = { s.hub.round with pending := some m })) ∧
  (∀ (s : State) m station f, s.hub.round.model = some m → s.hub.down = false →
    Assoc.getD s.hub.round.pos station (s.hub.round.lap, 0) = (s.hub.round.lap, f) →
    (s.clk.toNat < framePass s.hub.round f station → exec (.roundFrameArrival station) s = .next s) ∧
    (framePass s.hub.round f station ≤ s.clk.toNat →
      (Gives (.roundFrameArrival station) s fun t => Assoc.getD t.hub.round.pos station (0, 0) =
        if f + 1 < m.frames then (s.hub.round.lap, f + 1) else (s.hub.round.lap + 1, 0)) ∧
      ((∀ p ∈ s.cores, ∀ x ∈ p.2.bookQ, ∀ b, x.work = .booking b → dieOf b.core ≠ station) →
        Gives (.roundFrameArrival station) s fun t => BytesKept s t ∧ t.cores = s.cores) ∧
      ∀ core x b k r, Booked s core x b k r → b.core = core → dieOf core = station → (s.die station).halted = false → b.cancel = false →
        b.lap = s.hub.round.lap → b.first ≤ f → f < b.first + b.count →
        ((s.frameAt m f).ok = false → f + 1 ≠ b.first + b.count → Gives (.roundFrameArrival station) s fun t => BytesKept s t ∧
          Counts s t x.pid .roundCorrupt 1 ∧ (t.core core).bookQ = [{ x with work := .booking { b with corrupt := true } }]) ∧
        ((s.frameAt m f).ok = true → (s.frameAt m f).tile = 0 → f + 1 ≠ b.first + b.count → Gives (.roundFrameArrival station) s fun t =>
          BytesKept s t ∧ (t.core core).bookQ = [{ x with work := .booking { b with table := some ((s.frameAt m f).payload.take 256) } }]) ∧
        ((s.frameAt m f).ok = true → (s.frameAt m f).tile ≠ 0 → (s.frameAt m f).raw = true →
          ∀ out, out = (s.frameAt m f).payload.take (s.frameAt m f).olen →
          b.off + (s.frameAt m f).ooff + out.length ≤ s.scratchOf core → Gives (.roundFrameArrival station) s fun t =>
            (f + 1 ≠ b.first + b.count ∨ b.corrupt = false →
              Wrote s t (Memory.scratchBase core + b.off + (s.frameAt m f).ooff) out.length (bytesNat out)) ∧
            (f + 1 ≠ b.first + b.count → (t.core core).bookQ = [{ x with work := .booking { b with wrote := b.wrote + out.length } }]) ∧
            (f + 1 = b.first + b.count → (t.core core).bookQ = [] ∧ ∃ y, (t.quad b.quad).record x.half k = some y ∧
              y.state = (if b.corrupt then 4 else 2) ∧ y.cause = (if b.corrupt then 0x88 else r.cause))))) ∧
  ∀ (s : State) station f, s.hub.round.model.isSome = true → Gives (.hopRetransmit station) s fun t => BytesKept s t ∧
    t.cores = s.cores ∧ (∀ p, p < 20 → s.enabled p = true → Counts s t p .roundHop 1) ∧
    ∀ core x b k r die, Booked s core x b k r → die = dieOf b.core →
      (b.cancel = false → station ≤ die → die < 16 →
        Assoc.getD s.hub.round.pos die (s.hub.round.lap, 0) = (b.lap, f) → f < b.first + b.count →
        (∃ y, (t.quad b.quad).record x.half k =
          some { (r.setLate 32).setLate 39 with replays := r.replays + 1, eff := r.eff + y }) ∧ Counts s t x.pid .jobReplay 1) ∧
      (die < station → (t.quad b.quad).record x.half k = some r)

/-! ## Steps, decoding, reset -/

/-- A step runs the instruction that the bytes at the program counter decode to (R59, R100, R146): it is exec of it in the
state in which the word has been fetched, the line it lies in kept by the fetch buffer and the instruction cache; then cycles
pass. A word whose access met a link that is retraining is tried again from its unit's head instead (R366). An event of the agenda
and an idle turn likewise; a trace sample finds out first whether the interlock holds its strand (log 25). The agenda and the
passing of time are the model's choice (log 2). -/
def Obligations.StepRunsDecoded : Prop :=
  (∀ s i q pa, Fetches s i q pa → ∃ e, step s = tickOut (match exec i e with
      | .next t => .next (if t.crossed then { q with crossed := false }.retry else t)
      | o => o) ∧ (Linked s → e.crossed = false) ∧
    e.st = { s.st with fbuf := Assoc.set s.st.fbuf (Memory.line pa) (BitVec.ofNat 512 (Memory.readN s.mem (Memory.line pa) 64)) } ∧
    e.agenda = q.agenda ∧ e.mem = s.mem ∧ e.strands = s.strands ∧ e.quads = s.quads ∧ e.dies = s.dies ∧ e.locks = s.locks ∧
    e.poison = s.poison ∧ e.clk = s.clk ∧ { e.hub with pageCnt := [] } = { s.hub with pageCnt := [] } ∧
      ∀ c, { e.core c with icache := [] } = { s.core c with icache := [] }) ∧
  (∀ s i rest, s.agenda = .event i :: rest → hasWord i = false → (∀ core sid, i ≠ .traceSample core sid) →
    step s = tickOut (exec i { s with agenda := rest })) ∧
  (∀ s core sid rest, s.agenda = .event (.traceSample core sid) :: rest →
    ∃ held, step s = tickOut (exec (.traceSample core sid) { s with agenda := rest, interlocked := held })) ∧
  (∀ s rest, s.agenda = .idle :: rest → step s = .next { s with agenda := rest }.tick) ∧
  ∀ s, (∀ x ∈ s.all, (s.view x).flags.parked = false) → (∀ d ∈ s.dies, ∀ r ∈ d.2.regs, r.2.posts = []) → BytesKept s s.tick

/-- Decoding the word of a well-formed instruction gives the instruction back, every operand at every value; and a word that
decodes is the word of the instruction it decodes to, so that every bit of it has its meaning (R59 to R74). -/
def Obligations.DecodeEncode : Prop :=
  (∀ i, hasWord i = true → wellFormed i = true → decode (encode i) = .ok i) ∧
  ∀ w i, decode w = .ok i → hasWord i = true ∧ encode i = w

/-- The words that the spec writes out, or that its formats give, decode to the instructions they stand for. -/
def Obligations.DecodeWords : Prop :=
  decode 0x31634800 = .ok (.mmI8 0 12 13 0 0) ∧ decode 0x3C014010 = .ok (.trap 0 5 0) ∧ decode 0x3C000000 = .ok (.sysc 0 0) ∧
  decode 0x3C000020 = .ok (.eret 0 0) ∧ decode 0x3D400200 = .ok (.mfs 0 8 0 1 0) ∧ decode 0x3D2A0210 = .ok (.mts 0 5 8 1 0) ∧
  decode 0x3E00CA30 = .ok (.resume 0 3 5 0) ∧ decode 0x0108C800 = .ok (.add 0 1 3 4 0) ∧ decode 0x8108C800 = .error .illegalVersion

/-- A step keeps memory in its canonical form, from every state; it never refuses, and it stops only at an address in no
range that the spec maps. The canonical form and the ranges of scratchpads and private memories are the model's (log 4). -/
def Obligations.StepInvariant : Prop :=
  (∀ s t, Memory.wf s.mem = true → step s = .next t → Memory.wf t.mem = true) ∧ (∀ s r, step s ≠ .refused r) ∧
  ∀ s pa, step s = .fault (.noStorage pa) → spaceOf pa = .nothing

/-- Right after reset (R131, R352, R368, R389, R403): no strand lives, every configuration dword, route table entry and die
register reads zero, nothing is poisoned, queued or under way, no model is loaded; memory is in canonical form. What memory
reads before a write, registers with no stated value, and that the image is booted are the model's choices (logs 4, 5, 6). -/
def Obligations.ResetState : Prop :=
  Memory.wf State.reset.mem = true ∧ (∀ sid, State.reset.strand sid = none) ∧ (∀ p off, State.reset.cfg p off = 0) ∧
  (∀ d, Assoc.getD State.reset.hub.routes d 0 = 0) ∧ (∀ d p, State.reset.dieRegs d p = {}) ∧ (∀ l, State.reset.poisoned l = false) ∧
  (∀ a, State.reset.lockAt a = 0) ∧ (∀ q n, (State.reset.quad q).queue n = []) ∧ (∀ d e, (State.reset.path d e).writes = []) ∧
  (∀ d, (State.reset.die d).halted = false) ∧ State.reset.hub.nodes = [] ∧ State.reset.hub.landings = [] ∧
  State.reset.hub.copies = [] ∧ State.reset.hub.round.model = none ∧ ∀ p, p < 20 → State.reset.enabled p = false

end
end

