-- ==== Sys2Proof/Laws/Decoding.lean ====
section
/-!
SUPPORT. Fields of an encoded word read back (04 R59 to R73): one lemma per place a field can stand in relative to the bits
read, and one per major opcode.
-/
namespace Sys2Proof

set_option Elab.async false

/-- A field read where it was put. -/
@[simp] theorem Decode.read_put {n : Nat} (x : BitVec n) (lo : Nat) (h : lo + n ≤ 32) :
    (Decode.put x lo).extractLsb' lo n = x := by
  ext i hi
  have h1 : lo + i < 32 := by omega
  have h2 : lo + i - lo = i := by omega
  have h3 : i < 32 := by omega
  have h4 : ¬ (lo + i < lo) := by omega
  simp only [Decode.put, BitVec.getElem_extractLsb', BitVec.getLsbD_shiftLeft, BitVec.getLsbD_setWidth, h1, h2, h3, h4,
    decide_true, decide_false, Bool.not_false, Bool.true_and]
  exact BitVec.getLsbD_eq_getElem hi

/-- Bits above a field hold nothing of it. -/
@[simp] theorem Decode.read_above {n : Nat} (x : BitVec n) (lo a m : Nat) (h : lo + n ≤ a) :
    (Decode.put x lo).extractLsb' a m = 0#m := by
  ext i hi
  simp only [Decode.put, BitVec.getElem_extractLsb', BitVec.getLsbD_shiftLeft, BitVec.getLsbD_setWidth, BitVec.getElem_zero]
  rw [BitVec.getLsbD_of_ge x _ (by omega)]
  simp

/-- Bits below a field hold nothing of it. -/
@[simp] theorem Decode.read_below {n : Nat} (x : BitVec n) (lo a m : Nat) (h : a + m ≤ lo) :
    (Decode.put x lo).extractLsb' a m = 0#m := by
  ext i hi
  have h1 : a + i < lo := by omega
  simp [Decode.put, h1]

/-- The issue versions the machine decodes put nothing into bit 31. -/
@[simp] theorem Decode.read_top (iv : BitVec 2) (h : iv.extractLsb' 1 1 = 0#1) : (Decode.put iv 30).extractLsb' 31 1 = 0#1 := by
  have e : (Decode.put iv 30).extractLsb' 31 1 = iv.extractLsb' 1 1 := by
    ext i hi
    have h0 : i = 0 := by omega
    subst h0
    simp [Decode.put]
  rw [e, h]

/-- The size codes of plain loads and stores leave out 111. -/
theorem Wf.loadSize_ne {z : BitVec 3} (h : Wf.loadSize z = true) : z ≠ 7#3 := by revert h; revert z; decide
theorem Wf.storeSize_ne {z : BitVec 3} (h : Wf.storeSize z = true) : z ≠ 7#3 := by revert h; revert z; decide

/-- A legal issue version has no high bit. -/
theorem Wf.ver_top {iv : BitVec 2} (h : Wf.ver iv = true) : iv.extractLsb' 1 1 = 0#1 := by
  revert h; revert iv; decide

/-- Likewise with a legal mark beside it. -/
theorem Wf.mark_top {iv : BitVec 2} {sc : BitVec 4} (h : Wf.mark iv sc = true) : iv.extractLsb' 1 1 = 0#1 := by
  revert h; revert iv sc; decide

/-- A word of major 0x01. -/
theorem decode_of_major01 {w : BitVec 32} (h : w.extractLsb' 31 1 = 0#1) (m : w.extractLsb' 24 6 = 0x01#6) :
    decode w = Decode.major01 w := by
  delta decode; rw [h, m]; rfl

/-- A word of major 0x02. -/
theorem decode_of_major02 {w : BitVec 32} (h : w.extractLsb' 31 1 = 0#1) (m : w.extractLsb' 24 6 = 0x02#6) :
    decode w = Decode.major02 w := by
  delta decode; rw [h, m]; rfl

/-- A word of major 0x03. -/
theorem decode_of_major03 {w : BitVec 32} (h : w.extractLsb' 31 1 = 0#1) (m : w.extractLsb' 24 6 = 0x03#6) :
    decode w = Decode.major03 w := by
  delta decode; rw [h, m]; rfl

/-- A word of major 0x04. -/
theorem decode_of_major04 {w : BitVec 32} (h : w.extractLsb' 31 1 = 0#1) (m : w.extractLsb' 24 6 = 0x04#6) :
    decode w = Decode.major04 w := by
  delta decode; rw [h, m]; rfl

/-- A word of major 0x05. -/
theorem decode_of_major05 {w : BitVec 32} (h : w.extractLsb' 31 1 = 0#1) (m : w.extractLsb' 24 6 = 0x05#6) :
    decode w = Decode.major05 w := by
  delta decode; rw [h, m]; rfl

/-- A word of major 0x06. -/
theorem decode_of_major06 {w : BitVec 32} (h : w.extractLsb' 31 1 = 0#1) (m : w.extractLsb' 24 6 = 0x06#6) :
    decode w = Decode.major06 w := by
  delta decode; rw [h, m]; rfl

/-- A word of major 0x07. -/
theorem decode_of_major07 {w : BitVec 32} (h : w.extractLsb' 31 1 = 0#1) (m : w.extractLsb' 24 6 = 0x07#6) :
    decode w = Decode.major07 w := by
  delta decode; rw [h, m]; rfl

/-- A word of major 0x08. -/
theorem decode_of_major08 {w : BitVec 32} (h : w.extractLsb' 31 1 = 0#1) (m : w.extractLsb' 24 6 = 0x08#6) :
    decode w = Decode.major08 w := by
  delta decode; rw [h, m]; rfl

/-- A word of major 0x09. -/
theorem decode_of_major09 {w : BitVec 32} (h : w.extractLsb' 31 1 = 0#1) (m : w.extractLsb' 24 6 = 0x09#6) :
    decode w = Decode.major09 w := by
  delta decode; rw [h, m]; rfl

/-- A word of major 0x0A. -/
theorem decode_of_major0A {w : BitVec 32} (h : w.extractLsb' 31 1 = 0#1) (m : w.extractLsb' 24 6 = 0x0A#6) :
    decode w = Decode.major0A w := by
  delta decode; rw [h, m]; rfl

/-- A word of major 0x0B. -/
theorem decode_of_major0B {w : BitVec 32} (h : w.extractLsb' 31 1 = 0#1) (m : w.extractLsb' 24 6 = 0x0B#6) :
    decode w = Decode.major0B w := by
  delta decode; rw [h, m]; rfl

/-- A word of major 0x0C. -/
theorem decode_of_major0C {w : BitVec 32} (h : w.extractLsb' 31 1 = 0#1) (m : w.extractLsb' 24 6 = 0x0C#6) :
    decode w = Decode.major0C w := by
  delta decode; rw [h, m]; rfl

/-- A word of major 0x0D. -/
theorem decode_of_major0D {w : BitVec 32} (h : w.extractLsb' 31 1 = 0#1) (m : w.extractLsb' 24 6 = 0x0D#6) :
    decode w = Decode.major0D w := by
  delta decode; rw [h, m]; rfl

/-- A word of major 0x0F. -/
theorem decode_of_major0F {w : BitVec 32} (h : w.extractLsb' 31 1 = 0#1) (m : w.extractLsb' 24 6 = 0x0F#6) :
    decode w = Decode.major0F w := by
  delta decode; rw [h, m]; rfl

/-- A word of major 0x10. -/
theorem decode_of_major10 {w : BitVec 32} (h : w.extractLsb' 31 1 = 0#1) (m : w.extractLsb' 24 6 = 0x10#6) :
    decode w = Decode.major10 w := by
  delta decode; rw [h, m]; rfl

/-- A word of major 0x11. -/
theorem decode_of_major11 {w : BitVec 32} (h : w.extractLsb' 31 1 = 0#1) (m : w.extractLsb' 24 6 = 0x11#6) :
    decode w = Decode.major11 w := by
  delta decode; rw [h, m]; rfl

/-- A word of major 0x12. -/
theorem decode_of_major12 {w : BitVec 32} (h : w.extractLsb' 31 1 = 0#1) (m : w.extractLsb' 24 6 = 0x12#6) :
    decode w = Decode.major12 w := by
  delta decode; rw [h, m]; rfl

/-- A word of major 0x13. -/
theorem decode_of_major13 {w : BitVec 32} (h : w.extractLsb' 31 1 = 0#1) (m : w.extractLsb' 24 6 = 0x13#6) :
    decode w = Decode.major13 w := by
  delta decode; rw [h, m]; rfl

/-- A word of major 0x14. -/
theorem decode_of_major14 {w : BitVec 32} (h : w.extractLsb' 31 1 = 0#1) (m : w.extractLsb' 24 6 = 0x14#6) :
    decode w = Decode.major14 w := by
  delta decode; rw [h, m]; rfl

/-- A word of major 0x15. -/
theorem decode_of_major15 {w : BitVec 32} (h : w.extractLsb' 31 1 = 0#1) (m : w.extractLsb' 24 6 = 0x15#6) :
    decode w = Decode.major15 w := by
  delta decode; rw [h, m]; rfl

/-- A word of major 0x16. -/
theorem decode_of_major16 {w : BitVec 32} (h : w.extractLsb' 31 1 = 0#1) (m : w.extractLsb' 24 6 = 0x16#6) :
    decode w = Decode.major16 w := by
  delta decode; rw [h, m]; rfl

/-- A word of major 0x17. -/
theorem decode_of_major17 {w : BitVec 32} (h : w.extractLsb' 31 1 = 0#1) (m : w.extractLsb' 24 6 = 0x17#6) :
    decode w = Decode.major17 w := by
  delta decode; rw [h, m]; rfl

/-- A word of major 0x18. -/
theorem decode_of_major18 {w : BitVec 32} (h : w.extractLsb' 31 1 = 0#1) (m : w.extractLsb' 24 6 = 0x18#6) :
    decode w = Decode.major18 w := by
  delta decode; rw [h, m]; rfl

/-- A word of major 0x19. -/
theorem decode_of_major19 {w : BitVec 32} (h : w.extractLsb' 31 1 = 0#1) (m : w.extractLsb' 24 6 = 0x19#6) :
    decode w = Decode.major19 w := by
  delta decode; rw [h, m]; rfl

/-- A word of major 0x1A. -/
theorem decode_of_major1A {w : BitVec 32} (h : w.extractLsb' 31 1 = 0#1) (m : w.extractLsb' 24 6 = 0x1A#6) :
    decode w = Decode.major1A w := by
  delta decode; rw [h, m]; rfl

/-- A word of major 0x1B. -/
theorem decode_of_major1B {w : BitVec 32} (h : w.extractLsb' 31 1 = 0#1) (m : w.extractLsb' 24 6 = 0x1B#6) :
    decode w = Decode.major1B w := by
  delta decode; rw [h, m]; rfl

/-- A word of major 0x1C. -/
theorem decode_of_major1C {w : BitVec 32} (h : w.extractLsb' 31 1 = 0#1) (m : w.extractLsb' 24 6 = 0x1C#6) :
    decode w = Decode.major1C w := by
  delta decode; rw [h, m]; rfl

/-- A word of major 0x1D. -/
theorem decode_of_major1D {w : BitVec 32} (h : w.extractLsb' 31 1 = 0#1) (m : w.extractLsb' 24 6 = 0x1D#6) :
    decode w = Decode.major1D w := by
  delta decode; rw [h, m]; rfl

/-- A word of major 0x1E. -/
theorem decode_of_major1E {w : BitVec 32} (h : w.extractLsb' 31 1 = 0#1) (m : w.extractLsb' 24 6 = 0x1E#6) :
    decode w = Decode.major1E w := by
  delta decode; rw [h, m]; rfl

/-- A word of major 0x1F. -/
theorem decode_of_major1F {w : BitVec 32} (h : w.extractLsb' 31 1 = 0#1) (m : w.extractLsb' 24 6 = 0x1F#6) :
    decode w = Decode.major1F w := by
  delta decode; rw [h, m]; rfl

/-- A word of major 0x20. -/
theorem decode_of_major20 {w : BitVec 32} (h : w.extractLsb' 31 1 = 0#1) (m : w.extractLsb' 24 6 = 0x20#6) :
    decode w = Decode.major20 w := by
  delta decode; rw [h, m]; rfl

/-- A word of major 0x21. -/
theorem decode_of_major21 {w : BitVec 32} (h : w.extractLsb' 31 1 = 0#1) (m : w.extractLsb' 24 6 = 0x21#6) :
    decode w = Decode.major21 w := by
  delta decode; rw [h, m]; rfl

/-- A word of major 0x22. -/
theorem decode_of_major22 {w : BitVec 32} (h : w.extractLsb' 31 1 = 0#1) (m : w.extractLsb' 24 6 = 0x22#6) :
    decode w = Decode.major22 w := by
  delta decode; rw [h, m]; rfl

/-- A word of major 0x23. -/
theorem decode_of_major23 {w : BitVec 32} (h : w.extractLsb' 31 1 = 0#1) (m : w.extractLsb' 24 6 = 0x23#6) :
    decode w = Decode.major23 w := by
  delta decode; rw [h, m]; rfl

/-- A word of major 0x24. -/
theorem decode_of_major24 {w : BitVec 32} (h : w.extractLsb' 31 1 = 0#1) (m : w.extractLsb' 24 6 = 0x24#6) :
    decode w = Decode.major24 w := by
  delta decode; rw [h, m]; rfl

/-- A word of major 0x25. -/
theorem decode_of_major25 {w : BitVec 32} (h : w.extractLsb' 31 1 = 0#1) (m : w.extractLsb' 24 6 = 0x25#6) :
    decode w = Decode.major25 w := by
  delta decode; rw [h, m]; rfl

/-- A word of major 0x26. -/
theorem decode_of_major26 {w : BitVec 32} (h : w.extractLsb' 31 1 = 0#1) (m : w.extractLsb' 24 6 = 0x26#6) :
    decode w = Decode.major26 w := by
  delta decode; rw [h, m]; rfl

/-- A word of major 0x27. -/
theorem decode_of_major27 {w : BitVec 32} (h : w.extractLsb' 31 1 = 0#1) (m : w.extractLsb' 24 6 = 0x27#6) :
    decode w = Decode.major27 w := by
  delta decode; rw [h, m]; rfl

/-- A word of major 0x28. -/
theorem decode_of_major28 {w : BitVec 32} (h : w.extractLsb' 31 1 = 0#1) (m : w.extractLsb' 24 6 = 0x28#6) :
    decode w = Decode.major28 w := by
  delta decode; rw [h, m]; rfl

/-- A word of major 0x29. -/
theorem decode_of_major29 {w : BitVec 32} (h : w.extractLsb' 31 1 = 0#1) (m : w.extractLsb' 24 6 = 0x29#6) :
    decode w = Decode.major29 w := by
  delta decode; rw [h, m]; rfl

/-- A word of major 0x2A. -/
theorem decode_of_major2A {w : BitVec 32} (h : w.extractLsb' 31 1 = 0#1) (m : w.extractLsb' 24 6 = 0x2A#6) :
    decode w = Decode.major2A w := by
  delta decode; rw [h, m]; rfl

/-- A word of major 0x2B. -/
theorem decode_of_major2B {w : BitVec 32} (h : w.extractLsb' 31 1 = 0#1) (m : w.extractLsb' 24 6 = 0x2B#6) :
    decode w = Decode.major2B w := by
  delta decode; rw [h, m]; rfl

/-- A word of major 0x2C. -/
theorem decode_of_major2C {w : BitVec 32} (h : w.extractLsb' 31 1 = 0#1) (m : w.extractLsb' 24 6 = 0x2C#6) :
    decode w = Decode.major2C w := by
  delta decode; rw [h, m]; rfl

/-- A word of major 0x30. -/
theorem decode_of_major30 {w : BitVec 32} (h : w.extractLsb' 31 1 = 0#1) (m : w.extractLsb' 24 6 = 0x30#6) :
    decode w = Decode.major30 w := by
  delta decode; rw [h, m]; rfl

/-- A word of major 0x31. -/
theorem decode_of_major31 {w : BitVec 32} (h : w.extractLsb' 31 1 = 0#1) (m : w.extractLsb' 24 6 = 0x31#6) :
    decode w = Decode.major31 w := by
  delta decode; rw [h, m]; rfl

/-- A word of major 0x32. -/
theorem decode_of_major32 {w : BitVec 32} (h : w.extractLsb' 31 1 = 0#1) (m : w.extractLsb' 24 6 = 0x32#6) :
    decode w = Decode.major32 w := by
  delta decode; rw [h, m]; rfl

/-- A word of major 0x33. -/
theorem decode_of_major33 {w : BitVec 32} (h : w.extractLsb' 31 1 = 0#1) (m : w.extractLsb' 24 6 = 0x33#6) :
    decode w = Decode.major33 w := by
  delta decode; rw [h, m]; rfl

/-- A word of major 0x34. -/
theorem decode_of_major34 {w : BitVec 32} (h : w.extractLsb' 31 1 = 0#1) (m : w.extractLsb' 24 6 = 0x34#6) :
    decode w = Decode.major34 w := by
  delta decode; rw [h, m]; rfl

/-- A word of major 0x35. -/
theorem decode_of_major35 {w : BitVec 32} (h : w.extractLsb' 31 1 = 0#1) (m : w.extractLsb' 24 6 = 0x35#6) :
    decode w = Decode.major35 w := by
  delta decode; rw [h, m]; rfl

/-- A word of major 0x36. -/
theorem decode_of_major36 {w : BitVec 32} (h : w.extractLsb' 31 1 = 0#1) (m : w.extractLsb' 24 6 = 0x36#6) :
    decode w = Decode.major36 w := by
  delta decode; rw [h, m]; rfl

/-- A word of major 0x37. -/
theorem decode_of_major37 {w : BitVec 32} (h : w.extractLsb' 31 1 = 0#1) (m : w.extractLsb' 24 6 = 0x37#6) :
    decode w = Decode.major37 w := by
  delta decode; rw [h, m]; rfl

/-- A word of major 0x38. -/
theorem decode_of_major38 {w : BitVec 32} (h : w.extractLsb' 31 1 = 0#1) (m : w.extractLsb' 24 6 = 0x38#6) :
    decode w = Decode.major38 w := by
  delta decode; rw [h, m]; rfl

/-- A word of major 0x39. -/
theorem decode_of_major39 {w : BitVec 32} (h : w.extractLsb' 31 1 = 0#1) (m : w.extractLsb' 24 6 = 0x39#6) :
    decode w = Decode.major39 w := by
  delta decode; rw [h, m]; rfl

/-- A word of major 0x3A. -/
theorem decode_of_major3A {w : BitVec 32} (h : w.extractLsb' 31 1 = 0#1) (m : w.extractLsb' 24 6 = 0x3A#6) :
    decode w = Decode.major3A w := by
  delta decode; rw [h, m]; rfl

/-- A word of major 0x3C. -/
theorem decode_of_major3C {w : BitVec 32} (h : w.extractLsb' 31 1 = 0#1) (m : w.extractLsb' 24 6 = 0x3C#6) :
    decode w = Decode.major3C w := by
  delta decode; rw [h, m]; rfl

/-- A word of major 0x3D. -/
theorem decode_of_major3D {w : BitVec 32} (h : w.extractLsb' 31 1 = 0#1) (m : w.extractLsb' 24 6 = 0x3D#6) :
    decode w = Decode.major3D w := by
  delta decode; rw [h, m]; rfl

/-- A word of major 0x3E. -/
theorem decode_of_major3E {w : BitVec 32} (h : w.extractLsb' 31 1 = 0#1) (m : w.extractLsb' 24 6 = 0x3E#6) :
    decode w = Decode.major3E w := by
  delta decode; rw [h, m]; rfl

/-- A word of major 0x3F. -/
theorem decode_of_major3F {w : BitVec 32} (h : w.extractLsb' 31 1 = 0#1) (m : w.extractLsb' 24 6 = 0x3F#6) :
    decode w = Decode.major3F w := by
  delta decode; rw [h, m]; rfl

end Sys2Proof
end

