-- ==== Sys2Proof/Laws/Memory.lean ====
section
/-!
SUPPORT. Laws of sorted tables and of memory: what a read finds after a write, and that every operation keeps the canonical
form.
-/
namespace Sys2Proof.Machine
set_option Elab.async false

/-! ## Tables -/

@[simp] theorem Assoc.get_set_same {α : Type} (l : List (Nat × α)) (a : Nat) (x : α) : Assoc.get (Assoc.set l a x) a = some x := by
  induction l with
  | nil => simp [Assoc.set, Assoc.get]
  | cons p t ih =>
    by_cases h : p.1 < a
    · simp [Assoc.set, Assoc.get, h, h.ne, ih]
    · simp [Assoc.set, Assoc.get, h]

theorem Assoc.get_set_other {α : Type} (l : List (Nat × α)) (a b : Nat) (x : α) (h : b ≠ a) :
    Assoc.get (Assoc.set l a x) b = Assoc.get l b := by
  induction l with
  | nil => simp [Assoc.set, Assoc.get, h.symm]
  | cons p t ih =>
    by_cases hlt : p.1 < a
    · simp [Assoc.set, Assoc.get, hlt, ih]
    · by_cases hk : p.1 = a <;> simp [Assoc.set, Assoc.get, hk, h.symm, hlt]

@[simp] theorem Assoc.getD_set_same {α : Type} (l : List (Nat × α)) (a : Nat) (x d : α) : Assoc.getD (Assoc.set l a x) a d = x := by
  simp [Assoc.getD]

theorem Assoc.getD_set_other {α : Type} (l : List (Nat × α)) (a b : Nat) (x d : α) (h : b ≠ a) :
    Assoc.getD (Assoc.set l a x) b d = Assoc.getD l b d := by
  simp [Assoc.getD, Assoc.get_set_other l a b x h]

@[simp] theorem Assoc.getD_modify_same {α : Type} (l : List (Nat × α)) (a : Nat) (d : α) (f : α → α) :
    Assoc.getD (Assoc.modify l a d f) a d = f (Assoc.getD l a d) := by simp [Assoc.modify]

theorem Assoc.getD_modify_other {α : Type} (l : List (Nat × α)) (a b : Nat) (d : α) (f : α → α) (h : b ≠ a) :
    Assoc.getD (Assoc.modify l a d f) b d = Assoc.getD l b d := by
  simp [Assoc.modify, Assoc.getD_set_other _ _ _ _ _ h]

theorem Assoc.get_erase {α : Type} (l : List (Nat × α)) (a b : Nat) :
    Assoc.get (Assoc.erase l a) b = if b = a then none else Assoc.get l b := by
  induction l with
  | nil => simp [Assoc.erase, Assoc.get]
  | cons p t ih =>
    have step : Assoc.get (Assoc.erase (p :: t) a) b = if p.1 ≠ a ∧ p.1 = b then some p.2 else Assoc.get (Assoc.erase t a) b := by
      by_cases hk : p.1 = a <;> simp [Assoc.erase, Assoc.get, hk]
    rw [step, ih]
    by_cases hb : b = a <;> by_cases hk : p.1 = b <;> simp_all [Assoc.get]

/-! ## One byte -/

theorem Memory.read_eq (m : Memory) (a : Nat) : Memory.read m a = Assoc.getD m a Memory.blank := by
  induction m with
  | nil => rfl
  | cons p t ih =>
    obtain ⟨k, y⟩ := p
    by_cases h : k = a <;> simp_all [Memory.read, Assoc.getD, Assoc.get]

/-- A read after a write: the byte written there, every other byte as before. -/
theorem Memory.read_write (m : Memory) (a b : Nat) (x : Byte) :
    Memory.read (Memory.write m a x) b = if b = a then x else Memory.read m b := by
  simp only [Memory.read_eq, Memory.write]
  split
  · rename_i h
    subst h
    simp only [Assoc.getD, Assoc.get_erase]
    split <;> simp
  · by_cases h : b = a
    · subst h; simp
    · simp [h, Assoc.getD_set_other _ _ _ _ _ h]

/-! ## Several bytes -/

/-- A read after a write of n bytes, little-endian (R5). -/
theorem Memory.read_writeN (m : Memory) (a x n b : Nat) :
    Memory.read (Memory.writeN m a x n) b =
      if a ≤ b ∧ b < a + n then BitVec.ofNat 8 (x / 2 ^ (8 * (b - a))) else Memory.read m b := by
  induction n generalizing m a x with
  | zero => simp [Memory.writeN]
  | succ n ih =>
    simp only [Memory.writeN, ih, Memory.read_write]
    by_cases h : b = a
    · subst h; simp
    · by_cases h2 : a ≤ b ∧ b < a + (n + 1)
      · have h3 : a + 1 ≤ b ∧ b < a + 1 + n := by omega
        have h4 : 8 * (b - a) = 8 + 8 * (b - (a + 1)) := by omega
        simp only [h2, h3, and_self, if_true, h4, Nat.pow_add, Nat.div_div_eq_div_mul]
      · have h3 : ¬(a + 1 ≤ b ∧ b < a + 1 + n) := by omega
        rw [if_neg h2, if_neg h3, if_neg h]

/-- A read after a masked write (R205). -/
theorem Memory.read_writeMask (m : Memory) (a x mask n b : Nat) :
    Memory.read (Memory.writeMask m a x mask n) b =
      if a ≤ b ∧ b < a + n ∧ mask.testBit (b - a) = true then BitVec.ofNat 8 (x / 2 ^ (8 * (b - a))) else Memory.read m b := by
  induction n generalizing m a x mask with
  | zero => simp [Memory.writeMask]; omega
  | succ n ih =>
    simp only [Memory.writeMask, ih]
    by_cases h : b = a
    · subst h
      have h3 : ¬(b + 1 ≤ b) := by omega
      by_cases hm : mask % 2 = 1 <;> simp [h3, hm, Memory.read_write, Nat.testBit_zero]
    · by_cases h2 : a ≤ b ∧ b < a + (n + 1)
      · have h3 : a + 1 ≤ b ∧ b < a + 1 + n := by omega
        have h4 : 8 * (b - a) = 8 + 8 * (b - (a + 1)) := by omega
        have h5 : b - a = (b - (a + 1)) + 1 := by omega
        have h6 : mask.testBit (b - a) = (mask / 2).testBit (b - (a + 1)) := by rw [h5, Nat.testBit_succ]
        have h7 : x / 256 / 2 ^ (8 * (b - (a + 1))) = x / 2 ^ (8 * (b - a)) := by
          rw [h4, Nat.pow_add, Nat.div_div_eq_div_mul]
        simp only [h2, h3, true_and, h6, h7]
        split
        · rfl
        · split <;> simp [Memory.read_write, h]
      · have h3 : ¬(a + 1 ≤ b ∧ b < a + 1 + n ∧ (mask / 2).testBit (b - (a + 1)) = true) := by omega
        have h4 : ¬(a ≤ b ∧ b < a + (n + 1) ∧ mask.testBit (b - a) = true) := by omega
        rw [if_neg h3, if_neg h4]
        split <;> simp [Memory.read_write, h]

/-- A read after a list of bytes has been written. -/
theorem Memory.read_writeBytes (m : Memory) (a : Nat) (l : List Byte) (b : Nat) :
    Memory.read (Memory.writeBytes m a l) b =
      if a ≤ b ∧ b < a + l.length then l.getD (b - a) 0 else Memory.read m b := by
  induction l generalizing m a with
  | nil => simp [Memory.writeBytes]
  | cons x t ih =>
    simp only [Memory.writeBytes, ih, Memory.read_write, List.length_cons]
    by_cases h : b = a
    · subst h; simp
    · by_cases h2 : a ≤ b ∧ b < a + (t.length + 1)
      · have h3 : a + 1 ≤ b ∧ b < a + 1 + t.length := by omega
        have h4 : b - a = (b - (a + 1)) + 1 := by omega
        rw [if_pos h2, if_pos h3, h4]; simp
      · have h3 : ¬(a + 1 ≤ b ∧ b < a + 1 + t.length) := by omega
        rw [if_neg h2, if_neg h3, if_neg h]

/-- What remains of a filtered memory. -/
theorem Memory.read_filter (m : Memory) (p : Nat → Bool) (b : Nat) :
    Memory.read (m.filter fun c => p c.1) b = if p b then Memory.read m b else Memory.blank := by
  induction m with
  | nil => simp [Memory.read]
  | cons c t ih =>
    obtain ⟨k, y⟩ := c
    by_cases hp : p k <;> simp only [List.filter, hp, Memory.read, ih]
    · by_cases hk : k = b
      · subst hk; simp [hp]
      · simp [hk]
    · by_cases hk : k = b
      · subst hk; simp [hp]
      · simp [hk]

/-- Cleared bytes read as blank, every other byte as before (R199). -/
theorem Memory.read_clear (m : Memory) (a n b : Nat) :
    Memory.read (Memory.clear m a n) b = if a ≤ b ∧ b < a + n then Memory.blank else Memory.read m b := by
  have h := Memory.read_filter m (fun c => decide (c < a) || decide (a + n ≤ c)) b
  simp only [Memory.clear] at *
  rw [h]
  by_cases h2 : a ≤ b ∧ b < a + n
  · simp [h2]
  · simp [h2]

/-! ## The canonical form -/

theorem Memory.wfFrom_mono {lo lo' : Nat} {m : Memory} (h : Memory.wfFrom lo m = true) (hl : lo' ≤ lo) : Memory.wfFrom lo' m = true := by
  cases m with
  | nil => rfl
  | cons p t => obtain ⟨k, y⟩ := p; simp_all [Memory.wfFrom]; omega

theorem Memory.wfFrom_set {lo : Nat} {m : Memory} {a : Nat} {x : Byte} (h : Memory.wfFrom lo m = true) (hl : lo ≤ a)
    (hx : x ≠ Memory.blank) : Memory.wfFrom lo (Assoc.set m a x) = true := by
  induction m generalizing lo with
  | nil => simp [Assoc.set, Memory.wfFrom, hl, hx]
  | cons p t ih =>
    obtain ⟨k, y⟩ := p
    simp only [Memory.wfFrom, Bool.and_eq_true, decide_eq_true_eq] at h
    by_cases hlt : k < a
    · simpa [Assoc.set, hlt, Memory.wfFrom, h] using ih h.2 (by omega)
    · by_cases hk : k = a
      · subst hk; simp [Assoc.set, Memory.wfFrom, h, hx]
      · have hak : a + 1 ≤ k := by omega
        simp [Assoc.set, hlt, hk, Memory.wfFrom, hl, hx, h, hak]

theorem Memory.wfFrom_filter {lo : Nat} {m : Memory} (p : Host.Cell → Bool) (h : Memory.wfFrom lo m = true) :
    Memory.wfFrom lo (m.filter p) = true := by
  induction m generalizing lo with
  | nil => rfl
  | cons c t ih =>
    obtain ⟨k, y⟩ := c
    simp only [Memory.wfFrom, Bool.and_eq_true, decide_eq_true_eq] at h
    simp only [List.filter]
    split
    · simp [Memory.wfFrom, h, ih h.2]
    · exact Memory.wfFrom_mono (ih h.2) (by omega)

theorem Memory.wf_filter {m : Memory} (p : Host.Cell → Bool) (h : Memory.wf m = true) : Memory.wf (m.filter p) = true :=
  Memory.wfFrom_filter p h

theorem Memory.wf_write {m : Memory} (a : Nat) (x : Byte) (h : Memory.wf m = true) : Memory.wf (Memory.write m a x) = true := by
  simp only [Memory.write]
  split
  · exact Memory.wfFrom_filter _ h
  · exact Memory.wfFrom_set h (Nat.zero_le _) ‹_›

theorem Memory.wf_writeN {m : Memory} (a x n : Nat) (h : Memory.wf m = true) : Memory.wf (Memory.writeN m a x n) = true := by
  induction n generalizing m a x with
  | zero => exact h
  | succ n ih => exact ih _ _ (Memory.wf_write _ _ h)

theorem Memory.wf_writeMask {m : Memory} (a x mask n : Nat) (h : Memory.wf m = true) :
    Memory.wf (Memory.writeMask m a x mask n) = true := by
  induction n generalizing m a x mask with
  | zero => exact h
  | succ n ih =>
    refine ih _ _ _ ?_
    split
    · exact Memory.wf_write _ _ h
    · exact h

theorem Memory.wf_writeBytes {m : Memory} (a : Nat) (l : List Byte) (h : Memory.wf m = true) :
    Memory.wf (Memory.writeBytes m a l) = true := by
  induction l generalizing m a with
  | nil => exact h
  | cons x t ih => exact ih _ (Memory.wf_write _ _ h)

/-- Two rising runs, the second behind the first. -/
theorem Memory.wfFrom_append {lo mid : Nat} {m n : Memory} (h : Memory.wfFrom lo m = true) (hm : ∀ c ∈ m, c.1 < mid)
    (hl : lo ≤ mid) (hn : Memory.wfFrom mid n = true) : Memory.wfFrom lo (m ++ n) = true := by
  induction m generalizing lo with
  | nil => exact Memory.wfFrom_mono hn hl
  | cons c t ih =>
    obtain ⟨k, y⟩ := c
    simp only [Memory.wfFrom, Bool.and_eq_true, decide_eq_true_eq] at h
    have hk : k < mid := hm (k, y) (by simp)
    simp only [List.cons_append, Memory.wfFrom, Bool.and_eq_true, decide_eq_true_eq]
    exact ⟨h.1, ih h.2 (fun c hc => hm c (by simp [hc])) (by omega)⟩

theorem Memory.wfFrom_shift {lo : Nat} {m : Memory} (b : Nat) (h : Memory.wfFrom lo m = true) :
    Memory.wfFrom (b + lo) (m.map fun c => (b + c.1, c.2)) = true := by
  induction m generalizing lo with
  | nil => rfl
  | cons c t ih =>
    obtain ⟨k, y⟩ := c
    simp only [Memory.wfFrom, Bool.and_eq_true, decide_eq_true_eq] at h
    simp only [List.map, Memory.wfFrom, Bool.and_eq_true, decide_eq_true_eq]
    exact ⟨⟨by omega, h.1.2⟩, by simpa [Nat.add_assoc] using ih h.2⟩

theorem Memory.wfFrom_raise {lo lo' : Nat} {m : Memory} (h : Memory.wfFrom lo m = true) (hm : ∀ c ∈ m, lo' ≤ c.1) :
    Memory.wfFrom lo' m = true := by
  cases m with
  | nil => rfl
  | cons c t =>
    obtain ⟨k, y⟩ := c
    have := hm (k, y) (by simp)
    simp_all [Memory.wfFrom]

/-- The copy of a checkpoint keeps the canonical form (R402). -/
theorem Memory.wf_copyDies {m : Memory} (base : Nat) (h : Memory.wf m = true) : Memory.wf (Memory.copyDies m base) = true := by
  have h2 := Memory.wfFrom_shift base (Memory.wfFrom_filter (fun c => decide (c.1 < 2 ^ 39)) h)
  have h3 : Memory.wfFrom (base + 2 ^ 39) (m.filter fun c => decide (base + 2 ^ 39 ≤ c.1)) = true :=
    Memory.wfFrom_raise (Memory.wfFrom_filter _ h) (by simp)
  simp only [Memory.copyDies, List.append_assoc]
  refine Memory.wfFrom_append (mid := base) (Memory.wfFrom_filter _ h) (by simp) (Nat.zero_le _)
    (Memory.wfFrom_append (mid := base + 2 ^ 39) h2 ?_ (by omega) h3)
  intro c hc
  simp only [List.mem_map, List.mem_filter, decide_eq_true_eq] at hc
  obtain ⟨d, hd, rfl⟩ := hc
  have := hd.2
  simp only; omega

theorem Memory.wf_clear {m : Memory} (a n : Nat) (h : Memory.wf m = true) : Memory.wf (Memory.clear m a n) = true :=
  Memory.wfFrom_filter _ h

/-- A fold of operations that keep the canonical form keeps it. -/
theorem Memory.wf_foldl {α : Type} (f : Memory → α → Memory) (hf : ∀ m x, Memory.wf m = true → Memory.wf (f m x) = true)
    (l : List α) {m : Memory} (h : Memory.wf m = true) : Memory.wf (l.foldl f m) = true := by
  induction l generalizing m with
  | nil => exact h
  | cons x t ih => exact ih (hf _ _ h)

theorem State.reset_mem_wf : Memory.wf State.reset.mem = true := rfl

end Sys2Proof.Machine
end

