-- ==== Sys2Proof/Laws/PerInstr.lean ====
section
/-!
SUPPORT. Per instruction: decoding the word of a well-formed instruction gives it back, every operand at every value
(04 R59 to R74). One lemma per constructor; an event has no word.
-/
namespace Sys2Proof.Laws.RoundTrip

set_option Elab.async false

/-- The word of a well-formed instruction decodes to it. -/
def Statement (i : Instr) : Prop := hasWord i = true → wellFormed i = true → decode (encode i) = .ok i

theorem add (iv : BitVec 2) (d a b : BitVec 5) (sc : BitVec 4) : Statement (.add iv d a b sc) := by
  intro _ wf
  have hv := Decode.read_top iv (Wf.mark_top wf)
  refine (decode_of_major01 (w := Decode.wAdd iv d a b sc) ?_ ?_).trans ?_ <;>
    simp [hv, Decode.major01, Decode.wAdd, BitVec.extractLsb'_or]
theorem sub (iv : BitVec 2) (d a b : BitVec 5) (sc : BitVec 4) : Statement (.sub iv d a b sc) := by
  intro _ wf
  have hv := Decode.read_top iv (Wf.mark_top wf)
  refine (decode_of_major01 (w := Decode.wSub iv d a b sc) ?_ ?_).trans ?_ <;>
    simp [hv, Decode.major01, Decode.wSub, BitVec.extractLsb'_or]
theorem and (iv : BitVec 2) (d a b : BitVec 5) (sc : BitVec 4) : Statement (.and iv d a b sc) := by
  intro _ wf
  have hv := Decode.read_top iv (Wf.mark_top wf)
  refine (decode_of_major01 (w := Decode.wAnd iv d a b sc) ?_ ?_).trans ?_ <;>
    simp [hv, Decode.major01, Decode.wAnd, BitVec.extractLsb'_or]
theorem or (iv : BitVec 2) (d a b : BitVec 5) (sc : BitVec 4) : Statement (.or iv d a b sc) := by
  intro _ wf
  have hv := Decode.read_top iv (Wf.mark_top wf)
  refine (decode_of_major01 (w := Decode.wOr iv d a b sc) ?_ ?_).trans ?_ <;>
    simp [hv, Decode.major01, Decode.wOr, BitVec.extractLsb'_or]
theorem xor (iv : BitVec 2) (d a b : BitVec 5) (sc : BitVec 4) : Statement (.xor iv d a b sc) := by
  intro _ wf
  have hv := Decode.read_top iv (Wf.mark_top wf)
  refine (decode_of_major01 (w := Decode.wXor iv d a b sc) ?_ ?_).trans ?_ <;>
    simp [hv, Decode.major01, Decode.wXor, BitVec.extractLsb'_or]
theorem andn (iv : BitVec 2) (d a b : BitVec 5) (sc : BitVec 4) : Statement (.andn iv d a b sc) := by
  intro _ wf
  have hv := Decode.read_top iv (Wf.mark_top wf)
  refine (decode_of_major01 (w := Decode.wAndn iv d a b sc) ?_ ?_).trans ?_ <;>
    simp [hv, Decode.major01, Decode.wAndn, BitVec.extractLsb'_or]
theorem orn (iv : BitVec 2) (d a b : BitVec 5) (sc : BitVec 4) : Statement (.orn iv d a b sc) := by
  intro _ wf
  have hv := Decode.read_top iv (Wf.mark_top wf)
  refine (decode_of_major01 (w := Decode.wOrn iv d a b sc) ?_ ?_).trans ?_ <;>
    simp [hv, Decode.major01, Decode.wOrn, BitVec.extractLsb'_or]
theorem shl (iv : BitVec 2) (d a b : BitVec 5) (sc : BitVec 4) : Statement (.shl iv d a b sc) := by
  intro _ wf
  have hv := Decode.read_top iv (Wf.mark_top wf)
  refine (decode_of_major01 (w := Decode.wShl iv d a b sc) ?_ ?_).trans ?_ <;>
    simp [hv, Decode.major01, Decode.wShl, BitVec.extractLsb'_or]
theorem shr (iv : BitVec 2) (d a b : BitVec 5) (sc : BitVec 4) : Statement (.shr iv d a b sc) := by
  intro _ wf
  have hv := Decode.read_top iv (Wf.mark_top wf)
  refine (decode_of_major01 (w := Decode.wShr iv d a b sc) ?_ ?_).trans ?_ <;>
    simp [hv, Decode.major01, Decode.wShr, BitVec.extractLsb'_or]
theorem sra (iv : BitVec 2) (d a b : BitVec 5) (sc : BitVec 4) : Statement (.sra iv d a b sc) := by
  intro _ wf
  have hv := Decode.read_top iv (Wf.mark_top wf)
  refine (decode_of_major01 (w := Decode.wSra iv d a b sc) ?_ ?_).trans ?_ <;>
    simp [hv, Decode.major01, Decode.wSra, BitVec.extractLsb'_or]
theorem rot (iv : BitVec 2) (d a b : BitVec 5) (sc : BitVec 4) : Statement (.rot iv d a b sc) := by
  intro _ wf
  have hv := Decode.read_top iv (Wf.mark_top wf)
  refine (decode_of_major01 (w := Decode.wRot iv d a b sc) ?_ ?_).trans ?_ <;>
    simp [hv, Decode.major01, Decode.wRot, BitVec.extractLsb'_or]
theorem min (iv : BitVec 2) (d a b : BitVec 5) (sc : BitVec 4) : Statement (.min iv d a b sc) := by
  intro _ wf
  have hv := Decode.read_top iv (Wf.mark_top wf)
  refine (decode_of_major01 (w := Decode.wMin iv d a b sc) ?_ ?_).trans ?_ <;>
    simp [hv, Decode.major01, Decode.wMin, BitVec.extractLsb'_or]
theorem max (iv : BitVec 2) (d a b : BitVec 5) (sc : BitVec 4) : Statement (.max iv d a b sc) := by
  intro _ wf
  have hv := Decode.read_top iv (Wf.mark_top wf)
  refine (decode_of_major01 (w := Decode.wMax iv d a b sc) ?_ ?_).trans ?_ <;>
    simp [hv, Decode.major01, Decode.wMax, BitVec.extractLsb'_or]
theorem minn (iv : BitVec 2) (d a b : BitVec 5) (sc : BitVec 4) : Statement (.minn iv d a b sc) := by
  intro _ wf
  have hv := Decode.read_top iv (Wf.mark_top wf)
  refine (decode_of_major01 (w := Decode.wMinn iv d a b sc) ?_ ?_).trans ?_ <;>
    simp [hv, Decode.major01, Decode.wMinn, BitVec.extractLsb'_or]
theorem maxn (iv : BitVec 2) (d a b : BitVec 5) (sc : BitVec 4) : Statement (.maxn iv d a b sc) := by
  intro _ wf
  have hv := Decode.read_top iv (Wf.mark_top wf)
  refine (decode_of_major01 (w := Decode.wMaxn iv d a b sc) ?_ ?_).trans ?_ <;>
    simp [hv, Decode.major01, Decode.wMaxn, BitVec.extractLsb'_or]
theorem mul (iv : BitVec 2) (d a b : BitVec 5) (sc : BitVec 4) : Statement (.mul iv d a b sc) := by
  intro _ wf
  have hv := Decode.read_top iv (Wf.mark_top wf)
  refine (decode_of_major02 (w := Decode.wMul iv d a b sc) ?_ ?_).trans ?_ <;>
    simp [hv, Decode.major02, Decode.wMul, BitVec.extractLsb'_or]
theorem mulh (iv : BitVec 2) (d a b : BitVec 5) (sc : BitVec 4) : Statement (.mulh iv d a b sc) := by
  intro _ wf
  have hv := Decode.read_top iv (Wf.mark_top wf)
  refine (decode_of_major02 (w := Decode.wMulh iv d a b sc) ?_ ?_).trans ?_ <;>
    simp [hv, Decode.major02, Decode.wMulh, BitVec.extractLsb'_or]
theorem mulhn (iv : BitVec 2) (d a b : BitVec 5) (sc : BitVec 4) : Statement (.mulhn iv d a b sc) := by
  intro _ wf
  have hv := Decode.read_top iv (Wf.mark_top wf)
  refine (decode_of_major02 (w := Decode.wMulhn iv d a b sc) ?_ ?_).trans ?_ <;>
    simp [hv, Decode.major02, Decode.wMulhn, BitVec.extractLsb'_or]
theorem div (iv : BitVec 2) (d a b : BitVec 5) (sc : BitVec 4) : Statement (.div iv d a b sc) := by
  intro _ wf
  have hv := Decode.read_top iv (Wf.ver_top wf)
  refine (decode_of_major02 (w := Decode.wDiv iv d a b sc) ?_ ?_).trans ?_ <;>
    simp [hv, Decode.major02, Decode.wDiv, BitVec.extractLsb'_or]
theorem divn (iv : BitVec 2) (d a b : BitVec 5) (sc : BitVec 4) : Statement (.divn iv d a b sc) := by
  intro _ wf
  have hv := Decode.read_top iv (Wf.ver_top wf)
  refine (decode_of_major02 (w := Decode.wDivn iv d a b sc) ?_ ?_).trans ?_ <;>
    simp [hv, Decode.major02, Decode.wDivn, BitVec.extractLsb'_or]
theorem rem (iv : BitVec 2) (d a b : BitVec 5) (sc : BitVec 4) : Statement (.rem iv d a b sc) := by
  intro _ wf
  have hv := Decode.read_top iv (Wf.ver_top wf)
  refine (decode_of_major02 (w := Decode.wRem iv d a b sc) ?_ ?_).trans ?_ <;>
    simp [hv, Decode.major02, Decode.wRem, BitVec.extractLsb'_or]
theorem remn (iv : BitVec 2) (d a b : BitVec 5) (sc : BitVec 4) : Statement (.remn iv d a b sc) := by
  intro _ wf
  have hv := Decode.read_top iv (Wf.ver_top wf)
  refine (decode_of_major02 (w := Decode.wRemn iv d a b sc) ?_ ?_).trans ?_ <;>
    simp [hv, Decode.major02, Decode.wRemn, BitVec.extractLsb'_or]
theorem clz (iv : BitVec 2) (d a : BitVec 5) (sc : BitVec 4) : Statement (.clz iv d a sc) := by
  intro _ wf
  have hv := Decode.read_top iv (Wf.mark_top wf)
  refine (decode_of_major03 (w := Decode.wClz iv d a sc) ?_ ?_).trans ?_ <;>
    simp [hv, Decode.major03, Decode.wClz, BitVec.extractLsb'_or]
theorem ctz (iv : BitVec 2) (d a : BitVec 5) (sc : BitVec 4) : Statement (.ctz iv d a sc) := by
  intro _ wf
  have hv := Decode.read_top iv (Wf.mark_top wf)
  refine (decode_of_major03 (w := Decode.wCtz iv d a sc) ?_ ?_).trans ?_ <;>
    simp [hv, Decode.major03, Decode.wCtz, BitVec.extractLsb'_or]
theorem popc (iv : BitVec 2) (d a : BitVec 5) (sc : BitVec 4) : Statement (.popc iv d a sc) := by
  intro _ wf
  have hv := Decode.read_top iv (Wf.mark_top wf)
  refine (decode_of_major03 (w := Decode.wPopc iv d a sc) ?_ ?_).trans ?_ <;>
    simp [hv, Decode.major03, Decode.wPopc, BitVec.extractLsb'_or]
theorem bswap (iv : BitVec 2) (d a : BitVec 5) (sc : BitVec 4) : Statement (.bswap iv d a sc) := by
  intro _ wf
  have hv := Decode.read_top iv (Wf.mark_top wf)
  refine (decode_of_major03 (w := Decode.wBswap iv d a sc) ?_ ?_).trans ?_ <;>
    simp [hv, Decode.major03, Decode.wBswap, BitVec.extractLsb'_or]
theorem bfx (iv : BitVec 2) (d a b : BitVec 5) (sc : BitVec 4) : Statement (.bfx iv d a b sc) := by
  intro _ wf
  have hv := Decode.read_top iv (Wf.mark_top wf)
  refine (decode_of_major03 (w := Decode.wBfx iv d a b sc) ?_ ?_).trans ?_ <;>
    simp [hv, Decode.major03, Decode.wBfx, BitVec.extractLsb'_or]
theorem bfi (iv : BitVec 2) (d a b : BitVec 5) (sc : BitVec 4) : Statement (.bfi iv d a b sc) := by
  intro _ wf
  have hv := Decode.read_top iv (Wf.mark_top wf)
  refine (decode_of_major03 (w := Decode.wBfi iv d a b sc) ?_ ?_).trans ?_ <;>
    simp [hv, Decode.major03, Decode.wBfi, BitVec.extractLsb'_or]
theorem sextB (iv : BitVec 2) (d a : BitVec 5) (sc : BitVec 4) : Statement (.sextB iv d a sc) := by
  intro _ wf
  have hv := Decode.read_top iv (Wf.mark_top wf)
  refine (decode_of_major03 (w := Decode.wSextB iv d a sc) ?_ ?_).trans ?_ <;>
    simp [hv, Decode.major03, Decode.wSextB, BitVec.extractLsb'_or]
theorem sextH (iv : BitVec 2) (d a : BitVec 5) (sc : BitVec 4) : Statement (.sextH iv d a sc) := by
  intro _ wf
  have hv := Decode.read_top iv (Wf.mark_top wf)
  refine (decode_of_major03 (w := Decode.wSextH iv d a sc) ?_ ?_).trans ?_ <;>
    simp [hv, Decode.major03, Decode.wSextH, BitVec.extractLsb'_or]
theorem sextW (iv : BitVec 2) (d a : BitVec 5) (sc : BitVec 4) : Statement (.sextW iv d a sc) := by
  intro _ wf
  have hv := Decode.read_top iv (Wf.mark_top wf)
  refine (decode_of_major03 (w := Decode.wSextW iv d a sc) ?_ ?_).trans ?_ <;>
    simp [hv, Decode.major03, Decode.wSextW, BitVec.extractLsb'_or]
theorem zextB (iv : BitVec 2) (d a : BitVec 5) (sc : BitVec 4) : Statement (.zextB iv d a sc) := by
  intro _ wf
  have hv := Decode.read_top iv (Wf.mark_top wf)
  refine (decode_of_major03 (w := Decode.wZextB iv d a sc) ?_ ?_).trans ?_ <;>
    simp [hv, Decode.major03, Decode.wZextB, BitVec.extractLsb'_or]
theorem zextH (iv : BitVec 2) (d a : BitVec 5) (sc : BitVec 4) : Statement (.zextH iv d a sc) := by
  intro _ wf
  have hv := Decode.read_top iv (Wf.mark_top wf)
  refine (decode_of_major03 (w := Decode.wZextH iv d a sc) ?_ ?_).trans ?_ <;>
    simp [hv, Decode.major03, Decode.wZextH, BitVec.extractLsb'_or]
theorem zextW (iv : BitVec 2) (d a : BitVec 5) (sc : BitVec 4) : Statement (.zextW iv d a sc) := by
  intro _ wf
  have hv := Decode.read_top iv (Wf.mark_top wf)
  refine (decode_of_major03 (w := Decode.wZextW iv d a sc) ?_ ?_).trans ?_ <;>
    simp [hv, Decode.major03, Decode.wZextW, BitVec.extractLsb'_or]
theorem cmpEq (iv : BitVec 2) (d a b : BitVec 5) (sc : BitVec 4) : Statement (.cmpEq iv d a b sc) := by
  intro _ wf
  have hv := Decode.read_top iv (Wf.mark_top wf)
  refine (decode_of_major04 (w := Decode.wCmpEq iv d a b sc) ?_ ?_).trans ?_ <;>
    simp [hv, Decode.major04, Decode.wCmpEq, BitVec.extractLsb'_or]
theorem cmpNe (iv : BitVec 2) (d a b : BitVec 5) (sc : BitVec 4) : Statement (.cmpNe iv d a b sc) := by
  intro _ wf
  have hv := Decode.read_top iv (Wf.mark_top wf)
  refine (decode_of_major04 (w := Decode.wCmpNe iv d a b sc) ?_ ?_).trans ?_ <;>
    simp [hv, Decode.major04, Decode.wCmpNe, BitVec.extractLsb'_or]
theorem cmpLt (iv : BitVec 2) (d a b : BitVec 5) (sc : BitVec 4) : Statement (.cmpLt iv d a b sc) := by
  intro _ wf
  have hv := Decode.read_top iv (Wf.mark_top wf)
  refine (decode_of_major04 (w := Decode.wCmpLt iv d a b sc) ?_ ?_).trans ?_ <;>
    simp [hv, Decode.major04, Decode.wCmpLt, BitVec.extractLsb'_or]
theorem cmpLtn (iv : BitVec 2) (d a b : BitVec 5) (sc : BitVec 4) : Statement (.cmpLtn iv d a b sc) := by
  intro _ wf
  have hv := Decode.read_top iv (Wf.mark_top wf)
  refine (decode_of_major04 (w := Decode.wCmpLtn iv d a b sc) ?_ ?_).trans ?_ <;>
    simp [hv, Decode.major04, Decode.wCmpLtn, BitVec.extractLsb'_or]
theorem cmpLe (iv : BitVec 2) (d a b : BitVec 5) (sc : BitVec 4) : Statement (.cmpLe iv d a b sc) := by
  intro _ wf
  have hv := Decode.read_top iv (Wf.mark_top wf)
  refine (decode_of_major04 (w := Decode.wCmpLe iv d a b sc) ?_ ?_).trans ?_ <;>
    simp [hv, Decode.major04, Decode.wCmpLe, BitVec.extractLsb'_or]
theorem cmpLen (iv : BitVec 2) (d a b : BitVec 5) (sc : BitVec 4) : Statement (.cmpLen iv d a b sc) := by
  intro _ wf
  have hv := Decode.read_top iv (Wf.mark_top wf)
  refine (decode_of_major04 (w := Decode.wCmpLen iv d a b sc) ?_ ?_).trans ?_ <;>
    simp [hv, Decode.major04, Decode.wCmpLen, BitVec.extractLsb'_or]
theorem selNz (iv : BitVec 2) (d a b : BitVec 5) (sc : BitVec 4) : Statement (.selNz iv d a b sc) := by
  intro _ wf
  have hv := Decode.read_top iv (Wf.mark_top wf)
  refine (decode_of_major04 (w := Decode.wSelNz iv d a b sc) ?_ ?_).trans ?_ <;>
    simp [hv, Decode.major04, Decode.wSelNz, BitVec.extractLsb'_or]
theorem addi (iv : BitVec 2) (d a : BitVec 5) (i : BitVec 10) (sc : BitVec 4) : Statement (.addi iv d a i sc) := by
  intro _ wf
  have hv := Decode.read_top iv (Wf.mark_top wf)
  refine (decode_of_major05 (w := Decode.wAddi iv d a i sc) ?_ ?_).trans ?_ <;>
    simp [hv, Decode.major05, Decode.wAddi, BitVec.extractLsb'_or]
theorem andi (iv : BitVec 2) (d a : BitVec 5) (i : BitVec 10) (sc : BitVec 4) : Statement (.andi iv d a i sc) := by
  intro _ wf
  have hv := Decode.read_top iv (Wf.mark_top wf)
  refine (decode_of_major06 (w := Decode.wAndi iv d a i sc) ?_ ?_).trans ?_ <;>
    simp [hv, Decode.major06, Decode.wAndi, BitVec.extractLsb'_or]
theorem ori (iv : BitVec 2) (d a : BitVec 5) (i : BitVec 10) (sc : BitVec 4) : Statement (.ori iv d a i sc) := by
  intro _ wf
  have hv := Decode.read_top iv (Wf.mark_top wf)
  refine (decode_of_major07 (w := Decode.wOri iv d a i sc) ?_ ?_).trans ?_ <;>
    simp [hv, Decode.major07, Decode.wOri, BitVec.extractLsb'_or]
theorem xori (iv : BitVec 2) (d a : BitVec 5) (i : BitVec 10) (sc : BitVec 4) : Statement (.xori iv d a i sc) := by
  intro _ wf
  have hv := Decode.read_top iv (Wf.mark_top wf)
  refine (decode_of_major08 (w := Decode.wXori iv d a i sc) ?_ ?_).trans ?_ <;>
    simp [hv, Decode.major08, Decode.wXori, BitVec.extractLsb'_or]
theorem muli (iv : BitVec 2) (d a : BitVec 5) (i : BitVec 10) (sc : BitVec 4) : Statement (.muli iv d a i sc) := by
  intro _ wf
  have hv := Decode.read_top iv (Wf.mark_top wf)
  refine (decode_of_major09 (w := Decode.wMuli iv d a i sc) ?_ ?_).trans ?_ <;>
    simp [hv, Decode.major09, Decode.wMuli, BitVec.extractLsb'_or]
theorem shli (iv : BitVec 2) (d a : BitVec 5) (n : BitVec 6) (sc : BitVec 4) : Statement (.shli iv d a n sc) := by
  intro _ wf
  have hv := Decode.read_top iv (Wf.mark_top wf)
  refine (decode_of_major0A (w := Decode.wShli iv d a n sc) ?_ ?_).trans ?_ <;>
    simp [hv, Decode.major0A, Decode.wShli, BitVec.extractLsb'_or]
theorem shri (iv : BitVec 2) (d a : BitVec 5) (n : BitVec 6) (sc : BitVec 4) : Statement (.shri iv d a n sc) := by
  intro _ wf
  have hv := Decode.read_top iv (Wf.mark_top wf)
  refine (decode_of_major0A (w := Decode.wShri iv d a n sc) ?_ ?_).trans ?_ <;>
    simp [hv, Decode.major0A, Decode.wShri, BitVec.extractLsb'_or]
theorem srai (iv : BitVec 2) (d a : BitVec 5) (n : BitVec 6) (sc : BitVec 4) : Statement (.srai iv d a n sc) := by
  intro _ wf
  have hv := Decode.read_top iv (Wf.mark_top wf)
  refine (decode_of_major0A (w := Decode.wSrai iv d a n sc) ?_ ?_).trans ?_ <;>
    simp [hv, Decode.major0A, Decode.wSrai, BitVec.extractLsb'_or]
theorem roti (iv : BitVec 2) (d a : BitVec 5) (n : BitVec 6) (sc : BitVec 4) : Statement (.roti iv d a n sc) := by
  intro _ wf
  have hv := Decode.read_top iv (Wf.mark_top wf)
  refine (decode_of_major0A (w := Decode.wRoti iv d a n sc) ?_ ?_).trans ?_ <;>
    simp [hv, Decode.major0A, Decode.wRoti, BitVec.extractLsb'_or]
theorem cmpi (iv : BitVec 2) (d a : BitVec 5) (c : BitVec 3) (i : BitVec 7) (sc : BitVec 4) : Statement (.cmpi iv d a c i sc) := by
  intro _ wf
  have hv := Decode.read_top iv (Wf.mark_top wf)
  refine (decode_of_major0B (w := Decode.wCmpi iv d a c i sc) ?_ ?_).trans ?_ <;>
    simp [hv, Decode.major0B, Decode.wCmpi, BitVec.extractLsb'_or]
theorem ldLit (iv : BitVec 2) (d : BitVec 5) (i : BitVec 10) (sc : BitVec 4) : Statement (.ldLit iv d i sc) := by
  intro _ wf
  have hv := Decode.read_top iv (Wf.ver_top wf)
  refine (decode_of_major0C (w := Decode.wLdLit iv d i sc) ?_ ?_).trans ?_ <;>
    simp [hv, Decode.major0C, Decode.wLdLit, BitVec.extractLsb'_or]
theorem movi (iv : BitVec 2) (d : BitVec 5) (i : BitVec 19) : Statement (.movi iv d i) := by
  intro _ wf
  have hv := Decode.read_top iv (Wf.ver_top wf)
  refine (decode_of_major0D (w := Decode.wMovi iv d i) ?_ ?_).trans ?_ <;>
    simp [hv, Decode.major0D, Decode.wMovi, BitVec.extractLsb'_or]
theorem lea (iv : BitVec 2) (d a b : BitVec 5) (sc : BitVec 4) : Statement (.lea iv d a b sc) := by
  intro _ wf
  have hv := Decode.read_top iv (Wf.mark_top wf)
  refine (decode_of_major0F (w := Decode.wLea iv d a b sc) ?_ ?_).trans ?_ <;>
    simp [hv, Decode.major0F, Decode.wLea, BitVec.extractLsb'_or]
theorem xkeySet (iv : BitVec 2) (d a b : BitVec 5) (sc : BitVec 4) : Statement (.xkeySet iv d a b sc) := by
  intro _ wf
  have hv := Decode.read_top iv (Wf.mark_top wf)
  refine (decode_of_major0F (w := Decode.wXkeySet iv d a b sc) ?_ ?_).trans ?_ <;>
    simp [hv, Decode.major0F, Decode.wXkeySet, BitVec.extractLsb'_or]
theorem xkeyGet (iv : BitVec 2) (d a : BitVec 5) (sc : BitVec 4) : Statement (.xkeyGet iv d a sc) := by
  intro _ wf
  have hv := Decode.read_top iv (Wf.mark_top wf)
  refine (decode_of_major0F (w := Decode.wXkeyGet iv d a sc) ?_ ?_).trans ?_ <;>
    simp [hv, Decode.major0F, Decode.wXkeyGet, BitVec.extractLsb'_or]
theorem ld (iv : BitVec 2) (d b : BitVec 5) (o : BitVec 7) (z : BitVec 3) (sc : BitVec 4) : Statement (.ld iv d b o z sc) := by
  intro _ wf
  have hz := Wf.loadSize_ne (Bool.and_eq_true_iff.mp wf).2
  have hv := Decode.read_top iv (Wf.ver_top (Bool.and_eq_true_iff.mp wf).1)
  refine (decode_of_major10 (w := Decode.wLd iv d b o z sc) ?_ ?_).trans ?_ <;>
    simp [hv, Decode.major10, Decode.wLd, BitVec.extractLsb'_or, hz]
theorem st (iv : BitVec 2) (d b : BitVec 5) (o : BitVec 7) (z : BitVec 3) (sc : BitVec 4) : Statement (.st iv d b o z sc) := by
  intro _ wf
  have hz := Wf.storeSize_ne (Bool.and_eq_true_iff.mp wf).2
  have hv := Decode.read_top iv (Wf.mark_top (Bool.and_eq_true_iff.mp wf).1)
  refine (decode_of_major11 (w := Decode.wSt iv d b o z sc) ?_ ?_).trans ?_ <;>
    simp [hv, Decode.major11, Decode.wSt, BitVec.extractLsb'_or, hz]
theorem ldX (iv : BitVec 2) (d b i : BitVec 5) (h : BitVec 2) (z : BitVec 3) (sc : BitVec 4) : Statement (.ldX iv d b i h z sc) := by
  intro _ wf
  have hz := Wf.loadSize_ne (Bool.and_eq_true_iff.mp wf).2
  have hv := Decode.read_top iv (Wf.ver_top (Bool.and_eq_true_iff.mp wf).1)
  refine (decode_of_major12 (w := Decode.wLdX iv d b i h z sc) ?_ ?_).trans ?_ <;>
    simp [hv, Decode.major12, Decode.wLdX, BitVec.extractLsb'_or, hz]
theorem stX (iv : BitVec 2) (d b i : BitVec 5) (h : BitVec 2) (z : BitVec 3) (sc : BitVec 4) : Statement (.stX iv d b i h z sc) := by
  intro _ wf
  have hz := Wf.storeSize_ne (Bool.and_eq_true_iff.mp wf).2
  have hv := Decode.read_top iv (Wf.mark_top (Bool.and_eq_true_iff.mp wf).1)
  refine (decode_of_major13 (w := Decode.wStX iv d b i h z sc) ?_ ?_).trans ?_ <;>
    simp [hv, Decode.major13, Decode.wStX, BitVec.extractLsb'_or, hz]
theorem ldS (iv : BitVec 2) (d b : BitVec 5) (c : BitVec 3) (o : BitVec 2) (z : BitVec 1) (sc : BitVec 4) : Statement (.ldS iv d b c o z sc) := by
  intro _ wf
  have hv := Decode.read_top iv (Wf.ver_top (Bool.and_eq_true_iff.mp (Bool.and_eq_true_iff.mp wf).1).1)
  refine (decode_of_major14 (w := Decode.wLdS iv d b c o z sc) ?_ ?_).trans ?_ <;>
    simp [hv, Decode.major14, Decode.wLdS, BitVec.extractLsb'_or]
theorem stS (iv : BitVec 2) (d b : BitVec 5) (c : BitVec 3) (o : BitVec 2) (z : BitVec 1) (sc : BitVec 4) : Statement (.stS iv d b c o z sc) := by
  intro _ wf
  have hv := Decode.read_top iv (Wf.ver_top (Bool.and_eq_true_iff.mp (Bool.and_eq_true_iff.mp wf).1).1)
  refine (decode_of_major15 (w := Decode.wStS iv d b c o z sc) ?_ ?_).trans ?_ <;>
    simp [hv, Decode.major15, Decode.wStS, BitVec.extractLsb'_or]
theorem amoAdd (iv : BitVec 2) (d a b : BitVec 5) (z : BitVec 1) (sc : BitVec 4) : Statement (.amoAdd iv d a b z sc) := by
  intro _ wf
  have hv := Decode.read_top iv (Wf.ver_top wf)
  refine (decode_of_major16 (w := Decode.wAmoAdd iv d a b z sc) ?_ ?_).trans ?_ <;>
    simp [hv, Decode.major16, Decode.wAmoAdd, BitVec.extractLsb'_or]
theorem amoAnd (iv : BitVec 2) (d a b : BitVec 5) (z : BitVec 1) (sc : BitVec 4) : Statement (.amoAnd iv d a b z sc) := by
  intro _ wf
  have hv := Decode.read_top iv (Wf.ver_top wf)
  refine (decode_of_major16 (w := Decode.wAmoAnd iv d a b z sc) ?_ ?_).trans ?_ <;>
    simp [hv, Decode.major16, Decode.wAmoAnd, BitVec.extractLsb'_or]
theorem amoOr (iv : BitVec 2) (d a b : BitVec 5) (z : BitVec 1) (sc : BitVec 4) : Statement (.amoOr iv d a b z sc) := by
  intro _ wf
  have hv := Decode.read_top iv (Wf.ver_top wf)
  refine (decode_of_major16 (w := Decode.wAmoOr iv d a b z sc) ?_ ?_).trans ?_ <;>
    simp [hv, Decode.major16, Decode.wAmoOr, BitVec.extractLsb'_or]
theorem amoXor (iv : BitVec 2) (d a b : BitVec 5) (z : BitVec 1) (sc : BitVec 4) : Statement (.amoXor iv d a b z sc) := by
  intro _ wf
  have hv := Decode.read_top iv (Wf.ver_top wf)
  refine (decode_of_major16 (w := Decode.wAmoXor iv d a b z sc) ?_ ?_).trans ?_ <;>
    simp [hv, Decode.major16, Decode.wAmoXor, BitVec.extractLsb'_or]
theorem amoMin (iv : BitVec 2) (d a b : BitVec 5) (z : BitVec 1) (sc : BitVec 4) : Statement (.amoMin iv d a b z sc) := by
  intro _ wf
  have hv := Decode.read_top iv (Wf.ver_top wf)
  refine (decode_of_major16 (w := Decode.wAmoMin iv d a b z sc) ?_ ?_).trans ?_ <;>
    simp [hv, Decode.major16, Decode.wAmoMin, BitVec.extractLsb'_or]
theorem amoMax (iv : BitVec 2) (d a b : BitVec 5) (z : BitVec 1) (sc : BitVec 4) : Statement (.amoMax iv d a b z sc) := by
  intro _ wf
  have hv := Decode.read_top iv (Wf.ver_top wf)
  refine (decode_of_major16 (w := Decode.wAmoMax iv d a b z sc) ?_ ?_).trans ?_ <;>
    simp [hv, Decode.major16, Decode.wAmoMax, BitVec.extractLsb'_or]
theorem amoMinn (iv : BitVec 2) (d a b : BitVec 5) (z : BitVec 1) (sc : BitVec 4) : Statement (.amoMinn iv d a b z sc) := by
  intro _ wf
  have hv := Decode.read_top iv (Wf.ver_top wf)
  refine (decode_of_major16 (w := Decode.wAmoMinn iv d a b z sc) ?_ ?_).trans ?_ <;>
    simp [hv, Decode.major16, Decode.wAmoMinn, BitVec.extractLsb'_or]
theorem amoMaxn (iv : BitVec 2) (d a b : BitVec 5) (z : BitVec 1) (sc : BitVec 4) : Statement (.amoMaxn iv d a b z sc) := by
  intro _ wf
  have hv := Decode.read_top iv (Wf.ver_top wf)
  refine (decode_of_major16 (w := Decode.wAmoMaxn iv d a b z sc) ?_ ?_).trans ?_ <;>
    simp [hv, Decode.major16, Decode.wAmoMaxn, BitVec.extractLsb'_or]
theorem amoSwap (iv : BitVec 2) (d a b : BitVec 5) (z : BitVec 1) (sc : BitVec 4) : Statement (.amoSwap iv d a b z sc) := by
  intro _ wf
  have hv := Decode.read_top iv (Wf.ver_top wf)
  refine (decode_of_major16 (w := Decode.wAmoSwap iv d a b z sc) ?_ ?_).trans ?_ <;>
    simp [hv, Decode.major16, Decode.wAmoSwap, BitVec.extractLsb'_or]
theorem amoFadd (iv : BitVec 2) (d a b : BitVec 5) (sc : BitVec 4) : Statement (.amoFadd iv d a b sc) := by
  intro _ wf
  have hv := Decode.read_top iv (Wf.ver_top wf)
  refine (decode_of_major16 (w := Decode.wAmoFadd iv d a b sc) ?_ ?_).trans ?_ <;>
    simp [hv, Decode.major16, Decode.wAmoFadd, BitVec.extractLsb'_or]
theorem cas (iv : BitVec 2) (d a b : BitVec 5) (z : BitVec 1) (sc : BitVec 4) : Statement (.cas iv d a b z sc) := by
  intro _ wf
  have hv := Decode.read_top iv (Wf.ver_top wf)
  refine (decode_of_major17 (w := Decode.wCas iv d a b z sc) ?_ ?_).trans ?_ <;>
    simp [hv, Decode.major17, Decode.wCas, BitVec.extractLsb'_or]
theorem waita (iv : BitVec 2) (d a b : BitVec 5) (sc : BitVec 4) : Statement (.waita iv d a b sc) := by
  intro _ wf
  have hv := Decode.read_top iv (Wf.mark_top wf)
  refine (decode_of_major18 (w := Decode.wWaita iv d a b sc) ?_ ?_).trans ?_ <;>
    simp [hv, Decode.major18, Decode.wWaita, BitVec.extractLsb'_or]
theorem wake (iv : BitVec 2) (a : BitVec 5) (sc : BitVec 4) : Statement (.wake iv a sc) := by
  intro _ wf
  have hv := Decode.read_top iv (Wf.mark_top wf)
  refine (decode_of_major18 (w := Decode.wWake iv a sc) ?_ ?_).trans ?_ <;>
    simp [hv, Decode.major18, Decode.wWake, BitVec.extractLsb'_or]
theorem phase (iv : BitVec 2) (c : BitVec 5) (sc : BitVec 4) : Statement (.phase iv c sc) := by
  intro _ wf
  have hv := Decode.read_top iv (Wf.mark_top (Bool.and_eq_true_iff.mp wf).1)
  refine (decode_of_major19 (w := Decode.wPhase iv c sc) ?_ ?_).trans ?_ <;>
    simp [hv, Decode.major19, Decode.wPhase, BitVec.extractLsb'_or]
theorem fenceX (iv : BitVec 2) (sc : BitVec 4) : Statement (.fenceX iv sc) := by
  intro _ wf
  have hv := Decode.read_top iv (Wf.mark_top wf)
  refine (decode_of_major19 (w := Decode.wFenceX iv sc) ?_ ?_).trans ?_ <;>
    simp [hv, Decode.major19, Decode.wFenceX, BitVec.extractLsb'_or]
theorem fenceR (iv : BitVec 2) (a : BitVec 5) (sc : BitVec 4) : Statement (.fenceR iv a sc) := by
  intro _ wf
  have hv := Decode.read_top iv (Wf.mark_top wf)
  refine (decode_of_major19 (w := Decode.wFenceR iv a sc) ?_ ?_).trans ?_ <;>
    simp [hv, Decode.major19, Decode.wFenceR, BitVec.extractLsb'_or]
theorem fenceA (iv : BitVec 2) (a : BitVec 5) (sc : BitVec 4) : Statement (.fenceA iv a sc) := by
  intro _ wf
  have hv := Decode.read_top iv (Wf.mark_top wf)
  refine (decode_of_major19 (w := Decode.wFenceA iv a sc) ?_ ?_).trans ?_ <;>
    simp [hv, Decode.major19, Decode.wFenceA, BitVec.extractLsb'_or]
theorem qfence (iv : BitVec 2) (a : BitVec 5) (sc : BitVec 4) : Statement (.qfence iv a sc) := by
  intro _ wf
  have hv := Decode.read_top iv (Wf.mark_top wf)
  refine (decode_of_major19 (w := Decode.wQfence iv a sc) ?_ ?_).trans ?_ <;>
    simp [hv, Decode.major19, Decode.wQfence, BitVec.extractLsb'_or]
theorem ifence (iv : BitVec 2) (sc : BitVec 4) : Statement (.ifence iv sc) := by
  intro _ wf
  have hv := Decode.read_top iv (Wf.mark_top wf)
  refine (decode_of_major19 (w := Decode.wIfence iv sc) ?_ ?_).trans ?_ <;>
    simp [hv, Decode.major19, Decode.wIfence, BitVec.extractLsb'_or]
theorem tagSet (iv : BitVec 2) (a b : BitVec 5) (sc : BitVec 4) : Statement (.tagSet iv a b sc) := by
  intro _ wf
  have hv := Decode.read_top iv (Wf.mark_top wf)
  refine (decode_of_major1A (w := Decode.wTagSet iv a b sc) ?_ ?_).trans ?_ <;>
    simp [hv, Decode.major1A, Decode.wTagSet, BitVec.extractLsb'_or]
theorem tagGet (iv : BitVec 2) (d a : BitVec 5) (sc : BitVec 4) : Statement (.tagGet iv d a sc) := by
  intro _ wf
  have hv := Decode.read_top iv (Wf.ver_top wf)
  refine (decode_of_major1A (w := Decode.wTagGet iv d a sc) ?_ ?_).trans ?_ <;>
    simp [hv, Decode.major1A, Decode.wTagGet, BitVec.extractLsb'_or]
theorem xreq (iv : BitVec 2) (d a b : BitVec 5) (sc : BitVec 4) : Statement (.xreq iv d a b sc) := by
  intro _ wf
  have hv := Decode.read_top iv (Wf.mark_top wf)
  refine (decode_of_major1A (w := Decode.wXreq iv d a b sc) ?_ ?_).trans ?_ <;>
    simp [hv, Decode.major1A, Decode.wXreq, BitVec.extractLsb'_or]
theorem xrel (iv : BitVec 2) (a : BitVec 5) (sc : BitVec 4) : Statement (.xrel iv a sc) := by
  intro _ wf
  have hv := Decode.read_top iv (Wf.mark_top wf)
  refine (decode_of_major1A (w := Decode.wXrel iv a sc) ?_ ?_).trans ?_ <;>
    simp [hv, Decode.major1A, Decode.wXrel, BitVec.extractLsb'_or]
theorem stF (iv : BitVec 2) (d a b : BitVec 5) (z : BitVec 1) (sc : BitVec 4) : Statement (.stF iv d a b z sc) := by
  intro _ wf
  have hv := Decode.read_top iv (Wf.mark_top wf)
  refine (decode_of_major1B (w := Decode.wStF iv d a b z sc) ?_ ?_).trans ?_ <;>
    simp [hv, Decode.major1B, Decode.wStF, BitVec.extractLsb'_or]
theorem bc (iv : BitVec 2) (a : BitVec 5) (c : BitVec 3) (o : BitVec 16) : Statement (.bc iv a c o) := by
  intro _ wf
  have hc : c.toNat < 6 := by simpa using (Bool.and_eq_true_iff.mp wf).2
  have hv := Decode.read_top iv (Wf.ver_top (Bool.and_eq_true_iff.mp wf).1)
  refine (decode_of_major1C (w := Decode.wBc iv a c o) ?_ ?_).trans ?_ <;>
    simp [hv, Decode.major1C, Decode.wBc, BitVec.extractLsb'_or]
  split <;> first | rfl | omega
theorem dbnz (iv : BitVec 2) (a : BitVec 5) (o : BitVec 16) : Statement (.dbnz iv a o) := by
  intro _ wf
  have hv := Decode.read_top iv (Wf.ver_top wf)
  refine (decode_of_major1C (w := Decode.wDbnz iv a o) ?_ ?_).trans ?_ <;>
    simp [hv, Decode.major1C, Decode.wDbnz, BitVec.extractLsb'_or]
theorem b (iv : BitVec 2) (o : BitVec 24) : Statement (.b iv o) := by
  intro _ wf
  have hv := Decode.read_top iv (Wf.ver_top wf)
  refine (decode_of_major1D (w := Decode.wB iv o) ?_ ?_).trans ?_ <;>
    simp [hv, Decode.major1D, Decode.wB, BitVec.extractLsb'_or]
theorem call (iv : BitVec 2) (o : BitVec 24) : Statement (.call iv o) := by
  intro _ wf
  have hv := Decode.read_top iv (Wf.ver_top wf)
  refine (decode_of_major1E (w := Decode.wCall iv o) ?_ ?_).trans ?_ <;>
    simp [hv, Decode.major1E, Decode.wCall, BitVec.extractLsb'_or]
theorem jr (iv : BitVec 2) (a : BitVec 5) (sc : BitVec 4) : Statement (.jr iv a sc) := by
  intro _ wf
  have hv := Decode.read_top iv (Wf.mark_top wf)
  refine (decode_of_major1F (w := Decode.wJr iv a sc) ?_ ?_).trans ?_ <;>
    simp [hv, Decode.major1F, Decode.wJr, BitVec.extractLsb'_or]
theorem jrl (iv : BitVec 2) (a : BitVec 5) (sc : BitVec 4) : Statement (.jrl iv a sc) := by
  intro _ wf
  have hv := Decode.read_top iv (Wf.mark_top wf)
  refine (decode_of_major1F (w := Decode.wJrl iv a sc) ?_ ?_).trans ?_ <;>
    simp [hv, Decode.major1F, Decode.wJrl, BitVec.extractLsb'_or]
theorem ret (iv : BitVec 2) (sc : BitVec 4) : Statement (.ret iv sc) := by
  intro _ wf
  have hv := Decode.read_top iv (Wf.mark_top wf)
  refine (decode_of_major1F (w := Decode.wRet iv sc) ?_ ?_).trans ?_ <;>
    simp [hv, Decode.major1F, Decode.wRet, BitVec.extractLsb'_or]
theorem vadd (iv : BitVec 2) (d a b : BitVec 4) (k : BitVec 3) (sc : BitVec 4) : Statement (.vadd iv d a b k sc) := by
  intro _ wf
  have hv := Decode.read_top iv (Wf.mark_top wf)
  refine (decode_of_major20 (w := Decode.wVadd iv d a b k sc) ?_ ?_).trans ?_ <;>
    simp [hv, Decode.major20, Decode.wVadd, BitVec.extractLsb'_or]
theorem vaddN (iv : BitVec 2) (d a b : BitVec 4) (k : BitVec 3) (sc : BitVec 4) : Statement (.vaddN iv d a b k sc) := by
  intro _ wf
  have hv := Decode.read_top iv (Wf.mark_top wf)
  refine (decode_of_major20 (w := Decode.wVaddN iv d a b k sc) ?_ ?_).trans ?_ <;>
    simp [hv, Decode.major20, Decode.wVaddN, BitVec.extractLsb'_or]
theorem vsub (iv : BitVec 2) (d a b : BitVec 4) (k : BitVec 3) (sc : BitVec 4) : Statement (.vsub iv d a b k sc) := by
  intro _ wf
  have hv := Decode.read_top iv (Wf.mark_top wf)
  refine (decode_of_major20 (w := Decode.wVsub iv d a b k sc) ?_ ?_).trans ?_ <;>
    simp [hv, Decode.major20, Decode.wVsub, BitVec.extractLsb'_or]
theorem vsubN (iv : BitVec 2) (d a b : BitVec 4) (k : BitVec 3) (sc : BitVec 4) : Statement (.vsubN iv d a b k sc) := by
  intro _ wf
  have hv := Decode.read_top iv (Wf.mark_top wf)
  refine (decode_of_major20 (w := Decode.wVsubN iv d a b k sc) ?_ ?_).trans ?_ <;>
    simp [hv, Decode.major20, Decode.wVsubN, BitVec.extractLsb'_or]
theorem vmul (iv : BitVec 2) (d a b : BitVec 4) (k : BitVec 3) (sc : BitVec 4) : Statement (.vmul iv d a b k sc) := by
  intro _ wf
  have hv := Decode.read_top iv (Wf.mark_top wf)
  refine (decode_of_major20 (w := Decode.wVmul iv d a b k sc) ?_ ?_).trans ?_ <;>
    simp [hv, Decode.major20, Decode.wVmul, BitVec.extractLsb'_or]
theorem vmulN (iv : BitVec 2) (d a b : BitVec 4) (k : BitVec 3) (sc : BitVec 4) : Statement (.vmulN iv d a b k sc) := by
  intro _ wf
  have hv := Decode.read_top iv (Wf.mark_top wf)
  refine (decode_of_major20 (w := Decode.wVmulN iv d a b k sc) ?_ ?_).trans ?_ <;>
    simp [hv, Decode.major20, Decode.wVmulN, BitVec.extractLsb'_or]
theorem vfma (iv : BitVec 2) (d a b : BitVec 4) (k : BitVec 3) (sc : BitVec 4) : Statement (.vfma iv d a b k sc) := by
  intro _ wf
  have hv := Decode.read_top iv (Wf.mark_top wf)
  refine (decode_of_major20 (w := Decode.wVfma iv d a b k sc) ?_ ?_).trans ?_ <;>
    simp [hv, Decode.major20, Decode.wVfma, BitVec.extractLsb'_or]
theorem vfms (iv : BitVec 2) (d a b : BitVec 4) (k : BitVec 3) (sc : BitVec 4) : Statement (.vfms iv d a b k sc) := by
  intro _ wf
  have hv := Decode.read_top iv (Wf.mark_top wf)
  refine (decode_of_major20 (w := Decode.wVfms iv d a b k sc) ?_ ?_).trans ?_ <;>
    simp [hv, Decode.major20, Decode.wVfms, BitVec.extractLsb'_or]
theorem vmin (iv : BitVec 2) (d a b : BitVec 4) (k : BitVec 3) (sc : BitVec 4) : Statement (.vmin iv d a b k sc) := by
  intro _ wf
  have hv := Decode.read_top iv (Wf.mark_top wf)
  refine (decode_of_major20 (w := Decode.wVmin iv d a b k sc) ?_ ?_).trans ?_ <;>
    simp [hv, Decode.major20, Decode.wVmin, BitVec.extractLsb'_or]
theorem vminN (iv : BitVec 2) (d a b : BitVec 4) (k : BitVec 3) (sc : BitVec 4) : Statement (.vminN iv d a b k sc) := by
  intro _ wf
  have hv := Decode.read_top iv (Wf.mark_top wf)
  refine (decode_of_major20 (w := Decode.wVminN iv d a b k sc) ?_ ?_).trans ?_ <;>
    simp [hv, Decode.major20, Decode.wVminN, BitVec.extractLsb'_or]
theorem vmax (iv : BitVec 2) (d a b : BitVec 4) (k : BitVec 3) (sc : BitVec 4) : Statement (.vmax iv d a b k sc) := by
  intro _ wf
  have hv := Decode.read_top iv (Wf.mark_top wf)
  refine (decode_of_major20 (w := Decode.wVmax iv d a b k sc) ?_ ?_).trans ?_ <;>
    simp [hv, Decode.major20, Decode.wVmax, BitVec.extractLsb'_or]
theorem vmaxN (iv : BitVec 2) (d a b : BitVec 4) (k : BitVec 3) (sc : BitVec 4) : Statement (.vmaxN iv d a b k sc) := by
  intro _ wf
  have hv := Decode.read_top iv (Wf.mark_top wf)
  refine (decode_of_major20 (w := Decode.wVmaxN iv d a b k sc) ?_ ?_).trans ?_ <;>
    simp [hv, Decode.major20, Decode.wVmaxN, BitVec.extractLsb'_or]
theorem vabs (iv : BitVec 2) (d a : BitVec 4) (k : BitVec 3) (sc : BitVec 4) : Statement (.vabs iv d a k sc) := by
  intro _ wf
  have hv := Decode.read_top iv (Wf.mark_top wf)
  refine (decode_of_major20 (w := Decode.wVabs iv d a k sc) ?_ ?_).trans ?_ <;>
    simp [hv, Decode.major20, Decode.wVabs, BitVec.extractLsb'_or]
theorem vneg (iv : BitVec 2) (d a : BitVec 4) (k : BitVec 3) (sc : BitVec 4) : Statement (.vneg iv d a k sc) := by
  intro _ wf
  have hv := Decode.read_top iv (Wf.mark_top wf)
  refine (decode_of_major20 (w := Decode.wVneg iv d a k sc) ?_ ?_).trans ?_ <;>
    simp [hv, Decode.major20, Decode.wVneg, BitVec.extractLsb'_or]
theorem vand (iv : BitVec 2) (d a b : BitVec 4) (k : BitVec 3) (sc : BitVec 4) : Statement (.vand iv d a b k sc) := by
  intro _ wf
  have hv := Decode.read_top iv (Wf.mark_top wf)
  refine (decode_of_major20 (w := Decode.wVand iv d a b k sc) ?_ ?_).trans ?_ <;>
    simp [hv, Decode.major20, Decode.wVand, BitVec.extractLsb'_or]
theorem vor (iv : BitVec 2) (d a b : BitVec 4) (k : BitVec 3) (sc : BitVec 4) : Statement (.vor iv d a b k sc) := by
  intro _ wf
  have hv := Decode.read_top iv (Wf.mark_top wf)
  refine (decode_of_major20 (w := Decode.wVor iv d a b k sc) ?_ ?_).trans ?_ <;>
    simp [hv, Decode.major20, Decode.wVor, BitVec.extractLsb'_or]
theorem vxor (iv : BitVec 2) (d a b : BitVec 4) (k : BitVec 3) (sc : BitVec 4) : Statement (.vxor iv d a b k sc) := by
  intro _ wf
  have hv := Decode.read_top iv (Wf.mark_top wf)
  refine (decode_of_major20 (w := Decode.wVxor iv d a b k sc) ?_ ?_).trans ?_ <;>
    simp [hv, Decode.major20, Decode.wVxor, BitVec.extractLsb'_or]
theorem vandn (iv : BitVec 2) (d a b : BitVec 4) (k : BitVec 3) (sc : BitVec 4) : Statement (.vandn iv d a b k sc) := by
  intro _ wf
  have hv := Decode.read_top iv (Wf.mark_top wf)
  refine (decode_of_major20 (w := Decode.wVandn iv d a b k sc) ?_ ?_).trans ?_ <;>
    simp [hv, Decode.major20, Decode.wVandn, BitVec.extractLsb'_or]
theorem vshl (iv : BitVec 2) (d a b : BitVec 4) (k : BitVec 3) (sc : BitVec 4) : Statement (.vshl iv d a b k sc) := by
  intro _ wf
  have hv := Decode.read_top iv (Wf.mark_top wf)
  refine (decode_of_major20 (w := Decode.wVshl iv d a b k sc) ?_ ?_).trans ?_ <;>
    simp [hv, Decode.major20, Decode.wVshl, BitVec.extractLsb'_or]
theorem vshr (iv : BitVec 2) (d a b : BitVec 4) (k : BitVec 3) (sc : BitVec 4) : Statement (.vshr iv d a b k sc) := by
  intro _ wf
  have hv := Decode.read_top iv (Wf.mark_top wf)
  refine (decode_of_major20 (w := Decode.wVshr iv d a b k sc) ?_ ?_).trans ?_ <;>
    simp [hv, Decode.major20, Decode.wVshr, BitVec.extractLsb'_or]
theorem vsra (iv : BitVec 2) (d a b : BitVec 4) (k : BitVec 3) (sc : BitVec 4) : Statement (.vsra iv d a b k sc) := by
  intro _ wf
  have hv := Decode.read_top iv (Wf.mark_top wf)
  refine (decode_of_major20 (w := Decode.wVsra iv d a b k sc) ?_ ?_).trans ?_ <;>
    simp [hv, Decode.major20, Decode.wVsra, BitVec.extractLsb'_or]
theorem vavg (iv : BitVec 2) (d a b : BitVec 4) (k : BitVec 3) (sc : BitVec 4) : Statement (.vavg iv d a b k sc) := by
  intro _ wf
  have hv := Decode.read_top iv (Wf.mark_top wf)
  refine (decode_of_major20 (w := Decode.wVavg iv d a b k sc) ?_ ?_).trans ?_ <;>
    simp [hv, Decode.major20, Decode.wVavg, BitVec.extractLsb'_or]
theorem vavgN (iv : BitVec 2) (d a b : BitVec 4) (k : BitVec 3) (sc : BitVec 4) : Statement (.vavgN iv d a b k sc) := by
  intro _ wf
  have hv := Decode.read_top iv (Wf.mark_top wf)
  refine (decode_of_major20 (w := Decode.wVavgN iv d a b k sc) ?_ ?_).trans ?_ <;>
    simp [hv, Decode.major20, Decode.wVavgN, BitVec.extractLsb'_or]
theorem vcmpEq (iv : BitVec 2) (d : BitVec 3) (a b : BitVec 4) (k : BitVec 3) (sc : BitVec 4) : Statement (.vcmpEq iv d a b k sc) := by
  intro _ wf
  have hv := Decode.read_top iv (Wf.mark_top wf)
  refine (decode_of_major21 (w := Decode.wVcmpEq iv d a b k sc) ?_ ?_).trans ?_ <;>
    simp [hv, Decode.major21, Decode.wVcmpEq, BitVec.extractLsb'_or]
theorem vcmpNe (iv : BitVec 2) (d : BitVec 3) (a b : BitVec 4) (k : BitVec 3) (sc : BitVec 4) : Statement (.vcmpNe iv d a b k sc) := by
  intro _ wf
  have hv := Decode.read_top iv (Wf.mark_top wf)
  refine (decode_of_major21 (w := Decode.wVcmpNe iv d a b k sc) ?_ ?_).trans ?_ <;>
    simp [hv, Decode.major21, Decode.wVcmpNe, BitVec.extractLsb'_or]
theorem vcmpLt (iv : BitVec 2) (d : BitVec 3) (a b : BitVec 4) (k : BitVec 3) (sc : BitVec 4) : Statement (.vcmpLt iv d a b k sc) := by
  intro _ wf
  have hv := Decode.read_top iv (Wf.mark_top wf)
  refine (decode_of_major21 (w := Decode.wVcmpLt iv d a b k sc) ?_ ?_).trans ?_ <;>
    simp [hv, Decode.major21, Decode.wVcmpLt, BitVec.extractLsb'_or]
theorem vcmpLtN (iv : BitVec 2) (d : BitVec 3) (a b : BitVec 4) (k : BitVec 3) (sc : BitVec 4) : Statement (.vcmpLtN iv d a b k sc) := by
  intro _ wf
  have hv := Decode.read_top iv (Wf.mark_top wf)
  refine (decode_of_major21 (w := Decode.wVcmpLtN iv d a b k sc) ?_ ?_).trans ?_ <;>
    simp [hv, Decode.major21, Decode.wVcmpLtN, BitVec.extractLsb'_or]
theorem vcmpLe (iv : BitVec 2) (d : BitVec 3) (a b : BitVec 4) (k : BitVec 3) (sc : BitVec 4) : Statement (.vcmpLe iv d a b k sc) := by
  intro _ wf
  have hv := Decode.read_top iv (Wf.mark_top wf)
  refine (decode_of_major21 (w := Decode.wVcmpLe iv d a b k sc) ?_ ?_).trans ?_ <;>
    simp [hv, Decode.major21, Decode.wVcmpLe, BitVec.extractLsb'_or]
theorem vcmpLeN (iv : BitVec 2) (d : BitVec 3) (a b : BitVec 4) (k : BitVec 3) (sc : BitVec 4) : Statement (.vcmpLeN iv d a b k sc) := by
  intro _ wf
  have hv := Decode.read_top iv (Wf.mark_top wf)
  refine (decode_of_major21 (w := Decode.wVcmpLeN iv d a b k sc) ?_ ?_).trans ?_ <;>
    simp [hv, Decode.major21, Decode.wVcmpLeN, BitVec.extractLsb'_or]
theorem vcmpUnord (iv : BitVec 2) (d : BitVec 3) (a b : BitVec 4) (k : BitVec 3) (sc : BitVec 4) : Statement (.vcmpUnord iv d a b k sc) := by
  intro _ wf
  have hv := Decode.read_top iv (Wf.mark_top wf)
  refine (decode_of_major21 (w := Decode.wVcmpUnord iv d a b k sc) ?_ ?_).trans ?_ <;>
    simp [hv, Decode.major21, Decode.wVcmpUnord, BitVec.extractLsb'_or]
theorem vsel (iv : BitVec 2) (d a b : BitVec 4) (k : BitVec 3) (sc : BitVec 4) : Statement (.vsel iv d a b k sc) := by
  intro _ wf
  have hv := Decode.read_top iv (Wf.mark_top wf)
  refine (decode_of_major22 (w := Decode.wVsel iv d a b k sc) ?_ ?_).trans ?_ <;>
    simp [hv, Decode.major22, Decode.wVsel, BitVec.extractLsb'_or]
theorem vperm (iv : BitVec 2) (d a b : BitVec 4) (k : BitVec 3) (sc : BitVec 4) : Statement (.vperm iv d a b k sc) := by
  intro _ wf
  have hv := Decode.read_top iv (Wf.mark_top wf)
  refine (decode_of_major22 (w := Decode.wVperm iv d a b k sc) ?_ ?_).trans ?_ <;>
    simp [hv, Decode.major22, Decode.wVperm, BitVec.extractLsb'_or]
theorem vtrn (iv : BitVec 2) (d a : BitVec 4) (k : BitVec 3) (sc : BitVec 4) : Statement (.vtrn iv d a k sc) := by
  intro _ wf
  have hv := Decode.read_top iv (Wf.mark_top wf)
  refine (decode_of_major22 (w := Decode.wVtrn iv d a k sc) ?_ ?_).trans ?_ <;>
    simp [hv, Decode.major22, Decode.wVtrn, BitVec.extractLsb'_or]
theorem vrowb (iv : BitVec 2) (d a n : BitVec 4) (k : BitVec 3) (sc : BitVec 4) : Statement (.vrowb iv d a n k sc) := by
  intro _ wf
  have hv := Decode.read_top iv (Wf.mark_top wf)
  refine (decode_of_major22 (w := Decode.wVrowb iv d a n k sc) ?_ ?_).trans ?_ <;>
    simp [hv, Decode.major22, Decode.wVrowb, BitVec.extractLsb'_or]
theorem vcolb (iv : BitVec 2) (d a n : BitVec 4) (k : BitVec 3) (sc : BitVec 4) : Statement (.vcolb iv d a n k sc) := by
  intro _ wf
  have hv := Decode.read_top iv (Wf.mark_top wf)
  refine (decode_of_major22 (w := Decode.wVcolb iv d a n k sc) ?_ ?_).trans ?_ <;>
    simp [hv, Decode.major22, Decode.wVcolb, BitVec.extractLsb'_or]
theorem vslide (iv : BitVec 2) (d a n : BitVec 4) (k : BitVec 3) (sc : BitVec 4) : Statement (.vslide iv d a n k sc) := by
  intro _ wf
  have hv := Decode.read_top iv (Wf.mark_top wf)
  refine (decode_of_major22 (w := Decode.wVslide iv d a n k sc) ?_ ?_).trans ?_ <;>
    simp [hv, Decode.major22, Decode.wVslide, BitVec.extractLsb'_or]
theorem vredAddAll (iv : BitVec 2) (a : BitVec 4) (g : BitVec 5) (k : BitVec 3) (sc : BitVec 4) : Statement (.vredAddAll iv a g k sc) := by
  intro _ wf
  have hv := Decode.read_top iv (Wf.mark_top wf)
  refine (decode_of_major23 (w := Decode.wVredAddAll iv a g k sc) ?_ ?_).trans ?_ <;>
    simp [hv, Decode.major23, Decode.wVredAddAll, BitVec.extractLsb'_or]
theorem vredMinAll (iv : BitVec 2) (a : BitVec 4) (g : BitVec 5) (k : BitVec 3) (sc : BitVec 4) : Statement (.vredMinAll iv a g k sc) := by
  intro _ wf
  have hv := Decode.read_top iv (Wf.mark_top wf)
  refine (decode_of_major23 (w := Decode.wVredMinAll iv a g k sc) ?_ ?_).trans ?_ <;>
    simp [hv, Decode.major23, Decode.wVredMinAll, BitVec.extractLsb'_or]
theorem vredMaxAll (iv : BitVec 2) (a : BitVec 4) (g : BitVec 5) (k : BitVec 3) (sc : BitVec 4) : Statement (.vredMaxAll iv a g k sc) := by
  intro _ wf
  have hv := Decode.read_top iv (Wf.mark_top wf)
  refine (decode_of_major23 (w := Decode.wVredMaxAll iv a g k sc) ?_ ?_).trans ?_ <;>
    simp [hv, Decode.major23, Decode.wVredMaxAll, BitVec.extractLsb'_or]
theorem vredAndAll (iv : BitVec 2) (a : BitVec 4) (g : BitVec 5) (k : BitVec 3) (sc : BitVec 4) : Statement (.vredAndAll iv a g k sc) := by
  intro _ wf
  have hv := Decode.read_top iv (Wf.mark_top wf)
  refine (decode_of_major23 (w := Decode.wVredAndAll iv a g k sc) ?_ ?_).trans ?_ <;>
    simp [hv, Decode.major23, Decode.wVredAndAll, BitVec.extractLsb'_or]
theorem vredOrAll (iv : BitVec 2) (a : BitVec 4) (g : BitVec 5) (k : BitVec 3) (sc : BitVec 4) : Statement (.vredOrAll iv a g k sc) := by
  intro _ wf
  have hv := Decode.read_top iv (Wf.mark_top wf)
  refine (decode_of_major23 (w := Decode.wVredOrAll iv a g k sc) ?_ ?_).trans ?_ <;>
    simp [hv, Decode.major23, Decode.wVredOrAll, BitVec.extractLsb'_or]
theorem vredAmaxAll (iv : BitVec 2) (a : BitVec 4) (g : BitVec 5) (k : BitVec 3) (sc : BitVec 4) : Statement (.vredAmaxAll iv a g k sc) := by
  intro _ wf
  have hv := Decode.read_top iv (Wf.mark_top wf)
  refine (decode_of_major23 (w := Decode.wVredAmaxAll iv a g k sc) ?_ ?_).trans ?_ <;>
    simp [hv, Decode.major23, Decode.wVredAmaxAll, BitVec.extractLsb'_or]
theorem vredMinNAll (iv : BitVec 2) (a : BitVec 4) (g : BitVec 5) (k : BitVec 3) (sc : BitVec 4) : Statement (.vredMinNAll iv a g k sc) := by
  intro _ wf
  have hv := Decode.read_top iv (Wf.mark_top wf)
  refine (decode_of_major23 (w := Decode.wVredMinNAll iv a g k sc) ?_ ?_).trans ?_ <;>
    simp [hv, Decode.major23, Decode.wVredMinNAll, BitVec.extractLsb'_or]
theorem vredMaxNAll (iv : BitVec 2) (a : BitVec 4) (g : BitVec 5) (k : BitVec 3) (sc : BitVec 4) : Statement (.vredMaxNAll iv a g k sc) := by
  intro _ wf
  have hv := Decode.read_top iv (Wf.mark_top wf)
  refine (decode_of_major23 (w := Decode.wVredMaxNAll iv a g k sc) ?_ ?_).trans ?_ <;>
    simp [hv, Decode.major23, Decode.wVredMaxNAll, BitVec.extractLsb'_or]
theorem vredAddRow (iv : BitVec 2) (d a : BitVec 4) (k : BitVec 3) (sc : BitVec 4) : Statement (.vredAddRow iv d a k sc) := by
  intro _ wf
  have hv := Decode.read_top iv (Wf.mark_top wf)
  refine (decode_of_major23 (w := Decode.wVredAddRow iv d a k sc) ?_ ?_).trans ?_ <;>
    simp [hv, Decode.major23, Decode.wVredAddRow, BitVec.extractLsb'_or]
theorem vredMinRow (iv : BitVec 2) (d a : BitVec 4) (k : BitVec 3) (sc : BitVec 4) : Statement (.vredMinRow iv d a k sc) := by
  intro _ wf
  have hv := Decode.read_top iv (Wf.mark_top wf)
  refine (decode_of_major23 (w := Decode.wVredMinRow iv d a k sc) ?_ ?_).trans ?_ <;>
    simp [hv, Decode.major23, Decode.wVredMinRow, BitVec.extractLsb'_or]
theorem vredMaxRow (iv : BitVec 2) (d a : BitVec 4) (k : BitVec 3) (sc : BitVec 4) : Statement (.vredMaxRow iv d a k sc) := by
  intro _ wf
  have hv := Decode.read_top iv (Wf.mark_top wf)
  refine (decode_of_major23 (w := Decode.wVredMaxRow iv d a k sc) ?_ ?_).trans ?_ <;>
    simp [hv, Decode.major23, Decode.wVredMaxRow, BitVec.extractLsb'_or]
theorem vredAndRow (iv : BitVec 2) (d a : BitVec 4) (k : BitVec 3) (sc : BitVec 4) : Statement (.vredAndRow iv d a k sc) := by
  intro _ wf
  have hv := Decode.read_top iv (Wf.mark_top wf)
  refine (decode_of_major23 (w := Decode.wVredAndRow iv d a k sc) ?_ ?_).trans ?_ <;>
    simp [hv, Decode.major23, Decode.wVredAndRow, BitVec.extractLsb'_or]
theorem vredOrRow (iv : BitVec 2) (d a : BitVec 4) (k : BitVec 3) (sc : BitVec 4) : Statement (.vredOrRow iv d a k sc) := by
  intro _ wf
  have hv := Decode.read_top iv (Wf.mark_top wf)
  refine (decode_of_major23 (w := Decode.wVredOrRow iv d a k sc) ?_ ?_).trans ?_ <;>
    simp [hv, Decode.major23, Decode.wVredOrRow, BitVec.extractLsb'_or]
theorem vredAmaxRow (iv : BitVec 2) (d a : BitVec 4) (k : BitVec 3) (sc : BitVec 4) : Statement (.vredAmaxRow iv d a k sc) := by
  intro _ wf
  have hv := Decode.read_top iv (Wf.mark_top wf)
  refine (decode_of_major23 (w := Decode.wVredAmaxRow iv d a k sc) ?_ ?_).trans ?_ <;>
    simp [hv, Decode.major23, Decode.wVredAmaxRow, BitVec.extractLsb'_or]
theorem vredMinNRow (iv : BitVec 2) (d a : BitVec 4) (k : BitVec 3) (sc : BitVec 4) : Statement (.vredMinNRow iv d a k sc) := by
  intro _ wf
  have hv := Decode.read_top iv (Wf.mark_top wf)
  refine (decode_of_major23 (w := Decode.wVredMinNRow iv d a k sc) ?_ ?_).trans ?_ <;>
    simp [hv, Decode.major23, Decode.wVredMinNRow, BitVec.extractLsb'_or]
theorem vredMaxNRow (iv : BitVec 2) (d a : BitVec 4) (k : BitVec 3) (sc : BitVec 4) : Statement (.vredMaxNRow iv d a k sc) := by
  intro _ wf
  have hv := Decode.read_top iv (Wf.mark_top wf)
  refine (decode_of_major23 (w := Decode.wVredMaxNRow iv d a k sc) ?_ ?_).trans ?_ <;>
    simp [hv, Decode.major23, Decode.wVredMaxNRow, BitVec.extractLsb'_or]
theorem vredAddCol (iv : BitVec 2) (d a : BitVec 4) (k : BitVec 3) (sc : BitVec 4) : Statement (.vredAddCol iv d a k sc) := by
  intro _ wf
  have hv := Decode.read_top iv (Wf.mark_top wf)
  refine (decode_of_major23 (w := Decode.wVredAddCol iv d a k sc) ?_ ?_).trans ?_ <;>
    simp [hv, Decode.major23, Decode.wVredAddCol, BitVec.extractLsb'_or]
theorem vredMinCol (iv : BitVec 2) (d a : BitVec 4) (k : BitVec 3) (sc : BitVec 4) : Statement (.vredMinCol iv d a k sc) := by
  intro _ wf
  have hv := Decode.read_top iv (Wf.mark_top wf)
  refine (decode_of_major23 (w := Decode.wVredMinCol iv d a k sc) ?_ ?_).trans ?_ <;>
    simp [hv, Decode.major23, Decode.wVredMinCol, BitVec.extractLsb'_or]
theorem vredMaxCol (iv : BitVec 2) (d a : BitVec 4) (k : BitVec 3) (sc : BitVec 4) : Statement (.vredMaxCol iv d a k sc) := by
  intro _ wf
  have hv := Decode.read_top iv (Wf.mark_top wf)
  refine (decode_of_major23 (w := Decode.wVredMaxCol iv d a k sc) ?_ ?_).trans ?_ <;>
    simp [hv, Decode.major23, Decode.wVredMaxCol, BitVec.extractLsb'_or]
theorem vredAndCol (iv : BitVec 2) (d a : BitVec 4) (k : BitVec 3) (sc : BitVec 4) : Statement (.vredAndCol iv d a k sc) := by
  intro _ wf
  have hv := Decode.read_top iv (Wf.mark_top wf)
  refine (decode_of_major23 (w := Decode.wVredAndCol iv d a k sc) ?_ ?_).trans ?_ <;>
    simp [hv, Decode.major23, Decode.wVredAndCol, BitVec.extractLsb'_or]
theorem vredOrCol (iv : BitVec 2) (d a : BitVec 4) (k : BitVec 3) (sc : BitVec 4) : Statement (.vredOrCol iv d a k sc) := by
  intro _ wf
  have hv := Decode.read_top iv (Wf.mark_top wf)
  refine (decode_of_major23 (w := Decode.wVredOrCol iv d a k sc) ?_ ?_).trans ?_ <;>
    simp [hv, Decode.major23, Decode.wVredOrCol, BitVec.extractLsb'_or]
theorem vredAmaxCol (iv : BitVec 2) (d a : BitVec 4) (k : BitVec 3) (sc : BitVec 4) : Statement (.vredAmaxCol iv d a k sc) := by
  intro _ wf
  have hv := Decode.read_top iv (Wf.mark_top wf)
  refine (decode_of_major23 (w := Decode.wVredAmaxCol iv d a k sc) ?_ ?_).trans ?_ <;>
    simp [hv, Decode.major23, Decode.wVredAmaxCol, BitVec.extractLsb'_or]
theorem vredMinNCol (iv : BitVec 2) (d a : BitVec 4) (k : BitVec 3) (sc : BitVec 4) : Statement (.vredMinNCol iv d a k sc) := by
  intro _ wf
  have hv := Decode.read_top iv (Wf.mark_top wf)
  refine (decode_of_major23 (w := Decode.wVredMinNCol iv d a k sc) ?_ ?_).trans ?_ <;>
    simp [hv, Decode.major23, Decode.wVredMinNCol, BitVec.extractLsb'_or]
theorem vredMaxNCol (iv : BitVec 2) (d a : BitVec 4) (k : BitVec 3) (sc : BitVec 4) : Statement (.vredMaxNCol iv d a k sc) := by
  intro _ wf
  have hv := Decode.read_top iv (Wf.mark_top wf)
  refine (decode_of_major23 (w := Decode.wVredMaxNCol iv d a k sc) ?_ ?_).trans ?_ <;>
    simp [hv, Decode.major23, Decode.wVredMaxNCol, BitVec.extractLsb'_or]
theorem vcvt (iv : BitVec 2) (d a t : BitVec 4) (k : BitVec 3) (sc : BitVec 4) : Statement (.vcvt iv d a t k sc) := by
  intro _ wf
  have hv := Decode.read_top iv (Wf.mark_top (Bool.and_eq_true_iff.mp wf).1)
  refine (decode_of_major24 (w := Decode.wVcvt iv d a t k sc) ?_ ?_).trans ?_ <;>
    simp [hv, Decode.major24, Decode.wVcvt, BitVec.extractLsb'_or]
theorem vcvtN (iv : BitVec 2) (d a t : BitVec 4) (k : BitVec 3) (sc : BitVec 4) : Statement (.vcvtN iv d a t k sc) := by
  intro _ wf
  have hv := Decode.read_top iv (Wf.mark_top (Bool.and_eq_true_iff.mp wf).1)
  refine (decode_of_major24 (w := Decode.wVcvtN iv d a t k sc) ?_ ?_).trans ?_ <;>
    simp [hv, Decode.major24, Decode.wVcvtN, BitVec.extractLsb'_or]
theorem vpack (iv : BitVec 2) (d a t sc : BitVec 4) : Statement (.vpack iv d a t sc) := by
  intro _ wf
  have hv := Decode.read_top iv (Wf.mark_top (Bool.and_eq_true_iff.mp wf).1)
  refine (decode_of_major24 (w := Decode.wVpack iv d a t sc) ?_ ?_).trans ?_ <;>
    simp [hv, Decode.major24, Decode.wVpack, BitVec.extractLsb'_or]
theorem vunpack (iv : BitVec 2) (d a sc : BitVec 4) : Statement (.vunpack iv d a sc) := by
  intro _ wf
  have hv := Decode.read_top iv (Wf.mark_top wf)
  refine (decode_of_major24 (w := Decode.wVunpack iv d a sc) ?_ ?_).trans ?_ <;>
    simp [hv, Decode.major24, Decode.wVunpack, BitVec.extractLsb'_or]
theorem vsat (iv : BitVec 2) (d a t : BitVec 4) (k : BitVec 3) (sc : BitVec 4) : Statement (.vsat iv d a t k sc) := by
  intro _ wf
  have hv := Decode.read_top iv (Wf.mark_top (Bool.and_eq_true_iff.mp wf).1)
  refine (decode_of_major24 (w := Decode.wVsat iv d a t k sc) ?_ ?_).trans ?_ <;>
    simp [hv, Decode.major24, Decode.wVsat, BitVec.extractLsb'_or]
theorem vsatN (iv : BitVec 2) (d a t : BitVec 4) (k : BitVec 3) (sc : BitVec 4) : Statement (.vsatN iv d a t k sc) := by
  intro _ wf
  have hv := Decode.read_top iv (Wf.mark_top (Bool.and_eq_true_iff.mp wf).1)
  refine (decode_of_major24 (w := Decode.wVsatN iv d a t k sc) ?_ ?_).trans ?_ <;>
    simp [hv, Decode.major24, Decode.wVsatN, BitVec.extractLsb'_or]
theorem vrcp (iv : BitVec 2) (d a : BitVec 4) (k : BitVec 3) (sc : BitVec 4) : Statement (.vrcp iv d a k sc) := by
  intro _ wf
  have hv := Decode.read_top iv (Wf.ver_top wf)
  refine (decode_of_major25 (w := Decode.wVrcp iv d a k sc) ?_ ?_).trans ?_ <;>
    simp [hv, Decode.major25, Decode.wVrcp, BitVec.extractLsb'_or]
theorem vrsq (iv : BitVec 2) (d a : BitVec 4) (k : BitVec 3) (sc : BitVec 4) : Statement (.vrsq iv d a k sc) := by
  intro _ wf
  have hv := Decode.read_top iv (Wf.ver_top wf)
  refine (decode_of_major25 (w := Decode.wVrsq iv d a k sc) ?_ ?_).trans ?_ <;>
    simp [hv, Decode.major25, Decode.wVrsq, BitVec.extractLsb'_or]
theorem vsqrt (iv : BitVec 2) (d a : BitVec 4) (k : BitVec 3) (sc : BitVec 4) : Statement (.vsqrt iv d a k sc) := by
  intro _ wf
  have hv := Decode.read_top iv (Wf.ver_top wf)
  refine (decode_of_major25 (w := Decode.wVsqrt iv d a k sc) ?_ ?_).trans ?_ <;>
    simp [hv, Decode.major25, Decode.wVsqrt, BitVec.extractLsb'_or]
theorem vexp2 (iv : BitVec 2) (d a : BitVec 4) (k : BitVec 3) (sc : BitVec 4) : Statement (.vexp2 iv d a k sc) := by
  intro _ wf
  have hv := Decode.read_top iv (Wf.ver_top wf)
  refine (decode_of_major25 (w := Decode.wVexp2 iv d a k sc) ?_ ?_).trans ?_ <;>
    simp [hv, Decode.major25, Decode.wVexp2, BitVec.extractLsb'_or]
theorem vlog2 (iv : BitVec 2) (d a : BitVec 4) (k : BitVec 3) (sc : BitVec 4) : Statement (.vlog2 iv d a k sc) := by
  intro _ wf
  have hv := Decode.read_top iv (Wf.ver_top wf)
  refine (decode_of_major25 (w := Decode.wVlog2 iv d a k sc) ?_ ?_).trans ?_ <;>
    simp [hv, Decode.major25, Decode.wVlog2, BitVec.extractLsb'_or]
theorem vsinpi (iv : BitVec 2) (d a : BitVec 4) (k : BitVec 3) (sc : BitVec 4) : Statement (.vsinpi iv d a k sc) := by
  intro _ wf
  have hv := Decode.read_top iv (Wf.ver_top wf)
  refine (decode_of_major25 (w := Decode.wVsinpi iv d a k sc) ?_ ?_).trans ?_ <;>
    simp [hv, Decode.major25, Decode.wVsinpi, BitVec.extractLsb'_or]
theorem vcospi (iv : BitVec 2) (d a : BitVec 4) (k : BitVec 3) (sc : BitVec 4) : Statement (.vcospi iv d a k sc) := by
  intro _ wf
  have hv := Decode.read_top iv (Wf.ver_top wf)
  refine (decode_of_major25 (w := Decode.wVcospi iv d a k sc) ?_ ?_).trans ?_ <;>
    simp [hv, Decode.major25, Decode.wVcospi, BitVec.extractLsb'_or]
theorem vtanh (iv : BitVec 2) (d a : BitVec 4) (k : BitVec 3) (sc : BitVec 4) : Statement (.vtanh iv d a k sc) := by
  intro _ wf
  have hv := Decode.read_top iv (Wf.ver_top wf)
  refine (decode_of_major25 (w := Decode.wVtanh iv d a k sc) ?_ ?_).trans ?_ <;>
    simp [hv, Decode.major25, Decode.wVtanh, BitVec.extractLsb'_or]
theorem vdiv (iv : BitVec 2) (d a b : BitVec 4) (k : BitVec 3) (sc : BitVec 4) : Statement (.vdiv iv d a b k sc) := by
  intro _ wf
  have hv := Decode.read_top iv (Wf.ver_top wf)
  refine (decode_of_major25 (w := Decode.wVdiv iv d a b k sc) ?_ ?_).trans ?_ <;>
    simp [hv, Decode.major25, Decode.wVdiv, BitVec.extractLsb'_or]
theorem vadds (iv : BitVec 2) (d a : BitVec 4) (g : BitVec 5) (k : BitVec 3) (sc : BitVec 4) : Statement (.vadds iv d a g k sc) := by
  intro _ wf
  have hv := Decode.read_top iv (Wf.mark_top wf)
  refine (decode_of_major26 (w := Decode.wVadds iv d a g k sc) ?_ ?_).trans ?_ <;>
    simp [hv, Decode.major26, Decode.wVadds, BitVec.extractLsb'_or]
theorem vaddsN (iv : BitVec 2) (d a : BitVec 4) (g : BitVec 5) (k : BitVec 3) (sc : BitVec 4) : Statement (.vaddsN iv d a g k sc) := by
  intro _ wf
  have hv := Decode.read_top iv (Wf.mark_top wf)
  refine (decode_of_major26 (w := Decode.wVaddsN iv d a g k sc) ?_ ?_).trans ?_ <;>
    simp [hv, Decode.major26, Decode.wVaddsN, BitVec.extractLsb'_or]
theorem vmuls (iv : BitVec 2) (d a : BitVec 4) (g : BitVec 5) (k : BitVec 3) (sc : BitVec 4) : Statement (.vmuls iv d a g k sc) := by
  intro _ wf
  have hv := Decode.read_top iv (Wf.mark_top wf)
  refine (decode_of_major26 (w := Decode.wVmuls iv d a g k sc) ?_ ?_).trans ?_ <;>
    simp [hv, Decode.major26, Decode.wVmuls, BitVec.extractLsb'_or]
theorem vmulsN (iv : BitVec 2) (d a : BitVec 4) (g : BitVec 5) (k : BitVec 3) (sc : BitVec 4) : Statement (.vmulsN iv d a g k sc) := by
  intro _ wf
  have hv := Decode.read_top iv (Wf.mark_top wf)
  refine (decode_of_major26 (w := Decode.wVmulsN iv d a g k sc) ?_ ?_).trans ?_ <;>
    simp [hv, Decode.major26, Decode.wVmulsN, BitVec.extractLsb'_or]
theorem vfmas (iv : BitVec 2) (d a : BitVec 4) (g : BitVec 5) (k : BitVec 3) (sc : BitVec 4) : Statement (.vfmas iv d a g k sc) := by
  intro _ wf
  have hv := Decode.read_top iv (Wf.mark_top wf)
  refine (decode_of_major26 (w := Decode.wVfmas iv d a g k sc) ?_ ?_).trans ?_ <;>
    simp [hv, Decode.major26, Decode.wVfmas, BitVec.extractLsb'_or]
theorem vbcast (iv : BitVec 2) (d : BitVec 4) (g : BitVec 5) (k : BitVec 3) (sc : BitVec 4) : Statement (.vbcast iv d g k sc) := by
  intro _ wf
  have hv := Decode.read_top iv (Wf.mark_top wf)
  refine (decode_of_major26 (w := Decode.wVbcast iv d g k sc) ?_ ?_).trans ?_ <;>
    simp [hv, Decode.major26, Decode.wVbcast, BitVec.extractLsb'_or]
theorem vget (iv : BitVec 2) (a : BitVec 4) (g : BitVec 5) (k : BitVec 3) (sc : BitVec 4) : Statement (.vget iv a g k sc) := by
  intro _ wf
  have hv := Decode.read_top iv (Wf.mark_top wf)
  refine (decode_of_major26 (w := Decode.wVget iv a g k sc) ?_ ?_).trans ?_ <;>
    simp [hv, Decode.major26, Decode.wVget, BitVec.extractLsb'_or]
theorem vgetN (iv : BitVec 2) (a : BitVec 4) (g : BitVec 5) (k : BitVec 3) (sc : BitVec 4) : Statement (.vgetN iv a g k sc) := by
  intro _ wf
  have hv := Decode.read_top iv (Wf.mark_top wf)
  refine (decode_of_major26 (w := Decode.wVgetN iv a g k sc) ?_ ?_).trans ?_ <;>
    simp [hv, Decode.major26, Decode.wVgetN, BitVec.extractLsb'_or]
theorem vset (iv : BitVec 2) (d : BitVec 4) (g : BitVec 5) (k : BitVec 3) (sc : BitVec 4) : Statement (.vset iv d g k sc) := by
  intro _ wf
  have hv := Decode.read_top iv (Wf.mark_top wf)
  refine (decode_of_major26 (w := Decode.wVset iv d g k sc) ?_ ?_).trans ?_ <;>
    simp [hv, Decode.major26, Decode.wVset, BitVec.extractLsb'_or]
theorem vld (iv : BitVec 2) (d : BitVec 4) (b : BitVec 5) (t : BitVec 4) (k : BitVec 3) (l : BitVec 2) (sc : BitVec 4) : Statement (.vld iv d b t k l sc) := by
  intro _ wf
  have hv := Decode.read_top iv (Wf.ver_top (Bool.and_eq_true_iff.mp wf).1)
  refine (decode_of_major27 (w := Decode.wVld iv d b t k l sc) ?_ ?_).trans ?_ <;>
    simp [hv, Decode.major27, Decode.wVld, BitVec.extractLsb'_or]
theorem vst (iv : BitVec 2) (d : BitVec 4) (b : BitVec 5) (k : BitVec 3) (l : BitVec 2) (sc : BitVec 4) : Statement (.vst iv d b k l sc) := by
  intro _ wf
  have hv := Decode.read_top iv (Wf.mark_top (Bool.and_eq_true_iff.mp wf).1)
  refine (decode_of_major27 (w := Decode.wVst iv d b k l sc) ?_ ?_).trans ?_ <;>
    simp [hv, Decode.major27, Decode.wVst, BitVec.extractLsb'_or]
theorem vgather (iv : BitVec 2) (d : BitVec 4) (b : BitVec 5) (i : BitVec 4) (k : BitVec 3) (l : BitVec 2) (sc : BitVec 4) : Statement (.vgather iv d b i k l sc) := by
  intro _ wf
  have hv := Decode.read_top iv (Wf.ver_top wf)
  refine (decode_of_major28 (w := Decode.wVgather iv d b i k l sc) ?_ ?_).trans ?_ <;>
    simp [hv, Decode.major28, Decode.wVgather, BitVec.extractLsb'_or]
theorem vscatter (iv : BitVec 2) (d : BitVec 4) (b : BitVec 5) (i : BitVec 4) (k : BitVec 3) (l : BitVec 2) (sc : BitVec 4) : Statement (.vscatter iv d b i k l sc) := by
  intro _ wf
  have hv := Decode.read_top iv (Wf.mark_top wf)
  refine (decode_of_major28 (w := Decode.wVscatter iv d b i k l sc) ?_ ?_).trans ?_ <;>
    simp [hv, Decode.major28, Decode.wVscatter, BitVec.extractLsb'_or]
theorem vdot (iv : BitVec 2) (d a b : BitVec 4) (k : BitVec 3) (sc : BitVec 4) : Statement (.vdot iv d a b k sc) := by
  intro _ wf
  have hv := Decode.read_top iv (Wf.mark_top wf)
  refine (decode_of_major29 (w := Decode.wVdot iv d a b k sc) ?_ ?_).trans ?_ <;>
    simp [hv, Decode.major29, Decode.wVdot, BitVec.extractLsb'_or]
theorem vdotN (iv : BitVec 2) (d a b : BitVec 4) (k : BitVec 3) (sc : BitVec 4) : Statement (.vdotN iv d a b k sc) := by
  intro _ wf
  have hv := Decode.read_top iv (Wf.mark_top wf)
  refine (decode_of_major29 (w := Decode.wVdotN iv d a b k sc) ?_ ?_).trans ?_ <;>
    simp [hv, Decode.major29, Decode.wVdotN, BitVec.extractLsb'_or]
theorem vcmul (iv : BitVec 2) (d a b : BitVec 4) (k : BitVec 3) (sc : BitVec 4) : Statement (.vcmul iv d a b k sc) := by
  intro _ wf
  have hv := Decode.read_top iv (Wf.mark_top wf)
  refine (decode_of_major29 (w := Decode.wVcmul iv d a b k sc) ?_ ?_).trans ?_ <;>
    simp [hv, Decode.major29, Decode.wVcmul, BitVec.extractLsb'_or]
theorem vbmax (iv : BitVec 2) (d a : BitVec 4) (k : BitVec 3) (sc : BitVec 4) : Statement (.vbmax iv d a k sc) := by
  intro _ wf
  have hv := Decode.read_top iv (Wf.mark_top wf)
  refine (decode_of_major2A (w := Decode.wVbmax iv d a k sc) ?_ ?_).trans ?_ <;>
    simp [hv, Decode.major2A, Decode.wVbmax, BitVec.extractLsb'_or]
theorem vscale (iv : BitVec 2) (d a sc : BitVec 4) : Statement (.vscale iv d a sc) := by
  intro _ wf
  have hv := Decode.read_top iv (Wf.mark_top wf)
  refine (decode_of_major2A (w := Decode.wVscale iv d a sc) ?_ ?_).trans ?_ <;>
    simp [hv, Decode.major2A, Decode.wVscale, BitVec.extractLsb'_or]
theorem vquant (iv : BitVec 2) (d a : BitVec 4) (k : BitVec 3) (sc : BitVec 4) : Statement (.vquant iv d a k sc) := by
  intro _ wf
  have hv := Decode.read_top iv (Wf.mark_top wf)
  refine (decode_of_major2A (w := Decode.wVquant iv d a k sc) ?_ ?_).trans ?_ <;>
    simp [hv, Decode.major2A, Decode.wVquant, BitVec.extractLsb'_or]
theorem vrand (iv : BitVec 2) (d : BitVec 4) (k : BitVec 3) (sc : BitVec 4) : Statement (.vrand iv d k sc) := by
  intro _ wf
  have hv := Decode.read_top iv (Wf.mark_top wf)
  refine (decode_of_major2B (w := Decode.wVrand iv d k sc) ?_ ?_).trans ?_ <;>
    simp [hv, Decode.major2B, Decode.wVrand, BitVec.extractLsb'_or]
theorem vtagSet (iv : BitVec 2) (d a t sc : BitVec 4) : Statement (.vtagSet iv d a t sc) := by
  intro _ wf
  have hv := Decode.read_top iv (Wf.mark_top (Bool.and_eq_true_iff.mp wf).1)
  refine (decode_of_major2B (w := Decode.wVtagSet iv d a t sc) ?_ ?_).trans ?_ <;>
    simp [hv, Decode.major2B, Decode.wVtagSet, BitVec.extractLsb'_or]
theorem vtagGet (iv : BitVec 2) (d a : BitVec 4) (l : BitVec 1) (k : BitVec 3) (sc : BitVec 4) : Statement (.vtagGet iv d a l k sc) := by
  intro _ wf
  have hv := Decode.read_top iv (Wf.mark_top (Bool.and_eq_true_iff.mp wf).1)
  refine (decode_of_major2B (w := Decode.wVtagGet iv d a l k sc) ?_ ?_).trans ?_ <;>
    simp [hv, Decode.major2B, Decode.wVtagGet, BitVec.extractLsb'_or]
theorem kand (iv : BitVec 2) (d a b : BitVec 3) (sc : BitVec 4) : Statement (.kand iv d a b sc) := by
  intro _ wf
  have hv := Decode.read_top iv (Wf.mark_top wf)
  refine (decode_of_major2C (w := Decode.wKand iv d a b sc) ?_ ?_).trans ?_ <;>
    simp [hv, Decode.major2C, Decode.wKand, BitVec.extractLsb'_or]
theorem kor (iv : BitVec 2) (d a b : BitVec 3) (sc : BitVec 4) : Statement (.kor iv d a b sc) := by
  intro _ wf
  have hv := Decode.read_top iv (Wf.mark_top wf)
  refine (decode_of_major2C (w := Decode.wKor iv d a b sc) ?_ ?_).trans ?_ <;>
    simp [hv, Decode.major2C, Decode.wKor, BitVec.extractLsb'_or]
theorem kxor (iv : BitVec 2) (d a b : BitVec 3) (sc : BitVec 4) : Statement (.kxor iv d a b sc) := by
  intro _ wf
  have hv := Decode.read_top iv (Wf.mark_top wf)
  refine (decode_of_major2C (w := Decode.wKxor iv d a b sc) ?_ ?_).trans ?_ <;>
    simp [hv, Decode.major2C, Decode.wKxor, BitVec.extractLsb'_or]
theorem knot (iv : BitVec 2) (d a : BitVec 3) (sc : BitVec 4) : Statement (.knot iv d a sc) := by
  intro _ wf
  have hv := Decode.read_top iv (Wf.mark_top wf)
  refine (decode_of_major2C (w := Decode.wKnot iv d a sc) ?_ ?_).trans ?_ <;>
    simp [hv, Decode.major2C, Decode.wKnot, BitVec.extractLsb'_or]
theorem kmov (iv : BitVec 2) (d a : BitVec 3) (sc : BitVec 4) : Statement (.kmov iv d a sc) := by
  intro _ wf
  have hv := Decode.read_top iv (Wf.mark_top wf)
  refine (decode_of_major2C (w := Decode.wKmov iv d a sc) ?_ ?_).trans ?_ <;>
    simp [hv, Decode.major2C, Decode.wKmov, BitVec.extractLsb'_or]
theorem kpop (iv : BitVec 2) (d : BitVec 4) (a : BitVec 3) (sc : BitVec 4) : Statement (.kpop iv d a sc) := by
  intro _ wf
  have hv := Decode.read_top iv (Wf.mark_top wf)
  refine (decode_of_major2C (w := Decode.wKpop iv d a sc) ?_ ?_).trans ?_ <;>
    simp [hv, Decode.major2C, Decode.wKpop, BitVec.extractLsb'_or]
theorem kany (iv : BitVec 2) (d : BitVec 4) (a : BitVec 3) (b sc : BitVec 4) : Statement (.kany iv d a b sc) := by
  intro _ wf
  have hv := Decode.read_top iv (Wf.mark_top (Bool.and_eq_true_iff.mp wf).1)
  refine (decode_of_major2C (w := Decode.wKany iv d a b sc) ?_ ?_).trans ?_ <;>
    simp [hv, Decode.major2C, Decode.wKany, BitVec.extractLsb'_or]
theorem kall (iv : BitVec 2) (d : BitVec 4) (a : BitVec 3) (b sc : BitVec 4) : Statement (.kall iv d a b sc) := by
  intro _ wf
  have hv := Decode.read_top iv (Wf.mark_top (Bool.and_eq_true_iff.mp wf).1)
  refine (decode_of_major2C (w := Decode.wKall iv d a b sc) ?_ ?_).trans ?_ <;>
    simp [hv, Decode.major2C, Decode.wKall, BitVec.extractLsb'_or]
theorem kset (iv : BitVec 2) (d : BitVec 3) (h l sc : BitVec 4) : Statement (.kset iv d h l sc) := by
  intro _ wf
  have hv := Decode.read_top iv (Wf.mark_top wf)
  refine (decode_of_major2C (w := Decode.wKset iv d h l sc) ?_ ?_).trans ?_ <;>
    simp [hv, Decode.major2C, Decode.wKset, BitVec.extractLsb'_or]
theorem cp (iv : BitVec 2) (d a b : BitVec 5) (q : BitVec 3) (sc : BitVec 4) : Statement (.cp iv d a b q sc) := by
  intro _ wf
  have hv := Decode.read_top iv (Wf.mark_top wf)
  refine (decode_of_major30 (w := Decode.wCp iv d a b q sc) ?_ ?_).trans ?_ <;>
    simp [hv, Decode.major30, Decode.wCp, BitVec.extractLsb'_or]
theorem mmBf16 (iv : BitVec 2) (d a : BitVec 5) (q : BitVec 3) (sc : BitVec 4) : Statement (.mmBf16 iv d a q sc) := by
  intro _ wf
  have hv := Decode.read_top iv (Wf.mark_top wf)
  refine (decode_of_major31 (w := Decode.wMmBf16 iv d a q sc) ?_ ?_).trans ?_ <;>
    simp [hv, Decode.major31, Decode.wMmBf16, BitVec.extractLsb'_or]
theorem mmF16 (iv : BitVec 2) (d a : BitVec 5) (q : BitVec 3) (sc : BitVec 4) : Statement (.mmF16 iv d a q sc) := by
  intro _ wf
  have hv := Decode.read_top iv (Wf.mark_top wf)
  refine (decode_of_major31 (w := Decode.wMmF16 iv d a q sc) ?_ ?_).trans ?_ <;>
    simp [hv, Decode.major31, Decode.wMmF16, BitVec.extractLsb'_or]
theorem mmE4m3 (iv : BitVec 2) (d a : BitVec 5) (q : BitVec 3) (sc : BitVec 4) : Statement (.mmE4m3 iv d a q sc) := by
  intro _ wf
  have hv := Decode.read_top iv (Wf.mark_top wf)
  refine (decode_of_major31 (w := Decode.wMmE4m3 iv d a q sc) ?_ ?_).trans ?_ <;>
    simp [hv, Decode.major31, Decode.wMmE4m3, BitVec.extractLsb'_or]
theorem mmE5m2 (iv : BitVec 2) (d a : BitVec 5) (q : BitVec 3) (sc : BitVec 4) : Statement (.mmE5m2 iv d a q sc) := by
  intro _ wf
  have hv := Decode.read_top iv (Wf.mark_top wf)
  refine (decode_of_major31 (w := Decode.wMmE5m2 iv d a q sc) ?_ ?_).trans ?_ <;>
    simp [hv, Decode.major31, Decode.wMmE5m2, BitVec.extractLsb'_or]
theorem mmI8 (iv : BitVec 2) (d a : BitVec 5) (q : BitVec 3) (sc : BitVec 4) : Statement (.mmI8 iv d a q sc) := by
  intro _ wf
  have hv := Decode.read_top iv (Wf.mark_top wf)
  refine (decode_of_major31 (w := Decode.wMmI8 iv d a q sc) ?_ ?_).trans ?_ <;>
    simp [hv, Decode.major31, Decode.wMmI8, BitVec.extractLsb'_or]
theorem mmTern (iv : BitVec 2) (d a : BitVec 5) (q : BitVec 3) (sc : BitVec 4) : Statement (.mmTern iv d a q sc) := by
  intro _ wf
  have hv := Decode.read_top iv (Wf.mark_top wf)
  refine (decode_of_major31 (w := Decode.wMmTern iv d a q sc) ?_ ?_).trans ?_ <;>
    simp [hv, Decode.major31, Decode.wMmTern, BitVec.extractLsb'_or]
theorem mmF32 (iv : BitVec 2) (d a : BitVec 5) (q : BitVec 3) (sc : BitVec 4) : Statement (.mmF32 iv d a q sc) := by
  intro _ wf
  have hv := Decode.read_top iv (Wf.mark_top wf)
  refine (decode_of_major31 (w := Decode.wMmF32 iv d a q sc) ?_ ?_).trans ?_ <;>
    simp [hv, Decode.major31, Decode.wMmF32, BitVec.extractLsb'_or]
theorem mmC32 (iv : BitVec 2) (d a : BitVec 5) (q : BitVec 3) (sc : BitVec 4) : Statement (.mmC32 iv d a q sc) := by
  intro _ wf
  have hv := Decode.read_top iv (Wf.mark_top wf)
  refine (decode_of_major31 (w := Decode.wMmC32 iv d a q sc) ?_ ?_).trans ?_ <;>
    simp [hv, Decode.major31, Decode.wMmC32, BitVec.extractLsb'_or]
theorem mmU (iv : BitVec 2) (d a : BitVec 5) (q : BitVec 3) (sc : BitVec 4) : Statement (.mmU iv d a q sc) := by
  intro _ wf
  have hv := Decode.read_top iv (Wf.mark_top wf)
  refine (decode_of_major31 (w := Decode.wMmU iv d a q sc) ?_ ?_).trans ?_ <;>
    simp [hv, Decode.major31, Decode.wMmU, BitVec.extractLsb'_or]
theorem accClr (iv : BitVec 2) (d : BitVec 5) (z t : BitVec 4) (q : BitVec 3) (sc : BitVec 4) : Statement (.accClr iv d z t q sc) := by
  intro _ wf
  have hv := Decode.read_top iv (Wf.mark_top (Bool.and_eq_true_iff.mp (Bool.and_eq_true_iff.mp wf).1).1)
  refine (decode_of_major32 (w := Decode.wAccClr iv d z t q sc) ?_ ?_).trans ?_ <;>
    simp [hv, Decode.major32, Decode.wAccClr, BitVec.extractLsb'_or]
theorem accRd (iv : BitVec 2) (d z : BitVec 4) (r : BitVec 3) (sc : BitVec 4) : Statement (.accRd iv d z r sc) := by
  intro _ wf
  have hv := Decode.read_top iv (Wf.ver_top wf)
  refine (decode_of_major32 (w := Decode.wAccRd iv d z r sc) ?_ ?_).trans ?_ <;>
    simp [hv, Decode.major32, Decode.wAccRd, BitVec.extractLsb'_or]
theorem accRdC32 (iv : BitVec 2) (d z : BitVec 4) (r : BitVec 3) (sc : BitVec 4) : Statement (.accRdC32 iv d z r sc) := by
  intro _ wf
  have hv := Decode.read_top iv (Wf.ver_top (Bool.and_eq_true_iff.mp (Bool.and_eq_true_iff.mp wf).1).1)
  refine (decode_of_major32 (w := Decode.wAccRdC32 iv d z r sc) ?_ ?_).trans ?_ <;>
    simp [hv, Decode.major32, Decode.wAccRdC32, BitVec.extractLsb'_or]
theorem accWr (iv : BitVec 2) (d z : BitVec 4) (r : BitVec 3) (sc : BitVec 4) : Statement (.accWr iv d z r sc) := by
  intro _ wf
  have hv := Decode.read_top iv (Wf.mark_top wf)
  refine (decode_of_major32 (w := Decode.wAccWr iv d z r sc) ?_ ?_).trans ?_ <;>
    simp [hv, Decode.major32, Decode.wAccWr, BitVec.extractLsb'_or]
theorem accWrC32 (iv : BitVec 2) (d z : BitVec 4) (r : BitVec 3) (sc : BitVec 4) : Statement (.accWrC32 iv d z r sc) := by
  intro _ wf
  have hv := Decode.read_top iv (Wf.mark_top (Bool.and_eq_true_iff.mp (Bool.and_eq_true_iff.mp wf).1).1)
  refine (decode_of_major32 (w := Decode.wAccWrC32 iv d z r sc) ?_ ?_).trans ?_ <;>
    simp [hv, Decode.major32, Decode.wAccWrC32, BitVec.extractLsb'_or]
theorem accSt (iv : BitVec 2) (d a : BitVec 5) (z : BitVec 4) (q : BitVec 3) (sc : BitVec 4) : Statement (.accSt iv d a z q sc) := by
  intro _ wf
  have hv := Decode.read_top iv (Wf.mark_top wf)
  refine (decode_of_major32 (w := Decode.wAccSt iv d a z q sc) ?_ ?_).trans ?_ <;>
    simp [hv, Decode.major32, Decode.wAccSt, BitVec.extractLsb'_or]
theorem accStC32 (iv : BitVec 2) (d a : BitVec 5) (z : BitVec 4) (q : BitVec 3) (sc : BitVec 4) : Statement (.accStC32 iv d a z q sc) := by
  intro _ wf
  have hv := Decode.read_top iv (Wf.mark_top (Bool.and_eq_true_iff.mp wf).1)
  refine (decode_of_major32 (w := Decode.wAccStC32 iv d a z q sc) ?_ ?_).trans ?_ <;>
    simp [hv, Decode.major32, Decode.wAccStC32, BitVec.extractLsb'_or]
theorem await (iv : BitVec 2) (d a : BitVec 5) (sc : BitVec 4) : Statement (.await iv d a sc) := by
  intro _ wf
  have hv := Decode.read_top iv (Wf.ver_top wf)
  refine (decode_of_major33 (w := Decode.wAwait iv d a sc) ?_ ?_).trans ?_ <;>
    simp [hv, Decode.major33, Decode.wAwait, BitVec.extractLsb'_or]
theorem awaitX (iv : BitVec 2) (d a : BitVec 5) (sc : BitVec 4) : Statement (.awaitX iv d a sc) := by
  intro _ wf
  have hv := Decode.read_top iv (Wf.ver_top wf)
  refine (decode_of_major33 (w := Decode.wAwaitX iv d a sc) ?_ ?_).trans ?_ <;>
    simp [hv, Decode.major33, Decode.wAwaitX, BitVec.extractLsb'_or]
theorem jpoll (iv : BitVec 2) (d a : BitVec 5) (sc : BitVec 4) : Statement (.jpoll iv d a sc) := by
  intro _ wf
  have hv := Decode.read_top iv (Wf.mark_top wf)
  refine (decode_of_major33 (w := Decode.wJpoll iv d a sc) ?_ ?_).trans ?_ <;>
    simp [hv, Decode.major33, Decode.wJpoll, BitVec.extractLsb'_or]
theorem jdrop (iv : BitVec 2) (d a : BitVec 5) (sc : BitVec 4) : Statement (.jdrop iv d a sc) := by
  intro _ wf
  have hv := Decode.read_top iv (Wf.mark_top wf)
  refine (decode_of_major33 (w := Decode.wJdrop iv d a sc) ?_ ?_).trans ?_ <;>
    simp [hv, Decode.major33, Decode.wJdrop, BitVec.extractLsb'_or]
theorem gset (iv : BitVec 2) (a : BitVec 5) (q : BitVec 3) (sc : BitVec 4) : Statement (.gset iv a q sc) := by
  intro _ wf
  have hv := Decode.read_top iv (Wf.mark_top wf)
  refine (decode_of_major34 (w := Decode.wGset iv a q sc) ?_ ?_).trans ?_ <;>
    simp [hv, Decode.major34, Decode.wGset, BitVec.extractLsb'_or]
theorem gclr (iv : BitVec 2) (q : BitVec 3) (sc : BitVec 4) : Statement (.gclr iv q sc) := by
  intro _ wf
  have hv := Decode.read_top iv (Wf.mark_top wf)
  refine (decode_of_major34 (w := Decode.wGclr iv q sc) ?_ ?_).trans ?_ <;>
    simp [hv, Decode.major34, Decode.wGclr, BitVec.extractLsb'_or]
theorem sigDec (iv : BitVec 2) (d a : BitVec 5) (n : BitVec 1) (q : BitVec 3) (sc : BitVec 4) : Statement (.sigDec iv d a n q sc) := by
  intro _ wf
  have hv := Decode.read_top iv (Wf.mark_top wf)
  refine (decode_of_major34 (w := Decode.wSigDec iv d a n q sc) ?_ ?_).trans ?_ <;>
    simp [hv, Decode.major34, Decode.wSigDec, BitVec.extractLsb'_or]
theorem board (iv : BitVec 2) (d a b : BitVec 5) (sc : BitVec 4) : Statement (.board iv d a b sc) := by
  intro _ wf
  have hv := Decode.read_top iv (Wf.mark_top wf)
  refine (decode_of_major35 (w := Decode.wBoard iv d a b sc) ?_ ?_).trans ?_ <;>
    simp [hv, Decode.major35, Decode.wBoard, BitVec.extractLsb'_or]
theorem unboard (iv : BitVec 2) (a : BitVec 5) (sc : BitVec 4) : Statement (.unboard iv a sc) := by
  intro _ wf
  have hv := Decode.read_top iv (Wf.mark_top wf)
  refine (decode_of_major35 (w := Decode.wUnboard iv a sc) ?_ ?_).trans ?_ <;>
    simp [hv, Decode.major35, Decode.wUnboard, BitVec.extractLsb'_or]
theorem spawn (iv : BitVec 2) (d a b : BitVec 5) (sc : BitVec 4) : Statement (.spawn iv d a b sc) := by
  intro _ wf
  have hv := Decode.read_top iv (Wf.mark_top wf)
  refine (decode_of_major36 (w := Decode.wSpawn iv d a b sc) ?_ ?_).trans ?_ <;>
    simp [hv, Decode.major36, Decode.wSpawn, BitVec.extractLsb'_or]
theorem spawnL (iv : BitVec 2) (d a b : BitVec 5) (sc : BitVec 4) : Statement (.spawnL iv d a b sc) := by
  intro _ wf
  have hv := Decode.read_top iv (Wf.mark_top wf)
  refine (decode_of_major36 (w := Decode.wSpawnL iv d a b sc) ?_ ?_).trans ?_ <;>
    simp [hv, Decode.major36, Decode.wSpawnL, BitVec.extractLsb'_or]
theorem exit (iv : BitVec 2) (sc : BitVec 4) : Statement (.exit iv sc) := by
  intro _ wf
  have hv := Decode.read_top iv (Wf.mark_top wf)
  refine (decode_of_major36 (w := Decode.wExit iv sc) ?_ ?_).trans ?_ <;>
    simp [hv, Decode.major36, Decode.wExit, BitVec.extractLsb'_or]
theorem yield (iv : BitVec 2) (sc : BitVec 4) : Statement (.yield iv sc) := by
  intro _ wf
  have hv := Decode.read_top iv (Wf.mark_top wf)
  refine (decode_of_major36 (w := Decode.wYield iv sc) ?_ ?_).trans ?_ <;>
    simp [hv, Decode.major36, Decode.wYield, BitVec.extractLsb'_or]
theorem migr (iv : BitVec 2) (a : BitVec 5) (sc : BitVec 4) : Statement (.migr iv a sc) := by
  intro _ wf
  have hv := Decode.read_top iv (Wf.mark_top wf)
  refine (decode_of_major36 (w := Decode.wMigr iv a sc) ?_ ?_).trans ?_ <;>
    simp [hv, Decode.major36, Decode.wMigr, BitVec.extractLsb'_or]
theorem land (iv : BitVec 2) (a b : BitVec 5) (sc : BitVec 4) : Statement (.land iv a b sc) := by
  intro _ wf
  have hv := Decode.read_top iv (Wf.mark_top wf)
  refine (decode_of_major37 (w := Decode.wLand iv a b sc) ?_ ?_).trans ?_ <;>
    simp [hv, Decode.major37, Decode.wLand, BitVec.extractLsb'_or]
theorem landV (iv : BitVec 2) (a : BitVec 5) (b sc : BitVec 4) : Statement (.landV iv a b sc) := by
  intro _ wf
  have hv := Decode.read_top iv (Wf.mark_top wf)
  refine (decode_of_major37 (w := Decode.wLandV iv a b sc) ?_ ?_).trans ?_ <;>
    simp [hv, Decode.major37, Decode.wLandV, BitVec.extractLsb'_or]
theorem lopen (iv : BitVec 2) (a : BitVec 5) (sc : BitVec 4) : Statement (.lopen iv a sc) := by
  intro _ wf
  have hv := Decode.read_top iv (Wf.mark_top wf)
  refine (decode_of_major37 (w := Decode.wLopen iv a sc) ?_ ?_).trans ?_ <;>
    simp [hv, Decode.major37, Decode.wLopen, BitVec.extractLsb'_or]
theorem lclose (iv : BitVec 2) (a : BitVec 5) (sc : BitVec 4) : Statement (.lclose iv a sc) := by
  intro _ wf
  have hv := Decode.read_top iv (Wf.mark_top wf)
  refine (decode_of_major37 (w := Decode.wLclose iv a sc) ?_ ?_).trans ?_ <;>
    simp [hv, Decode.major37, Decode.wLclose, BitVec.extractLsb'_or]
theorem waitL (iv : BitVec 2) (d a : BitVec 5) (sc : BitVec 4) : Statement (.waitL iv d a sc) := by
  intro _ wf
  have hv := Decode.read_top iv (Wf.mark_top wf)
  refine (decode_of_major37 (w := Decode.wWaitL iv d a sc) ?_ ?_).trans ?_ <;>
    simp [hv, Decode.major37, Decode.wWaitL, BitVec.extractLsb'_or]
theorem lclr (iv : BitVec 2) (d a : BitVec 5) (sc : BitVec 4) : Statement (.lclr iv d a sc) := by
  intro _ wf
  have hv := Decode.read_top iv (Wf.mark_top wf)
  refine (decode_of_major37 (w := Decode.wLclr iv d a sc) ?_ ?_).trans ?_ <;>
    simp [hv, Decode.major37, Decode.wLclr, BitVec.extractLsb'_or]
theorem umask (iv : BitVec 2) (sc : BitVec 4) : Statement (.umask iv sc) := by
  intro _ wf
  have hv := Decode.read_top iv (Wf.mark_top wf)
  refine (decode_of_major37 (w := Decode.wUmask iv sc) ?_ ?_).trans ?_ <;>
    simp [hv, Decode.major37, Decode.wUmask, BitVec.extractLsb'_or]
theorem unmask (iv : BitVec 2) (sc : BitVec 4) : Statement (.unmask iv sc) := by
  intro _ wf
  have hv := Decode.read_top iv (Wf.mark_top wf)
  refine (decode_of_major37 (w := Decode.wUnmask iv sc) ?_ ?_).trans ?_ <;>
    simp [hv, Decode.major37, Decode.wUnmask, BitVec.extractLsb'_or]
theorem barQuad (iv : BitVec 2) (a : BitVec 5) (sc : BitVec 4) : Statement (.barQuad iv a sc) := by
  intro _ wf
  have hv := Decode.read_top iv (Wf.mark_top wf)
  refine (decode_of_major38 (w := Decode.wBarQuad iv a sc) ?_ ?_).trans ?_ <;>
    simp [hv, Decode.major38, Decode.wBarQuad, BitVec.extractLsb'_or]
theorem barDie (iv : BitVec 2) (a : BitVec 5) (sc : BitVec 4) : Statement (.barDie iv a sc) := by
  intro _ wf
  have hv := Decode.read_top iv (Wf.mark_top wf)
  refine (decode_of_major38 (w := Decode.wBarDie iv a sc) ?_ ?_).trans ?_ <;>
    simp [hv, Decode.major38, Decode.wBarDie, BitVec.extractLsb'_or]
theorem barPkg (iv : BitVec 2) (a : BitVec 5) (sc : BitVec 4) : Statement (.barPkg iv a sc) := by
  intro _ wf
  have hv := Decode.read_top iv (Wf.mark_top wf)
  refine (decode_of_major38 (w := Decode.wBarPkg iv a sc) ?_ ?_).trans ?_ <;>
    simp [hv, Decode.major38, Decode.wBarPkg, BitVec.extractLsb'_or]
theorem barPod (iv : BitVec 2) (a : BitVec 5) (sc : BitVec 4) : Statement (.barPod iv a sc) := by
  intro _ wf
  have hv := Decode.read_top iv (Wf.mark_top wf)
  refine (decode_of_major38 (w := Decode.wBarPod iv a sc) ?_ ?_).trans ?_ <;>
    simp [hv, Decode.major38, Decode.wBarPod, BitVec.extractLsb'_or]
theorem bmaxQuad (iv : BitVec 2) (d a b : BitVec 5) (sc : BitVec 4) : Statement (.bmaxQuad iv d a b sc) := by
  intro _ wf
  have hv := Decode.read_top iv (Wf.mark_top wf)
  refine (decode_of_major38 (w := Decode.wBmaxQuad iv d a b sc) ?_ ?_).trans ?_ <;>
    simp [hv, Decode.major38, Decode.wBmaxQuad, BitVec.extractLsb'_or]
theorem bmaxDie (iv : BitVec 2) (d a b : BitVec 5) (sc : BitVec 4) : Statement (.bmaxDie iv d a b sc) := by
  intro _ wf
  have hv := Decode.read_top iv (Wf.mark_top wf)
  refine (decode_of_major38 (w := Decode.wBmaxDie iv d a b sc) ?_ ?_).trans ?_ <;>
    simp [hv, Decode.major38, Decode.wBmaxDie, BitVec.extractLsb'_or]
theorem bmaxPkg (iv : BitVec 2) (d a b : BitVec 5) (sc : BitVec 4) : Statement (.bmaxPkg iv d a b sc) := by
  intro _ wf
  have hv := Decode.read_top iv (Wf.mark_top wf)
  refine (decode_of_major38 (w := Decode.wBmaxPkg iv d a b sc) ?_ ?_).trans ?_ <;>
    simp [hv, Decode.major38, Decode.wBmaxPkg, BitVec.extractLsb'_or]
theorem bmaxPod (iv : BitVec 2) (d a b : BitVec 5) (sc : BitVec 4) : Statement (.bmaxPod iv d a b sc) := by
  intro _ wf
  have hv := Decode.read_top iv (Wf.mark_top wf)
  refine (decode_of_major38 (w := Decode.wBmaxPod iv d a b sc) ?_ ?_).trans ?_ <;>
    simp [hv, Decode.major38, Decode.wBmaxPod, BitVec.extractLsb'_or]
theorem gang (iv : BitVec 2) (d : BitVec 5) (sc : BitVec 4) : Statement (.gang iv d sc) := by
  intro _ wf
  have hv := Decode.read_top iv (Wf.mark_top wf)
  refine (decode_of_major38 (w := Decode.wGang iv d sc) ?_ ?_).trans ?_ <;>
    simp [hv, Decode.major38, Decode.wGang, BitVec.extractLsb'_or]
theorem cpush (iv : BitVec 2) (a b : BitVec 5) (sc : BitVec 4) : Statement (.cpush iv a b sc) := by
  intro _ wf
  have hv := Decode.read_top iv (Wf.mark_top wf)
  refine (decode_of_major39 (w := Decode.wCpush iv a b sc) ?_ ?_).trans ?_ <;>
    simp [hv, Decode.major39, Decode.wCpush, BitVec.extractLsb'_or]
theorem cpop (iv : BitVec 2) (sc : BitVec 4) : Statement (.cpop iv sc) := by
  intro _ wf
  have hv := Decode.read_top iv (Wf.mark_top wf)
  refine (decode_of_major39 (w := Decode.wCpop iv sc) ?_ ?_).trans ?_ <;>
    simp [hv, Decode.major39, Decode.wCpop, BitVec.extractLsb'_or]
theorem cyield (iv : BitVec 2) (sc : BitVec 4) : Statement (.cyield iv sc) := by
  intro _ wf
  have hv := Decode.read_top iv (Wf.mark_top wf)
  refine (decode_of_major39 (w := Decode.wCyield iv sc) ?_ ?_).trans ?_ <;>
    simp [hv, Decode.major39, Decode.wCyield, BitVec.extractLsb'_or]
theorem cwait (iv : BitVec 2) (sc : BitVec 4) : Statement (.cwait iv sc) := by
  intro _ wf
  have hv := Decode.read_top iv (Wf.mark_top wf)
  refine (decode_of_major39 (w := Decode.wCwait iv sc) ?_ ?_).trans ?_ <;>
    simp [hv, Decode.major39, Decode.wCwait, BitVec.extractLsb'_or]
theorem msg (iv : BitVec 2) (a b : BitVec 5) (sc : BitVec 4) : Statement (.msg iv a b sc) := by
  intro _ wf
  have hv := Decode.read_top iv (Wf.mark_top wf)
  refine (decode_of_major3A (w := Decode.wMsg iv a b sc) ?_ ?_).trans ?_ <;>
    simp [hv, Decode.major3A, Decode.wMsg, BitVec.extractLsb'_or]
theorem sysc (iv : BitVec 2) (sc : BitVec 4) : Statement (.sysc iv sc) := by
  intro _ wf
  have hv := Decode.read_top iv (Wf.mark_top wf)
  refine (decode_of_major3C (w := Decode.wSysc iv sc) ?_ ?_).trans ?_ <;>
    simp [hv, Decode.major3C, Decode.wSysc, BitVec.extractLsb'_or]
theorem trap (iv : BitVec 2) (a : BitVec 5) (sc : BitVec 4) : Statement (.trap iv a sc) := by
  intro _ wf
  have hv := Decode.read_top iv (Wf.mark_top wf)
  refine (decode_of_major3C (w := Decode.wTrap iv a sc) ?_ ?_).trans ?_ <;>
    simp [hv, Decode.major3C, Decode.wTrap, BitVec.extractLsb'_or]
theorem eret (iv : BitVec 2) (sc : BitVec 4) : Statement (.eret iv sc) := by
  intro _ wf
  have hv := Decode.read_top iv (Wf.mark_top wf)
  refine (decode_of_major3C (w := Decode.wEret iv sc) ?_ ?_).trans ?_ <;>
    simp [hv, Decode.major3C, Decode.wEret, BitVec.extractLsb'_or]
theorem brk (iv : BitVec 2) (sc : BitVec 4) : Statement (.brk iv sc) := by
  intro _ wf
  have hv := Decode.read_top iv (Wf.mark_top wf)
  refine (decode_of_major3C (w := Decode.wBrk iv sc) ?_ ?_).trans ?_ <;>
    simp [hv, Decode.major3C, Decode.wBrk, BitVec.extractLsb'_or]
theorem halt (iv : BitVec 2) (sc : BitVec 4) : Statement (.halt iv sc) := by
  intro _ wf
  have hv := Decode.read_top iv (Wf.mark_top wf)
  refine (decode_of_major3C (w := Decode.wHalt iv sc) ?_ ?_).trans ?_ <;>
    simp [hv, Decode.major3C, Decode.wHalt, BitVec.extractLsb'_or]
theorem mfs (iv : BitVec 2) (d n m : BitVec 5) (sc : BitVec 4) : Statement (.mfs iv d n m sc) := by
  intro _ wf
  have hv := Decode.read_top iv (Wf.mark_top wf)
  refine (decode_of_major3D (w := Decode.wMfs iv d n m sc) ?_ ?_).trans ?_ <;>
    simp [hv, Decode.major3D, Decode.wMfs, BitVec.extractLsb'_or]
theorem mts (iv : BitVec 2) (d n m : BitVec 5) (sc : BitVec 4) : Statement (.mts iv d n m sc) := by
  intro _ wf
  have hv := Decode.read_top iv (Wf.mark_top wf)
  refine (decode_of_major3D (w := Decode.wMts iv d n m sc) ?_ ?_).trans ?_ <;>
    simp [hv, Decode.major3D, Decode.wMts, BitVec.extractLsb'_or]
theorem ctxSv (iv : BitVec 2) (a b : BitVec 5) (sc : BitVec 4) : Statement (.ctxSv iv a b sc) := by
  intro _ wf
  have hv := Decode.read_top iv (Wf.mark_top wf)
  refine (decode_of_major3E (w := Decode.wCtxSv iv a b sc) ?_ ?_).trans ?_ <;>
    simp [hv, Decode.major3E, Decode.wCtxSv, BitVec.extractLsb'_or]
theorem ctxLd (iv : BitVec 2) (a b : BitVec 5) (sc : BitVec 4) : Statement (.ctxLd iv a b sc) := by
  intro _ wf
  have hv := Decode.read_top iv (Wf.mark_top wf)
  refine (decode_of_major3E (w := Decode.wCtxLd iv a b sc) ?_ ?_).trans ?_ <;>
    simp [hv, Decode.major3E, Decode.wCtxLd, BitVec.extractLsb'_or]
theorem preempt (iv : BitVec 2) (a : BitVec 5) (sc : BitVec 4) : Statement (.preempt iv a sc) := by
  intro _ wf
  have hv := Decode.read_top iv (Wf.mark_top wf)
  refine (decode_of_major3E (w := Decode.wPreempt iv a sc) ?_ ?_).trans ?_ <;>
    simp [hv, Decode.major3E, Decode.wPreempt, BitVec.extractLsb'_or]
theorem resume (iv : BitVec 2) (a b : BitVec 5) (sc : BitVec 4) : Statement (.resume iv a b sc) := by
  intro _ wf
  have hv := Decode.read_top iv (Wf.mark_top wf)
  refine (decode_of_major3E (w := Decode.wResume iv a b sc) ?_ ?_).trans ?_ <;>
    simp [hv, Decode.major3E, Decode.wResume, BitVec.extractLsb'_or]
theorem xmap (iv : BitVec 2) (a b : BitVec 5) (sc : BitVec 4) : Statement (.xmap iv a b sc) := by
  intro _ wf
  have hv := Decode.read_top iv (Wf.mark_top wf)
  refine (decode_of_major3E (w := Decode.wXmap iv a b sc) ?_ ?_).trans ?_ <;>
    simp [hv, Decode.major3E, Decode.wXmap, BitVec.extractLsb'_or]
theorem hintExtend (iv : BitVec 2) (d : BitVec 22) : Statement (.hintExtend iv d) := by
  intro _ wf
  have hv := Decode.read_top iv (Wf.ver_top wf)
  refine (decode_of_major3F (w := Decode.wHintExtend iv d) ?_ ?_).trans ?_ <;>
    simp [hv, Decode.major3F, Decode.wHintExtend, BitVec.extractLsb'_or]
theorem hintModifier (iv : BitVec 2) (d : BitVec 22) : Statement (.hintModifier iv d) := by
  intro _ wf
  have hv := Decode.read_top iv (Wf.ver_top (Bool.and_eq_true_iff.mp wf).1)
  refine (decode_of_major3F (w := Decode.wHintModifier iv d) ?_ ?_).trans ?_ <;>
    simp [hv, Decode.major3F, Decode.wHintModifier, BitVec.extractLsb'_or]
theorem hintSchedule (iv : BitVec 2) (d : BitVec 22) : Statement (.hintSchedule iv d) := by
  intro _ wf
  have hv := Decode.read_top iv (Wf.ver_top wf)
  refine (decode_of_major3F (w := Decode.wHintSchedule iv d) ?_ ?_).trans ?_ <;>
    simp [hv, Decode.major3F, Decode.wHintSchedule, BitVec.extractLsb'_or]
theorem longLatencyResult x0 : Statement (.longLatencyResult x0) := nofun
theorem deferredFaultDelivery x0 : Statement (.deferredFaultDelivery x0) := nofun
theorem userQueueNotify x0 x1 x2 : Statement (.userQueueNotify x0 x1 x2) := nofun
theorem launchPacket x0 x1 : Statement (.launchPacket x0 x1) := nofun
theorem signalOperationPacket x0 x1 : Statement (.signalOperationPacket x0 x1) := nofun
theorem barrierAndPacket x0 x1 : Statement (.barrierAndPacket x0 x1) := nofun
theorem copyPacket x0 x1 : Statement (.copyPacket x0 x1) := nofun
theorem creelSeedPacket x0 x1 : Statement (.creelSeedPacket x0 x1) := nofun
theorem nodeReady x0 : Statement (.nodeReady x0) := nofun
theorem launchDispatch x0 : Statement (.launchDispatch x0) := nofun
theorem launchComplete x0 : Statement (.launchComplete x0) := nofun
theorem nodeComplete x0 : Statement (.nodeComplete x0) := nofun
theorem barrierAndComplete x0 : Statement (.barrierAndComplete x0) := nofun
theorem copyPacketComplete x0 x1 : Statement (.copyPacketComplete x0 x1) := nofun
theorem urgentEntry x0 : Statement (.urgentEntry x0) := nofun
theorem urgentMaskOverrun x0 : Statement (.urgentMaskOverrun x0) := nofun
theorem arrivalAdmit x0 : Statement (.arrivalAdmit x0) := nofun
theorem landingArrival x0 : Statement (.landingArrival x0) := nofun
theorem landingHeld x0 : Statement (.landingHeld x0) := nofun
theorem landingRefusalReturn x0 : Statement (.landingRefusalReturn x0) := nofun
theorem forwardAck x0 : Statement (.forwardAck x0) := nofun
theorem locationUpdate x0 : Statement (.locationUpdate x0) := nofun
theorem creelSnapshot x0 : Statement (.creelSnapshot x0) := nofun
theorem creelPublication x0 : Statement (.creelPublication x0) := nofun
theorem creelDispatch x0 x1 : Statement (.creelDispatch x0 x1) := nofun
theorem cpushPlacement x0 : Statement (.cpushPlacement x0) := nofun
theorem spillRingRefill x0 x1 : Statement (.spillRingRefill x0 x1) := nofun
theorem creelWave x0 x1 : Statement (.creelWave x0 x1) := nofun
theorem creelIntakeRecord x0 x1 x2 : Statement (.creelIntakeRecord x0 x1 x2) := nofun
theorem waitaReread x0 : Statement (.waitaReread x0) := nofun
theorem phaseComplete x0 : Statement (.phaseComplete x0) := nofun
theorem fenceRComplete x0 : Statement (.fenceRComplete x0) := nofun
theorem fenceAComplete x0 : Statement (.fenceAComplete x0) := nofun
theorem tagSetComplete x0 : Statement (.tagSetComplete x0) := nofun
theorem translationAnswer x0 : Statement (.translationAnswer x0) := nofun
theorem drainedLineArrival x0 x1 : Statement (.drainedLineArrival x0 x1) := nofun
theorem forwardedAccess x0 x1 : Statement (.forwardedAccess x0 x1) := nofun
theorem counterHalving : Statement .counterHalving := nofun
theorem migrationCopy x0 : Statement (.migrationCopy x0) := nofun
theorem migrationSwitch : Statement .migrationSwitch := nofun
theorem migrationRedirectEnd : Statement .migrationRedirectEnd := nofun
theorem queueHeadStart x0 x1 : Statement (.queueHeadStart x0 x1) := nofun
theorem joinRelease x0 x1 : Statement (.joinRelease x0 x1) := nofun
theorem copyBeat x0 x1 : Statement (.copyBeat x0 x1) := nofun
theorem matrixGroup x0 x1 : Statement (.matrixGroup x0 x1) := nofun
theorem jobComplete x0 x1 : Statement (.jobComplete x0 x1) := nofun
theorem jobReplay x0 x1 : Statement (.jobReplay x0 x1) := nofun
theorem promiseMissed x0 : Statement (.promiseMissed x0) := nofun
theorem roundLapStart : Statement .roundLapStart := nofun
theorem roundFrameArrival x0 : Statement (.roundFrameArrival x0) := nofun
theorem hopRetransmit x0 : Statement (.hopRetransmit x0) := nofun
theorem preemptionCut x0 : Statement (.preemptionCut x0) := nofun
theorem contextSaveComplete x0 : Statement (.contextSaveComplete x0) := nofun
theorem strandResume x0 x1 : Statement (.strandResume x0 x1) := nofun
theorem parkedCallEntry x0 x1 : Statement (.parkedCallEntry x0 x1) := nofun
theorem messageArrival x0 : Statement (.messageArrival x0) := nofun
theorem messageDispatch x0 : Statement (.messageDispatch x0) := nofun
theorem hostRevocation x0 x1 x2 : Statement (.hostRevocation x0 x1 x2) := nofun
theorem revocationComplete x0 : Statement (.revocationComplete x0) := nofun
theorem dieHalt x0 : Statement (.dieHalt x0) := nofun
theorem bightPreempt x0 : Statement (.bightPreempt x0) := nofun
theorem bightResume x0 : Statement (.bightResume x0) := nofun
theorem singleStep x0 : Statement (.singleStep x0) := nofun
theorem operatingPointChange x0 x1 : Statement (.operatingPointChange x0 x1) := nofun
theorem linkWidthChange x0 x1 : Statement (.linkWidthChange x0 x1) := nofun
theorem linkRetrainComplete x0 : Statement (.linkRetrainComplete x0) := nofun
theorem thermalStep x0 : Statement (.thermalStep x0) := nofun
theorem thermalRecovery x0 : Statement (.thermalRecovery x0) := nofun
theorem thermalShutdown : Statement .thermalShutdown := nofun
theorem linkReplay x0 x1 : Statement (.linkReplay x0 x1) := nofun
theorem reflectedCopyArrival x0 : Statement (.reflectedCopyArrival x0) := nofun
theorem flagIncrement x0 : Statement (.flagIncrement x0) := nofun
theorem reflectionAck x0 : Statement (.reflectionAck x0) := nofun
theorem routeTableWrite x0 x1 : Statement (.routeTableWrite x0 x1) := nofun
theorem incarnationAnnounce x0 x1 : Statement (.incarnationAnnounce x0 x1) := nofun
theorem podBarrierReport x0 x1 : Statement (.podBarrierReport x0 x1) := nofun
theorem podBarrierRelease x0 x1 : Statement (.podBarrierRelease x0 x1) := nofun
theorem pctlWrite x0 x1 : Statement (.pctlWrite x0 x1) := nofun
theorem partitionConfigWrite x0 x1 x2 : Statement (.partitionConfigWrite x0 x1 x2) := nofun
theorem transmitEntryWrite x0 x1 x2 : Statement (.transmitEntryWrite x0 x1 x2) := nofun
theorem hwqDoorbell x0 x1 x2 : Statement (.hwqDoorbell x0 x1 x2) := nofun
theorem hwqOutboundTransfer x0 x1 : Statement (.hwqOutboundTransfer x0 x1) := nofun
theorem hwqInboundTransfer x0 x1 : Statement (.hwqInboundTransfer x0 x1) := nofun
theorem hostAtomicOp x0 : Statement (.hostAtomicOp x0) := nofun
theorem counterClear x0 x1 : Statement (.counterClear x0 x1) := nofun
theorem traceSample x0 x1 : Statement (.traceSample x0 x1) := nofun
theorem checkpointStart x0 : Statement (.checkpointStart x0) := nofun
theorem checkpointComplete : Statement .checkpointComplete := nofun
theorem roundModelLoad x0 : Statement (.roundModelLoad x0) := nofun
theorem roundRateWrite x0 : Statement (.roundRateWrite x0) := nofun
theorem resetCold x0 : Statement (.resetCold x0) := nofun
theorem resetWarm x0 : Statement (.resetWarm x0) := nofun
theorem patrolScrub x0 x1 : Statement (.patrolScrub x0 x1) := nofun
theorem eccError x0 : Statement (.eccError x0) := nofun
theorem dieHaltRelease x0 : Statement (.dieHaltRelease x0) := nofun
theorem bightContinue x0 : Statement (.bightContinue x0) := nofun
theorem hostPortTraining x0 x1 x2 x3 : Statement (.hostPortTraining x0 x1 x2 x3) := nofun
theorem recoveryImageWrite x0 : Statement (.recoveryImageWrite x0) := nofun
theorem delayTableClear x0 : Statement (.delayTableClear x0) := nofun

end Sys2Proof.Laws.RoundTrip
end

