-- ==== Sys2Proof/Laws/State.lean ====
section
/-!
SUPPORT. One lemma per field and update of the state and of a strand, true by rfl, so that no later proof unfolds a record
update.
-/
namespace Sys2Proof.Machine

/-! State.modSt -/

@[simp] theorem State.modSt_st (w : State) (f : Strand → Strand) :
    (w.modSt f).st = f w.st := rfl
@[simp] theorem State.modSt_strands (w : State) (f : Strand → Strand) :
    (w.modSt f).strands = w.strands := rfl
@[simp] theorem State.modSt_order (w : State) (f : Strand → Strand) :
    (w.modSt f).order = w.order := rfl
@[simp] theorem State.modSt_mem (w : State) (f : Strand → Strand) :
    (w.modSt f).mem = w.mem := rfl
@[simp] theorem State.modSt_poison (w : State) (f : Strand → Strand) :
    (w.modSt f).poison = w.poison := rfl
@[simp] theorem State.modSt_locks (w : State) (f : Strand → Strand) :
    (w.modSt f).locks = w.locks := rfl
@[simp] theorem State.modSt_cores (w : State) (f : Strand → Strand) :
    (w.modSt f).cores = w.cores := rfl
@[simp] theorem State.modSt_quads (w : State) (f : Strand → Strand) :
    (w.modSt f).quads = w.quads := rfl
@[simp] theorem State.modSt_dies (w : State) (f : Strand → Strand) :
    (w.modSt f).dies = w.dies := rfl
@[simp] theorem State.modSt_hub (w : State) (f : Strand → Strand) :
    (w.modSt f).hub = w.hub := rfl
@[simp] theorem State.modSt_clk (w : State) (f : Strand → Strand) :
    (w.modSt f).clk = w.clk := rfl
@[simp] theorem State.modSt_interlocked (w : State) (f : Strand → Strand) :
    (w.modSt f).interlocked = w.interlocked := rfl
@[simp] theorem State.modSt_crossed (w : State) (f : Strand → Strand) :
    (w.modSt f).crossed = w.crossed := rfl
@[simp] theorem State.modSt_agenda (w : State) (f : Strand → Strand) :
    (w.modSt f).agenda = w.agenda := rfl
@[simp] theorem State.modSt_free (w : State) (f : Strand → Strand) :
    (w.modSt f).free = w.free := rfl

/-! State.modCore -/

@[simp] theorem State.modCore_st (w : State) (c : Nat) (f : Core → Core) :
    (w.modCore c f).st = w.st := rfl
@[simp] theorem State.modCore_strands (w : State) (c : Nat) (f : Core → Core) :
    (w.modCore c f).strands = w.strands := rfl
@[simp] theorem State.modCore_order (w : State) (c : Nat) (f : Core → Core) :
    (w.modCore c f).order = w.order := rfl
@[simp] theorem State.modCore_mem (w : State) (c : Nat) (f : Core → Core) :
    (w.modCore c f).mem = w.mem := rfl
@[simp] theorem State.modCore_poison (w : State) (c : Nat) (f : Core → Core) :
    (w.modCore c f).poison = w.poison := rfl
@[simp] theorem State.modCore_locks (w : State) (c : Nat) (f : Core → Core) :
    (w.modCore c f).locks = w.locks := rfl
@[simp] theorem State.modCore_cores (w : State) (c : Nat) (f : Core → Core) :
    (w.modCore c f).cores = Assoc.modify w.cores c {} f := rfl
@[simp] theorem State.modCore_quads (w : State) (c : Nat) (f : Core → Core) :
    (w.modCore c f).quads = w.quads := rfl
@[simp] theorem State.modCore_dies (w : State) (c : Nat) (f : Core → Core) :
    (w.modCore c f).dies = w.dies := rfl
@[simp] theorem State.modCore_hub (w : State) (c : Nat) (f : Core → Core) :
    (w.modCore c f).hub = w.hub := rfl
@[simp] theorem State.modCore_clk (w : State) (c : Nat) (f : Core → Core) :
    (w.modCore c f).clk = w.clk := rfl
@[simp] theorem State.modCore_interlocked (w : State) (c : Nat) (f : Core → Core) :
    (w.modCore c f).interlocked = w.interlocked := rfl
@[simp] theorem State.modCore_crossed (w : State) (c : Nat) (f : Core → Core) :
    (w.modCore c f).crossed = w.crossed := rfl
@[simp] theorem State.modCore_agenda (w : State) (c : Nat) (f : Core → Core) :
    (w.modCore c f).agenda = w.agenda := rfl
@[simp] theorem State.modCore_free (w : State) (c : Nat) (f : Core → Core) :
    (w.modCore c f).free = w.free := rfl

/-! State.modQuad -/

@[simp] theorem State.modQuad_st (w : State) (n : Nat) (f : Quad → Quad) :
    (w.modQuad n f).st = w.st := rfl
@[simp] theorem State.modQuad_strands (w : State) (n : Nat) (f : Quad → Quad) :
    (w.modQuad n f).strands = w.strands := rfl
@[simp] theorem State.modQuad_order (w : State) (n : Nat) (f : Quad → Quad) :
    (w.modQuad n f).order = w.order := rfl
@[simp] theorem State.modQuad_mem (w : State) (n : Nat) (f : Quad → Quad) :
    (w.modQuad n f).mem = w.mem := rfl
@[simp] theorem State.modQuad_poison (w : State) (n : Nat) (f : Quad → Quad) :
    (w.modQuad n f).poison = w.poison := rfl
@[simp] theorem State.modQuad_locks (w : State) (n : Nat) (f : Quad → Quad) :
    (w.modQuad n f).locks = w.locks := rfl
@[simp] theorem State.modQuad_cores (w : State) (n : Nat) (f : Quad → Quad) :
    (w.modQuad n f).cores = w.cores := rfl
@[simp] theorem State.modQuad_quads (w : State) (n : Nat) (f : Quad → Quad) :
    (w.modQuad n f).quads = Assoc.modify w.quads n {} f := rfl
@[simp] theorem State.modQuad_dies (w : State) (n : Nat) (f : Quad → Quad) :
    (w.modQuad n f).dies = w.dies := rfl
@[simp] theorem State.modQuad_hub (w : State) (n : Nat) (f : Quad → Quad) :
    (w.modQuad n f).hub = w.hub := rfl
@[simp] theorem State.modQuad_clk (w : State) (n : Nat) (f : Quad → Quad) :
    (w.modQuad n f).clk = w.clk := rfl
@[simp] theorem State.modQuad_interlocked (w : State) (n : Nat) (f : Quad → Quad) :
    (w.modQuad n f).interlocked = w.interlocked := rfl
@[simp] theorem State.modQuad_crossed (w : State) (n : Nat) (f : Quad → Quad) :
    (w.modQuad n f).crossed = w.crossed := rfl
@[simp] theorem State.modQuad_agenda (w : State) (n : Nat) (f : Quad → Quad) :
    (w.modQuad n f).agenda = w.agenda := rfl
@[simp] theorem State.modQuad_free (w : State) (n : Nat) (f : Quad → Quad) :
    (w.modQuad n f).free = w.free := rfl

/-! State.modDie -/

@[simp] theorem State.modDie_st (w : State) (n : Nat) (f : Die → Die) :
    (w.modDie n f).st = w.st := rfl
@[simp] theorem State.modDie_strands (w : State) (n : Nat) (f : Die → Die) :
    (w.modDie n f).strands = w.strands := rfl
@[simp] theorem State.modDie_order (w : State) (n : Nat) (f : Die → Die) :
    (w.modDie n f).order = w.order := rfl
@[simp] theorem State.modDie_mem (w : State) (n : Nat) (f : Die → Die) :
    (w.modDie n f).mem = w.mem := rfl
@[simp] theorem State.modDie_poison (w : State) (n : Nat) (f : Die → Die) :
    (w.modDie n f).poison = w.poison := rfl
@[simp] theorem State.modDie_locks (w : State) (n : Nat) (f : Die → Die) :
    (w.modDie n f).locks = w.locks := rfl
@[simp] theorem State.modDie_cores (w : State) (n : Nat) (f : Die → Die) :
    (w.modDie n f).cores = w.cores := rfl
@[simp] theorem State.modDie_quads (w : State) (n : Nat) (f : Die → Die) :
    (w.modDie n f).quads = w.quads := rfl
@[simp] theorem State.modDie_dies (w : State) (n : Nat) (f : Die → Die) :
    (w.modDie n f).dies = Assoc.modify w.dies n {} f := rfl
@[simp] theorem State.modDie_hub (w : State) (n : Nat) (f : Die → Die) :
    (w.modDie n f).hub = w.hub := rfl
@[simp] theorem State.modDie_clk (w : State) (n : Nat) (f : Die → Die) :
    (w.modDie n f).clk = w.clk := rfl
@[simp] theorem State.modDie_interlocked (w : State) (n : Nat) (f : Die → Die) :
    (w.modDie n f).interlocked = w.interlocked := rfl
@[simp] theorem State.modDie_crossed (w : State) (n : Nat) (f : Die → Die) :
    (w.modDie n f).crossed = w.crossed := rfl
@[simp] theorem State.modDie_agenda (w : State) (n : Nat) (f : Die → Die) :
    (w.modDie n f).agenda = w.agenda := rfl
@[simp] theorem State.modDie_free (w : State) (n : Nat) (f : Die → Die) :
    (w.modDie n f).free = w.free := rfl

/-! State.modHub -/

@[simp] theorem State.modHub_st (w : State) (f : Hub → Hub) :
    (w.modHub f).st = w.st := rfl
@[simp] theorem State.modHub_strands (w : State) (f : Hub → Hub) :
    (w.modHub f).strands = w.strands := rfl
@[simp] theorem State.modHub_order (w : State) (f : Hub → Hub) :
    (w.modHub f).order = w.order := rfl
@[simp] theorem State.modHub_mem (w : State) (f : Hub → Hub) :
    (w.modHub f).mem = w.mem := rfl
@[simp] theorem State.modHub_poison (w : State) (f : Hub → Hub) :
    (w.modHub f).poison = w.poison := rfl
@[simp] theorem State.modHub_locks (w : State) (f : Hub → Hub) :
    (w.modHub f).locks = w.locks := rfl
@[simp] theorem State.modHub_cores (w : State) (f : Hub → Hub) :
    (w.modHub f).cores = w.cores := rfl
@[simp] theorem State.modHub_quads (w : State) (f : Hub → Hub) :
    (w.modHub f).quads = w.quads := rfl
@[simp] theorem State.modHub_dies (w : State) (f : Hub → Hub) :
    (w.modHub f).dies = w.dies := rfl
@[simp] theorem State.modHub_hub (w : State) (f : Hub → Hub) :
    (w.modHub f).hub = f w.hub := rfl
@[simp] theorem State.modHub_clk (w : State) (f : Hub → Hub) :
    (w.modHub f).clk = w.clk := rfl
@[simp] theorem State.modHub_interlocked (w : State) (f : Hub → Hub) :
    (w.modHub f).interlocked = w.interlocked := rfl
@[simp] theorem State.modHub_crossed (w : State) (f : Hub → Hub) :
    (w.modHub f).crossed = w.crossed := rfl
@[simp] theorem State.modHub_agenda (w : State) (f : Hub → Hub) :
    (w.modHub f).agenda = w.agenda := rfl
@[simp] theorem State.modHub_free (w : State) (f : Hub → Hub) :
    (w.modHub f).free = w.free := rfl

/-! State.modPart -/

@[simp] theorem State.modPart_st (w : State) (n : Nat) (f : Part → Part) :
    (w.modPart n f).st = w.st := rfl
@[simp] theorem State.modPart_strands (w : State) (n : Nat) (f : Part → Part) :
    (w.modPart n f).strands = w.strands := rfl
@[simp] theorem State.modPart_order (w : State) (n : Nat) (f : Part → Part) :
    (w.modPart n f).order = w.order := rfl
@[simp] theorem State.modPart_mem (w : State) (n : Nat) (f : Part → Part) :
    (w.modPart n f).mem = w.mem := rfl
@[simp] theorem State.modPart_poison (w : State) (n : Nat) (f : Part → Part) :
    (w.modPart n f).poison = w.poison := rfl
@[simp] theorem State.modPart_locks (w : State) (n : Nat) (f : Part → Part) :
    (w.modPart n f).locks = w.locks := rfl
@[simp] theorem State.modPart_cores (w : State) (n : Nat) (f : Part → Part) :
    (w.modPart n f).cores = w.cores := rfl
@[simp] theorem State.modPart_quads (w : State) (n : Nat) (f : Part → Part) :
    (w.modPart n f).quads = w.quads := rfl
@[simp] theorem State.modPart_dies (w : State) (n : Nat) (f : Part → Part) :
    (w.modPart n f).dies = w.dies := rfl
@[simp] theorem State.modPart_clk (w : State) (n : Nat) (f : Part → Part) :
    (w.modPart n f).clk = w.clk := rfl
@[simp] theorem State.modPart_interlocked (w : State) (n : Nat) (f : Part → Part) :
    (w.modPart n f).interlocked = w.interlocked := rfl
@[simp] theorem State.modPart_crossed (w : State) (n : Nat) (f : Part → Part) :
    (w.modPart n f).crossed = w.crossed := rfl
@[simp] theorem State.modPart_agenda (w : State) (n : Nat) (f : Part → Part) :
    (w.modPart n f).agenda = w.agenda := rfl
@[simp] theorem State.modPart_free (w : State) (n : Nat) (f : Part → Part) :
    (w.modPart n f).free = w.free := rfl

/-! State.modSlot -/

@[simp] theorem State.modSlot_st (w : State) (n : Nat) (f : Slot → Slot) :
    (w.modSlot n f).st = w.st := rfl
@[simp] theorem State.modSlot_strands (w : State) (n : Nat) (f : Slot → Slot) :
    (w.modSlot n f).strands = w.strands := rfl
@[simp] theorem State.modSlot_order (w : State) (n : Nat) (f : Slot → Slot) :
    (w.modSlot n f).order = w.order := rfl
@[simp] theorem State.modSlot_mem (w : State) (n : Nat) (f : Slot → Slot) :
    (w.modSlot n f).mem = w.mem := rfl
@[simp] theorem State.modSlot_poison (w : State) (n : Nat) (f : Slot → Slot) :
    (w.modSlot n f).poison = w.poison := rfl
@[simp] theorem State.modSlot_locks (w : State) (n : Nat) (f : Slot → Slot) :
    (w.modSlot n f).locks = w.locks := rfl
@[simp] theorem State.modSlot_cores (w : State) (n : Nat) (f : Slot → Slot) :
    (w.modSlot n f).cores = w.cores := rfl
@[simp] theorem State.modSlot_quads (w : State) (n : Nat) (f : Slot → Slot) :
    (w.modSlot n f).quads = w.quads := rfl
@[simp] theorem State.modSlot_dies (w : State) (n : Nat) (f : Slot → Slot) :
    (w.modSlot n f).dies = w.dies := rfl
@[simp] theorem State.modSlot_clk (w : State) (n : Nat) (f : Slot → Slot) :
    (w.modSlot n f).clk = w.clk := rfl
@[simp] theorem State.modSlot_interlocked (w : State) (n : Nat) (f : Slot → Slot) :
    (w.modSlot n f).interlocked = w.interlocked := rfl
@[simp] theorem State.modSlot_crossed (w : State) (n : Nat) (f : Slot → Slot) :
    (w.modSlot n f).crossed = w.crossed := rfl
@[simp] theorem State.modSlot_agenda (w : State) (n : Nat) (f : Slot → Slot) :
    (w.modSlot n f).agenda = w.agenda := rfl
@[simp] theorem State.modSlot_free (w : State) (n : Nat) (f : Slot → Slot) :
    (w.modSlot n f).free = w.free := rfl

/-! State.count -/

@[simp] theorem State.count_st (w : State) (p : Nat) (c : Counter) (n : Nat) :
    (w.count p c n).st = w.st := rfl
@[simp] theorem State.count_strands (w : State) (p : Nat) (c : Counter) (n : Nat) :
    (w.count p c n).strands = w.strands := rfl
@[simp] theorem State.count_order (w : State) (p : Nat) (c : Counter) (n : Nat) :
    (w.count p c n).order = w.order := rfl
@[simp] theorem State.count_mem (w : State) (p : Nat) (c : Counter) (n : Nat) :
    (w.count p c n).mem = w.mem := rfl
@[simp] theorem State.count_poison (w : State) (p : Nat) (c : Counter) (n : Nat) :
    (w.count p c n).poison = w.poison := rfl
@[simp] theorem State.count_locks (w : State) (p : Nat) (c : Counter) (n : Nat) :
    (w.count p c n).locks = w.locks := rfl
@[simp] theorem State.count_cores (w : State) (p : Nat) (c : Counter) (n : Nat) :
    (w.count p c n).cores = w.cores := rfl
@[simp] theorem State.count_quads (w : State) (p : Nat) (c : Counter) (n : Nat) :
    (w.count p c n).quads = w.quads := rfl
@[simp] theorem State.count_dies (w : State) (p : Nat) (c : Counter) (n : Nat) :
    (w.count p c n).dies = w.dies := rfl
@[simp] theorem State.count_clk (w : State) (p : Nat) (c : Counter) (n : Nat) :
    (w.count p c n).clk = w.clk := rfl
@[simp] theorem State.count_interlocked (w : State) (p : Nat) (c : Counter) (n : Nat) :
    (w.count p c n).interlocked = w.interlocked := rfl
@[simp] theorem State.count_crossed (w : State) (p : Nat) (c : Counter) (n : Nat) :
    (w.count p c n).crossed = w.crossed := rfl
@[simp] theorem State.count_agenda (w : State) (p : Nat) (c : Counter) (n : Nat) :
    (w.count p c n).agenda = w.agenda := rfl
@[simp] theorem State.count_free (w : State) (p : Nat) (c : Counter) (n : Nat) :
    (w.count p c n).free = w.free := rfl

/-! State.modDieRegs -/

@[simp] theorem State.modDieRegs_st (w : State) (n p : Nat) (f : DieRegs → DieRegs) :
    (w.modDieRegs n p f).st = w.st := rfl
@[simp] theorem State.modDieRegs_strands (w : State) (n p : Nat) (f : DieRegs → DieRegs) :
    (w.modDieRegs n p f).strands = w.strands := rfl
@[simp] theorem State.modDieRegs_order (w : State) (n p : Nat) (f : DieRegs → DieRegs) :
    (w.modDieRegs n p f).order = w.order := rfl
@[simp] theorem State.modDieRegs_mem (w : State) (n p : Nat) (f : DieRegs → DieRegs) :
    (w.modDieRegs n p f).mem = w.mem := rfl
@[simp] theorem State.modDieRegs_poison (w : State) (n p : Nat) (f : DieRegs → DieRegs) :
    (w.modDieRegs n p f).poison = w.poison := rfl
@[simp] theorem State.modDieRegs_locks (w : State) (n p : Nat) (f : DieRegs → DieRegs) :
    (w.modDieRegs n p f).locks = w.locks := rfl
@[simp] theorem State.modDieRegs_cores (w : State) (n p : Nat) (f : DieRegs → DieRegs) :
    (w.modDieRegs n p f).cores = w.cores := rfl
@[simp] theorem State.modDieRegs_quads (w : State) (n p : Nat) (f : DieRegs → DieRegs) :
    (w.modDieRegs n p f).quads = w.quads := rfl
@[simp] theorem State.modDieRegs_hub (w : State) (n p : Nat) (f : DieRegs → DieRegs) :
    (w.modDieRegs n p f).hub = w.hub := rfl
@[simp] theorem State.modDieRegs_clk (w : State) (n p : Nat) (f : DieRegs → DieRegs) :
    (w.modDieRegs n p f).clk = w.clk := rfl
@[simp] theorem State.modDieRegs_interlocked (w : State) (n p : Nat) (f : DieRegs → DieRegs) :
    (w.modDieRegs n p f).interlocked = w.interlocked := rfl
@[simp] theorem State.modDieRegs_crossed (w : State) (n p : Nat) (f : DieRegs → DieRegs) :
    (w.modDieRegs n p f).crossed = w.crossed := rfl
@[simp] theorem State.modDieRegs_agenda (w : State) (n p : Nat) (f : DieRegs → DieRegs) :
    (w.modDieRegs n p f).agenda = w.agenda := rfl
@[simp] theorem State.modDieRegs_free (w : State) (n p : Nat) (f : DieRegs → DieRegs) :
    (w.modDieRegs n p f).free = w.free := rfl

/-! State.modCreel -/

@[simp] theorem State.modCreel_st (w : State) (n p : Nat) (f : CreelSet → CreelSet) :
    (w.modCreel n p f).st = w.st := rfl
@[simp] theorem State.modCreel_strands (w : State) (n p : Nat) (f : CreelSet → CreelSet) :
    (w.modCreel n p f).strands = w.strands := rfl
@[simp] theorem State.modCreel_order (w : State) (n p : Nat) (f : CreelSet → CreelSet) :
    (w.modCreel n p f).order = w.order := rfl
@[simp] theorem State.modCreel_mem (w : State) (n p : Nat) (f : CreelSet → CreelSet) :
    (w.modCreel n p f).mem = w.mem := rfl
@[simp] theorem State.modCreel_poison (w : State) (n p : Nat) (f : CreelSet → CreelSet) :
    (w.modCreel n p f).poison = w.poison := rfl
@[simp] theorem State.modCreel_locks (w : State) (n p : Nat) (f : CreelSet → CreelSet) :
    (w.modCreel n p f).locks = w.locks := rfl
@[simp] theorem State.modCreel_cores (w : State) (n p : Nat) (f : CreelSet → CreelSet) :
    (w.modCreel n p f).cores = w.cores := rfl
@[simp] theorem State.modCreel_quads (w : State) (n p : Nat) (f : CreelSet → CreelSet) :
    (w.modCreel n p f).quads = w.quads := rfl
@[simp] theorem State.modCreel_hub (w : State) (n p : Nat) (f : CreelSet → CreelSet) :
    (w.modCreel n p f).hub = w.hub := rfl
@[simp] theorem State.modCreel_clk (w : State) (n p : Nat) (f : CreelSet → CreelSet) :
    (w.modCreel n p f).clk = w.clk := rfl
@[simp] theorem State.modCreel_interlocked (w : State) (n p : Nat) (f : CreelSet → CreelSet) :
    (w.modCreel n p f).interlocked = w.interlocked := rfl
@[simp] theorem State.modCreel_crossed (w : State) (n p : Nat) (f : CreelSet → CreelSet) :
    (w.modCreel n p f).crossed = w.crossed := rfl
@[simp] theorem State.modCreel_agenda (w : State) (n p : Nat) (f : CreelSet → CreelSet) :
    (w.modCreel n p f).agenda = w.agenda := rfl
@[simp] theorem State.modCreel_free (w : State) (n p : Nat) (f : CreelSet → CreelSet) :
    (w.modCreel n p f).free = w.free := rfl

/-! State.dieLog -/

@[simp] theorem State.dieLog_st (w : State) (n kind data sid : Nat) :
    (w.dieLog n kind data sid).st = w.st := by rw [State.dieLog, State.modDie_st]
@[simp] theorem State.dieLog_strands (w : State) (n kind data sid : Nat) :
    (w.dieLog n kind data sid).strands = w.strands := by rw [State.dieLog, State.modDie_strands]
@[simp] theorem State.dieLog_order (w : State) (n kind data sid : Nat) :
    (w.dieLog n kind data sid).order = w.order := by rw [State.dieLog, State.modDie_order]
@[simp] theorem State.dieLog_mem (w : State) (n kind data sid : Nat) :
    (w.dieLog n kind data sid).mem = w.mem := by rw [State.dieLog, State.modDie_mem]
@[simp] theorem State.dieLog_poison (w : State) (n kind data sid : Nat) :
    (w.dieLog n kind data sid).poison = w.poison := by rw [State.dieLog, State.modDie_poison]
@[simp] theorem State.dieLog_locks (w : State) (n kind data sid : Nat) :
    (w.dieLog n kind data sid).locks = w.locks := by rw [State.dieLog, State.modDie_locks]
@[simp] theorem State.dieLog_cores (w : State) (n kind data sid : Nat) :
    (w.dieLog n kind data sid).cores = w.cores := by rw [State.dieLog, State.modDie_cores]
@[simp] theorem State.dieLog_quads (w : State) (n kind data sid : Nat) :
    (w.dieLog n kind data sid).quads = w.quads := by rw [State.dieLog, State.modDie_quads]
@[simp] theorem State.dieLog_hub (w : State) (n kind data sid : Nat) :
    (w.dieLog n kind data sid).hub = w.hub := by rw [State.dieLog, State.modDie_hub]
@[simp] theorem State.dieLog_clk (w : State) (n kind data sid : Nat) :
    (w.dieLog n kind data sid).clk = w.clk := by rw [State.dieLog, State.modDie_clk]
@[simp] theorem State.dieLog_interlocked (w : State) (n kind data sid : Nat) :
    (w.dieLog n kind data sid).interlocked = w.interlocked := by rw [State.dieLog, State.modDie_interlocked]
@[simp] theorem State.dieLog_crossed (w : State) (n kind data sid : Nat) :
    (w.dieLog n kind data sid).crossed = w.crossed := by rw [State.dieLog, State.modDie_crossed]
@[simp] theorem State.dieLog_agenda (w : State) (n kind data sid : Nat) :
    (w.dieLog n kind data sid).agenda = w.agenda := by rw [State.dieLog, State.modDie_agenda]
@[simp] theorem State.dieLog_free (w : State) (n kind data sid : Nat) :
    (w.dieLog n kind data sid).free = w.free := by rw [State.dieLog, State.modDie_free]

/-! State.hubLog -/

@[simp] theorem State.hubLog_st (w : State) (kind data sid : Nat) :
    (w.hubLog kind data sid).st = w.st := by rw [State.hubLog, State.modHub_st]
@[simp] theorem State.hubLog_strands (w : State) (kind data sid : Nat) :
    (w.hubLog kind data sid).strands = w.strands := by rw [State.hubLog, State.modHub_strands]
@[simp] theorem State.hubLog_order (w : State) (kind data sid : Nat) :
    (w.hubLog kind data sid).order = w.order := by rw [State.hubLog, State.modHub_order]
@[simp] theorem State.hubLog_mem (w : State) (kind data sid : Nat) :
    (w.hubLog kind data sid).mem = w.mem := by rw [State.hubLog, State.modHub_mem]
@[simp] theorem State.hubLog_poison (w : State) (kind data sid : Nat) :
    (w.hubLog kind data sid).poison = w.poison := by rw [State.hubLog, State.modHub_poison]
@[simp] theorem State.hubLog_locks (w : State) (kind data sid : Nat) :
    (w.hubLog kind data sid).locks = w.locks := by rw [State.hubLog, State.modHub_locks]
@[simp] theorem State.hubLog_cores (w : State) (kind data sid : Nat) :
    (w.hubLog kind data sid).cores = w.cores := by rw [State.hubLog, State.modHub_cores]
@[simp] theorem State.hubLog_quads (w : State) (kind data sid : Nat) :
    (w.hubLog kind data sid).quads = w.quads := by rw [State.hubLog, State.modHub_quads]
@[simp] theorem State.hubLog_dies (w : State) (kind data sid : Nat) :
    (w.hubLog kind data sid).dies = w.dies := by rw [State.hubLog, State.modHub_dies]
@[simp] theorem State.hubLog_clk (w : State) (kind data sid : Nat) :
    (w.hubLog kind data sid).clk = w.clk := by rw [State.hubLog, State.modHub_clk]
@[simp] theorem State.hubLog_interlocked (w : State) (kind data sid : Nat) :
    (w.hubLog kind data sid).interlocked = w.interlocked := by rw [State.hubLog, State.modHub_interlocked]
@[simp] theorem State.hubLog_crossed (w : State) (kind data sid : Nat) :
    (w.hubLog kind data sid).crossed = w.crossed := by rw [State.hubLog, State.modHub_crossed]
@[simp] theorem State.hubLog_agenda (w : State) (kind data sid : Nat) :
    (w.hubLog kind data sid).agenda = w.agenda := by rw [State.hubLog, State.modHub_agenda]
@[simp] theorem State.hubLog_free (w : State) (kind data sid : Nat) :
    (w.hubLog kind data sid).free = w.free := by rw [State.hubLog, State.modHub_free]

/-! State.takeFree -/

@[simp] theorem State.takeFree_st (w : State) :
    (w.takeFree).st = w.st := rfl
@[simp] theorem State.takeFree_strands (w : State) :
    (w.takeFree).strands = w.strands := rfl
@[simp] theorem State.takeFree_order (w : State) :
    (w.takeFree).order = w.order := rfl
@[simp] theorem State.takeFree_mem (w : State) :
    (w.takeFree).mem = w.mem := rfl
@[simp] theorem State.takeFree_poison (w : State) :
    (w.takeFree).poison = w.poison := rfl
@[simp] theorem State.takeFree_locks (w : State) :
    (w.takeFree).locks = w.locks := rfl
@[simp] theorem State.takeFree_cores (w : State) :
    (w.takeFree).cores = w.cores := rfl
@[simp] theorem State.takeFree_quads (w : State) :
    (w.takeFree).quads = w.quads := rfl
@[simp] theorem State.takeFree_dies (w : State) :
    (w.takeFree).dies = w.dies := rfl
@[simp] theorem State.takeFree_hub (w : State) :
    (w.takeFree).hub = w.hub := rfl
@[simp] theorem State.takeFree_clk (w : State) :
    (w.takeFree).clk = w.clk := rfl
@[simp] theorem State.takeFree_interlocked (w : State) :
    (w.takeFree).interlocked = w.interlocked := rfl
@[simp] theorem State.takeFree_crossed (w : State) :
    (w.takeFree).crossed = w.crossed := rfl
@[simp] theorem State.takeFree_agenda (w : State) :
    (w.takeFree).agenda = w.agenda := rfl
@[simp] theorem State.takeFree_free (w : State) :
    (w.takeFree).free = w.free + 1 := rfl

/-! State.toBack -/

@[simp] theorem State.toBack_st (w : State) (n : Nat) :
    (w.toBack n).st = w.st := rfl
@[simp] theorem State.toBack_strands (w : State) (n : Nat) :
    (w.toBack n).strands = w.strands := rfl
@[simp] theorem State.toBack_order (w : State) (n : Nat) :
    (w.toBack n).order = w.order.filter (· != n) ++ [n] := rfl
@[simp] theorem State.toBack_mem (w : State) (n : Nat) :
    (w.toBack n).mem = w.mem := rfl
@[simp] theorem State.toBack_poison (w : State) (n : Nat) :
    (w.toBack n).poison = w.poison := rfl
@[simp] theorem State.toBack_locks (w : State) (n : Nat) :
    (w.toBack n).locks = w.locks := rfl
@[simp] theorem State.toBack_cores (w : State) (n : Nat) :
    (w.toBack n).cores = w.cores := rfl
@[simp] theorem State.toBack_quads (w : State) (n : Nat) :
    (w.toBack n).quads = w.quads := rfl
@[simp] theorem State.toBack_dies (w : State) (n : Nat) :
    (w.toBack n).dies = w.dies := rfl
@[simp] theorem State.toBack_hub (w : State) (n : Nat) :
    (w.toBack n).hub = w.hub := rfl
@[simp] theorem State.toBack_clk (w : State) (n : Nat) :
    (w.toBack n).clk = w.clk := rfl
@[simp] theorem State.toBack_interlocked (w : State) (n : Nat) :
    (w.toBack n).interlocked = w.interlocked := rfl
@[simp] theorem State.toBack_crossed (w : State) (n : Nat) :
    (w.toBack n).crossed = w.crossed := rfl
@[simp] theorem State.toBack_agenda (w : State) (n : Nat) :
    (w.toBack n).agenda = w.agenda := rfl
@[simp] theorem State.toBack_free (w : State) (n : Nat) :
    (w.toBack n).free = w.free := rfl

/-! State.block -/

@[simp] theorem State.block_strands (w : State) (a : Wait) :
    (w.block a).strands = w.strands := rfl
@[simp] theorem State.block_order (w : State) (a : Wait) :
    (w.block a).order = w.order := rfl
@[simp] theorem State.block_mem (w : State) (a : Wait) :
    (w.block a).mem = w.mem := rfl
@[simp] theorem State.block_poison (w : State) (a : Wait) :
    (w.block a).poison = w.poison := rfl
@[simp] theorem State.block_locks (w : State) (a : Wait) :
    (w.block a).locks = w.locks := rfl
@[simp] theorem State.block_cores (w : State) (a : Wait) :
    (w.block a).cores = w.cores := rfl
@[simp] theorem State.block_quads (w : State) (a : Wait) :
    (w.block a).quads = w.quads := rfl
@[simp] theorem State.block_dies (w : State) (a : Wait) :
    (w.block a).dies = w.dies := rfl
@[simp] theorem State.block_hub (w : State) (a : Wait) :
    (w.block a).hub = w.hub := rfl
@[simp] theorem State.block_clk (w : State) (a : Wait) :
    (w.block a).clk = w.clk := rfl
@[simp] theorem State.block_interlocked (w : State) (a : Wait) :
    (w.block a).interlocked = w.interlocked := rfl
@[simp] theorem State.block_crossed (w : State) (a : Wait) :
    (w.block a).crossed = w.crossed := rfl
@[simp] theorem State.block_agenda (w : State) (a : Wait) :
    (w.block a).agenda = w.agenda := rfl
@[simp] theorem State.block_free (w : State) (a : Wait) :
    (w.block a).free = w.free := rfl

/-! State.retry -/

@[simp] theorem State.retry_strands (w : State) :
    (w.retry).strands = w.strands := rfl
@[simp] theorem State.retry_order (w : State) :
    (w.retry).order = w.order.filter (· != w.st.sid.toNat) ++ [w.st.sid.toNat] := rfl
@[simp] theorem State.retry_mem (w : State) :
    (w.retry).mem = w.mem := rfl
@[simp] theorem State.retry_poison (w : State) :
    (w.retry).poison = w.poison := rfl
@[simp] theorem State.retry_locks (w : State) :
    (w.retry).locks = w.locks := rfl
@[simp] theorem State.retry_cores (w : State) :
    (w.retry).cores = w.cores := rfl
@[simp] theorem State.retry_quads (w : State) :
    (w.retry).quads = w.quads := rfl
@[simp] theorem State.retry_dies (w : State) :
    (w.retry).dies = w.dies := rfl
@[simp] theorem State.retry_hub (w : State) :
    (w.retry).hub = w.hub := rfl
@[simp] theorem State.retry_clk (w : State) :
    (w.retry).clk = w.clk := rfl
@[simp] theorem State.retry_interlocked (w : State) :
    (w.retry).interlocked = w.interlocked := rfl
@[simp] theorem State.retry_crossed (w : State) :
    (w.retry).crossed = w.crossed := rfl
@[simp] theorem State.retry_agenda (w : State) :
    (w.retry).agenda = w.agenda := rfl
@[simp] theorem State.retry_free (w : State) :
    (w.retry).free = w.free := rfl

/-! State.setG -/

@[simp] theorem State.setG_st (w : State) (n : BitVec 5) (y : Word) :
    (w.setG n y).st = w.st.setG n y := rfl
@[simp] theorem State.setG_strands (w : State) (n : BitVec 5) (y : Word) :
    (w.setG n y).strands = w.strands := rfl
@[simp] theorem State.setG_order (w : State) (n : BitVec 5) (y : Word) :
    (w.setG n y).order = w.order := rfl
@[simp] theorem State.setG_mem (w : State) (n : BitVec 5) (y : Word) :
    (w.setG n y).mem = w.mem := rfl
@[simp] theorem State.setG_poison (w : State) (n : BitVec 5) (y : Word) :
    (w.setG n y).poison = w.poison := rfl
@[simp] theorem State.setG_locks (w : State) (n : BitVec 5) (y : Word) :
    (w.setG n y).locks = w.locks := rfl
@[simp] theorem State.setG_cores (w : State) (n : BitVec 5) (y : Word) :
    (w.setG n y).cores = w.cores := rfl
@[simp] theorem State.setG_quads (w : State) (n : BitVec 5) (y : Word) :
    (w.setG n y).quads = w.quads := rfl
@[simp] theorem State.setG_dies (w : State) (n : BitVec 5) (y : Word) :
    (w.setG n y).dies = w.dies := rfl
@[simp] theorem State.setG_hub (w : State) (n : BitVec 5) (y : Word) :
    (w.setG n y).hub = w.hub := rfl
@[simp] theorem State.setG_clk (w : State) (n : BitVec 5) (y : Word) :
    (w.setG n y).clk = w.clk := rfl
@[simp] theorem State.setG_interlocked (w : State) (n : BitVec 5) (y : Word) :
    (w.setG n y).interlocked = w.interlocked := rfl
@[simp] theorem State.setG_crossed (w : State) (n : BitVec 5) (y : Word) :
    (w.setG n y).crossed = w.crossed := rfl
@[simp] theorem State.setG_agenda (w : State) (n : BitVec 5) (y : Word) :
    (w.setG n y).agenda = w.agenda := rfl
@[simp] theorem State.setG_free (w : State) (n : BitVec 5) (y : Word) :
    (w.setG n y).free = w.free := rfl

/-! State.setV -/

@[simp] theorem State.setV_st (w : State) (n : BitVec 4) (y : VReg) :
    (w.setV n y).st = w.st.setV n y := rfl
@[simp] theorem State.setV_strands (w : State) (n : BitVec 4) (y : VReg) :
    (w.setV n y).strands = w.strands := rfl
@[simp] theorem State.setV_order (w : State) (n : BitVec 4) (y : VReg) :
    (w.setV n y).order = w.order := rfl
@[simp] theorem State.setV_mem (w : State) (n : BitVec 4) (y : VReg) :
    (w.setV n y).mem = w.mem := rfl
@[simp] theorem State.setV_poison (w : State) (n : BitVec 4) (y : VReg) :
    (w.setV n y).poison = w.poison := rfl
@[simp] theorem State.setV_locks (w : State) (n : BitVec 4) (y : VReg) :
    (w.setV n y).locks = w.locks := rfl
@[simp] theorem State.setV_cores (w : State) (n : BitVec 4) (y : VReg) :
    (w.setV n y).cores = w.cores := rfl
@[simp] theorem State.setV_quads (w : State) (n : BitVec 4) (y : VReg) :
    (w.setV n y).quads = w.quads := rfl
@[simp] theorem State.setV_dies (w : State) (n : BitVec 4) (y : VReg) :
    (w.setV n y).dies = w.dies := rfl
@[simp] theorem State.setV_hub (w : State) (n : BitVec 4) (y : VReg) :
    (w.setV n y).hub = w.hub := rfl
@[simp] theorem State.setV_clk (w : State) (n : BitVec 4) (y : VReg) :
    (w.setV n y).clk = w.clk := rfl
@[simp] theorem State.setV_interlocked (w : State) (n : BitVec 4) (y : VReg) :
    (w.setV n y).interlocked = w.interlocked := rfl
@[simp] theorem State.setV_crossed (w : State) (n : BitVec 4) (y : VReg) :
    (w.setV n y).crossed = w.crossed := rfl
@[simp] theorem State.setV_agenda (w : State) (n : BitVec 4) (y : VReg) :
    (w.setV n y).agenda = w.agenda := rfl
@[simp] theorem State.setV_free (w : State) (n : BitVec 4) (y : VReg) :
    (w.setV n y).free = w.free := rfl

/-! State.retireTo -/

@[simp] theorem State.retireTo_strands (w : State) (pc : Word) :
    (w.retireTo pc).strands = w.strands := rfl
@[simp] theorem State.retireTo_order (w : State) (pc : Word) :
    (w.retireTo pc).order = w.order.filter (· != w.st.sid.toNat) ++ [w.st.sid.toNat] := rfl
@[simp] theorem State.retireTo_mem (w : State) (pc : Word) :
    (w.retireTo pc).mem = w.mem := rfl
@[simp] theorem State.retireTo_poison (w : State) (pc : Word) :
    (w.retireTo pc).poison = w.poison := rfl
@[simp] theorem State.retireTo_locks (w : State) (pc : Word) :
    (w.retireTo pc).locks = w.locks := rfl
@[simp] theorem State.retireTo_cores (w : State) (pc : Word) :
    (w.retireTo pc).cores = w.cores := rfl
@[simp] theorem State.retireTo_quads (w : State) (pc : Word) :
    (w.retireTo pc).quads = w.quads := rfl
@[simp] theorem State.retireTo_dies (w : State) (pc : Word) :
    (w.retireTo pc).dies = w.dies := rfl
@[simp] theorem State.retireTo_hub (w : State) (pc : Word) :
    (w.retireTo pc).hub = w.hub := rfl
@[simp] theorem State.retireTo_clk (w : State) (pc : Word) :
    (w.retireTo pc).clk = w.clk := rfl
@[simp] theorem State.retireTo_interlocked (w : State) (pc : Word) :
    (w.retireTo pc).interlocked = w.interlocked := rfl
@[simp] theorem State.retireTo_crossed (w : State) (pc : Word) :
    (w.retireTo pc).crossed = w.crossed := rfl
@[simp] theorem State.retireTo_agenda (w : State) (pc : Word) :
    (w.retireTo pc).agenda = w.agenda := rfl
@[simp] theorem State.retireTo_free (w : State) (pc : Word) :
    (w.retireTo pc).free = w.free := rfl

/-! Strand.modCtl -/

@[simp] theorem Strand.modCtl_live (x : Strand) (f : Ctl → Ctl) :
    (x.modCtl f).live = x.live := rfl
@[simp] theorem Strand.modCtl_sid (x : Strand) (f : Ctl → Ctl) :
    (x.modCtl f).sid = x.sid := rfl
@[simp] theorem Strand.modCtl_cls (x : Strand) (f : Ctl → Ctl) :
    (x.modCtl f).cls = x.cls := rfl
@[simp] theorem Strand.modCtl_pid (x : Strand) (f : Ctl → Ctl) :
    (x.modCtl f).pid = x.pid := rfl
@[simp] theorem Strand.modCtl_core (x : Strand) (f : Ctl → Ctl) :
    (x.modCtl f).core = x.core := rfl
@[simp] theorem Strand.modCtl_place (x : Strand) (f : Ctl → Ctl) :
    (x.modCtl f).place = x.place := rfl
@[simp] theorem Strand.modCtl_pc (x : Strand) (f : Ctl → Ctl) :
    (x.modCtl f).pc = x.pc := rfl
@[simp] theorem Strand.modCtl_hints (x : Strand) (f : Ctl → Ctl) :
    (x.modCtl f).hints = x.hints := rfl
@[simp] theorem Strand.modCtl_g (x : Strand) (f : Ctl → Ctl) :
    (x.modCtl f).g = x.g := rfl
@[simp] theorem Strand.modCtl_v (x : Strand) (f : Ctl → Ctl) :
    (x.modCtl f).v = x.v := rfl
@[simp] theorem Strand.modCtl_k (x : Strand) (f : Ctl → Ctl) :
    (x.modCtl f).k = x.k := rfl
@[simp] theorem Strand.modCtl_q (x : Strand) (f : Ctl → Ctl) :
    (x.modCtl f).q = x.q := rfl
@[simp] theorem Strand.modCtl_ctl (x : Strand) (f : Ctl → Ctl) :
    (x.modCtl f).ctl = f x.ctl := rfl
@[simp] theorem Strand.modCtl_u (x : Strand) (f : Ctl → Ctl) :
    (x.modCtl f).u = x.u := rfl
@[simp] theorem Strand.modCtl_s (x : Strand) (f : Ctl → Ctl) :
    (x.modCtl f).s = x.s := rfl
@[simp] theorem Strand.modCtl_h (x : Strand) (f : Ctl → Ctl) :
    (x.modCtl f).h = x.h := rfl
@[simp] theorem Strand.modCtl_sdlg (x : Strand) (f : Ctl → Ctl) :
    (x.modCtl f).sdlg = x.sdlg := rfl
@[simp] theorem Strand.modCtl_hdlg (x : Strand) (f : Ctl → Ctl) :
    (x.modCtl f).hdlg = x.hdlg := rfl
@[simp] theorem Strand.modCtl_pending (x : Strand) (f : Ctl → Ctl) :
    (x.modCtl f).pending = x.pending := rfl
@[simp] theorem Strand.modCtl_lost (x : Strand) (f : Ctl → Ctl) :
    (x.modCtl f).lost = x.lost := rfl
@[simp] theorem Strand.modCtl_dueAt (x : Strand) (f : Ctl → Ctl) :
    (x.modCtl f).dueAt = x.dueAt := rfl
@[simp] theorem Strand.modCtl_dueLast (x : Strand) (f : Ctl → Ctl) :
    (x.modCtl f).dueLast = x.dueLast := rfl
@[simp] theorem Strand.modCtl_ext (x : Strand) (f : Ctl → Ctl) :
    (x.modCtl f).ext = x.ext := rfl
@[simp] theorem Strand.modCtl_inflight (x : Strand) (f : Ctl → Ctl) :
    (x.modCtl f).inflight = x.inflight := rfl
@[simp] theorem Strand.modCtl_wait (x : Strand) (f : Ctl → Ctl) :
    (x.modCtl f).wait = x.wait := rfl
@[simp] theorem Strand.modCtl_home (x : Strand) (f : Ctl → Ctl) :
    (x.modCtl f).home = x.home := rfl
@[simp] theorem Strand.modCtl_fbuf (x : Strand) (f : Ctl → Ctl) :
    (x.modCtl f).fbuf = x.fbuf := rfl
@[simp] theorem Strand.modCtl_flags (x : Strand) (f : Ctl → Ctl) :
    (x.modCtl f).flags = x.flags := rfl
@[simp] theorem Strand.modCtl_parkCycles (x : Strand) (f : Ctl → Ctl) :
    (x.modCtl f).parkCycles = x.parkCycles := rfl
@[simp] theorem Strand.modCtl_counted (x : Strand) (f : Ctl → Ctl) :
    (x.modCtl f).counted = x.counted := rfl
@[simp] theorem Strand.modCtl_moving (x : Strand) (f : Ctl → Ctl) :
    (x.modCtl f).moving = x.moving := rfl
@[simp] theorem Strand.modCtl_resuming (x : Strand) (f : Ctl → Ctl) :
    (x.modCtl f).resuming = x.resuming := rfl
@[simp] theorem Strand.modCtl_left (x : Strand) (f : Ctl → Ctl) :
    (x.modCtl f).left = x.left := rfl
@[simp] theorem Strand.modCtl_frame (x : Strand) (f : Ctl → Ctl) :
    (x.modCtl f).frame = x.frame := rfl
@[simp] theorem Strand.modCtl_pool (x : Strand) (f : Ctl → Ctl) :
    (x.modCtl f).pool = x.pool := rfl

/-! Strand.modFlags -/

@[simp] theorem Strand.modFlags_live (x : Strand) (f : StrandFlags → StrandFlags) :
    (x.modFlags f).live = x.live := rfl
@[simp] theorem Strand.modFlags_sid (x : Strand) (f : StrandFlags → StrandFlags) :
    (x.modFlags f).sid = x.sid := rfl
@[simp] theorem Strand.modFlags_cls (x : Strand) (f : StrandFlags → StrandFlags) :
    (x.modFlags f).cls = x.cls := rfl
@[simp] theorem Strand.modFlags_pid (x : Strand) (f : StrandFlags → StrandFlags) :
    (x.modFlags f).pid = x.pid := rfl
@[simp] theorem Strand.modFlags_core (x : Strand) (f : StrandFlags → StrandFlags) :
    (x.modFlags f).core = x.core := rfl
@[simp] theorem Strand.modFlags_place (x : Strand) (f : StrandFlags → StrandFlags) :
    (x.modFlags f).place = x.place := rfl
@[simp] theorem Strand.modFlags_pc (x : Strand) (f : StrandFlags → StrandFlags) :
    (x.modFlags f).pc = x.pc := rfl
@[simp] theorem Strand.modFlags_hints (x : Strand) (f : StrandFlags → StrandFlags) :
    (x.modFlags f).hints = x.hints := rfl
@[simp] theorem Strand.modFlags_g (x : Strand) (f : StrandFlags → StrandFlags) :
    (x.modFlags f).g = x.g := rfl
@[simp] theorem Strand.modFlags_v (x : Strand) (f : StrandFlags → StrandFlags) :
    (x.modFlags f).v = x.v := rfl
@[simp] theorem Strand.modFlags_k (x : Strand) (f : StrandFlags → StrandFlags) :
    (x.modFlags f).k = x.k := rfl
@[simp] theorem Strand.modFlags_q (x : Strand) (f : StrandFlags → StrandFlags) :
    (x.modFlags f).q = x.q := rfl
@[simp] theorem Strand.modFlags_ctl (x : Strand) (f : StrandFlags → StrandFlags) :
    (x.modFlags f).ctl = x.ctl := rfl
@[simp] theorem Strand.modFlags_u (x : Strand) (f : StrandFlags → StrandFlags) :
    (x.modFlags f).u = x.u := rfl
@[simp] theorem Strand.modFlags_s (x : Strand) (f : StrandFlags → StrandFlags) :
    (x.modFlags f).s = x.s := rfl
@[simp] theorem Strand.modFlags_h (x : Strand) (f : StrandFlags → StrandFlags) :
    (x.modFlags f).h = x.h := rfl
@[simp] theorem Strand.modFlags_sdlg (x : Strand) (f : StrandFlags → StrandFlags) :
    (x.modFlags f).sdlg = x.sdlg := rfl
@[simp] theorem Strand.modFlags_hdlg (x : Strand) (f : StrandFlags → StrandFlags) :
    (x.modFlags f).hdlg = x.hdlg := rfl
@[simp] theorem Strand.modFlags_pending (x : Strand) (f : StrandFlags → StrandFlags) :
    (x.modFlags f).pending = x.pending := rfl
@[simp] theorem Strand.modFlags_lost (x : Strand) (f : StrandFlags → StrandFlags) :
    (x.modFlags f).lost = x.lost := rfl
@[simp] theorem Strand.modFlags_dueAt (x : Strand) (f : StrandFlags → StrandFlags) :
    (x.modFlags f).dueAt = x.dueAt := rfl
@[simp] theorem Strand.modFlags_dueLast (x : Strand) (f : StrandFlags → StrandFlags) :
    (x.modFlags f).dueLast = x.dueLast := rfl
@[simp] theorem Strand.modFlags_ext (x : Strand) (f : StrandFlags → StrandFlags) :
    (x.modFlags f).ext = x.ext := rfl
@[simp] theorem Strand.modFlags_inflight (x : Strand) (f : StrandFlags → StrandFlags) :
    (x.modFlags f).inflight = x.inflight := rfl
@[simp] theorem Strand.modFlags_wait (x : Strand) (f : StrandFlags → StrandFlags) :
    (x.modFlags f).wait = x.wait := rfl
@[simp] theorem Strand.modFlags_home (x : Strand) (f : StrandFlags → StrandFlags) :
    (x.modFlags f).home = x.home := rfl
@[simp] theorem Strand.modFlags_fbuf (x : Strand) (f : StrandFlags → StrandFlags) :
    (x.modFlags f).fbuf = x.fbuf := rfl
@[simp] theorem Strand.modFlags_flags (x : Strand) (f : StrandFlags → StrandFlags) :
    (x.modFlags f).flags = f x.flags := rfl
@[simp] theorem Strand.modFlags_parkCycles (x : Strand) (f : StrandFlags → StrandFlags) :
    (x.modFlags f).parkCycles = x.parkCycles := rfl
@[simp] theorem Strand.modFlags_counted (x : Strand) (f : StrandFlags → StrandFlags) :
    (x.modFlags f).counted = x.counted := rfl
@[simp] theorem Strand.modFlags_moving (x : Strand) (f : StrandFlags → StrandFlags) :
    (x.modFlags f).moving = x.moving := rfl
@[simp] theorem Strand.modFlags_resuming (x : Strand) (f : StrandFlags → StrandFlags) :
    (x.modFlags f).resuming = x.resuming := rfl
@[simp] theorem Strand.modFlags_left (x : Strand) (f : StrandFlags → StrandFlags) :
    (x.modFlags f).left = x.left := rfl
@[simp] theorem Strand.modFlags_frame (x : Strand) (f : StrandFlags → StrandFlags) :
    (x.modFlags f).frame = x.frame := rfl
@[simp] theorem Strand.modFlags_pool (x : Strand) (f : StrandFlags → StrandFlags) :
    (x.modFlags f).pool = x.pool := rfl

/-! Strand.setV -/

@[simp] theorem Strand.setV_live (x : Strand) (n : BitVec 4) (y : VReg) :
    (x.setV n y).live = x.live := rfl
@[simp] theorem Strand.setV_sid (x : Strand) (n : BitVec 4) (y : VReg) :
    (x.setV n y).sid = x.sid := rfl
@[simp] theorem Strand.setV_cls (x : Strand) (n : BitVec 4) (y : VReg) :
    (x.setV n y).cls = x.cls := rfl
@[simp] theorem Strand.setV_pid (x : Strand) (n : BitVec 4) (y : VReg) :
    (x.setV n y).pid = x.pid := rfl
@[simp] theorem Strand.setV_core (x : Strand) (n : BitVec 4) (y : VReg) :
    (x.setV n y).core = x.core := rfl
@[simp] theorem Strand.setV_place (x : Strand) (n : BitVec 4) (y : VReg) :
    (x.setV n y).place = x.place := rfl
@[simp] theorem Strand.setV_pc (x : Strand) (n : BitVec 4) (y : VReg) :
    (x.setV n y).pc = x.pc := rfl
@[simp] theorem Strand.setV_hints (x : Strand) (n : BitVec 4) (y : VReg) :
    (x.setV n y).hints = x.hints := rfl
@[simp] theorem Strand.setV_g (x : Strand) (n : BitVec 4) (y : VReg) :
    (x.setV n y).g = x.g := rfl
@[simp] theorem Strand.setV_v (x : Strand) (n : BitVec 4) (y : VReg) :
    (x.setV n y).v = x.v.set n.toNat y n.isLt := rfl
@[simp] theorem Strand.setV_k (x : Strand) (n : BitVec 4) (y : VReg) :
    (x.setV n y).k = x.k := rfl
@[simp] theorem Strand.setV_q (x : Strand) (n : BitVec 4) (y : VReg) :
    (x.setV n y).q = x.q := rfl
@[simp] theorem Strand.setV_ctl (x : Strand) (n : BitVec 4) (y : VReg) :
    (x.setV n y).ctl = x.ctl := rfl
@[simp] theorem Strand.setV_u (x : Strand) (n : BitVec 4) (y : VReg) :
    (x.setV n y).u = x.u := rfl
@[simp] theorem Strand.setV_s (x : Strand) (n : BitVec 4) (y : VReg) :
    (x.setV n y).s = x.s := rfl
@[simp] theorem Strand.setV_h (x : Strand) (n : BitVec 4) (y : VReg) :
    (x.setV n y).h = x.h := rfl
@[simp] theorem Strand.setV_sdlg (x : Strand) (n : BitVec 4) (y : VReg) :
    (x.setV n y).sdlg = x.sdlg := rfl
@[simp] theorem Strand.setV_hdlg (x : Strand) (n : BitVec 4) (y : VReg) :
    (x.setV n y).hdlg = x.hdlg := rfl
@[simp] theorem Strand.setV_pending (x : Strand) (n : BitVec 4) (y : VReg) :
    (x.setV n y).pending = x.pending := rfl
@[simp] theorem Strand.setV_lost (x : Strand) (n : BitVec 4) (y : VReg) :
    (x.setV n y).lost = x.lost := rfl
@[simp] theorem Strand.setV_dueAt (x : Strand) (n : BitVec 4) (y : VReg) :
    (x.setV n y).dueAt = x.dueAt := rfl
@[simp] theorem Strand.setV_dueLast (x : Strand) (n : BitVec 4) (y : VReg) :
    (x.setV n y).dueLast = x.dueLast := rfl
@[simp] theorem Strand.setV_ext (x : Strand) (n : BitVec 4) (y : VReg) :
    (x.setV n y).ext = x.ext := rfl
@[simp] theorem Strand.setV_inflight (x : Strand) (n : BitVec 4) (y : VReg) :
    (x.setV n y).inflight = x.inflight := rfl
@[simp] theorem Strand.setV_wait (x : Strand) (n : BitVec 4) (y : VReg) :
    (x.setV n y).wait = x.wait := rfl
@[simp] theorem Strand.setV_home (x : Strand) (n : BitVec 4) (y : VReg) :
    (x.setV n y).home = x.home := rfl
@[simp] theorem Strand.setV_fbuf (x : Strand) (n : BitVec 4) (y : VReg) :
    (x.setV n y).fbuf = x.fbuf := rfl
@[simp] theorem Strand.setV_flags (x : Strand) (n : BitVec 4) (y : VReg) :
    (x.setV n y).flags = x.flags := rfl
@[simp] theorem Strand.setV_parkCycles (x : Strand) (n : BitVec 4) (y : VReg) :
    (x.setV n y).parkCycles = x.parkCycles := rfl
@[simp] theorem Strand.setV_counted (x : Strand) (n : BitVec 4) (y : VReg) :
    (x.setV n y).counted = x.counted := rfl
@[simp] theorem Strand.setV_moving (x : Strand) (n : BitVec 4) (y : VReg) :
    (x.setV n y).moving = x.moving := rfl
@[simp] theorem Strand.setV_resuming (x : Strand) (n : BitVec 4) (y : VReg) :
    (x.setV n y).resuming = x.resuming := rfl
@[simp] theorem Strand.setV_left (x : Strand) (n : BitVec 4) (y : VReg) :
    (x.setV n y).left = x.left := rfl
@[simp] theorem Strand.setV_frame (x : Strand) (n : BitVec 4) (y : VReg) :
    (x.setV n y).frame = x.frame := rfl
@[simp] theorem Strand.setV_pool (x : Strand) (n : BitVec 4) (y : VReg) :
    (x.setV n y).pool = x.pool := rfl

/-! Strand.again -/

@[simp] theorem Strand.again_live (x : Strand) :
    (x.again).live = x.live := rfl
@[simp] theorem Strand.again_sid (x : Strand) :
    (x.again).sid = x.sid := rfl
@[simp] theorem Strand.again_cls (x : Strand) :
    (x.again).cls = x.cls := rfl
@[simp] theorem Strand.again_pid (x : Strand) :
    (x.again).pid = x.pid := rfl
@[simp] theorem Strand.again_core (x : Strand) :
    (x.again).core = x.core := rfl
@[simp] theorem Strand.again_place (x : Strand) :
    (x.again).place = x.place := rfl
@[simp] theorem Strand.again_pc (x : Strand) :
    (x.again).pc = x.pc := rfl
@[simp] theorem Strand.again_hints (x : Strand) :
    (x.again).hints = [] := rfl
@[simp] theorem Strand.again_g (x : Strand) :
    (x.again).g = x.g := rfl
@[simp] theorem Strand.again_v (x : Strand) :
    (x.again).v = x.v := rfl
@[simp] theorem Strand.again_k (x : Strand) :
    (x.again).k = x.k := rfl
@[simp] theorem Strand.again_q (x : Strand) :
    (x.again).q = x.q := rfl
@[simp] theorem Strand.again_ctl (x : Strand) :
    (x.again).ctl = x.ctl := rfl
@[simp] theorem Strand.again_u (x : Strand) :
    (x.again).u = x.u := rfl
@[simp] theorem Strand.again_s (x : Strand) :
    (x.again).s = x.s := rfl
@[simp] theorem Strand.again_h (x : Strand) :
    (x.again).h = x.h := rfl
@[simp] theorem Strand.again_sdlg (x : Strand) :
    (x.again).sdlg = x.sdlg := rfl
@[simp] theorem Strand.again_hdlg (x : Strand) :
    (x.again).hdlg = x.hdlg := rfl
@[simp] theorem Strand.again_pending (x : Strand) :
    (x.again).pending = x.pending := rfl
@[simp] theorem Strand.again_lost (x : Strand) :
    (x.again).lost = x.lost := rfl
@[simp] theorem Strand.again_dueAt (x : Strand) :
    (x.again).dueAt = x.dueAt := rfl
@[simp] theorem Strand.again_dueLast (x : Strand) :
    (x.again).dueLast = x.dueLast := rfl
@[simp] theorem Strand.again_ext (x : Strand) :
    (x.again).ext = x.ext := rfl
@[simp] theorem Strand.again_inflight (x : Strand) :
    (x.again).inflight = x.inflight := rfl
@[simp] theorem Strand.again_wait (x : Strand) :
    (x.again).wait = none := rfl
@[simp] theorem Strand.again_home (x : Strand) :
    (x.again).home = x.home := rfl
@[simp] theorem Strand.again_fbuf (x : Strand) :
    (x.again).fbuf = x.fbuf := rfl
@[simp] theorem Strand.again_flags (x : Strand) :
    (x.again).flags = x.flags := rfl
@[simp] theorem Strand.again_parkCycles (x : Strand) :
    (x.again).parkCycles = x.parkCycles := rfl
@[simp] theorem Strand.again_counted (x : Strand) :
    (x.again).counted = x.counted := rfl
@[simp] theorem Strand.again_moving (x : Strand) :
    (x.again).moving = x.moving := rfl
@[simp] theorem Strand.again_resuming (x : Strand) :
    (x.again).resuming = x.resuming := rfl
@[simp] theorem Strand.again_left (x : Strand) :
    (x.again).left = x.left := rfl
@[simp] theorem Strand.again_frame (x : Strand) :
    (x.again).frame = x.frame := rfl
@[simp] theorem Strand.again_pool (x : Strand) :
    (x.again).pool = x.pool := rfl

/-! Strand.finish -/

@[simp] theorem Strand.finish_live (x : Strand) :
    (x.finish).live = x.live := rfl
@[simp] theorem Strand.finish_sid (x : Strand) :
    (x.finish).sid = x.sid := rfl
@[simp] theorem Strand.finish_cls (x : Strand) :
    (x.finish).cls = x.cls := rfl
@[simp] theorem Strand.finish_pid (x : Strand) :
    (x.finish).pid = x.pid := rfl
@[simp] theorem Strand.finish_core (x : Strand) :
    (x.finish).core = x.core := rfl
@[simp] theorem Strand.finish_place (x : Strand) :
    (x.finish).place = x.place := rfl
@[simp] theorem Strand.finish_pc (x : Strand) :
    (x.finish).pc = addPc x.pc (4 * x.unitLen) := rfl
@[simp] theorem Strand.finish_hints (x : Strand) :
    (x.finish).hints = [] := rfl
@[simp] theorem Strand.finish_g (x : Strand) :
    (x.finish).g = x.g := rfl
@[simp] theorem Strand.finish_v (x : Strand) :
    (x.finish).v = x.v := rfl
@[simp] theorem Strand.finish_k (x : Strand) :
    (x.finish).k = x.k := rfl
@[simp] theorem Strand.finish_q (x : Strand) :
    (x.finish).q = x.q := rfl
@[simp] theorem Strand.finish_ctl (x : Strand) :
    (x.finish).ctl = x.ctl := rfl
@[simp] theorem Strand.finish_u (x : Strand) :
    (x.finish).u = x.u := rfl
@[simp] theorem Strand.finish_s (x : Strand) :
    (x.finish).s = x.s := rfl
@[simp] theorem Strand.finish_h (x : Strand) :
    (x.finish).h = x.h := rfl
@[simp] theorem Strand.finish_sdlg (x : Strand) :
    (x.finish).sdlg = x.sdlg := rfl
@[simp] theorem Strand.finish_hdlg (x : Strand) :
    (x.finish).hdlg = x.hdlg := rfl
@[simp] theorem Strand.finish_pending (x : Strand) :
    (x.finish).pending = x.pending := rfl
@[simp] theorem Strand.finish_lost (x : Strand) :
    (x.finish).lost = x.lost := rfl
@[simp] theorem Strand.finish_dueAt (x : Strand) :
    (x.finish).dueAt = x.dueAt := rfl
@[simp] theorem Strand.finish_dueLast (x : Strand) :
    (x.finish).dueLast = x.dueLast := rfl
@[simp] theorem Strand.finish_ext (x : Strand) :
    (x.finish).ext = x.ext := rfl
@[simp] theorem Strand.finish_inflight (x : Strand) :
    (x.finish).inflight = x.inflight.map fun o => { o with left := o.left - x.unitLen } := rfl
@[simp] theorem Strand.finish_wait (x : Strand) :
    (x.finish).wait = none := rfl
@[simp] theorem Strand.finish_home (x : Strand) :
    (x.finish).home = x.home := rfl
@[simp] theorem Strand.finish_fbuf (x : Strand) :
    (x.finish).fbuf = x.fbuf := rfl
@[simp] theorem Strand.finish_flags (x : Strand) :
    (x.finish).flags = { x.flags with passBp := false } := rfl
@[simp] theorem Strand.finish_parkCycles (x : Strand) :
    (x.finish).parkCycles = x.parkCycles := rfl
@[simp] theorem Strand.finish_counted (x : Strand) :
    (x.finish).counted = x.counted := rfl
@[simp] theorem Strand.finish_moving (x : Strand) :
    (x.finish).moving = x.moving := rfl
@[simp] theorem Strand.finish_resuming (x : Strand) :
    (x.finish).resuming = x.resuming := rfl
@[simp] theorem Strand.finish_left (x : Strand) :
    (x.finish).left = x.left := rfl
@[simp] theorem Strand.finish_frame (x : Strand) :
    (x.finish).frame = x.frame := rfl
@[simp] theorem Strand.finish_pool (x : Strand) :
    (x.finish).pool = x.pool := rfl

/-! Strand.finishLL: the unit ends, its result outstanding behind the older ones -/

@[simp] theorem Strand.finishLL_live (x : Strand) (n : Nat) (ds : List RegName) (ws : List RegWrite) :
    (x.finishLL n ds ws).live = x.finish.live := rfl
@[simp] theorem Strand.finishLL_sid (x : Strand) (n : Nat) (ds : List RegName) (ws : List RegWrite) :
    (x.finishLL n ds ws).sid = x.finish.sid := rfl
@[simp] theorem Strand.finishLL_cls (x : Strand) (n : Nat) (ds : List RegName) (ws : List RegWrite) :
    (x.finishLL n ds ws).cls = x.finish.cls := rfl
@[simp] theorem Strand.finishLL_pid (x : Strand) (n : Nat) (ds : List RegName) (ws : List RegWrite) :
    (x.finishLL n ds ws).pid = x.finish.pid := rfl
@[simp] theorem Strand.finishLL_core (x : Strand) (n : Nat) (ds : List RegName) (ws : List RegWrite) :
    (x.finishLL n ds ws).core = x.finish.core := rfl
@[simp] theorem Strand.finishLL_place (x : Strand) (n : Nat) (ds : List RegName) (ws : List RegWrite) :
    (x.finishLL n ds ws).place = x.finish.place := rfl
@[simp] theorem Strand.finishLL_pc (x : Strand) (n : Nat) (ds : List RegName) (ws : List RegWrite) :
    (x.finishLL n ds ws).pc = x.finish.pc := rfl
@[simp] theorem Strand.finishLL_hints (x : Strand) (n : Nat) (ds : List RegName) (ws : List RegWrite) :
    (x.finishLL n ds ws).hints = x.finish.hints := rfl
@[simp] theorem Strand.finishLL_g (x : Strand) (n : Nat) (ds : List RegName) (ws : List RegWrite) :
    (x.finishLL n ds ws).g = x.finish.g := rfl
@[simp] theorem Strand.finishLL_v (x : Strand) (n : Nat) (ds : List RegName) (ws : List RegWrite) :
    (x.finishLL n ds ws).v = x.finish.v := rfl
@[simp] theorem Strand.finishLL_k (x : Strand) (n : Nat) (ds : List RegName) (ws : List RegWrite) :
    (x.finishLL n ds ws).k = x.finish.k := rfl
@[simp] theorem Strand.finishLL_q (x : Strand) (n : Nat) (ds : List RegName) (ws : List RegWrite) :
    (x.finishLL n ds ws).q = x.finish.q := rfl
@[simp] theorem Strand.finishLL_ctl (x : Strand) (n : Nat) (ds : List RegName) (ws : List RegWrite) :
    (x.finishLL n ds ws).ctl = x.finish.ctl := rfl
@[simp] theorem Strand.finishLL_u (x : Strand) (n : Nat) (ds : List RegName) (ws : List RegWrite) :
    (x.finishLL n ds ws).u = x.finish.u := rfl
@[simp] theorem Strand.finishLL_s (x : Strand) (n : Nat) (ds : List RegName) (ws : List RegWrite) :
    (x.finishLL n ds ws).s = x.finish.s := rfl
@[simp] theorem Strand.finishLL_h (x : Strand) (n : Nat) (ds : List RegName) (ws : List RegWrite) :
    (x.finishLL n ds ws).h = x.finish.h := rfl
@[simp] theorem Strand.finishLL_sdlg (x : Strand) (n : Nat) (ds : List RegName) (ws : List RegWrite) :
    (x.finishLL n ds ws).sdlg = x.finish.sdlg := rfl
@[simp] theorem Strand.finishLL_hdlg (x : Strand) (n : Nat) (ds : List RegName) (ws : List RegWrite) :
    (x.finishLL n ds ws).hdlg = x.finish.hdlg := rfl
@[simp] theorem Strand.finishLL_pending (x : Strand) (n : Nat) (ds : List RegName) (ws : List RegWrite) :
    (x.finishLL n ds ws).pending = x.finish.pending := rfl
@[simp] theorem Strand.finishLL_lost (x : Strand) (n : Nat) (ds : List RegName) (ws : List RegWrite) :
    (x.finishLL n ds ws).lost = x.finish.lost := rfl
@[simp] theorem Strand.finishLL_dueAt (x : Strand) (n : Nat) (ds : List RegName) (ws : List RegWrite) :
    (x.finishLL n ds ws).dueAt = x.finish.dueAt := rfl
@[simp] theorem Strand.finishLL_dueLast (x : Strand) (n : Nat) (ds : List RegName) (ws : List RegWrite) :
    (x.finishLL n ds ws).dueLast = x.finish.dueLast := rfl
@[simp] theorem Strand.finishLL_ext (x : Strand) (n : Nat) (ds : List RegName) (ws : List RegWrite) :
    (x.finishLL n ds ws).ext = x.finish.ext := rfl
@[simp] theorem Strand.finishLL_inflight (x : Strand) (n : Nat) (ds : List RegName) (ws : List RegWrite) :
    (x.finishLL n ds ws).inflight = x.finish.inflight ++ [⟨x.wordPc, n, ds, ws⟩] := rfl
@[simp] theorem Strand.finishLL_wait (x : Strand) (n : Nat) (ds : List RegName) (ws : List RegWrite) :
    (x.finishLL n ds ws).wait = x.finish.wait := rfl
@[simp] theorem Strand.finishLL_home (x : Strand) (n : Nat) (ds : List RegName) (ws : List RegWrite) :
    (x.finishLL n ds ws).home = x.finish.home := rfl
@[simp] theorem Strand.finishLL_fbuf (x : Strand) (n : Nat) (ds : List RegName) (ws : List RegWrite) :
    (x.finishLL n ds ws).fbuf = x.finish.fbuf := rfl
@[simp] theorem Strand.finishLL_flags (x : Strand) (n : Nat) (ds : List RegName) (ws : List RegWrite) :
    (x.finishLL n ds ws).flags = x.finish.flags := rfl
@[simp] theorem Strand.finishLL_parkCycles (x : Strand) (n : Nat) (ds : List RegName) (ws : List RegWrite) :
    (x.finishLL n ds ws).parkCycles = x.finish.parkCycles := rfl
@[simp] theorem Strand.finishLL_counted (x : Strand) (n : Nat) (ds : List RegName) (ws : List RegWrite) :
    (x.finishLL n ds ws).counted = x.finish.counted := rfl
@[simp] theorem Strand.finishLL_moving (x : Strand) (n : Nat) (ds : List RegName) (ws : List RegWrite) :
    (x.finishLL n ds ws).moving = x.finish.moving := rfl
@[simp] theorem Strand.finishLL_resuming (x : Strand) (n : Nat) (ds : List RegName) (ws : List RegWrite) :
    (x.finishLL n ds ws).resuming = x.finish.resuming := rfl
@[simp] theorem Strand.finishLL_left (x : Strand) (n : Nat) (ds : List RegName) (ws : List RegWrite) :
    (x.finishLL n ds ws).left = x.finish.left := rfl
@[simp] theorem Strand.finishLL_frame (x : Strand) (n : Nat) (ds : List RegName) (ws : List RegWrite) :
    (x.finishLL n ds ws).frame = x.finish.frame := rfl
@[simp] theorem Strand.finishLL_pool (x : Strand) (n : Nat) (ds : List RegName) (ws : List RegWrite) :
    (x.finishLL n ds ws).pool = x.finish.pool := rfl

/-! Strand.setG: g0 discards writes -/

@[simp] theorem Strand.setG_live (x : Strand) (n : BitVec 5) (y : Word) :
    (x.setG n y).live = x.live := by unfold Strand.setG; split <;> rfl
@[simp] theorem Strand.setG_sid (x : Strand) (n : BitVec 5) (y : Word) :
    (x.setG n y).sid = x.sid := by unfold Strand.setG; split <;> rfl
@[simp] theorem Strand.setG_cls (x : Strand) (n : BitVec 5) (y : Word) :
    (x.setG n y).cls = x.cls := by unfold Strand.setG; split <;> rfl
@[simp] theorem Strand.setG_pid (x : Strand) (n : BitVec 5) (y : Word) :
    (x.setG n y).pid = x.pid := by unfold Strand.setG; split <;> rfl
@[simp] theorem Strand.setG_core (x : Strand) (n : BitVec 5) (y : Word) :
    (x.setG n y).core = x.core := by unfold Strand.setG; split <;> rfl
@[simp] theorem Strand.setG_place (x : Strand) (n : BitVec 5) (y : Word) :
    (x.setG n y).place = x.place := by unfold Strand.setG; split <;> rfl
@[simp] theorem Strand.setG_pc (x : Strand) (n : BitVec 5) (y : Word) :
    (x.setG n y).pc = x.pc := by unfold Strand.setG; split <;> rfl
@[simp] theorem Strand.setG_hints (x : Strand) (n : BitVec 5) (y : Word) :
    (x.setG n y).hints = x.hints := by unfold Strand.setG; split <;> rfl
@[simp] theorem Strand.setG_v (x : Strand) (n : BitVec 5) (y : Word) :
    (x.setG n y).v = x.v := by unfold Strand.setG; split <;> rfl
@[simp] theorem Strand.setG_k (x : Strand) (n : BitVec 5) (y : Word) :
    (x.setG n y).k = x.k := by unfold Strand.setG; split <;> rfl
@[simp] theorem Strand.setG_q (x : Strand) (n : BitVec 5) (y : Word) :
    (x.setG n y).q = x.q := by unfold Strand.setG; split <;> rfl
@[simp] theorem Strand.setG_ctl (x : Strand) (n : BitVec 5) (y : Word) :
    (x.setG n y).ctl = x.ctl := by unfold Strand.setG; split <;> rfl
@[simp] theorem Strand.setG_u (x : Strand) (n : BitVec 5) (y : Word) :
    (x.setG n y).u = x.u := by unfold Strand.setG; split <;> rfl
@[simp] theorem Strand.setG_s (x : Strand) (n : BitVec 5) (y : Word) :
    (x.setG n y).s = x.s := by unfold Strand.setG; split <;> rfl
@[simp] theorem Strand.setG_h (x : Strand) (n : BitVec 5) (y : Word) :
    (x.setG n y).h = x.h := by unfold Strand.setG; split <;> rfl
@[simp] theorem Strand.setG_sdlg (x : Strand) (n : BitVec 5) (y : Word) :
    (x.setG n y).sdlg = x.sdlg := by unfold Strand.setG; split <;> rfl
@[simp] theorem Strand.setG_hdlg (x : Strand) (n : BitVec 5) (y : Word) :
    (x.setG n y).hdlg = x.hdlg := by unfold Strand.setG; split <;> rfl
@[simp] theorem Strand.setG_pending (x : Strand) (n : BitVec 5) (y : Word) :
    (x.setG n y).pending = x.pending := by unfold Strand.setG; split <;> rfl
@[simp] theorem Strand.setG_lost (x : Strand) (n : BitVec 5) (y : Word) :
    (x.setG n y).lost = x.lost := by unfold Strand.setG; split <;> rfl
@[simp] theorem Strand.setG_dueAt (x : Strand) (n : BitVec 5) (y : Word) :
    (x.setG n y).dueAt = x.dueAt := by unfold Strand.setG; split <;> rfl
@[simp] theorem Strand.setG_dueLast (x : Strand) (n : BitVec 5) (y : Word) :
    (x.setG n y).dueLast = x.dueLast := by unfold Strand.setG; split <;> rfl
@[simp] theorem Strand.setG_ext (x : Strand) (n : BitVec 5) (y : Word) :
    (x.setG n y).ext = x.ext := by unfold Strand.setG; split <;> rfl
@[simp] theorem Strand.setG_inflight (x : Strand) (n : BitVec 5) (y : Word) :
    (x.setG n y).inflight = x.inflight := by unfold Strand.setG; split <;> rfl
@[simp] theorem Strand.setG_wait (x : Strand) (n : BitVec 5) (y : Word) :
    (x.setG n y).wait = x.wait := by unfold Strand.setG; split <;> rfl
@[simp] theorem Strand.setG_home (x : Strand) (n : BitVec 5) (y : Word) :
    (x.setG n y).home = x.home := by unfold Strand.setG; split <;> rfl
@[simp] theorem Strand.setG_fbuf (x : Strand) (n : BitVec 5) (y : Word) :
    (x.setG n y).fbuf = x.fbuf := by unfold Strand.setG; split <;> rfl
@[simp] theorem Strand.setG_flags (x : Strand) (n : BitVec 5) (y : Word) :
    (x.setG n y).flags = x.flags := by unfold Strand.setG; split <;> rfl
@[simp] theorem Strand.setG_parkCycles (x : Strand) (n : BitVec 5) (y : Word) :
    (x.setG n y).parkCycles = x.parkCycles := by unfold Strand.setG; split <;> rfl
@[simp] theorem Strand.setG_counted (x : Strand) (n : BitVec 5) (y : Word) :
    (x.setG n y).counted = x.counted := by unfold Strand.setG; split <;> rfl
@[simp] theorem Strand.setG_moving (x : Strand) (n : BitVec 5) (y : Word) :
    (x.setG n y).moving = x.moving := by unfold Strand.setG; split <;> rfl
@[simp] theorem Strand.setG_resuming (x : Strand) (n : BitVec 5) (y : Word) :
    (x.setG n y).resuming = x.resuming := by unfold Strand.setG; split <;> rfl
@[simp] theorem Strand.setG_left (x : Strand) (n : BitVec 5) (y : Word) :
    (x.setG n y).left = x.left := by unfold Strand.setG; split <;> rfl
@[simp] theorem Strand.setG_frame (x : Strand) (n : BitVec 5) (y : Word) :
    (x.setG n y).frame = x.frame := by unfold Strand.setG; split <;> rfl
@[simp] theorem Strand.setG_pool (x : Strand) (n : BitVec 5) (y : Word) :
    (x.setG n y).pool = x.pool := by unfold Strand.setG; split <;> rfl

/-! Strand.setK: k0 discards writes -/

@[simp] theorem Strand.setK_live (x : Strand) (n : BitVec 3) (y : BitVec 256) :
    (x.setK n y).live = x.live := by unfold Strand.setK; split <;> rfl
@[simp] theorem Strand.setK_sid (x : Strand) (n : BitVec 3) (y : BitVec 256) :
    (x.setK n y).sid = x.sid := by unfold Strand.setK; split <;> rfl
@[simp] theorem Strand.setK_cls (x : Strand) (n : BitVec 3) (y : BitVec 256) :
    (x.setK n y).cls = x.cls := by unfold Strand.setK; split <;> rfl
@[simp] theorem Strand.setK_pid (x : Strand) (n : BitVec 3) (y : BitVec 256) :
    (x.setK n y).pid = x.pid := by unfold Strand.setK; split <;> rfl
@[simp] theorem Strand.setK_core (x : Strand) (n : BitVec 3) (y : BitVec 256) :
    (x.setK n y).core = x.core := by unfold Strand.setK; split <;> rfl
@[simp] theorem Strand.setK_place (x : Strand) (n : BitVec 3) (y : BitVec 256) :
    (x.setK n y).place = x.place := by unfold Strand.setK; split <;> rfl
@[simp] theorem Strand.setK_pc (x : Strand) (n : BitVec 3) (y : BitVec 256) :
    (x.setK n y).pc = x.pc := by unfold Strand.setK; split <;> rfl
@[simp] theorem Strand.setK_hints (x : Strand) (n : BitVec 3) (y : BitVec 256) :
    (x.setK n y).hints = x.hints := by unfold Strand.setK; split <;> rfl
@[simp] theorem Strand.setK_g (x : Strand) (n : BitVec 3) (y : BitVec 256) :
    (x.setK n y).g = x.g := by unfold Strand.setK; split <;> rfl
@[simp] theorem Strand.setK_v (x : Strand) (n : BitVec 3) (y : BitVec 256) :
    (x.setK n y).v = x.v := by unfold Strand.setK; split <;> rfl
@[simp] theorem Strand.setK_q (x : Strand) (n : BitVec 3) (y : BitVec 256) :
    (x.setK n y).q = x.q := by unfold Strand.setK; split <;> rfl
@[simp] theorem Strand.setK_ctl (x : Strand) (n : BitVec 3) (y : BitVec 256) :
    (x.setK n y).ctl = x.ctl := by unfold Strand.setK; split <;> rfl
@[simp] theorem Strand.setK_u (x : Strand) (n : BitVec 3) (y : BitVec 256) :
    (x.setK n y).u = x.u := by unfold Strand.setK; split <;> rfl
@[simp] theorem Strand.setK_s (x : Strand) (n : BitVec 3) (y : BitVec 256) :
    (x.setK n y).s = x.s := by unfold Strand.setK; split <;> rfl
@[simp] theorem Strand.setK_h (x : Strand) (n : BitVec 3) (y : BitVec 256) :
    (x.setK n y).h = x.h := by unfold Strand.setK; split <;> rfl
@[simp] theorem Strand.setK_sdlg (x : Strand) (n : BitVec 3) (y : BitVec 256) :
    (x.setK n y).sdlg = x.sdlg := by unfold Strand.setK; split <;> rfl
@[simp] theorem Strand.setK_hdlg (x : Strand) (n : BitVec 3) (y : BitVec 256) :
    (x.setK n y).hdlg = x.hdlg := by unfold Strand.setK; split <;> rfl
@[simp] theorem Strand.setK_pending (x : Strand) (n : BitVec 3) (y : BitVec 256) :
    (x.setK n y).pending = x.pending := by unfold Strand.setK; split <;> rfl
@[simp] theorem Strand.setK_lost (x : Strand) (n : BitVec 3) (y : BitVec 256) :
    (x.setK n y).lost = x.lost := by unfold Strand.setK; split <;> rfl
@[simp] theorem Strand.setK_dueAt (x : Strand) (n : BitVec 3) (y : BitVec 256) :
    (x.setK n y).dueAt = x.dueAt := by unfold Strand.setK; split <;> rfl
@[simp] theorem Strand.setK_dueLast (x : Strand) (n : BitVec 3) (y : BitVec 256) :
    (x.setK n y).dueLast = x.dueLast := by unfold Strand.setK; split <;> rfl
@[simp] theorem Strand.setK_ext (x : Strand) (n : BitVec 3) (y : BitVec 256) :
    (x.setK n y).ext = x.ext := by unfold Strand.setK; split <;> rfl
@[simp] theorem Strand.setK_inflight (x : Strand) (n : BitVec 3) (y : BitVec 256) :
    (x.setK n y).inflight = x.inflight := by unfold Strand.setK; split <;> rfl
@[simp] theorem Strand.setK_wait (x : Strand) (n : BitVec 3) (y : BitVec 256) :
    (x.setK n y).wait = x.wait := by unfold Strand.setK; split <;> rfl
@[simp] theorem Strand.setK_home (x : Strand) (n : BitVec 3) (y : BitVec 256) :
    (x.setK n y).home = x.home := by unfold Strand.setK; split <;> rfl
@[simp] theorem Strand.setK_fbuf (x : Strand) (n : BitVec 3) (y : BitVec 256) :
    (x.setK n y).fbuf = x.fbuf := by unfold Strand.setK; split <;> rfl
@[simp] theorem Strand.setK_flags (x : Strand) (n : BitVec 3) (y : BitVec 256) :
    (x.setK n y).flags = x.flags := by unfold Strand.setK; split <;> rfl
@[simp] theorem Strand.setK_parkCycles (x : Strand) (n : BitVec 3) (y : BitVec 256) :
    (x.setK n y).parkCycles = x.parkCycles := by unfold Strand.setK; split <;> rfl
@[simp] theorem Strand.setK_counted (x : Strand) (n : BitVec 3) (y : BitVec 256) :
    (x.setK n y).counted = x.counted := by unfold Strand.setK; split <;> rfl
@[simp] theorem Strand.setK_moving (x : Strand) (n : BitVec 3) (y : BitVec 256) :
    (x.setK n y).moving = x.moving := by unfold Strand.setK; split <;> rfl
@[simp] theorem Strand.setK_resuming (x : Strand) (n : BitVec 3) (y : BitVec 256) :
    (x.setK n y).resuming = x.resuming := by unfold Strand.setK; split <;> rfl
@[simp] theorem Strand.setK_left (x : Strand) (n : BitVec 3) (y : BitVec 256) :
    (x.setK n y).left = x.left := by unfold Strand.setK; split <;> rfl
@[simp] theorem Strand.setK_frame (x : Strand) (n : BitVec 3) (y : BitVec 256) :
    (x.setK n y).frame = x.frame := by unfold Strand.setK; split <;> rfl
@[simp] theorem Strand.setK_pool (x : Strand) (n : BitVec 3) (y : BitVec 256) :
    (x.setK n y).pool = x.pool := by unfold Strand.setK; split <;> rfl

/-! Strand.setQ: q0 discards writes -/

@[simp] theorem Strand.setQ_live (x : Strand) (n : BitVec 3) (y : Guard) :
    (x.setQ n y).live = x.live := by unfold Strand.setQ; split <;> rfl
@[simp] theorem Strand.setQ_sid (x : Strand) (n : BitVec 3) (y : Guard) :
    (x.setQ n y).sid = x.sid := by unfold Strand.setQ; split <;> rfl
@[simp] theorem Strand.setQ_cls (x : Strand) (n : BitVec 3) (y : Guard) :
    (x.setQ n y).cls = x.cls := by unfold Strand.setQ; split <;> rfl
@[simp] theorem Strand.setQ_pid (x : Strand) (n : BitVec 3) (y : Guard) :
    (x.setQ n y).pid = x.pid := by unfold Strand.setQ; split <;> rfl
@[simp] theorem Strand.setQ_core (x : Strand) (n : BitVec 3) (y : Guard) :
    (x.setQ n y).core = x.core := by unfold Strand.setQ; split <;> rfl
@[simp] theorem Strand.setQ_place (x : Strand) (n : BitVec 3) (y : Guard) :
    (x.setQ n y).place = x.place := by unfold Strand.setQ; split <;> rfl
@[simp] theorem Strand.setQ_pc (x : Strand) (n : BitVec 3) (y : Guard) :
    (x.setQ n y).pc = x.pc := by unfold Strand.setQ; split <;> rfl
@[simp] theorem Strand.setQ_hints (x : Strand) (n : BitVec 3) (y : Guard) :
    (x.setQ n y).hints = x.hints := by unfold Strand.setQ; split <;> rfl
@[simp] theorem Strand.setQ_g (x : Strand) (n : BitVec 3) (y : Guard) :
    (x.setQ n y).g = x.g := by unfold Strand.setQ; split <;> rfl
@[simp] theorem Strand.setQ_v (x : Strand) (n : BitVec 3) (y : Guard) :
    (x.setQ n y).v = x.v := by unfold Strand.setQ; split <;> rfl
@[simp] theorem Strand.setQ_k (x : Strand) (n : BitVec 3) (y : Guard) :
    (x.setQ n y).k = x.k := by unfold Strand.setQ; split <;> rfl
@[simp] theorem Strand.setQ_ctl (x : Strand) (n : BitVec 3) (y : Guard) :
    (x.setQ n y).ctl = x.ctl := by unfold Strand.setQ; split <;> rfl
@[simp] theorem Strand.setQ_u (x : Strand) (n : BitVec 3) (y : Guard) :
    (x.setQ n y).u = x.u := by unfold Strand.setQ; split <;> rfl
@[simp] theorem Strand.setQ_s (x : Strand) (n : BitVec 3) (y : Guard) :
    (x.setQ n y).s = x.s := by unfold Strand.setQ; split <;> rfl
@[simp] theorem Strand.setQ_h (x : Strand) (n : BitVec 3) (y : Guard) :
    (x.setQ n y).h = x.h := by unfold Strand.setQ; split <;> rfl
@[simp] theorem Strand.setQ_sdlg (x : Strand) (n : BitVec 3) (y : Guard) :
    (x.setQ n y).sdlg = x.sdlg := by unfold Strand.setQ; split <;> rfl
@[simp] theorem Strand.setQ_hdlg (x : Strand) (n : BitVec 3) (y : Guard) :
    (x.setQ n y).hdlg = x.hdlg := by unfold Strand.setQ; split <;> rfl
@[simp] theorem Strand.setQ_pending (x : Strand) (n : BitVec 3) (y : Guard) :
    (x.setQ n y).pending = x.pending := by unfold Strand.setQ; split <;> rfl
@[simp] theorem Strand.setQ_lost (x : Strand) (n : BitVec 3) (y : Guard) :
    (x.setQ n y).lost = x.lost := by unfold Strand.setQ; split <;> rfl
@[simp] theorem Strand.setQ_dueAt (x : Strand) (n : BitVec 3) (y : Guard) :
    (x.setQ n y).dueAt = x.dueAt := by unfold Strand.setQ; split <;> rfl
@[simp] theorem Strand.setQ_dueLast (x : Strand) (n : BitVec 3) (y : Guard) :
    (x.setQ n y).dueLast = x.dueLast := by unfold Strand.setQ; split <;> rfl
@[simp] theorem Strand.setQ_ext (x : Strand) (n : BitVec 3) (y : Guard) :
    (x.setQ n y).ext = x.ext := by unfold Strand.setQ; split <;> rfl
@[simp] theorem Strand.setQ_inflight (x : Strand) (n : BitVec 3) (y : Guard) :
    (x.setQ n y).inflight = x.inflight := by unfold Strand.setQ; split <;> rfl
@[simp] theorem Strand.setQ_wait (x : Strand) (n : BitVec 3) (y : Guard) :
    (x.setQ n y).wait = x.wait := by unfold Strand.setQ; split <;> rfl
@[simp] theorem Strand.setQ_home (x : Strand) (n : BitVec 3) (y : Guard) :
    (x.setQ n y).home = x.home := by unfold Strand.setQ; split <;> rfl
@[simp] theorem Strand.setQ_fbuf (x : Strand) (n : BitVec 3) (y : Guard) :
    (x.setQ n y).fbuf = x.fbuf := by unfold Strand.setQ; split <;> rfl
@[simp] theorem Strand.setQ_flags (x : Strand) (n : BitVec 3) (y : Guard) :
    (x.setQ n y).flags = x.flags := by unfold Strand.setQ; split <;> rfl
@[simp] theorem Strand.setQ_parkCycles (x : Strand) (n : BitVec 3) (y : Guard) :
    (x.setQ n y).parkCycles = x.parkCycles := by unfold Strand.setQ; split <;> rfl
@[simp] theorem Strand.setQ_counted (x : Strand) (n : BitVec 3) (y : Guard) :
    (x.setQ n y).counted = x.counted := by unfold Strand.setQ; split <;> rfl
@[simp] theorem Strand.setQ_moving (x : Strand) (n : BitVec 3) (y : Guard) :
    (x.setQ n y).moving = x.moving := by unfold Strand.setQ; split <;> rfl
@[simp] theorem Strand.setQ_resuming (x : Strand) (n : BitVec 3) (y : Guard) :
    (x.setQ n y).resuming = x.resuming := by unfold Strand.setQ; split <;> rfl
@[simp] theorem Strand.setQ_left (x : Strand) (n : BitVec 3) (y : Guard) :
    (x.setQ n y).left = x.left := by unfold Strand.setQ; split <;> rfl
@[simp] theorem Strand.setQ_frame (x : Strand) (n : BitVec 3) (y : Guard) :
    (x.setQ n y).frame = x.frame := by unfold Strand.setQ; split <;> rfl
@[simp] theorem Strand.setQ_pool (x : Strand) (n : BitVec 3) (y : Guard) :
    (x.setQ n y).pool = x.pool := by unfold Strand.setQ; split <;> rfl

end Sys2Proof.Machine
end

