-- ==== Sys2Proof/Laws/Strand.lean ====
section
/-!
SUPPORT. Registers of a strand read back, what the interlock and the end of a unit do, and what `guarded` answers (R8, R22,
R74, R76).
-/
namespace Sys2Proof.Machine

/-! ## Registers (R8) -/

/-- What a write of G[n] leaves in G[m]: g0 discards the write, every other register keeps its value. -/
theorem Strand.G_setG (x : Strand) (n m : BitVec 5) (y : Word) :
    (x.setG n y).G m = if m = n then (if n = 0 then 0 else y) else x.G m := by
  by_cases h0 : n = 0
  · subst h0
    by_cases hm : m = 0
    · subst hm; rfl
    · rw [if_neg hm]; rfl
  · have e : x.setG n y = { x with g := x.g.set n.toNat y n.isLt } := if_neg h0
    rw [e]
    by_cases hm : m = n
    · subst hm; rw [if_pos rfl, if_neg h0]; exact (if_neg h0).trans (by simp)
    · have hn : n.toNat ≠ m.toNat := fun h => hm (BitVec.eq_of_toNat_eq h.symm)
      rw [if_neg hm]
      by_cases hm0 : m = 0
      · subst hm0; rfl
      · exact ((if_neg hm0).trans (by simp [Vector.getElem_set, hn])).trans (if_neg hm0).symm

/-- What a write of V[n] leaves in V[m]. -/
theorem Strand.V_setV (x : Strand) (n m : BitVec 4) (y : VReg) : (x.setV n y).V m = if m = n then y else x.V m := by
  unfold Strand.V Strand.setV
  by_cases hm : m = n
  · subst hm; simp
  · have : m.toNat ≠ n.toNat := fun h => hm (BitVec.eq_of_toNat_eq h)
    simp [hm, Ne.symm this]

/-- What a write of K[n] leaves in K[m]: k0 discards the write. -/
theorem Strand.K_setK (x : Strand) (n m : BitVec 3) (y : BitVec 256) :
    (x.setK n y).K m = if m = n then (if n = 0 then BitVec.allOnes 256 else y) else x.K m := by
  by_cases h0 : n = 0
  · subst h0
    by_cases hm : m = 0
    · subst hm; rfl
    · rw [if_neg hm]; rfl
  · have e : x.setK n y = { x with k := x.k.set n.toNat y n.isLt } := if_neg h0
    rw [e]
    by_cases hm : m = n
    · subst hm; rw [if_pos rfl, if_neg h0]; exact (if_neg h0).trans (by simp)
    · have hn : n.toNat ≠ m.toNat := fun h => hm (BitVec.eq_of_toNat_eq h.symm)
      rw [if_neg hm]
      by_cases hm0 : m = 0
      · subst hm0; rfl
      · exact ((if_neg hm0).trans (by simp [Vector.getElem_set, hn])).trans (if_neg hm0).symm

/-- What a write of Q[n] leaves in Q[m]: q0 discards the write. -/
theorem Strand.Q_setQ (x : Strand) (n m : BitVec 3) (y : Guard) :
    (x.setQ n y).Q m = if m = n then (if n = 0 then .isTrue else y) else x.Q m := by
  by_cases h0 : n = 0
  · subst h0
    by_cases hm : m = 0
    · subst hm; rfl
    · rw [if_neg hm]; rfl
  · have e : x.setQ n y = { x with q := x.q.set n.toNat y n.isLt } := if_neg h0
    rw [e]
    by_cases hm : m = n
    · subst hm; rw [if_pos rfl, if_neg h0]; exact (if_neg h0).trans (by simp)
    · have hn : n.toNat ≠ m.toNat := fun h => hm (BitVec.eq_of_toNat_eq h.symm)
      rw [if_neg hm]
      by_cases hm0 : m = 0
      · subst hm0; rfl
      · exact ((if_neg hm0).trans (by simp [Vector.getElem_set, hn])).trans (if_neg hm0).symm

/-- Registers depend on their own file only. -/
theorem Strand.G_congr {x y : Strand} (h : x.g = y.g) (n : BitVec 5) : x.G n = y.G n := by unfold Strand.G; rw [h]
theorem Strand.V_congr {x y : Strand} (h : x.v = y.v) (n : BitVec 4) : x.V n = y.V n := by unfold Strand.V; rw [h]
theorem Strand.K_congr {x y : Strand} (h : x.k = y.k) (n : BitVec 3) : x.K n = y.K n := by unfold Strand.K; rw [h]
theorem Strand.Q_congr {x y : Strand} (h : x.q = y.q) (n : BitVec 3) : x.Q n = y.Q n := by unfold Strand.Q; rw [h]

/-! ## The interlock (R22, R76) -/

/-- A returning result writes scalar and vector registers and flags of fcr, and nothing else. -/
theorem Strand.complete_keeps (x : Strand) (o : Outst) :
    ∃ g v f, x.complete o = { x with g := g, v := v, ctl := { x.ctl with fcr := f } } := by
  unfold Strand.complete
  induction o.writes generalizing x with
  | nil => exact ⟨x.g, x.v, x.ctl.fcr, rfl⟩
  | cons w t ih =>
    obtain ⟨g, v, f, h⟩ := ih (x.applyWrite w)
    cases w with
    | g n y =>
      refine ⟨g, v, f, h.trans ?_⟩
      simp only [Strand.applyWrite, Strand.setG]
      split <;> rfl
    | v n y => exact ⟨g, v, f, h⟩
    | fcr b => exact ⟨g, v, f, h⟩

/-- So do several. -/
theorem Strand.completes_keep (l : List Outst) (x : Strand) :
    ∃ g v f, l.foldl Strand.complete x = { x with g := g, v := v, ctl := { x.ctl with fcr := f } } := by
  induction l generalizing x with
  | nil => exact ⟨x.g, x.v, x.ctl.fcr, rfl⟩
  | cons o t ih =>
    obtain ⟨g, v, f, h⟩ := x.complete_keeps o
    obtain ⟨g', v', f', h'⟩ := ih (x.complete o)
    exact ⟨g', v', f', by rw [List.foldl_cons, h', h]⟩

/-- The interlock writes scalar and vector registers and flags of fcr, and shortens the list of outstanding results. -/
theorem Strand.settle_keeps (x : Strand) (regs : List RegName) :
    ∃ g v f l, x.settle regs = { x with g := g, v := v, ctl := { x.ctl with fcr := f }, inflight := l } := by
  obtain ⟨g, v, f, h⟩ := Strand.completes_keep (splitMeets regs x.inflight).1 x
  exact ⟨g, v, f, (splitMeets regs x.inflight).2, by simp only [Strand.settle, h]⟩

/-- Without outstanding results there is nothing to settle. -/
theorem Strand.settle_nil {x : Strand} (regs : List RegName) (h : x.inflight = []) : x.settle regs = x := by
  unfold Strand.settle; rw [h]; exact congrArg (fun l => { x with inflight := l }) h.symm

end Sys2Proof.Machine

namespace Sys2Proof.Claims
open Machine

/-- The entry of a unit changes the strand in issue alone. -/
theorem entry_units (inf : Info) (s : State) : ∃ x, entry inf s = { s with st := x } := ⟨_, rfl⟩

/-- What the entry of a unit can change of the strand: scalar and vector registers, flags of fcr, outstanding results,
la.stall. -/
theorem entry_strand (inf : Info) (s : State) :
    ∃ g v f l n, (entry inf s).st =
      { s.st with g := g, v := v, inflight := l, ctl := { s.st.ctl with fcr := f, laStall := n } } := by
  obtain ⟨g, v, f, l, h⟩ := s.st.settle_keeps inf.regs
  unfold entry
  rw [State.modSt_st]
  split <;> rw [h]
  · exact ⟨g, v, f, l, s.st.ctl.laStall, rfl⟩
  · exact ⟨g, v, f, l, s.st.ctl.laStall + 1, rfl⟩

/-- An instruction whose unit passes its checks does its own effect at the entry. -/
theorem guarded_passes {inf : Info} {s : State} (h : Passes inf s) (body : State → Out) :
    guarded inf s body = body (entry inf s) := by
  obtain ⟨h1, h2⟩ := h
  unfold guarded entry
  rw [h1]
  cases hb : broken inf.regs s.st.unitLen s.st.inflight with
  | none => simp [State.modSt, hb]
  | some o =>
    have : s.st.ctl.laTrap = false := by simpa [hb] using h2
    simp [State.modSt, hb, this]

/-- An instruction completes when its meaning is guarded and its effect ends in a next state. -/
theorem completes_of_guarded {i : Instr} {inf : Info} {s : State} {effect : State → State → Prop} {body : State → Out}
    (hx : exec i s = guarded inf s body) (hb : ∃ t, body (entry inf s) = .next t ∧ effect (entry inf s) t) :
    Completes i inf s effect := by
  intro h
  obtain ⟨t, h1, h2⟩ := hb
  exact ⟨t, by rw [hx, guarded_passes h, h1], h2⟩

/-! ## The end of a unit -/

/-- Scalar registers after a write and the end of the unit. -/
theorem setG_retireTo (e : State) (d n : BitVec 5) (y pc : Word) :
    ((e.setG d y).retireTo pc).G n = if n = d then (if d = 0 then 0 else y) else e.G n :=
  (Strand.G_congr (y := e.st.setG d y) (by simp [State.retireTo]) n).trans (Strand.G_setG e.st d n y)

/-- A unit that writes G[d] and retires at an address has just that effect. -/
theorem scalarEffect_retireTo (e : State) (d : BitVec 5) (y pc : Word) : ScalarEffect e ((e.setG d y).retireTo pc) d y pc where
  g := ⟨by rw [setG_retireTo, if_pos rfl], fun n hn => by rw [setG_retireTo, if_neg hn]⟩
  vector := ⟨fun n => Strand.V_congr (by simp [State.retireTo]) n, fun n => Strand.K_congr (by simp [State.retireTo]) n,
    fun n => Strand.Q_congr (by simp [State.retireTo]) n⟩
  special := by constructor <;> simp [State.retireTo]
  units := by constructor <;> simp
  ended := by constructor <;> simp [State.retireTo, Strand.unitLen]

/-- The next unit's address does not depend on the registers. -/
@[simp] theorem nextPc_setG (e : State) (d : BitVec 5) (y : Word) : (e.setG d y).nextPc = e.nextPc := by
  simp [State.nextPc, Strand.unitLen]

/-- A unit that writes G[d] and goes on. -/
theorem scalarEffect_retire (e : State) (d : BitVec 5) (y : Word) : ScalarEffect e (e.setG d y).retire d y e.nextPc := by
  unfold State.retire
  rw [nextPc_setG]
  exact scalarEffect_retireTo e d y e.nextPc

/-- A unit that only retires at an address has no other effect. -/
theorem jumpEffect_retireTo (e : State) (pc : Word) : JumpEffect e (e.retireTo pc) pc where
  g := fun n => Strand.G_congr (by simp [State.retireTo]) n
  vector := ⟨fun n => Strand.V_congr (by simp [State.retireTo]) n, fun n => Strand.K_congr (by simp [State.retireTo]) n,
    fun n => Strand.Q_congr (by simp [State.retireTo]) n⟩
  special := by constructor <;> simp [State.retireTo]
  units := by constructor <;> simp
  ended := by constructor <;> simp [State.retireTo, Strand.unitLen]

end Sys2Proof.Claims
end

