-- ==== Sys2Proof/Laws/Shapes.lean ====
section
/-!
SUPPORT. What each shape of a scalar instruction can do, once per shape: a meaning of that shape completes with one register
written (05 R76 to R90).
-/
namespace Sys2Proof.Claims
open Machine

variable {i : Instr} {word : BitVec 32} {iv : BitVec 2} {d a b : BitVec 5} {sc : BitVec 4}

/-- Two sources. -/
theorem completes_alu2 {f : Word → Word → Word} (hx : ∀ s, exec i s = alu2 word iv d a b sc f s) (hw : encode i = word)
    (s : State) : Completes i (infoR (encode i) iv sc (gs [d, a, b])) s fun e t =>
      ScalarEffect e t d (f (e.G a) (e.G b)) e.nextPc := by
  subst hw
  exact completes_of_guarded (hx s) ⟨_, rfl, scalarEffect_retire _ d _⟩

/-- One source. -/
theorem completes_alu1 {f : Word → Word} (hx : ∀ s, exec i s = alu1 word iv d a sc f s) (hw : encode i = word)
    (s : State) : Completes i (infoR (encode i) iv sc (gs [d, a])) s fun e t =>
      ScalarEffect e t d (f (e.G a)) e.nextPc := by
  subst hw
  exact completes_of_guarded (hx s) ⟨_, rfl, scalarEffect_retire _ d _⟩

/-- Two sources and the old value of the destination. -/
theorem completes_alu3 {f : Word → Word → Word → Word} (hx : ∀ s, exec i s = alu3 word iv d a b sc f s)
    (hw : encode i = word) (s : State) : Completes i (infoR (encode i) iv sc (gs [d, a, b])) s fun e t =>
      ScalarEffect e t d (f (e.G d) (e.G a) (e.G b)) e.nextPc := by
  subst hw
  exact completes_of_guarded (hx s) ⟨_, rfl, scalarEffect_retire _ d _⟩

/-- A source and an immediate. -/
theorem completes_aluI {n : BitVec 10} {f : Word → Word → Word} (hx : ∀ s, exec i s = aluI word iv d a n sc f s)
    (hw : encode i = word) (s : State) : Completes i (infoR (encode i) iv sc (gs [d, a])) s fun e t =>
      ScalarEffect e t d (f (e.G a) (immV e.st.hints 10 n.toNat)) e.nextPc := by
  subst hw
  exact completes_of_guarded (hx s) ⟨_, rfl, scalarEffect_retire _ d _⟩

/-- A unit that ends with a result outstanding. -/
theorem outstanding_retireLL (e : State) (inf : Info) (dests : List RegName) (writes : List RegWrite) :
    Outstanding e (e.retireLL inf dests writes) inf dests writes where
  g := fun n => Strand.G_congr (by simp [State.retireLL, State.retire, State.retireTo]) n
  vector := ⟨fun n => Strand.V_congr (by simp [State.retireLL, State.retire, State.retireTo]) n,
    fun n => Strand.K_congr (by simp [State.retireLL, State.retire, State.retireTo]) n,
    fun n => Strand.Q_congr (by simp [State.retireLL, State.retire, State.retireTo]) n⟩
  special := by constructor <;> simp [State.retireLL, State.retire, State.retireTo]
  pc := rfl
  hints := rfl
  wait := rfl
  inflight := rfl

/-- A unit that ends with a result outstanding changes nothing outside the strand. -/
theorem unitsKept_retireLL (e : State) (inf : Info) (dests : List RegName) (writes : List RegWrite) :
    UnitsKept e (e.retireLL inf dests writes) := by
  constructor <;> simp [State.retireLL, State.retire]

/-- A long-latency result of two sources. -/
theorem completes_aluLL {f : Word → Word → Word} (hx : ∀ s, exec i s = aluLL word iv d a b sc f s) (hw : encode i = word)
    (s : State) : Completes i (infoLL (encode i) iv sc (gs [d, a, b])) s fun e t =>
      Outstanding e t (infoLL (encode i) iv sc (gs [d, a, b])) (gs [d]) [.g d (f (e.G a) (e.G b))] ∧ UnitsKept e t := by
  subst hw
  exact completes_of_guarded (hx s) ⟨_, rfl, outstanding_retireLL .., unitsKept_retireLL ..⟩

end Sys2Proof.Claims
end

