-- ==== Sys2Proof/Tests/Slice0.lean ====
section
/-!
SUPPORT. Tests: for each obligation with hypotheses, states and operands that meet them, clause by clause (witness_<name>);
words of every major decoded; ill-formed instructions refused; and single steps on the spec's own values.
-/
namespace Sys2Proof.Tests
open Machine Claims
set_option Elab.async false

/-! ## Helpers -/

/-- The extent entry that maps the virtual addresses below 2^38 to the same physical ones, with the given rights. -/
def flat (rights : Nat) : BitVec 256 := mkExtent 0 (2 ^ 38) 0 0 rights false

/-- A strand of slot 3, kind 0, index 5 at 0x1000 on core 0, of full class, with r, w and x on the first 2^38 bytes. -/
def lane : Strand :=
  { live := true, sid := 0x300000005, pc := 0x1000, ext := (Vector.replicate 16 0).set 0 (flat 7), ctl := { part := 264 } }

/-- The strand in issue alone on core 0, whose SRAM is a quarter registers, a quarter tiles. -/
def one : State := { st := lane, cores := [(0, { part := some 264 })] }

/-- The same with some scalar registers set. -/
def with_ (l : List (BitVec 5 × Word)) : State := l.foldl (fun s p => s.setG p.1 p.2) one

/-- Hint words ahead of the unit in issue. -/
def hinted (s : State) (l : List (BitVec 32)) : State := s.modSt fun x => { x with hints := l }

/-- A result outstanding to a register, still promised for some words. -/
def owing (s : State) (r : RegName) (left : Nat) : State :=
  s.modSt fun x => { x with inflight := [⟨0xF00, left, [r], []⟩] }

/-- The checks ahead of a unit, as a Boolean. -/
def passes (inf : Info) (s : State) : Bool :=
  decide (unitCheck inf s.st = none) && ((broken inf.regs s.st.unitLen s.st.inflight).isNone || !s.st.ctl.laTrap)

theorem passes_ok {inf : Info} {s : State} (h : passes inf s = true) : Passes inf s := by
  simp only [passes, Bool.and_eq_true, decide_eq_true_eq, Bool.or_eq_true, Bool.not_eq_true'] at h
  exact ⟨h.1, h.2⟩

theorem passes_all {α : Type} {l : List α} {f : α → Info} {s : State} (h : l.all (fun p => passes (f p) s) = true) :
    ∀ p ∈ l, Passes (f p) s := fun p hp => passes_ok (List.all_eq_true.mp h p hp)

/-- The checks pass and the statement's further hypothesis holds at the entry. -/
def Meets (inf : Info) (s : State) (pre : State → Prop) : Prop := Passes inf s ∧ pre (entry inf s)

theorem entry_idle {inf : Info} {s : State} (h : s.st.inflight = []) : entry inf s = s := by
  obtain ⟨st, _⟩ := s
  obtain ⟨⟩ := st
  simp only at h
  subst h
  simp [entry, State.modSt, broken, Strand.settle, splitMeets]

theorem meets {inf : Info} {s : State} {pre : State → Prop} (h : passes inf s = true) (hi : s.st.inflight = []) (hp : pre s) :
    Meets inf s pre := ⟨passes_ok h, by rw [entry_idle hi]; exact hp⟩

/-- The target of a mapped address under rights r, w, x. -/
def at_ (a : Nat) : Target := ⟨a, true, true, true, false, false, false⟩

/-- The target of an offset in the scratchpad of core 0, and of one in the strand's private memory. -/
def inScratch (off : Nat) : Target := ⟨2 ^ 60 + off, true, true, false, false, false, false⟩
def inPriv (off : Nat) : Target := ⟨Memory.privBase 0x300000005 + off, true, true, false, false, false, false⟩

theorem granted {e : State} {a : Acc} {va : Word} {n : Nat} {tgt : Target}
    (h : ((a ≠ .fetch → va >>> 60 = 0) ∧
      (winOf va = 0xFE → a ≠ .stF ∧ (a ≠ .fetch → va.toNat / 2 ^ 40 % 256 = 0 ∧ a ≠ .waita ∧ a ≠ .wake)) ∧
      va.toNat % n = 0 ∧ e.find e.st va = some tgt ∧ tgt.revoked = false ∧ a.allowed tgt = true ∧ tgt.host = false ∧
      (spaceOf tgt.addr = .dieMem ∨ spaceOf tgt.addr = .priv ∨ spaceOf tgt.addr = .scratch ∨
        (spaceOf tgt.addr = .config ∧ a.config = true) ∨
        (spaceOf tgt.addr = .fabric ∧ a ≠ .wake ∧ (isPod tgt.addr = true → a.reads = false))))) : Granted e a va n tgt :=
  ⟨h.1, h.2.1, Nat.dvd_of_mod_eq_zero h.2.2.1, h.2.2.2.1, h.2.2.2.2.1, h.2.2.2.2.2.1, h.2.2.2.2.2.2.1, h.2.2.2.2.2.2.2⟩

theorem loadable {e : State} {n : Nat} {l : List Word} (l' : List Word) (hl : l = l')
    (h : l'.all (fun a => decide (a >>> 60 = 0 ∧ winOf a ≠ 0xFE ∧ a.toNat % n = 0 ∧ e.find e.st a = some (at_ a.toNat) ∧ spaceOf a.toNat = .dieMem ∧
      e.poisoned (Memory.line a.toNat) = false)) = true) : Loadable e n l := fun a ha =>
  have k := of_decide_eq_true (List.all_eq_true.mp h a (hl ▸ ha))
  ⟨at_ a.toNat, granted ⟨fun _ => k.1, fun w => absurd w k.2.1, k.2.2.1, k.2.2.2.1, rfl, rfl, rfl, .inl k.2.2.2.2.1⟩, .inl k.2.2.2.2.1, k.2.2.2.2.2, nofun⟩

theorem meets_all {α : Type} {l : List α} {f : α → Info} {s : State} {pre : α → State → Prop}
    (h : l.all (fun p => passes (f p) s) = true) (hi : s.st.inflight = []) (hp : ∀ p ∈ l, pre p s) : ∀ p ∈ l, Meets (f p) s (pre p) :=
  fun p h1 => ⟨passes_all h p h1, by rw [entry_idle hi]; exact hp p h1⟩

/-- The strand with vector registers that carry tags. -/
def tags (l : List (BitVec 4 × BitVec 4)) : State := l.foldl (fun s p => s.setV p.1 { s.V p.1 with tag := p.2 }) one

theorem ready {e : State} {a : BitVec 4} {l : List Nat}
    (h : tagOf e a ∈ l ∧ tagOf e a ≠ 15 ∧ e.st.rows * e.st.cols * Wf.tagHalf (e.st.V a).tag ≤ 512) : Ready e a l := h

theorem ready_all {α : Type} {l : List α} {f : α → List Nat} {e : State} {a : BitVec 4}
    (h : (l.all (fun p => decide (tagOf e a ∈ f p)) &&
      decide (tagOf e a ≠ 15 ∧ e.st.rows * e.st.cols * Wf.tagHalf (e.st.V a).tag ≤ 512)) = true) : ∀ p ∈ l, Ready e a (f p) := by
  simp only [Bool.and_eq_true, decide_eq_true_eq] at h
  exact fun p hp => ⟨of_decide_eq_true (List.all_eq_true.mp h.1 p hp), h.2⟩

/-- All four rights on the entry, g2 = 0x0500000000002000, and the lock 5 on the granule of 0x2000. -/
def tagged : State := { with_ [(2, 0x0500000000002000)] with
  st := { (with_ [(2, 0x0500000000002000)]).st with ext := (Vector.replicate 16 0).set 0 (flat 15) }, locks := [(0x2000, 5)] }

/-- Some scalar registers of the strand in issue set. -/
def regs (l : List (BitVec 5 × Word)) (s : State) : State := l.foldl (fun s p => s.setG p.1 p.2) s

/-- Configuration dwords of partition 0 set. -/
def conf (l : List (Nat × Word)) (s : State) : State := l.foldl (fun s p => s.setCfg 0 p.1 p.2) s

/-- The strand belongs to a launch in slot 3 of a partition that holds band 0, with its Creel enabled and one share of it. -/
def home : State := conf [(0x08, 1), (0x30, 1), (0x18, 1)] { one with hub := { slots := [(3, { used := true, part := 264 })] } }

/-- Whether an access gave a result. -/
def isOk {α : Type} : Res α → Bool
  | .ok _ _ => true
  | _ => false

theorem res_ok {α : Type} {r : Res α} (h : isOk r = true) : ∃ x s, r = .ok x s := by
  cases r <;> simp_all [isOk]

/-- The result an access gave, with the state it left. -/
def given {α : Type} : Res α → Option (α × State)
  | .ok x s => some (x, s)
  | _ => none

theorem given_ok {α : Type} {r : Res α} {x : α} {s : State} (h : given r = some (x, s)) : r = .ok x s := by
  cases r <;> simp_all [given]

theorem same_ok {α : Type} {r : Res α} {s : State} (h : (given r).map (·.2) = some s) : ∃ x, r = .ok x s := by
  cases r <;> simp_all [given]

theorem res_all {α : Type} {r : Res α} {p : α → State → Prop} [∀ x s, Decidable (p x s)]
    (h : (match r with | .ok x s => decide (p x s) | _ => false) = true) : ∃ x s, r = .ok x s ∧ p x s := by
  cases r with
  | ok x s => exact ⟨x, s, rfl, by simpa using h⟩
  | trap => cases h
  | stop => cases h

/-- Another strand of the launch, resident on core 0, and the state in which it stands beside the one in issue. -/
def mate : Strand := { lane with sid := 0x300000006 }
def beside (x : Strand) : State := { home with strands := [(0x300000006, x)] }

/-- The other strand waits. -/
def waiting (w : Wait) : Strand := { mate with wait := some w }

/-- The first 2^31 virtual bytes are mapped to the same physical ones by one page with every right. -/
def paged (s : State) : State := conf [(0x40, 0x80000)] { s with mem := [(0x80000, 1), (0x80002, 9), (0x90000, 0x3F)] }

/-- One write of die 0 is on its path to die 1. -/
def behind (s : State) : State := { s with dies := [(0, { paths := [(1, ⟨1, [{ line := 0x2000, mask := 1, data := 9 }]⟩)] })] }

/-! ## Scalar instructions -/

theorem witness_ScalarResult :
    (∀ p ∈ twoSource 1 0 31 1 8, Passes (infoR (encode p.1) 1 8 (gs [0, 31, 1])) one) ∧
    (∀ p ∈ twoSource 0 31 1 1 15, Passes (infoR (encode p.1) 0 15 (gs [31, 1, 1])) (owing one (.g 1) 1)) ∧
    ∀ p ∈ oneSource 1 31 1 63 0, Passes (infoR (encode p.1) 1 0 (gs [31, 1])) one :=
  ⟨passes_all rfl, passes_all rfl, passes_all rfl⟩

theorem witness_ScalarResult_unlisted :
    [0x010000F0, 0x02000070, 0x04000070, 0x0F000030].map (fun w : BitVec 32 => (w.getLsbD 31, majorOf w, fnOf w)) =
      [(false, 0x01, 0x0F), (false, 0x02, 0x07), (false, 0x04, 0x07), (false, 0x0F, 0x03)] := rfl

theorem witness_ImmediateAndField :
    (∀ p ∈ immediate 1 0 31 0x200 8, Passes (infoR (encode p.1) 1 8 (gs [0, 31])) (hinted one [encode (.hintExtend 0 1)])) ∧
    Passes (infoR (encode (.cmpi 1 1 2 7 0x40 8)) 1 8 (gs [1, 2])) one ∧
    Passes (infoJ (encode (.movi 0 31 0x40000)) 0 (gs [31])) one ∧
    hintKind (encode (.hintExtend 0 1)) = 0 ∧ hintKind (encode (.hintModifier 0 0)) = 1 :=
  ⟨passes_all rfl, passes_ok rfl, passes_ok rfl, rfl, rfl⟩

theorem witness_ImmediateAndField_fields :
    Passes (infoR (encode (.bfx 1 1 2 3 0)) 1 0 (gs [1, 2, 3])) one ∧ Passes (infoR (encode (.bfi 1 1 2 3 0)) 1 0 (gs [1, 2, 3])) one ∧
    Passes (infoR (encode (.selNz 1 1 2 3 0)) 1 0 (gs [1, 2, 3])) one ∧
    Passes (infoR (encode (.selNz 1 1 2 3 0)) 1 0 (gs [1, 2, 3])) (with_ [(2, 1)]) ∧
    (entry (infoR (encode (.selNz 1 1 2 3 0)) 1 0 (gs [1, 2, 3])) one).G 2 = 0 ∧
    (entry (infoR (encode (.selNz 1 1 2 3 0)) 1 0 (gs [1, 2, 3])) (with_ [(2, 1)])).G 2 ≠ 0 :=
  ⟨passes_ok rfl, passes_ok rfl, passes_ok rfl, passes_ok rfl, rfl, by decide⟩

/-- In each format: the largest finite number, infinity, a NaN, the least number and both zeros. -/
theorem witness_RoundingResult : ∀ p ∈ formats, p.2.1 < 2 ^ p.1.w ∧ p.2.2.1 < 2 ^ p.1.w ∧ p.2.2.2 < 2 ^ p.1.w ∧
    (p.2.1 % 2 ^ (p.1.w - 1) = p.2.1 ∧ p.2.2.1 % 2 ^ (p.1.w - 1) = p.2.2.1 ∧ p.2.2.2 % 2 ^ (p.1.w - 1) = p.2.2.2) ∧
    (if p.1.ieee then p.2.2.1 else p.2.1) < p.2.2.2 ∧ 1 < 2 ^ p.1.mw ∧ (1 : Nat) ≠ 0 ∧ (0 : Int) ≤ 0 := by decide +kernel

/-- Operands of every kind in each format. -/
theorem witness_ElementRounding : ∀ p ∈ formats, ∀ fz : Bool, p.1.decode fz (2 ^ p.1.mw) = .fin false (2 ^ p.1.mw) (1 - (p.1.bias : Int) - p.1.mw) ∧
    (∃ e, p.1.decode fz 0 = .fin false 0 e) ∧ (∃ e, p.1.decode fz (2 ^ (p.1.w - 1)) = .fin true 0 e) ∧ p.1.decode fz p.2.2.2 = .nan ∧
    (p.1.ieee = true → p.1.decode fz p.2.2.1 = .inf false ∧ p.1.decode fz (p.2.2.1 + 2 ^ (p.1.w - 1)) = .inf true) := by
  intro p hp fz
  simp only [formats, List.mem_cons, List.not_mem_nil, or_false] at hp
  obtain rfl | rfl | rfl | rfl | rfl := hp <;> cases fz <;>
    exact ⟨by decide +kernel, ⟨_, rfl⟩, ⟨_, rfl⟩, by decide +kernel, by decide +kernel⟩

/-- What they are worth: one of them more than 0, the others 0, so that sums of them are 0 or are not. -/
theorem witness_ElementRounding_values (m : Nat) (hm : m ≠ 0) (e : Int) (s : Bool) :
    IsFin (.fin false m e) ∧ 0 < value (.fin false m e) ∧ value (.fin false m e) ≠ 0 ∧ value (.fin s 0 e) = 0 := by
  have h : (0 : ℚ) < m * 2 ^ e := mul_pos (by exact_mod_cast Nat.pos_of_ne_zero hm) (zpow_pos (by norm_num) e)
  exact ⟨⟨_, _, _, rfl⟩, by simpa [value] using h, by simpa [value] using h.ne', by simp [value]⟩

theorem witness_DivisionResult : ∀ p ∈ division 1 1 2 3 15, Passes (infoLL (encode p.1) 1 15 (gs [1, 2, 3])) one :=
  passes_all rfl

theorem witness_ControlTransfer :
    Passes ((infoJ (encode (.bc 1 1 5 0xFFFF)) 1 (gs [1])).need (decide ((5 : BitVec 3).toNat < 6))) one ∧
    Passes (infoJ (encode (.dbnz 1 1 1)) 1 (gs [1])) one ∧ Passes (infoJ (encode (.b 1 1)) 1 []) one ∧
    Passes (infoJ (encode (.call 1 1)) 1 [.g 31]) one ∧ Passes (infoR (encode (.jr 1 1 8)) 1 8 (gs [1])) one ∧
    Passes (infoR (encode (.jrl 1 1 8)) 1 8 (gs [1, 31])) one ∧ Passes (infoR (encode (.ret 1 8)) 1 8 (gs [31])) one :=
  ⟨passes_ok rfl, passes_ok rfl, passes_ok rfl, passes_ok rfl, passes_ok rfl, passes_ok rfl, passes_ok rfl⟩

theorem witness_ControlTransfer_refused :
    jumpRefused 0x00FFFFFFFFFFFFFC = none ∧ jumpRefused 0x1000000000000000 = some 0x40 ∧ jumpRefused 2 = some 0x43 ∧
    [0x1C070000, 0x1F000030, 0x1F080000, 0x1F002000, 0x1F000220].map (fun w : BitVec 32 =>
      (w.getLsbD 31, majorOf w, fnOf w, w.extractLsb' 16 3, w.extractLsb' 19 5, w.extractLsb' 9 5)) =
      [(false, 0x1C, 0, 7, 0, 0), (false, 0x1F, 3, 0, 0, 0), (false, 0x1F, 0, 0, 1, 0), (false, 0x1F, 0, 0, 0, 16),
        (false, 0x1F, 2, 0, 0, 1)] := by decide

/-! ## Memory -/

theorem witness_AccessChecks :
    Granted one .load 0xFF00000003FFF8 8 (inPriv 0x3FFF8) ∧
    winOf 0xFE000000000100 = 0xFE ∧ (0x1000000000000000 : Word) >>> 60 ≠ 0 ∧ (0xFE010000000000 : Word).toNat / 2 ^ 40 % 256 ≠ 0 ∧
    winOf 0x2001 ≠ 0xFE ∧ ¬ 2 ∣ (0x2001 : Word).toNat ∧ one.find one.st 0x4000000000 = none ∧
    one.find one.st 0x3FFFFFFFFF = some (at_ 0x3FFFFFFFFF) ∧ (at_ 0x2000).revoked = false ∧
    Acc.allowed .tagGet (at_ 0x2000) = false ∧ Acc.allowed .atomic (at_ 0x2000) = true ∧
    (∃ x : Strand, ∃ tgt, one.find x 0x2000 = some tgt ∧ tgt.revoked = true) ∧
    ∃ x : Strand, ∃ tgt, one.find x 0x2000 = some tgt ∧ tgt.revoked = false ∧ Acc.allowed .load tgt = true ∧ spaceOf tgt.addr = .host := by
  refine ⟨granted (by decide +kernel), by decide, by decide, by decide, by decide, by decide, by decide +kernel, by decide +kernel, rfl, rfl, rfl,
    ⟨{ lane with ext := (Vector.replicate 16 0).set 0 (flat 7 ||| 1#256 <<< 78) }, { at_ 0x2000 with revoked := true }, by decide +kernel, rfl⟩,
    ⟨{ lane with ext := (Vector.replicate 16 0).set 0 (mkExtent 0 (2 ^ 38) (2 ^ 55) 0 7 true) },
      { at_ (2 ^ 55 + 0x2000) with host := true }, by decide +kernel, rfl, rfl, by decide⟩⟩

/-- The addresses of the plain loads of g2 = 0x2100: with the least offset, with an index of 0, and the literal. -/
theorem witness_PlainLoad :
    (∀ p ∈ plainLoads 1 0 2 0 0x40 3 6 0x200 8, Meets p.2.1 (with_ [(2, 0x2100)])
      fun e => Granted e p.2.2.1 (p.2.2.2.1 e) p.2.2.2.2.1 (at_ (p.2.2.2.1 e).toNat) ∧
        (loadFinds e (p.2.2.2.1 e).toNat).poisoned (Memory.line (p.2.2.2.1 e).toNat) = false) ∧
    (Granted (with_ [(2, 0xFE00000000FFF8)]) .load 0xFE00000000FFF8 8 (inScratch 0xFFF8) ∧ spaceOf (inScratch 0xFFF8).addr = .scratch) ∧
    (Granted tagged .load 0x0500000000002000 8 { at_ 0x2000 with t := true } ∧
     keyOf 0x0500000000002000 = lockSeen (loadFinds tagged 0x2000) 0 0x2000) := by
  refine ⟨?_, ⟨granted (by decide +kernel), by decide⟩, ⟨granted (by decide +kernel), rfl⟩⟩
  intro p hp
  simp only [plainLoads, List.mem_cons, List.mem_nil_iff, or_false] at hp
  obtain rfl | rfl | rfl := hp <;> exact meets rfl rfl ⟨granted (by decide +kernel), by decide +kernel⟩

theorem witness_BufferedBytes :
    (({ sbuf := [{ line := 0, mask := 1, data := 7 }, { line := 0, mask := 3, data := 0x908 }] } : Core).merge 0 0).extractLsb' 0 16 = 0x0908#16 := by decide +kernel

theorem witness_PlainStore :
    (∀ p ∈ plainStores 1 0 2 0 0x3F 3 4 8, Meets p.2.1 (with_ [(2, 0x2100)])
      fun e => Granted e .store (p.2.2 e) (bytesOf 4) (at_ (p.2.2 e).toNat) ∧ spaceOf (p.2.2 e).toNat ≠ .fabric ∧
        e.scratchBusy (at_ (p.2.2 e).toNat) (bytesOf 4) = false ∧ (spaceOf (p.2.2 e).toNat ≠ .scratch → (e.core e.st.core).sbuf.length < 32)) ∧
    (∀ p ∈ plainStores 0 31 2 0 0 0 0 0, Meets p.2.1 (with_ [(2, 0xFE00000000FFFF)])
      fun e => Granted e .store (p.2.2 e) (bytesOf 0) (inScratch 0xFFFF) ∧ spaceOf (inScratch 0xFFFF).addr = .scratch ∧
        e.scratchBusy (inScratch 0xFFFF) (bytesOf 0) = false) ∧
    (Granted tagged .store 0x0500000000002000 8 { at_ 0x2000 with t := true } ∧ keyOf 0x0500000000002000 = lockSeen tagged 0 0x2000 ∧
      tagged.scratchBusy { at_ 0x2000 with t := true } 8 = false) ∧
    (let c : Core := { sbuf := List.replicate 32 { line := 0x2000, mask := 1, data := 7 } }
     c.sbuf.length = 32 ∧ c.sbuf.any (fun l => l.line == Memory.line 0x2010) = true) := by
  refine ⟨?_, ?_, ⟨granted (by decide +kernel), rfl, by decide +kernel⟩, by decide +kernel⟩
  · intro p hp
    simp only [plainStores, List.mem_cons, List.mem_nil_iff, or_false] at hp
    obtain rfl | rfl := hp <;> exact meets rfl rfl ⟨granted (by decide +kernel), by decide +kernel, by decide +kernel, fun _ => by decide +kernel⟩
  · intro p hp
    simp only [plainStores, List.mem_cons, List.mem_nil_iff, or_false] at hp
    obtain rfl | rfl := hp <;> exact meets rfl rfl ⟨granted (by decide +kernel), by decide +kernel, by decide +kernel⟩

/-- A second die owns the line, whose page has moved there: the strand's die has a write to it on its path. -/
def remote : State := { with_ [(2, 0x2000)] with
  dies := [(0, { paths := [(1, ⟨1, [{ line := 0x2000, mask := 1, data := 9 }]⟩)] })], hub := { owners := [(0, ⟨1, 2 ^ 35, 65536⟩)] } }

theorem side {e : State} {a : Acc} {va : Word} {n : Nat} {tgt : Target} (h : Granted e a va n tgt)
    (hs : spaceOf tgt.addr = .dieMem ∨ spaceOf tgt.addr = .priv) (ht : tgt.t = false) :
    AtSide e a va n tgt (if a.reads = true ∨ a = .wake then (e.behind e.st (Memory.line tgt.addr)).reach (dieOf e.st.core) (Memory.line tgt.addr)
      else e.behind e.st (Memory.line tgt.addr)) :=
  ⟨h, hs, rfl, by simp [ht]⟩

theorem witness_StrongLoad : ∀ s ∈ [with_ [(2, 0x2000)], remote], ∃ e',
    Meets ((infoLL (encode (.ldS 1 0 2 3 1 1 15)) 1 15 (gs [0, 2])).need (Wf.scope 3 && ((1 : BitVec 2) == 0 || (1 : BitVec 2) == 1))) s
      fun e => AtSide e (.strongLd 8) (e.G 2) 8 (at_ 0x2000) e' ∧ e'.poisoned 0x2000 = false := by
  simp only [List.mem_cons, List.mem_nil_iff, or_false, forall_eq_or_imp, forall_eq]
  exact ⟨⟨_, meets rfl rfl ⟨side (granted (by decide +kernel)) (.inl (by decide)) rfl, by decide +kernel⟩⟩,
    ⟨_, meets rfl rfl ⟨side (granted (by decide +kernel)) (.inl (by decide)) rfl, by decide +kernel⟩⟩⟩

theorem witness_StrongStore : ∀ s ∈ [with_ [(2, 0x2000)], remote],
    Meets ((infoLL (encode (.stS 1 3 2 1 2 1 15)) 1 15 (gs [3, 2])).need (Wf.scope 1 && ((2 : BitVec 2) == 0 || (2 : BitVec 2) == 2))) s
      fun e => AtSide e (.strongSt 8) (e.G 2) 8 (at_ 0x2000) e ∧ 8 ∣ 0x2000 ∧ e.freed 0x2000 = false := by
  simp only [List.mem_cons, List.mem_nil_iff, or_false, forall_eq_or_imp, forall_eq]
  exact ⟨meets rfl rfl ⟨side (granted (by decide +kernel)) (.inl (by decide)) rfl, Nat.dvd_of_mod_eq_zero rfl, by decide +kernel⟩,
    meets rfl rfl ⟨side (granted (by decide +kernel)) (.inl (by decide)) rfl, Nat.dvd_of_mod_eq_zero rfl, by decide +kernel⟩⟩

theorem witness_StrongStore_owner :
    (with_ [(2, 0x2000)]).ownerDie 0x2000 = dieOf 0 ∧ remote.ownerDie 0x2000 ≠ dieOf 0 := by decide +kernel

/-- What AtomicResult, CompareAndFloatAdd and the clauses of ScratchpadAccess ask of an address. -/
theorem witness_AtomicResult : ∃ e', ∀ p ∈ amos 1 0 2 3 1 15,
    Meets (infoLL (encode p.1) 1 15 (gs [0, 2, 3])) remote
      fun e => AtSide e .atomic (e.G 2) 8 (at_ 0x2000) e' ∧ 8 ∣ 0x2000 ∧ e'.poisoned 0x2000 = false ∧ e'.freed 0x2000 = false := by
  have h : ∀ p ∈ amos 1 0 2 3 1 15, Passes (infoLL (encode p.1) 1 15 (gs [0, 2, 3])) remote := passes_all (by decide +kernel)
  refine ⟨remote.reach 0 0x2000, fun p hp => ⟨h p hp, ?_⟩⟩
  rw [entry_idle rfl]
  exact ⟨side (granted (by decide +kernel)) (.inl (by decide)) rfl, Nat.dvd_of_mod_eq_zero rfl, by decide +kernel, by decide +kernel⟩

theorem witness_CompareAndFloatAdd : ∀ i ∈ [Instr.cas 1 1 2 3 0 15, .amoFadd 1 1 2 3 15], ∃ e',
    Meets (infoLL (encode i) 1 15 (gs [1, 2, 3])) (with_ [(2, 0x3FFFFFFFFC)])
      fun e => AtSide e .atomic (e.G 2) 4 (at_ 0x3FFFFFFFFC) e' ∧ 4 ∣ 0x3FFFFFFFFC ∧ e'.poisoned 0x3FFFFFFFC0 = false ∧
        e'.freed 0x3FFFFFFFC0 = false := by
  simp only [List.mem_cons, List.mem_nil_iff, or_false, forall_eq_or_imp, forall_eq]
  exact ⟨⟨_, meets rfl rfl ⟨side (granted (by decide +kernel)) (.inl (by decide)) rfl, Nat.dvd_of_mod_eq_zero rfl, by decide +kernel, by decide +kernel⟩⟩,
    ⟨_, meets rfl rfl ⟨side (granted (by decide +kernel)) (.inl (by decide)) rfl, Nat.dvd_of_mod_eq_zero rfl, by decide +kernel, by decide +kernel⟩⟩⟩

theorem witness_CompareAndFloatAdd_compares :
    BitVec.ofNat 32 (Memory.readN (with_ [(2, 0x3FFFFFFFFC)]).mem 0x3FFFFFFFFC 4) = ((with_ []).G 1).setWidth 32 ∧
    BitVec.ofNat 32 (Memory.readN (with_ [(2, 0x3FFFFFFFFC)]).mem 0x3FFFFFFFFC 4) ≠ ((with_ [(1, 1)]).G 1).setWidth 32 := by decide +kernel

theorem witness_WatchResult :
    (∃ e', Meets (infoR (encode (.waita 1 1 2 3 8)) 1 8 (gs [1, 2, 3])) (with_ [(2, 0x2000)])
      fun e => AtSide e .waita (e.G 2) 8 (at_ 0x2000) e' ∧ e'.poisoned 0x2000 = false) ∧
    (∃ e', Meets (infoR (encode (.wake 1 2 8)) 1 8 (gs [2])) remote
      fun e => AtSide e .wake (e.G 2) 8 (at_ 0x2000) e' ∧ (e'.die (e'.ownerDie 0x2000)).halted = false) ∧
    BitVec.ofNat 64 (Memory.readN one.mem 0x2000 8) = one.G 3 ∧ BitVec.ofNat 64 (Memory.readN one.mem 0x2000 8) ≠ (with_ [(3, 1)]).G 3 ∧
    2048 ≤ (List.replicate 2048 (⟨0x2000, 9⟩ : Watch)).length :=
  ⟨⟨_, meets rfl rfl ⟨side (granted (by decide +kernel)) (.inl (by decide)) rfl, by decide +kernel⟩⟩,
    ⟨_, meets rfl rfl ⟨side (granted (by decide +kernel)) (.inl (by decide)) rfl, by decide +kernel⟩⟩, by decide +kernel, by decide +kernel,
    Nat.le_of_eq List.length_replicate.symm⟩

theorem witness_ScratchpadAccess :
    (Meets ((infoLL (encode (.ldS 1 1 2 1 0 0 15)) 1 15 (gs [1, 2])).need (Wf.scope 1 && ((0 : BitVec 2) == 0 || (0 : BitVec 2) == 1))) (with_ [(2, 0xFE00000000FFFC)])
      fun e => Granted e (.strongLd 4) (e.G 2) 4 (inScratch 0xFFFC) ∧ spaceOf (inScratch 0xFFFC).addr = .scratch ∧
        e.poisoned (Memory.line (inScratch 0xFFFC).addr) = false) ∧
    (Meets ((infoLL (encode (.stS 1 1 2 3 2 1 15)) 1 15 (gs [1, 2])).need (Wf.scope 3 && ((2 : BitVec 2) == 0 || (2 : BitVec 2) == 2))) (with_ [(2, 0xFE00000000FFF8)])
      fun e => Granted e (.strongSt 8) (e.G 2) 8 (inScratch 0xFFF8) ∧ spaceOf (inScratch 0xFFF8).addr = .scratch ∧
        e.scratchBusy (inScratch 0xFFF8) 8 = false) ∧
    (Meets (infoLL (encode (.cas 1 1 2 3 1 15)) 1 15 (gs [1, 2, 3])) (with_ [(2, 0xFE00000000FFF8)])
      fun e => Granted e .atomic (e.G 2) 8 (inScratch 0xFFF8) ∧ spaceOf (inScratch 0xFFF8).addr = .scratch ∧
        e.scratchBusy (inScratch 0xFFF8) 8 = false ∧ e.poisoned (Memory.line (inScratch 0xFFF8).addr) = false) ∧
    ∀ p ∈ amos 1 1 2 3 1 15, Passes (infoLL (encode p.1) 1 15 (gs [1, 2, 3])) (with_ [(2, 0xFE00000000FFF8)]) :=
  ⟨meets rfl rfl ⟨granted (by decide +kernel), by decide +kernel, by decide +kernel⟩,
    meets rfl rfl ⟨granted (by decide +kernel), by decide +kernel, by decide +kernel⟩,
    meets rfl rfl ⟨granted (by decide +kernel), by decide +kernel⟩, passes_all rfl⟩

/-! ## Fences, tags and extents -/

/-- A reflected store of the strand to window 7 is on its way. -/
def sending : State := { with_ [(1, 7)] with hub := { copies := [{ sid := 0x300000005, pid := 0, win := some 7, dev := 1, rx := 0, off := 0, bytes := [1] }] } }

theorem witness_FenceResult :
    (∀ c ∈ [1, 2, 3], Passes ((infoR (encode (.phase 1 c 8)) 1 8 []).need (c == 1 || c == 2 || c == 3)) one) ∧
    Passes (infoR (encode (.fenceX 1 8)) 1 8 []) one ∧ Passes (infoR (encode (.ifence 1 8)) 1 8 []) one ∧
    Passes (infoR (encode (.fenceR 1 1 8)) 1 8 (gs [1])) one ∧ Passes (infoR (encode (.fenceA 1 1 8)) 1 8 (gs [1])) one ∧
    ((sending.G 1).setWidth 8).toNat = 7 ∧ sending.reflected 0x300000005 (some 7) = false ∧
    sending.reflected 0x300000005 (some 6) = true ∧ sending.reflected 0x300000005 none = false :=
  ⟨passes_all (f := fun c => (infoR (encode (.phase 1 c 8)) 1 8 []).need (c == 1 || c == 2 || c == 3)) rfl, passes_ok rfl, passes_ok rfl,
    passes_ok rfl, passes_ok rfl, rfl, rfl, rfl, rfl⟩

/-- One write of die 0 is on its path to die 1; none of die 1's. -/
def underWay : State := { one with dies := [(0, { paths := [(1, ⟨1, [{ line := 0x2000, mask := 1, data := 9 }]⟩)] })] }

/-- A drain: the younger of two lines of the own die's page wins, byte by byte; the other die's line goes to the path. -/
theorem witness_FenceResult_drains :
    let s : State := { remote with cores := [(0, { sbuf := [{ line := 0x20000, mask := 3, data := 0x0102 }, { line := 0x2000, mask := 1, data := 7 },
      { line := 0x20000, mask := 1, data := 5 }] })] }
    drainedByte s 0 0x20000 = some 5 ∧ drainedByte s 0 0x20001 = some 1 ∧ drainedByte s 0 0x2000 = none ∧
      drainedLines s 0 1 = [{ line := 0x2000, mask := 1, data := 7 }] := by decide +kernel

theorem witness_FenceResult_paths :
    underWay.performedUpTo 0 (underWay.acceptedBy 0) = false ∧
    (∀ p ∈ (underWay.die 1).paths, (underWay.path 1 p.1).writes = [] ∧ p.2.accepted = (underWay.path 1 p.1).accepted) ∧
    ∀ p ∈ ({ one with dies := [(0, { paths := [(1, ⟨1, []⟩)] })] } : State).die 0 |>.paths,
      (({ one with dies := [(0, { paths := [(1, ⟨1, []⟩)] })] } : State).path 0 p.1).writes = [] := by decide +kernel

/-- tag.set of 64 bytes whose second granule is the last of the entry; of no byte; and where another die owns the page. -/
theorem witness_TagResult :
    (Meets (infoR (encode (.tagSet 1 2 3 8)) 1 8 (gs [2, 3])) (({ tagged with st := tagged.st.setG 2 0x0500003FFFFFFFC0 }).setG 3 64)
      fun e => (tagCheck e.st (e.G 2) (e.G 3)).toOption = some (0x3FFFFFFFC0, 2)) ∧
    (Meets (infoR (encode (.tagSet 1 2 3 8)) 1 8 (gs [2, 3])) tagged fun e => (tagCheck e.st (e.G 2) (e.G 3)).toOption = some (0, 0)) ∧
    tagged.ownerDie 0x2000 = dieOf 0 ∧ ({ tagged with hub := { owners := [(0, ⟨1, 2 ^ 35, 65536⟩)] } } : State).ownerDie 0x2000 ≠ dieOf 0 ∧
    Meets (infoLL (encode (.tagGet 1 1 2 8)) 1 8 (gs [1, 2])) tagged fun e => Granted e .tagGet (e.G 2) 1 { at_ 0x2000 with t := true } ∧
      spaceOf 0x2000 = .dieMem ∧ ((e.behind e.st 0x2000).reach 0 0x2000).poisoned 0x2000 = false :=
  ⟨meets rfl rfl (by decide +kernel), meets rfl rfl (by decide +kernel), by decide +kernel, by decide +kernel,
    meets rfl rfl ⟨granted (by decide +kernel), by decide, by decide +kernel⟩⟩

theorem witness_ExtentResult :
    Passes (infoR (encode (.xreq 1 1 2 3 8)) 1 8 (gs [1, 2, 3])) one ∧ Passes (infoR (encode (.xrel 1 2 8)) 1 8 (gs [2])) one ∧
    Extent.covers (one.st.ext[0]) 0x3FFFFFFFFF = true ∧ ∀ i : Fin 16, Extent.covers one.st.ext[i] 0x4000000000 = false :=
  ⟨passes_ok rfl, passes_ok rfl, by decide +kernel, by decide +kernel⟩

/-! ## Vectors -/

theorem witness_VectorArithResult :
    (∀ p ∈ vectorTwo 1 15 1 2 7 8, Meets (infoR (encode p.1) 1 8 (vs [15, 1, 2] ++ ks [7])) (tags [(1, 1), (2, 1)])
      fun e => Ready e 1 p.2.1 ∧ tagOf e 2 = tagOf e 1) ∧
    (∀ p ∈ vectorThree 1 15 1 2 0 8, Meets (infoR (encode p.1) 1 8 (vs [15, 1, 2] ++ ks [0])) (tags [(1, 9), (2, 9), (15, 9)])
      fun e => Ready e 1 [1, 2, 3, 4, 7, 8, 9] ∧ tagOf e 2 = tagOf e 1 ∧ tagOf e 15 = tagOf e 1) ∧
    (∀ p ∈ vectorOne 1 15 1 0 8, Meets (infoR (encode p.1) 1 8 (vs [15, 1] ++ ks [0])) (tags [(1, 9)]) fun e => Ready e 1 p.2.1) ∧
    (∀ p ∈ vectorBits 1 15 1 2 0 8, Meets (infoR (encode p.1) 1 8 (vs [15, 1, 2] ++ ks [0])) (tags [(1, 4), (2, 4)])
      fun e => Ready e 1 p.2.1 ∧ tagOf e 2 = tagOf e 1) :=
  ⟨meets_all rfl rfl fun p hp => ⟨ready_all (f := fun p => p.2.1) rfl p hp, rfl⟩, meets_all rfl rfl fun _ _ => ⟨ready (by decide), rfl, rfl⟩,
    meets_all rfl rfl (ready_all rfl), meets_all rfl rfl fun p hp => ⟨ready_all (f := fun p => p.2.1) rfl p hp, rfl⟩⟩

theorem witness_IntegerElement :
    (1 : BitVec 4).toNat ∈ [1, 2, 3, 4] ∧ 8 = 4 * 2 ^ (1 : BitVec 4).toNat ∧ (128 : Int) = asInt true 8 127 + asInt true 8 1 ∧
    (4 : BitVec 4).toNat ∈ [1, 2, 3, 4] ∧ 64 = 4 * 2 ^ (4 : BitVec 4).toNat ∧ (-1 : Int) = asInt true 64 (2 ^ 64 - 1) := by decide +kernel

theorem witness_VectorScalarResult :
    (∀ p ∈ vectorScalar 1 15 1 31 7 8, Meets (infoR (encode p.1) 1 8 (vs [15, 1] ++ gs [31] ++ ks [7])) (tags [(1, 1), (15, 1)])
      fun e => Ready e 1 p.2.1 ∧ (p.2.2.2.1 = true → tagOf e 15 = tagOf e 1)) ∧
    (Meets (infoR (encode (.vbcast 1 15 31 7 8)) 1 8 (vs [15] ++ gs [31] ++ ks [7])) (tags [(15, 12)]) fun e => Ready e 15 (List.range 15)) ∧
    (Meets (infoR (encode (.vset 1 15 31 7 8)) 1 8 (vs [15] ++ gs [31] ++ ks [7])) (tags [(15, 9)])
      fun e => Ready e 15 (List.range 15) ∧ tagOf e 15 ≠ 12) ∧
    (Meets (infoR (encode (.vget 1 15 31 7 8)) 1 8 (gs [31] ++ vs [15] ++ ks [7])) (tags [(15, 9)])
      fun e => Ready e 15 (List.range 15) ∧ tagOf e 15 ≠ 12) ∧
    (Meets (infoR (encode (.vgetN 1 15 31 7 8)) 1 8 (gs [31] ++ vs [15] ++ ks [7])) (tags [(15, 4)])
      fun e => Ready e 15 [0, 1, 2, 3, 4, 11, 13, 14]) ∧
    (∀ i, i < 32 → ((tags []).st.K 7).getLsbD i = false) ∧ (tags []).st.rows * (tags []).st.cols = 32 ∧
    ((((tags []).modSt fun x => x.setK 7 (1 <<< 31)).st.K 7).getLsbD 31 = true ∧
      ∀ i, i < 31 → (((tags []).modSt fun x => x.setK 7 (1 <<< 31)).st.K 7).getLsbD i = false) :=
  ⟨meets_all rfl rfl fun p hp => ⟨ready_all (f := fun p => p.2.1) rfl p hp, fun _ => rfl⟩, meets rfl rfl (ready (by decide)),
    meets rfl rfl ⟨ready (by decide), by decide⟩, meets rfl rfl ⟨ready (by decide), by decide⟩, meets rfl rfl (ready (by decide)),
    by decide +kernel, rfl, by decide +kernel⟩

theorem witness_VectorMoveResult :
    ∀ p ∈ vectorMoves 1 15 1 2 0 7 8, Meets (infoR (encode p.1) 1 8 p.2.1) (tags [(1, 1), (2, 1)])
      fun e => p.2.2.2.1 e ∧ Fits e (Wf.tagHalf (e.st.V 1).tag) := by
  refine meets_all rfl rfl ?_
  intro p hp
  simp only [vectorMoves, List.mem_cons, List.mem_nil_iff, or_false] at hp
  obtain rfl | rfl | rfl | rfl | rfl | rfl := hp <;> exact ⟨by decide, show _ * _ * _ ≤ _ by decide⟩

theorem witness_VectorCompareResult :
    (∀ p ∈ (vectorCompares 1 7 1 2 0 8).take 6, Meets (infoR (encode p.1) 1 8 (ks [7] ++ vs [1, 2] ++ ks [0])) (tags [(1, 1), (2, 1)])
      fun e => Ready e 1 p.2.1 ∧ tagOf e 2 = tagOf e 1) ∧
    ∀ p ∈ (vectorCompares 1 0 1 2 0 8).drop 6, Meets (infoR (encode p.1) 1 8 (ks [0] ++ vs [1, 2] ++ ks [0])) (tags [(1, 9), (2, 9)])
      fun e => Ready e 1 p.2.1 ∧ tagOf e 2 = tagOf e 1 :=
  ⟨meets_all rfl rfl fun p hp => ⟨ready_all (f := fun p => p.2.1) rfl p hp, rfl⟩, meets_all rfl rfl fun p hp => ⟨ready_all (f := fun p => p.2.1) rfl p hp, rfl⟩⟩

theorem witness_ReductionResult :
    (∀ p ∈ reductionsAll 1 1 31 7 8, Meets (infoR (encode p.1) 1 8 (gs [31] ++ vs [1] ++ ks [7])) (tags [(1, 1)]) fun e => Ready e 1 p.2.1.acc) ∧
    ∀ p ∈ reductionsLines 1 15 1 7 8, Meets (infoR (encode p.1) 1 8 (vs [15, 1] ++ ks [7])) (tags [(1, 1)]) fun e => Ready e 1 p.2.1.acc :=
  ⟨meets_all rfl rfl (ready_all rfl), meets_all rfl rfl (ready_all rfl)⟩

theorem witness_VectorConvertResult :
    (∀ tg ∈ [1, 2, 3, 4, 5, 6, 7, 8, 9], Meets { (infoR (encode (.vcvt 1 15 1 tg 7 8)) 1 8
          (vs [15, 1] ++ ks [7])).need (decide (tg.toNat ∈ [1, 2, 3, 4, 5, 6, 7, 8, 9, 10])) with conv := true } (tags [(1, 9)])
      fun e => tagOf e 1 ∈ cvtSources tg true ∧ Fits e (max (Wf.tagHalf (e.st.V 1).tag) (Wf.tagHalf tg))) ∧
    (∀ tg ∈ [2, 3, 4], Meets { (infoR (encode (.vcvtN 1 15 1 tg 7 8)) 1 8
          (vs [15, 1] ++ ks [7])).need (decide (tg.toNat ∈ [1, 2, 3, 4, 5, 6, 7, 8, 9, 10])) with conv := true } (tags [(1, 1)])
      fun e => tagOf e 1 ∈ cvtSources tg false ∧ Fits e (max (Wf.tagHalf (e.st.V 1).tag) (Wf.tagHalf tg))) ∧
    (∀ tg ∈ [1, 2, 3, 4], ∀ i ∈ [Instr.vsat 1 15 1 tg 7 8, .vsatN 1 15 1 tg 7 8],
      Passes ((infoR (encode i) 1 8 (vs [15, 1] ++ ks [7])).need (decide (tg.toNat ∈ [1, 2, 3, 4]))) (tags [(1, 4)])) ∧
    tagOf (tags [(1, 4)]) 1 ∈ [1, 2, 3, 4] ∧ Fits (tags [(1, 4)]) (max (Wf.tagHalf ((tags [(1, 4)]).st.V 1).tag) (Wf.tagHalf 1)) :=
  ⟨meets_all (f := fun tg => { (infoR (encode (.vcvt 1 15 1 tg 7 8)) 1 8
        (vs [15, 1] ++ ks [7])).need (decide (tg.toNat ∈ [1, 2, 3, 4, 5, 6, 7, 8, 9, 10])) with conv := true }) rfl rfl
      (by simp only [Fits]; decide +kernel),
    meets_all (f := fun tg => { (infoR (encode (.vcvtN 1 15 1 tg 7 8)) 1 8
        (vs [15, 1] ++ ks [7])).need (decide (tg.toNat ∈ [1, 2, 3, 4, 5, 6, 7, 8, 9, 10])) with conv := true }) rfl rfl
      (by simp only [Fits]; decide +kernel), by
    intro tg _
    refine passes_all (f := fun i => (infoR (encode i) 1 8 (vs [15, 1] ++ ks [7])).need (decide (tg.toNat ∈ [1, 2, 3, 4]))) ?_
    revert tg
    decide +kernel, by decide, by simp only [Fits]; decide⟩

theorem witness_PackResult :
    (∀ tg ∈ [11, 12], Meets ((infoR (encode (.vpack 1 15 1 tg 8)) 1 8 (vs [15, 1])).need (tg == 11 || tg == 12)) (tags [(1, 1)])
      fun e => tagOf e 1 = 1 ∧ Fits e 2) ∧
    (Meets (infoR (encode (.vunpack 1 15 1 8)) 1 8 (vs [15, 1])) (tags [(1, 12)]) fun e => tagOf e 1 = 12 ∧ Fits e 2) ∧
    (Meets (infoR (encode (.vunpack 1 15 1 8)) 1 8 (vs [15, 1])) (tags [(1, 11)])
      fun e => tagOf e 1 = 11 ∧ Fits e 2 ∧ 5 * (e.st.rows * e.st.cols) ≤ 256) :=
  ⟨meets_all (f := fun tg => (infoR (encode (.vpack 1 15 1 tg 8)) 1 8 (vs [15, 1])).need (tg == 11 || tg == 12)) rfl rfl
      fun _ _ => ⟨rfl, show _ * _ * _ ≤ _ by decide⟩, meets rfl rfl ⟨rfl, show _ * _ * _ ≤ _ by decide⟩,
    meets rfl rfl ⟨rfl, show _ * _ * _ ≤ _ by decide, by decide⟩⟩

theorem witness_SpecialFunctionResult :
    (∀ p ∈ specials 1 15 1 7 15, Meets (infoLL (encode p.1) 1 15 (vs [15, 1] ++ ks [7])) (tags [(1, 9)])
      fun e => Ready e 1 [7, 8, 9] ∧ Fmt.ofTag (e.st.V 1).tag = some Fmt.f32) ∧
    Meets (infoLL (encode (.vdiv 1 15 1 2 7 15)) 1 15 (vs [15, 1, 2] ++ ks [7])) (tags [(1, 7), (2, 7)])
      fun e => Ready e 1 [7, 8, 9] ∧ tagOf e 2 = tagOf e 1 ∧ Fmt.ofTag (e.st.V 1).tag = some Fmt.f16 :=
  ⟨meets_all rfl rfl fun _ _ => ⟨ready (by decide), rfl⟩, meets rfl rfl ⟨ready (by decide), rfl, rfl⟩⟩

theorem witness_DotResult :
    (Meets (infoR (encode (.vdot 1 15 1 2 7 8)) 1 8 (vs [15, 1, 2] ++ ks [7])) (tags [(1, 1), (2, 1), (15, 3)])
      fun e => tagOf e 1 ∈ [1, 5, 6, 7, 8] ∧ tagOf e 2 = tagOf e 1 ∧ tagOf e 15 = (if tagOf e 1 = 1 then 3 else 9) ∧ Fits e 8) ∧
    (Meets (infoR (encode (.vdot 1 15 1 2 7 8)) 1 8 (vs [15, 1, 2] ++ ks [7])) (tags [(1, 8), (2, 8), (15, 9)])
      fun e => tagOf e 1 ∈ [1, 5, 6, 7, 8] ∧ tagOf e 2 = tagOf e 1 ∧ tagOf e 15 = (if tagOf e 1 = 1 then 3 else 9) ∧ Fits e 8) ∧
    (Meets (infoR (encode (.vdotN 1 15 1 2 7 8)) 1 8 (vs [15, 1, 2] ++ ks [7])) (tags [(1, 1), (2, 1), (15, 3)])
      fun e => tagOf e 1 = 1 ∧ tagOf e 2 = 1 ∧ tagOf e 15 = 3 ∧ Fits e 8) ∧
    Meets (infoR (encode (.vcmul 1 15 1 2 7 8)) 1 8 (vs [15, 1, 2] ++ ks [7])) (tags [(1, 10), (2, 10)])
      fun e => Ready e 1 [10] ∧ tagOf e 2 = 10 :=
  ⟨meets rfl rfl ⟨by decide, rfl, rfl, show _ * _ * _ ≤ _ by decide⟩, meets rfl rfl ⟨by decide, rfl, rfl, show _ * _ * _ ≤ _ by decide⟩,
    meets rfl rfl ⟨rfl, rfl, rfl, show _ * _ * _ ≤ _ by decide⟩, meets rfl rfl ⟨ready (by decide), rfl⟩⟩

theorem witness_BlockScaleResult :
    (Meets (infoR (encode (.vbmax 1 15 1 7 8)) 1 8 (vs [15, 1] ++ ks [7])) (tags [(1, 7)])
      fun e => Ready e 1 [7, 8, 9] ∧ Fits e 8 ∧ Fmt.ofTag (e.st.V 1).tag = some Fmt.f16) ∧
    (∀ t ∈ [1, 9], Meets (infoR (encode (.vscale 1 15 1 8)) 1 8 (vs [15, 1])) (tags [(15, 14), (1, t)])
      fun e => tagOf e 15 ∈ [13, 14] ∧ tagOf e 1 ∈ [1, 9] ∧ Fits e (max (Wf.tagHalf (e.st.V 1).tag) 2)) ∧
    Meets { infoR (encode (.vquant 1 15 1 7 8)) 1 8 (vs [15, 1] ++ ks [7]) with conv := true } (tags [(15, 13), (1, 9)])
      fun e => tagOf e 15 ∈ [13, 14] ∧ Ready e 1 [7, 8, 9] ∧ Fmt.ofTag (e.st.V 1).tag = some Fmt.f32 := by
  refine ⟨meets rfl rfl ⟨ready (by decide), show _ * _ * _ ≤ _ by decide, rfl⟩, ?_, meets rfl rfl ⟨by decide, ready (by decide), rfl⟩⟩
  simp only [List.mem_cons, List.mem_nil_iff, or_false, forall_eq_or_imp, forall_eq]
  exact ⟨meets rfl rfl ⟨by decide, by decide, show _ * _ * _ ≤ _ by decide⟩, meets rfl rfl ⟨by decide, by decide, show _ * _ * _ ≤ _ by decide⟩⟩

theorem witness_VectorMiscResult :
    (Meets (infoR (encode (.vrand 1 15 7 8)) 1 8 (vs [15] ++ ks [7])) (tags [(15, 10)])
      fun e => Ready e 15 [0, 1, 2, 3, 4, 5, 6, 7, 8, 9, 10, 13, 14]) ∧
    (Meets ((infoR (encode (.vtagSet 1 15 1 14 8)) 1 8 (vs [15, 1])).need ((14 : BitVec 4) != 15)) (tags [(1, 14)]) fun e => tagOf e 1 ≠ 15) ∧
    (∀ l, Meets ((infoR (encode (.vtagGet 1 15 1 l 0 8)) 1 8 (gs [15] ++ vs [1])).need ((0 : BitVec 3) == 0)) (tags [(1, 14)]) fun e => tagOf e 1 ≠ 15) ∧
    (∀ p ∈ maskOps 1 0 7 1 15 15 8, Passes (infoR (encode p.1) 1 8 (ks p.2.1)) one) ∧
    ∀ p ∈ maskCounts 1 15 7 0 8, Passes ((infoR (encode p.1) 1 8 (gs [15] ++ ks [7])).need p.2.1) one :=
  ⟨meets rfl rfl (ready (by decide)), meets rfl rfl (by decide), fun l => meets (by revert l; decide +kernel) rfl (by decide),
    passes_all rfl, passes_all rfl⟩

/-- Two active elements, the first and the last of the shape; three vector registers with tags. -/
def two : State := (tags [(15, 9), (1, 3)]).modSt fun x => (x.setK 7 (1 <<< 31 ||| 1)).setG 2 0x2000

theorem witness_VectorLoadResult :
    (Meets ((infoLL (encode (.vld 1 15 2 9 7 0 15)) 1 15 (vs [15] ++ gs [2] ++ ks [7])).need (Wf.vldLayout 9 2 0)) two
      fun e => Fits e (Wf.tagHalf 9) ∧ ((9 : BitVec 4) = 12 → (0 : BitVec 2) = 1 → e.st.cols % 2 = 0) ∧
        MayLoad e (widthOf 9 / 8) ((activeOnes e 7 (unitsOf 9 (e.st.rows * e.st.cols))).map (layoutAddr e 2 0 9))) ∧
    (Meets ((infoLL (encode (.vld 1 15 2 12 7 1 15)) 1 15 (vs [15] ++ gs [2, 2 + 1] ++ ks [7])).need (Wf.vldLayout 12 2 1)) two
      fun e => Fits e (Wf.tagHalf 12) ∧ ((12 : BitVec 4) = 12 → (1 : BitVec 2) = 1 → e.st.cols % 2 = 0) ∧
        MayLoad e (widthOf 12 / 8) ((activeOnes e 7 (unitsOf 12 (e.st.rows * e.st.cols))).map (layoutAddr e 2 1 12))) ∧
    Meets (infoLL (encode (.vgather 1 15 2 1 7 3 15)) 1 15 (vs [15] ++ gs [2] ++ vs [1] ++ ks [7])) two
      fun e => tagOf e 15 ≠ 12 ∧ tagOf e 15 ≠ 15 ∧ tagOf e 1 ∈ [3, 4] ∧
        Fits e (max (Wf.tagHalf (e.st.V 15).tag) (Wf.tagHalf (e.st.V 1).tag)) ∧
        MayLoad e (widthIn e 15 / 8) ((activeOnes e 7 (e.st.rows * e.st.cols)).map (gatherAddr e 2 1 3)) :=
  ⟨meets rfl rfl ⟨show _ * _ * _ ≤ _ by decide, by decide, .inr (res_ok (by decide +kernel))⟩,
    meets rfl rfl ⟨show _ * _ * _ ≤ _ by decide, by decide, .inr (res_ok (by decide +kernel))⟩,
    meets rfl rfl ⟨by decide, by decide, by decide, show _ * _ * _ ≤ _ by decide, .inr (res_ok (by decide +kernel))⟩⟩

/-- Two active elements, each of whose addresses may be loaded from. -/
theorem witness_VectorLoadResult_completes :
    (∀ l ∈ [(0 : BitVec 2), 1], Meets ((infoLL (encode (.vld 1 15 2 9 7 l 15)) 1 15
        (vs [15] ++ (if l = 0 then gs [2] else gs [2, 2 + 1]) ++ ks [7])).need (Wf.vldLayout 9 2 l)) two
      fun e => Fits e (Wf.tagHalf 9) ∧ ((9 : BitVec 4) = 12 → l = 1 → e.st.cols % 2 = 0) ∧
        Loadable e (widthOf 9 / 8) ((activeOnes e 7 (unitsOf 9 (e.st.rows * e.st.cols))).map (layoutAddr e 2 l 9))) ∧
    (Meets ((infoLL (encode (.vld 1 15 2 12 7 1 15)) 1 15 (vs [15] ++ gs [2, 2 + 1] ++ ks [7])).need (Wf.vldLayout 12 2 1)) two
      fun e => Fits e (Wf.tagHalf 12) ∧ ((12 : BitVec 4) = 12 → (1 : BitVec 2) = 1 → e.st.cols % 2 = 0) ∧
        Loadable e (widthOf 12 / 8) ((activeOnes e 7 (unitsOf 12 (e.st.rows * e.st.cols))).map (layoutAddr e 2 1 12))) ∧
    Meets (infoLL (encode (.vgather 1 15 2 1 7 3 15)) 1 15 (vs [15] ++ gs [2] ++ vs [1] ++ ks [7])) two
      fun e => tagOf e 15 ≠ 12 ∧ tagOf e 15 ≠ 15 ∧ tagOf e 1 ∈ [3, 4] ∧
        Fits e (max (Wf.tagHalf (e.st.V 15).tag) (Wf.tagHalf (e.st.V 1).tag)) ∧
        Loadable e (widthIn e 15 / 8) ((activeOnes e 7 (e.st.rows * e.st.cols)).map (gatherAddr e 2 1 3)) := by
  refine ⟨?_, meets (by decide +kernel) rfl ⟨show _ * _ * _ ≤ _ by decide, by decide, loadable [0x2000] (by decide +kernel) (by decide +kernel)⟩,
    meets (by decide +kernel) rfl ⟨by decide, by decide, by decide, show _ * _ * _ ≤ _ by decide, loadable [0x2000, 0x2000] (by decide +kernel) (by decide +kernel)⟩⟩
  simp only [List.mem_cons, List.mem_nil_iff, or_false, forall_eq_or_imp, forall_eq]
  exact ⟨meets (by decide +kernel) rfl ⟨show _ * _ * _ ≤ _ by decide, by decide, loadable [0x2000, 0x207C] (by decide +kernel) (by decide +kernel)⟩,
    meets (by decide +kernel) rfl ⟨show _ * _ * _ ≤ _ by decide, by decide, loadable [0x2000, 0x207C] (by decide +kernel) (by decide +kernel)⟩⟩

/-- An address in the scratchpad, and one whose granule has its lock, may be loaded from too. -/
theorem witness_Loadable : Loadable one 1 [0xFE00000000FFFF] ∧ Loadable tagged 8 [0x0500000000002000] := by
  constructor <;> intro a ha <;> simp only [List.mem_cons, List.not_mem_nil, or_false] at ha <;> subst ha
  · exact ⟨inScratch 0xFFFF, granted (by decide +kernel), by decide, by decide +kernel, nofun⟩
  · exact ⟨{ at_ 0x2000 with t := true }, granted (by decide +kernel), by decide, by decide +kernel, fun _ => by decide +kernel⟩

theorem witness_VectorStoreResult :
    (Meets ((infoR (encode (.vst 1 15 2 7 0 8)) 1 8 (vs [15] ++ gs [2] ++ ks [7])).need ((0 : BitVec 2) == 0 || (2 : BitVec 5) != 31)) two
      fun e => tagOf e 15 ∈ layoutTags 0 ∧ tagOf e 15 ≠ 15 ∧ Fits e (Wf.tagHalf (e.st.V 15).tag) ∧
        (tagOf e 15 = 12 → (0 : BitVec 2) = 1 → e.st.cols % 2 = 0) ∧
        e.checkStores e.st (widthIn e 15 / 8) ((activeOnes e 7 (unitsIn e 15)).map (layoutAddr e 2 0 (e.st.V 15).tag)) =
          .ok [at_ 0x2000, at_ 0x207C] e ∧
        (∀ g ∈ [at_ 0x2000, at_ 0x207C], spaceOf g.addr = .dieMem ∨ spaceOf g.addr = .priv) ∧ (e.core e.st.core).sbuf.length + 2 ≤ 32) ∧
    Meets (infoR (encode (.vscatter 1 15 2 1 7 3 8)) 1 8 (vs [15] ++ gs [2] ++ vs [1] ++ ks [7])) two
      fun e => tagOf e 15 ≠ 12 ∧ tagOf e 15 ≠ 15 ∧ tagOf e 1 ∈ [3, 4] ∧
        Fits e (max (Wf.tagHalf (e.st.V 15).tag) (Wf.tagHalf (e.st.V 1).tag)) ∧
        e.checkStores e.st (widthIn e 15 / 8) ((activeOnes e 7 (e.st.rows * e.st.cols)).map (gatherAddr e 2 1 3)) =
          .ok [at_ 0x2000, at_ 0x2000] e ∧
        (∀ g ∈ [at_ 0x2000, at_ 0x2000], spaceOf g.addr = .dieMem ∨ spaceOf g.addr = .priv) ∧ (e.core e.st.core).sbuf.length + 2 ≤ 32 :=
  ⟨meets rfl rfl ⟨by decide, by decide, show _ * _ * _ ≤ _ by decide, by decide, given_ok (by decide +kernel), by decide +kernel, by decide +kernel⟩,
    meets rfl rfl ⟨by decide, by decide, by decide, show _ * _ * _ ≤ _ by decide, given_ok (by decide +kernel), by decide +kernel, by decide +kernel⟩⟩

/-! ## Fabric -/

/-- g2 names window 3 of fabric space at 0x1000000, whose entry sends to device 9, receive window 4; device 9 has a route. -/
def fabric : State := conf [(0x1180, 1 <<< 63), (0x1188, 0x10000), (0x1190, 9 + 4 * 4096)]
  { (with_ [(2, 0x1000000), (3, 0x100FFF8)]) with
    st := { (with_ [(2, 0x1000000), (3, 0x100FFF8)]).st with ext := (Vector.replicate 16 0).set 0 (mkExtent 0x1000000 0x10000 (2 ^ 54 + 3 * 2 ^ 45) 0 2 false) }
    hub := { routes := [(9, 0x8000)] } }

def inFabric : Target := ⟨2 ^ 54 + 3 * 2 ^ 45, false, true, false, false, false, false⟩

theorem sendable : Sendable fabric inFabric.addr 8 := by
  constructor <;> decide +kernel

theorem witness_ReflectedStore :
    (∀ p ∈ plainStores 1 0 2 0 0 0 6 8, Meets p.2.1 fabric
      fun e => Granted e .store (p.2.2 e) (bytesOf 6) inFabric ∧ spaceOf inFabric.addr = .fabric ∧ Sendable e inFabric.addr (bytesOf 6)) ∧
    (Meets ((infoLL (encode (.stS 1 1 2 3 2 1 15)) 1 15 (gs [1, 2])).need (Wf.scope 3 && ((2 : BitVec 2) == 0 || (2 : BitVec 2) == 2))) fabric
      fun e => Granted e (.strongSt 8) (e.G 2) 8 inFabric ∧ spaceOf inFabric.addr = .fabric ∧ Sendable e inFabric.addr 8) ∧
    Meets (infoR (encode (.stF 1 1 2 3 0 8)) 1 8 (gs [1, 2, 3])) fabric
      fun e => Granted e .stF (e.G 2) 8 inFabric ∧ spaceOf inFabric.addr = .fabric ∧ isPod inFabric.addr = false ∧
        (e.G 3).toNat % 8 = 0 ∧ flagOff e.st.ext (fabWin inFabric.addr) (e.G 3) = some 0xFFF8 ∧
        0xFFF8 + 8 ≤ e.txLen e.st.pid (fabWin inFabric.addr) ∧ Sendable e inFabric.addr 8 := by
  refine ⟨?_, meets (by decide +kernel) rfl ⟨granted (by decide +kernel), by decide, sendable⟩,
    meets (by decide +kernel) rfl ⟨granted (by decide +kernel), by decide, by decide, by decide +kernel, by decide +kernel, by decide +kernel, sendable⟩⟩
  intro p hp
  simp only [plainStores, List.mem_cons, List.mem_nil_iff, or_false] at hp
  obtain rfl | rfl := hp <;> exact meets (by decide +kernel) rfl ⟨granted (by decide +kernel), by decide, sendable⟩

/-! ## Strands -/

/-- A light strand in issue, and a Creel task in issue with a record behind it. -/
def light : State := { home with st := { home.st with cls := .light } }
def task : State := (home.modSt fun x => { x with sid := 0x380000005 }).modCreel 0 0 fun c => { c with entries := [⟨0, false, ⟨0x40, 1, 2, 3, 4, 5, 6, 7⟩⟩] }

theorem witness_StrandResult :
    (Meets (infoR (encode (.spawn 1 0 2 3 8)) 1 8 (gs [0, 2, 3])) (regs [(2, 0x0FFFFFFFFFFFFFFC)] home)
      fun e => Entry0 (e.G 2) ∧ Issuing e ∧ e.mayAdmit e.st.pid = true ∧ e.spawnCore e.st = some 0 ∧
        e.strand (nextSid e (sidSlot e.st.sid.toNat) 1) = none) ∧
    (Meets (infoR (encode (.spawn 1 1 2 3 8)) 1 8 (gs [1, 2, 3])) (conf [(0, 1 <<< 32)] (home.modPart 0 fun p => { p with resident := 64 }))
      fun e => Entry0 (e.G 2) ∧ (e.mayAdmit e.st.pid = false ∨ e.spawnCore e.st = none)) ∧
    (Meets (infoR (encode (.spawnL 1 1 2 3 8)) 1 8 (gs [1, 2, 3])) home
      fun e => Entry0 (e.G 2) ∧ Issuing e ∧ e.straightIn e.st.core (sidSlot e.st.sid.toNat) = true ∧
        e.strand (nextSid e (sidSlot e.st.sid.toNat) 1) = none) ∧
    Meets (infoR (encode (.exit 1 8)) 1 8 []) home Issuing ∧ Passes (infoR (encode (.yield 1 8)) 1 8 []) home :=
  ⟨meets rfl rfl ⟨⟨by decide, by decide⟩, ⟨rfl, rfl⟩, by decide +kernel⟩,
    meets rfl rfl ⟨⟨by decide, by decide⟩, by decide +kernel⟩,
    meets rfl rfl ⟨⟨by decide, by decide⟩, ⟨rfl, rfl⟩, by decide +kernel, by decide +kernel⟩,
    meets rfl rfl ⟨rfl, rfl⟩, passes_ok rfl⟩

theorem witness_StrandResult_migr : ∀ p ∈ [((0 : Word), 0), (0x100, 4)],
    Meets (infoR (encode (.migr 1 2 8)) 1 8 (gs [2])) (regs [(2, p.1)] light)
      fun e => (migrCheck e.st (e.G 2)).toOption = some p.1.toNat ∧ e.ownerCore e.st p.1.toNat = some p.2 ∧ Issuing e ∧
        (p.2 ≠ e.st.core → (∀ l ∈ e.hub.landings, l.sender ≠ e.st.sid.toNat) ∧ (e.core e.st.core).fwd.length < 16 ∧
          e.admitsMoved e.st p.2 = true) := by
  simp only [List.mem_cons, List.mem_nil_iff, or_false, forall_eq_or_imp, forall_eq]
  exact ⟨meets rfl rfl ⟨by decide +kernel, by decide +kernel, ⟨rfl, rfl⟩, by decide +kernel⟩,
    meets rfl rfl ⟨by decide +kernel, by decide +kernel, ⟨rfl, rfl⟩, by decide +kernel⟩⟩

/-- Core 4 as migr finds it: with a strand in its queue, and with as many as the queue takes. -/
def ahead_ (n : Nat) : State := { light with
  strands := (List.range n).map fun i => (0x300000010 + i, { light.st with sid := BitVec.ofNat 48 (0x300000010 + i), core := 4, place := .queued })
  cores := light.cores ++ [(4, { arrq := (List.range n).map (0x300000010 + ·) })] }

theorem witness_StrandResult_waits :
    ((ahead_ 1).admitsMoved (ahead_ 1).st 4 = false ∧ (ahead_ 1).straightIn 4 3 = true) ∧ (ahead_ 16).straightIn 4 3 = false := by decide +kernel

theorem witness_LandingResult :
    Passes (infoR (encode (.land 1 1 2 8)) 1 8 (gs [1, 2])) one ∧
    (Meets (infoR (encode (.landV 1 1 15 8)) 1 8 (gs [1] ++ vs [15])) one fun e => (e.st.V 15).tag ≠ 0xF) ∧
    (∀ i ∈ [Instr.lopen 1 1 8, .lclose 1 1 8], Passes (infoR (encode i) 1 8 (gs [1])) one) ∧
    (∀ i ∈ [Instr.waitL 1 2 1 8, .lclr 1 2 1 8], Passes (infoR (encode i) 1 8 (gs [2, 1])) one) ∧
    (∀ i ∈ [Instr.umask 1 8, .unmask 1 8], Passes (infoR (encode i) 1 8 []) one) :=
  ⟨passes_ok rfl, meets rfl rfl (by decide), passes_all (f := fun i => infoR (encode i) 1 8 (gs [1])) rfl,
    passes_all (f := fun i => infoR (encode i) 1 8 (gs [2, 1])) rfl, passes_all (f := fun i => infoR (encode i) 1 8 []) rfl⟩

/-- The core's hold began at 0, by the strand or by another, which at 512 has not lasted too long, and at 513 has. -/
def masked (sid at_ : Nat) : State := { home.modCore 0 fun c => { c with umask := some (sid, 0) } with clk := BitVec.ofNat 64 at_ }

theorem witness_LandingResult_unmask :
    (∀ n ∈ [0x300000005, 0x300000006], (∀ h since, ((masked n 512).core (masked n 512).st.core).umask = some (h, since) →
      (masked n 512).clk.toNat ≤ since.toNat + 512)) ∧
    Meets (infoR (encode (.unmask 1 8)) 1 8 []) (masked 0x300000005 513) fun e => e.st.ctl.urg = false ∧
      (e.core e.st.core).umask = some (e.st.sid.toNat, 0) ∧ (0 : Word).toNat + 512 < e.clk.toNat ∧ Issuing e ∧ e.st.place = .resident ∧
      e.st.pending.length < 8 := by
  refine ⟨fun n _ h since e => ?_, meets rfl rfl ⟨rfl, by decide +kernel, by decide +kernel, ⟨rfl, rfl⟩, rfl, by decide⟩⟩
  have k : ((masked n 512).core (masked n 512).st.core).umask = some (n, 0) := rfl
  rw [k] at e
  cases e
  decide +revert +kernel

/-- Sets of registers for wait.l: v15, which has arrived; g31, which is open; g1, which is neither. -/
def landed : Strand := { lane with ctl := { lane.ctl with lvarr := 0x8000, lmask := 0x80000000 } }

theorem witness_LandingResult_sets :
    arrivedIn landed (1 <<< 47) 47 = true ∧ (∀ i, i < 64 → arrivedIn landed (1 <<< 31) i = false) ∧ openAt landed (1 <<< 31) 31 = true ∧
    (∀ i, i < 64 → arrivedIn landed 2 i = false) ∧ ∀ i, i < 64 → openAt landed 2 i = false := by decide +kernel

/-- Barrier contexts 0 of every scope allotted, the pod's with its root here; g2 is a descriptor of n arrivals. -/
def gate (n : Nat) : State := regs [(2, BitVec.ofNat 64 (n * 2 ^ 32))] (conf [(0x20, 1), (0x28, 1), (0xD00, 3 <<< 62)] home)

theorem arrives {n : Nat} (hn : n = 1 ∨ n = 2) : ∀ p ∈ barriers 1 1 2 3 8, Arrives (gate n) p.2.2.1 0 n p.2.2.2.isSome ((gate n).G 2) := by
  intro p hp
  simp only [barriers, List.mem_cons, List.mem_nil_iff, or_false] at hp
  obtain rfl | rfl := hn <;> obtain rfl | rfl | rfl | rfl | rfl | rfl | rfl | rfl := hp <;>
    exact ⟨by decide +kernel, by decide +kernel, by decide +kernel, rfl, by decide +kernel, ⟨⟨rfl, rfl⟩, rfl⟩⟩

theorem witness_BarrierResult_waits : ∀ p ∈ barriers 1 1 2 3 8,
    Meets (infoR (encode p.1) 1 8 (gs p.2.1)) (gate 2) fun e => Arrives e p.2.2.1 0 2 p.2.2.2.isSome (e.G 2) ∧ ¬ Last e p.2.2.1 0 2 := by
  refine meets_all (by decide +kernel) (by decide +kernel) fun p hp => ⟨arrives (.inr rfl) p hp, ?_⟩
  simp only [barriers, List.mem_cons, List.mem_nil_iff, or_false] at hp
  obtain rfl | rfl | rfl | rfl | rfl | rfl | rfl | rfl := hp <;> (simp only [Last]; decide +kernel)

/-- For each of the eight forms: an arrival that is the last of its episode; and, for gang, a strand of the spec's cores. -/
theorem witness_BarrierResult_last :
    (∀ p ∈ barriers 1 1 2 3 8,
      Meets (infoR (encode p.1) 1 8 (gs p.2.1)) (gate 1) fun e => LastArrival e p.2.2.1 0 1 p.2.2.2.isSome (e.G 2)) ∧
    Meets (infoR (encode (.gang 1 1 8)) 1 8 (gs [1])) home fun e => e.st.core < 16384 := by
  refine ⟨meets_all (by decide +kernel) (by decide +kernel) fun p hp => ⟨arrives (.inl rfl) p hp, ?_⟩, meets rfl rfl (by decide +kernel)⟩
  simp only [barriers, List.mem_cons, List.mem_nil_iff, or_false] at hp
  obtain rfl | rfl | rfl | rfl | rfl | rfl | rfl | rfl := hp <;> (simp only [Last]; decide +kernel)

theorem farAway {e : State} {n : Nat} (h : (e.creel (dieOf e.st.core) e.st.pid).far = 0) : FarAway e n := by simp [FarAway, State.farList, h]

/-- The strand's arrival was counted before it was preempted, and has been released since. -/
def counted0 (sc : Scope) (d : Option (BitVec 5)) : Counted := { head := 0x1000, scope := sc, ctx := 0, d := d, result := some 5 }

theorem witness_BarrierResult_again : ∀ p ∈ barriers 1 1 2 3 8,
    Meets (infoR (encode p.1) 1 8 (gs p.2.1)) ((gate 2).modSt fun x => { x with counted := some (counted0 p.2.2.1 (p.2.2.2.map (·.1))) })
      fun e => ReleasedBefore e p.2.2.1 (counted0 p.2.2.1 (p.2.2.2.map (·.1))) 5 := by
  intro p hp
  simp only [barriers, List.mem_cons, List.mem_nil_iff, or_false] at hp
  obtain rfl | rfl | rfl | rfl | rfl | rfl | rfl | rfl := hp <;> exact meets (by decide +kernel) rfl ⟨rfl, rfl, rfl, rfl⟩

/-- The first bucket and the last one of the window: priorities 0 and 63 at shift 0. -/
theorem witness_CreelResult_cpush : ∀ b ∈ [0, 63],
    Meets (infoR (encode (.cpush 1 2 3 8)) 1 8 (gs [2, 3] ++ gRange 6)) (regs [(2, 0x40), (3, BitVec.ofNat 64 b)] home)
      fun e => e.crEn e.st.pid = true ∧ Entry0 (e.G 2) ∧ Placeable e ((e.G 3).setWidth 32) (pushShift e) b := by
  simp only [List.mem_cons, List.mem_nil_iff, or_false, forall_eq_or_imp, forall_eq]
  exact ⟨meets rfl rfl ⟨by decide +kernel, ⟨by decide, by decide⟩, ⟨by decide +kernel, by decide +kernel, by decide +kernel, by decide +kernel,
      by intro x hx r d n; revert x; simp [home, conf, State.setCfg, State.modPart, State.modHub, regs, State.setG, State.modSt, State.all, one, lane, Strand.setG], farAway (by decide +kernel)⟩⟩,
    meets rfl rfl ⟨by decide +kernel, ⟨by decide, by decide⟩, ⟨by decide +kernel, by decide +kernel, by decide +kernel, by decide +kernel,
      by intro x hx r d n; revert x; simp [home, conf, State.setCfg, State.modPart, State.modHub, regs, State.setG, State.modSt, State.all, one, lane, Strand.setG], farAway (by decide +kernel)⟩⟩⟩

theorem witness_CreelResult :
    (Meets (infoR (encode (.cpop 1 8)) 1 8 (gRange 7)) task fun e => e.crEn e.st.pid = true ∧ sidKind e.st.sid.toNat = 2 ∧ e.st.core < 16384 ∧
      FarAway e (e.dom e.st.pid).cshift.toNat ∧ ∀ k, ((e.creel (dieOf e.st.core) e.st.pid).ring k).len = 0) ∧
    (task.eligibleHead 0 0).isSome = true ∧
    (let s := task.modCreel 0 0 fun c => { c with entries := [⟨1, false, ⟨0x40, 1, 2, 3, 4, 5, 6, 7⟩⟩] }
     ∀ c ∈ (s.creel 0 0).entries, (s.creel 0 0).base + (s.dom 0).cbound.toNat < c.bucket) ∧
    (Meets (infoR (encode (.cwait 1 8)) 1 8 []) home fun e => e.crEn e.st.pid = true ∧ sidKind e.st.sid.toNat ≠ 2) ∧
    Meets (infoR (encode (.msg 1 2 3 8)) 1 8 (gs [2, 3] ++ gRange 7)) home
      fun e => Entry0 (e.G 2) ∧ e.onDie e.st.pid ((e.G 3).toNat % 16) = true ∧ e.msgsFor ((e.G 3).toNat % 16) < 1024 :=
  ⟨meets rfl rfl ⟨by decide +kernel, by decide +kernel, by decide +kernel, farAway (by decide +kernel), fun _ => rfl⟩, by decide +kernel, by decide +kernel,
    meets rfl rfl ⟨by decide +kernel, by decide +kernel⟩, meets rfl rfl ⟨⟨by decide, by decide⟩, by decide +kernel, by decide +kernel⟩⟩

theorem witness_CreelResult_cyield :
    Meets (infoR (encode (.cyield 1 8)) 1 8 (gRange 6)) task fun e => e.crEn e.st.pid = true ∧ sidKind e.st.sid.toNat = 2 ∧ Issuing e ∧ e.st.inflight = [] ∧
      Placeable e e.st.ctl.prio (e.dom e.st.pid).cshift.toNat 0 :=
  meets rfl rfl ⟨by decide +kernel, by decide +kernel, ⟨rfl, rfl⟩, rfl, ⟨by decide +kernel, by decide +kernel, by decide +kernel, by decide +kernel, by
    intro x hx r d n; revert x
    simp [task, home, conf, State.setCfg, State.modPart, State.modHub, State.modCreel, State.modDie, State.modSt, State.all, one, lane], farAway (by decide +kernel)⟩⟩

/-! ## Engines -/

/-- cp's operands: 8 bytes at 0x2000 go to 0x3000, or to the landing address in g3. -/
def copying : State := regs [(1, 8), (2, 0x2000), (3, 0x3000)] home

/-- A copy group of the modifier hint .l. -/
def copyingLand : State := hinted copying [0x3F400200]

theorem witness_EngineSubmit_cp :
    (∃ c ps, Meets (infoR (encode (.cp 1 1 2 3 7 8)) 1 8 (gs [1, 2, 3] ++ qs [7])) copying
      fun e => QueueRoom e 0 ∧ Copyable e (e.G 1) (e.G 2) (e.G 3) c ps) ∧
    ∃ c ps, Meets (infoR (encode (.cp 1 1 2 3 7 8)) 1 8 (gs [1, 2, 3] ++ qs [7])) copyingLand
      fun e => QueueRoom e 0 ∧ CopyableLand e (e.G 1) (e.G 2) c ps := by
  constructor
  · obtain ⟨ps, h⟩ := same_ok (r := copying.endChecks copying.st [⟨0x2000, (copyArgs 0 8).srcRanges 0x2000, false⟩, ⟨0x3000, [(0x3000, 8)], true⟩])
      (s := copying) (by decide +kernel)
    exact ⟨copyArgs 0 8, ps, meets rfl rfl ⟨by unfold QueueRoom; decide +kernel, ⟨⟨rfl, by decide +kernel⟩, by decide, by decide +kernel, by decide +kernel, by decide +kernel, h⟩⟩⟩
  · obtain ⟨ps, h⟩ := same_ok (r := copyingLand.endChecks copyingLand.st [⟨0x2000, (copyArgs 8 8).srcRanges 0x2000, false⟩]) (s := copyingLand)
      (by decide +kernel)
    exact ⟨copyArgs 8 8, ps, meets rfl rfl ⟨by unfold QueueRoom; decide +kernel, ⟨⟨rfl, by decide +kernel⟩, by decide, by decide +kernel, by decide +kernel, by decide +kernel, h⟩⟩⟩

/-- A descriptor of K = 1 at offset 0x40 of the scratchpad, with an unfold descriptor of ones if mm.u. -/
def describing (unf : Bool) : State :=
  { regs [(2, 0xFE000000000040)] home with
    mem := (2 ^ 60 + 0x42, 1) :: if unf then (List.range 8).filterMap fun i =>
      let b : Byte := BitVec.ofNat 8 (0x0010010011124009 / 2 ^ (8 * i)); if b = 0 then none else some (2 ^ 60 + 0x60 + i, b) else [] }

theorem described (unf : Bool) (b : Nat) (h : (matArgs b (Memory.readN (describing unf).mem (2 ^ 60 + 0x40) 64)).ok = true)
    (ht : ∀ r ∈ tilesOf (matArgs b (Memory.readN (describing unf).mem (2 ^ 60 + 0x40) 64)).zt
      (matArgs b (Memory.readN (describing unf).mem (2 ^ 60 + 0x40) 64)).form.tiles, (describing unf).st.names r = true) :
    Described (describing unf) 0xFE000000000040 b 0x40 (matArgs b (Memory.readN (describing unf).mem (2 ^ 60 + 0x40) 64)) := by
  cases unf <;> exact ⟨rfl, by decide +kernel, rfl, by decide +kernel, by decide +kernel, by rfl, h, ht⟩

theorem witness_EngineSubmit_mm : ∀ p ∈ matrixForms 1 31 2 7 8, ∃ unf m, Meets (infoR (encode p.1) 1 8 (gs [31, 2] ++ qs [7])) (describing unf)
    fun e => QueueRoom e (matrixQueue e) ∧ Described e (e.G 2) p.2 0x40 m ∧ e.joinable (quadOf e.st.core) (matrixQueue e) e.st m = none ∧
      m.inside (e.scratchOf e.st.core) (shareIndex (e.splitOf e.st.pid e.st.core) (e.st.core % 4 / 2) (e.gangBits e.st)
        (e.st.core % 4) (groupsOf m.k)) = true := by
  intro p hp
  simp only [matrixForms, List.mem_cons, List.mem_nil_iff, or_false] at hp
  obtain rfl | rfl | rfl | rfl | rfl | rfl | rfl | rfl | rfl := hp
  all_goals first
    | exact ⟨false, _, meets rfl rfl ⟨by unfold QueueRoom; decide +kernel, described false _ (by decide +kernel) (by decide +kernel), by decide +kernel, by decide +kernel⟩⟩
    | exact ⟨true, _, meets rfl rfl ⟨by unfold QueueRoom; decide +kernel, described true _ (by decide +kernel) (by decide +kernel), by decide +kernel, by decide +kernel⟩⟩

/-- An entry of another core's strand of the launch, of gang id 0, still collecting in matrix queue 1. -/
def collectingJob : MatJob :=
  { gid := 0, form := .i8, unf := false, k := 1, acc := false, sc := false, unfold := 0, quad := 0, split := false, half := 0, set := 3, members := []
    sampled := [0x300000005, 0x300000006] }
def collecting : Entry := { owner := 0x300000006, pid := 0, id := some 0, work := .matrix collectingJob }

def joining (unf : Bool) : State := (describing unf).modQuad 0 fun q => { q with mat0 := [collecting] }

theorem witness_EngineSubmit_join : ∀ p ∈ matrixForms 1 31 2 7 8, ∃ unf m j, Meets (infoR (encode p.1) 1 8 (gs [31, 2] ++ qs [7])) (joining unf)
    fun e => Described e (e.G 2) p.2 0x40 m ∧ e.joinable (quadOf e.st.core) (matrixQueue e) e.st m = some (collecting, j) ∧
      m.inside (e.scratchOf e.st.core) (shareIndex (e.splitOf e.st.pid e.st.core) (e.st.core % 4 / 2) j.set
        (e.st.core % 4) (groupsOf m.k)) = true := by
  intro p hp
  simp only [matrixForms, List.mem_cons, List.mem_nil_iff, or_false] at hp
  obtain rfl | rfl | rfl | rfl | rfl | rfl | rfl | rfl | rfl := hp
  all_goals first
    | exact ⟨false, _, collectingJob, meets rfl rfl ⟨⟨rfl, by decide +kernel, rfl, by decide +kernel, by decide +kernel, rfl, by decide +kernel, by decide +kernel⟩, by decide +kernel, by decide +kernel⟩⟩
    | exact ⟨true, _, collectingJob, meets rfl rfl ⟨⟨rfl, by decide +kernel, rfl, by decide +kernel, by decide +kernel, rfl, by decide +kernel, by decide +kernel⟩, by decide +kernel, by decide +kernel⟩⟩

theorem queueRoom : QueueRoom home (matrixQueue home) := by unfold QueueRoom; decide +kernel

theorem witness_EngineSubmit_acc :
    (∀ p ∈ [((15 : BitVec 4), (3 : BitVec 4)), (0, 9), (12, 10)], Meets ((infoR (encode (.accClr 1 31 p.1 p.2 7 8)) 1 8
        (gs [31] ++ tilesOf p.1.toNat (if p.2 = 0xA then 4 else 1) ++ qs [7])).need
        ((p.2 == 3 || p.2 == 9 || p.2 == 10) && (p.2 != 10 || p.1.extractLsb' 0 2 == 0))) home
      fun e => QueueRoom e (matrixQueue e)) ∧
    (∀ p ∈ [(Instr.accRd 1 14 12 7 15, false), (Instr.accRdC32 1 14 12 7 15, true)],
      Meets ((infoLL (encode p.1) 1 15 ((if p.2 then vs [14, 14 + 1] else vs [14]) ++ tilesOf 12 (if p.2 then 4 else 1))).need
          (!p.2 || ((12 : BitVec 4).extractLsb' 0 2 == 0 && (14 : BitVec 4).extractLsb' 0 1 == 0))) home
        fun e => QueueRoom e (matrixQueue e)) ∧
    (∀ p ∈ [(Instr.accWr 1 14 12 7 8, false), (Instr.accWrC32 1 14 12 7 8, true)],
      Meets ((infoR (encode p.1) 1 8 ((if p.2 then vs [14, 14 + 1] else vs [14]) ++ tilesOf 12 (if p.2 then 4 else 1))).need
          (!p.2 || ((12 : BitVec 4).extractLsb' 0 2 == 0 && (14 : BitVec 4).extractLsb' 0 1 == 0))) ((home.setV 14 { tag := if p.2 then 10 else 3 }).setV 15 { tag := 10 })
        fun e => QueueRoom e (matrixQueue e) ∧
          if p.2 then tagOf e 14 = 10 ∧ tagOf e (14 + 1) = 10 else tagOf e 14 = 3 ∨ tagOf e 14 = 9) := by
  refine ⟨meets_all (f := fun p : BitVec 4 × BitVec 4 => (infoR (encode (.accClr 1 31 p.1 p.2 7 8)) 1 8
        (gs [31] ++ tilesOf p.1.toNat (if p.2 = 0xA then 4 else 1) ++ qs [7])).need
        ((p.2 == 3 || p.2 == 9 || p.2 == 10) && (p.2 != 10 || p.1.extractLsb' 0 2 == 0))) (by decide +kernel) rfl fun _ _ => queueRoom,
    meets_all (by decide +kernel) rfl fun _ _ => queueRoom, ?_⟩
  simp only [List.mem_cons, List.mem_nil_iff, or_false, forall_eq_or_imp, forall_eq]
  exact ⟨meets (by decide +kernel) rfl ⟨by unfold QueueRoom; decide +kernel, by decide +kernel⟩,
    meets (by decide +kernel) rfl ⟨by unfold QueueRoom; decide +kernel, by decide +kernel⟩⟩

theorem witness_EngineSubmit_stores :
    (∀ p ∈ [(Instr.accSt 1 31 2 12 7 8, false), (Instr.accStC32 1 31 2 12 7 8, true)], ∃ ps,
      Meets ((infoR (encode p.1) 1 8 (gs [31, 2] ++ tilesOf 12 (if p.2 then 4 else 1) ++ qs [7])).need
          (!p.2 || (12 : BitVec 4).extractLsb' 0 2 == 0)) copying
        fun e => QueueRoom e (matrixQueue e) ∧ badEnd e.st.core (e.G 2) = false ∧ (e.G 2).toNat % 64 = 0 ∧
          (e.rangeSpaces e.st (e.G 2, if p.2 then 4096 else 2048)).contains .host = false ∧
          e.endChecks e.st [⟨e.G 2, [(e.G 2, if p.2 then 4096 else 2048)], true⟩] = .ok ps e) ∧
    ∀ n : BitVec 1, ∃ ps, Meets (infoR (encode (.sigDec 1 31 2 n 7 8)) 1 8 (gs [31, 2] ++ qs [7])) copying
      fun e => QueueRoom e (if n = 0 then 0 else matrixQueue e) ∧ (e.G 2).toNat / 2 ^ 60 = 0 ∧ winOf (e.G 2) ≠ 0xFF ∧ winOf (e.G 2) ≠ 0xFE ∧
        (e.G 2).toNat % 16 = 0 ∧ e.find e.st (e.G 2) = some (at_ 0x2000) ∧ (at_ 0x2000).space ≠ .host ∧
        e.endChecks e.st [⟨e.G 2, [(e.G 2, 16)], false⟩, ⟨e.G 2, [(e.G 2, 16)], true⟩] = .ok ps e := by
  constructor
  · simp only [List.mem_cons, List.mem_nil_iff, or_false, forall_eq_or_imp, forall_eq]
    obtain ⟨ps, h⟩ := same_ok (r := copying.endChecks copying.st [⟨0x2000, [(0x2000, 2048)], true⟩]) (s := copying) (by decide +kernel)
    obtain ⟨qs, k⟩ := same_ok (r := copying.endChecks copying.st [⟨0x2000, [(0x2000, 4096)], true⟩]) (s := copying) (by decide +kernel)
    exact ⟨⟨ps, meets (by decide +kernel) rfl ⟨by unfold QueueRoom; decide +kernel, by decide, by decide, by decide +kernel, h⟩⟩,
      ⟨qs, meets (by decide +kernel) rfl ⟨by unfold QueueRoom; decide +kernel, by decide, by decide, by decide +kernel, k⟩⟩⟩
  · intro n
    obtain ⟨ps, h⟩ := same_ok (r := copying.endChecks copying.st [⟨0x2000, [(0x2000, 16)], false⟩, ⟨0x2000, [(0x2000, 16)], true⟩]) (s := copying) (by decide +kernel)
    exact ⟨ps, meets (by revert n; decide +kernel) rfl
      ⟨by unfold QueueRoom; revert n; decide +kernel, by decide, by decide, by decide, by decide, by decide +kernel, by decide, h⟩⟩

/-- Ticket t, in g2, of a job of the strand that stands in the copy queue. -/
def jobs (t : Nat) : State := (regs [(2, BitVec.ofNat 64 t), (3, 0xFE000000000040)] home).modQuad 0 fun q => { q with
  recs := [(0, { ticket := BitVec.ofNat 64 t, eff := t, owners := [0x300000005] })]
  copyQ := [{ owner := 0x300000005, pid := 0, id := some 0, promise := t, work := .signal 0x2000 0x2000 }] }

theorem witness_JobResult_await :
    (∀ i ∈ [Instr.await 1 1 2 15, .awaitX 1 1 2 15], Passes (infoLL (encode i) 1 15 (gs [1, 2])) (jobs 1)) ∧
    (∀ i ∈ [Instr.jpoll 1 1 2 8, .jdrop 1 1 2 8], Passes (infoR (encode i) 1 8 (gs [1, 2])) (jobs 1)) ∧
    (home.quad 0).isFinal 0 5 = true ∧ ((jobs 0).quad 0).isFinal 0 0 = false ∧ ((jobs 1).quad 0).isFinal 0 1 = false ∧
    PromisePast (jobs 0) 0 ∧ (jobs 0).suspended (jobs 0).st 0 = false ∧ ¬ PromisePast (jobs 1) 1 ∧
    (let s := (jobs 0).modDie 0 fun d => { d with halted := true }
     PromisePast s 0 ∧ s.suspended s.st 0 = true) ∧ (jobs 1).st.wait = none ∧
    (∃ x n y, ((jobs 1).quad 0).record 0 1 = some x ∧ x.state = 0 ∧ 0x300000005 ∈ x.owners ∧ ((jobs 1).quad 0).queued 0 1 = some (n, y)) ∧
    ∀ x, (home.quad 0).record 0 5 = some x → x.state ≠ 0 ∨ 0x300000005 ∉ x.owners :=
  ⟨passes_all (f := fun i => infoLL (encode i) 1 15 (gs [1, 2])) (by decide +kernel), passes_all (f := fun i => infoR (encode i) 1 8 (gs [1, 2])) (by decide +kernel),
    by decide +kernel, by decide +kernel, by decide +kernel, by unfold PromisePast; decide +kernel, by decide +kernel,
    by unfold PromisePast; decide +kernel, by unfold PromisePast; decide +kernel, rfl, ⟨_, _, _, rfl, rfl, by decide +kernel, rfl⟩, by intro x h; cases h⟩

theorem witness_JobResult_guards :
    Passes (infoR (encode (.gset 1 2 7 8)) 1 8 (qs [7] ++ gs [2])) home ∧ Passes (infoR (encode (.gclr 1 7 8)) 1 8 (qs [7])) home ∧
    Meets (infoR (encode (.qfence 1 2 8)) 1 8 (gs [2])) (regs [(2, 7)] home)
      fun e => ((e.G 2).getLsbD 0 = true → QueueRoom e 0) ∧ ((e.G 2).getLsbD 1 = true → QueueRoom e (matrixQueue e)) ∧
        ((e.G 2).getLsbD 2 = true → (e.die (dieOf e.st.core)).power.stage ≠ 1 ∧ (e.core e.st.core).bookQ.length < 16) :=
  ⟨passes_ok rfl, passes_ok rfl, meets rfl rfl (by unfold QueueRoom; decide +kernel)⟩

/-- A Round model of 128 frames whose layer 1 is frames 4 and 5; g2 = 1, g3 a place in the own scratchpad. -/
def model : RoundModel := { number := 1, frames := 128, layers := [⟨0, 4⟩, ⟨4, 2⟩], slices := [] }
def lapping : State := regs [(2, 1), (3, 0xFE000000000040)] { home with hub := { home.hub with round := { model := some model, fill := false } } }

/-- A booking of the strand that stands alone in its core's queue, with ticket 9. -/
def booking : Booking := { quad := 0, core := 0, layer := 1, off := 0x40, lap := 0, first := 4, count := 2 }
def booked : Entry := { owner := 0x300000005, pid := 0, id := some 0, promise := 9, started := true, work := .booking booking }
def boarded : State := (regs [(2, 9)] lapping).modCore 0 fun c => { c with bookQ := [booked] }

theorem witness_JobResult_board :
    (Meets (infoR (encode (.board 1 1 2 3 8)) 1 8 (gs [1, 2, 3])) lapping
      fun e => (∀ x ∈ (e.core e.st.core).bookQ, x.booking.isSome = true) ∧ (e.core e.st.core).bookQ.length < 16 ∧
        (e.die (dieOf e.st.core)).power.stage ≠ 1 ∧ (e.bookings e.st.sid.toNat).length < 4 ∧ e.hub.round.model = some model ∧
        model.layers[(e.G 2).toNat]? = some ⟨4, 2⟩ ∧ (e.G 2).toNat < 4096 ∧ scratchEnd e.st.core (e.G 3) = some (e.st.core, 0x40) ∧
        (e.G 3).getLsbD 43 = false ∧ (e.G 3).toNat % 64 = 0 ∧ 0x40 + e.layerEnd model ⟨4, 2⟩ ≤ e.scratchOf e.st.core) ∧
    (Meets (infoR (encode (.unboard 1 2 8)) 1 8 (gs [2])) boarded
      fun e => (e.die (dieOf e.st.core)).power.stage ≠ 1 ∧ (e.core e.st.core).bookQ.length < 16) ∧ (∀ p ∈ home.bookings 0x300000005, p.2.ticket ≠ some 9) ∧
    (boarded.core 0).bookQ = [booked] ∧ booked.ticket = some 9 ∧ boarded.bookings 0x300000005 = [(0, booked)] ∧ booked.booking = some booking :=
  ⟨meets rfl rfl (by decide +kernel), meets (by decide +kernel) rfl (by decide +kernel), by decide +kernel⟩

/-! ## Traps, special registers, strands under the supervisor -/

/-- A strand at a mode with the trap registers of its three levels: user, supervisor, hypervisor. -/
def trapping (m : Mode) (u s h : TrapRegs) : Strand := { lane with ctl := { lane.ctl with priv := m }, u := u, s := s, h := h }

/-- A handler that is not active, and one that is and came from a mode. -/
def idle (v : Word) : TrapRegs := { vec := v }
def active (v : Word) (m : Mode) : TrapRegs := { vec := v, cause := BitVec.ofNat 64 (0x800 + 512 * m.code), xpc := 0x40 }

theorem witness_TrapAndReturn :
    (levelOf (trapping .user (idle 4) {} {}) 0x08 = .user ∧ CanEnter (trapping .user (idle 4) {} {}) .user) ∧
    (((trapping .user (active 4 .user) (idle 8) {}).trapRegs .user).cause.getLsbD 11 = true ∧
      CanEnter (trapping .user (active 4 .user) (idle 8) {}) .supervisor) ∧
    (levelOf (trapping .supervisor {} (active 8 .user) (idle 12)) 0x08 = .supervisor ∧
      ((trapping .supervisor {} (active 8 .user) (idle 12)).trapRegs .supervisor).cause.getLsbD 11 = true ∧
      CanEnter (trapping .supervisor {} (active 8 .user) (idle 12)) .hypervisor) ∧
    (levelOf (trapping .hypervisor {} {} (active 12 .user)) 0x08 = .hypervisor ∧
      ((trapping .hypervisor {} {} (active 12 .user)).trapRegs .hypervisor).cause.getLsbD 11 = true) ∧
    (lane.trapRegs .user).cause.getLsbD 11 = false ∧ (lane.trapRegs .user).vec = 0 ∧ Issuing one :=
  ⟨⟨by decide +kernel, rfl, by decide⟩, ⟨rfl, rfl, by decide⟩, ⟨by decide +kernel, rfl, rfl, by decide⟩, ⟨by decide +kernel, rfl⟩, rfl, rfl, rfl, rfl⟩

theorem witness_TrapAndReturn_units :
    Passes (infoR (encode (.trap 1 2 8)) 1 8 (gs [2])) one ∧ Passes (infoR (encode (.brk 1 8)) 1 8 []) one ∧
    Passes (infoR (encode (.eret 1 8)) 1 8 []) { one with st := trapping .supervisor {} (active 8 .supervisor) {} } ∧
    (let r := (trapping .supervisor {} (active 8 .supervisor) {}).trapRegs .supervisor
     r.cause.getLsbD 11 = true ∧ r.cause.toNat / 512 % 4 ≤ Mode.supervisor.code ∧ r.xpc.toNat / 2 ^ 60 = 0 ∧ r.xpc.toNat % 4 = 0) ∧
    ¬ ((trapping .supervisor {} (idle 8) {}).trapRegs .supervisor).cause.getLsbD 11 = true :=
  ⟨passes_ok rfl, passes_ok rfl, passes_ok rfl, by decide +kernel, by decide +kernel⟩

/-- The strand at a mode. -/
def mode (m : Mode) : State := { home with st := trapping m {} {} {} }

/-- Flags of an outstanding result (R104), which stand in fcr before mfs or mts of number 3. -/
theorem witness_SpecialRegisterResult_flags :
    let s := home.modSt fun x => { x with inflight := [⟨0xF00, 0, [.v 3], [.v 3 {}, .fcr 0x100]⟩] }
    (∃ o ∈ s.st.inflight, ∃ b, RegWrite.fcr b ∈ o.writes) ∧
    (∀ i ∈ [Instr.mfs 1 1 0 3 8, .mts 1 1 0 3 8], Passes (specialInfo (encode i) 1 8 1 0 3) s) ∧
    specialValue (flagsIn s 3) 3 = some 0x100 := by
  refine ⟨⟨_, List.mem_singleton_self _, 0x100, by simp⟩, passes_all (f := fun i => specialInfo (encode i) 1 8 1 0 3) (by decide +kernel), ?_⟩
  rw [flagsIn, if_pos ⟨rfl, _, List.mem_singleton_self _, 0x100, by simp⟩]
  decide +kernel

/-- Each special register with its mode: that it can be read; and, for those that can be written, that a value can. -/
theorem witness_SpecialRegisterResult :
    (∀ p ∈ specialReads (mode .hypervisor), ∃ v, specialValue (mode .hypervisor) p.1 = some v ∧
      Passes (specialInfo (encode (.mfs 1 31 (BitVec.ofNat 5 (p.1 / 32)) (BitVec.ofNat 5 p.1) 8)) 1 8 31 (BitVec.ofNat 5 (p.1 / 32)) (BitVec.ofNat 5 p.1))
        (mode .hypervisor)) ∧
    (∀ p ∈ specialWrites (regs [(31, 1)] (mode .hypervisor)), p.1 ≠ 4 → p.2 1) ∧
    (∀ p ∈ specialWrites (regs [(31, 6)] (mode .hypervisor)), p.1 = 4 → p.2 6) ∧
    ∀ n ∈ (specialWrites (mode .hypervisor)).map (·.1),
      Passes (specialInfo (encode (.mts 1 31 (BitVec.ofNat 5 (n / 32)) (BitVec.ofNat 5 n) 8)) 1 8 31 (BitVec.ofNat 5 (n / 32)) (BitVec.ofNat 5 n))
        (mode .hypervisor) := by
  refine ⟨fun p hp => ?_, ?_, ?_, ?_⟩
  · have h : (specialReads (mode .hypervisor)).all (fun p => (specialValue (mode .hypervisor) p.1).isSome &&
      passes (specialInfo (encode (.mfs 1 31 (BitVec.ofNat 5 (p.1 / 32)) (BitVec.ofNat 5 p.1) 8)) 1 8 31 (BitVec.ofNat 5 (p.1 / 32)) (BitVec.ofNat 5 p.1))
        (mode .hypervisor)) = true := by decide +kernel
    have h := List.all_eq_true.mp h p hp
    simp only [Bool.and_eq_true] at h
    exact ⟨_, (Option.isSome_iff_exists.mp h.1).choose_spec, passes_ok h.2⟩
  · simp only [specialWrites, List.mem_cons, List.not_mem_nil, or_false, forall_eq_or_imp, forall_eq]; and_intros <;> decide +kernel
  · simp only [specialWrites, List.mem_cons, List.not_mem_nil, or_false, forall_eq_or_imp, forall_eq]; and_intros <;> decide +kernel
  · exact passes_all (f := fun n => specialInfo (encode (.mts 1 31 (BitVec.ofNat 5 (n / 32)) (BitVec.ofNat 5 n) 8)) 1 8 31 (BitVec.ofNat 5 (n / 32)) (BitVec.ofNat 5 n)) (by decide +kernel)

/-- A call ring at 0x100000 of the strand's die, empty. -/
def calling : State := home.modDieRegs 0 0 fun r => { r with scring := 1 <<< 63 ||| 0x100000 }

/-- A strand at a mode, its g2 the sid of another strand and its g3 a place in memory, where a frame of that strand lies. -/
def other : Strand := { lane with sid := 0x300000006, place := .saved, frame := some 0x40000 }
def over_ (m : Mode) (x : Strand) (b : Word) : State :=
  { regs [(2, 0x300000006), (3, b)] (mode m) with
    strands := [(0x300000006, x)], mem := Memory.writeN [] 0x3300 (0x300000006 + 2 * 2 ^ 48) 8 }

theorem witness_SupervisorResult_calls :
    (Meets (infoR (encode (.sysc 1 8)) 1 8 (gRange 7)) calling
      fun e => Issuing e ∧ e.st.core < 16384 ∧ e.callRing (dieOf e.st.core) e.st.pid = some 0x100000) ∧
    (calling.dieRegs 0 0).parked = [] ∧ (∃ i, i < 256 ∧ Memory.readN calling.mem (0x100000 + 64 * i) 8 / 2 ^ 63 = 0) ∧
    (((calling.modDieRegs 0 0 fun r => { r with parked := [7] }).dieRegs 0 0).parked ≠ []) ∧
    Meets (privilegedInfo 1 8 (.halt 1 8, [], .supervisor)) (mode .supervisor) Issuing :=
  ⟨meets (by decide +kernel) (by decide +kernel) ⟨⟨by decide +kernel, by decide +kernel⟩, by decide +kernel, by decide +kernel⟩, by decide +kernel,
    ⟨255, by decide, by decide +kernel⟩, by decide +kernel, meets (by decide +kernel) rfl ⟨rfl, rfl⟩⟩

theorem witness_SupervisorResult_saved :
    (Meets (privilegedInfo 1 8 (.ctxSv 1 2 3 8, [2, 3], .supervisor)) (over_ .supervisor other 0x2000)
      fun e => Issuing e ∧ e.strand ((e.G 2).toNat % 2 ^ 48) = some other ∧ other.pid = e.st.pid ∧ other.place = .saved ∧ other.flags.preempt = false ∧
        other.frame = some 0x40000 ∧ e.saveArea (e.G 3) 5888 64 true = .ok 0x2000 e) ∧
    (∃ y, Meets (privilegedInfo 1 8 (.ctxLd 1 2 3 8, [2, 3], .hypervisor)) (over_ .hypervisor other 0x2000)
      fun e => e.strand ((e.G 2).toNat % 2 ^ 48) = some other ∧ other.pid = e.st.pid ∧ other.sid ≠ e.st.sid ∧ other.place = .saved ∧
        other.flags.preempt = false ∧ other.pushing = false ∧ other.frame = some 0x40000 ∧ e.saveArea (e.G 3) 5888 64 false = .ok 0x2000 e ∧ ∃ e', (e.flushOf e.st).readArea (e.G 3) 0x2000 5888 = .ok y e' ∧
        imageOk other.cls e'.st.ctl.priv.code y = true ∧ y / 2 ^ (8 * 0x1300) % 2 ^ 48 = other.sid.toNat ∧
        y / 2 ^ (8 * 0x1300) / 2 ^ 48 % 4 = other.cls.code) ∧
    (∃ y, Meets (privilegedInfo 1 8 (.xmap 1 2 3 8, [2, 3], .hypervisor)) (over_ .hypervisor other 0x200F)
      fun e => e.strand ((e.G 2).toNat % 2 ^ 48) = some other ∧ other.pid = e.st.pid ∧ other.place = .saved ∧ other.flags.preempt = false ∧
        other.frame = some 0x40000 ∧ e.saveArea (e.G 3 - BitVec.ofNat 64 ((e.G 3).toNat % 16)) 32 32 false = .ok 0x2000 e ∧
        ∃ e', (e.flushOf e.st).readArea (e.G 3 - BitVec.ofNat 64 ((e.G 3).toNat % 16)) 0x2000 32 = .ok y e') := by
  refine ⟨meets (by decide +kernel) rfl ⟨⟨by decide +kernel, by decide +kernel⟩, by decide +kernel, rfl, rfl, rfl, rfl, given_ok (by decide +kernel)⟩, ?_, ?_⟩
  · obtain ⟨y, e', h, hp⟩ := res_all (r := ((over_ .hypervisor other 0x2000).flushOf (over_ .hypervisor other 0x2000).st).readArea 0x2000 0x2000 5888)
      (p := fun y e' => imageOk other.cls e'.st.ctl.priv.code y = true ∧ y / 2 ^ (8 * 0x1300) % 2 ^ 48 = other.sid.toNat ∧
        y / 2 ^ (8 * 0x1300) / 2 ^ 48 % 4 = other.cls.code) (by decide +kernel)
    exact ⟨y, meets (by decide +kernel) rfl ⟨by decide +kernel, rfl, by decide +kernel, rfl, rfl, by decide +kernel, rfl, given_ok (by decide +kernel), e', h, hp⟩⟩
  · obtain ⟨y, e', h⟩ := res_ok (r := ((over_ .hypervisor other 0x200F).flushOf (over_ .hypervisor other 0x200F).st).readArea 0x2000 0x2000 32) (by decide +kernel)
    exact ⟨y, meets (by decide +kernel) rfl ⟨by decide +kernel, rfl, rfl, rfl, rfl, given_ok (by decide +kernel), e', h⟩⟩

theorem witness_SupervisorResult_live :
    (let x := { other with flags := { stop := true, bight := true } }
     ∀ y ∈ [{ other with flags := { stop := true } }, x], y.flags.preempt = false ∧ y.place = .saved ∧ (over_ .supervisor y 0).strand 0x300000006 = some y) ∧
    (Meets (privilegedInfo 1 8 (.preempt 1 2 8, [2], .supervisor)) (over_ .supervisor { other with place := .resident, core := 1 } 0)
      fun e => ∃ x, e.strand ((e.G 2).toNat % 2 ^ 48) = some x ∧ x.sid.toNat = (e.G 2).toNat % 2 ^ 48 ∧ x.pid = e.st.pid ∧ x.place = .resident ∧
        e.gangBusy x = false) ∧
    (Meets (privilegedInfo 1 8 (.resume 1 2 3 8, [2, 3], .supervisor)) (over_ .supervisor other 0)
      fun e => e.strand ((e.G 2).toNat % 2 ^ 48) = some other ∧ other.sid.toNat = (e.G 2).toNat % 2 ^ 48 ∧ other.pid = e.st.pid ∧
        other.sid ≠ e.st.sid ∧ other.flags.preempt = false ∧ other.place = .saved ∧ (e.view other).flags.parked = false ∧
        (e.view other).flags.callPending = false) ∧
    Meets (privilegedInfo 1 8 (.resume 1 2 3 8, [2, 3], .supervisor)) (over_ .supervisor { other with place := .resident, flags := { callPending := true } } 0)
      fun e => ∃ x, e.strand ((e.G 2).toNat % 2 ^ 48) = some x ∧ x.sid.toNat = (e.G 2).toNat % 2 ^ 48 ∧ x.pid = e.st.pid ∧
        x.sid ≠ e.st.sid ∧ x.flags.preempt = false ∧ x.place = .resident ∧ x.flags.callPending = true :=
  ⟨by decide +kernel, meets (by decide +kernel) rfl ⟨{ other with place := .resident, core := 1 }, by decide +kernel, by decide +kernel, rfl, rfl, by decide +kernel⟩,
    meets (by decide +kernel) rfl (by decide +kernel),
    meets (by decide +kernel) rfl ⟨{ other with place := .resident, flags := { callPending := true } }, by decide +kernel, by decide +kernel, rfl, by decide +kernel, rfl, rfl, rfl⟩⟩

theorem witness_UnitChecks :
    (∃ w ∈ (hinted one [0x3F000001]).st.hints, hintKind w = 0) ∧ true ∈ modGroups (modData (hinted one [0x3F400200]).st.hints) ∧
    one.st.hints = [] ∧ Wf.mark 1 8 = true ∧
    (light.st.cls = .light ∧ [(7 : BitVec 5), 8, 9].find? (fun x => decide (8 ≤ x.toNat)) = some 8) ∧
    ((owing one (.g 2) 1).st.inflight.find? fun o => decide (1 ≤ o.left) && o.dests.any fun r => r != .g 0 && (gs [1, 2, 3]).contains r) =
      some ⟨0xF00, 1, [.g 2], []⟩ ∧
    (∀ p ∈ privileged 1 2 3 8, (mode .user).st.ctl.priv.code < p.2.2.code) ∧ (8 : BitVec 5).toNat / 8 = 1 ∧ (16 : BitVec 5).toNat / 8 = 2 ∧
    (mode .supervisor).st.ctl.priv ≠ .hypervisor ∧ misplaced [] (hinted one [0x3F000001, 0x3F400000]).st.hints = some 0x3F400000 ∧
    misplaced [] (hinted one [0x3F000001]).st.hints = none ∧ misplaced [] (hinted one [0x3F400200]).st.hints = none ∧
    misplaced [] [0x3F000001] = none ∧ misplaced [] ([0x3F000001] ++ [0x3F400000]) ≠ none := by
  refine ⟨⟨0x3F000001, by decide +kernel, by decide +kernel⟩, by decide +kernel, rfl, rfl, by decide +kernel, by decide +kernel, ?_, by decide, by decide, by decide,
    by decide +kernel⟩
  simp only [privileged, List.mem_cons, List.not_mem_nil, or_false, forall_eq_or_imp, forall_eq]
  decide +kernel

/-! ## Events of strands -/

theorem witness_WaitEvents_result : ∀ w ∈ [[RegWrite.g 3 7], [.v 3 {}], [.v 3 {}, .fcr 0x100]],
    (beside { mate with inflight := [⟨0, 0, [.g 3], w⟩] }).strand 0x300000006 = some { mate with inflight := [⟨0, 0, [.g 3], w⟩] } := by decide +kernel

theorem witness_WaitEvents_waita :
    (∃ tgt s', (beside (waiting (.waitA 0x2000 0x2000 3 true))).strongCheck (waiting (.waitA 0x2000 0x2000 3 true)) .waita 0x2000 8 true true = .ok tgt s' ∧
      s'.strand 0x300000006 = some (waiting (.waitA 0x2000 0x2000 3 true))) ∧
    ∀ tgt s', (beside (waiting (.waitA 0x2000 0x4000000000 3 true))).strongCheck (waiting (.waitA 0x2000 0x4000000000 3 true)) .waita 0x4000000000 8 true true ≠
      .ok tgt s' := by
  refine ⟨res_all (by decide +kernel), fun tgt s' h => ?_⟩
  have hn : isOk ((beside (waiting (.waitA 0x2000 0x4000000000 3 true))).strongCheck (waiting (.waitA 0x2000 0x4000000000 3 true)) .waita 0x4000000000 8 true true) =
    false := by decide +kernel
  rw [h] at hn
  cases hn

theorem witness_WaitEvents_fences :
    (beside (waiting (.phase [(1, 1)]))).performedUpTo 0 [(1, 1)] = false ∧
    (behind (beside (waiting (.fenceX [(1, 1)])))).performedUpTo 0 [(1, 0)] = true ∧
    (behind (beside (waiting (.fenceA 0 [(1, 1)])))).performedUpTo 0 [(1, 1)] = false ∧
    (beside (waiting (.fenceR none))).reflected 0x300000006 none = true ∧ sending.reflected 0x300000005 none = false ∧
    (∃ p, tagCheck tagged.st 0x0500000000002000 32 = .ok p) ∧ (∃ c, tagCheck tagged.st 1 32 = .error c) := by
  refine ⟨by decide +kernel, by decide +kernel, by decide +kernel, by decide +kernel, by decide +kernel, ⟨(0x2000, 1), ?_⟩, ⟨(0x43, 1), ?_⟩⟩
  · have h : (tagCheck tagged.st 0x0500000000002000 32).toOption = some (0x2000, 1) := by decide +kernel
    cases hc : tagCheck tagged.st 0x0500000000002000 32 <;> simp_all [Except.toOption]
  · rfl

/-- The same, with a page of configuration space after it. -/
def mapped : State := { paged home with mem := (paged home).mem ++ [(0x90008, 0x3F), (0x9000E, 0x10)] }

theorem witness_WaitEvents_xreq :
    (∀ i : Fin 16, Extent.covers (waiting (.xreq 3 0x4000000000 0)).ext[i] 0x4000000000 = false) ∧ home.pageAt 0 0x4000000000 = none ∧
    (∃ g, mapped.pageAt 0 0x80000000 = some g ∧ spaceOf g.base = .config) ∧
    (∀ p ∈ [((0 : Nat), 0), (2 ^ 60, 1)], ∃ g, mapped.pageAt 0 0x7FFFFFFF = some g ∧ spaceOf g.base ≠ .config ∧
      grant (mapped.run 0 (xlateLimit mate 0x7FFFFFFF p.1) g runFuel) (p.1 / 2 ^ 60) = p.2) ∧
    (∀ i : Fin 16, Extent.valid ({ mate with ext := Vector.replicate 16 (mkExtent 0x4000000000 64 0 0 7 false) } : Strand).ext[i] = true) ∧
    Extent.valid mate.ext[1] = false ∧ ∀ j : Fin 1, Extent.valid mate.ext[j.val] = true := by
  refine ⟨by decide +kernel, by decide +kernel, ⟨⟨2 ^ 31, 2 ^ 52, 2 ^ 31, 15, false⟩, by decide +kernel, by decide +kernel⟩, ?_, by decide +kernel⟩
  simp only [List.mem_cons, List.not_mem_nil, or_false, forall_eq_or_imp, forall_eq]
  exact ⟨⟨⟨0, 0, 2 ^ 31, 15, false⟩, by decide +kernel⟩,
    ⟨0, 0, 2 ^ 31, 15, false⟩, by decide +kernel⟩

theorem live {s : State} {n : Nat} {x : Strand} (h : s.strand n = some x ∧ x.live = true ∧ x.sid.toNat = n) : Live s n x := h

theorem takes {s : State} {x : Strand} (h : (x.place = .resident ∨ x.place = .shadow) ∧ x.flags.stop = false ∧ x.flags.held = none ∧
    (s.die (dieOf x.core)).halted = false) : Takes s x := h

/-- The other strand with a user handler at 0x80 and a supervisor's at 0x90. -/
def handling : Strand := { mate with u := idle 0x80, s := idle 0x90 }

theorem witness_StrandEvents_traps :
    (let x := { handling with pending := [⟨0x80, 1, .user⟩] }
     Live (beside x) 0x300000006 x ∧ CanEnter handling .user ∧ Takes (beside x) x ∧ (beside x).urgentDue x.core = none) ∧
    (∃ w, (waiting (.waitL 2)).wait = some w ∧ w.yields = true) ∧
    ∀ p ∈ [[], [(⟨0x80, 1, .supervisor⟩ : Deferred)]],
      let x := { handling with wait := some (.await false 3 1 0), pending := p, s := active 0x90 .user }
      let s := { (beside x).modQuad 0 fun q => { q with recs := [(0, { ticket := 1, eff := 1, owners := [0x300000006] })] } with clk := 1 }
      Live s 0x300000006 x ∧ PromisePast s 1 ∧ s.jobFinal x 1 = false ∧ s.suspended x 1 = false ∧ (∀ f ∈ x.pending.head?, (x.trapRegs f.level).cause.getLsbD 11 = true) ∧
        Takes s x ∧ CanEnter x (levelOf x 0x80) := by
  refine ⟨⟨live (by decide +kernel), ⟨rfl, by decide⟩, takes (by decide +kernel), by decide +kernel⟩, ⟨_, rfl, rfl⟩, ?_⟩
  simp only [List.mem_cons, List.not_mem_nil, or_false, forall_eq_or_imp, forall_eq]
  exact ⟨⟨live (by decide +kernel), by unfold PromisePast; decide +kernel, by decide +kernel, by decide +kernel, nofun, takes (by decide +kernel),
      by unfold CanEnter; decide +kernel⟩,
    live (by decide +kernel), by unfold PromisePast; decide +kernel, by decide +kernel, by decide +kernel, by decide +kernel, takes (by decide +kernel),
      by unfold CanEnter; decide +kernel⟩

theorem witness_StrandEvents_entry :
    (let x := { mate with cls := .light, place := .urgentQ }
     let s := (beside x).modCore 0 fun c => { c with urgent := [0x300000006] }
     let z := { s.st with wait := some (.await false 1 5 0) }
     (∃ w, z.wait = some w ∧ LeftUndone w) ∧ (∀ w, some (Wait.waitL 2) = some w → ¬ LeftUndone w) ∧ Live { s with st := z } 0x300000006 x ∧ (s.core 0).urgent = [0x300000006] ∧ (s.core 0).shadow = none ∧ (s.core 0).umask = none ∧
       (s.die (dieOf 0)).halted = false ∧ s.startsInTurn x = true ∧ x.place = .urgentQ ∧ s.atBoundary 0 = true ∧ s.mayAdmit x.pid = true ∧
       0x300000005 ≠ 0x300000006 ∧ Live { s with st := z } 0x300000005 z ∧ z.core = 0 ∧ z.place = .resident) ∧
    (∀ l ∈ [[], List.replicate 8 (⟨0x80, 1, .user⟩ : Deferred)],
     let x := { mate with pending := l }
     let s := { (beside x).modCore 0 fun c => { c with umask := some (0x300000006, 0) } with clk := 512 }
     Live s 0x300000006 x ∧ (s.core 0).umask = some (0x300000006, 0) ∧ 0 + 512 ≤ s.clk.toNat ∧ x.place = .resident ∧ x.dueAt ≠ s.clk.toNat) ∧
    (let x := { mate with cls := .light, place := .queued }
     let s := (beside x).modCore 0 fun c => { c with arrq := [0x300000006] }
     Live s 0x300000006 x ∧ (s.core 0).arrq = [0x300000006] ∧ x.place = .queued ∧ x.resuming = false ∧ RingsEmpty s ∧
       (s.die (dieOf 0)).waiting = [] ∧ s.bookings 0x300000006 = [] ∧ s.admits 0 (sidSlot 0x300000006) x.pid (s.slot (sidSlot 0x300000006)).part x.moving = true) := by
  refine ⟨⟨⟨_, rfl, .inl ⟨_, _, _, _, rfl⟩⟩, by rintro w ⟨⟩ h; simp [LeftUndone] at h, live (by decide +kernel), by decide +kernel, by decide +kernel,
      by decide +kernel, by decide +kernel, by decide +kernel, rfl, by decide +kernel, by decide +kernel, by decide, live (by decide +kernel), rfl, rfl⟩, ?_,
    ⟨live (by decide +kernel), by decide +kernel, rfl, rfl, fun x hx => ?_, by decide +kernel⟩⟩
  · simp only [List.mem_cons, List.not_mem_nil, or_false, forall_eq_or_imp, forall_eq]
    exact ⟨⟨live (by decide +kernel), by decide +kernel⟩, live (by decide +kernel), by decide +kernel⟩
  have h : ((beside { mate with cls := .light, place := .queued }).modCore 0 fun c => { c with arrq := [0x300000006] }).all.map (·.place) =
    [.resident, .queued] := by decide +kernel
  have hp := List.mem_map_of_mem (f := (·.place)) hx
  rw [h] at hp
  simp only [List.mem_cons, List.not_mem_nil, or_false] at hp
  constructor
  · intro d i hd; rw [hd] at hp; simp at hp
  · intro d hd; rw [hd] at hp; simp at hp

/-- The supervisor's registers of die 0: one save frame at 0x40000, and a call ring at 0x100000. -/
def supervised (x : Strand) : State := (beside x).modDieRegs 0 0 fun r => { r with
  ssave := BitVec.ofNat 64 (2 ^ 40 + 0x40000), scring := 1 <<< 63 ||| 0x100000 }

theorem witness_StrandEvents_save :
    (let x := { mate with flags := { preempt := true }, wait := some (.waitL 2) }
     Live (beside x) 0x300000006 x ∧ x.flags.preempt = true ∧ (∃ w, x.wait = some w ∧ ∀ n, w ≠ .accRd n) ∧ x.place = .resident ∧ x.flags.held = none ∧
       ((beside x).die (dieOf x.core)).halted = false) ∧
    (∀ b ∈ [true, false], let x := { mate with place := .cut, flags := { wake := b } }
     Live (supervised x) 0x300000006 x ∧ (∀ l ∈ (supervised x).hub.landings, l.sender ≠ 0x300000006) ∧ ((supervised x).core x.core).fwd.length < 16 ∧
       (supervised x).wantsPool x = false ∧ (supervised x).freeSave x.home x.pid = some 0x40000) := by
  refine ⟨⟨live (by decide +kernel), rfl, ⟨_, rfl, nofun⟩, rfl, rfl, by decide +kernel⟩, ?_⟩
  simp only [List.mem_cons, List.not_mem_nil, or_false, forall_eq_or_imp, forall_eq]
  exact ⟨⟨live (by decide +kernel), by decide +kernel⟩, live (by decide +kernel), by decide +kernel⟩

theorem witness_StrandEvents_resume : ∀ c ∈ [Cls.light, .full],
    (let x := { mate with cls := c, place := .toPlace, frame := some 0x40000 }
     Live (supervised x) 0x300000006 x ∧ ((supervised x).view x).flags.parked = false ∧ ((supervised x).view x).flags.heldJob = false ∧
       ((supervised x).view x).pool = none ∧ ((supervised x).view x).flags.stop = false ∧ (supervised x).mayAdmit x.pid = true ∧ ((supervised x).die (dieOf 0)).halted = false ∧
       (supervised x).eligible x.pid ((supervised x).slot (sidSlot 0x300000006)).part 0 = true ∧ (supervised x).poison = [] ∧
       (x.cls = .light → (supervised x).straightIn 0 (sidSlot 0x300000006) = true) ∧
       (x.cls ≠ .light → (supervised x).freeCtx 0 ((supervised x).slot (sidSlot 0x300000006)).part x.cls ≠ 0 ∧ (supervised x).bookings 0x300000006 = [])) ∧
    (let x := { mate with cls := c, place := .saved, frame := some 0x40000 }
     let s := (supervised x).modDieRegs 0 0 fun r => { r with parked := [0x300000006] }
     (s.dieRegs 0 x.pid).parked = [0x300000006] ∧ s.callRing 0 x.pid = some 0x100000 ∧ x.place = .saved ∧ x.frame = some 0x40000 ∧
       0x40000 + 5888 ≤ 0x100000 ∧ (∃ i, i < 256 ∧ Memory.readN s.mem (0x100000 + 64 * i) 8 / 2 ^ 63 = 0)) := by
  simp only [List.mem_cons, List.not_mem_nil, or_false, forall_eq_or_imp, forall_eq]
  exact ⟨⟨⟨live (by decide +kernel), by decide +kernel⟩, by decide +kernel, by decide +kernel, trivial, trivial, by decide, 255, by decide, by decide +kernel⟩,
    ⟨live (by decide +kernel), by decide +kernel⟩, by decide +kernel, by decide +kernel, trivial, trivial, by decide, 255, by decide, by decide +kernel⟩

/-- Packet n waits in queue 63 of partition 0, whose ring lies at 0x100000; memory is mapped, and 0x2000 holds 0x3000. -/
def packet (n : Nat) : State := conf [(0, 1 <<< 63), (0x4F0, 0x100000), (0xC1F8, 1)]
  { (paged home).modPart 0 fun p => { p with dom := { bound := some 3 } } with mem := Memory.writeN ((0x2001, 0x30) :: (paged home).mem) 0x100000 n 64 }

theorem packetAt {n : Nat} (h : ((packet n).cfg 0 0).getLsbD 63 = true ∧ (packet n).hub.down = false ∧
    ((packet n).cfg 0 (0x108 + 16 * 63)).toNat % 2 ^ 32 ≠ ((packet n).cfg 0 (0xC000 + 8 * 63)).toNat ∧
    ((packet n).hub.nodes.filter fun n => n.pid == 0 && n.pooled).length < 4096 ∧
    n = Memory.readN (packet n).mem (((packet n).cfg 0 (0x100 + 16 * 63)).toNat / 16 * 16 +
      64 * (((packet n).cfg 0 (0x108 + 16 * 63)).toNat % 2 ^ 32 % 2 ^ (4 + ((packet n).cfg 0 (0x100 + 16 * 63)).toNat % 16))) 64) :
    PacketAt (packet n) 0 63 n := ⟨by decide, h.1, h.2.1, h.2.2.1, h.2.2.2.1, h.2.2.2.2⟩

/-- Launch packets of 2^30 strands and of one more; packets of types 0 and 6; and one of each other type. -/
def launchPk : Nat := 0x108003f1f10400240000000000000000000004000000000000000000000000000000001
def signalPk : Nat := 0x50000000000000002000000000000200000000000000000000000000000000002
def barrierPk : Nat := 0x1000000000000200000000000000000000000000000000003
def copyPk : Nat := 0x400000000000004000000000000000200000000000000000000000000000000004
def seedPk : Nat := 0x1000000000000200000000000000000000000000000000005

theorem witness_LaunchEvents_packets : ∀ n ∈ [launchPk, launchPk + 2 ^ 192, 0, 6, signalPk, barrierPk, copyPk, seedPk], PacketAt (packet n) 0 63 n := by
  simp only [List.mem_cons, List.not_mem_nil, or_false, forall_eq_or_imp, forall_eq]
  refine ⟨?_, ?_, ?_, ?_, ?_, ?_, ?_, ?_⟩ <;> exact packetAt (by decide +kernel)

theorem header {s : State} {p n : Nat} (h : pk n 0 8 / 64 = 0 ∧ (pk n 8 8 = 0 ∨ (s.sigPa p (BitVec.ofNat 64 (pk n 8 8))).isSome = true)) : HeaderOk s p n := h

theorem witness_LaunchEvents_launch : ∀ n ∈ [launchPk, launchPk + 2 ^ 192], LaunchFields (packet n) 0 n .full [] none := by
  simp only [List.mem_cons, List.not_mem_nil, or_false, forall_eq_or_imp, forall_eq]
  constructor <;> constructor <;> first | decide +kernel | exact header (by decide +kernel)

theorem witness_LaunchEvents_counts : pk launchPk 0x18 4 = 2 ^ 30 ∧ 2 ^ 30 < pk (launchPk + 2 ^ 192) 0x18 4 ∧ pk 0 0 1 % 16 = 0 ∧ 6 ≤ pk 6 0 1 % 16 := by
  decide +kernel

theorem witness_LaunchEvents_types :
    (pk signalPk 0 1 % 16 = 2 ∧ HeaderOk (packet signalPk) 0 signalPk ∧ (packet signalPk).sigPa 0 (BitVec.ofNat 64 (pk signalPk 0x10 8)) = some 0x2000 ∧
      pk signalPk 0x18 8 ≤ 2 ∧ pk signalPk 0x28 24 = 0) ∧
    (pk barrierPk 0 1 % 16 = 3 ∧ HeaderOk (packet barrierPk) 0 barrierPk ∧ pk barrierPk 0x10 8 % 16 = 0 ∧ 1 ≤ pk barrierPk 0x18 4 ∧
      pk barrierPk 0x18 4 ≤ 64 ∧ pk barrierPk 0x1C 36 = 0 ∧ ∃ l, (packet barrierPk).mapVa 0 (BitVec.ofNat 64 (pk barrierPk 0x10 8)) (16 * pk barrierPk 0x18 4) 1 false = some l ∧
      (List.range (pk barrierPk 0x18 4)).map (fun i => ((packet barrierPk).sigPa 0 (BitVec.ofNat 64 ((packet barrierPk).readPieces l (16 * i) 8)),
        BitVec.ofNat 64 ((packet barrierPk).readPieces l (16 * i + 8) 8))) = [(0x3000, (0 : Word))].map (fun e => (some e.1, e.2))) ∧
    (pk copyPk 0 1 % 16 = 4 ∧ HeaderOk (packet copyPk) 0 copyPk ∧ pk copyPk 0x10 8 % 8 = 0 ∧ pk copyPk 0x18 8 % 8 = 0 ∧ pk copyPk 0x20 8 ≠ 0 ∧
      pk copyPk 0x20 8 ≤ 2 ^ 32 ∧ pk copyPk 0x20 8 % 64 = 0 ∧ pk copyPk 0x28 24 = 0 ∧ ((packet copyPk).mapVa 0 (BitVec.ofNat 64 (pk copyPk 0x10 8)) (pk copyPk 0x20 8) 1 true).isSome = true ∧
      ((packet copyPk).mapVa 0 (BitVec.ofNat 64 (pk copyPk 0x18 8)) (pk copyPk 0x20 8) 2 true).isSome = true) ∧
    (pk seedPk 0 1 % 16 = 5 ∧ HeaderOk (packet seedPk) 0 seedPk ∧ pk seedPk 0x10 8 % 64 = 0 ∧ 1 ≤ pk seedPk 0x18 8 ∧ pk seedPk 0x18 8 ≤ 4096 ∧
      pk seedPk 0x20 8 = 0 ∧ pk seedPk 0x28 24 = 0 ∧ (packet seedPk).seedOk 0 63 = true ∧
      ((packet seedPk).mapVa 0 (BitVec.ofNat 64 (pk seedPk 0x10 8)) (64 * pk seedPk 0x18 8) 1 false).isSome = true) :=
  ⟨⟨by decide +kernel, header (by decide +kernel), by decide +kernel⟩,
    ⟨by decide +kernel, header (by decide +kernel), by decide +kernel, by decide +kernel, by decide +kernel, by decide +kernel, [(0x2000, 16)], by decide +kernel, by decide +kernel⟩,
    ⟨by decide +kernel, header (by decide +kernel), by decide +kernel⟩,
    ⟨by decide +kernel, header (by decide +kernel), by decide +kernel⟩⟩

/-- A node of partition 0 with a body, and the state that holds it alone. -/
def node (b : NodeBody) : Node :=
  { id := 7, pid := 0, queue := 63, acq := true, rel := true, sigVa := 0, signal := none, wait := some 0x5000, body := b }
def holding (n : Node) : State := (paged home).modHub fun h => { h with nodes := [n] }

def launching (ops : List (Word × Nat × Nat)) : NodeBody := .launch 0x40 1 .full 64 16 0 0 264 0 ops

/-- An earlier launch of the queue has a store to this device on its way; and the hub takes a queue's notify. -/
theorem witness_LaunchEvents_acquires :
    let n := node (.signal 0x2000 0x2000 0 1)
    let c : Copy := { sid := 0x300000005, pid := 0, win := some 1, dev := 0, rx := 255, off := 0, bytes := [7], launch := some (64 * 0 + 63, 6) }
    let s := (holding n).modHub fun h => { h with copies := [c] }
    s.nodeOf 7 = some n ∧ s.hub.down = false ∧ n.ready = false ∧ n.acq = true ∧
      (∃ c ∈ s.hub.copies, ∃ k, c.dev = s.hub.device ∧ c.shown = false ∧ c.launch = some (64 * n.pid + n.queue, k) ∧ k < n.id) ∧
      (holding n).hub.copies = [] ∧ (∀ pa, n.wait = some pa → pa = 0x5000) ∧ home.hub.booted = true := by
  refine ⟨by decide +kernel, by decide +kernel, rfl, rfl, ⟨_, List.mem_singleton_self _, 6, by decide +kernel⟩, by decide +kernel, fun _ h => ?_, by decide +kernel⟩
  cases h; rfl

theorem witness_LaunchEvents_ready :
    (let n := node (.signal 0x2000 0x2000 0 1)
     (holding n).nodeOf 7 = some n ∧ (holding n).hub.down = false ∧ n.ready = false ∧
       (∀ m ∈ (holding n).hub.nodes, m.pid = n.pid → m.queue = n.queue → n.id ≤ m.id) ∧
       Memory.readN (holding n).mem 0x5000 8 = 0 ∧ ((holding n).hub.nodes.filter fun m => m.pid == n.pid && m.pooled).length < 4096) ∧
    (let n := { node (launching []) with ready := true, slot := some 3 }
     (holding n).nodeOf 7 = some n ∧ n.ended = false ∧ n.done < 1 ∧
       (∀ m ∈ (holding n).hub.nodes, m.pid = n.pid → m.id < n.id → (holding n).canLaunch m = false) ∧
       ∃ c, (holding n).launchCores n = some [c] ∧ (holding n).strand (mkSid ((holding n).slot 3).gen.toNat 3 0 0) = none) ∧
    (∀ ops ∈ [[], [((0x4000000000 : Word), 64, 1)]],
      let n := { node (launching ops) with ready := true }
      (holding n).nodeOf 7 = some n ∧ n.slot = none ∧ n.ended = false ∧ n.done < 1 ∧ ((holding n).launchCores n).isSome = true ∧
        (holding n).freeLaunchSlot = some 0) ∧
    ((holding (node (launching []))).launchTable 0 []).isSome = true ∧ (holding (node (launching []))).launchTable 0 [(0x4000000000, 64, 1)] = none := by
  refine ⟨by decide +kernel, ⟨by decide +kernel, rfl, by decide, by decide +kernel, 4, by decide +kernel, by decide +kernel⟩, by decide +kernel⟩

theorem witness_LaunchEvents_nodes :
    (∀ b ∈ [launching [], .signal 0x2000 0x2000 2 1, .seed [(0x2000, 64)] 1, .barrierAnd [(0x2000, 0)], .barrierAnd [(0x2000, -1)],
        .copy 0x2000 0x3000 [(0x2000, 64)] [(0x3000, 64)] 64],
      (holding { node b with ready := true }).nodeOf 7 = some { node b with ready := true } ∧ (holding { node b with ready := true }).hub.down = false) ∧
    (let n := { node (launching []) with ready := true, ended := true }
     (holding n).nodeOf 7 = some n ∧ n.ended = true) ∧
    (holding (node (.seed [(0x2000, 64)] 1))).seedOk 0 63 = false ∧
    (∀ e ∈ [((0x2000 : Nat), (0 : Word)), (0x2000, -1)], Memory.readN (holding (node (.barrierAnd [e]))).mem (e.1 + 8) 8 / 2 ^ 63 ≠ 1) ∧
    (BitVec.ofNat 64 (Memory.readN (holding (node (.barrierAnd [(0x2000, 0)]))).mem 0x2000 8)).toInt ≤ (0 : Word).toInt ∧
    (-1 : Word).toInt < (BitVec.ofNat 64 (Memory.readN (holding (node (.barrierAnd [(0x2000, -1)]))).mem 0x2000 8)).toInt ∧
    (∀ i, i < 64 → (holding (node (.copy 0x2000 0x3000 [(0x2000, 64)] [(0x3000, 64)] 64))).poisoned (Memory.line (0x2000 + i)) = false ∧
      (holding (node (.copy 0x2000 0x3000 [(0x2000, 64)] [(0x3000, 64)] 64))).freed (Memory.line (0x3000 + i)) = false) := by decide +kernel

theorem witness_LaunchEvents_seed :
    let n := { node (.seed [(0x2000, 64)] 1) with ready := true }
    let s := (packet 0).modHub fun h => { h with nodes := [n] }
    s.nodeOf 7 = some n ∧ s.hub.down = false ∧ s.seedOk n.pid n.queue = true ∧ (s.dom n.pid).bound = some 3 ∧ n.done + 1 = 1 ∧
      (s.domDies n.pid)[n.done % (s.domDies n.pid).length]? = some 0 ∧ (s.placeTask n.pid 0 (taskOf (s.readPieces [(0x2000, 64)] 0 64))).isSome = true := by
  decide +kernel

/-- The launch in slot 3 is that of node 7, all of whose strands have ended; its partition's Creel is bound to it, or none is. -/
def launched (b : Option Nat) : State := (holding { node (launching []) with ready := true, slot := some 3, done := 1 }).modHub fun h => { h with
  slots := [(3, { used := true, node := 7, part := 264, count := 1 })]
  parts := h.parts.map fun p => (p.1, { p.2 with dom := { p.2.dom with bound := b } }) }

theorem witness_LaunchEvents_end : ∀ b ∈ [none, some 3],
    let n := { node (launching []) with ready := true, slot := some 3, done := 1 }
    let s := (launched b).modSt fun x => { x with live := false }
    s.nodeOf (s.slot 3).node = some n ∧ (s.slot 3).used = true ∧ (s.slot 3).closed = false ∧ n.slot = some 3 ∧ (s.slot 3).count ≤ n.done ∧
      s.launchDone 3 = true ∧ s.localVisible 3 = true ∧ s.hub.down = false ∧ (s.dom (s.slot 3).pid).bound = b := by decide +kernel

/-- A landing from the strand in issue to a register of the other one, on its way to a place. -/
def landing (reg : Nat) (isV : Bool) (tgt : Loc) : Landing :=
  { sender := 0x300000005, addr := BitVec.ofNat 64 (0x300000006 * 2 ^ 16 + reg), isV := isV, value := 7, vec := {}, source := 0, sent := 0, from_ := 0
    pid := 0, tgt := tgt }

/-- The other strand, with a landing on its way to it. -/
def awaited (x : Strand) (l : Landing) : State := (beside x).modHub fun h => { h with landings := [l] }

theorem landingAt (x : Strand) (l : Landing) (tgt : Loc) (h : l.tgt = tgt) : LandingAt (awaited x l) 0 l tgt :=
  ⟨rfl, h, fun _ _ h => by omega⟩

theorem witness_LandingEvents_arrival :
    (∀ r ∈ [(1, false), (31, false), (0x40, true), (0x4F, true), (0, false), (32, false)], LandingAt (awaited mate (landing r.1 r.2 (.core 0))) 0 (landing r.1 r.2 (.core 0)) (.core 0)) ∧
    (home.modHub fun h => { h with landings := [landing 1 false (.core 0)] }).strand 0x300000006 = none ∧
    (landing 1 false (.core 0)).addr.toNat / 2 ^ 16 = 0x300000006 ∧
    (∀ c ∈ [{ lane.ctl with lmask := 0x80000002, lvmask := 0x8001 }, { lane.ctl with lmask := 2, larr := 2 }, lane.ctl], ∀ r ∈ [(1, false), (0, false)],
      Live (awaited { mate with ctl := c } (landing r.1 r.2 (.core 0))) 0x300000006 { mate with ctl := c }) ∧
    NamesG mate (landing 1 false (.core 0)) 1 ∧ NamesG mate (landing 31 false (.core 0)) 31 ∧
    NamesV mate (landing 0x40 true (.core 0)) 0 ∧ NamesV mate (landing 0x4F true (.core 0)) 15 ∧
    (∀ n, ¬ NamesG mate (landing 0 false (.core 0)) n) ∧ (∀ n, ¬ NamesV mate (landing 0 false (.core 0)) n) ∧
    Live (awaited { mate with place := .cut } (landing 1 false (.core 0))) 0x300000006 { mate with place := .cut } := by
  refine ⟨fun r _ => landingAt _ _ _ rfl, by decide +kernel, by decide, ?_, ?_, ?_, ?_, ?_, ?_, ?_, live (by decide +kernel)⟩
  · simp only [List.mem_cons, List.not_mem_nil, or_false, forall_eq_or_imp, forall_eq]
    exact ⟨⟨live (by decide +kernel), live (by decide +kernel)⟩, ⟨live (by decide +kernel), live (by decide +kernel)⟩, live (by decide +kernel), live (by decide +kernel)⟩
  · exact ⟨rfl, by decide, by decide, nofun⟩
  · exact ⟨rfl, by decide, by decide, nofun⟩
  · exact ⟨rfl, by decide, rfl⟩
  · exact ⟨rfl, by decide, rfl⟩
  · unfold NamesG; decide +kernel
  · rintro n ⟨h, -⟩; cases h

theorem witness_LandingEvents_held :
    LandingAt (awaited mate (landing 1 false (.agent 0))) 0 (landing 1 false (.agent 0)) (.agent 0) ∧
    (home.modHub fun h => { h with landings := [landing 1 false (.agent 0)] }).strand 0x300000006 = none ∧
    (let x := { mate with place := .cut }
     (awaited x (landing 1 false (.agent 0))).strand 0x300000006 = some x ∧ x.home = 0) ∧
    (∀ m ∈ [(2 : BitVec 32), 0], let x := { mate with place := .saved, ctl := { lane.ctl with lmask := m } }
     Live (awaited x (landing 1 false (.agent 0))) 0x300000006 x ∧ NamesG ((awaited x (landing 1 false (.agent 0))).view x) (landing 1 false (.agent 0)) 1 ∧
       ((awaited x (landing 1 false (.agent 0))).view x).ctl.lmask.getLsbD 1 = m.getLsbD 1 ∧
       ((awaited x (landing 1 false (.agent 0))).view x).ctl.larr.getLsbD 1 = false ∧ ((awaited x (landing 1 false (.agent 0))).view x).wait = none) ∧
    (let x := { mate with place := .saved, wait := some (.waitL 2), ctl := { lane.ctl with lmask := 2 } }
     ((awaited x (landing 1 false (.agent 0))).view x).wait = some (.waitL 2) ∧ picksG ((awaited x (landing 1 false (.agent 0))).view x) 2 1 = true) := by
  refine ⟨landingAt _ _ _ rfl, by decide +kernel, by decide +kernel, ?_, by decide +kernel⟩
  simp only [List.mem_cons, List.not_mem_nil, or_false, forall_eq_or_imp, forall_eq]
  exact ⟨⟨live (by decide +kernel), ⟨rfl, by decide, by decide, nofun⟩, by decide +kernel⟩,
    live (by decide +kernel), ⟨rfl, by decide, by decide, nofun⟩, by decide +kernel⟩

/-- A refusal on its way back to the other strand, the write word of whose ring is w. -/
def returning (x : Strand) (w : Byte) : State :=
  { (beside x).modHub fun h => { h with refusals := [⟨{ landing 1 false (.core 0) with sender := 0x300000006 }, 0x69⟩] } with
    mem := if w = 0 then [] else [(Memory.privBase 0x300000006, w)] }

theorem witness_LandingEvents_refusal :
    (home.strand 0x300000006 = none) ∧
    (∀ w ∈ [(0 : Byte), 15, 16], ∀ m ∈ [true, false], let x := { mate with ctl := { lane.ctl with lmode := m } }
      Live (returning x w) 0x300000006 x ∧ x.place = .resident ∧ x.pending.length < 8 ∧
        (BitVec.ofNat 64 (Memory.readN (returning x w).mem (Memory.privBase 0x300000006) 8) -
          BitVec.ofNat 64 (Memory.readN (returning x w).mem (Memory.privBase 0x300000006 + 8) 8)).toNat = w.toNat) := by
  refine ⟨by decide +kernel, ?_⟩
  simp only [List.mem_cons, List.not_mem_nil, or_false, forall_eq_or_imp, forall_eq]
  and_intros <;> decide +kernel

/-- Die 0 knows where the other strand is, with landings under way. -/
def knowing (n : Nat) (next : List (Loc × Loc)) : State := ((beside mate).modDie 0 fun d => { d with
  cache := [{ sid := 0x300000006, loc := .core 0, next := next, flying := n }] }).modHub fun h => { h with
    acks := [⟨0, 0x300000006, .core 0⟩], notes := [⟨0, 0x300000006, .core 0, .core 4⟩] }

theorem witness_LandingEvents_agents :
    (∀ p ∈ [(1, []), (2, [(Loc.core 0, .core 4)]), (1, [(.core 0, .core 4)]), (0, [])],
      (knowing p.1 p.2).hub.acks[0]? = some ⟨0, 0x300000006, .core 0⟩ ∧ (knowing p.1 p.2).hub.notes[0]? = some ⟨0, 0x300000006, .core 0, .core 4⟩ ∧
      ((knowing p.1 p.2).die 0).cache = [{ sid := 0x300000006, loc := .core 0, next := p.2, flying := p.1 }]) := by decide +kernel

/-- A message to die 0, on its way or arrived. -/
def mail : Msg := { sender := 0x300000005, pid := 0, die := 0, pc := 0x40, regs := Vector.replicate 7 1, ext := lane.ext, seed := 0, priv := .user, cshift := 0, cbound := 0, sent := 0, from_ := 0 }

theorem witness_LandingEvents_messages :
    (home.modHub fun h => { h with msgs := [mail] }).hub.msgs[0]? = some mail ∧
    (let s := (home.modDie 0 fun d => { d with msgs := [mail] }).modHub fun h => { h with handlers := 1 }
     (s.die 0).msgs = [mail] ∧ s.handlerCore 0 = some 1020 ∧ s.mayAdmit mail.pid = true ∧ (s.die 0).halted = false ∧
       s.strand (mkSid (sidGen mail.sender) (sidSlot mail.sender) 3 ((s.slot (sidSlot mail.sender)).counter 3)) = none) := by
  decide +kernel

/-! ## The Creel -/

/-- The domain of partition 0 is bound to the launch in slot 3; die 0 holds some entries. -/
def bound (l : List CEntry) (s : State) : State :=
  (s.modPart 0 fun p => { p with dom := { p.dom with bound := some 3 } }).modCreel 0 0 fun c => { c with entries := l }

theorem farOff {s : State} {p die : Nat} (h : (s.creel die p).far = 0) : FarOff s p die := by simp [FarOff, State.farList, h]

def rec_ (prio : BitVec 32) : TaskRec := ⟨0x40, 1, 2, 3, 4, 5, 6, prio⟩

theorem witness_CreelEvents_dispatch : ∀ e ∈ [(⟨0, true, rec_ 0⟩ : CEntry), ⟨0, false, rec_ 0⟩], ∀ f ∈ [(⟨0, false, rec_ 0⟩ : CEntry), ⟨1, false, rec_ 1⟩],
    let s := bound [e, f] home
    s.canTask 0 0 = true ∧ (s.die (dieOf 0)).halted = false ∧ s.hub.down = false ∧ (s.dom 0).bound = some 3 ∧
      (∀ b, ((s.creel (dieOf 0) 0).ring b).len = 0) ∧ FarOff s 0 (dieOf 0) ∧ (s.creel (dieOf 0) 0).entries = [e, f] ∧
      e.bucket ≤ (s.creel (dieOf 0) 0).base + (s.dom 0).cbound.toNat ∧ (e.bucket < f.bucket ∨ (e.bucket = f.bucket ∧ (e.late = true ∨ f.late = false))) ∧
      s.strand (nextSid s 3 2) = none := by
  intro e he f hf
  simp only [List.mem_cons, List.not_mem_nil, or_false] at he hf
  obtain rfl | rfl := he <;> obtain rfl | rfl := hf <;>
    exact ⟨by decide +kernel, by decide +kernel, by decide +kernel, by decide +kernel, fun _ => rfl, farOff (by decide +kernel), by decide +kernel⟩

/-- A ring of one bucket holds one record. -/
def ringed (b : Nat) : State := (bound [] home).modCreel 0 0 fun c => { c with rings := [(b, { head := 0, tail := 1 })] }

theorem witness_CreelEvents_refill : ∀ b ∈ [0, 63],
    FarOff (ringed b) 0 0 ∧ ((ringed b).creel 0 0).ring b = { head := 0, tail := 1 } ∧ (∀ c, c < 64 → c ≠ b → ((ringed b).creel 0 0).ring c = {}) ∧
      ((ringed b).creel 0 0).entries.length < (ringed b).creelShare 0 0 ∧
      (ringed b).effBucket 0 0 (taskOf (Memory.readN (ringed b).mem ((ringed b).ringAddr 0 0 b 0) 64)) ≤
        ((ringed b).creel 0 0).base + ((ringed b).dom 0).cbound.toNat := by
  simp only [List.mem_cons, List.not_mem_nil, or_false, forall_eq_or_imp, forall_eq]
  exact ⟨⟨farOff (by decide +kernel), by decide +kernel⟩, farOff (by decide +kernel), by decide +kernel⟩

/-- The other strand waits to push to die 0, which has room, or has none in its share and none in the ring. -/
def pushing : Strand := waiting (.cpush (rec_ 0) 0 0)
def crowded : State := conf [(0x18, 0)] ((bound [] (beside pushing)).modCreel 0 0 fun c => { c with rings := [(0, { head := 0, tail := 4096 })] })

theorem witness_CreelEvents_push :
    Live (bound [] (beside pushing)) 0x300000006 pushing ∧ pushing.place = .resident ∧ pushing.wait = some (.cpush (rec_ 0) 0 0) ∧
    (∀ y ∈ (bound [] (beside pushing)).all, ∀ v m, y.wait = some (.cpush v 0 m) → y.pid = pushing.pid → 0 ≤ m) ∧
    ((bound [] (beside pushing)).placeTask 0 0 (rec_ 0)).isSome = true ∧
    Live crowded 0x300000006 pushing ∧ crowded.placeTask 0 0 (rec_ 0) = none :=
  ⟨live (by decide +kernel), rfl, rfl, fun _ _ _ _ _ _ => Nat.zero_le _, by decide +kernel, live (by decide +kernel), by decide +kernel⟩

/-- A dispatched task that waits for a landing, alone in bucket 0, seen there by as many snapshots as crctl asks for. -/
def pinning : State := ((conf [(0x30, BitVec.ofNat 64 (1 + 3 * 2 ^ 40))] (bound [] (beside (waiting (.waitL 2))))).modCreel 0 0 fun c => { c with
  claims := [⟨0x300000006, 0, 0⟩] }).modPart 0 fun p => { p with dom := { p.dom with pinned := 3 } }

theorem witness_CreelEvents_snapshot :
    (home.clk.toNat % 64 = 0 ∧ (home.dom 0).pendingPub = false ∧ home.crCinv 0 = 0) ∧
    pinning.clk.toNat % 64 = 0 ∧ (pinning.dom 0).pendingPub = false ∧ pinning.pinnedTask 0 = some 0x300000006 ∧
    Live pinning 0x300000006 (waiting (.waitL 2)) ∧ pinning.crCinv 0 = 3 ∧ (pinning.dom 0).pinned = 3 * 1 ∧ (pinning.dom 0).pinBase = pinning.domBase 0 :=
  ⟨by decide +kernel, by decide +kernel, by decide +kernel, by decide +kernel, live (by decide +kernel), by decide +kernel⟩

/-- A publication is due: with live tasks, the lowest in bucket 5; or with none, and no traffic. -/
def due (pushed : Nat) (l : List CEntry) : State := { ((bound l (beside (waiting .cwait))).modCreel 0 0 fun c => { c with report := (l.head?).map (·.bucket) }).modPart 0 fun p => { p with
  dom := { p.dom with pendingPub := true, snapPushed := pushed, snapTraffic := false, prevTraffic := false } } with clk := 16 }

theorem witness_CreelEvents_publication :
    ((due 1 [⟨5, false, rec_ 5⟩]).clk.toNat = ((due 1 [⟨5, false, rec_ 5⟩]).dom 0).snapAt + 16 ∧ ((due 1 [⟨5, false, rec_ 5⟩]).dom 0).pendingPub = true ∧
      ((due 1 [⟨5, false, rec_ 5⟩]).dom 0).snapPushed ≠ ((due 1 [⟨5, false, rec_ 5⟩]).dom 0).snapRetired ∧ (due 1 [⟨5, false, rec_ 5⟩]).domBase 0 < 5 ∧
      (due 1 [⟨5, false, rec_ 5⟩]).domDies 0 = [0] ∧ ((due 1 [⟨5, false, rec_ 5⟩]).creel 0 0).report = some 5) ∧
    ((due 0 []).clk.toNat = ((due 0 []).dom 0).snapAt + 16 ∧ ((due 0 []).dom 0).pendingPub = true ∧ ((due 0 []).dom 0).snapPushed = ((due 0 []).dom 0).snapRetired ∧ ((due 0 []).dom 0).counted = false) ∧
    ((due 0 []).dom 0).snapTraffic = false ∧ ((due 0 []).dom 0).prevTraffic = false ∧ (due 0 []).crPdom 0 = 0 ∧
    Live (due 0 []) 0x300000006 (waiting .cwait) ∧ ((due 0 []).all.filter fun y => y.sid == 0x300000006) = [waiting .cwait] :=
  ⟨by decide +kernel, by decide +kernel, by decide +kernel, by decide +kernel, by decide +kernel, live (by decide +kernel), by decide +kernel⟩

/-- Pod group 1, whose root is here or whose parent is device 7, with the child 9; the values of both members are gathered, a
wave that shows the pod at rest is held, the last own step was at a time. -/
def rest (d : Nat) : WaveEntry := ⟨d, 0, true, 0, 0⟩
def waving (root : Bool) (last : Option Nat) : State := ((conf [(0x30, BitVec.ofNat 64 (1 + 2 ^ 20)), (0xD08, if root then 3 <<< 62 else 1 <<< 63 ||| 7 <<< 44),
    (0x1010, 9)] (beside (waiting .cwait))).modPart 0 fun p => { p with
  dom := { p.dom with quiet := true, wave := [rest 0, rest 9], gather := [rest 0, rest 9], waveAt := last } }).modHub fun h => { h with routes := [(7, 0x8000), (9, 0x8000)] }

theorem witness_CreelEvents_wave : ∀ root ∈ [true, false],
    let s := waving root none
    s.crPdom 0 ≠ 0 ∧ s.podEn 0 (s.crPdom 0) = true ∧
    rest 0 = ⟨s.hub.device, (s.dom 0).snapPushed - (s.dom 0).snapRetired, (s.dom 0).quiet, (s.dom 0).sent, (s.dom 0).accepted⟩ ∧
    (s.clk.toNat % 4096 = 0 ∧ (s.dom 0).waveAt ≠ some s.clk.toNat) ∧ ((waving root (some 0)).dom 0).waveAt = some (waving root (some 0)).clk.toNat ∧
    (s.staleHead ⟨9, 1, 1⟩ = false ∧ 9 ∈ s.podKids 0 (s.crPdom 0)) ∧ s.staleHead ⟨9, 1, 2⟩ = true ∧ s.podRoot 0 (s.crPdom 0) = root ∧
    (∀ d ∈ s.hub.device :: s.podKids 0 (s.crPdom 0), ∃ e ∈ (s.dom 0).gather, e.device = d) ∧
    (s.podParent 0 (s.crPdom 0) = (if root then 0 else 7) ∧ s.staleHead ⟨7, 1, 1⟩ = false) ∧
    (Assoc.getD s.hub.routes 7 0).getLsbD 15 = true ∧ (∀ d ∈ s.podKids 0 (s.crPdom 0), (Assoc.getD s.hub.routes d 0).getLsbD 15 = true) ∧
    ((s.dom 0).wave = [rest 0, rest 9] ∧ (∀ e ∈ [rest 0, rest 9], e.live = 0 ∧ e.quiet = true) ∧
      ([rest 0, rest 9].map (·.sent)).sum = ([rest 0, rest 9].map (·.accepted)).sum ∧ s.strand 0x300000006 = some (waiting .cwait) ∧
      (s.all.filter fun y => y.sid == 0x300000006) = [waiting .cwait]) := by
  simp only [List.mem_cons, List.not_mem_nil, or_false, forall_eq_or_imp, forall_eq]
  exact ⟨by decide +kernel, by decide +kernel⟩

/-- A member below the root: what a child passes on, what it sends of its own with others missing, and with all of them there. -/
theorem witness_CreelEvents_members :
    let s := waving false none
    let t := s.modPart 0 fun p => { p with dom := { p.dom with gather := [] } }
    (rest 5).device ≠ 9 ∧ (rest 9).device = 9 ∧
    (∃ d ∈ t.hub.device :: t.podKids 0 (t.crPdom 0), d ≠ 9 ∧ ∀ f ∈ (t.dom 0).gather, f.device ≠ d) ∧
    (∀ d ∈ s.hub.device :: s.podKids 0 (s.crPdom 0), d ≠ 9 → ∃ f ∈ (s.dom 0).gather, f.device = d) ∧
    (∀ d ∈ s.hub.device :: s.podKids 0 (s.crPdom 0), d ≠ s.hub.device → ∃ f ∈ (s.dom 0).gather, f.device = d) ∧
    (rest 0 ∈ (s.dom 0).gather ∧ (∀ f ∈ (s.dom 0).gather, f.device = s.hub.device → f = rest 0) ∧ (rest 0).device = s.hub.device) := by decide +kernel

/-- A publication whose domain a push has come to since the snapshot. -/
theorem witness_CreelEvents_counted : let s := (due 0 []).modPart 0 fun p => { p with dom := { p.dom with counted := true } }
    s.clk.toNat = (s.dom 0).snapAt + 16 ∧ (s.dom 0).pendingPub = true ∧ (s.dom 0).counted = true := by decide +kernel

/-- All 64 bytes of slot 0 of receive window 255 have arrived. -/
def taken (m : Memory) : State := { (conf [(0x9000 + 32 * 255, 1 <<< 63 ||| 0x100000)] (bound [] home)).modPart 0 fun p => { p with
  creelBytes := [(slotKey 255 0, (BitVec.allOnes 64, 1))] } with mem := m }

theorem witness_CreelEvents_intake :
    (∀ m ∈ [[], [(0x100000, (1 : Byte))], [(0x10003C, 1)]], Assoc.get ((taken m).part 0).creelBytes (slotKey 255 0) = some (BitVec.allOnes 64, 1)) ∧
    Memory.readN (taken [(0x100000, 1)]).mem ((taken []).rxBase 0 255 + 64 * 0) 64 % 4 ≠ 0 ∧
    Memory.readN (taken [(0x10003C, 1)]).mem ((taken []).rxBase 0 255 + 64 * 0) 64 / 2 ^ 480 ≠ 0 ∧
    Memory.readN (taken []).mem ((taken []).rxBase 0 255 + 64 * 0) 64 = 0 ∧ (taken []).domDies 0 = [0] ∧ (taken []).all.map (·.wait) = [none] ∧
    ((taken []).takeFree.placeTask 0 0 (taskOf 0)).isSome = true := by decide +kernel

/-! ## Paths, pages, revocation, errors -/

def inbound (strong : Bool) : State := { home with dies := [(0, { paths := [(1, ⟨1, [{ line := 0x2000, mask := 1, data := 9, strong := strong }]⟩)] })] }

theorem witness_PathAndPageEvents_paths : ∀ b ∈ [true, false],
    ((inbound b).path 0 1).writes = [{ line := 0x2000, mask := 1, data := 9, strong := b }] ∧ (inbound b).freed 0x2000 = false ∧
      (inbound b).retrains 0 = false ∧ (inbound b).retrains 1 = false ∧ ((inbound b).modDie 1 fun d => { d with power := { stage := 2 } }).retrains 1 = true := by
  decide +kernel

/-- The last page of die memory, of 64 KiB or of 2 MiB, is counted 8 times from die 1. -/
def counted (page size : Nat) : State := (conf [(0, 1 <<< 63), (0x38, 1 <<< 63 ||| 0x101)] home).modHub fun h => { h with
  pages := [(page, ⟨size, 0⟩)], pageCnt := [(16 * page + 1, 8)] }

theorem witness_PathAndPageEvents_halving : ∀ p ∈ [(8388607, 65536), (8388576, 2 ^ 21)],
    let s := counted p.1 p.2
    s.clk.toNat % 2 ^ 20 = 0 ∧ (s.hub.pageCnt.map (·.1)).Nodup ∧ Assoc.get s.hub.pages p.1 = some ⟨p.2, 0⟩ ∧ p.2 ≠ 2 ^ 31 ∧ s.enabled 0 = true ∧
      s.mpolEn 0 = true ∧ (Assoc.get s.hub.pageCnt (16 * p.1 + 1)).isSome = true ∧ s.moveTarget 0 p.1 = some 1 ∧ s.hub.migs = [] := by decide +kernel

/-- The migration of page 5, with no line copied, with all of them, and after the switch. -/
def moving (n : Nat) (switched : Bool) : Migration :=
  { pid := 0, page := 5 * 65536, lines := 1024, src := 0, dst := 1, copied := n, switched := switched }

theorem witness_PathAndPageEvents_migration : ∀ p ∈ [(0, false), (1023, false), (1024, false), (1024, true)],
    (home.modHub fun h => { h with migs := [moving p.1 p.2] }).hub.migs = [moving p.1 p.2] ∧ (moving p.1 p.2).page < 2 ^ 39 := by decide +kernel

/-- A page that has moved: page 5, which lies in die 1's memory now. -/
def moved : State := home.modHub fun h => { h with migs := [moving 1024 true], owners := [(5, ⟨1, 2 ^ 35, 65536⟩)] }

theorem witness_PathAndPageEvents_moved :
    moved.hub.migs = [moving 1024 true] ∧ (moving 1024 false).recopy = [] ∧
    (∀ o ∈ moved.hub.owners, (moving 1024 true).page ≤ o.1 * 65536 ∧ o.1 * 65536 < (moving 1024 true).page + 64 * (moving 1024 true).lines) := by decide +kernel

/-- A line of the other strand's private memory. -/
theorem witness_PathAndPageEvents_private : let line := 2 ^ 66 + 0x300000006 * 2 ^ 18 + 0x40
    2 ^ 66 ≤ Memory.line line ∧ ∃ x, (beside mate).strand ((Memory.line line - 2 ^ 66) / 2 ^ 18) = some x :=
  ⟨by decide +kernel, mate, by decide +kernel⟩

/-- A buffered line of the partition, stored through one virtual address, some of whose bytes a range of 8 bytes there cuts. -/
theorem witness_PathAndPageEvents_buffered :
    let l : SbLine := { line := 0x2000, mask := 0xFF, data := 7, vas := [0x2000] }
    let s := home.modCore 0 fun c => { c with sbuf := [l] }
    (s.core 0).sbuf[0]? = some l ∧ l.pid = 0 ∧ (∃ a ∈ l.vas, 0x2000 % 2 ^ 56 ≤ a + 7 ∧ a + 7 < 0x2000 % 2 ^ 56 + 8) ∧
      ¬ ∃ a ∈ l.vas, 0x2000 % 2 ^ 56 ≤ a + 8 ∧ a + 8 < 0x2000 % 2 ^ 56 + 8 := by decide +kernel

/-- Where no die listed has a path, no path has a write. -/
theorem noPath {s : State} (h : (s.dies.all fun p => p.2.paths.isEmpty) = true) (src dst : Nat) : (s.path src dst).writes = [] := by
  have k : (s.die src).paths = [] := by
    unfold State.die Assoc.getD
    generalize s.dies = l at h
    induction l with
    | nil => rfl
    | cons p t ih =>
      rw [List.all_cons, Bool.and_eq_true] at h
      by_cases e : p.1 = src
      · simpa [Assoc.get, e] using h.1
      · simpa [Assoc.get, e] using ih h.2
  simp [State.path, k, Assoc.getD, Assoc.get]

theorem witness_PathAndPageEvents_paths_empty (d : Nat) :
    ((home.modHub fun h => { h with migs := [moving 1024 false] }).path d (moving 1024 false).src).writes = [] := noPath (by decide +kernel) d _

theorem witness_PathAndPageEvents_revocation :
    (1 : Word) ≠ 0 ∧ Live (beside mate) 0x300000006 mate ∧ mate.pid = 0 ∧ mate.place = .resident ∧ ((beside mate).slot 3).used = true ∧
    Extent.overlaps mate.ext[0] (0x3FFFFFFFFF % 2 ^ 56) 1 = true ∧ Extent.overlaps mate.ext[0] (0x4000000000 % 2 ^ 56) 1 = false ∧
    (let x := { mate with place := .saved, frame := some 0x40000 }
     let s := (supervised x).modSt fun y => { y with live := false }
     Live s 0x300000006 x ∧ (s.all.filter fun y => y.pid == 0) = [x] ∧ ∀ src dst, (s.path src dst).writes = []) := by
  refine ⟨by decide, live (by decide +kernel), rfl, rfl, rfl, by decide +kernel, by decide +kernel, live (by decide +kernel), by decide +kernel, noPath (by decide +kernel)⟩

theorem witness_PathAndPageEvents_errors :
    Memory.line (2 ^ 39 - 1) < 2 ^ 39 ∧ (conf [(0, 1 <<< 63)] home).anyPart = some 0 ∧ Live (beside mate) 0x300000006 mate ∧
      mate.names (.g 31) = true ∧ mate.pending.length < 8 := by
  refine ⟨by decide +kernel, ?_, live (by decide +kernel), by decide +kernel, by decide⟩
  have h : (List.range 20).filter (conf [(0, 1 <<< 63)] home).enabled = [0] := by decide +kernel
  unfold State.anyPart
  rw [h]
  simp [Nat.mod_one]

/-! ## The fabric -/

/-- Receive window 255 of partition 0 lies at 0x100000, 16 bytes long, not for pod space. -/
def receiving : State := (conf [(0, 1 <<< 63), (0x9000 + 32 * 255, 1 <<< 63 ||| 0x100000), (0x9008 + 32 * 255, 16)] home).modHub fun h => { h with
  routes := [(1, 0x8000)] }

def flit (inc : BitVec 16) (off : Nat) (pod : Bool) : Flit :=
  { pid := 0, src := 1, srcInc := 1, dstInc := inc, rx := 255, off := off, bytes := [7], pod := pod }

/-- A copy from this device to itself, and to device 1. -/
def copyOf (dev : Nat) (flag shown : Bool) : Copy :=
  { sid := 0x300000005, pid := 0, win := some 1, dev := dev, rx := 255, off := 0, bytes := [7], flag := flag, shown := shown }
def copied (c : Copy) : State := receiving.modHub fun h => { h with copies := [c] }

theorem copyAt (c : Copy) : CopyAt (copied c) 0 c := ⟨rfl, fun _ _ h => by omega⟩

theorem witness_FabricEvents_arrivals :
    receiving.hub.down = false ∧ receiving.stale (flit 2 0 false) = true ∧ receiving.stale (flit 1 15 false) = false ∧
    (Assoc.getD receiving.hub.routes (flit 1 15 false).src 0).getLsbD 15 = true ∧ receiving.staleHead ⟨1, 1, 2⟩ = true ∧ receiving.staleHead ⟨1, 1, 1⟩ = false ∧
    Receives receiving 0 255 15 1 false ∧ Receives receiving 0 255 8 8 false ∧ ¬ Receives receiving 0 255 16 1 false ∧ ¬ Receives receiving 0 255 0 1 true ∧
    (∀ flag ∈ [true, false], CopyAt (copied (copyOf 0 flag false)) 0 (copyOf 0 flag false) ∧ (copyOf 0 flag false).dev = (copied (copyOf 0 flag false)).hub.device) ∧
    (∀ c ∈ [copyOf 1 false false, copyOf 0 false true], CopyAt (copied c) 0 c ∧ (c.dev ≠ (copied c).hub.device ∨ c.shown = true) ∧
      (copied c).staleHead ⟨c.dev, 1, 1⟩ = false ∧ (copied c).staleHead ⟨c.dev, 1, 2⟩ = true) := by
  unfold Receives
  iterate 10 refine ⟨by decide +kernel, ?_⟩
  constructor
  · exact fun flag _ => ⟨copyAt _, rfl⟩
  · simp only [List.mem_cons, List.not_mem_nil, or_false, forall_eq_or_imp, forall_eq]
    exact ⟨⟨copyAt _, .inl (by decide +kernel), by decide +kernel⟩, copyAt _, .inr rfl, by decide +kernel⟩

/-- Transmit window 255 of partition 0 goes to window 0 of device 4095. -/
def sendingTo : State := conf [(0x1000 + 128 * 255 + 16, 4095)] home

theorem witness_FabricEvents_peers :
    (4095 ≠ sendingTo.hub.device ∧ Assoc.get sendingTo.hub.peers 4095 ≠ some 2) ∧ 0 < sendingTo.txDests 0 255 ∧ (sendingTo.txDest 0 255 0).1 = 4095 := by
  decide +kernel

/-- Pod context 15 of partition 0, whose root is here or whose parent is device 7, with the child 9, and with an episode of two in which the other strand has arrived. -/
def podded (root : Bool) (ep : PodEpisode) : State :=
  ((conf [(0xD00 + 8 * 15, if root then 3 <<< 62 else 1 <<< 63 ||| 7 <<< 44), (0x1010, 9)]
    (beside { waiting (.barrier .pod 15 (some 3)) with counted := some ⟨0x1000, .pod, 15, some 3, none⟩ })).modPart
      0 fun p => { p with pods := [(15, ep)] }).modHub fun h => { h with routes := [(7, 0x8000), (9, 0x8000)] }

def episode (n counted : Nat) : PodEpisode := { ep := { n := n, isMax := true, sids := [0x300000006], mag := 5 }, counted := counted }

theorem witness_FabricEvents_pods :
    let x := { waiting (.barrier .pod 15 (some 3)) with counted := some ⟨0x1000, .pod, 15, some 3, none⟩ }
    let r : PodReport := ⟨1, 2, true, 7⟩
    (∀ b ∈ [true, false], (podded b (episode 2 1)).podEn (15 / 16) (15 % 16) = true ∧ (podded b (episode 2 1)).podRoot (15 / 16) (15 % 16) = b ∧
      (podded b (episode 2 1)).staleHead ⟨9, 1, 2⟩ = true ∧ (podded b (episode 2 1)).staleHead ⟨9, 1, 1⟩ = false ∧
      (podded b (episode 2 1)).podKids (15 / 16) (15 % 16) = [9] ∧ (podded b (episode 2 1)).podParent (15 / 16) (15 % 16) = (if b then 0 else 7) ∧
      (∀ d ∈ [7, 9], (Assoc.getD (podded b (episode 2 1)).hub.routes d 0).getLsbD 15 = true) ∧
      (podded b (episode 2 1)).pod 15 = episode 2 1 ∧ Live (podded b (episode 2 1)) 0x300000006 x) ∧
    ((episode 2 1).ep.n = r.n ∧ (episode 2 1).ep.isMax = r.isMax ∧ (episode 2 1).counted + r.arrivals = r.n ∧ (episode 2 0).counted + r.arrivals ≠ r.n) ∧
    ((episode 3 1).ep.n ≠ 0 ∧ (episode 3 1).ep.n ≠ r.n) ∧ (episode 2 1).counted ≠ (episode 2 1).sent ∧ (episode 2 1).last = none ∧
    0x300000006 ∈ (episode 2 1).ep.sids ∧ x.place = .resident ∧ x.counted = some ⟨0x1000, .pod, 15, some 3, none⟩ ∧ x.wait = some (.barrier .pod 15 (some 3)) := by
  refine ⟨?_, by decide +kernel, by decide +kernel, by decide, rfl, by decide, rfl, rfl, rfl⟩
  simp only [List.mem_cons, List.not_mem_nil, or_false, forall_eq_or_imp, forall_eq]
  constructor <;> (iterate 8 refine ⟨by decide +kernel, ?_⟩) <;> exact live (by decide +kernel)

/-! ## The management side -/

/-- Die 15 as given. -/
def atDie (d : Die) : State := { home with dies := [(15, d)] }

theorem witness_ManagementEvents_dies :
    (home.die 15).halted = false ∧ ((atDie { halted := true }).die 15).halted = true ∧ (∀ c ∈ (atDie { halted := true }).cores, c.2.bookQ = []) ∧
    (home.die 15).power.point = none ∧ (home.die 15).point ≠ 3 ∧ ((atDie { point := 3 }).die 15).point ≠ 0 ∧ (home.die 15).power.width = none ∧
    (∀ p ∈ [some (1 : BitVec 2), none], ((atDie { power := { width := some 2, point := p, stage := 2 } }).die 15).power = { width := some 2, point := p, stage := 2 }) ∧
    (∀ l ∈ [[], [(0 : BitVec 2)]], let d : Die := { power := { point := some 2, stage := 1, points := l } }
      ((atDie d).die 15).power = d.power ∧ (atDie d).drained 15 = true ∧ (l.getLast?).getD 2 ≠ 3) ∧
    (let s := (home.modDie 0 fun d => { d with power := { point := some 2, stage := 1 } }).modQuad 0 fun q => { q with copyQ := [{ owner := 0x300000005, pid := 0, work := .join 0 }] }
     (s.die 0).power.stage = 1 ∧ s.drained 0 = false) := by decide +kernel

/-- A change waits behind another: of the point, below the lowest, and of the width. -/
theorem witness_ManagementEvents_waiting :
    let s := atDie { power := { width := some 1, point := some 0, stage := 1, points := [2] } }
    (s.die 15).power.point = some 0 ∧ ((s.die 15).power.points.getLast?).getD 0 = 2 ∧ (2 : BitVec 2) ≠ 3 ∧ (s.die 15).power.width.isSome = true ∧
    (let t := atDie { power := { point := some 0, stage := 1, points := [2] } }
     (t.die 15).power.stage = 1 ∧ t.drained 15 = true ∧ (t.die 15).power.width = none ∧ (t.die 15).power.widths = [] ∧ (t.die 15).power.points = [2]) := by decide +kernel

/-- Strands at a halt: one at a boundary, one in an await, one that waits for a landing. -/
theorem witness_ManagementEvents_stopped :
    mate.wait = none ∧ LeftUndone (.await false 3 1 0) ∧ ∀ w, (waiting (.waitL 2)).wait = some w → ¬ LeftUndone w := by
  refine ⟨rfl, .inl ⟨_, _, _, _, rfl⟩, ?_⟩
  rintro w ⟨⟩ h
  simp [LeftUndone] at h

/-- A die's halt stops its strands and not those of another; a halted die goes on, whose station has a booking that is not
cancelled, and one of whose strands awaits a job past its promise. -/
theorem witness_ManagementEvents_halts :
    (Live (beside mate) 0x300000006 mate ∧ ((beside mate).die 0).halted = false ∧ dieOf mate.core = 0 ∧ mate.place = .resident ∧
      ((beside mate).die 15).halted = false ∧ ((beside mate).all.all fun y => y.sid != mate.sid || dieOf y.core != 15) = true) ∧
    (let s := boarded.modDie 0 fun d => { d with halted := true }
     (s.die 0).halted = true ∧ s.cores = [(0, { part := some 264, bookQ := [booked] })] ∧ booked.work = .booking booking ∧ booking.cancel = false) ∧
    (let x := { mate with wait := some (.await false 3 1 0) }
     let s := { ((beside x).modQuad 0 fun q => { q with recs := [(0, { ticket := 1, eff := 1, owners := [0x300000006] })] }).modDie 0 fun d => { d with
       halted := true } with clk := 1 }
     Live s 0x300000006 x ∧ (s.all.filter fun y => y.sid == x.sid) = [x] ∧ PromisePast s 1 ∧ s.suspended x 1 = true ∧ s.serviceDie 0 0 1 = 0) :=
  ⟨⟨live (by decide +kernel), by decide +kernel⟩, by decide +kernel, live (by decide +kernel), by decide +kernel, by unfold PromisePast; decide +kernel,
    by decide +kernel⟩

theorem witness_ManagementEvents_strands :
    (let s := (beside mate).modQuad 0 fun q => { q with mat0 := [collecting] }
     Live s 0x300000006 mate ∧ mate.place = .resident ∧ s.gangBusy mate = true ∧ mate ∈ s.gangMembers mate) ∧
    (∀ p ∈ [Place.saved, .cut], let x := { mate with place := p, frame := some 0x40000 }
     Live (supervised x) 0x300000006 x ∧ ((supervised x).view x).flags.parked = false) ∧
    (let x := { mate with flags := { held := some 1 } }
     Live (beside x) 0x300000006 x ∧ x.flags.held.isSome = true ∧ x.wait = none ∧ ((beside x).all.filter fun y => y.sid == x.sid) = [x]) := by
  refine ⟨⟨live (by decide +kernel), by decide +kernel⟩, ?_, live (by decide +kernel), by decide +kernel⟩
  simp only [List.mem_cons, List.not_mem_nil, or_false, forall_eq_or_imp, forall_eq]
  exact ⟨⟨live (by decide +kernel), by decide +kernel⟩, live (by decide +kernel), by decide +kernel⟩

/-! ## The host side -/

theorem witness_HostEvents_control :
    (let s := conf [(0x58, 1 <<< 63)] home
     s.hub.booted = true ∧ s.hub.down = false ∧ s.enabled 0 = false ∧ (∀ q ∈ s.others 0, s.cfg q 0x08 &&& s.cfg 0 0x08 = 0) ∧ (s.cfg 0 0x58).getLsbD 63 = true ∧
       ∀ q ∈ s.others 0, s.cfg q 0x58 ≠ s.cfg 0 0x58) ∧
    (let s := conf [(0, 1 <<< 63)] home
     s.hub.booted = true ∧ s.hub.down = false ∧ s.enabled 0 = true ∧ (0 : Word).getLsbD 63 = false ∧ s.all.map (·.pid) = [0] ∧
       (s.modSt fun x => { x with live := false }).all = []) ∧
    (∀ off ∈ [0x30, 0x50, 0x100, 0xD78, 0x9000, 0xB3F8], off % 8 = 0 ∧
      (off ∈ [0x30, 0x38, 0x40, 0x48, 0x50] ∨ (0x100 ≤ off ∧ off < 0xD80) ∨ (0x9000 ≤ off ∧ off < 0xB400))) ∧
    (∀ off ∈ [0x60, 0xF8, 0xD80, 0xFF8, 0xB400, 0xBFF8], (0x60 ≤ off ∧ off < 0x100) ∨ (0xD80 ≤ off ∧ off < 0x1000) ∨ (0xB400 ≤ off ∧ off < 0xC000)) := by
  decide +kernel

/-- The shares that other partitions have: die 0's Creel, context 0 of a die and of the package. -/
def shared (en : Nat) : State := ((((home.setCfg 0 0 (BitVec.ofNat 64 (en * 2 ^ 63))).setCfg 1 0 (1 <<< 63)).setCfg 1 0x18 15).setCfg 1 0x20 1).setCfg 1 0x28 1

theorem witness_HostEvents_shares :
    ((shared 0).enabled 0 = false ∧ (shared 1).enabled 0 = true) ∧
    ((shared 1).others 0 = [1] ∧ ((shared 1).others 0).map ((shared 1).creelShare · 0 / 256) = [15] ∧ 16 < (2 : Word).toNat / 2 ^ (4 * 0) % 16 + [15].sum ∧
      ¬ 16 < (1 : Word).toNat / 2 ^ (4 * 0) % 16 + [15].sum) ∧
    (∃ q ∈ (shared 1).others 0, (shared 1).cfg q 0x20 &&& 1 ≠ 0) ∧ (¬ ∃ q ∈ (shared 1).others 0, (shared 1).cfg q 0x20 &&& 2 ≠ 0) ∧
    (∃ q ∈ (shared 1).others 0, (shared 1).cfg q 0x28 &&& 1 ≠ 0) ∧ ¬ ∃ q ∈ (shared 1).others 0, (shared 1).cfg q 0x28 &&& 2 ≠ 0 := by decide +kernel

/-- The identity map of 48 bits, as dwords 10 to 14 of a transmit entry hold it (R371). -/
def identityMap : List Word := [0xa2481c61440c2040, 0x544d24503ce34c2c, 0x7de75c6da6585d65, 0xaa689e69648e2860, 0xbeeb6cae]

/-- Transmit entries of one destination: to this device itself, which is no destination, and to device 1. -/
theorem witness_HostEvents_transmit :
    255 < 256 ∧ (List.replicate 15 (0 : Word)).length = 15 ∧ (0 : Word).getLsbD 63 = false ∧
    (let d : Word := 1 <<< 63
     d.getLsbD 63 = true ∧
      txEntryOk home.hub.device (fun j => if j = 0 then (d &&& ~~~(1#64 <<< 60)).toNat else ((0 :: 1 :: List.replicate 7 (0 : Word) ++ identityMap ++ [0]).getD (j - 1) 0).toNat) = true ∧
      txEntryOk home.hub.device (fun j => if j = 0 then (d &&& ~~~(1#64 <<< 60)).toNat else ((List.replicate 15 (0 : Word)).getD (j - 1) 0).toNat) = false) := by
  decide +kernel

/-- Hardware queue q of partition 0, 16 entries at 0x100000 and at 2^55 of the host, with some counts. -/
def queued (q : Nat) (l : List (Nat × Word)) (prod cons : Byte) : State :=
  { conf (([(0x500 + 32 * q, 1 <<< 63 ||| 0x100000), (0x508 + 32 * q, 0x200000), (0x510 + 32 * q, 1 <<< 55),
      (0x518 + 32 * q, 1 <<< 63 ||| 1 <<< 55 ||| 0x10000)] : List (Nat × Word)) ++ l) home with
    mem := (if prod = 0 then [] else [(0x200000, prod)]) ++ if cons = 0 then [] else [(0x200008, cons)] }

theorem witness_HostEvents_queues :
    (∀ p ∈ [(32, [], (1 : Byte), (0 : Byte)), (63, [], 0, 0), (31, [(0xC200 + 8 * 31, (1 : Word))], 0, 0), (0, [], 0, 1)],
      let s := queued p.1 p.2.1 p.2.2.1 p.2.2.2
      s.hub.down = false ∧ s.hwqDword 0 p.1 0 / 2 ^ 63 = 1 ∧ s.hwqSize 0 p.1 = 16 ∧ s.hwqDword 0 p.1 0 % 2 ^ 56 = 0x100000 ∧ s.hwqDword 0 p.1 2 % 2 ^ 56 = 2 ^ 55 ∧
        s.hwqDword 0 p.1 3 / 2 ^ 16 % 2 ^ 40 * 2 ^ 16 = 2 ^ 55 + 0x10000 ∧ s.hwqControl 0 p.1 = 0x200000 ∧ s.hwqProd 0 p.1 = p.2.2.1.toNat ∧
        s.hwqCons 0 p.1 = p.2.2.2.toNat ∧ s.hwqTold 0 p.1 = 0) ∧
    0x100000 % 64 = 0 ∧ 0x100000 + 64 * 16 ≤ 2 ^ 39 ∧ 2 ^ 55 % 64 = 0 ∧ 2 ^ 55 + 64 * 16 ≤ 2 ^ 55 + 0x10000 ∧ 0x100000 + 64 * 16 ≤ 0x200000 ∧
    0 < min 1 (0 + 16) ∧ min 0 (0 + 16) ≤ 0 ∧ ((queued 31 [(0xC200 + 8 * 31, 1)] 0 0).cfg 0 (0xC200 + 8 * 31)).toNat = 1 ∧
    min ((queued 0 [] 0 1).cfg 0 0xC200).toNat (1 + 16) ≤ 1 := by decide +kernel

theorem witness_HostEvents_trace :
    let s := fun x => (conf [(0x48, 1 <<< 63), (0x50, 0x7FFFF00000)] (beside x)).modSt fun y => { y with live := false }
    (let u := (conf [(0x48, 1 <<< 63)] (beside mate)).modCore 0 fun c => { c with traced := [(0, (0, 0x300000005))] }
     u.sampleTurn 0 0 = some 0x300000006 ∧ u.sampleDue 0 0 = false ∧ { u with clk := 1023 }.sampleDue 0 0 = false ∧ { u with clk := 1024 }.sampleDue 0 0 = true) ∧
    (conf [(0x48, 1 <<< 63)] (beside mate)).sampleTurn 0 0 ≠ some 0x300000006 ∧
    ∀ x ∈ [mate, { mate with inflight := [⟨0, 1, [.g 3], [.g 3 7]⟩] }, waiting (.accRd 0), waiting (.waitL 2)], (s x).strand 0x300000006 = some x ∧ x.live = true ∧ x.core = 0 ∧ x.place = .resident ∧
      ((s x).cfg x.pid 0x48).getLsbD 63 = true ∧ ((s x).cfg x.pid 0x50).toNat % 2 ^ 39 / 2 ^ 20 * 2 ^ 20 = 0x7FFFF00000 ∧ (s x).active x = true ∧
      (s x).sampleTurn 0 x.pid = some 0x300000006 ∧ (s x).sampleDue 0 x.pid = true := by
  decide +kernel

theorem witness_HostEvents_checkpoint :
    home.hub.ckpt = none ∧ home.hub.booted = true ∧ home.hub.down = false ∧ (BitVec.ofNat 64 (2 ^ 55)).getLsbD 55 = true ∧
    (let s := { (home.modHub fun h => { h with ckpt := some (2 ^ 55) }) with poison := [0x2000] }
     s.hub.ckpt = some (BitVec.ofNat 64 (2 ^ 55)) ∧ s.hub.down = false ∧ s.hub.owners = [] ∧ ∀ l ∈ s.poison, l % 64 = 0) ∧
    (let s := { (moved.modHub fun h => { h with ckpt := some (2 ^ 55) }) with poison := [5 * 65536] }
     s.hub.owners = [(5, ⟨1, 2 ^ 35, 65536⟩)] ∧ 65536 * 5 + 65536 ≤ 2 ^ 39 ∧ 2 ^ 35 + 65536 ≤ 2 ^ 39 ∧ 2 ^ 35 % 64 = 0 ∧ (∀ l ∈ s.poison, l % 64 = 0) ∧
       ∀ l ∈ s.poison, l < 2 ^ 39 → (65536 * 5 ≤ l ∧ l < 65536 * 5 + 65536) ∨ l + 64 ≤ 2 ^ 35 ∨ 2 ^ 35 + 65536 ≤ l) := by decide +kernel

theorem witness_HostEvents_reset :
    (home.modHub fun h => { h with booted := false }).hub.booted = false ∧ home.hub.booted = true ∧
    ∀ n ∈ [5, 0xFFFF], let i : BootImage := { valid := true, firmware := 1, serverMask := [], handlers := 2, handlerPart := 264, incarnation := BitVec.ofNat 16 n }
      i.valid = true ∧ partOk i.handlerPart.toNat = true := by decide +kernel

/-! ## Engine queues -/

/-- An entry of the strand in issue, with ticket 1, and the state in which it stands first in queue n of quad 0. -/
def entry1 (w : Work) : Entry := { owner := 0x300000005, pid := 0, id := some 0, promise := 1, work := w }
def job1 : JobRec := { ticket := 1, eff := 1, owners := [0x300000005] }
def first (n : Nat) (e : Entry) (s : State) : State := s.modQuad 0 fun q =>
  { q with recs := [(0, job1)], copyQ := if n = 0 then [e] else [], mat0 := if n = 1 then [e] else [], mat1 := if n = 2 then [e] else [] }

theorem atHead {s : State} {n : Nat} {e : Entry} (h : (s.quad 0).queue n = [e] ∧ ((s.die 0).halted = false ∧ s.hub.down = false) ∧ e.ticket = some 1 ∧
    (s.quad 0).record e.half 1 = some job1) : AtHead s 0 n e [] 1 job1 := ⟨h.1, h.2.1, h.2.2.1, h.2.2.2⟩

/-- A state without migrations redirects nothing; one whose dies change no link has none that retrains. -/
theorem still {s : State} (h : s.hub.migs.isEmpty = true) (d : Nat) (l : List Nat) : s.redirected d l = false := by
  simp [State.redirected, List.isEmpty_iff.mp h]

theorem linked {s : State} (h : (s.dies.all fun p => p.2.power.stage == 0) = true) : Linked s := by
  intro d
  have k : (s.die d).power.stage = 0 := by
    unfold State.die Assoc.getD
    generalize s.dies = l at h
    induction l with
    | nil => rfl
    | cons p t ih =>
      rw [List.all_cons, Bool.and_eq_true] at h
      by_cases e : p.1 = d
      · simpa [Assoc.get, e] using h.1
      · simpa [Assoc.get, e] using ih h.2
  simp [State.retrains, k]

theorem nothingAhead {s : State} {q : Nat} {e : Entry} (h : (s.dies.all fun p => p.2.paths.isEmpty) = true) : Ahead s q e :=
  fun a _ d => noPath h a d

/-- A copy of 65 bytes from 0x2000, or from offset 0x40 of the scratchpad, to 0x3000. -/
def copyJob (src : End) (done : Nat) : CopyJob := { src := src, dst := .mem 0x3000, len := 65, qual := .plain, ext := lane.ext, done := done }

/-- The strand's guard 7 in a state. -/
def guarded (g : Guard) : State := home.modSt fun x => { x with q := x.q.set 7 g }

theorem witness_QueueEvents_guards :
    ∀ w ∈ [Work.copy (copyJob (.mem 0x2000) 0), .copy (copyJob (.scratch 0 0x40) 0), .accClr 0 31 1 3, .accClr 0 28 4 10, .signal 0x2000 0x2000],
      (∀ n ∈ [0, 1, 2], AtHead (first n (entry1 w) home) 0 n (entry1 w) [] 1 job1) ∧ (entry1 w).started = false ∧ (entry1 w).held = false ∧
      ∀ g ∈ [Guard.isFalse, .unresolved, .isTrue], (first 0 { entry1 w with guard := 7 } (guarded g)).guardOf 0x300000005 7 = g := by
  intro w hw
  refine ⟨fun n hn => atHead ?_, rfl, rfl, ?_⟩
  · simp only [List.mem_cons, List.not_mem_nil, or_false] at hw hn
    obtain rfl | rfl | rfl := hn <;> obtain rfl | rfl | rfl | rfl | rfl := hw <;> decide +kernel
  · simp only [List.mem_cons, List.not_mem_nil, or_false] at hw
    obtain rfl | rfl | rfl | rfl | rfl := hw <;> decide +kernel

/-- Where the engine's paths are empty and no link retrains, a signal whose address no revocation covers. -/
theorem witness_QueueEvents_signal : let e := entry1 (.signal 0x2000 0x2000)
    Linked (first 0 e home) ∧ Ahead (first 0 e home) 0 e ∧ ∀ i, i < 16 → cutBy e.cuts (0x2000 + BitVec.ofNat 64 i) = false :=
  ⟨linked (by decide +kernel), nothingAhead (by decide +kernel), by decide +kernel⟩

/-- A gang job of the form i8, K = 1, of the cores in a set, of which the strand's core has joined. -/
def gangJob (set : BitVec 4) (acc mismatch : Bool) (guard group : Nat) : MatJob :=
  { gid := 0, form := .i8, unf := false, k := 1, acc := acc, sc := false, unfold := 0, quad := 0, split := false, half := 0, set := set
    sampled := [0x300000005, 0x300000006]
    members := [{ sid := 0x300000005, core := 0, guard := guard, zt := 0, aBase := 0x100, bBase := 0x200, aScale := 0, bScale := 0, q0 := 0 }]
    mismatch := mismatch, group := group }

/-- The first tiles of core 0 carry tag 3. -/
def tiled (s : State) : State := s.modCore 0 fun c => { c with tiles := [(0, { tag := 3 })] }

theorem witness_QueueEvents_gang :
    (∀ m ∈ [gangJob 3 false false 0 0, gangJob 1 true true 7 0, gangJob 1 true false 0 0, gangJob 1 false false 0 0],
      AtHead (first 1 (entry1 (.matrix m)) home) 0 1 (entry1 (.matrix m)) [] 1 job1) ∧
    (∃ c ∈ (gangJob 3 false false 0 0).missing, home.candidates (gangJob 3 false false 0 0) c = []) ∧
    ((∀ c ∈ (gangJob 3 false false 0 0).missing, (beside { mate with core := 1 }).candidates (gangJob 3 false false 0 0) c ≠ []) ∧
      (beside { mate with core := 1 }).memberAway (gangJob 3 false false 0 0) = false ∧ (gangJob 3 false false 0 0).missing ≠ []) ∧
    (∀ m ∈ [gangJob 1 true true 7 0, gangJob 1 true false 7 0, gangJob 1 false false 7 0], m.missing = [] ∧ home.memberAway m = false ∧
      ∀ g ∈ [Guard.isFalse, .unresolved, .isTrue], ∀ p ∈ m.members, (guarded g).guardOf p.sid p.guard = g) ∧
    (∃ p ∈ (gangJob 1 true false 0 0).members, ∃ i, i < (gangJob 1 true false 0 0).form.tiles ∧ ((home.core p.core).tile (p.zt + i)).tag ≠ 3) ∧
    (∀ p ∈ (gangJob 1 true false 0 0).members, ∀ i, i < (gangJob 1 true false 0 0).form.tiles → (((tiled home).core p.core).tile (p.zt + i)).tag = 3) := by
  refine ⟨?_, by decide +kernel⟩
  simp only [List.mem_cons, List.not_mem_nil, or_false, forall_eq_or_imp, forall_eq]
  exact ⟨atHead (by decide +kernel), atHead (by decide +kernel), atHead (by decide +kernel), atHead (by decide +kernel)⟩

/-- acc.rd of tile 31, row 7, into v15 by the strand in issue. -/
def reading (tag : BitVec 4) : State := ((home.modSt fun x => { x with wait := some (.accRd 0) }).modCore 0 fun c => { c with
  tiles := [(31, { tag := tag })] }).modQuad 0 fun q => { q with
    mat0 := [{ owner := 0x300000005, pid := 0, work := .accRd 0 31 7 15 false }] }

theorem witness_QueueEvents_accRd : ∀ t ∈ [(3 : BitVec 4), 9, 10],
    ((reading t).quad 0).queue 1 = [{ owner := 0x300000005, pid := 0, work := .accRd 0 31 7 15 false }] ∧ ((reading t).die 0).halted = false ∧
      (reading t).hub.down = false ∧ Live (reading t) 0x300000005 (reading t).st ∧ (reading t).st.wait = some (.accRd 0) ∧
      31 ∉ ((reading t).core 0).badTiles ∧ (((reading t).core 0).tile 31).tag = t ∧ (reading t).st.place = .resident ∧ (reading t).st.pending.length < 8 := by
  simp only [List.mem_cons, List.not_mem_nil, or_false, forall_eq_or_imp, forall_eq]
  exact ⟨⟨by decide +kernel, by decide +kernel, by decide +kernel, live (by decide +kernel), by decide +kernel⟩,
    ⟨by decide +kernel, by decide +kernel, by decide +kernel, live (by decide +kernel), by decide +kernel⟩,
    by decide +kernel, by decide +kernel, by decide +kernel, live (by decide +kernel), by decide +kernel⟩

/-- A join stands at the head of every queue that it is in; or behind another entry in one. -/
theorem witness_QueueEvents_join :
    let j : Entry := { owner := 0x300000005, pid := 0, work := .join 4 }
    let s := home.modQuad 0 fun q => { q with copyQ := [j], mat0 := [j, entry1 (.signal 0x2000 0x2000)] }
    let u := home.modQuad 0 fun q => { q with copyQ := [j], mat0 := [entry1 (.signal 0x2000 0x2000), j] }
    joinQueues s 0 = [[j], [j, entry1 (.signal 0x2000 0x2000)], [], [], [], [], []] ∧ j.isJoin 4 = true ∧
      joinQueues u 0 = [[j], [entry1 (.signal 0x2000 0x2000), j], [], [], [], [], []] ∧ (entry1 (.signal 0x2000 0x2000)).isJoin 4 = false := by decide +kernel

theorem end_ok {r : Except (BitVec 8) (List Nat)} {l : List Nat} (h : r.toOption = some l) : r = .ok l := by
  cases r <;> simp_all [Except.toOption]

/-- Partition 0 holds band 0 and is enabled: its quads serve it. -/
def serving : State := conf [(0, 1 <<< 63)] home

/-- The first beat of a copy, of 64 bytes, and the last one, of one; and a job of a partition that is not enabled. -/
theorem witness_QueueEvents_beats : ∀ n ∈ [0, 64],
    let c := copyJob (.mem 0x2000) n
    let e := { entry1 (.copy c) with started := true }
    AtHead (first 0 e serving) 0 0 e [] 1 job1 ∧ c.snap = none ∧ c.done < c.len ∧ c.done < c.out ∧ Linked (first 0 e serving) ∧ Ahead (first 0 e serving) 0 e ∧
    (∀ l, (first 0 e serving).redirected (0 / 256) l = false) ∧ (first 0 e serving).outside e.pid 0 = false ∧
    (first 0 e home).outside e.pid 0 = true ∧ AtHead (first 0 e home) 0 0 e [] 1 job1 ∧
    (first 0 e serving).endBytes e.owner c.ext e.cuts false c.src ((List.range (min 64 (c.len - c.done))).map (c.done + ·)) =
      .ok ((List.range (min 64 (65 - n))).map (0x2000 + n + ·)) ∧
    (first 0 e serving).endBytes e.owner c.ext e.cuts true c.dst ((List.range (min 64 (c.len - c.done))).map (c.done + ·)) =
      .ok ((List.range (min 64 (65 - n))).map (0x3000 + n + ·)) ∧
    ((List.range (min 64 (65 - n))).map (0x3000 + n + ·)).Nodup ∧ ∀ a ∈ (List.range (min 64 (65 - n))).map (0x3000 + n + ·), spaceOf a = .dieMem := by
  simp only [List.mem_cons, List.not_mem_nil, or_false, forall_eq_or_imp, forall_eq]
  exact ⟨⟨atHead (by decide +kernel), rfl, by decide +kernel, by decide +kernel, linked (by decide +kernel), nothingAhead (by decide +kernel),
      still (by decide +kernel) _, by decide +kernel, by decide +kernel, atHead (by decide +kernel), end_ok (by decide +kernel), end_ok (by decide +kernel), by decide +kernel⟩,
    atHead (by decide +kernel), rfl, by decide +kernel, by decide +kernel, linked (by decide +kernel), nothingAhead (by decide +kernel),
    still (by decide +kernel) _, by decide +kernel, by decide +kernel, atHead (by decide +kernel), end_ok (by decide +kernel), end_ok (by decide +kernel), by decide +kernel⟩

theorem witness_QueueEvents_groups : ∀ g ∈ [0, 1],
    let m := gangJob 1 true false 0 g
    let e := { entry1 (.matrix m) with started := true }
    (∀ h, h < 2 → AtHead (first (1 + h) e home) 0 (1 + h) e [] 1 job1) ∧ (m.members.map (·.core)).Nodup ∧
      (∀ p ∈ m.members, ((first 1 e home).core p.core).badTiles = []) ∧ (g < (m.k + 3) / 4 ∨ (m.k + 3) / 4 ≤ g) ∧
      (∀ l ∈ m.reads 0, (first 1 e home).poisoned l = false) ∧
      ∃ l ∈ m.reads 0, ({ first 1 e home with poison := [Memory.line (Memory.scratchBase 0 + 0x100)] } : State).poisoned l = true := by
  intro g hg m e
  refine ⟨fun h hh => atHead ?_, ?_⟩
  · simp only [List.mem_cons, List.not_mem_nil, or_false] at hg
    obtain rfl | rfl := hg <;> obtain rfl | rfl : h = 0 ∨ h = 1 := by omega
    all_goals decide +kernel
  · simp only [List.mem_cons, List.not_mem_nil, or_false] at hg
    obtain rfl | rfl := hg <;> decide +kernel

theorem witness_QueueEvents_ends :
    (∀ n ∈ [0, 64, 65], let e := { entry1 (.copy (copyJob (.mem 0x2000) n)) with started := true }
      AtHead (first 0 e home) 0 0 e [] 1 job1 ∧ ((copyJob (.mem 0x2000) n).out ≤ n ↔ n = 65)) ∧
    (let e := { entry1 (.signal 0x2000 0x2000) with held := true }
     AtHead (first 0 e home) 0 0 e [] 1 job1) := by
  simp only [List.mem_cons, List.not_mem_nil, or_false, forall_eq_or_imp, forall_eq]
  exact ⟨⟨⟨atHead (by decide +kernel), by decide +kernel⟩, ⟨atHead (by decide +kernel), by decide +kernel⟩, atHead (by decide +kernel), by decide +kernel⟩,
    atHead (by decide +kernel)⟩

/-! ## The Round -/

/-- A frame's CRC is that of the RFC's test vector of nine bytes (R285). -/
theorem test_crc : crc32c [0x31, 0x32, 0x33, 0x34, 0x35, 0x36, 0x37, 0x38, 0x39] = 0xE3069283 := by decide +kernel

/-- The model's frames 4 and 5 lie at 0x205000 and 0x206000 of die 0: the table frame, and tile 1, each of one raw byte 7. -/
def wheel : RoundModel := { model with slices := [⟨0, 4, 1, 0x205000⟩, ⟨0, 5, 1, 0x206000⟩] }
def framed : Memory := [(0x205000, 0x9F), (0x205001, 0xD1), (0x205002, 0x02), (0x205003, 0x37), (0x205005, 0x01), (0x20500C, 0x01), (0x205014, 0x01), (0x205020, 0x07),
  (0x206000, 0xE8), (0x206001, 0x4D), (0x206002, 0xFA), (0x206003, 0xB5), (0x206005, 0x01), (0x206008, 0x01), (0x20600C, 0x01), (0x206014, 0x01), (0x206020, 0x07)]

/-- Frame f is next at station 0 at a time, where core 0 holds the booking. -/
def turning (f clk : Nat) (m : Memory) : State := { (home.modCore 0 fun c => { c with bookQ := [booked] }).modQuad 0 fun q => { q with
    recs := [(0, { ticket := 9, eff := 9, owners := [0x300000005] })] } with
  hub := { home.hub with round := { model := some wheel, fill := false, pos := [(0, (0, f))] } }, clk := BitVec.ofNat 64 clk, mem := m }

theorem witness_RoundEvents_booked (f clk : Nat) (m : Memory) :
    Booked (turning f clk m) 0 booked booking 9 { ticket := 9, eff := 9, owners := [0x300000005] } := ⟨⟨_, rfl, rfl⟩, rfl, rfl, rfl⟩

theorem witness_RoundEvents_laps :
    (turning 0 179 []).hub.round.model = some wheel ∧
    (turning 0 179 []).clk.toNat < 0 + (wheel.frames * 45 + 8 * (turning 0 0 []).hub.round.rateAt 0 - 1) / (8 * (turning 0 0 []).hub.round.rateAt 0) ∧
    0 + (wheel.frames * 45 + 8 * (turning 0 0 []).hub.round.rateAt 0 - 1) / (8 * (turning 0 0 []).hub.round.rateAt 0) ≤ (turning 0 180 []).clk.toNat ∧
    (turning 0 180 []).hub.round.pending = none ∧
    ((turning 0 180 []).modHub fun h => { h with round := { h.round with pending := some wheel } }).hub.round.pending = some wheel ∧
    home.hub.round.model = none ∧ home.hub.booted = true ∧ (turning 0 179 []).hub.booted = true ∧ (turning 0 179 []).hub.round.rates = [] ∧
    (∀ q ∈ [(1 : BitVec 3), 4], q ≠ 0 ∧ q.toNat ≤ 4) ∧ (∀ q ∈ [(0 : BitVec 3), 5], q = 0 ∨ 4 < q.toNat) ∧
    (∀ n ∈ [128, 2 ^ 26], 128 ≤ n ∧ n ≤ 2 ^ 26) ∧ wheel.layers.length ≤ 4096 := by decide +kernel

theorem witness_RoundEvents_frames :
    (turning 5 6 framed).clk.toNat < framePass (turning 5 6 framed).hub.round 5 0 ∧ framePass (turning 5 7 framed).hub.round 5 0 ≤ (turning 5 7 framed).clk.toNat ∧
    (turning 5 7 framed).hub.down = false ∧ Assoc.getD (turning 5 7 framed).hub.round.pos 0 (0, 0) = (0, 5) ∧ dieOf 0 = 0 ∧ booking.core = 0 ∧
    ((turning 5 7 framed).die 0).halted = false ∧ booking.cancel = false ∧ booking.lap = (turning 5 7 framed).hub.round.lap ∧
    booking.first = 4 ∧ 4 + 1 ≠ booking.first + booking.count ∧ 5 + 1 = booking.first + booking.count ∧
    (∀ p ∈ (home.modHub fun h => { h with round := (turning 5 7 []).hub.round }).cores, p.2.bookQ = []) := by decide +kernel

/-- The CRC's register after some more bytes. -/
def crcMore (c : BitVec 32) (l : List Byte) : BitVec 32 := l.foldl (fun c y => crcBit 8 (c ^^^ y.setWidth 32)) c

/-- The same on numbers, the register a numeral at each byte. -/
def crcNat : List Byte → Nat → Nat
  | [], n => n
  | y :: t, 0 => crcNat t (crcBit 8 (y.setWidth 32)).toNat
  | y :: t, n + 1 => crcNat t (crcBit 8 (BitVec.ofNat 32 (n + 1) ^^^ y.setWidth 32)).toNat

theorem crcMore_nat (l : List Byte) (n : Nat) : crcMore (BitVec.ofNat 32 n) l = BitVec.ofNat 32 (crcNat l n) := by
  induction l generalizing n with
  | nil => rfl
  | cons y t ih => cases n <;> simp [crcMore, crcNat, ← ih]

theorem crc_framed : crcMore 0xFFFFFFFF (Memory.bytes framed 0x205004 4092) = 0xC8FD2E60 :=
  (crcMore_nat _ 0xFFFFFFFF).trans (by decide +kernel)

theorem crc_tile : crcMore 0xFFFFFFFF (Memory.bytes framed 0x206004 4092) = 0x4A05B217 :=
  (crcMore_nat _ 0xFFFFFFFF).trans (by decide +kernel)

theorem frame_ok {s : State} {m : RoundModel} {f a : Nat} {c : BitVec 32} (ha : frameAddr m f = some a) (hc : crcMore 0xFFFFFFFF (Memory.bytes s.mem (a + 4) 4092) = c)
    (h : ((~~~c).toNat == Memory.readN s.mem a 4 && (List.range 64).all fun i => !s.poisoned (Memory.line a + 64 * i)) = true) : (s.frameAt m f).ok = true := by
  subst hc
  simp only [State.frameAt, ha, Nat.add_zero]
  exact h

theorem witness_RoundEvents_table : ((turning 4 7 framed).frameAt wheel 4).ok = true ∧ ((turning 4 7 framed).frameAt wheel 4).tile = 0 :=
  ⟨frame_ok (a := 0x205000) (by decide +kernel) crc_framed (by decide +kernel), by decide +kernel⟩

theorem witness_RoundEvents_corrupt : (({ turning 4 7 framed with poison := [0x205000] } : State).frameAt wheel 4).ok = false := by
  have ha : frameAddr wheel 4 = some 0x205000 := by decide +kernel
  simp only [State.frameAt, ha, Bool.and_eq_false_iff]
  exact .inr (by decide +kernel)

theorem witness_RoundEvents_tile :
    ((turning 5 7 framed).frameAt wheel 5).ok = true ∧ ((turning 5 7 framed).frameAt wheel 5).tile ≠ 0 ∧ ((turning 5 7 framed).frameAt wheel 5).raw = true ∧
      ((turning 5 7 framed).frameAt wheel 5).payload.take ((turning 5 7 framed).frameAt wheel 5).olen = [7] ∧
      booking.off + ((turning 5 7 framed).frameAt wheel 5).ooff + 1 ≤ (turning 5 7 framed).scratchOf 0 :=
  ⟨frame_ok (a := 0x206000) (by decide +kernel) crc_tile (by decide +kernel), by decide +kernel⟩

/-- The booking's die is behind the station that retransmits, or it is that station itself. -/
theorem witness_RoundEvents_hop_station : dieOf booking.core = 0 ∧ 0 < 1 ∧
    Assoc.getD (turning 5 7 framed).hub.round.pos 0 ((turning 5 7 framed).hub.round.lap, 0) = (booking.lap, 5) ∧ 5 < booking.first + booking.count := by
  decide +kernel

theorem witness_RoundEvents_hop : (conf [(0, 1 <<< 63)] (turning 0 0 [])).hub.round.model.isSome = true ∧ (conf [(0, 1 <<< 63)] (turning 0 0 [])).enabled 0 = true := by
  decide +kernel

/-! ## Steps -/

/-- add g1 = g3 + g4 is the next instruction right after reset, with its word placed. -/
def placed : State := State.reset.withFetchWord 32 0x0108C800

theorem witness_StepRunsDecoded : ∃ pa, Fetches placed (.add 0 1 3 4 0) { placed with agenda := [] } pa := by
  obtain ⟨t, s, h, hp⟩ := res_all (r := ({ placed with agenda := [] } : State).check placed.st .fetch placed.st.pc 1)
    (p := fun t s => t.addr = placeLine ∧ s = { placed with agenda := [] }) (by decide +kernel)
  refine ⟨placeLine, ⟨rfl, by decide +kernel, by decide +kernel, by decide +kernel, by decide +kernel, by decide +kernel, ⟨by decide +kernel, t, h.trans (congrArg (Res.ok t) hp.2), hp.1⟩,
    by decide +kernel, by decide +kernel, by decide +kernel, fun d => ?_, ?_⟩⟩
  · have h : placed.dies = [] := by decide +kernel
    simp [State.path, State.die, h, Assoc.getD, Assoc.get]
  · have h : BitVec.ofNat 32 (Memory.readN placed.mem placeLine 4) = 0x0108C800 := by decide +kernel
    rw [h]
    rfl

/-- A trace sample, another event, and an idle turn come next. -/
theorem witness_StepRunsDecoded_events :
    (∀ i ∈ [Instr.traceSample 0 5, .dieHalt 0], ({ one with agenda := [.event i] } : State).agenda = [.event i] ∧ hasWord i = false) ∧
    (∀ core sid, Instr.dieHalt 0 ≠ .traceSample core sid) ∧ (∀ x ∈ one.all, (one.view x).flags.parked = false) ∧
    (∀ d ∈ one.dies, ∀ r ∈ d.2.regs, r.2.posts = []) ∧ Linked placed := by
  refine ⟨by decide +kernel, nofun, ?_, by decide +kernel, linked (by decide +kernel)⟩
  have h : (one.all.all fun x => !(one.view x).flags.parked) = true := by decide +kernel
  exact fun x hx => by simpa using List.all_eq_true.mp h x hx

theorem witness_DecodeEncode : wellFormed (.cmpi 1 31 31 0x1FF 7 8) = true ∧ hasWord (.cmpi 1 31 31 0x1FF 7 8) = true ∧
    (decode 0x3F423000).toOption = some (.hintModifier 0 0x023000) := by decide +kernel

/-- The state that an instruction leaves, a step leaves; and a register of it. -/
def after (i : Instr) (s : State) : Option State := match exec i s with | .next t => some t | _ => none
noncomputable def stepped (s : State) : Option State := match step s with | .next t => some t | _ => none

theorem witness_StepInvariant :
    Memory.wf placed.mem = true ∧ (stepped placed).isSome = true ∧
    (match step { placed with st := { placed.st with ext := placed.st.ext.set 0 (mkExtent 0 64 (2 ^ 42) 0 7 false) } } with
      | .fault (.noStorage pa) => decide (spaceOf pa = .nothing) | _ => false) = true := by decide +kernel

/-! ## One step each, on the spec's own values -/

/-- G[d] after an instruction on some registers. -/
def gives (i : Instr) (l : List (BitVec 5 × Word)) (d : BitVec 5) : Option Word := (after i (with_ l)).map (·.G d)

/-- 05 R81's quotient and remainder of -7 by 2, which arrive later (R67). -/
theorem test_div : ([(Instr.div 1 5 6 7 8), .rem 1 5 6 7 8].map fun i => (after i (with_ [(6, -7), (7, 2)])).map fun t => t.st.inflight.map (·.writes)) =
    [some [[.g 5 (-3)]], some [[.g 5 (-1)]]] := by decide +kernel

/-- 05 R83's fields. -/
theorem test_bitfields : gives (.bfx 1 5 6 7 8) [(6, 0x12345678), (7, 0x0C04)] 5 = some 0x567 ∧
    gives (.bfi 1 5 6 7 8) [(6, 0x12345678), (7, 0x0C04)] 5 = some 0x6780 ∧
    gives (.bfx 1 5 6 7 8) [(6, 0xAB00000000000000), (7, 0x1038)] 5 = some 0xAB := by decide +kernel

/-- 05 R90's address. -/
theorem test_lea : gives (.lea 1 5 6 7 8) [(6, 0x0300000000010000), (7, -16)] 5 = some 0x030000000000FFF0 := by decide +kernel

/-- A step fetches, decodes and runs the word: g1 = g3 + g4 wraps, and the pc advances by 4. -/
theorem test_step : ((stepped (regs [(3, -1), (4, 8)] placed)).map fun t => (t.st.G 1, t.st.pc)) = some (7, placed.st.pc + 4) := by decide +kernel

/-- 01 R19's partition word: a strand of part 0x008C may name z0 to z7. -/
theorem test_tiles : (List.range 32).filter (fun n => ({ ctl := { part := 0x08C } } : Strand).names (.z n)) = [0, 1, 2, 3, 4, 5, 6, 7] := by decide +kernel

/-- A store and a load of two bytes, the lower byte at the lower address (00 R5). -/
theorem test_store : ((after (.st 1 5 6 0 2 8) (with_ [(5, 0x1234), (6, 0x2000)])).map fun t => (t.core 0).sbuf.map (·.line)) = some [0x2000] := by decide +kernel

/-- 18 R318: a trap saves the pc, the cause and the value, and goes to the handler. -/
theorem test_trap : ((after (.trap 1 2 8) { with_ [(2, 9)] with st := { (with_ [(2, 9)]).st with u := idle 0x80 } }).map fun t =>
    (t.st.pc, t.st.u.xpc, t.st.u.val, t.st.u.cause.toNat % 256)) = some (0x80, 0x1000, 9, 8) := by decide +kernel

/-! ## Ill-formed instructions, refused by each check -/

/-- R21, R66: a version that is no version; sc of an instruction outside the long-latency class. -/
theorem test_wf_issue : [Instr.div 2 1 2 3 0, .div 3 1 2 3 0, .add 2 1 2 3 0, .add 1 1 2 3 1, .add 1 1 2 3 4].map wellFormed =
    [false, false, false, false, false] ∧ wellFormed (.add 0 1 2 3 7) = true := by decide +kernel

/-- R65, R92, R235: sizes, scopes, orders. -/
theorem test_wf_memory : [Instr.ld 1 1 2 0 7 8, .st 1 1 2 0 1 8, .st 1 1 2 0 7 8, .ldX 1 1 2 3 0 7 8, .stX 1 1 2 3 0 3 8, .ldS 1 1 2 0 1 0 8, .ldS 1 1 2 4 1 0 8,
    .ldS 1 1 2 1 2 0 8, .stS 1 1 2 5 0 0 8, .stS 1 1 2 1 1 0 8, .phase 1 0 8, .phase 1 4 8].map wellFormed = List.replicate 12 false := by decide +kernel

/-- Conditions of a branch, tags and layouts of vectors, tiles (the chapters of 06, 08 to 11 and 14 that assign them). -/
theorem test_wf_vectors : [Instr.bc 1 2 6 0, .bc 1 2 7 0, .vcvt 1 1 2 0 0 8, .vcvt 1 1 2 11 0 8, .vcvtN 1 1 2 15 0 8, .vsat 1 1 2 0 0 8, .vsat 1 1 2 5 0 8,
    .vsatN 1 1 2 9 0 8, .vpack 1 1 2 10 8, .vpack 1 1 2 13 8, .vld 1 1 2 15 0 0 8, .vld 1 1 31 1 0 1 8, .vld 1 1 2 2 0 2 8, .vld 1 1 2 3 0 3 8,
    .vst 1 1 31 0 1 8, .vtagSet 1 1 2 15 8, .accClr 1 1 0 4 7 8, .accClr 1 1 1 10 7 8, .accRdC32 1 2 2 0 8, .accRdC32 1 1 4 0 8, .accWrC32 1 2 1 0 8,
    .accWrC32 1 3 0 0 8, .accStC32 1 1 2 2 7 8].map wellFormed = List.replicate 23 false := by decide +kernel

/-- R70, R71: a reserved extension of the copy group, reserved bits, values that no group has, an order without os. -/
theorem test_wf_modifier : [(0x300000 : BitVec 22), 1, 0xC00, 0x180, 0x1000].map (fun d => wellFormed (.hintModifier 1 d)) = [false, false, false, false, false] := by
  decide +kernel

/-- R1, R3: the units that an event names. -/
theorem test_wf_events : [Instr.userQueueNotify 20 0 0, .launchPacket 0 64, .launchComplete 1024, .urgentEntry 16384, .creelSnapshot 20, .creelDispatch 0 16384,
    .spillRingRefill 0 16, .drainedLineArrival 16 0, .forwardedAccess 0 16, .queueHeadStart 4096 0, .queueHeadStart 0 3, .joinRelease 4096 0, .matrixGroup 0 2,
    .jobComplete 0 3, .roundFrameArrival 16, .hopRetransmit 16, .strandResume 0 16384, .messageDispatch 16, .linkReplay 0 24, .podBarrierReport 320 none,
    .podBarrierRelease 320 ⟨⟨1, 0, 0⟩, 0⟩, .hwqDoorbell 0 64 0, .traceSample 16384 0, .hostPortTraining 2 true 64 16, .delayTableClear 16384].map wellFormed =
      List.replicate 25 false := by decide +kernel

/-- R74: an issue version that is none, an unassigned operation, an unassigned major, a field that must be zero. -/
theorem test_decode_refused : [(0x8108C800 : BitVec 32), 0x41EB78F8, 0x40000000, 0x43EB4208].map decode =
    [.error .illegalVersion, .error .illegalInstruction, .error .illegalInstruction, .error .reservedField] := rfl

/-- R239: amo.add.n32.rlx.pkg's hint under .issue 0. -/
theorem test_decode_hint : decode 0x3F423000 = .ok (.hintModifier 0 0x023000) := rfl

/-! ## Decoding: a word of every instruction, by major, from the tables of 04 and the chapters -/

theorem test_decode_01_1 :
    [0x41EB7808, 0x41EB7818, 0x41EB7828, 0x41EB7838, 0x41EB7848, 0x41EB7858, 0x41EB7868, 0x41EB7878, 0x41EB7888,
     0x41EB7898, 0x41EB78A8, 0x41EB78B8].map decode =
      [.ok (.add 1 29 13 28 8), .ok (.sub 1 29 13 28 8), .ok (.and 1 29 13 28 8), .ok (.or 1 29 13 28 8),
       .ok (.xor 1 29 13 28 8), .ok (.andn 1 29 13 28 8), .ok (.orn 1 29 13 28 8), .ok (.shl 1 29 13 28 8),
       .ok (.shr 1 29 13 28 8), .ok (.sra 1 29 13 28 8), .ok (.rot 1 29 13 28 8), .ok (.min 1 29 13 28 8)] := rfl

theorem test_decode_01_2 :
    [0x41EB78C8, 0x41EB78D8, 0x41EB78E8].map decode =
      [.ok (.max 1 29 13 28 8), .ok (.minn 1 29 13 28 8), .ok (.maxn 1 29 13 28 8)] := rfl

theorem test_decode_02 :
    [0x42EB7808, 0x42EB7818, 0x42EB7828, 0x42EB7838, 0x42EB7848, 0x42EB7858, 0x42EB7868].map decode =
      [.ok (.mul 1 29 13 28 8), .ok (.mulh 1 29 13 28 8), .ok (.mulhn 1 29 13 28 8), .ok (.div 1 29 13 28 8),
       .ok (.divn 1 29 13 28 8), .ok (.rem 1 29 13 28 8), .ok (.remn 1 29 13 28 8)] := rfl

theorem test_decode_03 :
    [0x43EB4008, 0x43EB4018, 0x43EB4028, 0x43EB4038, 0x43EB7848, 0x43EB7858, 0x43EB4068, 0x43EB4078, 0x43EB4088,
     0x43EB4098, 0x43EB40A8, 0x43EB40B8].map decode =
      [.ok (.clz 1 29 13 8), .ok (.ctz 1 29 13 8), .ok (.popc 1 29 13 8), .ok (.bswap 1 29 13 8),
       .ok (.bfx 1 29 13 28 8), .ok (.bfi 1 29 13 28 8), .ok (.sextB 1 29 13 8), .ok (.sextH 1 29 13 8),
       .ok (.sextW 1 29 13 8), .ok (.zextB 1 29 13 8), .ok (.zextH 1 29 13 8), .ok (.zextW 1 29 13 8)] := rfl

theorem test_decode_04 :
    [0x44EB7808, 0x44EB7818, 0x44EB7828, 0x44EB7838, 0x44EB7848, 0x44EB7858, 0x44EB7868].map decode =
      [.ok (.cmpEq 1 29 13 28 8), .ok (.cmpNe 1 29 13 28 8), .ok (.cmpLt 1 29 13 28 8), .ok (.cmpLtn 1 29 13 28 8),
       .ok (.cmpLe 1 29 13 28 8), .ok (.cmpLen 1 29 13 28 8), .ok (.selNz 1 29 13 28 8)] := rfl

theorem test_decode_05 :
    [0x45EB4DC8].map decode =
      [.ok (.addi 1 29 13 220 8)] := rfl

theorem test_decode_06 :
    [0x46EB4DC8].map decode =
      [.ok (.andi 1 29 13 220 8)] := rfl

theorem test_decode_07 :
    [0x47EB4DC8].map decode =
      [.ok (.ori 1 29 13 220 8)] := rfl

theorem test_decode_08 :
    [0x48EB4DC8].map decode =
      [.ok (.xori 1 29 13 220 8)] := rfl

theorem test_decode_09 :
    [0x49EB4DC8].map decode =
      [.ok (.muli 1 29 13 220 8)] := rfl

theorem test_decode_0a :
    [0x4AEB41C8, 0x4AEB51C8, 0x4AEB61C8, 0x4AEB71C8].map decode =
      [.ok (.shli 1 29 13 28 8), .ok (.shri 1 29 13 28 8), .ok (.srai 1 29 13 28 8), .ok (.roti 1 29 13 28 8)] := rfl

theorem test_decode_0b :
    [0x4BEB6468].map decode =
      [.ok (.cmpi 1 29 13 4 70 8)] := rfl

theorem test_decode_0c :
    [0x4CE838D8].map decode =
      [.ok (.ldLit 1 29 909 8)] := rfl

theorem test_decode_0d :
    [0x4DEF1B8D].map decode =
      [.ok (.movi 1 29 465805)] := rfl

theorem test_decode_0f :
    [0x4FEB7808, 0x4FEB7818, 0x4FEB4028].map decode =
      [.ok (.lea 1 29 13 28 8), .ok (.xkeySet 1 29 13 28 8), .ok (.xkeyGet 1 29 13 8)] := rfl

theorem test_decode_10 :
    [0x50EB6E68].map decode =
      [.ok (.ld 1 29 13 92 6 8)] := rfl

theorem test_decode_11 :
    [0x51EB6E68].map decode =
      [.ok (.st 1 29 13 92 6 8)] := rfl

theorem test_decode_12 :
    [0x52EB7968].map decode =
      [.ok (.ldX 1 29 13 28 2 6 8)] := rfl

theorem test_decode_13 :
    [0x53EB7968].map decode =
      [.ok (.stX 1 29 13 28 2 6 8)] := rfl

theorem test_decode_14 :
    [0x54EB6508].map decode =
      [.ok (.ldS 1 29 13 4 2 1 8)] := rfl

theorem test_decode_15 :
    [0x55EB6508].map decode =
      [.ok (.stS 1 29 13 4 2 1 8)] := rfl

theorem test_decode_16 :
    [0x56EB7908, 0x56EB7918, 0x56EB7928, 0x56EB7938, 0x56EB7948, 0x56EB7958, 0x56EB7968, 0x56EB7978, 0x56EB7988,
     0x56EB7898].map decode =
      [.ok (.amoAdd 1 29 13 28 1 8), .ok (.amoAnd 1 29 13 28 1 8), .ok (.amoOr 1 29 13 28 1 8),
       .ok (.amoXor 1 29 13 28 1 8), .ok (.amoMin 1 29 13 28 1 8), .ok (.amoMax 1 29 13 28 1 8),
       .ok (.amoMinn 1 29 13 28 1 8), .ok (.amoMaxn 1 29 13 28 1 8), .ok (.amoSwap 1 29 13 28 1 8),
       .ok (.amoFadd 1 29 13 28 8)] := rfl

theorem test_decode_17 :
    [0x57EB7818].map decode =
      [.ok (.cas 1 29 13 28 1 8)] := rfl

theorem test_decode_18 :
    [0x58EB7808, 0x58074018].map decode =
      [.ok (.waita 1 29 13 28 8), .ok (.wake 1 29 8)] := rfl

theorem test_decode_19 :
    [0x59003A08, 0x59000018, 0x59074028, 0x59074038, 0x59074048, 0x59000058].map decode =
      [.ok (.phase 1 29 8), .ok (.fenceX 1 8), .ok (.fenceR 1 29 8), .ok (.fenceA 1 29 8), .ok (.qfence 1 29 8),
       .ok (.ifence 1 8)] := rfl

theorem test_decode_1a :
    [0x5A075A08, 0x5AEB4018, 0x5AEB7828, 0x5A074038].map decode =
      [.ok (.tagSet 1 29 13 8), .ok (.tagGet 1 29 13 8), .ok (.xreq 1 29 13 28 8), .ok (.xrel 1 29 8)] := rfl

theorem test_decode_1b :
    [0x5BEB7818].map decode =
      [.ok (.stF 1 29 13 28 1 8)] := rfl

theorem test_decode_1c :
    [0x5CED38DC, 0x5CEE1B8D].map decode =
      [.ok (.bc 1 29 5 14556), .ok (.dbnz 1 29 7053)] := rfl

theorem test_decode_1d :
    [0x5DE371BD].map decode =
      [.ok (.b 1 14905789)] := rfl

theorem test_decode_1e :
    [0x5EE371BD].map decode =
      [.ok (.call 1 14905789)] := rfl

theorem test_decode_1f :
    [0x5F074008, 0x5F074018, 0x5F000028].map decode =
      [.ok (.jr 1 29 8), .ok (.jrl 1 29 8), .ok (.ret 1 8)] := rfl

theorem test_decode_20_1 :
    [0x60DDCC08, 0x60DDCD48, 0x60DDCC18, 0x60DDCD58, 0x60DDCC28, 0x60DDCD68, 0x60DDCC38, 0x60DDCC48, 0x60DDCC58,
     0x60DDCD18, 0x60DDCC68, 0x60DDCD28].map decode =
      [.ok (.vadd 1 13 13 12 6 8), .ok (.vaddN 1 13 13 12 6 8), .ok (.vsub 1 13 13 12 6 8), .ok (.vsubN 1 13 13 12 6 8),
       .ok (.vmul 1 13 13 12 6 8), .ok (.vmulN 1 13 13 12 6 8), .ok (.vfma 1 13 13 12 6 8), .ok (.vfms 1 13 13 12 6 8),
       .ok (.vmin 1 13 13 12 6 8), .ok (.vminN 1 13 13 12 6 8), .ok (.vmax 1 13 13 12 6 8), .ok (.vmaxN 1 13 13 12 6 8)] := rfl

theorem test_decode_20_2 :
    [0x60DD0878, 0x60DD0888, 0x60DDCC98, 0x60DDCCA8, 0x60DDCCB8, 0x60DDCCC8, 0x60DDCCD8, 0x60DDCCE8, 0x60DDCCF8,
     0x60DDCD08, 0x60DDCD38].map decode =
      [.ok (.vabs 1 13 13 4 8), .ok (.vneg 1 13 13 4 8), .ok (.vand 1 13 13 12 6 8), .ok (.vor 1 13 13 12 6 8),
       .ok (.vxor 1 13 13 12 6 8), .ok (.vandn 1 13 13 12 6 8), .ok (.vshl 1 13 13 12 6 8), .ok (.vshr 1 13 13 12 6 8),
       .ok (.vsra 1 13 13 12 6 8), .ok (.vavg 1 13 13 12 6 8), .ok (.vavgN 1 13 13 12 6 8)] := rfl

theorem test_decode_21 :
    [0x615DCC08, 0x615DCC18, 0x615DCC28, 0x615DCD28, 0x615DCC38, 0x615DCD38, 0x615DCC48].map decode =
      [.ok (.vcmpEq 1 5 13 12 6 8), .ok (.vcmpNe 1 5 13 12 6 8), .ok (.vcmpLt 1 5 13 12 6 8),
       .ok (.vcmpLtN 1 5 13 12 6 8), .ok (.vcmpLe 1 5 13 12 6 8), .ok (.vcmpLeN 1 5 13 12 6 8),
       .ok (.vcmpUnord 1 5 13 12 6 8)] := rfl

theorem test_decode_22 :
    [0x62DDCC08, 0x62DDCC18, 0x62DD0828, 0x62DDCC38, 0x62DDCC48, 0x62DDCC58].map decode =
      [.ok (.vsel 1 13 13 12 6 8), .ok (.vperm 1 13 13 12 6 8), .ok (.vtrn 1 13 13 4 8), .ok (.vrowb 1 13 13 12 6 8),
       .ok (.vcolb 1 13 13 12 6 8), .ok (.vslide 1 13 13 12 6 8)] := rfl

theorem test_decode_23_1 :
    [0x630D6C08, 0x630D6C18, 0x630D6C28, 0x630D6C38, 0x630D6C48, 0x630D6C58, 0x630D6C68, 0x630D6C78, 0x63DD0488,
     0x63DD0498, 0x63DD04A8, 0x63DD04B8].map decode =
      [.ok (.vredAddAll 1 13 13 4 8), .ok (.vredMinAll 1 13 13 4 8), .ok (.vredMaxAll 1 13 13 4 8),
       .ok (.vredAndAll 1 13 13 4 8), .ok (.vredOrAll 1 13 13 4 8), .ok (.vredAmaxAll 1 13 13 4 8),
       .ok (.vredMinNAll 1 13 13 4 8), .ok (.vredMaxNAll 1 13 13 4 8), .ok (.vredAddRow 1 13 13 4 8),
       .ok (.vredMinRow 1 13 13 4 8), .ok (.vredMaxRow 1 13 13 4 8), .ok (.vredAndRow 1 13 13 4 8)] := rfl

theorem test_decode_23_2 :
    [0x63DD04C8, 0x63DD04D8, 0x63DD04E8, 0x63DD04F8, 0x63DD0C88, 0x63DD0C98, 0x63DD0CA8, 0x63DD0CB8, 0x63DD0CC8,
     0x63DD0CD8, 0x63DD0CE8, 0x63DD0CF8].map decode =
      [.ok (.vredOrRow 1 13 13 4 8), .ok (.vredAmaxRow 1 13 13 4 8), .ok (.vredMinNRow 1 13 13 4 8),
       .ok (.vredMaxNRow 1 13 13 4 8), .ok (.vredAddCol 1 13 13 4 8), .ok (.vredMinCol 1 13 13 4 8),
       .ok (.vredMaxCol 1 13 13 4 8), .ok (.vredAndCol 1 13 13 4 8), .ok (.vredOrCol 1 13 13 4 8),
       .ok (.vredAmaxCol 1 13 13 4 8), .ok (.vredMinNCol 1 13 13 4 8), .ok (.vredMaxNCol 1 13 13 4 8)] := rfl

theorem test_decode_24 :
    [0x64DDCC08, 0x64DDCC18, 0x64DDC028, 0x64DD1038, 0x64DDCC48, 0x64DDCC58].map decode =
      [.ok (.vcvt 1 13 13 12 6 8), .ok (.vcvtN 1 13 13 12 6 8), .ok (.vpack 1 13 13 12 8), .ok (.vunpack 1 13 13 8),
       .ok (.vsat 1 13 13 12 6 8), .ok (.vsatN 1 13 13 12 6 8)] := rfl

theorem test_decode_25 :
    [0x65DD0808, 0x65DD0818, 0x65DD0828, 0x65DD0838, 0x65DD0848, 0x65DD0858, 0x65DD0868, 0x65DD0878, 0x65DDCC88].map decode =
      [.ok (.vrcp 1 13 13 4 8), .ok (.vrsq 1 13 13 4 8), .ok (.vsqrt 1 13 13 4 8), .ok (.vexp2 1 13 13 4 8),
       .ok (.vlog2 1 13 13 4 8), .ok (.vsinpi 1 13 13 4 8), .ok (.vcospi 1 13 13 4 8), .ok (.vtanh 1 13 13 4 8),
       .ok (.vdiv 1 13 13 12 6 8)] := rfl

theorem test_decode_26 :
    [0x66DDE608, 0x66DDE688, 0x66DDE618, 0x66DDE698, 0x66DDE628, 0x66D06C38, 0x660D6C48, 0x660D6C68, 0x66D06C58].map decode =
      [.ok (.vadds 1 13 13 28 6 8), .ok (.vaddsN 1 13 13 28 6 8), .ok (.vmuls 1 13 13 28 6 8),
       .ok (.vmulsN 1 13 13 28 6 8), .ok (.vfmas 1 13 13 28 6 8), .ok (.vbcast 1 13 13 4 8), .ok (.vget 1 13 13 4 8),
       .ok (.vgetN 1 13 13 4 8), .ok (.vset 1 13 13 4 8)] := rfl

theorem test_decode_27 :
    [0x67D6B328, 0x67D68268].map decode =
      [.ok (.vld 1 13 13 12 6 2 8), .ok (.vst 1 13 13 4 2 8)] := rfl

theorem test_decode_28 :
    [0x68D6B328, 0x68D6B368].map decode =
      [.ok (.vgather 1 13 13 12 6 2 8), .ok (.vscatter 1 13 13 12 6 2 8)] := rfl

theorem test_decode_29 :
    [0x69DDCC08, 0x69DDCC18, 0x69DDCC28].map decode =
      [.ok (.vdot 1 13 13 12 6 8), .ok (.vdotN 1 13 13 12 6 8), .ok (.vcmul 1 13 13 12 6 8)] := rfl

theorem test_decode_2a :
    [0x6ADD0808, 0x6ADD0018, 0x6ADD0828].map decode =
      [.ok (.vbmax 1 13 13 4 8), .ok (.vscale 1 13 13 8), .ok (.vquant 1 13 13 4 8)] := rfl

theorem test_decode_2b :
    [0x6BD00A08, 0x6BDDC018, 0x6BDD1C28].map decode =
      [.ok (.vrand 1 13 5 8), .ok (.vtagSet 1 13 13 12 8), .ok (.vtagGet 1 13 13 1 6 8)] := rfl

theorem test_decode_2c :
    [0x6C554008, 0x6C554018, 0x6C554028, 0x6C550038, 0x6C550048, 0x6CD50058, 0x6CD5C068, 0x6CD5C078, 0x6C5DC088].map decode =
      [.ok (.kand 1 5 5 4 8), .ok (.kor 1 5 5 4 8), .ok (.kxor 1 5 5 4 8), .ok (.knot 1 5 5 8), .ok (.kmov 1 5 5 8),
       .ok (.kpop 1 13 5 8), .ok (.kany 1 13 5 12 8), .ok (.kall 1 13 5 12 8), .ok (.kset 1 5 13 12 8)] := rfl

theorem test_decode_30 :
    [0x70EB7988].map decode =
      [.ok (.cp 1 29 13 28 6 8)] := rfl

theorem test_decode_31 :
    [0x71EB4108, 0x71EB4308, 0x71EB4508, 0x71EB4708, 0x71EB4908, 0x71EB4B08, 0x71EB4D08, 0x71EB4F08, 0x71EB5108].map decode =
      [.ok (.mmBf16 1 29 13 4 8), .ok (.mmF16 1 29 13 4 8), .ok (.mmE4m3 1 29 13 4 8), .ok (.mmE5m2 1 29 13 4 8),
       .ok (.mmI8 1 29 13 4 8), .ok (.mmTern 1 29 13 4 8), .ok (.mmF32 1 29 13 4 8), .ok (.mmC32 1 29 13 4 8),
       .ok (.mmU 1 29 13 4 8)] := rfl

theorem test_decode_32 :
    [0x72EB5988, 0x726B4818, 0x726B5818, 0x726B4828, 0x726B5828, 0x72EB59B8, 0x72EB79B8].map decode =
      [.ok (.accClr 1 29 13 12 6 8), .ok (.accRd 1 13 13 4 8), .ok (.accRdC32 1 13 13 4 8), .ok (.accWr 1 13 13 4 8),
       .ok (.accWrC32 1 13 13 4 8), .ok (.accSt 1 29 13 12 6 8), .ok (.accStC32 1 29 13 12 6 8)] := rfl

theorem test_decode_33 :
    [0x73EB4008, 0x73EB4018, 0x73EB4028, 0x73EB4038].map decode =
      [.ok (.await 1 29 13 8), .ok (.awaitX 1 29 13 8), .ok (.jpoll 1 29 13 8), .ok (.jdrop 1 29 13 8)] := rfl

theorem test_decode_34 :
    [0x74074148, 0x74000158, 0x74EB43A8].map decode =
      [.ok (.gset 1 29 5 8), .ok (.gclr 1 5 8), .ok (.sigDec 1 29 13 1 6 8)] := rfl

theorem test_decode_35 :
    [0x75EB7808, 0x75074018].map decode =
      [.ok (.board 1 29 13 28 8), .ok (.unboard 1 29 8)] := rfl

theorem test_decode_36 :
    [0x76EB7808, 0x76EB7818, 0x76000028, 0x76000038, 0x76074048].map decode =
      [.ok (.spawn 1 29 13 28 8), .ok (.spawnL 1 29 13 28 8), .ok (.exit 1 8), .ok (.yield 1 8), .ok (.migr 1 29 8)] := rfl

theorem test_decode_37 :
    [0x77075A08, 0x77075A18, 0x77074028, 0x77074038, 0x77EB4048, 0x77EB4058, 0x77000068, 0x77000078].map decode =
      [.ok (.land 1 29 13 8), .ok (.landV 1 29 13 8), .ok (.lopen 1 29 8), .ok (.lclose 1 29 8), .ok (.waitL 1 29 13 8),
       .ok (.lclr 1 29 13 8), .ok (.umask 1 8), .ok (.unmask 1 8)] := rfl

theorem test_decode_38 :
    [0x78074008, 0x78074018, 0x78074028, 0x78074038, 0x78EB7848, 0x78EB7858, 0x78EB7868, 0x78EB7878, 0x78E80088].map decode =
      [.ok (.barQuad 1 29 8), .ok (.barDie 1 29 8), .ok (.barPkg 1 29 8), .ok (.barPod 1 29 8),
       .ok (.bmaxQuad 1 29 13 28 8), .ok (.bmaxDie 1 29 13 28 8), .ok (.bmaxPkg 1 29 13 28 8),
       .ok (.bmaxPod 1 29 13 28 8), .ok (.gang 1 29 8)] := rfl

theorem test_decode_39 :
    [0x79075A08, 0x79000018, 0x79000028, 0x79000038].map decode =
      [.ok (.cpush 1 29 13 8), .ok (.cpop 1 8), .ok (.cyield 1 8), .ok (.cwait 1 8)] := rfl

theorem test_decode_3a :
    [0x7A075A08].map decode =
      [.ok (.msg 1 29 13 8)] := rfl

theorem test_decode_3c :
    [0x7C000008, 0x7C074018, 0x7C000028, 0x7C000038, 0x7C000048].map decode =
      [.ok (.sysc 1 8), .ok (.trap 1 29 8), .ok (.eret 1 8), .ok (.brk 1 8), .ok (.halt 1 8)] := rfl

theorem test_decode_3d :
    [0x7DEB7808, 0x7DEB7818].map decode =
      [.ok (.mfs 1 29 13 28 8), .ok (.mts 1 29 13 28 8)] := rfl

theorem test_decode_3e :
    [0x7E075A08, 0x7E075A18, 0x7E074028, 0x7E075A38, 0x7E075A48].map decode =
      [.ok (.ctxSv 1 29 13 8), .ok (.ctxLd 1 29 13 8), .ok (.preempt 1 29 8), .ok (.resume 1 29 13 8),
       .ok (.xmap 1 29 13 8)] := rfl

theorem test_decode_3f :
    [0x7F2371BD, 0x7F6371BD, 0x7FA371BD].map decode =
      [.ok (.hintExtend 1 2322877), .ok (.hintModifier 1 2322877), .ok (.hintSchedule 1 2322877)] := rfl

end Sys2Proof.Tests
end

/-!
Special registers (01 R14 to R19, 20 R352): mfs and mts over each register number, and a hint word behind three others (04 R59,
R69).
-/
namespace Sys2Proof.Claims
open Machine

/-! ## Units whose effect asks more of the state at their entry -/

/-- A guarded instruction completes where its own effect, in a state at the entry that meets a condition, ends in a next
state. -/
theorem completesWhen_of_guarded {i : Instr} {inf : Info} {s : State} {pre : State → Prop} {effect : State → State → Prop}
    {body : State → Out} (hx : exec i s = guarded inf s body)
    (hb : pre (entry inf s) → ∃ t, body (entry inf s) = .next t ∧ effect (entry inf s) t) :
    CompletesWhen i inf s pre effect := by
  intro h hp
  obtain ⟨t, h1, h2⟩ := hb hp
  exact ⟨t, by rw [hx, guarded_passes h, h1], h2⟩

/-! ## The flags of outstanding results (R7, R104) -/

/-- Settling the flags, with the condition as the statement has it. -/
theorem settleFlags_eq (x : Strand) (n : Nat) : x.settleFlags n =
    if n = 3 ∧ ∃ o ∈ x.inflight, ∃ b, RegWrite.fcr b ∈ o.writes then x.completeAll else x := by
  unfold Strand.settleFlags
  refine if_congr ?_ rfl rfl
  simp only [Bool.and_eq_true, decide_eq_true_eq, List.any_eq_true]
  refine and_congr_right fun _ => exists_congr fun o => and_congr_right fun _ => ⟨?_, fun ⟨b, hb⟩ => ⟨_, hb, rfl⟩⟩
  rintro ⟨w, hm, hw⟩
  cases w with
  | fcr b => exact ⟨b, hm⟩
  | g | v => cases hw

/-- The state in which mfs and mts act is the entry with its flags settled. -/
theorem modSt_settleFlags (e : State) (n : Nat) : e.modSt (·.settleFlags n) = flagsIn e n := by
  unfold flagsIn
  simp only [State.modSt, settleFlags_eq, apply_ite (fun x => { e with st := x })]

/-- Settling the flags writes scalar and vector registers and fcr, and shortens the list of outstanding results. -/
theorem flagsIn_strand (e : State) (n : Nat) : ∃ g v f l,
    flagsIn e n = { e with st := { e.st with g := g, v := v, ctl := { e.st.ctl with fcr := f }, inflight := l } } := by
  unfold flagsIn
  split
  · obtain ⟨g, v, f, h⟩ := Strand.completes_keep e.st.inflight e.st
    exact ⟨g, v, f, [], by rw [Strand.completeAll, h]⟩
  · exact ⟨e.st.g, e.st.v, e.st.ctl.fcr, e.st.inflight, rfl⟩

/-- Settling the flags changes nothing outside the strand, nor its class. -/
theorem unitsKept_flagsIn (e : State) (n : Nat) : UnitsKept e (flagsIn e n) := by
  obtain ⟨g, v, f, l, h⟩ := flagsIn_strand e n
  rw [h]
  exact ⟨fun _ => rfl, rfl, rfl, rfl, rfl, rfl, rfl, rfl, rfl⟩

theorem cls_flagsIn (e : State) (n : Nat) : (flagsIn e n).st.cls = e.st.cls := by
  obtain ⟨g, v, f, l, h⟩ := flagsIn_strand e n
  rw [h]

/-- Settling the flags does not move the next unit. -/
@[simp] theorem nextPc_flagsIn (e : State) (n : Nat) : (flagsIn e n).nextPc = e.nextPc := by
  obtain ⟨g, v, f, l, h⟩ := flagsIn_strand e n
  rw [h]
  rfl

/-! ## What a special register reads as -/

/-- The fields of smode and lmode as the model computes them (R18). `simp` uses both before it reads the state they name (↓): the
decision of an `if` would keep that state as it was. -/
theorem smode_eq (c : Ctl) : BitVec.ofNat 64 (c.priv.code + (if c.laTrap then 4 else 0) + (if c.urg then 8 else 0)) =
    BitVec.ofNat 64 (c.priv.code + 4 * c.laTrap.toNat + 8 * c.urg.toNat) := by
  cases c.laTrap <;> cases c.urg <;> rfl
theorem lmode_eq (c : Ctl) : (if c.lmode then 1 else 0 : Word) = BitVec.ofNat 64 c.lmode.toNat := by
  cases c.lmode <;> rfl

/-- The model reads each register of the list as the list says. -/
theorem special_of_mem (s : State) : ∀ p ∈ specialReads s, s.special p.1 = some p.2 := by
  simp [specialReads, ↓smode_eq, ↓lmode_eq, State.special, TrapRegs.get, Ctl.smode]

/-- A number with a value reads as that value. -/
theorem special_eq_some {s : State} {n : Nat} {v : Word} (h : specialValue s n = some v) : s.special n = some v := by
  obtain ⟨p, hp, rfl⟩ := Option.map_eq_some_iff.mp h
  have hn : p.1 = n := by simpa using List.find?_some hp
  exact hn ▸ special_of_mem s p (List.mem_of_find?_eq_some hp)

/-- The end of a unit changes no special register but pc, which is register 0. -/
theorem specialValue_retire (s : State) {i : Nat} (h : i ≠ 0) : specialValue s.retire i = specialValue s i := by
  have h0 : ((0 : Nat) == i) = false := by simpa using h.symm
  have reads : specialReads s.retire = (0, addPc s.retire.st.pc (4 * s.retire.st.hints.length)) :: (specialReads s).tail := rfl
  have head : specialReads s = (0, addPc s.st.pc (4 * s.st.hints.length)) :: (specialReads s).tail := rfl
  unfold specialValue
  rw [reads, head]
  simp [h0]

/-! ## What a write leaves in the special registers -/

/-- An entry of the list of special registers after a write of v to the register of number k. -/
def rewritten (x : Strand) (k : Nat) (v : Word) (p : Nat × Word) : Nat × Word :=
  (p.1, if p.1 = k then writtenAs x k v p.2 else p.2)

/-- State t is s after a write of v to special register k: that register alone reads otherwise, and nothing but control, trap,
delegation and die registers has changed. -/
structure Rewrites (s t : State) (k : Nat) (v : Word) : Prop where
  reads : specialReads t = (specialReads s).map (rewritten s.st k v)
  frame : ∃ c u sv h sd hd ds, t =
    { s with st := { s.st with ctl := c, u := u, s := sv, h := h, sdlg := sd, hdlg := hd }, dies := ds }

/-- What a write leaves depends on the class of the strand alone. -/
theorem writtenAs_congr {x y : Strand} (h : x.cls = y.cls) : writtenAs x = writtenAs y := by
  funext n v old
  simp only [writtenAs, h]

/-- Every number reads as the write says. -/
theorem Rewrites.specialValue {s t : State} {k : Nat} {v : Word} (h : Rewrites s t k v) (i : Nat) :
    specialValue t i = if i = k then (specialValue s i).map (writtenAs s.st i v) else specialValue s i := by
  unfold Claims.specialValue
  rw [h.reads, List.find?_map]
  change ((((specialReads s).find? (·.1 == i)).map (rewritten s.st k v)).map (·.2)) = _
  cases hf : (specialReads s).find? (·.1 == i) with
  | none => simp
  | some p =>
    have hp : p.1 = i := by simpa using List.find?_some hf
    subst hp
    by_cases hk : p.1 = k <;> simp [rewritten, hk]

/-- A word that fits n bits is not changed by a register of n bits. -/
theorem setWidth_setWidth_of_lt {n : Nat} {v : Word} (h : v.toNat < 2 ^ n) : (v.setWidth n).setWidth 64 = v := by
  apply BitVec.eq_of_toNat_eq
  simp [Nat.mod_eq_of_lt h, Nat.mod_eq_of_lt v.isLt]

/-- A masked part of a word reads back as the word under the mask. -/
theorem setWidth_and_setWidth {n : Nat} (v : Word) (m : BitVec n) : (v.setWidth n &&& m).setWidth 64 = v &&& m.setWidth 64 := by
  ext i hi
  by_cases hn : i < n
  · simp [hn, hi]
  · simp [BitVec.getLsbD_of_ge m i (by omega)]

/-- A write of smode replaces bit 2, la.trap. -/
theorem smode_laTrap (m : Mode) (la urg : Bool) (v : Word) :
    BitVec.ofNat 64 (m.code + 4 * (v.getLsbD 2).toNat + 8 * urg.toNat) =
      (BitVec.ofNat 64 (m.code + 4 * la.toNat + 8 * urg.toNat) &&& ~~~4) ||| (v &&& 4) := by
  have hv : v &&& 4 = if v.getLsbD 2 then 4 else 0 := BitVec.and_twoPow v 2
  rw [hv]
  generalize v.getLsbD 2 = b
  cases m <;> revert la urg b <;> decide

/-- The die's registers of a partition after a change of the strand, and of themselves. -/
@[simp] theorem dieRegs_modSt (s : State) (f : Strand → Strand) (d p : Nat) : (s.modSt f).dieRegs d p = s.dieRegs d p := rfl

@[simp] theorem dieRegs_modDieRegs (s : State) (d p : Nat) (f : DieRegs → DieRegs) :
    (s.modDieRegs d p f).dieRegs d p = f (s.dieRegs d p) := by
  unfold State.dieRegs State.die State.modDieRegs State.modDie
  rw [Assoc.getD_modify_same, Assoc.getD_modify_same]

/-- mts of the register of number k takes the value v, and writes it. -/
abbrev Puts (s : State) (k : Nat) (v : Word) : Prop := ∃ t, s.putSpecial k v = .ok t ∧ Rewrites s t k v

/-! mts of each register, with the condition on its value that the list of writes gives. -/

theorem putSpecial_shp (s : State) {v : Word} (h : v.toNat < 2 ^ 13 ∧ v.toNat % 256 ≠ 0) : Puts s 0x002 v :=
  ⟨_, if_neg (by omega), by simp [specialReads, ↓smode_eq, ↓lmode_eq, rewritten, writtenAs, setWidth_setWidth_of_lt h.1],
    _, _, _, _, _, _, _, rfl⟩

theorem putSpecial_fcr (s : State) {v : Word} (h : v.toNat < 2 ^ 15 ∧ v.toNat / 16 % 16 = 0 ∧ v.toNat % 8 ≤ 4) :
    Puts s 0x003 v :=
  ⟨_, if_neg (by omega), by simp [specialReads, ↓smode_eq, ↓lmode_eq, rewritten, writtenAs, setWidth_setWidth_of_lt h.1],
    _, _, _, _, _, _, _, rfl⟩

theorem putSpecial_smode (s : State) {v : Word}
    (h : v.toNat / 8 = (if s.st.ctl.urg then 1 else 0) ∧ v.toNat % 4 = s.st.ctl.priv.code) : Puts s 0x004 v := by
  have hu : v.toNat / 8 = s.st.ctl.urg.toNat := by rw [h.1]; cases s.st.ctl.urg <;> rfl
  refine ⟨_, if_neg (by omega), ?_, _, _, _, _, _, _, _, rfl⟩
  simpa [specialReads, ↓smode_eq, ↓lmode_eq, rewritten, writtenAs] using
    smode_laTrap s.st.ctl.priv s.st.ctl.laTrap s.st.ctl.urg v

theorem putSpecial_lmask (s : State) (v : Word) : Puts s 0x010 v := by
  have kept : (setG' s.st v).setWidth 64 = v &&& (if s.st.cls = .light then 0xFE else 0xFFFFFFFE) := by
    rw [setG', setWidth_and_setWidth]
    cases s.st.cls <;> rfl
  exact ⟨_, rfl, by simp [specialReads, ↓smode_eq, ↓lmode_eq, rewritten, writtenAs, kept], _, _, _, _, _, _, _, rfl⟩

theorem putSpecial_lvmask (s : State) (v : Word) : Puts s 0x011 v := by
  have kept : (v.setWidth 16 &&& vMask s.st.cls).setWidth 64 = if s.st.cls = .full then v &&& 0xFFFF else 0 := by
    rw [setWidth_and_setWidth]
    cases s.st.cls
    case full => rfl
    all_goals exact BitVec.and_zero
  exact ⟨_, rfl, by simp [specialReads, ↓smode_eq, ↓lmode_eq, rewritten, writtenAs, kept], _, _, _, _, _, _, _, rfl⟩

theorem putSpecial_lmode (s : State) {v : Word} (h : v.toNat ≤ 1) : Puts s 0x014 v := by
  refine ⟨_, if_neg (by omega), ?_, _, _, _, _, _, _, _, rfl⟩
  have bit : v = 0 ∨ v = 1 := by bv_omega
  obtain rfl | rfl := bit <;> simp [specialReads, ↓smode_eq, ↓lmode_eq, rewritten, writtenAs]

/-- The number of a level's first trap register (R352). -/
def trapNum : Mode → Nat
  | .user => 0x020
  | .supervisor => 0x100
  | .hypervisor => 0x200

/-- The trap registers of each level; a cause register takes 13 bits (R317). -/
theorem putSpecial_trapReg (s : State) (m : Mode) {i : Nat} (hi : i < 4) {v : Word} (h : i = 1 → v.toNat < 2 ^ 13) :
    Puts s (trapNum m + i) v := by
  have hp : ∀ r : TrapRegs, putTrap r i v = some (r.put i v) := fun r =>
    if_neg fun k => k.2 (Nat.div_eq_of_lt (h k.1))
  refine ⟨s.modSt (·.setTrapRegs m ((s.st.trapRegs m).put i v)), ?_, ?_, ?_⟩
  · cases m <;> interval_cases i <;> simp [State.putSpecial, trapNum, hp]
  · cases m <;> interval_cases i <;>
      simp [specialReads, ↓smode_eq, ↓lmode_eq, rewritten, writtenAs, trapNum, Strand.setTrapRegs, Strand.trapRegs,
        TrapRegs.put]
  · cases m <;> exact ⟨_, _, _, _, _, _, _, rfl⟩

/-- The delegation sets (R318). -/
theorem putSpecial_delegation (s : State) {k : Nat} (hk : k ∈ [0x104, 0x105, 0x106, 0x204, 0x205, 0x206]) (v : Word) :
    Puts s k v := by
  simp only [List.mem_cons, List.not_mem_nil, or_false] at hk
  obtain rfl | rfl | rfl | rfl | rfl | rfl := hk <;>
    exact ⟨_, rfl, by simp [specialReads, ↓smode_eq, ↓lmode_eq, rewritten, writtenAs, sdlgMask, hdlgMask],
      _, _, _, _, _, _, _, rfl⟩

/-- The registers of the die that take any value. -/
theorem putSpecial_dieReg (s : State) {k : Nat} (hk : k ∈ [0x109, 0x10A, 0x10B]) (v : Word) : Puts s k v := by
  simp only [List.mem_cons, List.not_mem_nil, or_false] at hk
  obtain rfl | rfl | rfl := hk <;>
    exact ⟨_, rfl, by simp [specialReads, ↓smode_eq, ↓lmode_eq, rewritten, writtenAs], _, _, _, _, _, _, _, rfl⟩

/-- The resume list: with no sid to take, nothing is posted to it (R354). -/
theorem putSpecial_srlist (s : State) (v : Word) (h : (s.dieRegs (dieOf s.st.core) s.st.pid).posts = []) : Puts s 0x108 v := by
  refine ⟨s.modDieRegs (dieOf s.st.core) s.st.pid fun r => { r with srlist := v }, ?_, ?_, _, _, _, _, _, _, _, rfl⟩
  · show Except.ok _ = _
    rw [h]; rfl
  · simp [specialReads, ↓smode_eq, ↓lmode_eq, rewritten, writtenAs]

/-- A write of a value that a register takes is done, and changes that register alone. -/
theorem putSpecial_rewrites (s : State) (v : Word) : ∀ p ∈ specialWrites s, p.2 v → Puts s p.1 v := by
  have trap (m : Mode) : Puts s (trapNum m) v ∧ (v.toNat < 2 ^ 13 → Puts s (trapNum m + 1) v) ∧
      Puts s (trapNum m + 2) v ∧ Puts s (trapNum m + 3) v :=
    ⟨putSpecial_trapReg s m (i := 0) (by decide) nofun, fun h => putSpecial_trapReg s m (by decide) fun _ => h,
      putSpecial_trapReg s m (by decide) nofun, putSpecial_trapReg s m (by decide) nofun⟩
  obtain ⟨u0, u1, u2, u3⟩ := trap .user
  obtain ⟨s0, s1, s2, s3⟩ := trap .supervisor
  obtain ⟨h0, h1, h2, h3⟩ := trap .hypervisor
  have dlg (k : Nat) (hk : k ∈ [0x104, 0x105, 0x106, 0x204, 0x205, 0x206]) := putSpecial_delegation s hk v
  have reg (k : Nat) (hk : k ∈ [0x109, 0x10A, 0x10B]) := putSpecial_dieReg s hk v
  simp only [List.forall_mem_cons, List.not_mem_nil, false_imp_iff, implies_true, and_true] at dlg reg
  obtain ⟨sdlg0, sdlg1, sdlg2, hdlg0, hdlg1, hdlg2⟩ := dlg
  obtain ⟨scring, ssave, spool⟩ := reg
  simp only [specialWrites, List.forall_mem_cons, List.not_mem_nil, false_imp_iff, implies_true, and_true, true_imp_iff]
  exact ⟨putSpecial_shp s, putSpecial_fcr s, putSpecial_smode s, putSpecial_lmask s v, putSpecial_lvmask s v, putSpecial_lmode s,
    u0, u1, u2, u3, s0, s1, s2, s3, sdlg0, sdlg1, sdlg2, putSpecial_srlist s v, scring, ssave, spool,
    h0, h1, h2, h3, hdlg0, hdlg1, hdlg2⟩

/-! ## mfs and mts -/

theorem exec_mfs (iv : BitVec 2) (d n m : BitVec 5) (sc : BitVec 4) (s : State) :
    exec (.mfs iv d n m sc) s = execMfs iv d n m sc s := rfl

theorem exec_mts (iv : BitVec 2) (d n m : BitVec 5) (sc : BitVec 4) (s : State) :
    exec (.mts iv d n m sc) s = execMts iv d n m sc s := rfl

/-- mfs writes the register's value to G[d] and nothing else. -/
theorem completesWhen_mfs (iv : BitVec 2) (d n m : BitVec 5) (sc : BitVec 4) (s : State) (v : Word) :
    CompletesWhen (.mfs iv d n m sc) (specialInfo (encode (.mfs iv d n m sc)) iv sc d n m) s
      (fun e => specialValue (flagsIn e (specialNum n m)) (specialNum n m) = some v)
      fun e t => ScalarEffect (flagsIn e (specialNum n m)) t d v e.nextPc := by
  refine completesWhen_of_guarded (exec_mfs ..) fun hv => ?_
  dsimp only
  rw [modSt_settleFlags, special_eq_some hv, ← nextPc_flagsIn]
  exact ⟨_, rfl, scalarEffect_retire _ d v⟩

/-- What mts leaves: the special register of number k with the value that it takes, every other one, and all else, as it was. -/
structure SpecialWritten (e t : State) (k : Nat) (v : Word) : Prop where
  g       : KeepsG (flagsIn e k) t
  vector  : VectorKept (flagsIn e k) t
  ended   : Ended (flagsIn e k) t e.nextPc
  bytes   : BytesKept e t
  poison  : t.poison = e.poison
  locks   : t.locks = e.locks
  cores   : t.cores = e.cores
  quads   : t.quads = e.quads
  hub     : t.hub = e.hub
  strands : t.strands = e.strands
  special : ∀ i, i ≠ 0 → specialValue t i =
    if i = k then (specialValue (flagsIn e k) i).map (writtenAs e.st i v) else specialValue (flagsIn e k) i

/-- The unit's end after a write of special register k. -/
theorem specialWritten_retire {e t : State} {k : Nat} {v : Word} (h : Rewrites (flagsIn e k) t k v) :
    SpecialWritten e t.retire k v := by
  obtain ⟨c, u, sv, hr, sd, hd, ds, rfl⟩ := h.frame
  have units := unitsKept_flagsIn e k
  exact {
    g := fun n => rfl
    vector := ⟨fun n => rfl, fun n => rfl, fun n => rfl⟩
    ended := ⟨nextPc_flagsIn e k, rfl, rfl, rfl⟩
    bytes := fun b => units.bytes b
    poison := units.poison
    locks := units.locks
    cores := units.cores
    quads := units.quads
    hub := units.hub
    strands := units.strands
    special := fun i hi => by
      rw [specialValue_retire _ hi, h.specialValue, writtenAs_congr (cls_flagsIn e k)] }

/-- mts writes the special register and nothing else. -/
theorem completesWhen_mts (iv : BitVec 2) (d n m : BitVec 5) (sc : BitVec 4) (s : State) :
    CompletesWhen (.mts iv d n m sc) (specialInfo (encode (.mts iv d n m sc)) iv sc d n m) s
      (fun e => ∃ p ∈ specialWrites (flagsIn e (specialNum n m)), p.1 = specialNum n m ∧
        p.2 ((flagsIn e (specialNum n m)).G d))
      fun e t => SpecialWritten e t (specialNum n m) ((flagsIn e (specialNum n m)).G d) := by
  refine completesWhen_of_guarded ((exec_mts ..).trans (execMts.eq_def ..)) fun ⟨p, hp, hk, hv⟩ => ?_
  obtain ⟨t, ht, hr⟩ := putSpecial_rewrites _ _ p hp hv
  rw [hk] at ht hr
  dsimp only
  rw [modSt_settleFlags, ht]
  exact ⟨_, rfl, specialWritten_retire hr⟩

/-- Settles O42: mfs reads what the list of special registers holds, and each register that mts can write is put alone. -/
theorem specialRegisterResult : Obligations.SpecialRegisterResult := by
  unfold Obligations.SpecialRegisterResult
  rintro iv d n m sc s _ rfl
  refine ⟨completesWhen_mfs iv d n m sc s, fun hpass hpre => ?_⟩
  obtain ⟨t, ht, w⟩ := completesWhen_mts iv d n m sc s hpass hpre
  exact ⟨t, ht, w.g, w.vector, w.ended, w.bytes, w.poison, w.locks, w.cores, w.quads, w.hub, w.strands, w.special⟩

/-! ## A hint word behind three others (R59, R69, log 49) -/

theorem exec_hintExtend (iv : BitVec 2) (d : BitVec 22) (s : State) :
    exec (.hintExtend iv d) s = hintWord (encode (.hintExtend iv d)) s := rfl

/-- A fourth hint word does not join the unit but ends it with a trap. -/
theorem hintWord_of_three_le {s : State} (h : 3 ≤ s.st.hints.length) (w : BitVec 32) :
    hintWord w s = .next (s.precise 0x03 (((misplaced [] (s.st.hints ++ [w])).getD w).setWidth 64)) :=
  if_neg (Nat.not_lt.mpr h)

/-- A strand with a handler for its traps and three extension hints issued, the most that a unit has. -/
def threeHints : State := { st := { live := true, hints := List.replicate 3 (Decode.wHintExtend 1 0), u := { vec := 0x80 } } }

/-- The handler of the strand begins without hint words. -/
theorem hints_precise_threeHints (v : Word) : (threeHints.precise 0x03 v).st.hints = [] := rfl

/-- Refutes O44: a hint word joins those before it only while they are fewer than three. Behind three, as in `threeHints`, it ends
the unit with the trap 0x03 (R59, log 49), which leaves no hint words, where the statement has four. -/
theorem not_unitChecks : ¬ Obligations.UnitChecks := by
  unfold Obligations.UnitChecks
  rintro ⟨-, -, -, joins, -⟩
  have joined := joins 1 0 threeHints (.hintExtend 1 0) List.mem_cons_self
  rw [exec_hintExtend, hintWord_of_three_le (by decide)] at joined
  have hints := congrArg (·.st.hints) (Host.Outcome.next.inj joined)
  dsimp only at hints
  rw [hints_precise_threeHints] at hints
  exact List.append_ne_nil_of_right_ne_nil _ (List.cons_ne_nil _ _) hints.symm

end Sys2Proof.Claims

/-!
Vector results (01 R12 to R14, 06 R101 to R104): the units that a fold over the shape leaves in a register, the checks of a vector
instruction, and what a write of V[d] with flags changes.
-/
namespace Sys2Proof.Machine

/-! ## Units of w bits, joined and read back -/

theorem elem_lt (data w i : Nat) : elem data w i < 2 ^ w := Nat.mod_lt _ (Nat.two_pow_pos w)

theorem elem_join_zero {w x : Nat} (hx : x < 2 ^ w) (r : Nat) : elem (x + 2 ^ w * r) w 0 = x := by
  simp [elem, Nat.mod_eq_of_lt hx]

theorem elem_join_succ {w x : Nat} (hx : x < 2 ^ w) (r i : Nat) : elem (x + 2 ^ w * r) w (i + 1) = elem r w i := by
  have shift : (x + 2 ^ w * r) / 2 ^ w = r := by
    rw [Nat.add_mul_div_left _ _ (Nat.two_pow_pos w), Nat.div_eq_of_lt hx, Nat.zero_add]
  rw [elem, elem, Nat.mul_succ, Nat.add_comm (w * i), Nat.pow_add, ← Nat.div_div_eq_div_mul, shift]

/-- Beyond its last unit a number has only zeros. -/
theorem elem_of_lt {x w n i : Nat} (hx : x < 2 ^ (w * n)) (hi : n ≤ i) : elem x w i = 0 := by
  have : x < 2 ^ (w * i) := hx.trans_le (Nat.pow_le_pow_right (by decide) (Nat.mul_le_mul_left w hi))
  rw [elem, Nat.div_eq_of_lt this, Nat.zero_mod]

/-! ## The fold over the units -/

section
variable (w : Nat) (act : Nat → Bool) (old : Nat) (f : Nat → Nat → Nat × Fl)

/-- The unit that stands first after a step of the fold. -/
def unitOf (i j : Nat) : Nat := if act i then (f i j).1 % 2 ^ w else elem old w i

theorem unitOf_lt (i j : Nat) : unitOf w act old f i j < 2 ^ w := by
  unfold unitOf
  split
  · exact Nat.mod_lt _ (Nat.two_pow_pos w)
  · exact elem_lt ..

theorem mapUnits_succ (n i j : Nat) : mapUnits w act old f (n + 1) i j =
    (unitOf w act old f i j + 2 ^ w * (mapUnits w act old f n (i + 1) (j + (act i).toNat)).1,
      (if act i then (f i j).2 else 0) ||| (mapUnits w act old f n (i + 1) (j + (act i).toNat)).2) := by
  cases h : act i <;> simp [mapUnits, unitOf, h]

theorem add_countActive_succ (n i j : Nat) : j + (act i).toNat + countActive act n (i + 1) = j + countActive act (n + 1) i := by
  cases h : act i <;> simp [countActive, h, Nat.add_assoc]

theorem mapUnits_lt (n i j : Nat) : (mapUnits w act old f n i j).1 < 2 ^ (w * n) := by
  induction n generalizing i j with
  | zero => simp [mapUnits]
  | succ n ih =>
    rw [mapUnits_succ, Nat.mul_succ, Nat.add_comm (w * n), Nat.pow_add]
    have hu := unitOf_lt w act old f i j
    have hr := ih (i + 1) (j + (act i).toNat)
    calc unitOf w act old f i j + 2 ^ w * _ < 2 ^ w * (_ + 1) := by rw [Nat.mul_succ]; omega
      _ ≤ 2 ^ w * 2 ^ (w * n) := Nat.mul_le_mul_left _ hr

/-- Unit u of the fold, with the number of active units before it. -/
theorem elem_mapUnits {n u : Nat} (hu : u < n) (i j : Nat) :
    elem (mapUnits w act old f n i j).1 w u = unitOf w act old f (i + u) (j + countActive act u i) := by
  induction n generalizing i j u with
  | zero => omega
  | succ n ih =>
    rw [mapUnits_succ]
    cases u with
    | zero => exact elem_join_zero (unitOf_lt ..) _
    | succ u =>
      rw [elem_join_succ (unitOf_lt ..), ih (by omega), add_countActive_succ, Nat.add_right_comm, Nat.add_assoc]

/-- A flag is raised by the fold where an active unit raises it. -/
theorem mapUnits_flag (n i j b : Nat) : (mapUnits w act old f n i j).2.getLsbD b = true ↔
    ∃ u, u < n ∧ act (i + u) = true ∧ (f (i + u) (j + countActive act u i)).2.getLsbD b = true := by
  induction n generalizing i j with
  | zero => simp [mapUnits]
  | succ n ih =>
    rw [mapUnits_succ, BitVec.getLsbD_or, Bool.or_eq_true, ih]
    have head : (if act i then (f i j).2 else 0).getLsbD b = true ↔ act i = true ∧ (f i j).2.getLsbD b = true := by
      cases act i <;> simp
    simp only [head, add_countActive_succ]
    constructor
    · rintro (h | ⟨u, hu, h⟩)
      · exact ⟨0, by omega, h⟩
      · exact ⟨u + 1, by omega, by rwa [← Nat.add_assoc, Nat.add_right_comm]⟩
    · rintro ⟨_ | u, hu, h⟩
      · exact .inl h
      · exact .inr ⟨u, by omega, by rwa [← Nat.add_assoc, Nat.add_right_comm] at h⟩

end

/-- The fold depends on the mask below n, and on the old bits of its other units, alone. -/
theorem mapUnits_congr {w old old' : Nat} {act act' : Nat → Bool} (f : Nat → Nat → Nat × Fl) (n i j : Nat)
    (ha : ∀ u, u < n → act (i + u) = act' (i + u))
    (ho : ∀ u, u < n → act (i + u) = false → elem old w (i + u) = elem old' w (i + u)) :
    mapUnits w act old f n i j = mapUnits w act' old' f n i j := by
  induction n generalizing i j with
  | zero => rfl
  | succ n ih =>
    have head : act i = act' i := ha 0 (by omega)
    have unit : unitOf w act old f i j = unitOf w act' old' f i j := by
      unfold unitOf
      rw [← head]
      cases h : act i
      · exact ho 0 (by omega) h
      · rfl
    rw [mapUnits_succ, mapUnits_succ, unit, head, ih]
    · intro u hu; simpa [Nat.add_assoc, Nat.add_comm 1] using ha (u + 1) (by omega)
    · intro u hu; simpa [Nat.add_assoc, Nat.add_comm 1] using ho (u + 1) (by omega)

/-- A count over the active units is the length of their list. -/
theorem countActive_eq_length (act : Nat → Bool) (n i : Nat) : countActive act n i = ((List.range' i n).filter act).length := by
  induction n generalizing i with
  | zero => rfl
  | succ n ih =>
    rw [countActive, ih, List.range'_succ, List.filter_cons]
    split <;> simp [Nat.add_comm]

/-! ## The data of a register -/

theorem toNat_ofNat_of_lt_pow {x k n : Nat} (hx : x < 2 ^ k) (hk : k ≤ n) : (BitVec.ofNat n x).toNat = x :=
  (BitVec.toNat_ofNat x n).trans (Nat.mod_eq_of_lt (hx.trans_le (Nat.pow_le_pow_right (by decide) hk)))

/-- A register made of at most 256 bytes holds their bits. -/
theorem toNat_mkVReg {data nb : Nat} (tag : BitVec 4) (scale : Word) (hb : nb ≤ 256) (hd : data < 2 ^ (8 * nb)) :
    (mkVReg data nb tag scale).data.toNat = data := by
  unfold mkVReg
  rw [Nat.mod_eq_of_lt hd]
  exact toNat_ofNat_of_lt_pow hd (by omega)

/-- Each format but int4 has units of a whole number of bytes, twice the half-bytes of its element size (R44). -/
theorem widthOf_eq_half {t : BitVec 4} (h : t ≠ 12) : widthOf t = 4 * Wf.tagHalf t := if_neg h

theorem eight_dvd_widthOf (t : BitVec 4) : 8 ∣ widthOf t := by revert t; decide

/-- The drawing of no output. -/
@[simp] theorem Strand.drew_zero (x : Strand) : x.drew 0 = x := by
  simp [Strand.drew, Strand.modCtl]

end Sys2Proof.Machine

namespace Sys2Proof.Claims
open Machine

theorem unitAt_eq_elem (r : VReg) (w i : Nat) : unitAt r w i = elem r.data.toNat w i := by
  simp [unitAt, elem, BitVec.extractLsb'_toNat, Nat.shiftRight_eq_div_pow]

theorem activeBelow_eq_countActive (m : BitVec 256) (i : Nat) : activeBelow m i = countActive m.getLsbD i 0 := by
  rw [countActive_eq_length, activeBelow, List.range_eq_range']

/-- The flags that a fold over the units of a mask raises. -/
theorem mapUnits_flag_mask (w n b : Nat) (m : BitVec 256) (old : Nat) (f : Nat → Nat → Nat × Fl) :
    (mapUnits w m.getLsbD old f n 0 0).2.getLsbD b = true ↔
      ∃ i, i < n ∧ m.getLsbD i = true ∧ (f i (activeBelow m i)).2.getLsbD b = true := by
  simp [mapUnits_flag, activeBelow_eq_countActive]

/-- The register that a fold over n units of w bits fills, those of whole bytes in all and no more than the register has. -/
theorem lanes_mkVReg {n w nb : Nat} (m : BitVec 256) (old : VReg) (tag : BitVec 4) (scale : Word) (f : Nat → Nat → Nat × Fl)
    (hw : 8 * nb = w * n) (hb : nb ≤ 256) :
    Lanes (mkVReg (mapUnits w m.getLsbD old.data.toNat f n 0 0).1 nb tag scale) old m tag scale n w f := by
  have hlt := mapUnits_lt w m.getLsbD old.data.toNat f n 0 0
  have data := toNat_mkVReg tag scale hb (hw ▸ hlt)
  have unit {i : Nat} (hi : i < n) := elem_mapUnits w m.getLsbD old.data.toNat f hi 0 0
  refine ⟨rfl, rfl, fun i hi ha => ?_, fun i hi ha => ?_, fun i hi => ?_⟩ <;> rw [unitAt_eq_elem, data]
  · rw [unit hi, activeBelow_eq_countActive]
    simp [unitOf, ha]
  · rw [unit hi, unitAt_eq_elem]
    simp [unitOf, ha]
  · exact elem_of_lt hlt hi

/-- The shape fits the registers at the element size of a format, and so do its units. -/
theorem bytes_of_fits {t : BitVec 4} {n : Nat} (h : n * Wf.tagHalf t ≤ 512) (ht : t ≠ 12) :
    8 * (n * widthOf t / 8) = widthOf t * n ∧ n * widthOf t / 8 ≤ 256 := by
  have whole : 8 ∣ n * widthOf t := (eight_dvd_widthOf t).mul_left n
  refine ⟨by rw [Nat.mul_div_cancel' whole, Nat.mul_comm], ?_⟩
  rw [widthOf_eq_half ht, Nat.mul_left_comm]
  omega

end Sys2Proof.Claims

/-!
What a vector instruction changes (06 R101 to R104): its checks, and a write of V[d] with sticky flags.
-/
namespace Sys2Proof.Claims
open Machine

/-! ## The checks of execution (R11, R14, R101) -/

theorem need_eq_none {e : State} {a : BitVec 4} {ok : List Nat} (h : tagOf e a ∈ ok) (h15 : tagOf e a ≠ 15) :
    e.st.need a ok = none := by
  unfold tagOf at h h15
  simp [Strand.need, h, h15]

theorem same_eq_none {e : State} {a b : BitVec 4} (h : tagOf e b = tagOf e a) (h15 : tagOf e a ≠ 15) : e.st.same b a = none :=
  need_eq_none (List.mem_singleton.mpr h) (h ▸ h15)

theorem fits_eq_none {e : State} {half : Nat} (h : Fits e half) : e.st.fits half = none := if_pos h

/-- A vector instruction completes where its checks of execution pass too, and its effect ends in a next state. -/
theorem completesWhen_of_vguard {i : Instr} {inf : Info} {s : State} {pre : State → Prop} {effect : State → State → Prop}
    {checks : Strand → List Check} {body : State → Out} (hx : exec i s = vguard inf checks s body)
    (hb : ∀ e, e = entry inf s → pre e → (∀ c ∈ checks e.st, c = none) ∧ ∃ t, body e = .next t ∧ effect e t) :
    CompletesWhen i inf s pre effect := by
  refine completesWhen_of_guarded (hx.trans (vguard.eq_def ..)) fun hp => ?_
  obtain ⟨hc, t, ht, he⟩ := hb _ rfl hp
  have pass : (checks (entry inf s).st).findSome? id = none := List.findSome?_eq_none_iff.mpr hc
  exact ⟨t, by simpa only [pass] using ht, he⟩

/-! ## A write of V[d] with flags -/

/-- A sticky bit of fcr (R17). -/
theorem getLsbD_fcrBits (fl : Fl) (j : Nat) : (fcrBits fl).getLsbD j = (decide (8 ≤ j ∧ j < 15) && fl.getLsbD (j - 8)) := by
  rw [fcrBits, BitVec.getLsbD_shiftLeft, BitVec.getLsbD_setWidth]
  by_cases h8 : 8 ≤ j <;> by_cases h15 : j < 15 <;> simp [h8, h15, Nat.not_lt.mpr, Nat.lt_of_not_le]
  all_goals omega

/-- fl holds the flags that the active ones among n units raise. -/
def Gathers (fl : Fl) (m : BitVec 256) (n : Nat) (f : Nat → Nat → Nat × Fl) : Prop :=
  ∀ b, fl.getLsbD b = true ↔ ∃ i, i < n ∧ m.getLsbD i = true ∧ (f i (activeBelow m i)).2.getLsbD b = true

/-- No unit raises a flag. -/
theorem gathers_zero {m : BitVec 256} {n : Nat} {f : Nat → Nat → Nat × Fl} (h : ∀ i j, (f i j).2 = 0) : Gathers 0 m n f := by
  simp [Gathers, h]

/-- The bits of fcr that they are. -/
theorem Gathers.fcrBits {fl : Fl} {m : BitVec 256} {n : Nat} {f : Nat → Nat → Nat × Fl} (h : Gathers fl m n f) (j : Nat) :
    (fcrBits fl).getLsbD j = decide (8 ≤ j ∧ j < 15 ∧ ∃ i, i < n ∧ m.getLsbD i = true ∧
      (f i (activeBelow m i)).2.getLsbD (j - 8) = true) := by
  rw [getLsbD_fcrBits, Bool.eq_iff_iff, Bool.and_eq_true, decide_eq_true_iff, decide_eq_true_iff, h, and_assoc]

/-- The state in which a unit ends that has drawn from the generator and written V[d] and flags. -/
def vwritten (e : State) (draws : Nat) (d : BitVec 4) (r : VReg) (fl : Fl) : State :=
  ((e.modSt (·.drew draws)).modSt fun x => (x.setV d r).raise fl).retire

theorem vwrite_drew (e : State) (draws : Nat) (d : BitVec 4) (r : VReg × Fl) :
    (e.modSt (·.drew draws)).vwrite d r = .next (vwritten e draws d r.1 r.2) := rfl

theorem vwrite_eq (e : State) (d : BitVec 4) (r : VReg × Fl) : e.vwrite d r = .next (vwritten e 0 d r.1 r.2) := by
  simp only [← vwrite_drew, Strand.drew_zero]
  rfl

section
variable (e : State) (draws : Nat) (d : BitVec 4) (r : VReg) (fl : Fl)

theorem vwritten_V (i : BitVec 4) : (vwritten e draws d r fl).st.V i = if i = d then r else e.st.V i :=
  Strand.V_setV e.st d i r

theorem vwritten_G (n : BitVec 5) : (vwritten e draws d r fl).G n = e.G n := rfl
theorem vwritten_K (n : BitVec 3) : (vwritten e draws d r fl).st.K n = e.st.K n := rfl
theorem vwritten_Q (n : BitVec 3) : (vwritten e draws d r fl).st.Q n = e.st.Q n := rfl

theorem vwritten_ctl : (vwritten e draws d r fl).st.ctl =
    { e.st.ctl with fcr := e.st.ctl.fcr ||| fcrBits fl, gen := e.st.ctl.gen + BitVec.ofNat 64 draws } := rfl

theorem vwritten_units : UnitsKept e (vwritten e draws d r fl) := by constructor <;> intros <;> rfl

theorem vwritten_ended : Ended e (vwritten e draws d r fl) e.nextPc := by constructor <;> rfl

/-- The whole effect of a vector instruction whose result register and flags are those of its units. -/
theorem vectorEffect_vwritten {m : BitVec 256} {tag : BitVec 4} {scale : Word} {n w : Nat} {f : Nat → Nat → Nat × Fl}
    (hr : Lanes r (e.st.V d) m tag scale n w f) (hf : Gathers fl m n f) :
    VectorEffect e (vwritten e draws d r fl) d m tag scale n w f draws where
  lanes := by rwa [vwritten_V, if_pos rfl]
  others := fun i hi => by rw [vwritten_V, if_neg hi]
  g := vwritten_G e draws d r fl
  k := vwritten_K e draws d r fl
  q := vwritten_Q e draws d r fl
  flags := ⟨fun j => by rw [vwritten_ctl, BitVec.getLsbD_or, hf.fcrBits], rfl, rfl, rfl, rfl, rfl, rfl⟩
  units := vwritten_units e draws d r fl
  ended := vwritten_ended e draws d r fl

/-- Of all registers it writes V[d] alone. -/
theorem onlyV_vwritten : OnlyV e (vwritten e 0 d r fl) d where
  v := fun i hi => by rw [vwritten_V, if_neg hi]
  k := vwritten_K e 0 d r fl
  q := vwritten_Q e 0 d r fl
  g := vwritten_G e 0 d r fl
  ctl := by rw [vwritten_ctl, BitVec.add_zero]
  trap := ⟨rfl, rfl, rfl, rfl, rfl⟩
  units := vwritten_units e 0 d r fl
  ended := vwritten_ended e 0 d r fl

/-- Without flags fcr stays as it is. -/
theorem vwritten_fcr_zero : (vwritten e draws d r 0).st.ctl.fcr = e.st.ctl.fcr := BitVec.or_zero

end

/-! ## Results over the units of the shape -/

/-- The register of a result over the shape in the format t. -/
theorem lanes_result {e : State} {t : BitVec 4} (d : BitVec 4) (k : BitVec 3) (scale : Word) (f : Nat → Nat → Nat × Fl)
    (ht : t ≠ 12) (h : Fits e (Wf.tagHalf t)) :
    Lanes (e.st.result d k t scale f).1 (e.st.V d) (e.st.K k) t scale (unitsOf t (e.st.rows * e.st.cols)) (widthOf t) f := by
  have units : unitsOf t (e.st.rows * e.st.cols) = e.st.rows * e.st.cols := if_neg ht
  obtain ⟨whole, room⟩ := bytes_of_fits h ht
  rw [units]
  unfold Strand.result
  rw [show e.st.elems = e.st.rows * e.st.cols from rfl, units]
  exact lanes_mkVReg _ _ t scale f whole room

/-- Its flags. -/
theorem gathers_result (x : Strand) (d : BitVec 4) (k : BitVec 3) (t : BitVec 4) (scale : Word) (f : Nat → Nat → Nat × Fl) :
    Gathers (x.result d k t scale f).2 (x.K k) (unitsOf t (x.rows * x.cols)) f :=
  fun b => mapUnits_flag_mask _ _ b _ _ f

/-- The active units below the size of the shape are as many as the generator gives outputs. -/
theorem countActive_active (x : Strand) (k : BitVec 3) (n : Nat) : countActive (x.active k) n 0 = activeBelow (x.K k) n :=
  (activeBelow_eq_countActive ..).symm

end Sys2Proof.Claims

/-!
Random fill, tags and masks (06 R123, R124).
-/
namespace Sys2Proof.Claims
open Machine

/-! ## vrand and tags (R58, R123) -/

theorem exec_vrand (iv : BitVec 2) (d : BitVec 4) (k : BitVec 3) (sc : BitVec 4) (s : State) :
    exec (.vrand iv d k sc) s = execVrand iv d k sc s := rfl

theorem completesWhen_vrand (iv : BitVec 2) (d : BitVec 4) (k : BitVec 3) (sc : BitVec 4) (s : State) :
    CompletesWhen (.vrand iv d k sc) (infoR (encode (.vrand iv d k sc)) iv sc (vs [d] ++ ks [k])) s
      (fun e => Ready e d [0, 1, 2, 3, 4, 5, 6, 7, 8, 9, 10, 13, 14])
      fun e t => VectorEffect e t d (e.st.K k) (e.st.V d).tag (e.st.V d).scale (e.st.rows * e.st.cols) (widthIn e d)
        (fun _ j => ((e.st.output j).toNat, 0)) (activeBelow (e.st.K k) (e.st.rows * e.st.cols)) := by
  refine completesWhen_of_vguard ((exec_vrand ..).trans (execVrand.eq_def ..)) fun e _ ⟨htag, h15, hfit⟩ => ⟨?_, ?_⟩
  · simpa using ⟨need_eq_none htag h15, fits_eq_none hfit⟩
  · have ht : (e.st.V d).tag ≠ 12 := fun h => by simp [tagOf, h] at htag
    have units : unitsOf (e.st.V d).tag (e.st.rows * e.st.cols) = e.st.rows * e.st.cols := if_neg ht
    have lanes := lanes_result d k (e.st.V d).scale (fun _ j => ((e.st.output j).toNat, 0)) ht hfit
    have flags := gathers_result e.st d k (e.st.V d).tag (e.st.V d).scale (fun _ j => ((e.st.output j).toNat, 0))
    rw [units] at lanes flags
    rw [← countActive_active]
    exact ⟨_, vwrite_drew .., vectorEffect_vwritten e _ d _ _ lanes flags⟩

theorem mem_tAny {e : State} {a : BitVec 4} (h15 : tagOf e a ≠ 15) : tagOf e a ∈ tAny := by
  unfold tagOf at *
  revert h15
  generalize (e.st.V a).tag = t
  revert t
  decide

theorem exec_vtagSet (iv : BitVec 2) (d a tg sc : BitVec 4) (s : State) :
    exec (.vtagSet iv d a tg sc) s = execVtagSet iv d a tg sc s := rfl

theorem completesWhen_vtagSet (iv : BitVec 2) (d a tg sc : BitVec 4) (s : State) :
    CompletesWhen (.vtagSet iv d a tg sc) ((infoR (encode (.vtagSet iv d a tg sc)) iv sc (vs [d, a])).need (tg != 15)) s
      (fun e => tagOf e a ≠ 15)
      fun e t => t.st.V d = ⟨(e.st.V a).data, tg, (e.st.V a).scale⟩ ∧ OnlyV e t d ∧ t.st.ctl.fcr = e.st.ctl.fcr := by
  refine completesWhen_of_vguard ((exec_vtagSet ..).trans (execVtagSet.eq_def ..)) fun e _ h15 => ⟨?_, ?_⟩
  · simpa using need_eq_none (mem_tAny h15) h15
  · exact ⟨_, vwrite_eq .., by rw [vwritten_V, if_pos rfl]; rfl, onlyV_vwritten .., vwritten_fcr_zero ..⟩

theorem exec_vtagGet (iv : BitVec 2) (d a : BitVec 4) (l : BitVec 1) (k : BitVec 3) (sc : BitVec 4) (s : State) :
    exec (.vtagGet iv d a l k sc) s = execVtagGet iv d a l k sc s := rfl

theorem completesWhen_vtagGet (iv : BitVec 2) (d a : BitVec 4) (l : BitVec 1) (k : BitVec 3) (sc : BitVec 4) (s : State) :
    CompletesWhen (.vtagGet iv d a l k sc)
      ((infoR (encode (.vtagGet iv d a l k sc)) iv sc (gs [d.setWidth 5] ++ vs [a])).need (k == 0)) s (fun e => tagOf e a ≠ 15)
      fun e t => ScalarEffect e t (d.setWidth 5) (if l = 0 then (e.st.V a).tag.setWidth 64 else (e.st.V a).scale) e.nextPc := by
  refine completesWhen_of_vguard ((exec_vtagGet ..).trans (execVtagGet.eq_def ..)) fun e _ h15 => ⟨?_, ?_⟩
  · simpa using need_eq_none (mem_tAny h15) h15
  · exact ⟨_, rfl, scalarEffect_retire ..⟩

/-! ## Mask operations (R124) -/

/-- A unit that writes K[d] and goes on. -/
theorem maskEffect_setK (e : State) (d : BitVec 3) (m : BitVec 256) : MaskEffect e (e.modSt fun x => x.setK d m).retire d m where
  k := fun i => by
    refine (Strand.K_congr (y := e.st.setK d m) rfl i).trans ?_
    rw [Strand.K_setK]
    by_cases h0 : i = 0
    · subst h0
      by_cases hd : d = 0
      · subst hd; rfl
      · rw [if_neg (Ne.symm hd)]; rfl
    · by_cases hi : i = d
      · subst hi; rw [if_pos rfl, if_neg h0, if_neg h0, if_pos rfl]
      · rw [if_neg hi, if_neg h0, if_neg hi]
  v := fun i => Strand.V_congr (by simp [State.retire, State.retireTo]) i
  q := fun i => Strand.Q_congr (by simp [State.retire, State.retireTo]) i
  g := fun i => Strand.G_congr (by simp [State.retire, State.retireTo]) i
  special := by constructor <;> simp [State.retire, State.retireTo]
  units := by constructor <;> simp [State.retire]
  ended := by constructor <;> simp [State.retire, State.retireTo, State.nextPc, Strand.unitLen]

theorem completes_maskWrite {i : Instr} {iv : BitVec 2} {d : BitVec 3} {sc : BitVec 4} (srcs : List (BitVec 3))
    (f : Strand → BitVec 256) (hx : ∀ s, exec i s = maskWrite (encode i) iv d sc srcs f s) (s : State) :
    Completes i (infoR (encode i) iv sc (ks (d :: srcs))) s fun e t => MaskEffect e t d (f e.st) :=
  completes_of_guarded (hx s) ⟨_, rfl, maskEffect_setK ..⟩

/-- The mask of the low count bits, the count held minus one in two nibbles. -/
theorem mask_of_count (h l : BitVec 4) :
    BitVec.ofNat 256 (2 ^ (16 * h.toNat + l.toNat + 1) - 1) = BitVec.allOnes 256 >>> (255 - (h ++ l).toNat) := by
  have count : (h ++ l).toNat = 16 * h.toNat + l.toNat := by
    rw [BitVec.toNat_append, ← Nat.shiftLeft_add_eq_or_of_lt l.isLt, Nat.shiftLeft_eq, Nat.mul_comm]
  have hh := h.isLt
  have hl := l.isLt
  rw [count]
  ext i hi
  rw [← BitVec.getLsbD_eq_getElem, BitVec.getLsbD_ofNat, Nat.testBit_two_pow_sub_one, BitVec.getElem_ushiftRight,
    BitVec.getLsbD_allOnes, decide_eq_true hi, Bool.true_and,
    decide_eq_decide]
  omega

theorem completes_maskOps (iv : BitVec 2) (d a b : BitVec 3) (h l sc : BitVec 4) (s : State) :
    ∀ p ∈ maskOps iv d a b h l sc, Completes p.1 (infoR (encode p.1) iv sc (ks p.2.1)) s fun e t =>
      MaskEffect e t d (p.2.2 e) := by
  have kset := completes_maskWrite (i := .kset iv d h l sc) [] _ (fun _ => rfl) s
  simp only [mask_of_count] at kset
  simp only [maskOps, List.forall_mem_cons, List.not_mem_nil, false_imp_iff, implies_true, and_true]
  exact ⟨completes_maskWrite [a, b] (fun x => x.K a &&& x.K b) (fun _ => rfl) s,
    completes_maskWrite [a, b] (fun x => x.K a ||| x.K b) (fun _ => rfl) s,
    completes_maskWrite [a, b] (fun x => x.K a ^^^ x.K b) (fun _ => rfl) s,
    completes_maskWrite [a] (fun x => ~~~x.K a) (fun _ => rfl) s,
    completes_maskWrite [a] (fun x => x.K a) (fun _ => rfl) s, kset⟩

theorem completes_maskCount {i : Instr} {inf : Info} {d : BitVec 4} {a : BitVec 3} {f g : List Bool → Nat} (hfg : ∀ l, f l = g l)
    (hx : ∀ s, exec i s = maskCount inf d a f s) (s : State) : Completes i inf s fun e t =>
      ScalarEffect e t (d.setWidth 5) (BitVec.ofNat 64 (g ((List.range (e.st.rows * e.st.cols)).map (e.st.K a).getLsbD))) e.nextPc :=
  completes_of_guarded (hx s) ⟨_, rfl, by rw [← hfg]; exact scalarEffect_retire ..⟩

theorem exec_kpop (iv : BitVec 2) (d : BitVec 4) (a : BitVec 3) (sc : BitVec 4) (s : State) :
    exec (.kpop iv d a sc) s = maskCount (infoR (encode (.kpop iv d a sc)) iv sc (gs [d.setWidth 5] ++ ks [a])) d a
      (fun l => (l.filter id).length) s := rfl

theorem exec_kany (iv : BitVec 2) (d : BitVec 4) (a : BitVec 3) (b sc : BitVec 4) (s : State) :
    exec (.kany iv d a b sc) s = maskCount ((infoR (encode (.kany iv d a b sc)) iv sc (gs [d.setWidth 5] ++ ks [a])).need (b == 0))
      d a (fun l => if l.any id then 1 else 0) s := rfl

theorem exec_kall (iv : BitVec 2) (d : BitVec 4) (a : BitVec 3) (b sc : BitVec 4) (s : State) :
    exec (.kall iv d a b sc) s = maskCount ((infoR (encode (.kall iv d a b sc)) iv sc (gs [d.setWidth 5] ++ ks [a])).need (b == 0))
      d a (fun l => if l.all id then 1 else 0) s := rfl

theorem completes_maskCounts (iv : BitVec 2) (d : BitVec 4) (a : BitVec 3) (b sc : BitVec 4) (s : State) :
    ∀ p ∈ maskCounts iv d a b sc, Completes p.1 ((infoR (encode p.1) iv sc (gs [d.setWidth 5] ++ ks [a])).need p.2.1) s fun e t =>
      ScalarEffect e t (d.setWidth 5)
        (BitVec.ofNat 64 (p.2.2 ((List.range (e.st.rows * e.st.cols)).map (e.st.K a).getLsbD))) e.nextPc := by
  have kpop := completes_maskCount (i := .kpop iv d a sc) (a := a) (g := fun l => l.count true)
    (fun l => by simp [List.count, List.countP_eq_length_filter, Function.id_def]) (exec_kpop iv d a sc) s
  have kany := completes_maskCount (i := .kany iv d a b sc) (a := a) (g := fun l => if true ∈ l then 1 else 0)
    (fun l => by simp) (exec_kany iv d a b sc) s
  have kall := completes_maskCount (i := .kall iv d a b sc) (a := a) (g := fun l => if false ∈ l then 0 else 1)
    (fun l => by simp) (exec_kall iv d a b sc) s
  have need_true (inf : Info) : inf.need true = inf := by simp [Info.need]
  simp only [maskCounts, List.forall_mem_cons, List.not_mem_nil, false_imp_iff, implies_true, and_true, need_true]
  exact ⟨kpop, kany, kall⟩

/-- Settles O31: each form through the shape of meaning that it has. -/
theorem vectorMiscResult : Obligations.VectorMiscResult := by
  unfold Obligations.VectorMiscResult
  exact fun iv d a tg k sc s => ⟨completesWhen_vrand iv d k sc s, completesWhen_vtagSet iv d a tg sc s,
    fun l k0 => completesWhen_vtagGet iv d a l k0 sc s, fun kd ka kb h l => completes_maskOps iv kd ka kb h l sc s,
    fun ka b => completes_maskCounts iv d ka b sc s⟩

end Sys2Proof.Claims

/-!
Special functions and division (03 R55, 06 R115).
-/
namespace Sys2Proof.Claims
open Machine

/-- A vector of a format of class F takes no scale field (R101). -/
theorem keepScale_eq_zero {r : VReg} (h : r.tag.toNat ∈ [7, 8, 9]) : keepScale r = 0 :=
  if_neg fun h' => by rcases h' with h' | h' <;> simp [h'] at h

/-- Neither is it an int4 vector. -/
theorem tag_ne_int4 {r : VReg} (h : r.tag.toNat ∈ [7, 8, 9]) : r.tag ≠ 12 := fun h' => by simp [h'] at h

/-- A unit that ends with V[d] and flags outstanding, those of an operation on the units of V[a], V[b] and V[d]. -/
theorem vectorOutstanding_lanes {e : State} {inf : Info} {d a : BitVec 4} {k : BitVec 3} {b : Nat → Nat} {op : Nat → Nat → Nat → Nat × Fl}
    {f : Nat → Nat × Fl} (h : Ready e a [7, 8, 9])
    (hf : ∀ i, op (unitAt (e.st.V a) (widthIn e a) i) (b i) (elem (e.st.V d).data.toNat (widthIn e a) i) = f i) :
    VectorOutstanding e (e.retireLL inf (vs [d]) [.v d (e.st.lanes d a k b op).1, .fcr (fcrBits (e.st.lanes d a k b op).2)]) inf d
      (e.st.K k) (e.st.V a).tag 0 (unitsIn e a) (widthIn e a) fun i _ => f i := by
  obtain ⟨htag, -, hfit⟩ := h
  have ops : (fun i (_ : Nat) => op (elem (e.st.V a).data.toNat (widthOf (e.st.V a).tag) i) (b i)
      (elem (e.st.V d).data.toNat (widthOf (e.st.V a).tag) i)) = fun i _ => f i := by
    funext i _
    rw [← hf, unitAt_eq_elem, widthIn]
  have result : e.st.lanes d a k b op = e.st.result d k (e.st.V a).tag 0 fun i _ => f i := by
    rw [Strand.lanes, ops, keepScale_eq_zero htag]
  rw [result]
  exact {
    result := ⟨_, _, lanes_result d k 0 _ (tag_ne_int4 htag) hfit, Gathers.fcrBits (gathers_result e.st d k _ 0 _), rfl⟩
    g := (outstanding_retireLL ..).g
    vector := (outstanding_retireLL ..).vector
    special := (outstanding_retireLL ..).special
    units := unitsKept_retireLL ..
    pc := rfl }

/-- A special function of one operand. -/
theorem completesWhen_special1 {i : Instr} {iv : BitVec 2} {d a : BitVec 4} {k : BitVec 3} {sc : BitVec 4}
    (f : Machine.Num → Machine.Num × Fl) (fmt : Fmt) (hx : ∀ s, exec i s = special1 (encode i) iv d a k sc f s) (s : State) :
    CompletesWhen i (infoLL (encode i) iv sc (vs [d, a] ++ ks [k])) s
      (fun e => Ready e a [7, 8, 9] ∧ Fmt.ofTag (e.st.V a).tag = some fmt)
      fun e t => VectorOutstanding e t (infoLL (encode i) iv sc (vs [d, a] ++ ks [k])) d (e.st.K k) (e.st.V a).tag 0
        (unitsIn e a) (widthIn e a) fun i _ =>
          fmt.finish .ne e.st.fz (f (fmt.decode e.st.fz (unitAt (e.st.V a) (widthIn e a) i))) := by
  refine completesWhen_of_vguard ((hx s).trans (special1.eq_def ..)) fun e _ ⟨ready, hfmt⟩ => ⟨?_, ?_⟩
  · obtain ⟨htag, h15, hfit⟩ := ready
    simpa using ⟨need_eq_none htag h15, fits_eq_none hfit⟩
  · dsimp only
    rw [hfmt]
    exact ⟨_, rfl, vectorOutstanding_lanes ready fun _ => rfl⟩

theorem exec_vdiv (iv : BitVec 2) (d a b : BitVec 4) (k : BitVec 3) (sc : BitVec 4) (s : State) :
    exec (.vdiv iv d a b k sc) s = execVdiv iv d a b k sc s := rfl

theorem completesWhen_vdiv (iv : BitVec 2) (d a b : BitVec 4) (k : BitVec 3) (sc : BitVec 4) (fmt : Fmt) (s : State) :
    CompletesWhen (.vdiv iv d a b k sc) (infoLL (encode (.vdiv iv d a b k sc)) iv sc (vs [d, a, b] ++ ks [k])) s
      (fun e => Ready e a [7, 8, 9] ∧ tagOf e b = tagOf e a ∧ Fmt.ofTag (e.st.V a).tag = some fmt)
      fun e t => VectorOutstanding e t (infoLL (encode (.vdiv iv d a b k sc)) iv sc (vs [d, a, b] ++ ks [k])) d (e.st.K k)
        (e.st.V a).tag 0 (unitsIn e a) (widthIn e a) fun i _ =>
          fmt.finish .ne e.st.fz (divNum (fmt.decode e.st.fz (unitAt (e.st.V a) (widthIn e a) i))
            (fmt.decode e.st.fz (unitAt (e.st.V b) (widthIn e a) i))) := by
  refine completesWhen_of_vguard ((exec_vdiv ..).trans (execVdiv.eq_def ..)) fun e _ ⟨ready, hsame, hfmt⟩ => ⟨?_, ?_⟩
  · obtain ⟨htag, h15, hfit⟩ := ready
    simpa using ⟨need_eq_none htag h15, same_eq_none hsame h15, fits_eq_none hfit⟩
  · dsimp only
    rw [hfmt]
    refine ⟨_, rfl, vectorOutstanding_lanes ready fun i => ?_⟩
    rw [unitAt_eq_elem (e.st.V b), Strand.lane, widthIn]
    rfl

/-- Settles O28: the functions of one operand share one shape, and vdiv is the other. -/
theorem specialFunctionResult : Obligations.SpecialFunctionResult := by
  unfold Obligations.SpecialFunctionResult
  intro iv d a b k sc s fmt _
  refine ⟨?_, completesWhen_vdiv iv d a b k sc fmt s⟩
  simp only [specials, List.forall_mem_cons, List.not_mem_nil, false_imp_iff, implies_true, and_true]
  exact ⟨completesWhen_special1 rcpNum fmt (fun _ => rfl) s, completesWhen_special1 rsqNum fmt (fun _ => rfl) s,
    completesWhen_special1 sqrtNum fmt (fun _ => rfl) s, completesWhen_special1 exp2Num fmt (fun _ => rfl) s,
    completesWhen_special1 log2Num fmt (fun _ => rfl) s, completesWhen_special1 sinpiNum fmt (fun _ => rfl) s,
    completesWhen_special1 cospiNum fmt (fun _ => rfl) s, completesWhen_special1 tanhNum fmt (fun _ => rfl) s⟩

end Sys2Proof.Claims

/-!
Integer elements (03 R45, 06 R106, R112).
-/
namespace Sys2Proof.Claims
open Machine

/-- An integer tag is no other kind of tag, and its width is 8, 16, 32 or 64 bits (R44). -/
theorem integer_tag {t : BitVec 4} (h : t.toNat ∈ [1, 2, 3, 4]) :
    t ≠ 10 ∧ isB t = false ∧ isI t = true ∧ Fmt.ofTag t = none ∧ widthOf t = 4 * 2 ^ t.toNat := by
  revert t
  decide

theorem wrap_eq (w : Nat) (x : Int) : wrap w x = (x % 2 ^ w).toNat := by simp [wrap]

theorem arithElem_integer {t : BitVec 4} (h : t.toNat ∈ [1, 2, 3, 4]) (signed sat : Bool) (rm : RM) (fz : Bool) (fi : IntOp)
    (ff : FloatOp) (a b d : Nat) : arithElem t signed sat rm fz fi ff a b d =
      intResult sat signed (4 * 2 ^ t.toNat) (fi (asInt signed (4 * 2 ^ t.toNat) a) (asInt signed (4 * 2 ^ t.toNat) b)
        (asInt signed (4 * 2 ^ t.toNat) d)) := by
  obtain ⟨h10, -, -, hfmt, hw⟩ := integer_tag h
  simp only [arithElem, if_neg h10, hfmt, hw]

theorem loOf_le_hiOf (signed : Bool) (w : Nat) : loOf signed w ≤ hiOf signed w := by
  have h (n : Nat) : 1 ≤ 2 ^ n := Nat.one_le_two_pow
  have := h w
  have := h (w - 1)
  cases signed <;> simp only [loOf, hiOf, if_true, if_false, Bool.false_eq_true] <;> omega

/-- Clamping gives the nearest value of the range, and the flag where that is another. -/
theorem clampTo_eq (signed : Bool) (w : Nat) (x : Int) : clampTo signed w x =
    (wrap w (max (loOf signed w) (min (hiOf signed w) x)), if loOf signed w ≤ x ∧ x ≤ hiOf signed w then 0 else Fl.sat) := by
  have order := loOf_le_hiOf signed w
  unfold clampTo
  split
  next h => rw [if_neg (by omega), min_eq_right (by omega), max_eq_left (by omega)]
  next h =>
    split
    next h' => rw [if_neg (by omega), min_eq_left (by omega), max_eq_right order]
    next h' => rw [if_pos (by omega), min_eq_right (by omega), max_eq_right (by omega)]

/-- The integer that w bits stand for, signed and unsigned (R45). -/
theorem asInt_signed (w b : Nat) (hw : 0 < w) : asInt true w b = (BitVec.ofNat w b).toInt := by
  obtain ⟨w, rfl⟩ : ∃ n, w = n + 1 := ⟨w - 1, by omega⟩
  have half : 2 ^ w ≤ b % 2 ^ (w + 1) ↔ ¬ 2 * (b % 2 ^ (w + 1)) < 2 ^ (w + 1) := by rw [pow_succ]; omega
  rw [BitVec.toInt_eq_toNat_cond, BitVec.toNat_ofNat]
  by_cases h : 2 * (b % 2 ^ (w + 1)) < 2 ^ (w + 1)
  · simp [asInt, half, h]
  · simp [asInt, half, h]

theorem asInt_unsigned (w b : Nat) : asInt false w b = ((b % 2 ^ w : Nat) : Int) := rfl

/-- Conversions between integers (R112). -/
theorem cvtElem_integer (x : Strand) {f t : BitVec 4} (scale : Word) (signed : Bool) (i j b : Nat)
    (hf : f.toNat ∈ [1, 2, 3, 4]) (ht : t.toNat ∈ [1, 2, 3, 4]) :
    cvtElem x f t scale signed i j b = (wrap (4 * 2 ^ t.toNat) (asInt signed (4 * 2 ^ f.toNat) b), 0) := by
  obtain ⟨hf10, hfB, -, hfmt, hfw⟩ := integer_tag hf
  obtain ⟨ht10, -, htI, -, htw⟩ := integer_tag ht
  simp only [cvtElem, if_neg hf10, if_neg ht10, hfB, hfmt, htI, hfw, htw, if_true, Bool.false_eq_true, if_false]

/-- Settles O21: the model's wrapping, clamping and conversion are those of the exact integer. -/
theorem integerElement : Obligations.IntegerElement := by
  unfold Obligations.IntegerElement
  refine ⟨fun t signed sat rm fz fi ff a b d w x ht hw hx => ?_, fun x f t scale signed i j b hf ht => ?_⟩
  · subst hw hx
    rw [arithElem_integer ht]
    refine ⟨fun hs => ?_, fun hs => ?_⟩
    · subst hs
      exact congrArg (·, (0 : Fl)) (wrap_eq ..)
    · subst hs
      rw [intResult, if_pos rfl, clampTo_eq, wrap_eq]
      cases signed <;> simp [loOf, hiOf]
  · rw [cvtElem_integer x scale signed i j b hf ht]
    have width : 0 < 4 * 2 ^ f.toNat := by positivity
    cases signed
    · rw [asInt_unsigned, wrap_eq, if_neg Bool.false_ne_true, BitVec.toNat_setWidth, BitVec.toNat_ofNat]
      norm_cast
    · rw [asInt_signed _ _ width, wrap_eq, if_pos rfl, BitVec.signExtend, BitVec.toNat_ofInt]
      norm_cast

end Sys2Proof.Claims

/-!
Rounding on a ladder of magnitudes (03 R51, R52): a magnitude between two steps, and the step that each mode picks.
-/
namespace Sys2Proof.Claims
open Machine

/-! ## Numbers m · 2^e -/

/-- m · 2^d against a bound, as the model compares it. -/
theorem scaled_le_iff (m M : Nat) (d : Int) :
    (if 0 ≤ d then decide (m * 2 ^ d.toNat ≤ M) else decide (m ≤ M * 2 ^ (-d).toNat)) = decide ((m : ℚ) * 2 ^ d ≤ M) := by
  by_cases h : 0 ≤ d
  · lift d to Nat using h
    rw [if_pos (Int.natCast_nonneg d), decide_eq_decide, Int.toNat_natCast, zpow_natCast]
    norm_cast
  · obtain ⟨n, rfl⟩ : ∃ n : Nat, d = -n := ⟨(-d).toNat, by omega⟩
    rw [if_neg h, decide_eq_decide, neg_neg, Int.toNat_natCast, zpow_neg, zpow_natCast, ← div_eq_mul_inv,
      div_le_iff₀ (by positivity)]
    norm_cast

/-- The bounds of a number by its leading bit. -/
theorem log2_bounds {m : Nat} (hm : m ≠ 0) (e : Int) :
    (2 : ℚ) ^ ((m.log2 : Int) + e) ≤ m * 2 ^ e ∧ (m : ℚ) * 2 ^ e < 2 ^ ((m.log2 : Int) + e + 1) := by
  have low : ((2 ^ m.log2 : Nat) : ℚ) ≤ m := Nat.cast_le.mpr (Nat.log2_self_le hm)
  have high : (m : ℚ) < ((2 ^ (m.log2 + 1) : Nat) : ℚ) := Nat.cast_lt.mpr Nat.lt_log2_self
  have pos : (0 : ℚ) < 2 ^ e := zpow_pos (by norm_num) e
  constructor
  · rw [zpow_add₀ (by norm_num), zpow_natCast]
    exact mul_le_mul_of_nonneg_right (by exact_mod_cast low) pos.le
  · rw [add_right_comm, zpow_add₀ (by norm_num), ← Nat.cast_succ, zpow_natCast]
    exact mul_lt_mul_of_pos_right (by exact_mod_cast high) pos

/-! ## Between two steps -/

theorem mid_eq (x y : ℚ) : (x + y) / 2 = x + 1 / 2 * (y - x) := by ring

/-- Without a rest nothing rounds up. -/
theorem roundsUp_zero (rm : RM) (neg : Bool) (M k rnd : Nat) : roundsUp rm neg M 0 k rnd = false := by
  have pos : 2 ^ k ≠ 0 := (Nat.two_pow_pos k).ne'
  cases rm <;> simp [roundsUp, pos.symm]

/-- A magnitude v lies at r / 2^k of the way from step t of a ladder to the next. -/
structure Between (mag : Nat → ℚ) (v : ℚ) (t r k : Nat) : Prop where
  mono : StrictMono mag
  rem  : r < 2 ^ k
  at_  : v = mag t + (r : ℚ) / 2 ^ k * (mag (t + 1) - mag t)

section
variable {mag : Nat → ℚ} {v : ℚ} {t r k : Nat} (h : Between mag v t r k)
include h

theorem Between.gap : 0 < mag (t + 1) - mag t := sub_pos.mpr (h.mono t.lt_succ_self)

/-- Where v lies among the points between the two steps. -/
theorem Between.lt_iff (x : ℚ) : v < mag t + x * (mag (t + 1) - mag t) ↔ (r : ℚ) / 2 ^ k < x := by
  rw [h.at_, add_lt_add_iff_left, mul_lt_mul_iff_left₀ h.gap]

theorem Between.gt_iff (x : ℚ) : mag t + x * (mag (t + 1) - mag t) < v ↔ x < (r : ℚ) / 2 ^ k := by
  rw [h.at_, add_lt_add_iff_left, mul_lt_mul_iff_left₀ h.gap]

theorem Between.le : mag t ≤ v := by
  rw [h.at_]
  exact le_add_of_nonneg_right (mul_nonneg (by positivity) h.gap.le)

theorem Between.lt : v < mag (t + 1) := by
  have step := (h.lt_iff 1).mpr ((div_lt_one (by positivity)).mpr (by exact_mod_cast h.rem))
  rwa [one_mul, add_sub_cancel] at step

theorem Between.eq_iff : v = mag t ↔ r = 0 := by
  rw [h.at_, add_eq_left, mul_eq_zero, or_iff_left h.gap.ne', div_eq_zero_iff, or_iff_left (by positivity), Nat.cast_eq_zero]

theorem Between.below (ht : r ≠ 0) : mag t < v := lt_of_le_of_ne h.le fun e => ht (h.eq_iff.mp e.symm)

/-! The neighbours of the two steps, and the points halfway to them. -/

theorem Between.prev_lt (ht : t ≠ 0) : mag (t - 1) < v := (h.mono (by omega)).trans_le h.le

theorem Between.lower_mid (ht : t ≠ 0) : (mag (t - 1) + mag t) / 2 < v := by
  have := h.mono (show t - 1 < t by omega)
  have := h.le
  linarith

theorem Between.upper_mid : v < (mag (t + 1) + mag (t + 2)) / 2 := by
  have := h.mono (show t + 1 < t + 2 by omega)
  have := h.lt
  linarith

/-- v and the point halfway to the next step. -/
theorem Between.lt_mid : v < (mag t + mag (t + 1)) / 2 ↔ 2 * r < 2 ^ k := by
  rw [mid_eq, h.lt_iff, div_lt_div_iff₀ (by positivity) (by norm_num), one_mul, mul_comm]
  exact_mod_cast Iff.rfl

theorem Between.mid_lt : (mag t + mag (t + 1)) / 2 < v ↔ 2 ^ k < 2 * r := by
  rw [mid_eq, h.gt_iff, div_lt_div_iff₀ (by norm_num) (by positivity), one_mul, mul_comm (r : ℚ)]
  exact_mod_cast Iff.rfl

/-! What each mode picks between the two steps (R51, R52). -/

theorem Between.truncates : Truncates mag (cutAt v) t := ⟨not_lt.mpr h.le, h.lt⟩

theorem Between.reaches : Reaches mag (cutAt v) (if r ≠ 0 then t + 1 else t) := by
  split
  next hr => exact ⟨not_lt.mpr h.lt.le, .inr (h.below hr)⟩
  next hr =>
    refine ⟨not_lt.mpr (h.eq_iff.mpr (not_not.mp hr)).le, ?_⟩
    by_cases ht : t = 0
    · exact .inl ht
    · exact .inr (h.prev_lt ht)

theorem Between.nearest : Nearest mag (cutAt v) (if 2 ^ k < 2 * r ∨ (2 * r = 2 ^ k ∧ t % 2 = 1) then t + 1 else t) := by
  split
  next hr =>
    refine ⟨.inr ?_, .inl h.upper_mid⟩
    obtain hr | ⟨hr, ht⟩ := hr
    · exact .inl (h.mid_lt.mpr hr)
    · exact .inr ⟨fun hv => absurd (h.lt_mid.mp hv) (by omega), by omega⟩
  next hr =>
    have low : t = 0 ∨ (mag (t - 1) + mag t) / 2 < v := or_iff_not_imp_left.mpr h.lower_mid
    refine ⟨low.imp_right .inl, ?_⟩
    by_cases hlt : 2 * r < 2 ^ k
    · exact .inl (h.lt_mid.mpr hlt)
    · exact .inr ⟨fun hv => hr (.inl (h.mid_lt.mp hv)), by omega⟩

/-- Under stochastic rounding the step above is reached where rnd is below the part of a step, in units of 2^-32. -/
theorem Between.stochastic (rnd : Nat) :
    v < mag t + (rnd + 1 : ℚ) / 2 ^ 32 * (mag (t + 1) - mag t) ↔ ¬ rnd < r * 2 ^ 32 / 2 ^ k := by
  rw [h.lt_iff, div_lt_div_iff₀ (by positivity) (by positivity), not_lt, ← Nat.lt_succ_iff, Nat.div_lt_iff_lt_mul (by positivity)]
  exact_mod_cast Iff.rfl

/-- The step that the model's decision gives is the one that the mode picks (R51, R52). M has the parity of the step. -/
theorem Between.picks {M : Nat} (hM : M % 2 = t % 2) (rm : RM) (neg : Bool) (rnd : Nat) :
    Picks mag rm neg rnd (cutAt v) (if roundsUp rm neg M r k rnd then t + 1 else t) := by
  cases rm with
  | ne =>
    simpa only [Picks, roundsUp, hM, Bool.or_eq_true, Bool.and_eq_true, decide_eq_true_eq, beq_iff_eq] using h.nearest
  | tz => exact h.truncates
  | up =>
    cases neg
    · simpa only [Picks, roundsUp, Bool.not_false, Bool.true_and, decide_eq_true_eq, Bool.false_eq_true, if_false] using h.reaches
    · exact h.truncates
  | dn =>
    cases neg
    · exact h.truncates
    · simpa only [Picks, roundsUp, Bool.true_and, decide_eq_true_eq, if_true] using h.reaches
  | st =>
    simp only [Picks, roundsUp, decide_eq_true_eq]
    exact ⟨t, h.truncates, fun hv => if_neg ((h.stochastic rnd).mp hv),
      fun hv => if_pos (not_not.mp (mt (h.stochastic rnd).mpr hv))⟩

/-- The step picked differs from v where v lies between two steps. -/
theorem Between.picked_ne_iff {rm : RM} {neg : Bool} {M rnd b : Nat} (hb : b = if roundsUp rm neg M r k rnd then t + 1 else t) :
    (mag b < v ∨ v < mag b) ↔ r ≠ 0 := by
  by_cases hr : r = 0
  · rw [hb, hr, roundsUp_zero, if_neg Bool.false_ne_true, h.eq_iff.mpr hr]
    simp
  · refine ⟨fun _ => hr, fun _ => ?_⟩
    rw [hb]
    split
    · exact .inr h.lt
    · exact .inl (h.below hr)

end
end Sys2Proof.Claims

/-!
Block scales and quantisation (03 R49, R50, 06 R122).
-/
namespace Sys2Proof.Claims
open Machine

/-! ## The scale byte (R50) -/

/-- The least s with m · 2^(e − s) at most M: one less would leave more. -/
theorem leastScale_spec {m M : Nat} (hm : m ≠ 0) (hM : M ≠ 0) (e : Int) :
    (m : ℚ) * 2 ^ (e - leastScale m e M) ≤ M ∧ (M : ℚ) < m * 2 ^ (e - (leastScale m e M - 1)) := by
  have bound (t : Int) := log2_bounds hm (e - t)
  have lowM : ((2 : ℚ) ^ (M.log2 : Int)) ≤ M := by simpa using (log2_bounds hM 0).1
  have highM : (M : ℚ) < 2 ^ ((M.log2 : Int) + 1) := by simpa using (log2_bounds hM 0).2
  set s := (m.log2 : Int) + e - M.log2 with hs
  have below (t : Int) (ht : t < s) : (M : ℚ) < m * 2 ^ (e - t) :=
    highM.trans_le ((zpow_le_zpow_right₀ (by norm_num) (by omega)).trans (bound t).1)
  have above (t : Int) (ht : s < t) : (m : ℚ) * 2 ^ (e - t) ≤ M :=
    ((bound t).2.le.trans (zpow_le_zpow_right₀ (by norm_num) (by omega))).trans lowM
  have value : leastScale m e M = if (m : ℚ) * 2 ^ (e - s) ≤ M then s else s + 1 := by
    simp only [leastScale, scaled_le_iff, ← hs, decide_eq_true_eq, if_neg (not_le.mpr (below (s - 1) (by omega)))]
  rw [value]
  split
  next h => exact ⟨h, below _ (by omega)⟩
  next h => exact ⟨above _ (by omega), by rw [add_sub_cancel_right]; exact not_le.mp h⟩

theorem scaleByte_fin (be4 neg : Bool) {m : Nat} (hm : m ≠ 0) (e : Int) : ((scaleByte be4 (.fin neg m e) : Nat) : Int) =
    max 0 (min 254 (leastScale m e (if be4 then 448 else 127) + 127)) := by
  simp only [scaleByte, if_neg hm]
  generalize leastScale m e (if be4 then 448 else 127) = s
  split
  next h => rw [min_eq_right (by omega), max_eq_left (by omega)]; rfl
  next h =>
    split
    next h' => rw [min_eq_left (by omega)]; rfl
    next h' => rw [min_eq_right (by omega), max_eq_right (by omega), Int.toNat_of_nonneg (by omega)]

theorem scaleByte_lt (be4 : Bool) (x : Machine.Num) : scaleByte be4 x < 256 := by
  unfold scaleByte
  split
  · decide
  · decide
  · dsimp only
    split_ifs <;> omega

theorem scaleByte_least (be4 neg : Bool) {m : Nat} (hm : m ≠ 0) (e : Int) : ∃ s : Int,
    (m : ℚ) * 2 ^ (e - s) ≤ (if be4 then 448 else 127) ∧ (if be4 then 448 else 127) < (m : ℚ) * 2 ^ (e - (s - 1)) ∧
      ((scaleByte be4 (.fin neg m e) : Nat) : Int) = max 0 (min 254 (s + 127)) := by
  have bound : ((if be4 then 448 else 127 : Nat) : ℚ) = if be4 then 448 else 127 := by cases be4 <;> rfl
  obtain ⟨le, lt⟩ := leastScale_spec hm (M := if be4 then 448 else 127) (by cases be4 <;> decide) e
  exact ⟨_, bound ▸ le, bound ▸ lt, scaleByte_fin be4 neg hm e⟩

/-! ## vbmax -/

theorem exec_vbmax (iv : BitVec 2) (d a : BitVec 4) (k : BitVec 3) (sc : BitVec 4) (s : State) :
    exec (.vbmax iv d a k sc) s = execVbmax iv d a k sc s := rfl

/-- The active elements of a block of 32 below the size of the shape, folded. -/
theorem foldl_pick_block (x : Strand) (a : BitVec 4) (k : BitVec 3) (fmt : Fmt) (b : Nat) :
    (x.pick a k ((List.range 32).map (32 * b + ·) |>.filter (· < x.elems))).foldl (fun m e => blockMax m (fmt.decode x.fz e)) 0 =
      ((List.range 32).filter fun j => decide (32 * b + j < x.rows * x.cols) && (x.K k).getLsbD (32 * b + j)).foldl
        (fun m j => blockMax m (fmt.decode x.fz (unitAt (x.V a) (widthOf (x.V a).tag) (32 * b + j)))) 0 := by
  simp only [Strand.pick, List.filter_map, List.filter_filter, List.foldl_map, unitAt_eq_elem, Bool.and_comm]
  rfl

theorem completesWhen_vbmax (iv : BitVec 2) (d a : BitVec 4) (k : BitVec 3) (sc : BitVec 4) (s : State) (fmt : Fmt) :
    CompletesWhen (.vbmax iv d a k sc) (infoR (encode (.vbmax iv d a k sc)) iv sc (vs [d, a] ++ ks [k])) s
      (fun e => Ready e a [7, 8, 9] ∧ Fits e 8 ∧ Fmt.ofTag (e.st.V a).tag = some fmt)
      fun e t => VectorEffect e t d (BitVec.allOnes 256) 9 0 8 32 (fun b _ =>
        (((List.range 32).filter fun j => decide (32 * b + j < e.st.rows * e.st.cols) && (e.st.K k).getLsbD (32 * b + j)).foldl
          (fun m j => blockMax m (fmt.decode e.st.fz (unitAt (e.st.V a) (widthIn e a) (32 * b + j)))) 0, 0)) 0 := by
  refine completesWhen_of_vguard ((exec_vbmax ..).trans (execVbmax.eq_def ..)) fun e _ ⟨⟨htag, h15, _⟩, hfit, hfmt⟩ => ⟨?_, ?_⟩
  · simpa using ⟨need_eq_none htag h15, fits_eq_none hfit⟩
  · dsimp only
    simp only [hfmt, Option.getD_some, foldl_pick_block]
    refine ⟨_, vwrite_eq .., vectorEffect_vwritten e 0 d _ _ ?_ (gathers_zero fun _ _ => rfl)⟩
    rw [mapUnits_congr (act' := (BitVec.allOnes 256).getLsbD) (old' := (e.st.V d).data.toNat) _ 8 0 0
      (fun u hu => by rw [BitVec.getLsbD_allOnes, decide_eq_true (by omega)]) (fun u _ h => by cases h)]
    exact lanes_mkVReg _ _ 9 0 _ rfl (by decide)

/-! ## vscale -/

theorem exec_vscale (iv : BitVec 2) (d a sc : BitVec 4) (s : State) :
    exec (.vscale iv d a sc) s = execVscale iv d a sc s := rfl

theorem tag_beq (e : State) (d n : BitVec 4) : ((e.st.V d).tag == n) = (tagOf e d == n.toNat) := by
  rw [Bool.eq_iff_iff, beq_iff_eq, beq_iff_eq, tagOf, BitVec.toNat_eq]

/-- Byte b of a scale field made of eight bytes. -/
theorem extractLsb'_buildBytes {f : Nat → Nat × Fl} {r : Nat × Fl} (hr : buildBytes 8 f = r) {b : Nat} (hb : b < 8) :
    ((BitVec.ofNat 64 r.1).extractLsb' (8 * b) 8).toNat = (f b).1 % 2 ^ 8 := by
  subst hr
  have room : (buildBytes 8 f).1 < 2 ^ 64 := mapUnits_lt 8 (fun _ => true) 0 (fun i _ => f i) 8 0 0
  have byte : elem (buildBytes 8 f).1 8 b = (f b).1 % 2 ^ 8 := by
    simpa [buildBytes, unitOf] using elem_mapUnits 8 (fun _ => true) 0 (fun i _ => f i) hb 0 0
  rwa [BitVec.extractLsb'_toNat, BitVec.toNat_ofNat, Nat.mod_eq_of_lt room, Nat.shiftRight_eq_div_pow]

theorem completesWhen_vscale (iv : BitVec 2) (d a sc : BitVec 4) (s : State) :
    CompletesWhen (.vscale iv d a sc) (infoR (encode (.vscale iv d a sc)) iv sc (vs [d, a])) s
      (fun e => tagOf e d ∈ [13, 14] ∧ tagOf e a ∈ [1, 9] ∧ Fits e (max (Wf.tagHalf (e.st.V a).tag) 2))
      fun e t => OnlyV e t d ∧ t.st.ctl.fcr = e.st.ctl.fcr ∧
        (t.st.V d).data = (e.st.V d).data ∧ (t.st.V d).tag = (e.st.V d).tag ∧
        ∀ b, b < 8 → ((t.st.V d).scale.extractLsb' (8 * b) 8).toNat =
          (if tagOf e a = 1 then unitAt (e.st.V a) 8 b
           else scaleByte (tagOf e d == 13) (Fmt.f32.decode e.st.fz (unitAt (e.st.V a) 32 b)).abs) := by
  refine completesWhen_of_vguard ((exec_vscale ..).trans (execVscale.eq_def ..)) fun e _ ⟨hd, ha, hfit⟩ => ⟨?_, ?_⟩
  · have hd15 : tagOf e d ≠ 15 := fun h => by simp [h] at hd
    have ha15 : tagOf e a ≠ 15 := fun h => by simp [h] at ha
    simpa using ⟨need_eq_none hd hd15, need_eq_none ha ha15, fits_eq_none hfit⟩
  · dsimp only
    rcases hr : buildBytes 8 _ with ⟨r, fl⟩
    refine ⟨_, vwrite_eq .., onlyV_vwritten .., vwritten_fcr_zero .., ?_⟩
    rw [vwritten_V, if_pos rfl]
    refine ⟨rfl, rfl, fun b hb => (extractLsb'_buildBytes hr hb).trans ?_⟩
    rw [tag_beq, ← unitAt_eq_elem, ← unitAt_eq_elem]
    simp only [List.mem_cons, List.not_mem_nil, or_false] at ha
    obtain h | h := ha
    · have h9 : (e.st.V a).tag ≠ 9 := fun h' => by simp [tagOf, h'] at h
      rw [if_neg h9, if_pos h, unitAt_eq_elem, Nat.mod_eq_of_lt (elem_lt ..)]
    · have h9 : (e.st.V a).tag = 9 := BitVec.eq_of_toNat_eq h
      rw [if_pos h9, if_neg (by omega)]
      exact Nat.mod_eq_of_lt (scaleByte_lt ..)

/-! ## vquant -/

theorem exec_vquant (iv : BitVec 2) (d a : BitVec 4) (k : BitVec 3) (sc : BitVec 4) (s : State) :
    exec (.vquant iv d a k sc) s = execVquant iv d a k sc s := rfl

theorem quantise_be4 (neg : Bool) (m : Nat) (e : Int) (scale : Nat) (rm : RM) (rnd : Nat) :
    quantise true (.fin neg m e) scale rm rnd = Fmt.e4m3.round rm false rnd (.fin neg m (e + (127 - scale))) := rfl

theorem quantise_bi8 (neg : Bool) (m : Nat) (e : Int) (scale : Nat) (rm : RM) (rnd : Nat) :
    quantise false (.fin neg m e) scale rm rnd =
      (((BitVec.ofInt 8 ((Num.toRange (.fin neg m (e + (127 - scale))) rm (-127) 127).1)).toNat),
        (Num.toRange (.fin neg m (e + (127 - scale))) rm (-127) 127).2) := rfl

theorem tagHalf_of_block {t : BitVec 4} (h : t.toNat ∈ [13, 14]) : Wf.tagHalf t = 2 := by revert t; decide

theorem two_le_tagHalf {t : BitVec 4} (h : t ≠ 12) : 2 ≤ Wf.tagHalf t := by revert t; decide

/-- vquant rounds stochastically into e4m3 alone (R51). -/
theorem vquant_mode {e : State} {d : BitVec 4} (h : tagOf e d ∈ [13, 14]) (rm : RM) :
    rm.into (if (e.st.V d).tag = 13 then 5 else 1) = if rm = .st ∧ tagOf e d = 14 then .ne else rm := by
  obtain h | h := by simpa using h
  · have ht : (e.st.V d).tag = 13 := BitVec.eq_of_toNat_eq h
    rw [if_pos ht, RM.into, if_neg (by simp [stochastic]), if_neg (by omega)]
  · have ht : (e.st.V d).tag ≠ 13 := fun ht => by simp [tagOf, ht] at h
    rw [if_neg ht, RM.into]
    simp [h, stochastic]

/-- And draws there alone (R52). -/
theorem vquant_draws {e : State} {d : BitVec 4} (h : tagOf e d ∈ [13, 14]) (rm : RM) (n : Nat) :
    rm.draws (if (e.st.V d).tag = 13 then 5 else 1) n = if rm = .st ∧ tagOf e d = 13 then n else 0 := by
  obtain h | h := by simpa using h
  · have ht : (e.st.V d).tag = 13 := BitVec.eq_of_toNat_eq h
    rw [if_pos ht, RM.draws]
    simp [h, stochastic]
  · have ht : (e.st.V d).tag ≠ 13 := fun ht => by simp [tagOf, ht] at h
    rw [if_neg ht, RM.draws]
    simp [h, stochastic]

/-- A byte of a scale field. -/
theorem toNat_byte (x : Word) (b : Nat) : (x.extractLsb' (8 * b) 8).toNat = x.toNat / 2 ^ (8 * b) % 256 := by
  rw [BitVec.extractLsb'_toNat, Nat.shiftRight_eq_div_pow]

/-- Element i of V[a] quantised under the scale byte of its block in V[d], the j-th active one (R50, R122). -/
def quantised (e : State) (d a : BitVec 4) (fmt : Fmt) (i j : Nat) : Nat × Fl :=
  quantise (tagOf e d == 13) (fmt.decode e.st.fz (unitAt (e.st.V a) (widthIn e a) i))
    ((e.st.V d).scale.extractLsb' (8 * (i / 32)) 8).toNat
    (if e.st.rm = .st ∧ tagOf e d = 14 then .ne else e.st.rm) ((e.st.output j).toNat % 2 ^ 32)

theorem completesWhen_vquant (iv : BitVec 2) (d a : BitVec 4) (k : BitVec 3) (sc : BitVec 4) (s : State) (fmt : Fmt) :
    CompletesWhen (.vquant iv d a k sc)
      { infoR (encode (.vquant iv d a k sc)) iv sc (vs [d, a] ++ ks [k]) with conv := true } s
      (fun e => tagOf e d ∈ [13, 14] ∧ Ready e a [7, 8, 9] ∧ Fmt.ofTag (e.st.V a).tag = some fmt)
      fun e t => VectorEffect e t d (e.st.K k) (e.st.V d).tag (e.st.V d).scale (e.st.rows * e.st.cols) 8 (quantised e d a fmt)
        (if e.st.rm = .st ∧ tagOf e d = 13 then activeBelow (e.st.K k) (e.st.rows * e.st.cols) else 0) := by
  refine completesWhen_of_vguard ((exec_vquant ..).trans (execVquant.eq_def ..)) fun e _ ⟨hd, ⟨ha, ha15, hfit⟩, hfmt⟩ => ⟨?_, ?_⟩
  · have hd15 : tagOf e d ≠ 15 := fun h => by simp [h] at hd
    simpa using ⟨need_eq_none hd hd15, need_eq_none ha ha15, fits_eq_none hfit⟩
  · have ht : (e.st.V d).tag ≠ 12 := fun h => by simp [tagOf, h] at hd
    have half : Wf.tagHalf (e.st.V d).tag = 2 := tagHalf_of_block hd
    have width : widthOf (e.st.V d).tag = 8 := by rw [widthOf_eq_half ht, half]
    have units : unitsOf (e.st.V d).tag (e.st.rows * e.st.cols) = e.st.rows * e.st.cols := if_neg ht
    have room : Fits e (Wf.tagHalf (e.st.V d).tag) := by
      rw [half]
      exact (Nat.mul_le_mul_left _ (two_le_tagHalf (tag_ne_int4 ha))).trans hfit
    dsimp only
    simp only [hfmt, Option.getD_some, vquant_mode hd, vquant_draws hd, countActive_active, tag_beq, ← unitAt_eq_elem,
      ← toNat_byte]
    have lanes := lanes_result d k (e.st.V d).scale (quantised e d a fmt) ht room
    have flags := gathers_result e.st d k (e.st.V d).tag (e.st.V d).scale (quantised e d a fmt)
    rw [units] at lanes flags
    rw [width] at lanes
    exact ⟨_, vwrite_drew .., vectorEffect_vwritten e _ d _ _ lanes flags⟩

/-- Settles O30. -/
theorem blockScaleResult : Obligations.BlockScaleResult := by
  unfold Obligations.BlockScaleResult
  refine ⟨fun be4 => ⟨rfl, fun _ => rfl, fun _ _ => rfl, fun neg m e hm => scaleByte_least be4 neg hm e⟩,
    fun neg m e scale rm rnd => ⟨quantise_be4 .., quantise_bi8 ..⟩, fun iv d a k sc s => ?_⟩
  exact ⟨completesWhen_vbmax iv d a k sc s, completesWhen_vscale iv d a sc s, completesWhen_vquant iv d a k sc s⟩

end Sys2Proof.Claims

/-!
The ladder of a floating-point format, and what the model's rounding makes of a magnitude on it (03 R46, R51 to R53).
-/
namespace Sys2Proof.Claims
open Machine

/-! ## A number in units of 2^q -/

/-- Whole units of 2^q in m · 2^e, and the rest, in parts of 2^(q - e). -/
def mantAt (m : Nat) (e q : Int) : Nat := if e ≥ q then m * 2 ^ (e - q).toNat else m / 2 ^ (q - e).toNat
def restAt (m : Nat) (e q : Int) : Nat := if e ≥ q then 0 else m % 2 ^ (q - e).toNat

/-- The units after rounding, as the model decides it. -/
def roundedAt (rm : RM) (neg : Bool) (m : Nat) (e q : Int) (rnd : Nat) : Nat :=
  if roundsUp rm neg (mantAt m e q) (restAt m e q) (q - e).toNat rnd && decide (e < q) then mantAt m e q + 1 else mantAt m e q

theorem restAt_lt (m : Nat) (e q : Int) : restAt m e q < 2 ^ (q - e).toNat := by
  unfold restAt
  split
  · exact Nat.two_pow_pos _
  · exact Nat.mod_lt _ (Nat.two_pow_pos _)

theorem mantAt_add_restAt (m : Nat) (e q : Int) :
    (m : ℚ) * 2 ^ e = (mantAt m e q + (restAt m e q : ℚ) / 2 ^ (q - e).toNat) * 2 ^ q := by
  unfold mantAt restAt
  by_cases h : e ≥ q
  · obtain ⟨n, rfl⟩ : ∃ n : Nat, e = q + n := ⟨(e - q).toNat, by omega⟩
    rw [if_pos h, if_pos h, add_sub_cancel_left, Int.toNat_natCast, zpow_add₀ (by norm_num), zpow_natCast]
    push_cast
    ring
  · obtain ⟨n, rfl⟩ : ∃ n : Nat, q = e + n := ⟨(q - e).toNat, by omega⟩
    have split : ((m / 2 ^ n : Nat) : ℚ) + ((m % 2 ^ n : Nat) : ℚ) / 2 ^ n = (m : ℚ) / 2 ^ n := by
      rw [eq_div_iff (by positivity), add_mul, div_mul_cancel₀ _ (by positivity)]
      exact_mod_cast Nat.div_add_mod' m (2 ^ n)
    rw [if_neg h, if_neg h, add_sub_cancel_left, Int.toNat_natCast, split, zpow_add₀ (by norm_num), zpow_natCast]
    field_simp

/-- m · 2^e lies less than a unit above its whole units. -/
theorem mantAt_bounds (m : Nat) (e q : Int) :
    (mantAt m e q : ℚ) * 2 ^ q ≤ m * 2 ^ e ∧ (m : ℚ) * 2 ^ e < (mantAt m e q + 1) * 2 ^ q := by
  have unit : (0 : ℚ) < 2 ^ q := zpow_pos (by norm_num) q
  have rest : (restAt m e q : ℚ) / 2 ^ (q - e).toNat < 1 := (div_lt_one (by positivity)).mpr (by exact_mod_cast restAt_lt m e q)
  rw [mantAt_add_restAt m e q]
  exact ⟨mul_le_mul_of_nonneg_right (le_add_of_nonneg_right (by positivity)) unit.le,
    mul_lt_mul_of_pos_right (by linarith) unit⟩

theorem roundedAt_eq (rm : RM) (neg : Bool) (m : Nat) (e q : Int) (rnd : Nat) : roundedAt rm neg m e q rnd =
    if roundsUp rm neg (mantAt m e q) (restAt m e q) (q - e).toNat rnd then mantAt m e q + 1 else mantAt m e q := by
  unfold roundedAt
  by_cases h : e < q
  · rw [decide_eq_true h, Bool.and_true]
  · have rest : restAt m e q = 0 := if_pos (not_lt.mp h)
    simp [rest, roundsUp_zero]

theorem mantAt_le_roundedAt (rm : RM) (neg : Bool) (m : Nat) (e q : Int) (rnd : Nat) :
    mantAt m e q ≤ roundedAt rm neg m e q rnd ∧ roundedAt rm neg m e q rnd ≤ mantAt m e q + 1 := by
  unfold roundedAt
  split <;> omega

/-! ## The ladder of a format -/

/-- The exponent of a format's least numbers, and of the unit in which m · 2^e is rounded into it. -/
def ladderLow (f : Fmt) : Int := 1 - (f.bias : Int) - f.mw
def roundUnit (f : Fmt) (m : Nat) (e : Int) : Int := max ((m.log2 : Int) + e) (1 - (f.bias : Int)) - f.mw

/-- The step of the ladder at M · 2^q: its encoding without sign. -/
def ladderStep (f : Fmt) (M : Nat) (q : Int) : Nat := (q - ladderLow f).toNat * 2 ^ f.mw + M

/-- M · 2^q is a number of the ladder: it is subnormal, or its leading bit is the format's hidden one or the next. -/
structure OnLadder (f : Fmt) (M : Nat) (q : Int) : Prop where
  low  : ladderLow f ≤ q
  high : M ≤ 2 ^ (f.mw + 1)
  lead : q = ladderLow f ∨ 2 ^ f.mw ≤ M

theorem magnitude_step {f : Fmt} {M : Nat} {q : Int} (h : OnLadder f M q) : magnitude f (ladderStep f M q) = M * 2 ^ q := by
  obtain ⟨hlow, hhigh, hlead⟩ := h
  obtain ⟨j, rfl⟩ : ∃ j : Nat, q = ladderLow f + j := ⟨(q - ladderLow f).toNat, by omega⟩
  have pos : 0 < 2 ^ f.mw := Nat.two_pow_pos _
  rw [Nat.pow_succ] at hhigh
  simp only [ladderStep, add_sub_cancel_left, Int.toNat_natCast]
  -- the exponent field, one more where the mantissa has just overflowed
  have normal (i L : Nat) (hL : L < 2 ^ f.mw) :
      magnitude f ((i + 1) * 2 ^ f.mw + L) = ((L + 2 ^ f.mw : Nat) : ℚ) * 2 ^ (ladderLow f + i) := by
    have quot : ((i + 1) * 2 ^ f.mw + L) / 2 ^ f.mw = i + 1 := by
      rw [Nat.add_comm, Nat.add_mul_div_right _ _ pos, Nat.div_eq_of_lt hL, Nat.zero_add]
    have mod : ((i + 1) * 2 ^ f.mw + L) % 2 ^ f.mw = L := by
      rw [Nat.add_comm, Nat.add_mul_mod_self_right, Nat.mod_eq_of_lt hL]
    rw [magnitude, quot, mod, if_neg (Nat.succ_ne_zero i), ladderLow]
    congr 2
    push_cast
    ring
  by_cases hsub : M < 2 ^ f.mw
  · obtain rfl : j = 0 := by omega
    rw [Nat.zero_mul, Nat.zero_add, magnitude, Nat.div_eq_of_lt hsub, if_pos rfl, Nat.cast_zero, add_zero]
    rfl
  · by_cases hover : M = 2 ^ f.mw * 2
    · have next := normal (j + 1) 0 pos
      rw [Nat.zero_add, Nat.add_zero] at next
      rw [hover, show j * 2 ^ f.mw + 2 ^ f.mw * 2 = (j + 1 + 1) * 2 ^ f.mw by ring, next]
      push_cast
      rw [← add_assoc, zpow_add₀ (by norm_num) _ 1]
      ring
    · have here := normal j (M - 2 ^ f.mw) (by omega)
      rw [Nat.sub_add_cancel (by omega)] at here
      rw [← here]
      congr 1
      rw [Nat.succ_mul]
      omega

/-- Each step is the next unit above the one before it. -/
theorem exists_onLadder (f : Fmt) (n : Nat) : ∃ M q, n = ladderStep f M q ∧ M < 2 ^ (f.mw + 1) ∧ OnLadder f M q := by
  have pos : 0 < 2 ^ f.mw := Nat.two_pow_pos _
  have split := Nat.div_add_mod' n (2 ^ f.mw)
  have small := Nat.mod_lt n pos
  by_cases h : n / 2 ^ f.mw = 0
  · have hn : n < 2 ^ (f.mw + 1) := (Nat.lt_of_div_eq_zero pos h).trans (Nat.pow_lt_pow_right (by decide) f.mw.lt_succ_self)
    exact ⟨n, ladderLow f, by simp [ladderStep], hn, le_rfl, hn.le, .inl rfl⟩
  · obtain ⟨j, hj⟩ := Nat.exists_eq_succ_of_ne_zero h
    rw [hj, Nat.succ_mul] at split
    refine ⟨n % 2 ^ f.mw + 2 ^ f.mw, ladderLow f + j, ?_, ?_, by omega, ?_, .inr (by omega)⟩
    · simp only [ladderStep, add_sub_cancel_left, Int.toNat_natCast]
      omega
    all_goals rw [Nat.pow_succ]; omega

theorem OnLadder.succ {f : Fmt} {M : Nat} {q : Int} (h : OnLadder f M q) (hM : M < 2 ^ (f.mw + 1)) :
    OnLadder f (M + 1) q :=
  ⟨h.low, hM, h.lead.imp_right fun h => h.trans M.le_succ⟩

theorem strictMono_magnitude (f : Fmt) : StrictMono (magnitude f) := by
  refine strictMono_nat_of_lt_succ fun n => ?_
  obtain ⟨M, q, rfl, hM, h⟩ := exists_onLadder f n
  rw [magnitude_step h, show ladderStep f M q + 1 = ladderStep f (M + 1) q from rfl, magnitude_step (h.succ hM)]
  exact mul_lt_mul_of_pos_right (by push_cast; linarith) (zpow_pos (by norm_num) q)

/-! ## A number on the ladder -/

section
variable (f : Fmt) {m : Nat} (hm : m ≠ 0) (e : Int)
include hm

/-- The whole units of a number are a number of the ladder, below the next power. -/
theorem onLadder_mantAt : mantAt m e (roundUnit f m e) < 2 ^ (f.mw + 1) ∧ OnLadder f (mantAt m e (roundUnit f m e)) (roundUnit f m e) := by
  obtain ⟨low, high⟩ := log2_bounds hm e
  obtain ⟨le, lt⟩ := mantAt_bounds m e (roundUnit f m e)
  set q := roundUnit f m e with hq
  have unit : (0 : ℚ) < 2 ^ q := zpow_pos (by norm_num) q
  have scale (n : Nat) : (2 : ℚ) ^ (q + n) = ((2 ^ n : Nat) : ℚ) * 2 ^ q := by
    rw [zpow_add₀ (by norm_num), zpow_natCast, mul_comm]
    push_cast
    rfl
  have small : mantAt m e q < 2 ^ (f.mw + 1) := by
    have top : (2 : ℚ) ^ ((m.log2 : Int) + e + 1) ≤ 2 ^ (q + (f.mw + 1 : Nat)) :=
      zpow_le_zpow_right₀ (by norm_num) (by simp only [hq, roundUnit]; push_cast; omega)
    have := (le.trans_lt high).trans_le (top.trans_eq (scale _))
    exact_mod_cast lt_of_mul_lt_mul_right this unit.le
  refine ⟨small, by simp only [hq, roundUnit, ladderLow]; omega, small.le, ?_⟩
  by_cases hE : (m.log2 : Int) + e < 1 - f.bias
  · exact .inl (by simp only [hq, roundUnit, ladderLow]; omega)
  · have lead : (2 : ℚ) ^ (q + f.mw) ≤ 2 ^ ((m.log2 : Int) + e) :=
      zpow_le_zpow_right₀ (by norm_num) (by simp only [hq, roundUnit]; omega)
    have := lt_of_mul_lt_mul_right ((scale _).symm.trans_le (lead.trans low) |>.trans_lt lt) unit.le
    refine .inr (Nat.lt_succ_iff.mp ?_)
    exact_mod_cast this

/-- So are the rounded units. -/
theorem onLadder_roundedAt (rm : RM) (neg : Bool) (rnd : Nat) :
    OnLadder f (roundedAt rm neg m e (roundUnit f m e) rnd) (roundUnit f m e) := by
  obtain ⟨small, ladder⟩ := onLadder_mantAt f hm e
  unfold roundedAt
  split
  · exact ladder.succ small
  · exact ladder

theorem between_mantAt : Between (magnitude f) (m * 2 ^ e) (ladderStep f (mantAt m e (roundUnit f m e)) (roundUnit f m e))
    (restAt m e (roundUnit f m e)) (roundUnit f m e - e).toNat := by
  obtain ⟨small, ladder⟩ := onLadder_mantAt f hm e
  refine ⟨strictMono_magnitude f, restAt_lt .., ?_⟩
  have next := magnitude_step (ladder.succ small)
  rw [show ladderStep f (mantAt m e (roundUnit f m e) + 1) (roundUnit f m e) =
    ladderStep f (mantAt m e (roundUnit f m e)) (roundUnit f m e) + 1 from rfl] at next
  rw [next, magnitude_step ladder, mantAt_add_restAt m e (roundUnit f m e)]
  push_cast
  ring

/-- A number is tiny where it lies below the least normal one. -/
theorem tiny_iff : (m.log2 : Int) + e < 1 - f.bias ↔ (m : ℚ) * 2 ^ e < magnitude f (2 ^ f.mw) := by
  have least : magnitude f (2 ^ f.mw) = 2 ^ (1 - (f.bias : Int)) := by
    have h := magnitude_step (f := f) (M := 2 ^ f.mw) (q := ladderLow f)
      ⟨le_rfl, Nat.pow_le_pow_right (by decide) (by omega), .inl rfl⟩
    rw [ladderStep, sub_self, Int.toNat_zero, Nat.zero_mul, Nat.zero_add] at h
    rw [h, ladderLow]
    push_cast
    rw [← zpow_natCast, ← zpow_add₀ (by norm_num)]
    congr 1
    ring
  obtain ⟨low, high⟩ := log2_bounds hm e
  rw [least]
  constructor
  · intro h
    exact high.trans_le (zpow_le_zpow_right₀ (by norm_num) (by omega))
  · intro h
    exact (zpow_lt_zpow_iff_right₀ (by norm_num)).mp (low.trans_lt h)

end

end Sys2Proof.Claims

/-!
Reading and rounding in the five formats, and rounding to integers (03 R46, R47, R51 to R53).
-/
namespace Sys2Proof.Claims
open Machine

/-! ## The five formats (R46) -/

/-- What the encodings of a format have in common: a sign bit above exponent and mantissa, and the largest finite magnitude just
below infinity, or, without one, just below the only NaN. -/
structure IsFormat (p : Fmt × Nat × Nat × Nat) : Prop where
  width   : p.1.w = p.1.ew + p.1.mw + 1
  ew_pos  : 0 < p.1.ew
  mw_pos  : 0 < p.1.mw
  max_eq  : p.2.1 = if p.1.ieee then p.1.infBits - 1 else p.1.infBits + 2 ^ p.1.mw - 2
  max_fmt : p.1.maxBits = p.2.1
  inf_eq  : p.2.2.1 = if p.1.ieee then p.1.infBits else p.2.1
  nan_eq  : p.1.nanBits = p.2.2.2
  largest : (p.1.maxMant : ℚ) * 2 ^ p.1.maxExp = magnitude p.1 p.2.1

/-- Infinity is the step above the largest finite number. -/
theorem IsFormat.max_lt_inf {p : Fmt × Nat × Nat × Nat} (hp : IsFormat p) (h : p.1.ieee = true) : p.2.1 < p.2.2.1 := by
  rw [hp.max_eq, hp.inf_eq, if_pos h, if_pos h]
  have expo : 2 ≤ 2 ^ p.1.ew := (Nat.pow_le_pow_right (by decide) hp.ew_pos : 2 ^ 1 ≤ 2 ^ p.1.ew)
  exact Nat.sub_lt (Nat.mul_pos (by omega) (Nat.two_pow_pos _)) one_pos

theorem IsFormat.max_le_top {p : Fmt × Nat × Nat × Nat} (hp : IsFormat p) : p.2.1 ≤ if p.1.ieee then p.2.2.1 else p.2.1 := by
  split
  next h => exact (hp.max_lt_inf h).le
  next => exact le_rfl

theorem isFormat_of_mem : ∀ p ∈ formats, IsFormat p := by
  simp only [formats, List.forall_mem_cons, List.not_mem_nil, false_imp_iff, implies_true, and_true]
  refine ⟨?_, ?_, ?_, ?_, ?_⟩ <;>
    exact ⟨by decide, by decide, by decide, by decide, by decide, by decide, by decide,
      by norm_num [magnitude, Fmt.maxMant, Fmt.maxExp, Fmt.f32, Fmt.f16, Fmt.b16, Fmt.e5m2, Fmt.e4m3]⟩

/-! ## Reading (R46, R53) -/

/-- The finite number of a sign and a magnitude's encoding. -/
def finiteOf (f : Fmt) (fz neg : Bool) (n : Nat) : Machine.Num :=
  if n < 2 ^ f.mw then (if fz && f.flush then .zero neg else .fin neg n (ladderLow f))
  else .fin neg (n % 2 ^ f.mw + 2 ^ f.mw) (((n / 2 ^ f.mw : Nat) : Int) - f.bias - f.mw)

theorem finiteOf_eq (f : Fmt) (fz neg : Bool) (n : Nat) : ∃ m e, finiteOf f fz neg n = .fin neg m e ∧
    (m : ℚ) * 2 ^ e = if (fz && f.flush) = true ∧ n < 2 ^ f.mw then 0 else magnitude f n := by
  unfold finiteOf magnitude
  by_cases hn : n < 2 ^ f.mw
  · rw [if_pos hn, Nat.div_eq_of_lt hn]
    cases hz : (fz && f.flush)
    · exact ⟨n, _, rfl, by simp [ladderLow]⟩
    · exact ⟨0, 0, rfl, by simp [hn]⟩
  · have he : n / 2 ^ f.mw ≠ 0 := by
      rw [Nat.div_ne_zero_iff]
      exact ⟨(Nat.two_pow_pos _).ne', not_lt.mp hn⟩
    rw [if_neg hn, if_neg (fun h => hn h.2), if_neg he]
    exact ⟨_, _, rfl, rfl⟩

theorem finiteOf_of_fields (f : Fmt) (fz neg : Bool) (n : Nat) : (if n / 2 ^ f.mw = 0 then
      (if (fz && f.flush) = true then Machine.Num.zero neg else .fin neg (n % 2 ^ f.mw) (1 - (f.bias : Int) - f.mw))
    else .fin neg (n % 2 ^ f.mw + 2 ^ f.mw) (((n / 2 ^ f.mw : Nat) : Int) - f.bias - f.mw)) = finiteOf f fz neg n := by
  have pos : 0 < 2 ^ f.mw := Nat.two_pow_pos _
  unfold finiteOf
  by_cases hn : n < 2 ^ f.mw
  · rw [if_pos hn, if_pos (Nat.div_eq_of_lt hn), Nat.mod_eq_of_lt hn]
    rfl
  · rw [if_neg hn, if_neg fun h => hn (Nat.lt_of_div_eq_zero pos h)]

/-- What an encoding stands for, by its magnitude. -/
theorem decode_cases {p : Fmt × Nat × Nat × Nat} (hp : IsFormat p) (fz : Bool) (b : Nat) {n : Nat} (hn : n = b % 2 ^ (p.1.w - 1)) :
    (n ≤ p.2.1 ∧ p.1.decode fz b = finiteOf p.1 fz (b.testBit (p.1.w - 1)) n) ∨
    (p.1.ieee = true ∧ n = p.2.2.1 ∧ p.1.decode fz b = .inf (b.testBit (p.1.w - 1))) ∨
    ((if p.1.ieee then p.2.2.1 else p.2.1) < n ∧ p.1.decode fz b = .nan) := by
  obtain ⟨f, maxF, infF, nanF⟩ := p
  obtain ⟨hw, hew, hmw, hmax, -, hinf, -, -⟩ := hp
  dsimp only at *
  have hw1 : f.w - 1 = f.mw + f.ew := by omega
  have pos : 2 ≤ 2 ^ f.mw := (Nat.pow_le_pow_right (by decide) hmw : 2 ^ 1 ≤ 2 ^ f.mw)
  have ewpos : 2 ≤ 2 ^ f.ew := (Nat.pow_le_pow_right (by decide) hew : 2 ^ 1 ≤ 2 ^ f.ew)
  -- exponent and mantissa fields of the magnitude
  have mant : b % 2 ^ f.mw = n % 2 ^ f.mw := by
    rw [hn, hw1, Nat.pow_add, Nat.mod_mul_right_mod]
  have expo : b / 2 ^ f.mw % 2 ^ f.ew = n / 2 ^ f.mw := by
    rw [hn, hw1, Nat.pow_add, Nat.mod_mul_right_div_self]
  have sign : (b / 2 ^ (f.w - 1) % 2 == 1) = b.testBit (f.w - 1) := by
    rw [Nat.testBit_eq_decide_div_mod_eq]
    rfl
  have room : n / 2 ^ f.mw < 2 ^ f.ew := expo ▸ Nat.mod_lt _ (Nat.two_pow_pos _)
  have split := Nat.div_add_mod' n (2 ^ f.mw)
  have small := Nat.mod_lt n (Nat.two_pow_pos f.mw)
  have fields := finiteOf_of_fields f fz (b.testBit (f.w - 1)) n
  unfold Fmt.decode
  rw [mant, expo, sign]
  unfold Fmt.infBits at hmax hinf
  by_cases top : n / 2 ^ f.mw = 2 ^ f.ew - 1
  · rw [top] at split
    cases hi : f.ieee <;> simp only [hi, if_true, if_false, Bool.false_eq_true] at hmax hinf
    · by_cases last : n % 2 ^ f.mw = 2 ^ f.mw - 1
      · refine .inr (.inr ⟨?_, ?_⟩)
        · rw [if_neg Bool.false_ne_true]
          omega
        · simp [top, last]
      · refine .inl ⟨?_, ?_⟩
        · omega
        · simp only [top, last, and_false, Bool.false_eq_true, if_false] at fields ⊢
          exact fields
    · by_cases zero : n % 2 ^ f.mw = 0
      · exact .inr (.inl ⟨rfl, by omega, by simp [top, zero]⟩)
      · exact .inr (.inr ⟨by rw [if_pos rfl]; omega, by simp [top, zero]⟩)
  · have below : n / 2 ^ f.mw + 1 ≤ 2 ^ f.ew - 1 := by omega
    have := Nat.mul_le_mul_right (2 ^ f.mw) below
    rw [Nat.succ_mul] at this
    refine .inl ⟨?_, ?_⟩
    · cases hi : f.ieee <;> simp only [hi, if_true, if_false, Bool.false_eq_true] at hmax <;> omega
    · simp only [top, false_and, if_false]
      exact fields

/-! ## Rounding -/

theorem exceeds_iff (f : Fmt) (m : Nat) (q : Int) : f.exceeds m q = true ↔ (f.maxMant : ℚ) * 2 ^ f.maxExp < m * 2 ^ q := by
  have le := scaled_le_iff m f.maxMant (q - f.maxExp)
  have shift : (m : ℚ) * 2 ^ (q - f.maxExp) ≤ f.maxMant ↔ (m : ℚ) * 2 ^ q ≤ f.maxMant * 2 ^ f.maxExp := by
    rw [zpow_sub₀ (by norm_num), ← mul_div_assoc, div_le_iff₀ (zpow_pos (by norm_num) _)]
  have negated : f.exceeds m q = !decide ((m : ℚ) * 2 ^ (q - f.maxExp) ≤ f.maxMant) := by
    rw [← le]
    unfold Fmt.exceeds
    dsimp only
    split <;> simp only [gt_iff_lt, ← Nat.not_le, decide_not]
  rw [negated, Bool.not_eq_true', decide_eq_false_iff_not, shift, not_le]

/-- The mode that the model rounds with: nearest-even for a stochastic rounding of what exceeds the largest finite number. -/
def modeOf (f : Fmt) (rm : RM) (m : Nat) (e : Int) : RM := if rm = .st ∧ f.exceeds m e then .ne else rm

/-- The rounded units of m · 2^e. -/
def roundedMant (f : Fmt) (rm : RM) (neg : Bool) (m : Nat) (e : Int) (rnd : Nat) : Nat :=
  roundedAt (modeOf f rm m e) neg m e (roundUnit f m e) rnd

/-- Whether a mode makes an infinity of an overflow (R51). -/
def overflowsToInf (rm : RM) (neg : Bool) : Bool :=
  match rm with
  | .ne | .st => true
  | .tz => false
  | .up => !neg
  | .dn => neg

theorem overflowsToInf_iff (rm : RM) (neg : Bool) :
    overflowsToInf rm neg = true ↔ ¬ (rm = .tz ∨ (rm = .up ∧ neg = true) ∨ (rm = .dn ∧ neg = false)) := by
  cases rm <;> cases neg <;> decide

/-- A mantissa that has overflowed moves into the next exponent. -/
def carried (f : Fmt) (M : Nat) (q : Int) : Nat × Int := if M ≥ 2 ^ (f.mw + 1) then (M / 2, q + 1) else (M, q)

/-- The bits of a normal number, as the model puts them together, are its step of the ladder. -/
theorem bits_carried {f : Fmt} {M : Nat} {q : Int} (h : OnLadder f M q) (lead : 2 ^ f.mw ≤ M) :
    ((carried f M q).2 + f.mw + f.bias).toNat * 2 ^ f.mw + ((carried f M q).1 - 2 ^ f.mw) = ladderStep f M q := by
  obtain ⟨low, high, -⟩ := h
  obtain ⟨j, rfl⟩ : ∃ j : Nat, q = ladderLow f + j := ⟨(q - ladderLow f).toNat, by omega⟩
  have field (i : Nat) : (ladderLow f + i + f.mw + f.bias).toNat = i + 1 := by unfold ladderLow; omega
  unfold carried ladderStep
  rw [Nat.pow_succ] at *
  rw [add_sub_cancel_left, Int.toNat_natCast]
  split
  next full =>
    have next := field (j + 1)
    push_cast at next
    rw [← add_assoc (ladderLow f)] at next
    obtain rfl : M = 2 ^ f.mw * 2 := by omega
    rw [next, Nat.mul_div_cancel _ two_pos, Nat.sub_self]
    ring
  next =>
    rw [field, Nat.succ_mul]
    omega

/-- A step is subnormal where its mantissa is. -/
theorem ladderStep_subnormal {f : Fmt} {M : Nat} {q : Int} (h : OnLadder f M q) (hM : M < 2 ^ f.mw) : ladderStep f M q = M := by
  obtain rfl : q = ladderLow f := h.lead.resolve_right (not_le.mpr hM)
  simp [ladderStep]

/-- The step of the ladder that the model's rounding comes to. -/
def roundedStep (f : Fmt) (rm : RM) (neg : Bool) (m : Nat) (e : Int) (rnd : Nat) : Nat :=
  ladderStep f (roundedMant f rm neg m e rnd) (roundUnit f m e)

theorem roundedStep_eq (f : Fmt) (rm : RM) (neg : Bool) (m : Nat) (e : Int) (rnd : Nat) : roundedStep f rm neg m e rnd =
    if roundsUp (modeOf f rm m e) neg (mantAt m e (roundUnit f m e)) (restAt m e (roundUnit f m e)) (roundUnit f m e - e).toNat rnd
      then ladderStep f (mantAt m e (roundUnit f m e)) (roundUnit f m e) + 1
      else ladderStep f (mantAt m e (roundUnit f m e)) (roundUnit f m e) := by
  rw [roundedStep, roundedMant, roundedAt_eq, apply_ite (fun M => ladderStep f M (roundUnit f m e))]
  rfl

/-- The mantissa has the parity of its step, for the hidden bit stands above the mantissa field. -/
theorem ladderStep_mod_two {f : Fmt} (hmw : 0 < f.mw) (M : Nat) (q : Int) : M % 2 = ladderStep f M q % 2 := by
  obtain ⟨w, hw⟩ := Nat.exists_eq_succ_of_ne_zero hmw.ne'
  rw [ladderStep, hw, Nat.pow_succ, ← Nat.mul_assoc]
  omega

section
variable (f : Fmt) (rm : RM) (fz : Bool) (rnd : Nat) (neg : Bool) {m : Nat} (hm : m ≠ 0) (e : Int)
include hm

/-- Rounded units are a number of the ladder, whatever the mode. -/
theorem onLadder_roundedMant : OnLadder f (roundedMant f rm neg m e rnd) (roundUnit f m e) :=
  onLadder_roundedAt f hm e (modeOf f rm m e) neg rnd

theorem roundedStep_subnormal (sub : roundedMant f rm neg m e rnd < 2 ^ f.mw) :
    roundedStep f rm neg m e rnd = roundedMant f rm neg m e rnd :=
  ladderStep_subnormal (onLadder_roundedMant f rm rnd neg hm e) sub

theorem picks_roundedStep (hmw : 0 < f.mw) :
    Picks (magnitude f) (modeOf f rm m e) neg rnd (cutAt ((m : ℚ) * 2 ^ e)) (roundedStep f rm neg m e rnd) :=
  roundedStep_eq f rm neg m e rnd ▸ (between_mantAt f hm e).picks (ladderStep_mod_two hmw ..) ..

/-- The rounding is inexact where a rest is left. -/
theorem roundedStep_ne_iff : (magnitude f (roundedStep f rm neg m e rnd) < (m : ℚ) * 2 ^ e ∨
    (m : ℚ) * 2 ^ e < magnitude f (roundedStep f rm neg m e rnd)) ↔ restAt m e (roundUnit f m e) ≠ 0 :=
  (between_mantAt f hm e).picked_ne_iff (roundedStep_eq ..)

/-- A number whose rounded units are subnormal is tiny. -/
theorem lt_least_normal (sub : roundedMant f rm neg m e rnd < 2 ^ f.mw) : (m : ℚ) * 2 ^ e < magnitude f (2 ^ f.mw) := by
  have step := (roundedStep_subnormal f rm rnd neg hm e sub).trans_lt sub
  have le : ladderStep f (mantAt m e (roundUnit f m e)) (roundUnit f m e) ≤ roundedStep f rm neg m e rnd :=
    Nat.add_le_add_left (mantAt_le_roundedAt _ neg m e _ rnd).1 _
  exact (between_mantAt f hm e).lt.trans_le ((strictMono_magnitude f).monotone (le.trans_lt step))

/-! The three outcomes of the model's rounding: overflow, a subnormal number, a normal one. -/

theorem round_of_exceeds (h : f.exceeds (roundedMant f rm neg m e rnd) (roundUnit f m e) = true) :
    f.round rm fz rnd (.fin neg m e) =
      if !f.ieee then (f.signBit neg + f.maxBits, Fl.sat ||| Fl.of ||| Fl.nx)
      else (f.signBit neg + (if overflowsToInf (modeOf f rm m e) neg then f.infBits else f.maxBits), Fl.of ||| Fl.nx) :=
  (if_neg hm).trans (if_pos h)

theorem round_of_subnormal (h : ¬ f.exceeds (roundedMant f rm neg m e rnd) (roundUnit f m e) = true)
    (sub : roundedMant f rm neg m e rnd < 2 ^ f.mw) : f.round rm fz rnd (.fin neg m e) =
      if fz && f.flush && decide (roundedStep f rm neg m e rnd ≠ 0) then (f.signBit neg, Fl.uf ||| Fl.nx)
      else (f.signBit neg + roundedStep f rm neg m e rnd,
        Fl.when (decide (restAt m e (roundUnit f m e) ≠ 0)) (Fl.uf ||| Fl.nx)) := by
  rw [roundedStep_subnormal f rm rnd neg hm e sub]
  exact (if_neg hm).trans ((if_neg h).trans (if_pos sub))

theorem round_of_normal (h : ¬ f.exceeds (roundedMant f rm neg m e rnd) (roundUnit f m e) = true)
    (lead : 2 ^ f.mw ≤ roundedMant f rm neg m e rnd) : f.round rm fz rnd (.fin neg m e) =
      (f.signBit neg + roundedStep f rm neg m e rnd,
        Fl.when (decide (restAt m e (roundUnit f m e) ≠ 0)) Fl.nx |||
          Fl.when (decide (restAt m e (roundUnit f m e) ≠ 0) && decide ((m.log2 : Int) + e < 1 - f.bias)) Fl.uf) := by
  have ladder := onLadder_roundedMant f rm rnd neg hm e
  exact (if_neg hm).trans ((if_neg h).trans ((if_neg (not_lt.mpr lead)).trans
    (congrArg (fun n => (f.signBit neg + n, _)) (bits_carried ladder lead))))

/-- The exceptions of a number that is not flushed: inexact where a rest is left, and then underflow where it is tiny. -/
theorem round_of_kept (h : ¬ f.exceeds (roundedMant f rm neg m e rnd) (roundUnit f m e) = true)
    (kept : (fz && f.flush) = false ∨ roundedStep f rm neg m e rnd = 0 ∨ 2 ^ f.mw ≤ roundedStep f rm neg m e rnd) :
    f.round rm fz rnd (.fin neg m e) = (f.signBit neg + roundedStep f rm neg m e rnd,
      Fl.when (decide (restAt m e (roundUnit f m e) ≠ 0)) Fl.nx |||
        Fl.when (decide (restAt m e (roundUnit f m e) ≠ 0) && decide ((m.log2 : Int) + e < 1 - f.bias)) Fl.uf) := by
  by_cases sub : roundedMant f rm neg m e rnd < 2 ^ f.mw
  · have step := (roundedStep_subnormal f rm rnd neg hm e sub).trans_lt sub
    have unflushed : (fz && f.flush && decide (roundedStep f rm neg m e rnd ≠ 0)) = false := by
      obtain h | h | h := kept
      · rw [h, Bool.false_and]
      · rw [decide_eq_false (not_not.mpr h), Bool.and_false]
      · exact absurd h (not_le.mpr step)
    have tiny := (tiny_iff f hm e).mpr (lt_least_normal f rm rnd neg hm e sub)
    rw [round_of_subnormal f rm fz rnd neg hm e h sub, unflushed, if_neg Bool.false_ne_true, decide_eq_true tiny, Bool.and_true]
    cases decide (restAt m e (roundUnit f m e) ≠ 0) <;> rfl
  · exact round_of_normal f rm fz rnd neg hm e h (not_lt.mp sub)

end

/-- What exceeds the largest finite number of a format, by its encoding. -/
theorem IsFormat.exceeds_iff {p : Fmt × Nat × Nat × Nat} (hp : IsFormat p) (k : Nat) (i : Int) :
    p.1.exceeds k i = true ↔ magnitude p.1 p.2.1 < k * 2 ^ i := by
  rw [Claims.exceeds_iff, hp.largest]

theorem IsFormat.overflow_iff {p : Fmt × Nat × Nat × Nat} (hp : IsFormat p) (rm : RM) (rnd : Nat) (neg : Bool) {m : Nat}
    (hm : m ≠ 0) (e : Int) : p.1.exceeds (roundedMant p.1 rm neg m e rnd) (roundUnit p.1 m e) = true ↔
      p.2.1 < roundedStep p.1 rm neg m e rnd := by
  rw [hp.exceeds_iff, ← (strictMono_magnitude p.1).lt_iff_lt, roundedStep,
    magnitude_step (onLadder_roundedMant p.1 rm rnd neg hm e)]

/-- Rounding a nonzero number gives the step that the mode picks, with the exceptions of a rest, a tiny number and overflow. -/
theorem rounded_round {p : Fmt × Nat × Nat × Nat} (hp : IsFormat p) (rm : RM) (fz : Bool) (rnd : Nat) (neg : Bool) {m : Nat}
    (hm : m ≠ 0) (e : Int) : Rounded p rm fz rnd neg (cutAt ((m : ℚ) * 2 ^ e)) (p.1.round rm fz rnd (.fin neg m e)) := by
  have overflow := hp.overflow_iff rm rnd neg hm e
  have inexact := roundedStep_ne_iff p.1 rm rnd neg hm e
  have tiny := tiny_iff p.1 hm e
  refine ⟨modeOf p.1 rm m e, roundedStep p.1 rm neg m e rnd, fun h => if_pos ⟨h.1, (hp.exceeds_iff m e).mpr h.2⟩,
    fun h => if_neg fun h' => h ⟨h'.1, (hp.exceeds_iff m e).mp h'.2⟩, picks_roundedStep p.1 rm rnd neg hm e hp.mw_pos,
    fun h => ?overflows, fun h flush pos lt => ?flushed, fun h kept => ?kept⟩
  case overflows =>
    rw [round_of_exceeds p.1 rm fz rnd neg hm e (overflow.mpr h), hp.max_fmt, hp.inf_eq]
    cases hi : p.1.ieee
    · rw [if_neg Bool.false_ne_true, if_neg Bool.false_ne_true, ite_self]
      rfl
    · simp only [Bool.not_true, Bool.false_eq_true, if_false, if_true, overflowsToInf_iff, ite_not]
      rfl
  case flushed =>
    have sub : roundedMant p.1 rm neg m e rnd < 2 ^ p.1.mw := (Nat.le_add_left ..).trans_lt lt
    rw [round_of_subnormal p.1 rm fz rnd neg hm e (mt overflow.mp (not_lt.mpr h)) sub, flush, decide_eq_true pos.ne']
    rfl
  case kept =>
    rw [round_of_kept p.1 rm fz rnd neg hm e (mt overflow.mp (not_lt.mpr h)) kept]
    refine ⟨rfl, fun hne => ⟨fun ht => ?_, fun hn => ?_⟩, fun heq => ?_⟩
    · rw [decide_eq_true (inexact.mp hne), decide_eq_true (tiny.mpr ht)]
      rfl
    · rw [decide_eq_true (inexact.mp hne), decide_eq_false (mt tiny.mp hn)]
      rfl
    · rw [decide_eq_false (mt inexact.mpr heq), Bool.false_and]
      rfl

/-! ## Rounding to an integer (R51) -/

/-- The integers as a ladder. -/
theorem between_integer (m : Nat) (e : Int) :
    Between (fun n => n) (m * 2 ^ e) (mantAt m e 0) (restAt m e 0) (0 - e).toNat := by
  refine ⟨Nat.strictMono_cast, restAt_lt .., ?_⟩
  have split := mantAt_add_restAt m e 0
  rw [zpow_zero, mul_one] at split
  rw [split]
  push_cast
  ring

/-- The model's rounding to an integer, before the range is looked at. -/
theorem toRange_fin (neg : Bool) (m : Nat) (e : Int) (rm : RM) (lo hi : Int) {v : Int} {b : Nat}
    (hb : b = roundedAt (if rm = .st then .ne else rm) neg m e 0 0) (hv : v = if neg then -(b : Int) else b) :
    Num.toRange (.fin neg m e) rm lo hi = if v < lo then (lo, Fl.sat ||| Fl.nx) else if hi < v then (hi, Fl.sat ||| Fl.nx)
      else (v, Fl.when (decide (restAt m e 0 ≠ 0)) Fl.nx) := by
  subst hv hb
  simp only [Num.toRange, roundedAt, mantAt, restAt, sub_zero, zero_sub, ge_iff_le]

theorem toRange_spec (neg : Bool) (m : Nat) (e : Int) (rm : RM) {lo hi : Int} (order : lo ≤ hi) :
    ∃ b v, Picks (fun n => n) (if rm = .st then .ne else rm) neg 0 (cutAt ((m : ℚ) * 2 ^ e)) b ∧
      v = (if neg then -(b : Int) else b) ∧
      ((v < lo ∨ hi < v) → Num.toRange (.fin neg m e) rm lo hi = (max lo (min hi v), Fl.sat ||| Fl.nx)) ∧
      (lo ≤ v → v ≤ hi → ((b : ℚ) = m * 2 ^ e → Num.toRange (.fin neg m e) rm lo hi = (v, 0)) ∧
        ((b : ℚ) ≠ m * 2 ^ e → Num.toRange (.fin neg m e) rm lo hi = (v, Fl.nx))) := by
  have between := between_integer m e
  have step := roundedAt_eq (if rm = .st then .ne else rm) neg m e 0 0
  have picks := between.picks rfl (if rm = .st then .ne else rm) neg 0
  rw [← step] at picks
  have inexact := between.picked_ne_iff step
  rw [← ne_iff_lt_or_gt] at inexact
  refine ⟨_, _, picks, rfl, fun out => ?_, fun hlo hhi => ⟨fun heq => ?_, fun hne => ?_⟩⟩ <;>
    rw [toRange_fin neg m e rm lo hi rfl rfl]
  · generalize (if neg then -(roundedAt (if rm = .st then .ne else rm) neg m e 0 0 : Int) else
      (roundedAt (if rm = .st then .ne else rm) neg m e 0 0 : Int)) = v at out ⊢
    split
    next h => rw [min_eq_right (by omega), max_eq_left h.le]
    next h => rw [if_pos (out.resolve_left h), min_eq_left (out.resolve_left h).le, max_eq_right order]
  · rw [if_neg (not_lt.mpr hlo), if_neg (not_lt.mpr hhi), decide_eq_false (mt inexact.mpr (not_not.mpr heq))]
    rfl
  · rw [if_neg (not_lt.mpr hlo), if_neg (not_lt.mpr hhi), decide_eq_true (inexact.mp hne)]
    rfl

/-! ## The obligation -/

theorem round_nan_inf_zero {p : Fmt × Nat × Nat × Nat} (hp : IsFormat p) (rm : RM) (fz : Bool) (rnd : Nat) (neg : Bool) :
    p.1.round rm fz rnd .nan = (p.2.2.2, 0) ∧
      p.1.round rm fz rnd (.inf neg) = (p.1.signBit neg + p.2.2.1, if p.1.ieee then 0 else Fl.of ||| Fl.nx ||| Fl.sat) ∧
      ∀ e, p.1.round rm fz rnd (.fin neg 0 e) = (p.1.signBit neg, 0) := by
  refine ⟨congrArg (·, (0 : Fl)) hp.nan_eq, ?_, fun _ => rfl⟩
  rw [Fmt.round, hp.inf_eq, hp.max_fmt]
  cases p.1.ieee <;> rfl

section
variable {p : Fmt × Nat × Nat × Nat} (hp : IsFormat p) (fz : Bool) {b : Nat}
include hp

/-- The three kinds of encodings. -/
theorem decode_of_le (h : b % 2 ^ (p.1.w - 1) ≤ p.2.1) :
    p.1.decode fz b = finiteOf p.1 fz (b.testBit (p.1.w - 1)) (b % 2 ^ (p.1.w - 1)) := by
  obtain ⟨-, h'⟩ | ⟨ieee, eq, -⟩ | ⟨lt, -⟩ := decode_cases hp fz b rfl
  · exact h'
  · have := hp.max_lt_inf ieee
    omega
  · exact absurd (hp.max_le_top.trans_lt lt) (not_lt.mpr h)

theorem decode_of_eq_inf (ieee : p.1.ieee = true) (h : b % 2 ^ (p.1.w - 1) = p.2.2.1) :
    p.1.decode fz b = .inf (b.testBit (p.1.w - 1)) := by
  obtain ⟨le, -⟩ | ⟨-, -, h'⟩ | ⟨lt, -⟩ := decode_cases hp fz b rfl
  · have := hp.max_lt_inf ieee
    omega
  · exact h'
  · rw [if_pos ieee] at lt
    omega

theorem decode_of_gt (h : (if p.1.ieee then p.2.2.1 else p.2.1) < b % 2 ^ (p.1.w - 1)) : p.1.decode fz b = .nan := by
  obtain ⟨le, -⟩ | ⟨ieee, eq, -⟩ | ⟨-, h'⟩ := decode_cases hp fz b rfl
  · exact absurd (hp.max_le_top.trans_lt h) (not_lt.mpr le)
  · rw [if_pos ieee] at h
    omega
  · exact h'

end

theorem decode_spec {p : Fmt × Nat × Nat × Nat} (hp : IsFormat p) (fz : Bool) (b : Nat) (neg : Bool) (n : Nat)
    (hneg : neg = b.testBit (p.1.w - 1)) (hn : n = b % 2 ^ (p.1.w - 1)) :
    (p.1.ieee = true → n = p.2.2.1 → p.1.decode fz b = .inf neg) ∧
      ((if p.1.ieee then p.2.2.1 else p.2.1) < n → p.1.decode fz b = .nan) ∧
      (n ≤ p.2.1 → ∃ m e, p.1.decode fz b = .fin neg m e ∧
        (m : ℚ) * 2 ^ e = if (fz && p.1.flush) = true ∧ n < 2 ^ p.1.mw then 0 else magnitude p.1 n) := by
  subst hneg hn
  exact ⟨decode_of_eq_inf hp fz, decode_of_gt hp fz, fun h => by rw [decode_of_le hp fz h]; exact finiteOf_eq ..⟩

/-- Settles O2: each encoding is read by its magnitude, and the model's rounding is that of the ladder of magnitudes. -/
theorem roundingResult : Obligations.RoundingResult := by
  unfold Obligations.RoundingResult
  refine ⟨fun p mem fz => ?_, fun rm lo hi order => ⟨rfl, fun neg => rfl, fun neg m e => toRange_spec neg m e rm order⟩⟩
  have hp := isFormat_of_mem p mem
  refine ⟨fun b _ neg n hneg hn => decode_spec hp fz b neg n hneg hn, fun rm rnd neg => ?_⟩
  obtain ⟨nan, inf, zero⟩ := round_nan_inf_zero hp rm fz rnd neg
  exact ⟨nan, inf, zero, fun m e hm => rounded_round hp rm fz rnd neg hm e⟩

end Sys2Proof.Claims

/-!
Exact sums and products of finite numbers, and what rounding makes of them (03 R47, 06 R104 to R106).
-/
namespace Sys2Proof.Claims
open Machine

/-! ## Values -/

theorem value_fin (s : Bool) (m : Nat) (e : Int) : value (.fin s m e) = (if s then -1 else 1) * ((m : ℚ) * 2 ^ e) := rfl

theorem abs_value_fin (s : Bool) (m : Nat) (e : Int) : |value (.fin s m e)| = m * 2 ^ e := by
  have : (0 : ℚ) ≤ m * 2 ^ e := by positivity
  cases s <;> simp [value_fin, abs_of_nonneg this]

theorem value_fin_eq_zero {s : Bool} {m : Nat} {e : Int} : value (.fin s m e) = 0 ↔ m = 0 := by
  rw [← abs_eq_zero, abs_value_fin, mul_eq_zero, Nat.cast_eq_zero, or_iff_left (by positivity)]

/-- A number other than zero has the sign of its value. -/
theorem sign_eq_of_value {s : Bool} {m : Nat} {e : Int} (h : value (.fin s m e) ≠ 0) : s = true ↔ value (.fin s m e) < 0 := by
  have : (0 : ℚ) ≤ m * 2 ^ e := by positivity
  cases s
  · simpa [value_fin] using this
  · simpa using lt_of_le_of_ne (by simpa [value_fin] using this) h

theorem isFin_fin (s : Bool) (m : Nat) (e : Int) : IsFin (.fin s m e) := ⟨s, m, e, rfl⟩

theorem not_isFin_nan : ¬ IsFin .nan := fun ⟨_, _, _, h⟩ => by cases h
theorem not_isFin_inf (s : Bool) : ¬ IsFin (.inf s) := fun ⟨_, _, _, h⟩ => by cases h

theorem scaled_mul_zpow (s : Bool) (m : Nat) {e lo : Int} (h : lo ≤ e) : (scaled s m e lo : ℚ) * 2 ^ lo = value (.fin s m e) := by
  obtain ⟨n, rfl⟩ : ∃ n : Nat, e = lo + n := ⟨(e - lo).toNat, by omega⟩
  rw [scaled, add_sub_cancel_left, Int.toNat_natCast, value_fin, zpow_add₀ (by norm_num), zpow_natCast]
  cases s <;> push_cast <;> ring

theorem value_negate (x : Machine.Num) : value x.negate = -value x := by
  cases x with
  | nan | inf => simp [value, Num.negate]
  | fin s m e => cases s <;> simp [value, Num.negate]

theorem neg_negate {x : Machine.Num} (h : IsFin x) : x.negate.neg? = !x.neg? := by
  obtain ⟨s, m, e, rfl⟩ := h
  rfl

theorem isFin_negate {x : Machine.Num} (h : IsFin x) : IsFin x.negate := by
  obtain ⟨s, m, e, rfl⟩ := h
  exact isFin_fin ..

/-- The product of finite numbers. -/
theorem mul_of_isFin {x y : Machine.Num} (hx : IsFin x) (hy : IsFin y) : ∃ z, x.mul y = (z, 0) ∧ IsFin z ∧
    value z = value x * value y ∧ z.neg? = (x.neg? ^^ y.neg?) := by
  obtain ⟨s, m, e, rfl⟩ := hx
  obtain ⟨t, n, f, rfl⟩ := hy
  refine ⟨_, rfl, isFin_fin .., ?_, rfl⟩
  rw [value_fin, value_fin, value_fin, zpow_add₀ (by norm_num)]
  cases s <;> cases t <;> push_cast <;> ring_nf <;> simp

/-! ## The exact sum -/

/-- The folds of the model's sum: the least exponent, and the sum in units of it. -/
def lowWith (a : Int) (x : Machine.Num) : Int :=
  match x with
  | .fin _ _ e => min a e
  | _ => a
def addAt (lo a : Int) (x : Machine.Num) : Int :=
  match x with
  | .fin s m e => a + scaled s m e lo
  | _ => a

theorem sum_eq (rm : RM) (l : List Machine.Num) : Num.sum rm l =
    if l.any (· == .nan) then (.nan, 0)
    else if l.any (· == .inf false) then (if l.any (· == .inf true) then (.nan, Fl.nv) else (.inf false, 0))
    else if l.any (· == .inf true) then (.inf true, 0)
    else if l.foldl (addAt (l.foldl lowWith 0)) 0 = 0 then
      (.zero (if (l.all fun x => x.isZero && x.neg?) && !l.isEmpty then true
        else if l.all fun x => x.isZero && !x.neg? then false else rm == .dn), 0)
    else (.fin (decide (l.foldl (addAt (l.foldl lowWith 0)) 0 < 0)) (l.foldl (addAt (l.foldl lowWith 0)) 0).natAbs
      (l.foldl lowWith 0), 0) := rfl

theorem foldl_lowWith_le (l : List Machine.Num) (a : Int) :
    l.foldl lowWith a ≤ a ∧ ∀ s m e, Machine.Num.fin s m e ∈ l → l.foldl lowWith a ≤ e := by
  induction l generalizing a with
  | nil => simp
  | cons x l ih =>
    obtain ⟨le, all⟩ := ih (lowWith a x)
    have step : lowWith a x ≤ a := by cases x <;> simp [lowWith]
    refine ⟨le.trans step, fun s m e h => ?_⟩
    obtain rfl | h := List.mem_cons.mp h
    · exact le.trans (min_le_right a e)
    · exact all s m e h

theorem foldl_addAt (lo : Int) (l : List Machine.Num) (hl : ∀ x ∈ l, ∃ s m e, x = .fin s m e ∧ lo ≤ e) (a : Int) :
    ((l.foldl (addAt lo) a : Int) : ℚ) * 2 ^ lo = a * 2 ^ lo + (l.map value).sum := by
  induction l generalizing a with
  | nil => simp
  | cons x l ih =>
    obtain ⟨s, m, e, rfl, he⟩ := hl x List.mem_cons_self
    rw [List.foldl_cons, ih (fun y hy => hl y (List.mem_cons_of_mem _ hy)), List.map_cons, List.sum_cons, ← scaled_mul_zpow s m he,
      addAt]
    push_cast
    ring

/-- N is the exact sum of terms of a sign and a value, and an exact zero has the sign that R104 gives it. -/
structure IsSum (rm : RM) (l : List (Bool × ℚ)) (N : Machine.Num) : Prop where
  fin   : IsFin N
  total : value N = (l.map (·.2)).sum
  same  : value N = 0 → ∀ neg, (∀ t ∈ l, t = (neg, 0)) → N.neg? = neg
  mixed : value N = 0 → (∀ neg, ∃ t ∈ l, t ≠ (neg, 0)) → N.neg? = (rm == .dn)

/-- Sign and value of a number. -/
def termOf (x : Machine.Num) : Bool × ℚ := (x.neg?, value x)

theorem isZero_iff {x : Machine.Num} (h : IsFin x) : x.isZero = true ↔ value x = 0 := by
  obtain ⟨s, m, e, rfl⟩ := h
  rw [value_fin_eq_zero]
  cases m <;> simp [Num.isZero]

theorem termOf_eq_iff {x : Machine.Num} (h : IsFin x) (neg : Bool) :
    termOf x = (neg, 0) ↔ (x.isZero && (if neg then x.neg? else !x.neg?)) = true := by
  rw [termOf, Prod.mk.injEq, Bool.and_eq_true, isZero_iff h, and_comm]
  cases neg <;> simp

theorem all_termOf_iff {l : List Machine.Num} (hl : ∀ x ∈ l, IsFin x) (neg : Bool) :
    (l.all fun x => x.isZero && (if neg then x.neg? else !x.neg?)) = true ↔ ∀ t ∈ l.map termOf, t = (neg, 0) := by
  rw [List.all_eq_true, List.forall_mem_map]
  exact forall₂_congr fun x hx => (termOf_eq_iff (hl x hx) neg).symm

theorem sum_of_isFin (rm : RM) {l : List Machine.Num} (hl : ∀ x ∈ l, IsFin x) (hne : l ≠ []) :
    ∃ N, Num.sum rm l = (N, 0) ∧ IsSum rm (l.map termOf) N := by
  have noNan : l.any (· == .nan) = false := List.any_eq_false.mpr fun x hx h =>
    not_isFin_nan (beq_iff_eq.mp h ▸ hl x hx)
  have noInf (s : Bool) : l.any (· == .inf s) = false := List.any_eq_false.mpr fun x hx h =>
    not_isFin_inf s (beq_iff_eq.mp h ▸ hl x hx)
  set lo := l.foldl lowWith 0 with hlo
  have sum := foldl_addAt lo l (fun x hx => by
    obtain ⟨s, m, e, rfl⟩ := hl x hx
    exact ⟨s, m, e, rfl, (foldl_lowWith_le l 0).2 s m e hx⟩) 0
  have values : ((l.map termOf).map (·.2)).sum = (l.map value).sum := by rw [List.map_map]; rfl
  rw [Int.cast_zero, zero_mul, zero_add, ← values] at sum
  set v := l.foldl (addAt lo) 0 with hv
  have unit : (0 : ℚ) < 2 ^ lo := zpow_pos (by norm_num) lo
  rw [sum_eq, noNan, noInf, noInf, ← hlo, ← hv]
  simp only [Bool.false_eq_true, if_false]
  by_cases h0 : v = 0
  · rw [if_pos h0]
    rw [h0, Int.cast_zero, zero_mul] at sum
    have zero (neg : Bool) : value (Machine.Num.zero neg) = 0 := value_fin_eq_zero.mpr rfl
    have allNeg : (l.all fun x => x.isZero && x.neg?) = true ↔ ∀ t ∈ l.map termOf, t = (true, 0) := all_termOf_iff hl true
    have allPos : (l.all fun x => x.isZero && !x.neg?) = true ↔ ∀ t ∈ l.map termOf, t = (false, 0) := all_termOf_iff hl false
    have nonempty : l.isEmpty = false := List.isEmpty_eq_false_iff.mpr hne
    refine ⟨_, rfl, isFin_fin .., (zero _).trans sum, fun _ neg h => ?_, fun _ h => ?_⟩
    · cases neg
      · have notNeg : ¬ ∀ t ∈ l.map termOf, t = (true, 0) := fun h' => by
          obtain ⟨x, hx⟩ := List.exists_mem_of_ne_nil l hne
          have hx := List.mem_map_of_mem (f := termOf) hx
          cases (h _ hx).symm.trans (h' _ hx)
        rw [Bool.eq_false_iff.mpr (mt allNeg.mp notNeg), allPos.mpr h]
        rfl
      · rw [allNeg.mpr h, nonempty]
        rfl
    · have not_ (neg : Bool) : ¬ ∀ t ∈ l.map termOf, t = (neg, 0) := fun h' => by
        obtain ⟨t, ht, hne⟩ := h neg
        exact hne (h' t ht)
      rw [Bool.eq_false_iff.mpr (mt allNeg.mp (not_ true)), Bool.eq_false_iff.mpr (mt allPos.mp (not_ false))]
      rfl
  · have nonzero : value (.fin (decide (v < 0)) v.natAbs lo) = (v : ℚ) * 2 ^ lo := by
      rw [value_fin, Nat.cast_natAbs, ← mul_assoc]
      by_cases hv : v < 0
      · simp [hv, abs_of_neg hv]
      · simp [hv, abs_of_nonneg (not_lt.mp hv)]
    have ne : value (.fin (decide (v < 0)) v.natAbs lo) ≠ 0 := by
      rw [nonzero]
      exact mul_ne_zero (Int.cast_ne_zero.mpr h0) unit.ne'
    rw [if_neg h0]
    exact ⟨_, rfl, isFin_fin .., nonzero.trans sum, fun h => absurd h ne, fun h => absurd h ne⟩

/-- A product alone is a sum of one term. -/
theorem isSum_singleton (rm : RM) {N : Machine.Num} (h : IsFin N) : IsSum rm [termOf N] N where
  fin := h
  total := by simp [termOf]
  same := fun _ neg h => congrArg Prod.fst (h (termOf N) List.mem_cons_self)
  mixed := fun h0 h => by
    obtain ⟨t, ht, hne⟩ := h N.neg?
    rw [List.mem_singleton.mp ht, termOf, h0] at hne
    exact absurd rfl hne

/-! ## Rounding it -/

theorem finish_zero_flags (f : Fmt) (rm : RM) (fz : Bool) (N : Machine.Num) : f.finish rm fz (N, 0) = f.round rm fz 0 N := by
  simp [Fmt.finish]

/-- What rounding makes of an exact sum. -/
theorem finish_isSum {p : Fmt × Nat × Nat × Nat} (hp : IsFormat p) {rm : RM} (fz : Bool) {l : List (Bool × ℚ)} {N : Machine.Num}
    (h : IsSum rm l N) :
    (∀ neg, (l.map (·.2)).sum ≠ 0 → (neg = true ↔ (l.map (·.2)).sum < 0) →
      Rounded p rm fz 0 neg (cutAt |(l.map (·.2)).sum|) (p.1.finish rm fz (N, 0))) ∧
    ((l.map (·.2)).sum = 0 → (∀ neg, (∀ t ∈ l, t = (neg, 0)) → p.1.finish rm fz (N, 0) = (p.1.signBit neg, 0)) ∧
      ((∀ neg, ∃ t ∈ l, t ≠ (neg, 0)) → p.1.finish rm fz (N, 0) = (p.1.signBit (rm == .dn), 0))) := by
  obtain ⟨⟨s, m, e, rfl⟩, sum, same, mixed⟩ := h
  rw [← sum, finish_zero_flags, abs_value_fin]
  refine ⟨fun neg ne sign => ?_, fun h0 => ?_⟩
  · have hs : neg = s := Bool.eq_iff_iff.mpr (sign.trans (sign_eq_of_value ne).symm)
    exact hs ▸ rounded_round hp rm fz 0 s (mt value_fin_eq_zero.mpr ne) e
  · obtain rfl := value_fin_eq_zero.mp h0
    have zero := (round_nan_inf_zero hp rm fz 0 s).2.2 e
    exact ⟨fun neg h => by rw [zero, ← same h0 neg h]; rfl, fun h => by rw [zero, ← mixed h0 h]; rfl⟩

end Sys2Proof.Claims

/-!
Sums, products and multiply-adds of floating-point elements (03 R47, 06 R104 to R106).
-/
namespace Sys2Proof.Claims
open Machine

section
variable (f : Fmt) (rm : RM) (fz : Bool)

/-- Two terms without exceptions, summed and rounded. -/
theorem sumUp_two (x y : Machine.Num) : f.sumUp rm fz [(x, 0), (y, 0)] = f.finish rm fz (Num.sum rm [x, y]) := by
  simp [Fmt.sumUp]

theorem sumUp_of_isFin {x y : Machine.Num} (hx : IsFin x) (hy : IsFin y) : ∃ N,
    f.sumUp rm fz [(x, 0), (y, 0)] = f.finish rm fz (N, 0) ∧ IsSum rm [termOf x, termOf y] N := by
  obtain ⟨N, sum, h⟩ := sum_of_isFin rm (l := [x, y]) (by simp [hx, hy]) (by simp)
  exact ⟨N, by rw [sumUp_two, sum], h⟩

/-- Each operation on finite elements rounds the exact sum of its terms once. -/
theorem floatSums_of_isFin (a b d : Nat) (x y z : Machine.Num) (hx : x = f.decode fz a) (hy : y = f.decode fz b)
    (hz : z = f.decode fz d) (fx : IsFin x) (fy : IsFin y) : ∀ q ∈ floatSums, (q.2.1 = true → IsFin z) →
    ∃ N, q.1 f rm fz a b d = f.finish rm fz (N, 0) ∧ IsSum rm (q.2.2 x y z) N := by
  obtain ⟨xy, product, fxy, value_xy, sign_xy⟩ := mul_of_isFin fx fy
  have term_xy : termOf xy = (x.neg? ^^ y.neg?, value x * value y) := by rw [termOf, sign_xy, value_xy]
  have term_negate {w : Machine.Num} (hw : IsFin w) : termOf w.negate = (!w.neg?, -value w) := by
    rw [termOf, neg_negate hw, value_negate]
  simp only [floatSums, List.forall_mem_cons, List.not_mem_nil, false_imp_iff, implies_true, and_true]
  refine ⟨fun _ => ?_, fun _ => ?_, fun _ => ?_, fun h => ?_, fun h => ?_⟩
  · rw [fAdd, ← hx, ← hy]
    exact sumUp_of_isFin f rm fz fx fy
  · rw [fSub, ← hx, ← hy, ← term_negate fy]
    exact sumUp_of_isFin f rm fz fx (isFin_negate fy)
  · rw [fMul, ← hx, ← hy, product, ← term_xy]
    exact ⟨xy, rfl, isSum_singleton rm fxy⟩
  · rw [fFma, ← hx, ← hy, ← hz, product, ← term_xy]
    exact sumUp_of_isFin f rm fz fxy (h trivial)
  · rw [fFms, ← hx, ← hy, ← hz, product, ← sign_xy, ← value_xy, ← term_negate fxy]
    exact sumUp_of_isFin f rm fz (isFin_negate fxy) (h trivial)

/-! ## NaNs and infinities (R47) -/

theorem mul_nan {x y : Machine.Num} (h : x = .nan ∨ y = .nan) : x.mul y = (.nan, 0) := by
  obtain rfl | rfl := h
  · rfl
  · cases x <;> rfl

/-- A NaN among two terms is their sum. -/
theorem sumUp_nan {u v : Machine.Num × Fl} (h : u.1 = .nan ∨ v.1 = .nan) : (f.sumUp rm fz [u, v]).1 = f.nanBits := by
  have any : [u.1, v.1].any (· == .nan) = true := by simpa using h
  have sum : Num.sum rm [u.1, v.1] = (.nan, 0) := if_pos any
  unfold Fmt.sumUp
  rw [List.map_cons, List.map_cons, List.map_nil, sum]
  rfl

/-- A NaN operand gives a NaN. -/
theorem floatSums_nan (a b d : Nat) (x y z : Machine.Num) (hx : x = f.decode fz a) (hy : y = f.decode fz b)
    (hz : z = f.decode fz d) : ∀ q ∈ floatSums, (x = .nan ∨ y = .nan ∨ (q.2.1 = true ∧ z = .nan)) →
      (q.1 f rm fz a b d).1 = f.nanBits := by
  have product (h : ¬ z = .nan → x = .nan ∨ y = .nan) : (x.mul y).1 = .nan ∨ z = .nan :=
    (em (z = .nan)).symm.imp_left fun hn => by rw [mul_nan (h hn)]
  have negated (h : (x.mul y).1 = .nan ∨ z = .nan) : (x.mul y).1.negate = .nan ∨ z = .nan := h.imp_left fun h => by rw [h]; rfl
  simp only [floatSums, List.forall_mem_cons, List.not_mem_nil, false_imp_iff, implies_true, and_true, Bool.false_eq_true,
    false_and, or_false, true_and]
  refine ⟨fun h => ?_, fun h => ?_, fun h => ?_, fun h => ?_, fun h => ?_⟩
  · rw [fAdd, ← hx, ← hy]
    exact sumUp_nan f rm fz h
  · rw [fSub, ← hx, ← hy]
    exact sumUp_nan f rm fz (h.imp_right fun h => by rw [h]; rfl)
  · rw [fMul, ← hx, ← hy, mul_nan h]
    rfl
  · rw [fFma, ← hx, ← hy, ← hz]
    exact sumUp_nan f rm fz (product fun hn => h.imp_right fun h => h.resolve_right hn)
  · rw [fFms, ← hx, ← hy, ← hz]
    exact sumUp_nan f rm fz (negated (product fun hn => h.imp_right fun h => h.resolve_right hn))

end

/-- The sum of an infinity and another number: a NaN with the infinity of the other sign, else the infinity. -/
theorem sum_inf (rm : RM) (neg : Bool) {y : Machine.Num} (hy : y ≠ .nan) : Num.sum rm [.inf neg, y] =
    if y = .inf (!neg) then (.nan, Fl.nv) else (.inf neg, 0) := by
  cases y with
  | nan => exact absurd rfl hy
  | inf t => cases neg <;> cases t <;> rfl
  | fin t n f => cases neg <;> simp [Num.sum]

/-- Its product with a zero, and with any other number. -/
theorem inf_mul_zero (neg : Bool) {y : Machine.Num} (hy : IsFin y) (h0 : value y = 0) : (Num.inf neg).mul y = (.nan, Fl.nv) := by
  obtain ⟨t, n, f, rfl⟩ := hy
  exact if_pos (value_fin_eq_zero.mp h0)

theorem inf_mul (neg : Bool) {y : Machine.Num} (hy : y ≠ .nan) (h0 : IsFin y → value y ≠ 0) :
    (Num.inf neg).mul y = (.inf (neg ^^ y.neg?), 0) := by
  cases y with
  | nan => exact absurd rfl hy
  | inf t => rfl
  | fin t n f => exact if_neg (mt value_fin_eq_zero.mpr (h0 (isFin_fin ..)))

theorem decode_eq_inf {p : Fmt × Nat × Nat × Nat} (hp : IsFormat p) {fz : Bool} {a : Nat} {neg : Bool} (h : p.1.decode fz a = .inf neg) :
    p.1.ieee = true := by
  obtain ⟨-, h'⟩ | ⟨ieee, -⟩ | ⟨-, h'⟩ := decode_cases hp fz a rfl
  · obtain ⟨m, e, hfin, -⟩ := finiteOf_eq p.1 fz (a.testBit (p.1.w - 1)) (a % 2 ^ (p.1.w - 1))
    cases h.symm.trans (h'.trans hfin)
  · exact ieee
  · cases h.symm.trans h'

/-- Sums and products with an infinity, rounded. -/
theorem fAdd_fMul_inf {p : Fmt × Nat × Nat × Nat} (hp : IsFormat p) (rm : RM) (fz : Bool) (a b : Nat) (x y : Machine.Num) (neg : Bool)
    (hx : x = p.1.decode fz a) (hy : y = p.1.decode fz b) (inf : x = .inf neg) :
    (y = .inf (!neg) → fAdd p.1 rm fz a b 0 = (p.2.2.2, Fl.nv)) ∧
    (y ≠ .nan → y ≠ .inf (!neg) → fAdd p.1 rm fz a b 0 = (p.1.signBit neg + p.2.2.1, 0)) ∧
    (IsFin y → value y = 0 → fMul p.1 rm fz a b 0 = (p.2.2.2, Fl.nv)) ∧
    (y ≠ .nan → (IsFin y → value y ≠ 0) → fMul p.1 rm fz a b 0 = (p.1.signBit (neg ^^ y.neg?) + p.2.2.1, 0)) := by
  have ieee := decode_eq_inf hp (hx.symm.trans inf)
  have finish_nan : p.1.finish rm fz (.nan, Fl.nv) = (p.2.2.2, Fl.nv) := congrArg (·, Fl.nv) hp.nan_eq
  have finish_inf (s : Bool) : p.1.finish rm fz (.inf s, 0) = (p.1.signBit s + p.2.2.1, 0) := by
    rw [finish_zero_flags, (round_nan_inf_zero hp rm fz 0 s).2.1, if_pos ieee]
  rw [fAdd, fMul, ← hx, ← hy, sumUp_two, inf]
  refine ⟨fun h => ?_, fun hn h => ?_, fun hf h0 => ?_, fun hn h0 => ?_⟩
  · rw [sum_inf rm neg (fun hn => by cases h.symm.trans hn), if_pos h, finish_nan]
  · rw [sum_inf rm neg hn, if_neg h, finish_inf]
  · rw [inf_mul_zero neg hf h0, finish_nan]
  · rw [inf_mul neg hn h0, finish_inf]

end Sys2Proof.Claims

/-!
Minimum, maximum, absolute value and negation of floating-point elements (03 R53, 06 R106).
-/
namespace Sys2Proof.Claims
open Machine

/-! ## Comparison of finite numbers -/

theorem scaled_lt_iff (s t : Bool) (m n : Nat) (e f : Int) :
    scaled s m e (min e f) < scaled t n f (min e f) ↔ value (.fin s m e) < value (.fin t n f) := by
  rw [← scaled_mul_zpow s m (min_le_left e f), ← scaled_mul_zpow t n (min_le_right e f),
    mul_lt_mul_iff_left₀ (zpow_pos (by norm_num) _), Int.cast_lt]

theorem lt_iff {x y : Machine.Num} (hx : IsFin x) (hy : IsFin y) : x.lt y = true ↔ value x < value y := by
  obtain ⟨s, m, e, rfl⟩ := hx
  obtain ⟨t, n, f, rfl⟩ := hy
  exact decide_eq_true_iff.trans (scaled_lt_iff s t m n e f)

theorem eq_iff {x y : Machine.Num} (hx : IsFin x) (hy : IsFin y) : x.eq y = true ↔ value x = value y := by
  obtain ⟨s, m, e, rfl⟩ := hx
  obtain ⟨t, n, f, rfl⟩ := hy
  refine decide_eq_true_iff.trans ?_
  rw [← scaled_mul_zpow s m (min_le_left e f), ← scaled_mul_zpow t n (min_le_right e f),
    mul_left_inj' (zpow_pos (by norm_num) _).ne', Int.cast_inj]

/-- The order in which −0 is less than +0 (R106). -/
theorem below_iff {x y : Machine.Num} (hx : IsFin x) (hy : IsFin y) :
    x.below y = true ↔ value x < value y ∨ (value x = value y ∧ x.neg? = true ∧ y.neg? = false) := by
  rw [Num.below, Bool.or_eq_true, Bool.and_eq_true, Bool.and_eq_true, lt_iff hx hy, eq_iff hx hy, Bool.not_eq_true', and_assoc]

/-- The lesser of two numbers in that order has the lesser value, and of two zeros the sign −. -/
theorem min_of_below {x y : Machine.Num} (hx : IsFin x) (hy : IsFin y) {z : Machine.Num} (hz : z = if x.below y then x else y) :
    value z = min (value x) (value y) ∧ (value x = value y → z.neg? = (x.neg? || y.neg?)) := by
  have below := below_iff hx hy
  subst hz
  split
  next h =>
    obtain lt | ⟨eq, neg, pos⟩ := below.mp h
    · exact ⟨(min_eq_left lt.le).symm, fun eq => absurd eq lt.ne⟩
    · exact ⟨(min_eq_left eq.le).symm, fun _ => by rw [neg, Bool.true_or]⟩
  next h =>
    have not_ := mt below.mpr h
    push Not at not_
    obtain ⟨le, signs⟩ := not_
    refine ⟨(min_eq_right le).symm, fun eq => ?_⟩
    cases hn : x.neg?
    · rw [Bool.false_or]
    · rw [Bool.true_or]
      simpa using signs eq hn

/-- The greater has the greater value, and of two zeros the sign +. -/
theorem max_of_below {x y : Machine.Num} (hx : IsFin x) (hy : IsFin y) {z : Machine.Num} (hz : z = if y.below x then x else y) :
    value z = max (value x) (value y) ∧ (value x = value y → z.neg? = (x.neg? && y.neg?)) := by
  have below := below_iff hy hx
  subst hz
  split
  next h =>
    obtain lt | ⟨eq, neg, pos⟩ := below.mp h
    · exact ⟨(max_eq_left lt.le).symm, fun eq => absurd eq lt.ne'⟩
    · exact ⟨(max_eq_left eq.le).symm, fun _ => by rw [pos, Bool.false_and]⟩
  next h =>
    have not_ := mt below.mpr h
    push Not at not_
    obtain ⟨le, signs⟩ := not_
    refine ⟨(max_eq_right le).symm, fun eq => ?_⟩
    cases hn : y.neg?
    · rw [Bool.and_false]
    · rw [Bool.and_true]
      simpa [hn] using signs eq.symm hn

/-! ## Encodings by sign and magnitude -/

/-- The magnitude that is read where n is: 0 for a subnormal under fz (R53). -/
def readMag (f : Fmt) (fz : Bool) (n : Nat) : Nat := if (fz && f.flush) = true ∧ n < 2 ^ f.mw then 0 else n

theorem finiteOf_readMag (f : Fmt) (fz neg : Bool) (n : Nat) : finiteOf f fz neg (readMag f fz n) = finiteOf f fz neg n := by
  unfold readMag finiteOf
  by_cases h : (fz && f.flush) = true ∧ n < 2 ^ f.mw
  · obtain ⟨hz, hn⟩ := h
    simp [hz, hn]
  · rw [if_neg h]

theorem magnitude_zero (f : Fmt) : magnitude f 0 = 0 := by simp [magnitude]

theorem magnitude_nonneg (f : Fmt) (n : Nat) : 0 ≤ magnitude f n :=
  (magnitude_zero f).symm.trans_le ((strictMono_magnitude f).monotone n.zero_le)

/-- The finite number of a sign and a magnitude, as a value. -/
theorem value_finiteOf (f : Fmt) (fz neg : Bool) (n : Nat) : IsFin (finiteOf f fz neg n) ∧ (finiteOf f fz neg n).neg? = neg ∧
    value (finiteOf f fz neg n) = (if neg then -1 else 1) * magnitude f (readMag f fz n) := by
  obtain ⟨m, e, eq, mag⟩ := finiteOf_eq f fz neg n
  have read : magnitude f (readMag f fz n) = if (fz && f.flush) = true ∧ n < 2 ^ f.mw then 0 else magnitude f n := by
    rw [readMag, apply_ite (magnitude f), magnitude_zero]
  rw [eq, value_fin, mag, read]
  exact ⟨isFin_fin .., rfl, rfl⟩

theorem readMag_false (f : Fmt) (n : Nat) : readMag f false n = n := if_neg fun h => Bool.false_ne_true h.1

theorem readMag_le (f : Fmt) (fz : Bool) (n : Nat) : readMag f fz n ≤ n := by
  unfold readMag
  split
  · exact n.zero_le
  · exact le_rfl

/-- Sign and magnitude of an encoding put together from them. -/
theorem fields_signBit_add (p : Fmt × Nat × Nat × Nat) (s : Bool) {n : Nat} (hn : n < 2 ^ (p.1.w - 1)) :
    (p.1.signBit s + n).testBit (p.1.w - 1) = s ∧ (p.1.signBit s + n) % 2 ^ (p.1.w - 1) = n := by
  cases s
  · simp [Fmt.signBit, Nat.testBit_lt_two_pow hn, Nat.mod_eq_of_lt hn]
  · simp only [Fmt.signBit, if_true]
    refine ⟨?_, by rw [Nat.add_mod_left, Nat.mod_eq_of_lt hn]⟩
    rw [Nat.testBit_two_pow_add_eq, Nat.testBit_lt_two_pow hn, Bool.not_false]

theorem read_eq {f : Fmt} {fz : Bool} {b : Nat} {s : Bool} {m : Nat} {e : Int} (h : f.decode fz b = .fin s m e) :
    f.read fz b = if m = 0 then f.signBit s else b := by
  rw [Fmt.read, h]
  cases m <;> rfl

section
variable {p : Fmt × Nat × Nat × Nat} (hp : IsFormat p)
include hp

/-- An encoding is that of its sign and magnitude. -/
theorem signBit_add_mod {b : Nat} (hb : b < 2 ^ p.1.w) : p.1.signBit (b.testBit (p.1.w - 1)) + b % 2 ^ (p.1.w - 1) = b := by
  have width := hp.width
  have two : 2 ^ p.1.w = 2 ^ (p.1.w - 1) * 2 := by rw [← Nat.pow_succ]; congr 1; omega
  have split := Nat.div_add_mod b (2 ^ (p.1.w - 1))
  have half : b / 2 ^ (p.1.w - 1) < 2 := Nat.div_lt_of_lt_mul (two ▸ hb)
  rw [Nat.testBit_eq_decide_div_mod_eq, Nat.mod_eq_of_lt half, Fmt.signBit]
  interval_cases h : b / 2 ^ (p.1.w - 1) <;> simpa using split

theorem max_lt_two_pow : p.2.1 < 2 ^ (p.1.w - 1) := by
  have width := hp.width
  have mant : 2 ≤ 2 ^ p.1.mw := (Nat.pow_le_pow_right (by decide) hp.mw_pos : 2 ^ 1 ≤ 2 ^ p.1.mw)
  have top : p.1.infBits + 2 ^ p.1.mw = 2 ^ (p.1.w - 1) := by
    rw [Fmt.infBits, Nat.sub_one_mul, Nat.sub_add_cancel (Nat.le_mul_of_pos_left _ (Nat.two_pow_pos _)), ← Nat.pow_add]
    congr 1
    omega
  rw [hp.max_eq]
  split <;> omega

/-- A finite encoding has a finite magnitude. -/
theorem le_max_of_isFin {fz : Bool} {b : Nat} (h : IsFin (p.1.decode fz b)) : b % 2 ^ (p.1.w - 1) ≤ p.2.1 := by
  obtain ⟨le, -⟩ | ⟨-, -, h'⟩ | ⟨-, h'⟩ := decode_cases hp fz b rfl
  · exact le
  · exact absurd (h' ▸ h) (not_isFin_inf _)
  · exact absurd (h' ▸ h) not_isFin_nan

/-- What is a NaN is one whatever fz is. -/
theorem decode_nan {fz : Bool} {b : Nat} (h : p.1.decode fz b = .nan) (fz' : Bool) : p.1.decode fz' b = .nan := by
  obtain ⟨-, h'⟩ | ⟨-, -, h'⟩ | ⟨lt, -⟩ := decode_cases hp fz b rfl
  · exact absurd (h ▸ h' ▸ (value_finiteOf ..).1) not_isFin_nan
  · cases h.symm.trans h'
  · exact decode_of_gt hp fz' lt

/-- An encoding put together from a sign and a finite magnitude. -/
theorem decode_signBit_add (fz s : Bool) {n : Nat} (hn : n ≤ p.2.1) : p.1.decode fz (p.1.signBit s + n) = finiteOf p.1 fz s n := by
  obtain ⟨sign, mag⟩ := fields_signBit_add p s (hn.trans_lt (max_lt_two_pow hp))
  rw [decode_of_le hp fz (mag.trans_le hn), sign, mag]

/-- What is read of a finite operand. -/
theorem read_of_isFin {fz : Bool} {b : Nat} (hb : b < 2 ^ p.1.w) (h : IsFin (p.1.decode fz b)) :
    p.1.read fz b = p.1.signBit (b.testBit (p.1.w - 1)) + readMag p.1 fz (b % 2 ^ (p.1.w - 1)) := by
  have whole := signBit_add_mod hp hb
  have dec := decode_of_le hp fz (le_max_of_isFin hp h)
  unfold finiteOf at dec
  unfold readMag
  by_cases hn : b % 2 ^ (p.1.w - 1) < 2 ^ p.1.mw
  · rw [if_pos hn] at dec
    by_cases hz : (fz && p.1.flush) = true
    · rw [if_pos hz] at dec
      rw [read_eq dec, if_pos rfl, if_pos ⟨hz, hn⟩, Nat.add_zero]
    · rw [if_neg hz] at dec
      rw [read_eq dec, if_neg (c := _ ∧ _) fun h' => hz h'.1, whole]
      split
      next h0 => rwa [h0, Nat.add_zero] at whole
      next => rfl
  · rw [if_neg hn] at dec
    have := Nat.two_pow_pos p.1.mw
    rw [read_eq dec, if_neg (by omega), if_neg fun h' => hn h'.2, whole]

end

/-! ## Minimum and maximum -/

section
variable {p : Fmt × Nat × Nat × Nat} (hp : IsFormat p) (fz : Bool) {a b : Nat} (ha : a < 2 ^ p.1.w) (hb : b < 2 ^ p.1.w)
include hp ha

/-- What is read of a finite operand is worth what the operand is. -/
theorem value_read (h : IsFin (p.1.decode fz a)) :
    value (p.1.decode false (p.1.read fz a)) = value (p.1.decode fz a) ∧
      (p.1.decode false (p.1.read fz a)).neg? = (p.1.decode fz a).neg? := by
  have le := le_max_of_isFin hp h
  rw [read_of_isFin hp ha h, decode_signBit_add hp _ _ ((readMag_le ..).trans le), decode_of_le hp fz le]
  obtain ⟨-, sign, val⟩ := value_finiteOf p.1 fz (a.testBit (p.1.w - 1)) (a % 2 ^ (p.1.w - 1))
  obtain ⟨-, sign', val'⟩ := value_finiteOf p.1 false (a.testBit (p.1.w - 1)) (readMag p.1 fz (a % 2 ^ (p.1.w - 1)))
  rw [sign, sign', val, val', readMag_false]
  exact ⟨rfl, rfl⟩

/-- Read again under fz, it is the operand. -/
theorem decode_read (h : IsFin (p.1.decode fz a)) : p.1.decode fz (p.1.read fz a) = p.1.decode fz a := by
  have le := le_max_of_isFin hp h
  rw [read_of_isFin hp ha h, decode_signBit_add hp _ _ ((readMag_le ..).trans le), finiteOf_readMag, decode_of_le hp fz le]

include hb

/-- Of two finite operands vmin and vmax pick one by the order in which −0 is less than +0 (R106). -/
theorem fPick_of_isFin (most : Bool) (rm : RM) (hx : IsFin (p.1.decode fz a)) (hy : IsFin (p.1.decode fz b)) :
    ∃ c ∈ [a, b], ∀ z, z = p.1.decode false (fPick most p.1 rm fz a b 0).1 →
      value z = value (p.1.decode fz c) ∧ z.neg? = (p.1.decode fz c).neg? ∧
      value z = (if most then max (value (p.1.decode fz a)) (value (p.1.decode fz b))
        else min (value (p.1.decode fz a)) (value (p.1.decode fz b))) ∧
      (value (p.1.decode fz a) = value (p.1.decode fz b) → z.neg? =
        if most then (p.1.decode fz a).neg? && (p.1.decode fz b).neg? else (p.1.decode fz a).neg? || (p.1.decode fz b).neg?) := by
  have notNan {x : Machine.Num} (h : IsFin x) : (x == .nan) = false := by
    obtain ⟨s, m, e, rfl⟩ := h
    rfl
  have pick : (fPick most p.1 rm fz a b 0).1 = p.1.read fz
      (if (if most then (p.1.decode fz b).below (p.1.decode fz a) else (p.1.decode fz a).below (p.1.decode fz b)) = true then a
        else b) := by
    simp only [fPick, notNan hx, notNan hy, Bool.and_false, Bool.false_eq_true, if_false, apply_ite (p.1.read fz)]
    cases most <;> rfl
  generalize hc : (if (if most then (p.1.decode fz b).below (p.1.decode fz a) else (p.1.decode fz a).below (p.1.decode fz b)) = true
    then a else b) = c at pick
  have mem : c = a ∨ c = b := by
    rw [← hc]
    exact ite_eq_or_eq ..
  have lt : c < 2 ^ p.1.w := by obtain rfl | rfl := mem <;> assumption
  have fin : IsFin (p.1.decode fz c) := by obtain rfl | rfl := mem <;> assumption
  obtain ⟨val, sign⟩ := value_read hp fz lt fin
  refine ⟨c, by simpa using mem, ?_⟩
  rintro z rfl
  rw [pick]
  refine ⟨val, sign, ?_⟩
  rw [val, sign]
  have dec := congrArg (p.1.decode fz) hc.symm
  rw [apply_ite (p.1.decode fz)] at dec
  cases most
  · exact min_of_below hx hy dec
  · exact max_of_below hx hy dec

omit hb in
/-- The sign operations on a finite operand put another sign before the magnitude that is read. -/
theorem fAbs_fNeg_of_isFin (rm : RM) (hx : IsFin (p.1.decode fz a)) :
    fAbs p.1 rm fz a b 0 = (p.1.signBit false + readMag p.1 fz (a % 2 ^ (p.1.w - 1)), 0) ∧
    fNeg p.1 rm fz a b 0 = (p.1.signBit (!(p.1.decode fz a).neg?) + readMag p.1 fz (a % 2 ^ (p.1.w - 1)), 0) := by
  have le := le_max_of_isFin hp hx
  have notNan : (p.1.decode false a == .nan) = false := by
    refine beq_eq_false_iff_ne.mpr fun h => not_isFin_nan ?_
    exact h ▸ decode_of_le hp false le ▸ (value_finiteOf ..).1
  obtain ⟨sign, mag⟩ := fields_signBit_add p (a.testBit (p.1.w - 1)) (((readMag_le p.1 fz _).trans le).trans_lt (max_lt_two_pow hp))
  have neg : (p.1.decode fz a).neg? = a.testBit (p.1.w - 1) := by
    rw [decode_of_le hp fz le]
    exact (value_finiteOf ..).2.1
  unfold fAbs fNeg
  rw [notNan, read_of_isFin hp ha hx, neg]
  simp only [Bool.false_eq_true, if_false, mag]
  refine ⟨by simp [Fmt.signBit], ?_⟩
  rw [Nat.testBit_eq_decide_div_mod_eq] at sign
  cases hs : a.testBit (p.1.w - 1) <;> rw [hs] at sign
  · rw [if_neg (of_decide_eq_false sign), Nat.add_comm]
    rfl
  · rw [if_pos (of_decide_eq_true sign)]
    simp [Fmt.signBit]

omit ha hb in
theorem fAbs_fNeg_of_nan (rm : RM) (hx : p.1.decode fz a = .nan) :
    fAbs p.1 rm fz a b 0 = (p.2.2.2, 0) ∧ fNeg p.1 rm fz a b 0 = (p.2.2.2, 0) := by
  have nan : (p.1.decode false a == .nan) = true := beq_iff_eq.mpr (decode_nan hp hx false)
  rw [← hp.nan_eq]
  exact ⟨if_pos nan, if_pos nan⟩

/-- What minimum, maximum and the sign operations make of two operands. -/
theorem pick_and_sign (rm : RM) (x y : Machine.Num) (hx : x = p.1.decode fz a) (hy : y = p.1.decode fz b) :
    (∀ most : Bool, (fPick most p.1 rm fz a b 0).2 = 0 ∧
      (x = .nan → y = .nan → (fPick most p.1 rm fz a b 0).1 = p.2.2.2) ∧
      (x = .nan → IsFin y → p.1.decode fz (fPick most p.1 rm fz a b 0).1 = p.1.decode fz b) ∧
      (IsFin x → IsFin y → ∃ c ∈ [a, b], ∀ z, z = p.1.decode false (fPick most p.1 rm fz a b 0).1 →
        value z = value (p.1.decode fz c) ∧ z.neg? = (p.1.decode fz c).neg? ∧
        value z = (if most then max (value x) (value y) else min (value x) (value y)) ∧
        (value x = value y → z.neg? = if most then x.neg? && y.neg? else x.neg? || y.neg?))) ∧
    (x = .nan → fAbs p.1 rm fz a b 0 = (p.2.2.2, 0) ∧ fNeg p.1 rm fz a b 0 = (p.2.2.2, 0)) ∧
    (IsFin x → (fAbs p.1 rm fz a b 0).2 = 0 ∧ (fNeg p.1 rm fz a b 0).2 = 0 ∧
      ∀ u v, u = p.1.decode false (fAbs p.1 rm fz a b 0).1 → v = p.1.decode false (fNeg p.1 rm fz a b 0).1 →
        value u = |value x| ∧ u.neg? = false ∧ value v = -value x ∧ v.neg? = !x.neg?) := by
  subst hx hy
  refine ⟨fun most => ⟨?_, fun hx hy => ?_, fun hx hy => ?_, fPick_of_isFin hp fz ha hb most rm⟩,
    fAbs_fNeg_of_nan hp fz rm, fun hx => ?_⟩
  · unfold fPick
    dsimp only
    split_ifs <;> rfl
  · rw [← hp.nan_eq]
    simp [fPick, hx, hy]
  · have pick : (fPick most p.1 rm fz a b 0).1 = p.1.read fz b := by
      have notNan : p.1.decode fz b ≠ .nan := fun h => not_isFin_nan (h ▸ hy)
      simp [fPick, hx, notNan]
    rw [pick, decode_read hp fz hb hy]
  · obtain ⟨abs, neg⟩ := fAbs_fNeg_of_isFin hp fz ha (b := b) rm hx
    have le := le_max_of_isFin hp hx
    have read := (readMag_le p.1 fz (a % 2 ^ (p.1.w - 1))).trans le
    obtain ⟨-, sign, val⟩ := value_finiteOf p.1 fz (a.testBit (p.1.w - 1)) (a % 2 ^ (p.1.w - 1))
    rw [← decode_of_le hp fz le] at sign val
    have dec (s : Bool) := value_finiteOf p.1 false s (readMag p.1 fz (a % 2 ^ (p.1.w - 1)))
    have nonneg := magnitude_nonneg p.1 (readMag p.1 fz (a % 2 ^ (p.1.w - 1)))
    rw [abs, neg]
    refine ⟨rfl, rfl, ?_⟩
    rintro u v rfl rfl
    rw [decode_signBit_add hp false _ read, decode_signBit_add hp false _ read, (dec _).2.1, (dec _).2.1, (dec _).2.2, (dec _).2.2,
      readMag_false, val, sign]
    cases a.testBit (p.1.w - 1) <;> simp [abs_of_nonneg nonneg]

end

end Sys2Proof.Claims

/-!
Quotients, reciprocals and roots of floating-point elements (03 R55): a result with an odd last place behind its exact part rounds
as the exact value does.
-/
namespace Sys2Proof.Claims
open Machine

/-! ## A magnitude by its whole units -/

/-- A magnitude lies at Q units of 2^E, or less than a unit above where it is not exact. -/
structure SitsAt (c : Cut) (Q : Nat) (E : Int) (exact : Bool) : Prop where
  below_of_le : ∀ x y, 0 ≤ x → x ≤ y → c.below y → c.below x
  above_of_le : ∀ x y, 0 ≤ x → x ≤ y → c.above x → c.above y
  below_iff   : ∀ j : Nat, c.below (j * 2 ^ E) ↔ j < Q ∨ (j = Q ∧ exact = false)
  above_iff   : ∀ j : Nat, c.above (j * 2 ^ E) ↔ Q < j

/-- Two magnitudes at the same place compare alike with numbers of few bits. -/
theorem SitsAt.agree {c c' : Cut} {Q : Nat} {E : Int} {exact : Bool} (h : SitsAt c Q E exact) (h' : SitsAt c' Q E exact)
    {J : Nat} (hJ : J < Q) (I : Int) :
    (c.below (J * 2 ^ I) ↔ c'.below (J * 2 ^ I)) ∧ (c.above (J * 2 ^ I) ↔ c'.above (J * 2 ^ I)) := by
  by_cases hI : E ≤ I
  · obtain ⟨n, rfl⟩ : ∃ n : Nat, I = E + n := ⟨(I - E).toNat, by omega⟩
    have whole : (J : ℚ) * 2 ^ (E + n) = ((J * 2 ^ n : Nat) : ℚ) * 2 ^ E := by
      rw [zpow_add₀ (by norm_num), zpow_natCast]
      push_cast
      ring
    rw [whole, h.below_iff, h'.below_iff, h.above_iff, h'.above_iff]
    exact ⟨Iff.rfl, Iff.rfl⟩
  · have nonneg : (0 : ℚ) ≤ J * 2 ^ I := by positivity
    have le : (J : ℚ) * 2 ^ I ≤ J * 2 ^ E :=
      mul_le_mul_of_nonneg_left (zpow_le_zpow_right₀ (by norm_num) (by omega)) (Nat.cast_nonneg J)
    have below {c : Cut} (h : SitsAt c Q E exact) := h.below_of_le _ _ nonneg le ((h.below_iff J).mpr (.inl hJ))
    have above {c : Cut} (h : SitsAt c Q E exact) (ha : c.above (J * 2 ^ I)) : False :=
      absurd ((h.above_iff J).mp (h.above_of_le _ _ nonneg le ha)) (by omega)
    exact ⟨iff_of_true (below h) (below h'), iff_of_false (above h) (above h')⟩

theorem sitsAt_cutAt {v : ℚ} {Q : Nat} {E : Int} {exact : Bool} (hb : ∀ j : Nat, (j : ℚ) * 2 ^ E < v ↔ j < Q ∨ (j = Q ∧ exact = false))
    (ha : ∀ j : Nat, v < (j : ℚ) * 2 ^ E ↔ Q < j) : SitsAt (cutAt v) Q E exact :=
  ⟨fun _ _ _ le h => lt_of_le_of_lt le h, fun _ _ _ le h => lt_of_lt_of_le h le, hb, ha⟩

theorem sitsAt_cutRoot {v : ℚ} {Q : Nat} {E : Int} {exact : Bool}
    (hb : ∀ j : Nat, ((j : ℚ) * 2 ^ E) * (j * 2 ^ E) < v ↔ j < Q ∨ (j = Q ∧ exact = false))
    (ha : ∀ j : Nat, v < ((j : ℚ) * 2 ^ E) * (j * 2 ^ E) ↔ Q < j) : SitsAt (cutRoot v) Q E exact :=
  ⟨fun _ _ h0 le h => lt_of_le_of_lt (mul_self_le_mul_self h0 le) h, fun _ _ h0 le h => lt_of_lt_of_le h (mul_self_le_mul_self h0 le),
    hb, ha⟩

/-- The number that the model rounds lies at the same place. -/
theorem sitsAt_sticky (Q : Nat) (E : Int) (exact : Bool) :
    SitsAt (cutAt (((2 * Q + if exact then 0 else 1 : Nat) : ℚ) * 2 ^ (E - 1))) Q E exact := by
  have unit : (0 : ℚ) < 2 ^ (E - 1) := zpow_pos (by norm_num) _
  have double (j : Nat) : (j : ℚ) * 2 ^ E = ((2 * j : Nat) : ℚ) * 2 ^ (E - 1) := by
    rw [zpow_sub_one₀ (by norm_num)]
    push_cast
    ring
  refine sitsAt_cutAt (fun j => ?_) (fun j => ?_) <;> rw [double, mul_lt_mul_iff_left₀ unit, Nat.cast_lt] <;> cases exact <;>
    simp <;> omega

/-! ## Rounding depends on few points -/

/-- The points to which nearest-even rounding compares: steps of the ladder and points halfway between two. -/
theorem exists_grid (f : Fmt) {i j : Nat} (hj : j = i ∨ j = i + 1) :
    ∃ (J : Nat) (I : Int), J < 2 ^ (f.mw + 2) ∧ (magnitude f i + magnitude f j) / 2 = J * 2 ^ I := by
  obtain ⟨M, q, rfl, hM, h⟩ := exists_onLadder f i
  rw [Nat.pow_succ] at hM
  obtain rfl | rfl := hj
  · refine ⟨M, q, ?_, by rw [add_self_div_two, magnitude_step h]⟩
    rw [Nat.pow_succ, Nat.pow_succ]
    omega
  · refine ⟨2 * M + 1, q - 1, ?_, ?_⟩
    · rw [Nat.pow_succ, Nat.pow_succ]
      omega
    · have next := magnitude_step (h.succ (by rwa [Nat.pow_succ]))
      rw [show ladderStep f M q + 1 = ladderStep f (M + 1) q from rfl, next, magnitude_step h, zpow_sub_one₀ (by norm_num)]
      push_cast
      ring

theorem rounded_congr {p : Fmt × Nat × Nat × Nat} {fz neg : Bool} {r : Nat × Fl} {c c' : Cut}
    (agree : ∀ i j, j = i ∨ j = i + 1 → (c.below ((magnitude p.1 i + magnitude p.1 j) / 2) ↔ c'.below ((magnitude p.1 i + magnitude p.1 j) / 2)) ∧
      (c.above ((magnitude p.1 i + magnitude p.1 j) / 2) ↔ c'.above ((magnitude p.1 i + magnitude p.1 j) / 2)))
    (h : Rounded p .ne fz 0 neg c r) : Rounded p .ne fz 0 neg c' r := by
  obtain ⟨m, b, -, mode, picks, overflow, flush, rest⟩ := h
  obtain rfl : m = .ne := mode fun h => by cases h.1
  have at_ (n : Nat) := agree n n (.inl rfl)
  simp only [add_self_div_two] at at_
  refine ⟨.ne, b, fun _ => rfl, fun _ => rfl, ?_, overflow, flush, ?_⟩
  · obtain ⟨below, above⟩ := agree (b - 1) b (by omega)
    obtain ⟨below', above'⟩ := agree b (b + 1) (.inr rfl)
    simpa only [Picks, Nearest, below, above, below', above'] using picks
  · simpa only [(at_ _).1, (at_ _).2] using rest

/-- The number that the model rounds is rounded as the magnitude is. -/
theorem rounded_sticky {p : Fmt × Nat × Nat × Nat} (hp : IsFormat p) (fz neg : Bool) {c : Cut} {Q : Nat} {E : Int} {exact : Bool}
    (h : SitsAt c Q E exact) (hQ : 2 ^ (p.1.mw + 2) ≤ Q) : Rounded p .ne fz 0 neg c (p.1.finish .ne fz (sticky neg Q E exact, 0)) := by
  have pos := Nat.two_pow_pos (p.1.mw + 2)
  refine rounded_congr (fun i j hj => ?_) (finish_zero_flags p.1 .ne fz _ ▸ rounded_round hp .ne fz 0 neg (by omega) (E - 1))
  obtain ⟨J, I, hJ, grid⟩ := exists_grid p.1 hj
  rw [grid]
  exact (sitsAt_sticky Q E exact).agree h (hJ.trans_le hQ) I

/-! ## Quotients -/

theorem mul_lt_iff_div {j n X : Nat} (hn : 0 < n) : j * n < X ↔ j < X / n ∨ (j = X / n ∧ (X % n == 0) = false) := by
  have split := Nat.div_add_mod' X n
  have le := Nat.le_div_iff_mul_le hn (x := j) (y := X)
  rw [beq_eq_false_iff_ne]
  obtain lt | rfl | gt := lt_trichotomy j (X / n)
  · have := Nat.mul_le_mul_right n (show j + 1 ≤ X / n from lt)
    rw [Nat.succ_mul] at this
    exact iff_of_true (by omega) (.inl lt)
  · rw [or_iff_right (lt_irrefl _), and_iff_right rfl]
    omega
  · exact iff_of_false (fun h => absurd (le.mpr h.le) (by omega)) (by omega)

theorem sitsAt_quotient {m n : Nat} (hn : 0 < n) (e f : Int) (k : Nat) :
    SitsAt (cutAt (((m : ℚ) * 2 ^ e) / (n * 2 ^ f))) (m * 2 ^ k / n) (e - f - k) (m * 2 ^ k % n == 0) := by
  have unit : (0 : ℚ) < 2 ^ (e - f - k) * 2 ^ f := by positivity
  have den : (0 : ℚ) < n * 2 ^ f := by positivity
  have num : (m : ℚ) * 2 ^ e = ((m * 2 ^ k : Nat) : ℚ) * (2 ^ (e - f - k) * 2 ^ f) := by
    rw [← zpow_add₀ (by norm_num), show e = e - f - k + f + k by ring, zpow_add₀ (by norm_num) _ (k : Int), zpow_natCast]
    push_cast
    ring_nf
  have prod (j : Nat) : (j : ℚ) * 2 ^ (e - f - k) * (n * 2 ^ f) = ((j * n : Nat) : ℚ) * (2 ^ (e - f - k) * 2 ^ f) := by
    push_cast
    ring
  refine sitsAt_cutAt (fun j => ?_) fun j => ?_
  · rw [lt_div_iff₀ den, prod, num, mul_lt_mul_iff_left₀ unit, Nat.cast_lt, mul_lt_iff_div hn]
  · rw [div_lt_iff₀ den, prod, num, mul_lt_mul_iff_left₀ unit, Nat.cast_lt, Nat.div_lt_iff_lt_mul hn]

theorem two_pow_le_quotient {m n : Nat} (hm : m ≠ 0) (hn : n ≠ 0) : 2 ^ 79 ≤ m * 2 ^ (80 + n.log2) / n := by
  rw [Nat.le_div_iff_mul_le (Nat.pos_of_ne_zero hn)]
  calc 2 ^ 79 * n ≤ 2 ^ 79 * 2 ^ (n.log2 + 1) := Nat.mul_le_mul_left _ Nat.lt_log2_self.le
    _ = 2 ^ (80 + n.log2) := by rw [← Nat.pow_add]; congr 1; omega
    _ ≤ m * 2 ^ (80 + n.log2) := Nat.le_mul_of_pos_left _ (Nat.pos_of_ne_zero hm)

/-! ## Roots -/

theorem isqrtFrom_spec (x n r : Nat) (low : r * r ≤ x) (high : x < (r + 2 ^ n) * (r + 2 ^ n)) :
    isqrtFrom x n r * isqrtFrom x n r ≤ x ∧ x < (isqrtFrom x n r + 1) * (isqrtFrom x n r + 1) := by
  induction n generalizing r with
  | zero => exact ⟨low, high⟩
  | succ n ih =>
    unfold isqrtFrom
    split
    next h => exact ih _ h (by rwa [Nat.add_assoc, ← Nat.two_mul, ← Nat.pow_succ'])
    next h => exact ih _ low (not_le.mp h)

theorem isqrt_eq_sqrt (x : Nat) : isqrt x = Nat.sqrt x := by
  have high : x < (0 + 2 ^ (x.log2 / 2 + 1)) * (0 + 2 ^ (x.log2 / 2 + 1)) := by
    rw [Nat.zero_add, ← Nat.pow_add]
    exact Nat.lt_log2_self.trans_le (Nat.pow_le_pow_right (by decide) (by omega))
  obtain ⟨le, lt⟩ := isqrtFrom_spec x (x.log2 / 2 + 1) 0 (Nat.zero_le x) high
  exact Nat.eq_sqrt.mpr ⟨le, lt⟩

theorem lt_root_iff {j m X : Nat} (hm : 0 < m) : X < j * j * m ↔ isqrt (X / m) < j := by
  rw [isqrt_eq_sqrt, Nat.sqrt_lt, Nat.div_lt_iff_lt_mul hm]

theorem root_lt_iff {j m X : Nat} (hm : 0 < m) : j * j * m < X ↔
    j < isqrt (X / m) ∨ (j = isqrt (X / m) ∧ (isqrt (X / m) * isqrt (X / m) * m == X) = false) := by
  have le (i : Nat) : i * i * m ≤ X ↔ i ≤ isqrt (X / m) := by rw [isqrt_eq_sqrt, Nat.le_sqrt, Nat.le_div_iff_mul_le hm]
  have top := (le (isqrt (X / m))).mpr le_rfl
  rw [beq_eq_false_iff_ne]
  obtain lt | rfl | gt := lt_trichotomy j (isqrt (X / m))
  · exact iff_of_true ((Nat.mul_lt_mul_of_pos_right (Nat.mul_self_lt_mul_self lt) hm).trans_le top) (.inl lt)
  · rw [or_iff_right (lt_irrefl _), and_iff_right rfl]
    omega
  · exact iff_of_false (fun h => absurd ((le j).mp h.le) (by omega)) (by omega)

/-- A number with an even exponent, as the model makes it. -/
def evened (m : Nat) (e : Int) : Nat × Int := if e % 2 = 0 then (m, e) else (2 * m, e - 1)

theorem evened_spec {m : Nat} (hm : m ≠ 0) (e : Int) : 0 < (evened m e).1 ∧ (evened m e).1 ≤ 2 * m ∧
    (m : ℚ) * 2 ^ e = (evened m e).1 * (2 ^ ((evened m e).2 / 2) * 2 ^ ((evened m e).2 / 2)) := by
  unfold evened
  rw [← zpow_add₀ (by norm_num), ← Int.two_mul]
  split
  next h => exact ⟨by omega, by omega, by rw [Int.mul_ediv_cancel' (Int.dvd_of_emod_eq_zero h)]⟩
  next h =>
    refine ⟨by omega, le_rfl, ?_⟩
    rw [Int.mul_ediv_cancel' (by omega), zpow_sub_one₀ (by norm_num)]
    push_cast
    ring

/-- The square of a number of units, where the square root of X / m is taken in units of 2^E. -/
theorem sitsAt_root {m X : Nat} (hm : 0 < m) {E : Int} {v : ℚ} (hv : v * m = X * (2 ^ E * 2 ^ E)) :
    SitsAt (cutRoot v) (isqrt (X / m)) E (isqrt (X / m) * isqrt (X / m) * m == X) := by
  have unit : (0 : ℚ) < 2 ^ E * 2 ^ E := by positivity
  have pos : (0 : ℚ) < m := Nat.cast_pos.mpr hm
  have square (j : Nat) : ((j : ℚ) * 2 ^ E) * (j * 2 ^ E) * m = ((j * j * m : Nat) : ℚ) * (2 ^ E * 2 ^ E) := by
    push_cast
    ring
  refine sitsAt_cutRoot (fun j => ?_) fun j => ?_
  · rw [← mul_lt_mul_iff_left₀ pos, hv, square, mul_lt_mul_iff_left₀ unit, Nat.cast_lt, root_lt_iff hm]
  · rw [← mul_lt_mul_iff_left₀ pos, hv, square, mul_lt_mul_iff_left₀ unit, Nat.cast_lt, lt_root_iff hm]

theorem sqrtNum_fin {m : Nat} (hm : m ≠ 0) (e : Int) : sqrtNum (.fin false m e) =
    (sticky false (isqrt ((evened m e).1 * 2 ^ 160)) ((evened m e).2 / 2 - 80)
      (isqrt ((evened m e).1 * 2 ^ 160) * isqrt ((evened m e).1 * 2 ^ 160) == (evened m e).1 * 2 ^ 160), 0) :=
  if_neg hm

theorem rsqNum_fin {m : Nat} (hm : m ≠ 0) (e : Int) : rsqNum (.fin false m e) =
    (sticky false (isqrt (2 ^ 320 / (evened m e).1)) (-((evened m e).2 / 2) - 160)
      (isqrt (2 ^ 320 / (evened m e).1) * isqrt (2 ^ 320 / (evened m e).1) * (evened m e).1 == 2 ^ 320), 0) :=
  if_neg hm

theorem sitsAt_sqrt {m : Nat} (hm : m ≠ 0) (e : Int) : SitsAt (cutRoot (m * 2 ^ e)) (isqrt ((evened m e).1 * 2 ^ 160))
    ((evened m e).2 / 2 - 80)
    (isqrt ((evened m e).1 * 2 ^ 160) * isqrt ((evened m e).1 * 2 ^ 160) == (evened m e).1 * 2 ^ 160) := by
  obtain ⟨-, -, val⟩ := evened_spec hm e
  have root := sitsAt_root (m := 1) (X := (evened m e).1 * 2 ^ 160) one_pos (E := (evened m e).2 / 2 - 80) (v := m * 2 ^ e) (by
    rw [val, zpow_sub₀ (by norm_num)]
    push_cast
    norm_num
    ring)
  simpa only [Nat.div_one, Nat.mul_one] using root

theorem sitsAt_rsq {m : Nat} (hm : m ≠ 0) (e : Int) : SitsAt (cutRoot (1 / (m * 2 ^ e))) (isqrt (2 ^ 320 / (evened m e).1))
    (-((evened m e).2 / 2) - 160)
    (isqrt (2 ^ 320 / (evened m e).1) * isqrt (2 ^ 320 / (evened m e).1) * (evened m e).1 == 2 ^ 320) := by
  obtain ⟨pos, -, val⟩ := evened_spec hm e
  refine sitsAt_root pos ?_
  have pos : (0 : ℚ) < (evened m e).1 := Nat.cast_pos.mpr pos
  have square : ((2 ^ 320 : Nat) : ℚ) = 2 ^ (160 : Int) * 2 ^ (160 : Int) := by
    rw [Nat.cast_pow, Nat.cast_ofNat, ← zpow_add₀ (by norm_num)]
    rfl
  rw [val, square, zpow_sub₀ (by norm_num), zpow_neg]
  have scale : (2 : ℚ) ^ (160 : Int) ≠ 0 := by positivity
  generalize (2 : ℚ) ^ (160 : Int) = b at scale ⊢
  field_simp

theorem two_pow_le_sqrt {m : Nat} (hm : 0 < m) : 2 ^ 80 ≤ isqrt (m * 2 ^ 160) := by
  rw [isqrt_eq_sqrt, Nat.le_sqrt]
  exact Nat.le_mul_of_pos_left _ hm

theorem two_pow_le_rsq {m : Nat} (hm : 0 < m) (small : m ≤ 2 ^ 64) : 2 ^ 128 ≤ isqrt (2 ^ 320 / m) := by
  have parts : 2 ^ (128 + 128 + 64) = 2 ^ 128 * 2 ^ 128 * 2 ^ 64 := by rw [Nat.pow_add, Nat.pow_add]
  simp only [Nat.reduceAdd] at parts
  rw [isqrt_eq_sqrt, Nat.le_sqrt, Nat.le_div_iff_mul_le hm, parts]
  exact Nat.mul_le_mul_left _ small

/-! ## Quotients and roots in a format -/

/-- The formats of the special functions have mantissas of at most 24 bits. -/
theorem mw_le {f : Fmt} (h : f = .f16 ∨ f = .b16 ∨ f = .f32) : f.mw ≤ 23 := by
  obtain rfl | rfl | rfl := h <;> decide

/-- The mantissa of a number that has been read. -/
theorem mant_lt_of_decode {p : Fmt × Nat × Nat × Nat} (hp : IsFormat p) {fz : Bool} {a : Nat} {s : Bool} {m : Nat} {e : Int}
    (h : p.1.decode fz a = .fin s m e) : m < 2 ^ (p.1.mw + 1) := by
  have dec := decode_of_le hp fz (le_max_of_isFin hp (h ▸ isFin_fin s m e))
  have pos := Nat.two_pow_pos p.1.mw
  have mod := Nat.mod_lt (a % 2 ^ (p.1.w - 1)) pos
  rw [h, finiteOf] at dec
  rw [Nat.pow_succ]
  split_ifs at dec <;> cases dec <;> omega

theorem rounded_div {p : Fmt × Nat × Nat × Nat} (hp : IsFormat p) (hmw : p.1.mw ≤ 23) (fz : Bool) {x y : Machine.Num}
    (hx : IsFin x) (hy : IsFin y) (x0 : value x ≠ 0) (y0 : value y ≠ 0) :
    Rounded p .ne fz 0 (x.neg? ^^ y.neg?) (cutAt |value x / value y|) (p.1.finish .ne fz (divNum x y)) := by
  obtain ⟨s, m, e, rfl⟩ := hx
  obtain ⟨t, n, f, rfl⟩ := hy
  have hm := mt value_fin_eq_zero.mpr x0
  have hn := mt value_fin_eq_zero.mpr y0
  have quotient : divNum (.fin s m e) (.fin t n f) =
      (sticky (s != t) (m * 2 ^ (80 + n.log2) / n) (e - f - (80 + n.log2 : Nat)) (m * 2 ^ (80 + n.log2) % n == 0), 0) :=
    (if_neg hn).trans (if_neg hm)
  have few : 2 ^ (p.1.mw + 2) ≤ 2 ^ 79 := Nat.pow_le_pow_right (by decide) (by omega)
  rw [quotient, abs_div, abs_value_fin, abs_value_fin]
  exact rounded_sticky hp fz _ (sitsAt_quotient (Nat.pos_of_ne_zero hn) e f _) (few.trans (two_pow_le_quotient hm hn))

theorem rounded_roots {p : Fmt × Nat × Nat × Nat} (hp : IsFormat p) (hmw : p.1.mw ≤ 23) {fz : Bool} {a : Nat} {x : Machine.Num}
    (hx : x = p.1.decode fz a) (fx : IsFin x) (pos : 0 < value x) :
    Rounded p .ne fz 0 false (cutRoot (value x)) (p.1.finish .ne fz (sqrtNum x)) ∧
      Rounded p .ne fz 0 false (cutRoot (1 / value x)) (p.1.finish .ne fz (rsqNum x)) := by
  obtain ⟨s, m, e, rfl⟩ := fx
  obtain rfl : s = false := Bool.eq_false_iff.mpr fun h => absurd ((sign_eq_of_value pos.ne').mp h) (not_lt.mpr pos.le)
  have hm := mt value_fin_eq_zero.mpr pos.ne'
  have val : value (.fin false m e) = m * 2 ^ e := by rw [value_fin, if_neg Bool.false_ne_true, one_mul]
  obtain ⟨evenPos, evenLe, -⟩ := evened_spec hm e
  have few (n : Nat) (hn : 25 ≤ n) : 2 ^ (p.1.mw + 2) ≤ 2 ^ n := Nat.pow_le_pow_right (by decide) (by omega)
  have small : (evened m e).1 ≤ 2 ^ 64 := by
    have lt := mant_lt_of_decode hp hx.symm
    have := few 64 (by decide)
    rw [Nat.pow_succ] at this lt
    omega
  rw [val, sqrtNum_fin hm, rsqNum_fin hm]
  exact ⟨rounded_sticky hp fz false (sitsAt_sqrt hm e) ((few 80 (by decide)).trans (two_pow_le_sqrt evenPos)),
    rounded_sticky hp fz false (sitsAt_rsq hm e) ((few 128 (by decide)).trans (two_pow_le_rsq evenPos small))⟩

/-- Settles O4: finite results are roundings of exact sums, products, quotients and roots; the rest is by kinds of operands. -/
theorem elementRounding : Obligations.ElementRounding := by
  unfold Obligations.ElementRounding
  refine ⟨fun p mem q hq rm fz a b d x y z l hx hy hz hl => ⟨fun fx fy fz' => ?_, fun nan => ?_⟩,
    fun p mem rm fz a b x y neg hx hy inf => fAdd_fMul_inf (isFormat_of_mem p mem) rm fz a b x y neg hx hy inf,
    fun p mem rm fz a b ha hb x y hx hy => pick_and_sign (isFormat_of_mem p mem) fz ha hb rm x y hx hy,
    fun p mem short fz a b x y hx _ fx x0 => ?_⟩
  · obtain ⟨N, op, sum⟩ := floatSums_of_isFin p.1 rm fz a b d x y z hx hy hz fx fy q hq fz'
    rw [hl, op]
    exact finish_isSum (isFormat_of_mem p mem) fz sum
  · rw [floatSums_nan p.1 rm fz a b d x y z hx hy hz q hq nan, (isFormat_of_mem p mem).nan_eq]
  · have hp := isFormat_of_mem p mem
    have hmw := mw_le short
    have one : value (.fin false 1 0) = 1 := by simp [value]
    refine ⟨fun fy y0 => rounded_div hp hmw fz fx fy x0 y0, ?_, rounded_roots hp hmw hx fx⟩
    have rcp := rounded_div hp hmw fz (isFin_fin false 1 0) fx (by rw [one]; exact one_ne_zero) x0
    rwa [one, show (Machine.Num.fin false 1 0).neg? = false from rfl, Bool.false_xor] at rcp

end Sys2Proof.Claims

/-!
Decoding and encoding (04 R59 to R74). Every answer of the decoder is derived field by field: each choice makes more bits of the
word known, and at an instruction the known bits and the fields that its operands take are the whole word.
-/
namespace Sys2Proof.Claims
open Machine

/-! ## Fields of a word -/

/-- The bits of the field of n bits at lo. -/
def bitsOf (lo n : Nat) : BitVec 32 := Decode.put (BitVec.allOnes n) lo

/-- A field of w put back at its place. -/
theorem put_extract (w : BitVec 32) (lo n : Nat) : Decode.put (w.extractLsb' lo n) lo = w &&& bitsOf lo n := by
  ext i hi
  simp only [bitsOf, Decode.put, BitVec.getElem_shiftLeft, BitVec.getElem_setWidth, BitVec.getElem_and,
    BitVec.getLsbD_extractLsb', BitVec.getLsbD_allOnes]
  by_cases h : i < lo
  · simp [h]
  · rw [show lo + (i - lo) = i by omega, BitVec.getLsbD_eq_getElem hi]
    simp [h, Bool.and_comm]

/-- A word composed of a constant and of fields of w, each at its own place; m are the bits of those fields. -/
inductive Composed (w : BitVec 32) : (m c word : BitVec 32) → Prop
  | field {m c word lo n} : Composed w m c word →
      Composed w (m ||| bitsOf lo n) c (word ||| Decode.put (w.extractLsb' lo n) lo)
  | const {c} : Composed w 0 c c

theorem Composed.word_eq {w m c word : BitVec 32} (h : Composed w m c word) : word = c ||| (w &&& m) := by
  induction h with
  | const => simp
  | field _ ih => rw [ih, put_extract, BitVec.or_assoc, ← BitVec.and_or_distrib_left]

/-! ## Answers of the decoder -/

/-- Answers of a decoder to w, of whose bits those of k are known to be those of c: an instruction whose word is composed of c and
of w's fields outside k, an error, or a choice by a field, after which more of w is known. -/
inductive Answers (w : BitVec 32) : (k c : BitVec 32) → Except DecodeError Instr → Prop
  | both {k c a b r e} : Answers w k c (if a then (if b then r else .error e) else .error e) →
      Answers w k c (if a && b then r else .error e)
  | flag {k c lo r r'} : Answers w (k ||| bitsOf lo 1) (c ||| Decode.put 1#1 lo) r →
      Answers w (k ||| bitsOf lo 1) (c ||| Decode.put 0#1 lo) r' →
      Answers w k c (if w.extractLsb' lo 1 == 1#1 then r else r')
  | choice {k c lo n x r r'} : Answers w (k ||| bitsOf lo n) (c ||| Decode.put x lo) r → Answers w k c r' →
      Answers w k c (if w.extractLsb' lo n == x then r else r')
  | error {k c e} : Answers w k c (.error e)
  | ok {k c m i} : hasWord i = true → Composed w m c (encode i) → k ||| m = BitVec.allOnes 32 → Answers w k c (.ok i)

/-- A field of known value adds its bits to the known ones. -/
theorem and_or_bitsOf {w k c : BitVec 32} {lo n : Nat} {x : BitVec n} (known : w &&& k = c) (h : w.extractLsb' lo n = x) :
    w &&& (k ||| bitsOf lo n) = c ||| Decode.put x lo := by
  rw [BitVec.and_or_distrib_left, known, ← put_extract, h]

/-- An instruction answered for w has w as its word. -/
theorem Answers.word_of_ok {w k c : BitVec 32} {r i} (h : Answers w k c r) (known : w &&& k = c) (hr : r = .ok i) :
    hasWord i = true ∧ encode i = w := by
  induction h with
  | both _ ih => exact ih known (by simpa [ite_and] using hr)
  | @flag _ _ lo _ _ _ _ ih ih' =>
    split at hr
    next hf => exact ih (and_or_bitsOf known (by simpa using hf)) hr
    next hf => exact ih' (and_or_bitsOf known (BitVec.eq_zero_or_eq_one _ |>.resolve_right (by simpa using hf))) hr
  | choice _ _ ih ih' =>
    split at hr
    next hf => exact ih (and_or_bitsOf known (by simpa using hf)) hr
    next => exact ih' known hr
  | error => cases hr
  | ok word composed all =>
    cases hr
    exact ⟨word, by rw [composed.word_eq, ← known, ← BitVec.and_or_distrib_left, all, BitVec.and_allOnes]⟩

/-- A choice by the number in a field. -/
theorem Answers.of_field {w k c : BitVec 32} {lo n x : Nat} {r} (hx : (w.extractLsb' lo n).toNat = x)
    (h : Answers w (k ||| bitsOf lo n) (c ||| Decode.put (BitVec.ofNat n x) lo) r) : Answers w k c r := by
  have code : w.extractLsb' lo n = BitVec.ofNat n x := by rw [← hx, BitVec.ofNat_toNat, BitVec.setWidth_eq]
  have := h.choice (r' := .error .illegalInstruction) .error
  rwa [if_pos (by simpa using code)] at this

/-! ## Majors (R73) -/

theorem answers_major01 (w : BitVec 32) : Answers w 0xBF000000 0x01000000 (Decode.major01 w) := by
  unfold Decode.major01
  generalize h : BitVec.toNat _ = fn
  exact .of_field h (by split <;> repeat constructor)

theorem answers_major02 (w : BitVec 32) : Answers w 0xBF000000 0x02000000 (Decode.major02 w) := by
  unfold Decode.major02
  generalize h : BitVec.toNat _ = fn
  exact .of_field h (by split <;> repeat constructor)

theorem answers_major03 (w : BitVec 32) : Answers w 0xBF000000 0x03000000 (Decode.major03 w) := by
  unfold Decode.major03
  generalize h : BitVec.toNat _ = fn
  exact .of_field h (by split <;> repeat constructor)

theorem answers_major04 (w : BitVec 32) : Answers w 0xBF000000 0x04000000 (Decode.major04 w) := by
  unfold Decode.major04
  generalize h : BitVec.toNat _ = fn
  exact .of_field h (by split <;> repeat constructor)

theorem answers_major05 (w : BitVec 32) : Answers w 0xBF000000 0x05000000 (Decode.major05 w) := by
  repeat constructor

theorem answers_major06 (w : BitVec 32) : Answers w 0xBF000000 0x06000000 (Decode.major06 w) := by
  repeat constructor

theorem answers_major07 (w : BitVec 32) : Answers w 0xBF000000 0x07000000 (Decode.major07 w) := by
  repeat constructor

theorem answers_major08 (w : BitVec 32) : Answers w 0xBF000000 0x08000000 (Decode.major08 w) := by
  repeat constructor

theorem answers_major09 (w : BitVec 32) : Answers w 0xBF000000 0x09000000 (Decode.major09 w) := by
  repeat constructor

theorem answers_major0A (w : BitVec 32) : Answers w 0xBF000000 0x0A000000 (Decode.major0A w) := by
  unfold Decode.major0A
  generalize h : BitVec.toNat _ = fn
  exact .of_field h (by split <;> repeat constructor)

theorem answers_major0B (w : BitVec 32) : Answers w 0xBF000000 0x0B000000 (Decode.major0B w) := by
  repeat constructor

theorem answers_major0C (w : BitVec 32) : Answers w 0xBF000000 0x0C000000 (Decode.major0C w) := by
  repeat constructor

theorem answers_major0D (w : BitVec 32) : Answers w 0xBF000000 0x0D000000 (Decode.major0D w) := by
  repeat constructor

theorem answers_major0F (w : BitVec 32) : Answers w 0xBF000000 0x0F000000 (Decode.major0F w) := by
  unfold Decode.major0F
  generalize h : BitVec.toNat _ = fn
  exact .of_field h (by split <;> repeat constructor)

theorem answers_major10 (w : BitVec 32) : Answers w 0xBF000000 0x10000000 (Decode.major10 w) := by
  repeat constructor

theorem answers_major11 (w : BitVec 32) : Answers w 0xBF000000 0x11000000 (Decode.major11 w) := by
  repeat constructor

theorem answers_major12 (w : BitVec 32) : Answers w 0xBF000000 0x12000000 (Decode.major12 w) := by
  repeat constructor

theorem answers_major13 (w : BitVec 32) : Answers w 0xBF000000 0x13000000 (Decode.major13 w) := by
  repeat constructor

theorem answers_major14 (w : BitVec 32) : Answers w 0xBF000000 0x14000000 (Decode.major14 w) := by
  repeat constructor

theorem answers_major15 (w : BitVec 32) : Answers w 0xBF000000 0x15000000 (Decode.major15 w) := by
  repeat constructor

theorem answers_major16 (w : BitVec 32) : Answers w 0xBF000000 0x16000000 (Decode.major16 w) := by
  unfold Decode.major16
  generalize h : BitVec.toNat _ = fn
  exact .of_field h (by split <;> repeat constructor)

theorem answers_major17 (w : BitVec 32) : Answers w 0xBF000000 0x17000000 (Decode.major17 w) := by
  unfold Decode.major17
  generalize h : BitVec.toNat _ = fn
  exact .of_field h (by split <;> repeat constructor)

theorem answers_major18 (w : BitVec 32) : Answers w 0xBF000000 0x18000000 (Decode.major18 w) := by
  unfold Decode.major18
  generalize h : BitVec.toNat _ = fn
  exact .of_field h (by split <;> repeat constructor)

theorem answers_major19 (w : BitVec 32) : Answers w 0xBF000000 0x19000000 (Decode.major19 w) := by
  unfold Decode.major19
  generalize h : BitVec.toNat _ = fn
  exact .of_field h (by split <;> repeat constructor)

theorem answers_major1A (w : BitVec 32) : Answers w 0xBF000000 0x1A000000 (Decode.major1A w) := by
  unfold Decode.major1A
  generalize h : BitVec.toNat _ = fn
  exact .of_field h (by split <;> repeat constructor)

theorem answers_major1B (w : BitVec 32) : Answers w 0xBF000000 0x1B000000 (Decode.major1B w) := by
  unfold Decode.major1B
  generalize h : BitVec.toNat _ = fn
  exact .of_field h (by split <;> repeat constructor)

theorem answers_major1C (w : BitVec 32) : Answers w 0xBF000000 0x1C000000 (Decode.major1C w) := by
  unfold Decode.major1C
  split
  next h => exact .of_field h (by repeat constructor)
  next => exact .error
  next => repeat constructor

theorem answers_major1D (w : BitVec 32) : Answers w 0xBF000000 0x1D000000 (Decode.major1D w) := by
  repeat constructor

theorem answers_major1E (w : BitVec 32) : Answers w 0xBF000000 0x1E000000 (Decode.major1E w) := by
  repeat constructor

theorem answers_major1F (w : BitVec 32) : Answers w 0xBF000000 0x1F000000 (Decode.major1F w) := by
  unfold Decode.major1F
  generalize h : BitVec.toNat _ = fn
  exact .of_field h (by split <;> repeat constructor)

theorem answers_major20 (w : BitVec 32) : Answers w 0xBF000000 0x20000000 (Decode.major20 w) := by
  unfold Decode.major20
  generalize h : BitVec.toNat _ = fn
  exact .of_field h (by split <;> repeat constructor)

theorem answers_major21 (w : BitVec 32) : Answers w 0xBF000000 0x21000000 (Decode.major21 w) := by
  unfold Decode.major21
  generalize h : BitVec.toNat _ = fn
  exact .of_field h (by split <;> repeat constructor)

theorem answers_major22 (w : BitVec 32) : Answers w 0xBF000000 0x22000000 (Decode.major22 w) := by
  unfold Decode.major22
  generalize h : BitVec.toNat _ = fn
  exact .of_field h (by split <;> repeat constructor)

theorem answers_major23 (w : BitVec 32) : Answers w 0xBF000000 0x23000000 (Decode.major23 w) := by
  unfold Decode.major23
  generalize h : BitVec.toNat _ = fn
  exact .of_field h (by split <;> repeat constructor)

theorem answers_major24 (w : BitVec 32) : Answers w 0xBF000000 0x24000000 (Decode.major24 w) := by
  unfold Decode.major24
  generalize h : BitVec.toNat _ = fn
  exact .of_field h (by split <;> repeat constructor)

theorem answers_major25 (w : BitVec 32) : Answers w 0xBF000000 0x25000000 (Decode.major25 w) := by
  unfold Decode.major25
  generalize h : BitVec.toNat _ = fn
  exact .of_field h (by split <;> repeat constructor)

theorem answers_major26 (w : BitVec 32) : Answers w 0xBF000000 0x26000000 (Decode.major26 w) := by
  unfold Decode.major26
  generalize h : BitVec.toNat _ = fn
  exact .of_field h (by split <;> repeat constructor)

theorem answers_major27 (w : BitVec 32) : Answers w 0xBF000000 0x27000000 (Decode.major27 w) := by
  unfold Decode.major27
  generalize h : BitVec.toNat _ = fn
  exact .of_field h (by split <;> repeat constructor)

theorem answers_major28 (w : BitVec 32) : Answers w 0xBF000000 0x28000000 (Decode.major28 w) := by
  unfold Decode.major28
  generalize h : BitVec.toNat _ = fn
  exact .of_field h (by split <;> repeat constructor)

theorem answers_major29 (w : BitVec 32) : Answers w 0xBF000000 0x29000000 (Decode.major29 w) := by
  unfold Decode.major29
  generalize h : BitVec.toNat _ = fn
  exact .of_field h (by split <;> repeat constructor)

theorem answers_major2A (w : BitVec 32) : Answers w 0xBF000000 0x2A000000 (Decode.major2A w) := by
  unfold Decode.major2A
  generalize h : BitVec.toNat _ = fn
  exact .of_field h (by split <;> repeat constructor)

theorem answers_major2B (w : BitVec 32) : Answers w 0xBF000000 0x2B000000 (Decode.major2B w) := by
  unfold Decode.major2B
  generalize h : BitVec.toNat _ = fn
  exact .of_field h (by split <;> repeat constructor)

theorem answers_major2C (w : BitVec 32) : Answers w 0xBF000000 0x2C000000 (Decode.major2C w) := by
  unfold Decode.major2C
  generalize h : BitVec.toNat _ = fn
  exact .of_field h (by split <;> repeat constructor)

theorem answers_major30 (w : BitVec 32) : Answers w 0xBF000000 0x30000000 (Decode.major30 w) := by
  unfold Decode.major30
  generalize h : BitVec.toNat _ = fn
  exact .of_field h (by split <;> repeat constructor)

theorem answers_major31 (w : BitVec 32) : Answers w 0xBF000000 0x31000000 (Decode.major31 w) := by
  unfold Decode.major31
  split
  next => exact .error
  next zero =>
    have zero : w.extractLsb' 4 2 = 0#2 := by simpa using zero
    generalize h : BitVec.toNat _ = fn
    exact .of_field (congrArg _ zero) (.of_field h (by split <;> repeat constructor))

theorem answers_major32 (w : BitVec 32) : Answers w 0xBF000000 0x32000000 (Decode.major32 w) := by
  unfold Decode.major32
  generalize h : BitVec.toNat _ = fn
  exact .of_field h (by split <;> repeat constructor)

theorem answers_major33 (w : BitVec 32) : Answers w 0xBF000000 0x33000000 (Decode.major33 w) := by
  unfold Decode.major33
  generalize h : BitVec.toNat _ = fn
  exact .of_field h (by split <;> repeat constructor)

theorem answers_major34 (w : BitVec 32) : Answers w 0xBF000000 0x34000000 (Decode.major34 w) := by
  unfold Decode.major34
  generalize h : BitVec.toNat _ = fn
  exact .of_field h (by split <;> repeat constructor)

theorem answers_major35 (w : BitVec 32) : Answers w 0xBF000000 0x35000000 (Decode.major35 w) := by
  unfold Decode.major35
  generalize h : BitVec.toNat _ = fn
  exact .of_field h (by split <;> repeat constructor)

theorem answers_major36 (w : BitVec 32) : Answers w 0xBF000000 0x36000000 (Decode.major36 w) := by
  unfold Decode.major36
  generalize h : BitVec.toNat _ = fn
  exact .of_field h (by split <;> repeat constructor)

theorem answers_major37 (w : BitVec 32) : Answers w 0xBF000000 0x37000000 (Decode.major37 w) := by
  unfold Decode.major37
  generalize h : BitVec.toNat _ = fn
  exact .of_field h (by split <;> repeat constructor)

theorem answers_major38 (w : BitVec 32) : Answers w 0xBF000000 0x38000000 (Decode.major38 w) := by
  unfold Decode.major38
  generalize h : BitVec.toNat _ = fn
  exact .of_field h (by split <;> repeat constructor)

theorem answers_major39 (w : BitVec 32) : Answers w 0xBF000000 0x39000000 (Decode.major39 w) := by
  unfold Decode.major39
  generalize h : BitVec.toNat _ = fn
  exact .of_field h (by split <;> repeat constructor)

theorem answers_major3A (w : BitVec 32) : Answers w 0xBF000000 0x3A000000 (Decode.major3A w) := by
  unfold Decode.major3A
  generalize h : BitVec.toNat _ = fn
  exact .of_field h (by split <;> repeat constructor)

theorem answers_major3C (w : BitVec 32) : Answers w 0xBF000000 0x3C000000 (Decode.major3C w) := by
  unfold Decode.major3C
  generalize h : BitVec.toNat _ = fn
  exact .of_field h (by split <;> repeat constructor)

theorem answers_major3D (w : BitVec 32) : Answers w 0xBF000000 0x3D000000 (Decode.major3D w) := by
  unfold Decode.major3D
  generalize h : BitVec.toNat _ = fn
  exact .of_field h (by split <;> repeat constructor)

theorem answers_major3E (w : BitVec 32) : Answers w 0xBF000000 0x3E000000 (Decode.major3E w) := by
  unfold Decode.major3E
  generalize h : BitVec.toNat _ = fn
  exact .of_field h (by split <;> repeat constructor)

theorem answers_major3F (w : BitVec 32) : Answers w 0xBF000000 0x3F000000 (Decode.major3F w) := by
  unfold Decode.major3F
  generalize h : BitVec.toNat _ = fn
  exact .of_field h (by split <;> repeat constructor)

/-- Bit 31 is clear in every word that decodes, and the major chooses the decoder (R59, R61, R74). -/
theorem answers_decode (w : BitVec 32) : Answers w 0 0 (decode w) := by
  unfold decode
  refine .flag .error ?_
  generalize h : BitVec.toNat _ = major
  refine .of_field h ?_
  split
  exacts [answers_major01 w, answers_major02 w, answers_major03 w, answers_major04 w, answers_major05 w, answers_major06 w,
    answers_major07 w, answers_major08 w, answers_major09 w, answers_major0A w, answers_major0B w, answers_major0C w,
    answers_major0D w, answers_major0F w, answers_major10 w, answers_major11 w, answers_major12 w, answers_major13 w,
    answers_major14 w, answers_major15 w, answers_major16 w, answers_major17 w, answers_major18 w, answers_major19 w,
    answers_major1A w, answers_major1B w, answers_major1C w, answers_major1D w, answers_major1E w, answers_major1F w,
    answers_major20 w, answers_major21 w, answers_major22 w, answers_major23 w, answers_major24 w, answers_major25 w,
    answers_major26 w, answers_major27 w, answers_major28 w, answers_major29 w, answers_major2A w, answers_major2B w,
    answers_major2C w, answers_major30 w, answers_major31 w, answers_major32 w, answers_major33 w, answers_major34 w,
    answers_major35 w, answers_major36 w, answers_major37 w, answers_major38 w, answers_major39 w, answers_major3A w,
    answers_major3C w, answers_major3D w, answers_major3E w, answers_major3F w, .error]

/-! ## The obligations -/

open Laws.RoundTrip in
/-- Every instruction by its own lemma: decoding its word gives it back. -/
theorem decode_encode (i : Instr) : Laws.RoundTrip.Statement i :=
  Instr.casesOn (motive := Laws.RoundTrip.Statement) i
    add sub and or xor andn orn shl shr sra rot min max minn maxn mul mulh mulhn div divn rem remn clz ctz popc bswap bfx bfi
    sextB sextH sextW zextB zextH zextW cmpEq cmpNe cmpLt cmpLtn cmpLe cmpLen selNz addi andi ori xori muli shli shri srai roti
    cmpi ldLit movi lea xkeySet xkeyGet ld st ldX stX ldS stS amoAdd amoAnd amoOr amoXor amoMin amoMax amoMinn amoMaxn amoSwap
    amoFadd cas waita wake phase fenceX fenceR fenceA qfence ifence tagSet tagGet xreq xrel stF bc dbnz b call jr jrl ret vadd
    vaddN vsub vsubN vmul vmulN vfma vfms vmin vminN vmax vmaxN vabs vneg vand vor vxor vandn vshl vshr vsra vavg vavgN vcmpEq
    vcmpNe vcmpLt vcmpLtN vcmpLe vcmpLeN vcmpUnord vsel vperm vtrn vrowb vcolb vslide vredAddAll vredMinAll vredMaxAll vredAndAll
    vredOrAll vredAmaxAll vredMinNAll vredMaxNAll vredAddRow vredMinRow vredMaxRow vredAndRow vredOrRow vredAmaxRow vredMinNRow
    vredMaxNRow vredAddCol vredMinCol vredMaxCol vredAndCol vredOrCol vredAmaxCol vredMinNCol vredMaxNCol vcvt vcvtN vpack
    vunpack vsat vsatN vrcp vrsq vsqrt vexp2 vlog2 vsinpi vcospi vtanh vdiv vadds vaddsN vmuls vmulsN vfmas vbcast vget vgetN
    vset vld vst vgather vscatter vdot vdotN vcmul vbmax vscale vquant vrand vtagSet vtagGet kand kor kxor knot kmov kpop kany
    kall kset cp mmBf16 mmF16 mmE4m3 mmE5m2 mmI8 mmTern mmF32 mmC32 mmU accClr accRd accRdC32 accWr accWrC32 accSt accStC32 await
    awaitX jpoll jdrop gset gclr sigDec board unboard spawn spawnL exit yield migr land landV lopen lclose waitL lclr umask
    unmask barQuad barDie barPkg barPod bmaxQuad bmaxDie bmaxPkg bmaxPod gang cpush cpop cyield cwait msg sysc trap eret brk halt
    mfs mts ctxSv ctxLd preempt resume xmap hintExtend hintModifier hintSchedule longLatencyResult deferredFaultDelivery
    userQueueNotify launchPacket signalOperationPacket barrierAndPacket copyPacket creelSeedPacket nodeReady launchDispatch
    launchComplete nodeComplete barrierAndComplete copyPacketComplete urgentEntry urgentMaskOverrun arrivalAdmit landingArrival
    landingHeld landingRefusalReturn forwardAck locationUpdate creelSnapshot creelPublication creelDispatch cpushPlacement
    spillRingRefill creelWave creelIntakeRecord waitaReread phaseComplete fenceRComplete fenceAComplete tagSetComplete
    translationAnswer drainedLineArrival forwardedAccess counterHalving migrationCopy migrationSwitch migrationRedirectEnd
    queueHeadStart joinRelease copyBeat matrixGroup jobComplete jobReplay promiseMissed roundLapStart roundFrameArrival
    hopRetransmit preemptionCut contextSaveComplete strandResume parkedCallEntry messageArrival messageDispatch hostRevocation
    revocationComplete dieHalt bightPreempt bightResume singleStep operatingPointChange linkWidthChange linkRetrainComplete
    thermalStep thermalRecovery thermalShutdown linkReplay reflectedCopyArrival flagIncrement reflectionAck routeTableWrite
    incarnationAnnounce podBarrierReport podBarrierRelease pctlWrite partitionConfigWrite transmitEntryWrite hwqDoorbell
    hwqOutboundTransfer hwqInboundTransfer hostAtomicOp counterClear traceSample checkpointStart checkpointComplete
    roundModelLoad roundRateWrite resetCold resetWarm patrolScrub eccError dieHaltRelease bightContinue hostPortTraining
    recoveryImageWrite delayTableClear

/-- Settles O57: there by the instruction's own lemma, back by the derivation of the decoder's answer. -/
theorem decodeEncode : Obligations.DecodeEncode := by
  unfold Obligations.DecodeEncode
  exact ⟨fun i => decode_encode i, fun w _ h => (answers_decode w).word_of_ok BitVec.and_zero h⟩

/-- Settles O58: each word's fields, read off. -/
theorem decodeWords : Obligations.DecodeWords := by
  unfold Obligations.DecodeWords
  exact ⟨rfl, rfl, rfl, rfl, rfl, rfl, rfl, rfl, rfl⟩

end Sys2Proof.Claims

/-!
One step (04 R59, 05 R100, 07 R146): the word that it fetches where nothing stands between the strand and its memory, and what the
passing of cycles leaves unchanged.
-/
namespace Sys2Proof.Claims
open Machine

/-! ## The bytes of a word within its line -/

theorem readN_lt (m : Memory) (a n : Nat) : Memory.readN m a n < 2 ^ (8 * n) := by
  induction n generalizing a with
  | zero => simp [Memory.readN]
  | succ n ih =>
    have low := (Memory.read m a).isLt
    have high := ih (a + 1)
    rw [show 8 * (n + 1) = 8 + 8 * n by omega, Nat.pow_add]
    simp only [Memory.readN]
    omega

theorem readN_add (m : Memory) (a k n : Nat) :
    Memory.readN m a (k + n) = Memory.readN m a k + 2 ^ (8 * k) * Memory.readN m (a + k) n := by
  induction k generalizing a with
  | zero => simp [Memory.readN]
  | succ k ih =>
    rw [show k + 1 + n = (k + n) + 1 by omega, show 8 * (k + 1) = 8 + 8 * k by omega, Nat.pow_add]
    simp only [Memory.readN, ih, show a + 1 + k = a + (k + 1) by omega]
    ring

/-- Bytes lo to lo + n - 1 of what a read of more bytes gives. -/
theorem readN_div_mod (m : Memory) (a : Nat) {lo n len : Nat} (h : lo + n ≤ len) :
    Memory.readN m a len / 2 ^ (8 * lo) % 2 ^ (8 * n) = Memory.readN m (a + lo) n := by
  obtain ⟨rest, rfl⟩ := Nat.exists_eq_add_of_le h
  rw [Nat.add_assoc, readN_add, readN_add m (a + lo) n, Nat.add_mul_div_left _ _ (Nat.two_pow_pos _),
    Nat.div_eq_of_lt (readN_lt m a lo), Nat.zero_add, Nat.add_mul_mod_self_left, Nat.mod_eq_of_lt (readN_lt _ _ n)]

theorem toNat_readN (m : Memory) (a n : Nat) : (BitVec.ofNat (8 * n) (Memory.readN m a n)).toNat = Memory.readN m a n :=
  (BitVec.toNat_ofNat ..).trans (Nat.mod_eq_of_lt (readN_lt m a n))

/-- An aligned word, taken from its line as read. -/
theorem word_of_line (s : State) {pa : Nat} (aligned : pa % 4 = 0) :
    Line.bytes (s.lineAt (Memory.line pa)) (pa - Memory.line pa) 4 = Memory.readN s.mem pa 4 := by
  have below : Memory.line pa ≤ pa := Nat.div_mul_le_self pa 64
  have inside : pa - Memory.line pa + 4 ≤ 64 := by unfold Memory.line; omega
  have whole : (s.lineAt (Memory.line pa)).toNat = Memory.readN s.mem (Memory.line pa) 64 :=
    toNat_readN s.mem (Memory.line pa) 64
  rw [Line.bytes, whole, readN_div_mod _ _ inside, Nat.add_sub_cancel' below]

/-! ## The fetch of a word -/

theorem addPc_zero {pc : Word} (h : pc.toNat < 2 ^ 56) : addPc pc 0 = pc := by
  rw [addPc, Nat.add_zero, Nat.mod_eq_of_lt h, BitVec.ofNat_toNat, BitVec.setWidth_eq]

/-- A fetch that passes its checks leaves the state as it is, whatever has been noted about links. -/
theorem check_fetch_crossed {s t : State} {x : Strand} {va : Word} {tgt : Target} (b : Bool)
    (h : s.check x .fetch va 1 = .ok tgt t) :
    ({ s with crossed := b } : State).check x .fetch va 1 = .ok tgt { s with crossed := b } := by
  have found : ({ s with crossed := b } : State).find x va = s.find x va := rfl
  simp only [State.check, found, ne_eq, not_true_eq_false, and_false, false_and, if_false, Nat.mod_one, reduceCtorEq] at h ⊢
  cases hit : s.find x va with
  | none =>
    simp only [hit, reduceCtorEq] at h
  | some u =>
    simp only [hit] at h ⊢
    cases space : u.space
    all_goals
      simp only [space] at h ⊢
      split_ifs at h ⊢
      all_goals cases h; rfl

theorem pathFlush_eq {s : State} {a d : Nat} (clear : (s.path a d).writes = []) : s.pathFlush a d = s := by
  rw [State.pathFlush, clear, List.foldl_nil]

theorem behind_eq {s : State} {x : Strand} (clear : ∀ a ∈ x.left, ∀ d, (s.path a d).writes = []) (line : Nat) :
    s.behind x line = s :=
  List.foldlRecOn (motive := (· = s)) x.left _ rfl fun t ht a ha => by rw [ht, pathFlush_eq (clear a ha _)]

/-- t is s but for what an access notes on its way where nothing stands on the paths: a link that retrains, a page's count. -/
structure Noted (s t : State) : Prop where
  st      : t.st = s.st
  agenda  : t.agenda = s.agenda
  mem     : t.mem = s.mem
  strands : t.strands = s.strands
  cores   : t.cores = s.cores
  quads   : t.quads = s.quads
  dies    : t.dies = s.dies
  locks   : t.locks = s.locks
  poison  : t.poison = s.poison
  clk     : t.clk = s.clk
  hub     : { t.hub with pageCnt := [] } = { s.hub with pageCnt := [] }
  crossed : Linked s → t.crossed = s.crossed

theorem countAccess_noted (s : State) (die line : Nat) : Noted s (s.countAccess die line) := by
  unfold State.countAccess
  split
  · split <;> constructor <;> intros <;> rfl
  · constructor <;> intros <;> rfl

theorem reach_noted {s : State} {die : Nat} (clear : ∀ d, (s.path die d).writes = []) (line : Nat) :
    Noted s (s.reach die line) := by
  simp only [State.reach]
  split
  next => exact countAccess_noted s die line
  next =>
    rw [pathFlush_eq (clear _)]
    unfold State.cross
    split
    next h =>
      refine { countAccess_noted { s with crossed := true } die line with crossed := fun linked => ?_ }
      rw [linked, linked] at h
      exact absurd h.2 Bool.false_ne_true
    next => exact countAccess_noted s die line

/-- The line that has been read goes into the instruction cache and the fetch buffer of the strand in issue (R100, R214). -/
def keepLine (s : State) (line : Nat) : State :=
  (s.modCore s.st.core fun c => { c with icache := Assoc.set (s.core s.st.core).icache line (s.lineAt line) }).modSt fun x =>
    { x with fbuf := Assoc.set x.fbuf line (s.lineAt line) }

/-- A fetch of a line that neither the strand nor its core holds: the word at the address, and the state in which the fetch buffer
and the instruction cache keep the line. -/
theorem fetchWord_unread {s : State} {t : Target} {pc : Word} (covered : s.check s.st .fetch pc 1 = .ok t s)
    (aligned : t.addr % 4 = 0) (fbuf : Assoc.get s.st.fbuf (Memory.line t.addr) = none)
    (icache : Assoc.get (s.core s.st.core).icache (Memory.line t.addr) = none) (room : (s.core s.st.core).icache.length < 256)
    (clean : s.poisoned (Memory.line t.addr) = false)
    (settled : ∀ a ∈ dieOf s.st.core :: s.st.left, ∀ d, (s.path a d).writes = []) :
    ∃ r, Noted s r ∧ s.fetchWord pc = .ok (BitVec.ofNat 32 (Memory.readN s.mem t.addr 4)) (keepLine r (Memory.line t.addr)) := by
  obtain ⟨hd, left⟩ := List.forall_mem_cons.mp settled
  have noted := reach_noted hd (Memory.line t.addr)
  have reach : (s.behind s.st (Memory.line t.addr)).reach (dieOf s.st.core) (Memory.line t.addr) =
      s.reach (dieOf s.st.core) (Memory.line t.addr) := by rw [behind_eq left]
  generalize s.reach (dieOf s.st.core) (Memory.line t.addr) = r at noted reach
  have core : r.core r.st.core = s.core s.st.core := by rw [State.core, noted.cores, noted.st, State.core]
  have unpoisoned : r.poisoned (Memory.line t.addr) = false := by rwa [State.poisoned, noted.poison]
  refine ⟨r, noted, ?_⟩
  rw [State.fetchWord, covered, ← noted.mem, ← word_of_line r aligned]
  simp only [Res.atHead, Res.bind, clean, fbuf, icache, reach, unpoisoned, core ▸ room, Bool.false_eq_true, if_false, if_true]
  rfl

/-! ## One step -/

theorem turn_of_agenda {s : State} {t : Turn} {rest : List Turn} (h : s.agenda = t :: rest) :
    s.turn = (t, { s with agenda := rest }) := by
  rw [State.turn, h]

theorem step_of_idle {s : State} {rest : List Turn} (h : s.agenda = .idle :: rest) :
    step s = .next { s with agenda := rest }.tick := by
  rw [step, turn_of_agenda h]

theorem step_of_event {s : State} {i : Instr} {rest : List Turn} (h : s.agenda = .event i :: rest) (event : hasWord i = false) :
    step s = tickOut (exec i ({ s with agenda := rest }.sampled i)) := by
  rw [step, turn_of_agenda h]
  simp only [event, Bool.false_eq_true, if_false]

theorem sampled_eq {i : Instr} (s : State) (h : ∀ core sid, i ≠ .traceSample core sid) : s.sampled i = s := by
  unfold State.sampled
  split
  next core sid => exact absurd rfl (h core sid)
  next => rfl

/-- A strand that has its turn, may issue and is in issue already. -/
theorem step_of_word {s q : State} (turn : s.agenda = .word s.st.sid.toNat :: q.agenda) (rest : q = { s with agenda := q.agenda })
    (live : s.st.live = true) (wait : s.st.wait = none) (kind : sidKind s.st.sid.toNat ≠ 3)
    (issue : q.mayIssue s.st.sid.toNat = true) :
    step s = tickOut ({ q with crossed := false }.overLinks (stepStrand { q with crossed := false })) := by
  have st : q.st = s.st := by rw [rest]
  have focus : q.focus s.st.sid.toNat = q := by simp [State.focus, st, live]
  have start : q.startIssue = q := by simp [State.startIssue, st, wait, kind]
  rw [step, turn_of_agenda turn, ← rest]
  simp only [focus, start, issue, if_true]

/-- Nothing comes before the fetch at the head of a unit (R147, R316, R322, R400). -/
theorem boundary_eq_none {q : State} (head : q.st.hints = []) (urgent : q.urgentDue q.st.core = none) (pending : q.st.pending = [])
    (preempt : q.st.flags.preempt = false)
    (debug : q.st.flags.passBp = true ∨ (q.st.flags.stepping = false ∧ q.breakAt q.st = none)) : q.boundary = none := by
  rcases debug with pass | ⟨stepping, noBreak⟩
  · simp [State.boundary, Strand.deliverable, *]
  · simp [State.boundary, Strand.deliverable, *]

/-- A step of a strand between whose word and memory nothing stands. -/
theorem step_of_fetches {s q : State} {i : Instr} {pa : Nat} (f : Fetches s i q pa) :
    ∃ r, Noted { q with crossed := false } r ∧
      step s = tickOut ({ q with crossed := false }.overLinks (exec i (keepLine r (Memory.line pa)))) := by
  obtain ⟨turn, rest, live, issue, ⟨hints, wait, kind⟩, ⟨urgent, pending, preempt, debug⟩, ⟨low, t, check, rfl⟩, aligned,
    ⟨fbuf, icache, room⟩, clean, settled, decodes⟩ := f
  obtain ⟨agenda, rfl⟩ : ∃ agenda, q = { s with agenda := agenda } := ⟨_, rest⟩
  obtain ⟨r, noted, fetched⟩ := fetchWord_unread (s := { s with agenda := agenda, crossed := false })
    (check_fetch_crossed false check) aligned fbuf icache room clean settled
  refine ⟨r, noted, ?_⟩
  have head : ({ s with agenda := agenda, crossed := false } : State).boundary = none :=
    boundary_eq_none hints urgent pending preempt debug
  rw [step_of_word turn rest live wait kind issue, stepStrand, head]
  simp only [State.fetchNext, hints, List.length_nil, Nat.mul_zero, addPc_zero low, fetched, Res.out, issueWord, decodes]

theorem keepLine_core (r : State) (line c : Nat) : { (keepLine r line).core c with icache := [] } = { r.core c with icache := [] } := by
  by_cases h : c = r.st.core
  · subst h
    simp [keepLine, State.core]
  · simp [keepLine, State.core, State.modCore, State.modSt, Assoc.getD_modify_other _ _ _ _ _ h]

/-! ## The passing of cycles -/

/-- What holds of every entry of a table and of the default still holds after an entry has changed. -/
theorem forall_mem_set {α : Type} {P : α → Prop} {l : List (Nat × α)} {a : Nat} {x : α} (hl : ∀ p ∈ l, P p.2) (hx : P x) :
    ∀ p ∈ Assoc.set l a x, P p.2 := by
  induction l with
  | nil => simpa [Assoc.set] using hx
  | cons p t ih =>
    obtain ⟨hp, ht⟩ := List.forall_mem_cons.mp hl
    unfold Assoc.set
    split_ifs
    · exact List.forall_mem_cons.mpr ⟨hp, ih ht⟩
    · exact List.forall_mem_cons.mpr ⟨hx, ht⟩
    · exact List.forall_mem_cons.mpr ⟨hx, hl⟩

theorem getD_of_forall_mem {α : Type} {P : α → Prop} {l : List (Nat × α)} {a : Nat} {d : α} (hl : ∀ p ∈ l, P p.2) (hd : P d) :
    P (Assoc.getD l a d) := by
  induction l with
  | nil => exact hd
  | cons p t ih =>
    obtain ⟨hp, ht⟩ := List.forall_mem_cons.mp hl
    by_cases h : p.1 = a
    · simpa [Assoc.getD, Assoc.get, h] using hp
    · simpa [Assoc.getD, Assoc.get, h] using ih ht

/-- No runnable sid waits for a resume list of the die (R354). -/
def Posted (d : Die) : Prop := ∀ r ∈ d.regs, r.2.posts = []

/-- Counting leaves memory alone, and what waits for a resume list. -/
def Counted (s t : State) : Prop := t.mem = s.mem ∧ ((∀ d ∈ s.dies, Posted d.2) → ∀ d ∈ t.dies, Posted d.2)

theorem Counted.trans {s t u : State} (h : Counted s t) (h' : Counted t u) : Counted s u :=
  ⟨h'.1.trans h.1, fun posted => h'.2 (h.2 posted)⟩

theorem countCreel_counted (s : State) (p die : Nat) (c : Counter) (n : Nat) : Counted s (s.countCreel p die c n) :=
  ⟨rfl, fun posted => forall_mem_set posted (getD_of_forall_mem (P := Posted) posted nofun)⟩

theorem accrue_counted {s : State} (n : Nat) (unparked : ∀ x ∈ s.all, (s.view x).flags.parked = false) :
    Counted s (s.accrue n) := by
  have unmoved : s.all.filter s.parkedCall = [] := List.filter_eq_nil_iff.mpr fun x hx => Bool.eq_false_iff.mp (unparked x hx)
  simp only [State.accrue, State.countParked, unmoved, List.foldl_nil]
  refine List.foldlRecOn (motive := Counted s) _ _ ?_ fun t ht c _ => ht.trans (countCreel_counted t c.1 c.2 _ n)
  exact List.foldlRecOn (motive := Counted s) _ _ ⟨rfl, id⟩ fun t ht c _ => ht

theorem postLists_eq {s : State} (posted : ∀ d ∈ s.dies, Posted d.2) : s.postLists = s :=
  List.foldlRecOn (motive := (· = s)) s.dies _ rfl fun _ eq d hd =>
    List.foldlRecOn (motive := (· = s)) d.2.regs _ eq fun t ht r hr => by rw [ht, posted d hd r hr]; rfl

theorem tick_bytesKept {s : State} (unparked : ∀ x ∈ s.all, (s.view x).flags.parked = false) (posted : ∀ d ∈ s.dies, Posted d.2) :
    BytesKept s s.tick := by
  obtain ⟨mem, counted⟩ := accrue_counted s.freeNat unparked
  intro b
  simp only [State.tick, postLists_eq (counted posted), mem]

/-- Settles O56: a word by the state that its fetch leaves, events and idle turns by the head of the agenda, and the passing of
cycles by what counting touches. -/
theorem stepRunsDecoded : Obligations.StepRunsDecoded := by
  unfold Obligations.StepRunsDecoded
  refine ⟨fun s i q pa f => ?_, fun s i rest h event other => ?_, fun s core sid rest h => ?_, fun s rest => step_of_idle,
    fun s => tick_bytesKept⟩
  · obtain ⟨r, noted, stepped⟩ := step_of_fetches f
    obtain ⟨agenda, rfl⟩ : ∃ agenda, q = { s with agenda := agenda } := ⟨_, f.rest⟩
    refine ⟨keepLine r (Memory.line pa), ?_, noted.crossed, ?_, noted.agenda, noted.mem, noted.strands, noted.quads, noted.dies,
      noted.locks, noted.poison, noted.clk, noted.hub, fun c => ?_⟩
    · rw [stepped]
      cases exec i (keepLine r (Memory.line pa)) <;> rfl
    · simp only [keepLine, State.modSt, State.modCore, noted.st, State.lineAt, noted.mem]
    · rw [keepLine_core, State.core, noted.cores, State.core]
  · rw [step_of_event h event, sampled_eq _ other]
  · exact ⟨_, step_of_event h rfl⟩

end Sys2Proof.Claims

/-!
Scalar instructions (05 R79 to R90): the machine's arithmetic as 05 writes it, and codes that no instruction has.
-/
namespace Sys2Proof.Machine

/-- The values of a field of three bits. -/
theorem bitVec3_cases (c : BitVec 3) : c = 0 ∨ c = 1 ∨ c = 2 ∨ c = 3 ∨ c = 4 ∨ c = 5 ∨ c = 6 ∨ c = 7 := by
  revert c
  decide

/-! ## Shifts, minimum and maximum, products (R79, R80) -/

/-- A count in the low six bits of a word (R79). -/
theorem toNat_and_63 (y : Word) : (y &&& 63).toNat = y.toNat % 64 :=
  (BitVec.toNat_and ..).trans (Nat.and_two_pow_sub_one_eq_mod y.toNat 6)

theorem minS_eq (x y : Word) : minS x y = if x.slt y then x else y := by
  simp only [minS, BitVec.slt_iff_toInt_lt]
  rcases lt_trichotomy x.toInt y.toInt with h | h | h
  · simp [h, h.le]
  · simp [BitVec.eq_of_toInt_eq h]
  · simp [h.not_ge, h.le.not_gt]

theorem maxS_eq (x y : Word) : maxS x y = if x.slt y then y else x := by
  simp only [maxS, BitVec.slt_iff_toInt_lt]
  rcases lt_trichotomy x.toInt y.toInt with h | h | h
  · simp [h, h.le]
  · simp [BitVec.eq_of_toInt_eq h]
  · simp [h.not_ge, h.le.not_gt]

theorem minU_eq (x y : Word) : minU x y = if x.ult y then x else y := by
  simp only [minU, BitVec.ult_iff_toNat_lt]
  rcases lt_trichotomy x.toNat y.toNat with h | h | h
  · simp [h, h.le]
  · simp [BitVec.eq_of_toNat_eq h]
  · simp [h.not_ge, h.le.not_gt]

theorem maxU_eq (x y : Word) : maxU x y = if x.ult y then y else x := by
  simp only [maxU, BitVec.ult_iff_toNat_lt]
  rcases lt_trichotomy x.toNat y.toNat with h | h | h
  · simp [h, h.le]
  · simp [BitVec.eq_of_toNat_eq h]
  · simp [h.not_ge, h.le.not_gt]

theorem mulHighU_eq (x y : Word) : mulHighU x y = (x.setWidth 128 * y.setWidth 128).extractLsb' 64 64 := by
  have exact : (x.setWidth 128 * y.setWidth 128).toNat = x.toNat * y.toNat := by
    rw [BitVec.toNat_mul, BitVec.toNat_setWidth_of_le (by decide), BitVec.toNat_setWidth_of_le (by decide)]
    exact Nat.mod_eq_of_lt ((Nat.mul_lt_mul'' x.isLt y.isLt).trans_eq (by decide))
  apply BitVec.eq_of_toNat_eq
  rw [BitVec.extractLsb'_toNat, exact, Nat.shiftRight_eq_div_pow, mulHighU, BitVec.toNat_ofNat]

/-- The upper half of a number's 128 bits. -/
theorem ofInt_div_two_pow (z : Int) : BitVec.ofInt 64 (z / 2 ^ 64) = (BitVec.ofInt 128 z).extractLsb' 64 64 := by
  apply BitVec.eq_of_toNat_eq
  simp [BitVec.extractLsb'_toNat, Nat.shiftRight_eq_div_pow, BitVec.toNat_ofInt]
  omega

theorem mulHighS_eq (x y : Word) : mulHighS x y = (x.signExtend 128 * y.signExtend 128).extractLsb' 64 64 := by
  rw [mulHighS, ofInt_div_two_pow, BitVec.ofInt_mul]
  rfl

/-! ## Counts and bytes (R82) -/

/-- The least number below n + 1 that satisfies a condition, by whether 0 does. -/
theorem find_range_succ (p : Nat → Bool) (n : Nat) : ((List.range (n + 1)).find? p).getD (n + 1) =
    if p 0 then 0 else 1 + ((List.range n).find? fun i => p (i + 1)).getD n := by
  have tail : (List.find? p (List.map Nat.succ (List.range n))).getD (n + 1) =
      1 + ((List.range n).find? fun i => p (i + 1)).getD n := by
    rw [List.find?_map, Nat.add_comm 1]
    change _ = ((List.range n).find? (p ∘ Nat.succ)).getD n + 1
    cases List.find? (p ∘ Nat.succ) (List.range n) <;> rfl
  rw [List.range_succ_eq_map, List.find?_cons, ← tail]
  cases p 0 <;> rfl

theorem countLead_eq (x n : Nat) : countLead x n = ((List.range n).find? fun i => x.testBit (n - 1 - i)).getD n := by
  induction n with
  | zero => rfl
  | succ n ih =>
    have next (i : Nat) : n + 1 - 1 - (i + 1) = n - 1 - i := by omega
    rw [find_range_succ, countLead, ih]
    simp only [next]
    simp [Nat.testBit_eq_decide_div_mod_eq]

theorem countTrail_eq (x n : Nat) : countTrail x n = ((List.range n).find? x.testBit).getD n := by
  induction n generalizing x with
  | zero => rfl
  | succ n ih =>
    rw [find_range_succ, countTrail, ih]
    simp [Nat.testBit_zero, Nat.testBit_succ]

theorem countOnes_eq (x n : Nat) : countOnes x n = ((List.range n).filter x.testBit).length := by
  induction n generalizing x with
  | zero => rfl
  | succ n ih =>
    rw [countOnes, ih, List.range_succ_eq_map, List.filter_cons, List.filter_map]
    rcases Nat.mod_two_eq_zero_or_one x with h | h <;> simp [h, Function.comp_def, Nat.testBit_succ, Nat.add_comm]

theorem clz_eq (x : Word) : countLead x.toNat 64 = ((List.range 64).find? x.getMsbD).getD 64 := by
  rw [countLead_eq]
  refine congrArg (Option.getD · 64) (List.find?_congr fun i hi => ?_)
  rw [BitVec.getMsbD, decide_eq_true (List.mem_range.mp hi), Bool.true_and]
  rfl

theorem ctz_eq (x : Word) : countTrail x.toNat 64 = ((List.range 64).find? x.getLsbD).getD 64 := countTrail_eq ..

theorem popc_eq (x : Word) : countOnes x.toNat 64 = ((List.range 64).filter x.getLsbD).length := countOnes_eq ..

theorem toNat_append_eq {m n : Nat} (a : BitVec m) (b : BitVec n) : (a ++ b).toNat = a.toNat * 2 ^ n + b.toNat := by
  rw [BitVec.toNat_append, ← Nat.shiftLeft_add_eq_or_of_lt b.isLt, Nat.shiftLeft_eq]

theorem bswap_eq (x : Word) : BitVec.ofNat 64 (revBytes x.toNat 8) =
    x.extractLsb' 0 8 ++ x.extractLsb' 8 8 ++ x.extractLsb' 16 8 ++ x.extractLsb' 24 8 ++
      x.extractLsb' 32 8 ++ x.extractLsb' 40 8 ++ x.extractLsb' 48 8 ++ x.extractLsb' 56 8 := by
  have byte (k : Nat) : (x.extractLsb' k 8).toNat = x.toNat / 2 ^ k % 256 := by
    rw [BitVec.extractLsb'_toNat, Nat.shiftRight_eq_div_pow]
  have sum : revBytes x.toNat 8 = (x.extractLsb' 0 8 ++ x.extractLsb' 8 8 ++ x.extractLsb' 16 8 ++ x.extractLsb' 24 8 ++
      x.extractLsb' 32 8 ++ x.extractLsb' 40 8 ++ x.extractLsb' 48 8 ++ x.extractLsb' 56 8).toNat := by
    simp only [toNat_append_eq, byte, revBytes, Nat.div_div_eq_div_mul, Nat.pow_zero, Nat.div_one]
    ring_nf
  rw [sum, BitVec.ofNat_toNat]
  exact BitVec.setWidth_eq _

/-! ## Parts of a word (R82, R90) -/

/-- The low n bits of a word, by a mask. -/
theorem setWidth_extractLsb' (x : Word) (n : Nat) (m : Word) (h : ∀ i, i < 64 → m.getLsbD i = decide (i < n)) :
    (x.extractLsb' 0 n).setWidth 64 = x &&& m := by
  ext i hi
  have := h i hi
  simp [← BitVec.getLsbD_eq_getElem, this, Bool.and_comm, hi]

theorem zextB_eq (x : Word) : (x.extractLsb' 0 8).setWidth 64 = x &&& 0xFF := setWidth_extractLsb' x 8 _ (by decide)
theorem zextH_eq (x : Word) : (x.extractLsb' 0 16).setWidth 64 = x &&& 0xFFFF := setWidth_extractLsb' x 16 _ (by decide)
theorem zextW_eq (x : Word) : (x.extractLsb' 0 32).setWidth 64 = x &&& 0xFFFFFFFF := setWidth_extractLsb' x 32 _ (by decide)

theorem setWidth_eq_extractLsb' (x : Word) (n : Nat) : x.setWidth n = x.extractLsb' 0 n := by
  ext i
  simp

theorem lea_eq (p x : Word) : lea p x = (p &&& 0xFF00000000000000) ||| ((p + x) &&& 0x00FFFFFFFFFFFFFF) := by
  have sum : p.extractLsb' 0 56 + x.extractLsb' 0 56 = (p + x).extractLsb' 0 56 :=
    BitVec.eq_of_toNat_eq (by simp)
  rw [lea, sum]
  generalize p + x = y
  ext i hi
  have high : (0xFF00000000000000#64).getLsbD i = decide (56 ≤ i) := by revert i; decide
  have low : (0x00FFFFFFFFFFFFFF#64).getLsbD i = decide (i < 56) := by revert i; decide
  rw [BitVec.getElem_append, BitVec.getElem_or, BitVec.getElem_and, BitVec.getElem_and]
  by_cases h : i < 56
  · simp [h, ← BitVec.getLsbD_eq_getElem, high, low]
  · simp [h, ← BitVec.getLsbD_eq_getElem, high, low, show 56 + (i - 56) = i by omega, show 56 ≤ i by omega,
      show i - 56 < 8 by omega]

theorem xkeyGet_eq (x : Word) : (x.extractLsb' 56 4).setWidth 64 = (x >>> 56) &&& 0xF := by
  rw [← setWidth_extractLsb' (x >>> 56) 4 0xF (by decide)]
  ext i hi
  simp

/-! ## Division (R80, R81) -/

theorem divS_eq (x y : Word) : divS x y = if y = 0 then BitVec.allOnes 64 else x.sdiv y := by
  have quotient : BitVec.ofInt 64 (x.toInt.tdiv y.toInt) = x.sdiv y :=
    BitVec.eq_of_toInt_eq (by rw [BitVec.toInt_sdiv, BitVec.toInt_ofInt])
  rw [divS, quotient]

theorem remS_eq (x y : Word) : remS x y = if y = 0 then x else x.srem y := by
  rw [remS, ← BitVec.toInt_srem, BitVec.ofInt_toInt]

theorem divU_eq (x y : Word) : divU x y = if y = 0 then BitVec.allOnes 64 else x / y := by
  rw [divU, BitVec.udiv_def]

theorem remU_eq (x y : Word) : remU x y = if y = 0 then x else x % y := by
  rw [remU, BitVec.umod_def]

end Sys2Proof.Machine

/-!
Scalar instructions (05 R79 to R90): what each form writes, and codes that no instruction has.
-/
namespace Sys2Proof.Claims
open Machine

/-! ## Codes that are illegal (R73) -/

/-- Bit 31 of a word as the decoder reads it. -/
theorem top_eq_zero {w : BitVec 32} (h : w.getLsbD 31 = false) : w.extractLsb' 31 1 = 0#1 := by
  ext i hi
  obtain rfl : i = 0 := by omega
  simpa using h

/-- The major of a word as the decoder reads it. -/
theorem major_eq {w : BitVec 32} {m : Nat} (h : majorOf w = m) : w.extractLsb' 24 6 = BitVec.ofNat 6 m := by
  rw [← h, majorOf, BitVec.ofNat_toNat, BitVec.setWidth_eq]

section
variable {w : BitVec 32} (top : w.getLsbD 31 = false)
include top

theorem decode_major01_illegal (hm : majorOf w = 0x01) (hf : 0x0E < fnOf w) : decode w = .error .illegalInstruction := by
  unfold fnOf at hf
  rw [decode_of_major01 (top_eq_zero top) (major_eq hm), Decode.major01]
  split
  any_goals omega
  rfl

theorem decode_major02_illegal (hm : majorOf w = 0x02) (hf : 0x06 < fnOf w) : decode w = .error .illegalInstruction := by
  unfold fnOf at hf
  rw [decode_of_major02 (top_eq_zero top) (major_eq hm), Decode.major02]
  split
  any_goals omega
  rfl

theorem decode_major04_illegal (hm : majorOf w = 0x04) (hf : 0x06 < fnOf w) : decode w = .error .illegalInstruction := by
  unfold fnOf at hf
  rw [decode_of_major04 (top_eq_zero top) (major_eq hm), Decode.major04]
  split
  any_goals omega
  rfl

theorem decode_major0F_illegal (hm : majorOf w = 0x0F) (hf : 0x02 < fnOf w) : decode w = .error .illegalInstruction := by
  unfold fnOf at hf
  rw [decode_of_major0F (top_eq_zero top) (major_eq hm), Decode.major0F]
  split
  any_goals omega
  rfl

end

/-! ## The forms as shapes -/

theorem cmpLe_eq (x y : Word) : truth (decide (x.toInt ≤ y.toInt)) = if y.slt x then 0 else 1 := by
  simp only [truth, BitVec.slt_iff_toInt_lt, decide_eq_true_eq, ← Int.not_lt, ite_not]

theorem cmpLen_eq (x y : Word) : truth (decide (x.toNat ≤ y.toNat)) = if y.ult x then 0 else 1 := by
  simp only [truth, BitVec.ult_iff_toNat_lt, decide_eq_true_eq, ← Nat.not_lt, ite_not]

theorem cmpEq_eq (x y : Word) : truth (x == y) = if x = y then 1 else 0 := by simp only [truth, beq_iff_eq]

theorem cmpNe_eq (x y : Word) : truth (x != y) = if x = y then 0 else 1 := by simp only [truth, bne_iff_ne, ne_eq, ite_not]

/-- Every form of two sources is the shape of two sources with its function. -/
theorem exec_twoSource (iv : BitVec 2) (d a b : BitVec 5) (sc : BitVec 4) :
    ∀ p ∈ twoSource iv d a b sc, ∀ s, exec p.1 s = alu2 (encode p.1) iv d a b sc p.2 s := by
  simp only [twoSource, BitVec.shiftLeft_eq', BitVec.ushiftRight_eq', BitVec.sshiftRight_eq', toNat_and_63, ← minS_eq, ← maxS_eq,
    ← minU_eq, ← maxU_eq, ← mulHighS_eq, ← mulHighU_eq, ← cmpEq_eq, ← cmpNe_eq, ← cmpLe_eq, ← cmpLen_eq, ← lea_eq,
    List.forall_mem_cons, List.not_mem_nil, false_imp_iff, implies_true, and_true]
  and_intros
  all_goals exact fun _ => rfl

/-- Every form of one source is the shape of one source with its function. -/
theorem exec_oneSource (iv : BitVec 2) (d a : BitVec 5) (n : BitVec 6) (sc : BitVec 4) :
    ∀ p ∈ oneSource iv d a n sc, ∀ s, exec p.1 s = alu1 (encode p.1) iv d a sc p.2 s := by
  have rot (x : Word) : x.rotateRight n.toNat = rotr x n.toNat := by rw [rotr, Nat.mod_eq_of_lt n.isLt]
  simp only [oneSource, rot, setWidth_eq_extractLsb', ← clz_eq, ← ctz_eq, ← popc_eq, ← bswap_eq, ← zextB_eq, ← zextH_eq,
    ← zextW_eq, ← xkeyGet_eq, List.forall_mem_cons, List.not_mem_nil, false_imp_iff, implies_true, and_true]
  and_intros
  all_goals exact fun _ => rfl

/-- Every form with an immediate is the shape of a source and an immediate with its function. -/
theorem exec_immediate (iv : BitVec 2) (d a : BitVec 5) (n : BitVec 10) (sc : BitVec 4) :
    ∀ p ∈ immediate iv d a n sc, ∀ s, exec p.1 s = aluI (encode p.1) iv d a n sc p.2 s := by
  simp only [immediate, List.forall_mem_cons, List.not_mem_nil, false_imp_iff, implies_true, and_true]
  and_intros
  all_goals exact fun _ => rfl

/-- Every division is the long-latency shape of two sources with its function. -/
theorem exec_division (iv : BitVec 2) (d a b : BitVec 5) (sc : BitVec 4) :
    ∀ p ∈ division iv d a b sc, ∀ s, exec p.1 s = aluLL (encode p.1) iv d a b sc p.2 s := by
  simp only [division, ← divS_eq, ← divU_eq, ← remS_eq, ← remU_eq, List.forall_mem_cons, List.not_mem_nil, false_imp_iff,
    implies_true, and_true]
  and_intros
  all_goals exact fun _ => rfl

/-- Settles O1: each form is one of two shapes, and codes past a major's last fall to the decoder's last case. -/
theorem scalarResult : Obligations.ScalarResult := by
  unfold Obligations.ScalarResult
  refine ⟨fun iv d a n sc p hp => completes_alu1 (exec_oneSource iv d a n sc p hp) rfl,
    fun iv d a b sc p hp => completes_alu2 (exec_twoSource iv d a b sc p hp) rfl, fun w top h => ?_⟩
  rcases h with ⟨hm, hf⟩ | ⟨hm, hf⟩ | ⟨hm, hf⟩ | ⟨hm, hf⟩
  exacts [decode_major01_illegal top hm hf, decode_major02_illegal top hm hf, decode_major04_illegal top hm hf,
    decode_major0F_illegal top hm hf]

/-- Settles O5: the quotients and remainders are those of the shape that every division has. -/
theorem divisionResult : Obligations.DivisionResult := by
  unfold Obligations.DivisionResult
  exact fun iv d a b sc p hp => completes_aluLL (exec_division iv d a b sc p hp) rfl

/-! ## Bit fields (R83) -/

/-- The field of a descriptor as the machine reads it. -/
theorem fieldAt_eq (b : Word) : fieldAt b = (fieldPos b, fieldLen b) := by
  have len : ((b >>> 8) &&& 127).toNat = b.toNat / 256 % 128 := by
    rw [BitVec.toNat_and, BitVec.toNat_ushiftRight, Nat.shiftRight_eq_div_pow]
    exact Nat.and_two_pow_sub_one_eq_mod _ 7
  simp only [fieldAt, toNat_and_63, len, fieldPos, fieldLen]

/-- A field ends within the register. -/
theorem fieldPos_add_fieldLen (b : Word) : fieldPos b + fieldLen b ≤ 64 := by
  have pos : fieldPos b < 64 := Nat.mod_lt _ (by decide)
  have len : fieldLen b ≤ 64 - fieldPos b := Nat.min_le_right ..
  omega

/-- The bits of the mask are those of the field. -/
theorem getLsbD_fieldMask (b : Word) (i : Nat) :
    (fieldMask b).getLsbD i = decide (fieldPos b ≤ i ∧ i < fieldPos b + fieldLen b) := by
  have inside := fieldPos_add_fieldLen b
  rw [fieldMask, BitVec.getLsbD_ofNat, Nat.testBit_mul_two_pow, Nat.testBit_two_pow_sub_one, Bool.eq_iff_iff]
  simp only [Bool.and_eq_true, decide_eq_true_eq]
  omega

theorem getLsbD_bitExtract (a b : Word) (i : Nat) :
    (bitExtract a b).getLsbD i = (decide (i < fieldLen b) && a.getLsbD (fieldPos b + i)) := by
  unfold bitExtract
  split
  next h => simp [h]
  next => simp [getLsbD_fieldMask, Bool.and_comm]

theorem getLsbD_bitInsert (d a b : Word) (i : Nat) : (bitInsert d a b).getLsbD i =
    if fieldPos b ≤ i ∧ i < fieldPos b + fieldLen b then a.getLsbD (i - fieldPos b) else d.getLsbD i := by
  have inside := fieldPos_add_fieldLen b
  unfold bitInsert
  split
  next h => rw [if_neg (by omega)]
  next =>
    rw [BitVec.getLsbD_or, BitVec.getLsbD_and, BitVec.getLsbD_and, BitVec.getLsbD_not, BitVec.getLsbD_shiftLeft,
      getLsbD_fieldMask]
    by_cases field : fieldPos b ≤ i ∧ i < fieldPos b + fieldLen b
    · obtain ⟨low, high⟩ := field
      simp [low, high, Nat.not_lt.mpr low, show i < 64 by omega]
    · rw [if_neg field, decide_eq_false field]
      by_cases hi : i < 64
      · simp [hi]
      · simp [BitVec.getLsbD_of_ge d i (by omega)]

/-! ## Immediates (R25, R85) -/

/-- The sign extension of a number of m bits, as the machine computes it. -/
theorem signExtend_eq {m : Nat} (y : BitVec m) (pos : 0 < m) (small : m < 64) :
    y.signExtend 64 = if y.toNat < 2 ^ (m - 1) then BitVec.ofNat 64 y.toNat else BitVec.ofNat 64 (y.toNat + 2 ^ 64 - 2 ^ m) := by
  have double : 2 ^ m = 2 * 2 ^ (m - 1) := by rw [Nat.mul_comm, Nat.two_pow_pred_mul_two pos]
  have fits : 2 ^ m < 2 ^ 64 := Nat.pow_lt_pow_right (by decide) small
  have low := y.isLt
  have value : y.toInt = if y.toNat < 2 ^ (m - 1) then (y.toNat : Int) else (y.toNat : Int) - (2 ^ m : Nat) := by
    rw [BitVec.toInt_eq_toNat_cond, double]
    simp only [Nat.mul_lt_mul_left (show 0 < 2 by decide)]
  apply BitVec.eq_of_toNat_eq
  rw [BitVec.signExtend, value]
  split
  · simp
  · rw [BitVec.toNat_ofInt, BitVec.toNat_ofNat]
    omega

/-- An immediate of the field's bits behind those of the extension hints, where all of them fit. -/
theorem immV_eq {hints : List (BitVec 32)} {n x m : Nat} (y : BitVec m)
    (width : n + 22 * (hints.filter fun w => hintKind w == 0).length = m)
    (bits : (hints.filter fun w => hintKind w == 0).foldl (fun v w => v * 2 ^ 22 + hintData w) 0 * 2 ^ n + x = y.toNat)
    (pos : 0 < m) (small : m < 64) : immV hints n x = y.signExtend 64 := by
  simp only [immV, width, bits, signExtend_eq y pos small, ge_iff_le, Nat.not_le.mpr small, if_false]

/-- A field of ten bits alone, behind one and behind two extension hints, and behind a modifier hint. -/
theorem immV_field (x : BitVec 10) : immV [] 10 x.toNat = x.signExtend 64 :=
  immV_eq x rfl (by simp) (by decide) (by decide)

theorem immV_extended {w : BitVec 32} (x : BitVec 10) (hw : hintKind w = 0) :
    immV [w] 10 x.toNat = (w.extractLsb' 0 22 ++ x).signExtend 64 := by
  refine immV_eq (w.extractLsb' 0 22 ++ x) (by simp [hw]) ?_ (by decide) (by decide)
  refine Eq.trans ?_ (toNat_append_eq ..).symm
  simp [hw, hintData]

theorem immV_extended_twice {v w : BitVec 32} (x : BitVec 10) (hv : hintKind v = 0) (hw : hintKind w = 0) :
    immV [v, w] 10 x.toNat = (v.extractLsb' 0 22 ++ w.extractLsb' 0 22 ++ x).signExtend 64 := by
  refine immV_eq (v.extractLsb' 0 22 ++ w.extractLsb' 0 22 ++ x) (by simp [hv, hw]) ?_ (by decide) (by decide)
  refine Eq.trans ?_ (toNat_append_eq ..).symm
  rw [toNat_append_eq]
  simp [hv, hw, hintData]

theorem immV_modified {m : BitVec 32} (x : BitVec 10) (hm : hintKind m = 1) : immV [m] 10 x.toNat = x.signExtend 64 :=
  immV_eq x (by simp [hm]) (by simp [hm]) (by decide) (by decide)

/-! ## Conditions (R64, R87) -/

theorem condHolds_eq (c : BitVec 3) (x y : Word) : condHolds c x y = relation c x y := by
  have le (a b : Int) : decide (a ≤ b) = !decide (b < a) := (decide_eq_decide.mpr Int.not_lt.symm).trans decide_not
  have leN (a b : Nat) : decide (a ≤ b) = !decide (b < a) := (decide_eq_decide.mpr Nat.not_lt.symm).trans decide_not
  rcases bitVec3_cases c with rfl | rfl | rfl | rfl | rfl | rfl | rfl | rfl
  exacts [rfl, rfl, rfl, le _ _, le _ _, rfl, rfl, leN _ _]

theorem exec_selNz (iv : BitVec 2) (d a b : BitVec 5) (sc : BitVec 4) (s : State) :
    exec (.selNz iv d a b sc) s = execSelNz iv d a b sc s := rfl

/-- sel.nz writes G[b] to G[d], or nothing at all (R84). -/
theorem completes_selNz (iv : BitVec 2) (d a b : BitVec 5) (sc : BitVec 4) (s : State) :
    Completes (.selNz iv d a b sc) (infoR (encode (.selNz iv d a b sc)) iv sc (gs [d, a, b])) s fun e t =>
      (e.G a ≠ 0 → ScalarEffect e t d (e.G b) e.nextPc) ∧ (e.G a = 0 → JumpEffect e t e.nextPc) := by
  refine completes_of_guarded (exec_selNz ..) ⟨_, rfl, fun h => ?_, fun h => ?_⟩
  · rw [if_neg h]
    exact scalarEffect_retire _ d _
  · rw [if_pos h]
    exact jumpEffect_retireTo ..

theorem exec_cmpi (iv : BitVec 2) (d a : BitVec 5) (c : BitVec 3) (i : BitVec 7) (sc : BitVec 4) (s : State) :
    exec (.cmpi iv d a c i sc) s = execCmpi iv d a c i sc s := rfl

theorem completes_cmpi (iv : BitVec 2) (d a : BitVec 5) (c : BitVec 3) (i : BitVec 7) (sc : BitVec 4) (s : State) :
    Completes (.cmpi iv d a c i sc) (infoR (encode (.cmpi iv d a c i sc)) iv sc (gs [d, a])) s fun e t =>
      ScalarEffect e t d (if relation c (e.G a) (immV e.st.hints 7 i.toNat) then 1 else 0) e.nextPc := by
  refine completes_of_guarded (exec_cmpi ..) ⟨_, rfl, ?_⟩
  rw [condHolds_eq]
  exact scalarEffect_retire _ d _

theorem exec_movi (iv : BitVec 2) (d : BitVec 5) (i : BitVec 19) (s : State) : exec (.movi iv d i) s = execMovi iv d i s := rfl

/-- Settles O3: bit fields by the bits of their mask, immediates by the number that field and hints make up. -/
theorem immediateAndField : Obligations.ImmediateAndField := by
  unfold Obligations.ImmediateAndField
  simp only [fieldAt_eq]
  refine ⟨fun iv d a b sc s => ⟨?_, ?_, completes_selNz iv d a b sc s⟩, fun iv d a sc s => ⟨fun i p hp => ?_,
    fun c i => completes_cmpi iv d a c i sc s, fun i => ?_⟩, immV_field, fun w x => immV_extended x,
    fun v w x => immV_extended_twice x, fun m x => immV_modified x⟩
  · exact completes_of_guarded (body := fun e => .next (e.setG d (bitExtract (e.G a) (e.G b))).retire) rfl
      ⟨_, rfl, _, scalarEffect_retire _ d _, getLsbD_bitExtract _ _⟩
  · exact completes_of_guarded (body := fun e => .next (e.setG d (bitInsert (e.G d) (e.G a) (e.G b))).retire) rfl
      ⟨_, rfl, _, scalarEffect_retire _ d _, getLsbD_bitInsert _ _ _⟩
  · exact completes_aluI (exec_immediate iv d a i sc p hp) rfl s
  · exact completes_of_guarded (exec_movi ..) ⟨_, rfl, scalarEffect_retire _ d _⟩

end Sys2Proof.Claims

/-!
Control flow (05 R97 to R99): where branches, calls and register jumps go.
-/
namespace Sys2Proof.Claims
open Machine

/-! ## Targets -/

theorem toNat_and_addr (x : Word) : (x &&& 0x00FFFFFFFFFFFFFF).toNat = x.toNat % 2 ^ 56 :=
  (BitVec.toNat_and ..).trans (Nat.and_two_pow_sub_one_eq_mod x.toNat 56)

/-- An address modulo 2^56 (R97, R99). -/
theorem ofNat_mod_addr (x : Word) : BitVec.ofNat 64 (x.toNat % 2 ^ 56) = x &&& 0x00FFFFFFFFFFFFFF := by
  rw [← toNat_and_addr, BitVec.ofNat_toNat, BitVec.setWidth_eq]

theorem branchTarget_eq (e : State) (v : Word) : branchTarget e.st.pc v = branchTo e v := ofNat_mod_addr _

/-- The top four bits of an address are zero (R198). -/
theorem ushiftRight_60_eq_zero {x : Word} : x >>> 60 = 0 ↔ x.toNat / 2 ^ 60 = 0 := by
  rw [← BitVec.toNat_inj, BitVec.toNat_ushiftRight, Nat.shiftRight_eq_div_pow]
  rfl

theorem and_3_eq_zero {x : Word} : x &&& 3 = 0 ↔ x.toNat % 4 = 0 := by
  rw [← BitVec.toNat_inj, BitVec.toNat_and]
  exact iff_of_eq (congrArg (· = 0) (Nat.and_two_pow_sub_one_eq_mod x.toNat 2))

theorem jumpCause_eq (x : Word) : jumpCause x = jumpRefused x := by
  simp only [jumpCause, jumpRefused, ne_eq, ushiftRight_60_eq_zero, and_3_eq_zero]

/-- The condition of a branch that R97 lists, against zero. -/
theorem branchHolds_eq {c : BitVec 3} (h : c.toNat < 6) (x : Word) : branchHolds c x = relation c x 0 := by
  rw [← condHolds_eq]
  rcases bitVec3_cases c with rfl | rfl | rfl | rfl | rfl | rfl | rfl | rfl
  exacts [rfl, rfl, rfl, rfl, rfl, rfl, absurd h (by decide), absurd h (by decide)]

/-- A unit whose checks pass has no value that check 4 refuses. -/
theorem Passes.ok {inf : Info} {s : State} (h : Passes inf s) : inf.ok = true := by
  obtain ⟨checks, -⟩ := h
  by_contra bad
  simp only [unitCheck, Bool.eq_false_iff.mpr bad, Bool.not_false, if_true] at checks
  split at checks
  · cases checks
  · split at checks <;> cases checks

/-! ## Branches and calls (R97, R98) -/

theorem exec_bc (iv : BitVec 2) (a : BitVec 5) (c : BitVec 3) (o : BitVec 16) (s : State) :
    exec (.bc iv a c o) s = execBc iv a c o s := rfl
theorem exec_dbnz (iv : BitVec 2) (a : BitVec 5) (o : BitVec 16) (s : State) : exec (.dbnz iv a o) s = execDbnz iv a o s := rfl
theorem exec_b (iv : BitVec 2) (o : BitVec 24) (s : State) : exec (.b iv o) s = execB iv o s := rfl
theorem exec_call (iv : BitVec 2) (o : BitVec 24) (s : State) : exec (.call iv o) s = execCall iv o s := rfl

/-- A branch that is taken on a condition, or else goes on. -/
theorem jumpEffect_branch (e : State) {c : BitVec 3} (listed : c.toNat < 6) (x v : Word) :
    JumpEffect e (if branchHolds c x then e.retireTo (branchTarget e.st.pc v) else e.retire)
      (if relation c x 0 then branchTo e v else e.nextPc) := by
  rw [branchHolds_eq listed, branchTarget_eq]
  split
  · exact jumpEffect_retireTo ..
  · exact jumpEffect_retireTo ..

theorem completes_bc (iv : BitVec 2) (a : BitVec 5) (c : BitVec 3) (o : BitVec 16) (s : State) :
    Completes (.bc iv a c o) ((infoJ (encode (.bc iv a c o)) iv (gs [a])).need (decide (c.toNat < 6))) s fun e t =>
      JumpEffect e t (if relation c (e.G a) 0 then branchTo e (immV e.st.hints 16 o.toNat) else e.nextPc) := by
  by_cases listed : c.toNat < 6
  · exact completes_of_guarded (exec_bc ..) ⟨_, rfl, jumpEffect_branch _ listed _ _⟩
  · exact fun h => absurd (of_decide_eq_true (Bool.and_eq_true_iff.mp h.ok).2) listed

/-- A counter that goes down by one, and the branch that is taken until it is 0. -/
theorem scalarEffect_count (e : State) (a : BitVec 5) (v : Word) :
    ScalarEffect e (if e.G a - 1 ≠ 0 then (e.setG a (e.G a - 1)).retireTo (branchTarget e.st.pc v) else (e.setG a (e.G a - 1)).retire)
      a (e.G a - 1) (if e.G a = 1 then e.nextPc else branchTo e v) := by
  rw [branchTarget_eq]
  by_cases last : e.G a = 1
  · rw [if_neg (not_not.mpr (sub_eq_zero.mpr last)), if_pos last]
    exact scalarEffect_retire ..
  · rw [if_pos (sub_ne_zero.mpr last), if_neg last]
    exact scalarEffect_retireTo ..

theorem completes_dbnz (iv : BitVec 2) (a : BitVec 5) (o : BitVec 16) (s : State) :
    Completes (.dbnz iv a o) (infoJ (encode (.dbnz iv a o)) iv (gs [a])) s fun e t =>
      ScalarEffect e t a (e.G a - 1) (if e.G a = 1 then e.nextPc else branchTo e (immV e.st.hints 16 o.toNat)) :=
  completes_of_guarded (exec_dbnz ..) ⟨_, rfl, scalarEffect_count ..⟩

theorem completes_b (iv : BitVec 2) (o : BitVec 24) (s : State) :
    Completes (.b iv o) (infoJ (encode (.b iv o)) iv []) s fun e t =>
      JumpEffect e t (branchTo e (immV e.st.hints 24 o.toNat)) :=
  completes_of_guarded (exec_b ..) ⟨_, rfl, by rw [branchTarget_eq]; exact jumpEffect_retireTo ..⟩

theorem completes_call (iv : BitVec 2) (o : BitVec 24) (s : State) :
    Completes (.call iv o) (infoJ (encode (.call iv o)) iv [.g 31]) s fun e t =>
      ScalarEffect e t 31 e.nextPc (branchTo e (immV e.st.hints 24 o.toNat)) :=
  completes_of_guarded (exec_call ..) ⟨_, rfl, by rw [branchTarget_eq]; exact scalarEffect_retireTo ..⟩

/-! ## Register jumps (R99) -/

theorem exec_jr (iv : BitVec 2) (a : BitVec 5) (sc : BitVec 4) (s : State) : exec (.jr iv a sc) s = execJr iv a sc s := rfl
theorem exec_jrl (iv : BitVec 2) (a : BitVec 5) (sc : BitVec 4) (s : State) : exec (.jrl iv a sc) s = execJrl iv a sc s := rfl
theorem exec_ret (iv : BitVec 2) (sc : BitVec 4) (s : State) : exec (.ret iv sc) s = execRet iv sc s := rfl

/-- A register jump goes to a legal target with the effect that its link and the end of its unit have, and traps at another. -/
theorem jumpTo_eq (x : Word) (e : State) (link : State → State) {effect : State → Prop}
    (h : effect ((link e).retireTo (x &&& 0x00FFFFFFFFFFFFFF))) :
    ∃ t, jumpTo x e link = .next t ∧ (jumpRefused x = none → effect t) ∧ ∀ c, jumpRefused x = some c → t = e.precise c x := by
  unfold jumpTo
  rw [jumpCause_eq]
  cases hc : jumpRefused x with
  | none => exact ⟨_, rfl, fun _ => ofNat_mod_addr x ▸ h, nofun⟩
  | some c => exact ⟨_, rfl, nofun, fun _ h => by cases h; rfl⟩

/-! ## Words of majors 0x1C and 0x1F that are no instruction (R73) -/

theorem decode_major1C_illegal {w : BitVec 32} (top : w.getLsbD 31 = false) (hm : majorOf w = 0x1C)
    (hc : w.extractLsb' 16 3 = 7) : decode w = .error .illegalInstruction := by
  rw [decode_of_major1C (top_eq_zero top) (major_eq hm), Decode.major1C, hc]
  rfl

theorem decode_major1F_illegal {w : BitVec 32} (top : w.getLsbD 31 = false) (hm : majorOf w = 0x1F) (hf : 0x02 < fnOf w) :
    decode w = .error .illegalInstruction := by
  unfold fnOf at hf
  rw [decode_of_major1F (top_eq_zero top) (major_eq hm), Decode.major1F]
  split
  any_goals omega
  rfl

theorem decode_jump_reserved {w : BitVec 32} (top : w.getLsbD 31 = false) (hm : majorOf w = 0x1F) (hf : fnOf w < 0x02)
    (h : w.extractLsb' 19 5 ≠ 0 ∨ w.extractLsb' 9 5 ≠ 0) : decode w = .error .reservedField := by
  unfold fnOf at hf
  rw [decode_of_major1F (top_eq_zero top) (major_eq hm), Decode.major1F]
  have used : ¬ (w.extractLsb' 19 5 == 0#5 && w.extractLsb' 9 5 == 0#5) = true := by simpa [imp_iff_not_or] using h
  have code : (w.extractLsb' 4 5).toNat = 0 ∨ (w.extractLsb' 4 5).toNat = 1 := by omega
  rcases code with code | code <;> rw [code] <;> exact if_neg used

theorem decode_ret_reserved {w : BitVec 32} (top : w.getLsbD 31 = false) (hm : majorOf w = 0x1F) (hf : fnOf w = 0x02)
    (h : w.extractLsb' 9 15 ≠ 0) : decode w = .error .reservedField := by
  unfold fnOf at hf
  rw [decode_of_major1F (top_eq_zero top) (major_eq hm), Decode.major1F, hf]
  exact if_neg (by simpa using h)

/-- Settles O6: targets by their low 56 bits, refusals by the checks of R99, and codes by the decoder's last cases. -/
theorem controlTransfer : Obligations.ControlTransfer := by
  unfold Obligations.ControlTransfer
  refine ⟨fun iv s => ⟨fun a c o => completes_bc iv a c o s, fun a o => completes_dbnz iv a o s, fun o => completes_b iv o s,
      fun o => completes_call iv o s⟩, fun iv a sc s => ⟨?_, ?_, ?_⟩, fun w top => ⟨decode_major1C_illegal top,
      decode_major1F_illegal top, decode_jump_reserved top, decode_ret_reserved top⟩⟩
  · exact completes_of_guarded (exec_jr ..) (jumpTo_eq _ _ id (jumpEffect_retireTo ..))
  · exact completes_of_guarded (exec_jrl ..) (jumpTo_eq _ _ _ (scalarEffect_retireTo _ 31 _ _))
  · exact completes_of_guarded (exec_ret ..) (jumpTo_eq _ _ id (jumpEffect_retireTo ..))

end Sys2Proof.Claims

/-!
The checks of an access (05 R95, 10 R200, 12 R234, 22 R370, 24 R388).
-/
namespace Sys2Proof.Claims
open Machine

section
variable {s : State} {x : Strand} {a : Acc} {va : Word} {n : Nat} {t tgt : Target}

/-! ## Check 1 (R95, R200) -/

/-- The address is one that check 1 lets through. -/
structure Formed (a : Acc) (va : Word) : Prop where
  form   : a ≠ .fetch → va >>> 60 = 0
  window : winOf va = 0xFE → a ≠ .fetch → va.toNat / 2 ^ 40 % 256 = 0 ∧ a ≠ .waita ∧ a ≠ .wake

theorem check_badAddress (fetch : a ≠ .fetch) (h : va >>> 60 ≠ 0) : s.check x a va n = .trap s 0x40 va :=
  if_pos ⟨mt ushiftRight_60_eq_zero.mpr h, fetch⟩

theorem check_badWindow (fetch : a ≠ .fetch) (scr : winOf va = 0xFE)
    (h : a = .waita ∨ a = .wake ∨ va.toNat / 2 ^ 40 % 256 ≠ 0) : s.check x a va n = .trap s 0x40 va := by
  simp only [State.check]
  split
  next => rfl
  next => exact if_pos ⟨scr, fetch, by tauto⟩

theorem check_unformed (h : ¬ Formed a va) : s.check x a va n = .trap s 0x40 va := by
  by_contra other
  refine h ⟨fun fetch => not_not.mp fun bad => other (check_badAddress fetch bad), fun scr fetch => ?_⟩
  by_contra bad
  exact other (check_badWindow fetch scr (by tauto))

/-! ## The checks behind it -/

/-- Whether the space that a target lies in takes an access of a kind (R370, R388). -/
def spaceCheck (s : State) (a : Acc) (va : Word) (t : Target) : Res Target :=
  match t.space with
  | .host => .trap s (if a = .atomic then 0x47 else 0x46) va
  | .config => if a.config then .ok t s else .trap s 0x42 va
  | .fabric => if a = .wake then .trap s 0xA2 va else if isPod t.addr && a.reads then .trap s 0xA1 va else .ok t s
  | .nothing => if a = .stF then .trap s 0xA2 va else .stop (.noStorage t.addr)
  | .dieMem | .priv | .scratch => .ok t s

/-- The checks of what covers an address. -/
def targetCheck (s : State) (a : Acc) (va : Word) (t : Target) : Res Target :=
  if t.revoked then .trap s 0x48 va
  else if !a.allowed t then .trap s 0x42 va
  else if winOf va = 0xFE ∧ a = .stF then .trap s 0xA2 va
  else spaceCheck s a va t

/-- Behind check 1 come the alignment, the cover, and the checks of what covers the address (R95). -/
theorem check_formed (formed : Formed a va) : s.check x a va n =
    if va.toNat % n ≠ 0 then .trap s 0x43 va else (s.find x va).elim (.trap s 0x41 va) (targetCheck s a va) := by
  obtain ⟨form, window⟩ := formed
  have h1 : ¬ (va.toNat / 2 ^ 60 ≠ 0 ∧ a ≠ .fetch) := fun ⟨h, fetch⟩ => h (ushiftRight_60_eq_zero.mp (form fetch))
  have h2 : ¬ (winOf va = 0xFE ∧ a ≠ .fetch ∧ (va.toNat / 2 ^ 40 % 256 ≠ 0 ∨ a = .waita ∨ a = .wake)) := by
    rintro ⟨scr, fetch, h⟩
    obtain ⟨bits, waita, wake⟩ := window scr fetch
    tauto
  simp only [State.check, if_neg h1, if_neg h2]
  cases s.find x va with
  | none => rfl
  | some t =>
    simp only [Option.elim_some, targetCheck, spaceCheck]
    cases t.space <;> rfl

/-- Where an access of a kind may go (R213, R370, R388). -/
def Reachable (a : Acc) (t : Target) : Prop :=
  t.host = false ∧ (spaceOf t.addr = .dieMem ∨ spaceOf t.addr = .priv ∨ spaceOf t.addr = .scratch ∨
    (spaceOf t.addr = .config ∧ a.config = true) ∨
    (spaceOf t.addr = .fabric ∧ a ≠ .wake ∧ (isPod t.addr = true → a.reads = false)))

theorem spaceCheck_eq_ok : spaceCheck s a va t = .ok tgt s ↔ t = tgt ∧ Reachable a t := by
  unfold spaceCheck Reachable Target.space
  cases host : t.host with
  | true => simp
  | false =>
    cases spaceOf t.addr
    case config => cases a.config <;> simp
    case fabric => by_cases wake : a = .wake <;> cases isPod t.addr <;> cases a.reads <;> simp [wake]
    case nothing => by_cases stF : a = .stF <;> simp [stF]
    all_goals simp

theorem targetCheck_eq_ok : targetCheck s a va t = .ok tgt s ↔
    t = tgt ∧ t.revoked = false ∧ a.allowed t = true ∧ (winOf va = 0xFE → a ≠ .stF) ∧ Reachable a t := by
  unfold targetCheck
  split_ifs with revoked rights scr
  · simp [revoked]
  · simp_all
  · simp_all
  · rw [spaceCheck_eq_ok]
    simp_all

theorem granted_iff : Granted s a va n tgt ↔ s.check s.st a va n = .ok tgt s := by
  by_cases formed : Formed a va
  · rw [check_formed formed]
    constructor
    · intro g
      rw [if_neg (not_not.mpr (Nat.mod_eq_zero_of_dvd g.aligned)), g.covered]
      exact targetCheck_eq_ok.mpr ⟨rfl, g.live, g.rights, fun scr => (g.scratch scr).1, g.host, g.space⟩
    · split
      next => nofun
      next aligned =>
        cases found : s.find s.st va with
        | none => nofun
        | some t =>
          intro h
          obtain ⟨rfl, live, rights, scr, host, space⟩ := targetCheck_eq_ok.mp h
          exact ⟨formed.form, fun h => ⟨scr h, formed.window h⟩, Nat.dvd_of_mod_eq_zero (not_not.mp aligned), found, live,
            rights, host, space⟩
  · rw [check_unformed formed]
    exact ⟨fun g => absurd ⟨g.form, fun scr => (g.scratch scr).2⟩ formed, nofun⟩

end

/-- Settles O7: behind the first check that fails the others are not made, and what passes all of them is granted. -/
theorem accessChecks : Obligations.AccessChecks := by
  unfold Obligations.AccessChecks
  refine ⟨fun e a va n tgt => granted_iff, fun e a va n fetch => ⟨check_badAddress fetch, check_badWindow fetch, ?_⟩⟩
  intro form scr
  have formed : Formed a va := ⟨fun _ => form, fun h => absurd h scr⟩
  rw [check_formed formed]
  refine ⟨fun h => if_pos (mt Nat.dvd_of_mod_eq_zero h), fun aligned => ?_⟩
  rw [if_neg (not_not.mpr (Nat.mod_eq_zero_of_dvd aligned))]
  refine ⟨fun h => by rw [h]; rfl, fun tgt found => ?_⟩
  rw [found, Option.elim_some, targetCheck]
  refine ⟨fun revoked => if_pos revoked, fun live => ⟨fun rights => ?_, fun rights host => ?_⟩⟩
  · simp [live, rights]
  · simp [live, rights, scr, spaceCheck, host]

end Sys2Proof.Claims

/-!
Bytes of a line (05 R94, 10 R205): merged bytes, bytes put into a line, and what the store buffer lays over a line.
-/
namespace Sys2Proof.Machine

/-- Byte i of a line. -/
theorem toNat_byte (l : Line) (i : Nat) : (l.extractLsb' (8 * i) 8).toNat = l.toNat / 2 ^ (8 * i) % 256 := by
  rw [BitVec.extractLsb'_toNat, Nat.shiftRight_eq_div_pow]

theorem mergeBytes_lt (a b mask n : Nat) : mergeBytes a b mask n < 2 ^ (8 * n) := by
  induction n generalizing a b mask with
  | zero => simp [mergeBytes]
  | succ n ih =>
    have rest := ih (a / 256) (b / 256) (mask / 2)
    have low : (if mask % 2 = 1 then b % 256 else a % 256) < 256 := by split <;> omega
    rw [mergeBytes, Nat.mul_succ, Nat.pow_add]
    omega

/-- Byte i of merged bytes. -/
theorem mergeBytes_byte (a b mask : Nat) {n i : Nat} (hi : i < n) : mergeBytes a b mask n / 2 ^ (8 * i) % 256 =
    if mask.testBit i then b / 2 ^ (8 * i) % 256 else a / 2 ^ (8 * i) % 256 := by
  induction n generalizing a b mask i with
  | zero => omega
  | succ n ih =>
    have low : (if mask % 2 = 1 then b % 256 else a % 256) < 256 := by split <;> omega
    rw [mergeBytes]
    cases i with
    | zero =>
      rw [Nat.mul_zero, Nat.pow_zero, Nat.div_one, Nat.add_mul_mod_self_left, Nat.mod_eq_of_lt low, Nat.div_one, Nat.div_one]
      simp [Nat.testBit_zero]
    | succ i =>
      have shift (x : Nat) : x / 2 ^ (8 * (i + 1)) = x / 256 / 2 ^ (8 * i) := by
        rw [Nat.mul_succ, Nat.add_comm, Nat.pow_add, Nat.div_div_eq_div_mul]
      rw [shift, shift a, shift b, Nat.add_mul_div_left _ _ (by decide), Nat.div_eq_of_lt low, Nat.zero_add, ih _ _ _ (by omega),
        Nat.testBit_succ]

theorem toNat_ofNat_mergeBytes (a b mask n : Nat) : (BitVec.ofNat (8 * n) (mergeBytes a b mask n)).toNat = mergeBytes a b mask n :=
  (BitVec.toNat_ofNat ..).trans (Nat.mod_eq_of_lt (mergeBytes_lt ..))

/-- Byte i of a merged line is the later line's where the mask has it (R205). -/
theorem mergeLine_byte (a b : Line) (mask : BitVec 64) {i : Nat} (hi : i < 64) : (mergeLine a b mask).extractLsb' (8 * i) 8 =
    if mask.getLsbD i then b.extractLsb' (8 * i) 8 else a.extractLsb' (8 * i) 8 := by
  have whole : (mergeLine a b mask).toNat = mergeBytes a.toNat b.toNat mask.toNat 64 := toNat_ofNat_mergeBytes _ _ _ 64
  apply BitVec.eq_of_toNat_eq
  rw [toNat_byte, whole, mergeBytes_byte _ _ _ hi, apply_ite BitVec.toNat, toNat_byte, toNat_byte]
  rfl

/-- A line laid over by a list of buffered lines shows the youngest that wrote a byte (R94). -/
theorem foldl_mergeLine_byte (l : List SbLine) (line : Nat) (base : Line) {i : Nat} (hi : i < 64) :
    (l.foldl (fun d l => if l.line = line then mergeLine d l.data l.mask else d) base).extractLsb' (8 * i) 8 =
      ((l.reverse.find? fun l => l.line == line && l.mask.getLsbD i).map fun l => l.data.extractLsb' (8 * i) 8).getD
        (base.extractLsb' (8 * i) 8) := by
  induction l generalizing base with
  | nil => rfl
  | cons x l ih =>
    rw [List.foldl_cons, ih, List.reverse_cons, List.find?_append]
    cases l.reverse.find? fun l => l.line == line && l.mask.getLsbD i with
    | some y => rfl
    | none =>
      by_cases same : x.line = line
      · rw [if_pos same, mergeLine_byte _ _ _ hi]
        cases wrote : x.mask.getLsbD i <;> simp [same, wrote]
      · simp [same]

end Sys2Proof.Machine

namespace Sys2Proof.Claims
open Machine

/-- Settles O9: the buffer lays its lines over the base oldest first, each over the bytes of its mask. -/
theorem bufferedBytes : Obligations.BufferedBytes := by
  unfold Obligations.BufferedBytes
  exact fun c line base i hi => foldl_mergeLine_byte c.sbuf line base hi

end Sys2Proof.Claims

/-!
What changes when writes that stand on the paths between dies are performed (10 R209 to R211, 11 R225, R230, 12 R241).
-/
namespace Sys2Proof.Machine

/-! ## A strand of a sid, and the others -/

/-- Changing a strand changes nothing but the strands. -/
theorem State.modStrand_frame (s : State) (sid : Nat) (f : Strand → Strand) :
    ∃ x l, s.modStrand sid f = { s with st := x, strands := l } := by
  unfold State.modStrand
  split
  · exact ⟨_, _, rfl⟩
  · split <;> exact ⟨_, _, rfl⟩

/-- The strand of a sid after a change of it that leaves it live under its sid. -/
theorem State.strand_modStrand_same {s : State} {sid : Nat} {x : Strand} {f : Strand → Strand} (h : s.strand sid = some x)
    (live : (f x).live = x.live) (id : (f x).sid = x.sid) : (s.modStrand sid f).strand sid = some (f x) := by
  unfold State.strand at h
  split at h
  next here =>
    cases h
    simp only [State.modStrand, here, if_true, State.strand, live, id]
  next elsewhere =>
    simp only [State.modStrand, elsewhere, h, if_false, State.strand, Bool.false_eq_true, Assoc.get_set_same]

/-- The strand of another sid. -/
theorem State.strand_modStrand_other {s : State} {sid n : Nat} {f : Strand → Strand} (hn : n ≠ sid)
    (live : (f s.st).live = s.st.live) (id : (f s.st).sid = s.st.sid) : (s.modStrand sid f).strand n = s.strand n := by
  unfold State.modStrand
  split
  next here =>
    have other : ¬ (s.st.live && s.st.sid.toNat == n) = true := by
      simp only [Bool.and_eq_true, beq_iff_eq] at here ⊢
      exact fun h => hn (h.2.symm.trans here.2)
    simp only [State.strand, live, id, other, if_false, Bool.false_eq_true]
  next =>
    split
    next => simp only [State.strand, Assoc.get_set_other _ _ _ _ hn]
    next => rfl

theorem State.strand_modStrand_none {s : State} {sid : Nat} {f : Strand → Strand} (h : s.strand sid = none) :
    s.modStrand sid f = s := by
  unfold State.strand at h
  split at h
  next => cases h
  next elsewhere => simp only [State.modStrand, elsewhere, h, if_false, Bool.false_eq_true]

end Sys2Proof.Machine

namespace Sys2Proof.Claims
open Machine

/-! ## Performed writes -/

/-- A strand as it stands after watches have fired: it is as before, or its watch has (R241). -/
def Woken (x y : Strand) : Prop :=
  y = x ∨ ∃ l ea d f, x.wait = some (.waitA l ea d f) ∧ y = { x with wait := some (.waitA l ea d true) }

theorem Woken.trans {x y z : Strand} (h : Woken x y) (h' : Woken y z) : Woken x z := by
  rcases h with rfl | ⟨l, ea, d, f, wait, rfl⟩
  · exact h'
  · rcases h' with rfl | ⟨l', ea', d', f', wait', rfl⟩
    · exact .inr ⟨l, ea, d, f, wait, rfl⟩
    · cases wait'
      exact .inr ⟨l, ea, d, f, wait, rfl⟩

/-- It differs in what it waits for alone. -/
theorem Woken.eq {x y : Strand} (h : Woken x y) : y = { x with wait := y.wait } := by
  rcases h with rfl | ⟨l, ea, d, f, wait, rfl⟩ <;> rfl

theorem Woken.eq_of_wait {x y : Strand} (h : Woken x y) (other : ∀ l ea d f, x.wait ≠ some (.waitA l ea d f)) : y = x := by
  rcases h with rfl | ⟨l, ea, d, f, wait, -⟩
  · rfl
  · exact absurd wait (other l ea d f)

/-- t is s after some of the writes that stood on paths have reached their memory side (R225). -/
structure Performed (s t : State) : Prop where
  st      : Woken s.st t.st
  strand  : ∀ sid, Option.Rel Woken (s.strand sid) (t.strand sid)
  cores   : t.cores = s.cores
  quads   : t.quads = s.quads
  locks   : t.locks = s.locks
  poison  : t.poison = s.poison
  clk     : t.clk = s.clk
  owners  : t.hub.owners = s.hub.owners
  pages   : t.hub.pages = s.hub.pages
  paths   : ∀ a d, (t.path a d).writes <:+ (s.path a d).writes

theorem optionRel_woken_refl : ∀ o : Option Strand, Option.Rel Woken o o
  | none => .none
  | some _ => .some (.inl rfl)

/-- Strands that are as they were. -/
theorem Performed.of_strands {s t : State} (st : t.st = s.st) (strands : t.strands = s.strands) (cores : t.cores = s.cores)
    (quads : t.quads = s.quads) (locks : t.locks = s.locks) (poison : t.poison = s.poison) (clk : t.clk = s.clk)
    (owners : t.hub.owners = s.hub.owners) (pages : t.hub.pages = s.hub.pages)
    (paths : ∀ a d, (t.path a d).writes <:+ (s.path a d).writes) : Performed s t where
  st := .inl st
  strand := fun sid => by
    have same : t.strand sid = s.strand sid := by simp only [State.strand, st, strands]
    rw [same]
    exact optionRel_woken_refl _
  cores := cores
  quads := quads
  locks := locks
  poison := poison
  clk := clk
  owners := owners
  pages := pages
  paths := paths

theorem Performed.refl (s : State) : Performed s s := .of_strands rfl rfl rfl rfl rfl rfl rfl rfl rfl fun _ _ => List.suffix_rfl

theorem Performed.trans {s t u : State} (h : Performed s t) (h' : Performed t u) : Performed s u where
  st := h.st.trans h'.st
  strand := fun sid => by
    have first := h.strand sid
    have second := h'.strand sid
    generalize s.strand sid = x, t.strand sid = y, u.strand sid = z at first second
    cases first with
    | none => cases second; exact .none
    | some first => cases second with | some second => exact .some (first.trans second)
  cores := h'.cores.trans h.cores
  quads := h'.quads.trans h.quads
  locks := h'.locks.trans h.locks
  poison := h'.poison.trans h.poison
  clk := h'.clk.trans h.clk
  owners := h'.owners.trans h.owners
  pages := h'.pages.trans h.pages
  paths := fun a d => (h'.paths a d).trans (h.paths a d)

/-- A fold of steps that each perform writes. -/
theorem Performed.foldl {α : Type} {f : State → α → State} (l : List α) (s : State) (h : ∀ t, ∀ x ∈ l, Performed t (f t x)) :
    Performed s (l.foldl f s) :=
  List.foldlRecOn (motive := Performed s) l f (.refl s) fun t ht x hx => ht.trans (h t x hx)

/-- Which die performs an access does not depend on it. -/
theorem Performed.ownerDie {s t : State} (h : Performed s t) (a : Nat) : t.ownerDie a = s.ownerDie a := by
  have owner : t.hub.owner a = s.hub.owner a := by
    simp only [Hub.owner, Hub.listed, Hub.pageAt, h.owners, h.pages]
  have home := h.strand ((a - 2 ^ 66) / 2 ^ 18)
  simp only [State.ownerDie, owner]
  generalize s.strand _ = x, t.strand _ = y at home
  cases home with
  | none => rfl
  | some woken => rw [woken.eq]

theorem performed_modDie (s : State) (n : Nat) (f : Die → Die)
    (paths : ∀ d, (Assoc.getD (f (s.die n)).paths d {}).writes <:+ (Assoc.getD (s.die n).paths d {}).writes) :
    Performed s (s.modDie n f) := by
  refine .of_strands rfl rfl rfl rfl rfl rfl rfl rfl rfl fun a d => ?_
  unfold State.path State.die at *
  by_cases ha : a = n
  · subst ha
    rw [State.modDie_dies, Assoc.getD_modify_same]
    exact paths d
  · rw [State.modDie_dies, Assoc.getD_modify_other _ _ _ _ _ ha]

theorem performed_modHub (s : State) (f : Hub → Hub) (owners : (f s.hub).owners = s.hub.owners)
    (pages : (f s.hub).pages = s.hub.pages) :
    Performed s (s.modHub f) :=
  .of_strands rfl rfl rfl rfl rfl rfl rfl owners pages fun _ _ => List.suffix_rfl

/-- A strand whose watch fires. -/
theorem performed_modStrand (s : State) (sid : Nat) {f : Strand → Strand} (woken : ∀ x, Woken x (f x)) :
    Performed s (s.modStrand sid f) := by
  have live (x : Strand) : (f x).live = x.live := by rw [(woken x).eq]
  have id (x : Strand) : (f x).sid = x.sid := by rw [(woken x).eq]
  have st : Woken s.st (s.modStrand sid f).st := by
    unfold State.modStrand
    split
    · exact woken _
    · split <;> exact .inl rfl
  have strand (n : Nat) : Option.Rel Woken (s.strand n) ((s.modStrand sid f).strand n) := by
    by_cases hn : n = sid
    · subst hn
      cases h : s.strand n with
      | none => rw [State.strand_modStrand_none h, h]; exact .none
      | some x => rw [State.strand_modStrand_same h (live x) (id x)]; exact .some (woken x)
    · rw [State.strand_modStrand_other hn (live _) (id _)]
      exact optionRel_woken_refl _
  obtain ⟨x, l, h⟩ := s.modStrand_frame sid f
  rw [h] at st strand ⊢
  exact ⟨st, strand, rfl, rfl, rfl, rfl, rfl, rfl, rfl, fun _ _ => List.suffix_rfl⟩

theorem performed_fireWatches (s : State) (line : Nat) : Performed s (s.fireWatches line) := by
  unfold State.fireWatches
  simp only
  split
  · exact .refl s
  · refine (performed_modDie s _ _ fun d => List.suffix_rfl).trans
      (.foldl _ _ fun t w _ => performed_modStrand t _ fun x => ?_)
    split
    next l ea d f wait =>
      split
      · exact .inr ⟨l, ea, d, f, wait, rfl⟩
      · exact .inl rfl
    next => exact .inl rfl

theorem performed_performWrite (s : State) (line mask data : Nat) : Performed s (s.performWrite line mask data) := by
  unfold State.performWrite
  split
  · exact .refl s
  · have written : Performed s { s with mem := Memory.writeMask s.mem line data mask 64 } :=
      .of_strands rfl rfl rfl rfl rfl rfl rfl rfl rfl fun _ _ => List.suffix_rfl
    have marked (t : State) : Performed t (t.markRecopy line) := performed_modHub _ _ rfl rfl
    exact written.trans ((marked _).trans (performed_fireWatches _ line))

theorem performed_countAccess (s : State) (die line : Nat) : Performed s (s.countAccess die line) := by
  unfold State.countAccess
  split
  · split
    · exact .refl s
    · exact performed_modHub _ _ rfl rfl
  · exact .refl s

theorem performed_cross (s : State) (a b : Nat) : Performed s (s.cross a b) := by
  unfold State.cross
  split
  · exact .of_strands rfl rfl rfl rfl rfl rfl rfl rfl rfl fun _ _ => List.suffix_rfl
  · exact .refl s

/-- The writes of a path are replaced by others. -/
def setPath (s : State) (a d : Nat) (l : List PathWrite) : State :=
  s.modDie a fun x => { x with paths := Assoc.modify x.paths d {} fun p => { p with writes := l } }

theorem setPath_writes (s : State) (a d : Nat) (l : List PathWrite) : ((setPath s a d l).path a d).writes = l := by
  simp only [setPath, State.path, State.die, State.modDie_dies, Assoc.getD_modify_same]

theorem performed_setPath (s : State) (a d : Nat) {l : List PathWrite} (h : l <:+ (s.path a d).writes) :
    Performed s (setPath s a d l) := by
  refine performed_modDie s a _ fun n => ?_
  by_cases hn : n = d
  · subst hn
    rwa [Assoc.getD_modify_same]
  · rw [Assoc.getD_modify_other _ _ _ _ _ hn]

theorem pathStep_cons {s : State} {a d : Nat} {w : PathWrite} {rest : List PathWrite} (h : (s.path a d).writes = w :: rest) :
    s.pathStep a d =
      (((setPath s a d rest).cross a d).countAccess a w.line).performWrite w.line w.mask.toNat w.data.toNat := by
  rw [State.pathStep, h]
  rfl

/-- A write at the head of a path is performed (R225). -/
theorem performed_pathStep (s : State) (a d : Nat) :
    Performed s (s.pathStep a d) ∧ ((s.pathStep a d).path a d).writes <:+ (s.path a d).writes.tail := by
  cases h : (s.path a d).writes with
  | nil =>
    have stay : s.pathStep a d = s := by rw [State.pathStep, h]
    rw [stay, h]
    exact ⟨.refl s, List.suffix_rfl⟩
  | cons w rest =>
    have taken := performed_setPath s a d (h ▸ List.suffix_cons w rest)
    have arrived := ((performed_cross (setPath s a d rest) a d).trans (performed_countAccess _ a w.line)).trans
      (performed_performWrite _ w.line w.mask.toNat w.data.toNat)
    rw [pathStep_cons h]
    exact ⟨taken.trans arrived, (arrived.paths a d).trans (by rw [setPath_writes]; exact List.suffix_rfl)⟩

/-- All of them are, and the path is left empty. -/
theorem performed_pathFlush (s : State) (a d : Nat) :
    Performed s (s.pathFlush a d) ∧ ((s.pathFlush a d).path a d).writes = [] := by
  have steps (l : List PathWrite) (t : State) : Performed t (l.foldl (fun t _ => t.pathStep a d) t) ∧
      (((l.foldl (fun t _ => t.pathStep a d) t).path a d).writes).length ≤ (t.path a d).writes.length - l.length := by
    induction l generalizing t with
    | nil => exact ⟨.refl t, le_rfl⟩
    | cons w l ih =>
      obtain ⟨step, left⟩ := performed_pathStep t a d
      obtain ⟨rest, short⟩ := ih (t.pathStep a d)
      have := left.length_le
      refine ⟨step.trans rest, short.trans ?_⟩
      rw [List.length_tail] at this
      rw [List.length_cons]
      omega
  obtain ⟨performed, short⟩ := steps (s.path a d).writes s
  exact ⟨performed, List.length_eq_zero_iff.mp (Nat.le_zero.mp (short.trans (Nat.sub_self _).le))⟩

theorem performed_behindDies (s : State) (left : List Nat) (line : Nat) : Performed s (s.behindDies left line) :=
  .foldl left s fun t d _ => (performed_pathFlush t d _).1

/-- An access arrives at the memory side (R209, R225). -/
theorem performed_reach (s : State) (die line : Nat) : Performed s (s.reach die line) := by
  simp only [State.reach]
  split
  · exact performed_countAccess ..
  · exact ((performed_pathFlush ..).1.trans (performed_cross ..)).trans (performed_countAccess ..)

theorem performed_flushPaths (s : State) (die : Nat) : Performed s (s.flushPaths die) :=
  .foldl _ s fun t p _ => (performed_pathFlush t die p.1).1

theorem performed_flushOf (s : State) (x : Strand) : Performed s (s.flushOf x) :=
  (performed_flushPaths s _).trans (.foldl _ _ fun t d _ => performed_flushPaths t d)

theorem performed_countLines (s : State) (die : Nat) (lines : List Nat) : Performed s (s.countLines die lines) :=
  .foldl lines s fun t l _ => performed_countAccess t die l

/-- Behind a strand's writes from dies it has left, no write to the line stands on their paths (R230). -/
theorem behind_clear (s : State) (x : Strand) (line : Nat) :
    ∀ a ∈ x.left, ((s.behind x line).path a (s.ownerDie line)).writes = [] := by
  unfold State.behind State.behindDies
  generalize x.left = left
  induction left generalizing s with
  | nil => nofun
  | cons d left ih =>
    obtain ⟨performed, clear⟩ := performed_pathFlush s d (s.ownerDie line)
    have rest := performed_behindDies (s.pathFlush d (s.ownerDie line)) left line
    refine List.forall_mem_cons.mpr ⟨?_, performed.ownerDie line ▸ ih (s.pathFlush d (s.ownerDie line))⟩
    exact List.suffix_nil.mp (clear ▸ rest.paths d (s.ownerDie line))

/-- Where none stands there, nothing is to be performed. -/
theorem behind_eq_self {s : State} {x : Strand} {line : Nat} (clear : ∀ a ∈ x.left, (s.path a (s.ownerDie line)).writes = []) :
    s.behind x line = s :=
  List.foldlRecOn (motive := (· = s)) x.left _ rfl fun t ht a ha => by rw [ht, pathFlush_eq (clear a ha)]

/-- What has been performed once is not performed again. -/
theorem behind_of_performed {s t : State} {x : Strand} {line : Nat} (h : Performed (s.behind x line) t) : t.behind x line = t := by
  have before : Performed s (s.behind x line) := performed_behindDies ..
  refine behind_eq_self fun a ha => List.suffix_nil.mp ?_
  rw [h.ownerDie, before.ownerDie, ← behind_clear s x line a ha]
  exact h.paths a _

end Sys2Proof.Claims

/-!
Plain loads (05 R89 to R95): what they find, and that they keep.
-/
namespace Sys2Proof.Claims
open Machine

/-! ## Addresses, sizes and extension (R91, R92) -/

theorem sizeOf'_eq (z : BitVec 3) : sizeOf' z = bytesOf z := by revert z; decide

theorem leaOf_eq (p x : Word) : lea p x = leaOf p x := lea_eq p x

/-- The address of a literal is that of its unit's dword, and V dwords behind it (R89). -/
theorem eaLit_eq (l : BitVec 10) (e : State) :
    eaLit l e = (e.st.pc &&& 0xFFFFFFFFFFFFFFF8) + 8 * immV e.st.hints 10 l.toNat := rfl

/-- A loaded value of the size that a code names is extended as R92 says. -/
theorem loadExtend_eq (z : BitVec 3) {v : Nat} (h : v < 2 ^ (8 * bytesOf z)) : loadExtend z v = extended z v := by
  have low {m : Nat} (hv : v < 2 ^ m) (hm : m < 64) : BitVec.ofNat 64 v = (BitVec.ofNat m v).setWidth 64 := by
    have : v < 2 ^ 64 := hv.trans (Nat.pow_lt_pow_right (by decide) hm)
    apply BitVec.eq_of_toNat_eq
    simp only [BitVec.toNat_ofNat, BitVec.toNat_setWidth, Nat.mod_eq_of_lt hv]
  rcases bitVec3_cases z with rfl | rfl | rfl | rfl | rfl | rfl | rfl | rfl
  exacts [rfl, low (m := 8) h (by decide), rfl, low (m := 16) h (by decide), rfl, low (m := 32) h (by decide), rfl, rfl]

theorem bytes_lt (l : Line) (lo n : Nat) : Line.bytes l lo n < 2 ^ (8 * n) := Nat.mod_lt _ (Nat.two_pow_pos _)

/-! ## What a load finds at its target (R94, R206, R225) -/

theorem checkTag_ok {s : State} {x : Strand} {va : Word} {t : Target} {lock : BitVec 4} (h : t.t = true → keyOf va = lock) :
    s.checkTag x va t lock = .ok t s := by
  unfold State.checkTag
  refine if_neg fun bad => ?_
  simp only [Bool.and_eq_true, bne_iff_ne] at bad
  exact bad.2 (h bad.1)

/-- Filling a read cache changes the caches alone. -/
theorem fill_frame (s : State) (core : Nat) (l : RcLine) : ∃ c n, s.fill core l = { s with cores := c, free := n } := by
  unfold State.fill
  simp only
  split
  · exact ⟨_, _, rfl⟩
  · split <;> exact ⟨_, _, rfl⟩

theorem sub_line (a : Nat) : a - Memory.line a = a % 64 := by
  unfold Memory.line
  omega

/-- The state that a plain load finds has the same cores. -/
theorem performed_findsFor (x : Strand) (s : State) (addr : Nat) : Performed s (findsFor x s addr) := by
  unfold findsFor
  split
  · exact .refl s
  · exact (performed_behindDies ..).trans (performed_reach ..)

/-- A plain load whose lock matches and whose line is not poisoned gets the bytes that it finds, and leaves the state that it found,
but for the read cache. -/
theorem loadAt_ok {s : State} {x : Strand} {va : Word} {t : Target} {size pol : Nat} {tag : Bool}
    (clean : (findsFor x s t.addr).poisoned (Memory.line t.addr) = false)
    (key : spaceOf t.addr ≠ .scratch → tag = true → t.t = true → keyOf va = lockSeen (findsFor x s t.addr) x.core t.addr) :
    ∃ c n, s.loadAt x va t size pol tag = .ok (seenBy x s t size) { findsFor x s t.addr with cores := c, free := n } := by
  unfold State.loadAt seenBy
  by_cases scratch : spaceOf t.addr = .scratch
  · have found : findsFor x s t.addr = s := if_pos (.inl scratch)
    rw [found] at clean ⊢
    simp only [scratch, clean, Bool.false_eq_true, if_false, if_true]
    exact ⟨_, _, rfl⟩
  · have key (h : (t.t && tag) = true) := key scratch (Bool.and_eq_true_iff.mp h).2 (Bool.and_eq_true_iff.mp h).1
    rw [if_neg scratch]
    cases cached : (s.core x.core).cached (Memory.line t.addr) with
    | some c =>
      have found : findsFor x s t.addr = s := if_pos (.inr (by rw [cached]; rfl))
      rw [found] at clean key ⊢
      simp only [lockSeen, cached, ← sub_line] at key
      simp only [lineSeen, cached, checkTag_ok (t := { t with t := t.t && tag }) key, Res.bind, clean, Bool.false_eq_true, if_false]
      exact ⟨_, _, rfl⟩
    | none =>
      have found : findsFor x s t.addr = (s.behind x (Memory.line t.addr)).reach (dieOf x.core) (Memory.line t.addr) :=
        if_neg (by simp [scratch, cached])
      have cores := (performed_findsFor x s t.addr).cores
      rw [found] at clean key cores ⊢
      simp only [cached]
      generalize (s.behind x (Memory.line t.addr)).reach (dieOf x.core) (Memory.line t.addr) = s' at clean key cores ⊢
      have uncached : (s'.core x.core).cached (Memory.line t.addr) = none := by rw [State.core, cores]; exact cached
      simp only [lockSeen, uncached] at key
      simp only [lineSeen, uncached, checkTag_ok (t := { t with t := t.t && tag }) key, Res.bind, clean, Bool.false_eq_true, if_false]
      obtain ⟨c, n, filled⟩ := fill_frame s' x.core ⟨Memory.line t.addr, s'.lineAt (Memory.line t.addr),
        s'.lockAt (Memory.line t.addr), s'.lockAt (Memory.line t.addr + 32), pol⟩
      exact ⟨c, n, by rw [filled]⟩

/-! ## Plain loads complete (R94, R95) -/

/-- An access that is granted and finds what it asks for gives what is found. -/
theorem loadPlain_ok {s : State} {a : Acc} {va : Word} {t : Target} {size : Nat} (pol : Nat) (granted : Granted s a va size t)
    (clean : (loadFinds s t.addr).poisoned (Memory.line t.addr) = false)
    (key : spaceOf t.addr ≠ .scratch → (a != .lit) = true → t.t = true →
      keyOf va = lockSeen (loadFinds s t.addr) s.st.core t.addr) :
    ∃ c n, s.loadPlain s.st a va size pol = .ok (seenBy s.st s t size) { loadFinds s t.addr with cores := c, free := n } := by
  unfold State.loadPlain
  rw [granted_iff.mp granted]
  exact loadAt_ok clean key

theorem seenBy_lt (x : Strand) (e : State) (t : Target) (n : Nat) : seenBy x e t n < 2 ^ (8 * n) := by
  unfold seenBy
  split
  · exact readN_lt ..
  · exact bytes_lt ..

/-- What a long-latency unit leaves of the strand does not depend on a watch that has fired. -/
theorem retireLL_st_of_woken {e e' : State} (inf : Info) (dests : List RegName) (writes : List RegWrite)
    (h : Woken e.st e'.st) : (e'.retireLL inf dests writes).st = (e.retireLL inf dests writes).st := by
  obtain ⟨st, strands, order, mem, poison, locks, cores, quads, dies, hub, clk, interlocked, crossed, agenda, free⟩ := e'
  rcases h with rfl | ⟨l, ea, d, f, waits, rfl⟩ <;> rfl

theorem VectorKept.of_st {e t t' : State} (kept : VectorKept e t) (h : t'.st = t.st) : VectorKept e t' where
  v := by rw [h]; exact kept.v
  k := by rw [h]; exact kept.k
  q := by rw [h]; exact kept.q

theorem SpecialKept.of_st {e t t' : State} (kept : SpecialKept e t) (h : t'.st = t.st) : SpecialKept e t' := by
  constructor <;> rw [h]
  exacts [kept.ctl, kept.u, kept.s, kept.h, kept.sdlg, kept.hdlg, kept.pending, kept.ext, kept.sid, kept.core, kept.place]

theorem outstanding_of_woken {e e' : State} (inf : Info) (dests : List RegName) (writes : List RegWrite)
    (h : Woken e.st e'.st) : Outstanding e (e'.retireLL inf dests writes) inf dests writes := by
  have kept := outstanding_retireLL e inf dests writes
  have same := retireLL_st_of_woken inf dests writes h
  refine ⟨?_, kept.vector.of_st same, kept.special.of_st same, ?_, ?_, ?_, ?_⟩ <;> simp only [KeepsG, State.G, same]
  exacts [kept.g, kept.pc, kept.hints, kept.wait, kept.inflight]

/-- A load of the strand in issue: what it finds is outstanding for G[d], and no byte has changed beyond what it found. -/
theorem completesWhen_load {i : Instr} {inf : Info} {s : State} {a : Acc} {ea : State → Word} {size : Nat} {pol : State → Nat}
    {d : BitVec 5} {f ext : Nat → Word} (t : Target) (kind : (a != .lit) = true → a = .load)
    (fits : ∀ v < 2 ^ (8 * size), f v = ext v)
    (exec_eq : exec i s = guarded inf s fun s => (s.loadPlain s.st a (ea s) size (pol s)).out fun v s =>
      .next (s.retireLL inf (gs [d]) [.g d (f v)])) :
    CompletesWhen i inf s
      (fun e => Granted e a (ea e) size t ∧ (loadFinds e t.addr).poisoned (Memory.line t.addr) = false ∧
        (spaceOf t.addr ≠ .scratch → a = .load → t.t = true → keyOf (ea e) = lockSeen (loadFinds e t.addr) e.st.core t.addr))
      fun e m => Outstanding e m inf (gs [d]) [.g d (ext (seenBy e.st e t size))] ∧
        BytesKept (loadFinds e t.addr) m ∧ m.locks = e.locks ∧ m.quads = e.quads ∧ m.clk = e.clk := by
  refine completesWhen_of_guarded exec_eq fun ⟨granted, clean, key⟩ => ?_
  generalize entry inf s = e at granted clean key
  obtain ⟨c, n, loaded⟩ := loadPlain_ok (pol e) granted clean fun h tagged => key h (kind tagged)
  have found := performed_findsFor e.st e t.addr
  refine ⟨{ loadFinds e t.addr with cores := c, free := n }.retireLL inf (gs [d]) [.g d (ext (seenBy e.st e t size))],
    by simp only [loaded, Res.out, fits _ (seenBy_lt ..)], outstanding_of_woken _ _ _ ?_, fun b => rfl, ?_⟩
  exacts [found.st, ⟨found.locks, found.quads, found.clk⟩]

theorem exec_ld (iv : BitVec 2) (d b : BitVec 5) (o : BitVec 7) (z : BitVec 3) (sc : BitVec 4) (s : State) :
    exec (.ld iv d b o z sc) s =
      loadInto ((infoLL (encode (.ld iv d b o z sc)) iv sc (gs [d, b])).need (Wf.loadSize z)) d z (eaM b o z) s := rfl

theorem exec_ldX (iv : BitVec 2) (d b i : BitVec 5) (h : BitVec 2) (z : BitVec 3) (sc : BitVec 4) (s : State) :
    exec (.ldX iv d b i h z sc) s =
      loadInto ((infoLL (encode (.ldX iv d b i h z sc)) iv sc (gs [d, b, i])).need (Wf.loadSize z)) d z (eaMX b i h) s := rfl

theorem exec_ldLit (iv : BitVec 2) (d : BitVec 5) (l : BitVec 10) (sc : BitVec 4) (s : State) :
    exec (.ldLit iv d l sc) s = guarded (infoLL (encode (.ldLit iv d l sc)) iv sc (gs [d])) s fun s =>
      (s.loadPlain s.st .lit (eaLit l s) 8 0).out fun v s =>
        .next (s.retireLL (infoLL (encode (.ldLit iv d l sc)) iv sc (gs [d])) (gs [d]) [.g d (BitVec.ofNat 64 v)]) := rfl

theorem eaM_eq (b : BitVec 5) (o : BitVec 7) (z : BitVec 3) :
    eaM b o z = fun e : State => leaOf (e.G b) (immV e.st.hints 7 o.toNat * BitVec.ofNat 64 (bytesOf z)) := by
  funext e
  rw [eaM, sizeOf'_eq, leaOf_eq]

theorem eaMX_eq (b i : BitVec 5) (h : BitVec 2) : eaMX b i h = fun e : State => leaOf (e.G b) (e.G i <<< h.toNat) := by
  funext e
  rw [eaMX, leaOf_eq]

theorem loadSize_eq (z : BitVec 3) : Wf.loadSize z = (z != 7) := by revert z; decide

/-- A load of a size code into G[d]. -/
theorem completesWhen_loadInto {i : Instr} {inf : Info} {s : State} {d : BitVec 5} {z : BitVec 3} {ea : State → Word}
    (t : Target) (hx : exec i s = loadInto inf d z ea s) :
    CompletesWhen i inf s
      (fun e => Granted e .load (ea e) (bytesOf z) t ∧ (loadFinds e t.addr).poisoned (Memory.line t.addr) = false ∧
        (spaceOf t.addr ≠ .scratch → Acc.load = .load → t.t = true →
          keyOf (ea e) = lockSeen (loadFinds e t.addr) e.st.core t.addr))
      fun e m => Outstanding e m inf (gs [d]) [.g d (extended z (seenBy e.st e t (bytesOf z)))] ∧
        BytesKept (loadFinds e t.addr) m ∧ m.locks = e.locks ∧ m.quads = e.quads ∧ m.clk = e.clk := by
  rw [loadInto, sizeOf'_eq] at hx
  exact completesWhen_load t (fun _ => rfl) (fun v => loadExtend_eq z) hx

/-- Settles O8: the checks pass as they are granted, and the bytes are those of the line as the core sees it. -/
theorem plainLoad : Obligations.PlainLoad := by
  unfold Obligations.PlainLoad
  intro iv d b i o h z l sc s tgt p hp
  simp only [plainLoads, List.mem_cons, List.not_mem_nil, or_false] at hp
  rcases hp with rfl | rfl | rfl
  · have load := completesWhen_loadInto tgt (exec_ld iv d b o z sc s)
    rw [loadSize_eq, eaM_eq] at load
    exact load
  · have load := completesWhen_loadInto tgt (exec_ldX iv d b i h z sc s)
    rw [loadSize_eq, eaMX_eq] at load
    exact load
  · have load := completesWhen_load (ext := BitVec.ofNat 64) (a := .lit) (ea := eaLit l) (pol := fun _ => 0) tgt
      (fun lit => absurd lit (by decide)) (fun _ _ => rfl) (exec_ldLit iv d l sc s)
    rw [funext (eaLit_eq l)] at load
    exact load

end Sys2Proof.Claims

/-!
Bytes put into a store buffer (05 R94, 10 R205).
-/
namespace Sys2Proof.Machine

/-! ## A line with bytes replaced -/

theorem put_eq (l : Line) (lo n x : Nat) : Line.put l lo n x = BitVec.ofNat 512
    (2 ^ (8 * lo) * (2 ^ (8 * n) * (l.toNat / 2 ^ (8 * lo) / 2 ^ (8 * n)) + x % 2 ^ (8 * n)) + l.toNat % 2 ^ (8 * lo)) := by
  unfold Line.put Line.bytes
  generalize 2 ^ (8 * lo) = p
  generalize 2 ^ (8 * n) = q
  refine congrArg (BitVec.ofNat 512) ?_
  calc
    _ = p * (q * (l.toNat / p / q) + l.toNat / p % q) + l.toNat % p - l.toNat / p % q * p + x % q * p := by
      rw [Nat.div_add_mod, Nat.div_add_mod]
    _ = l.toNat / p % q * p + (p * (q * (l.toNat / p / q)) + l.toNat % p) - l.toNat / p % q * p + x % q * p := by ring_nf
    _ = p * (q * (l.toNat / p / q)) + l.toNat % p + x % q * p := by rw [Nat.add_sub_cancel_left]
    _ = _ := by ring

theorem getLsbD_put (l : Line) (lo n x : Nat) {j : Nat} (hj : j < 512) : (Line.put l lo n x).getLsbD j =
    if 8 * lo ≤ j ∧ j < 8 * (lo + n) then x.testBit (j - 8 * lo) else l.getLsbD j := by
  have low : l.toNat % 2 ^ (8 * lo) < 2 ^ (8 * lo) := Nat.mod_lt _ (Nat.two_pow_pos _)
  have new : x % 2 ^ (8 * n) < 2 ^ (8 * n) := Nat.mod_lt _ (Nat.two_pow_pos _)
  rw [put_eq, BitVec.getLsbD_ofNat, decide_eq_true hj, Bool.true_and, Nat.testBit_two_pow_mul_add _ low,
    Nat.testBit_two_pow_mul_add _ new]
  split
  next below => rw [if_neg (by omega), Nat.testBit_mod_two_pow, decide_eq_true below, Bool.true_and]; rfl
  next above =>
    split
    next inside => rw [if_pos (by omega), Nat.testBit_mod_two_pow, decide_eq_true inside, Bool.true_and]
    next beyond =>
      rw [if_neg (by omega), Nat.testBit_div_two_pow, Nat.testBit_div_two_pow, BitVec.getLsbD]
      congr 1
      omega

/-- Byte i of a line with n bytes replaced from lo on. -/
theorem put_byte (l : Line) (lo n x : Nat) {i : Nat} (hi : i < 64) : (Line.put l lo n x).extractLsb' (8 * i) 8 =
    if lo ≤ i ∧ i < lo + n then BitVec.ofNat 8 (x / 2 ^ (8 * (i - lo))) else l.extractLsb' (8 * i) 8 := by
  apply BitVec.eq_of_getLsbD_eq
  intro j hj
  rw [BitVec.getLsbD_extractLsb', getLsbD_put _ _ _ _ (by omega), decide_eq_true hj, Bool.true_and]
  by_cases written : lo ≤ i ∧ i < lo + n
  · rw [if_pos (by omega), if_pos written, BitVec.getLsbD_ofNat, Nat.testBit_div_two_pow, decide_eq_true hj, Bool.true_and]
    congr 1
    omega
  · rw [if_neg (by omega), if_neg written, BitVec.getLsbD_extractLsb', decide_eq_true hj, Bool.true_and]

theorem getLsbD_byteMask (lo n : Nat) {i : Nat} (hi : i < 64) : (byteMask lo n).getLsbD i = decide (lo ≤ i ∧ i < lo + n) := by
  rw [byteMask, BitVec.getLsbD_ofNat, Nat.testBit_mul_two_pow, Nat.testBit_two_pow_sub_one, Bool.eq_iff_iff]
  simp only [Bool.and_eq_true, decide_eq_true_eq]
  omega

/-! ## A buffer with bytes put into it -/

/-- A buffered line with bytes of a later store put into it. -/
def SbLine.put (pid lo size x : Nat) (vas : List Nat) (l : SbLine) : SbLine :=
  { l with
    mask := l.mask ||| byteMask lo size, data := Line.put l.data lo size x, dead := l.dead &&& ~~~byteMask lo size, pid := pid
    vas := l.vas.filter (fun a => !vas.contains a) ++ vas }

/-- A buffer in which a change has been made to a line: to the line it holds, else to a new one. -/
def putInto (buf : List SbLine) (line : Nat) (f : SbLine → SbLine) : List SbLine :=
  if buf.any (·.line == line) then buf.map fun l => if l.line = line then f l else l
  else buf ++ [f { line := line, mask := 0, data := 0 }]

/-- A buffer with room, or with the line, takes the bytes and drains nothing (R205). -/
theorem bufferStore_eq {s : State} {core line : Nat} (pid lo size x : Nat) (vas : List Nat)
    (room : (s.core core).sbuf.length < 32 ∨ (s.core core).sbuf.any (·.line == line) = true) :
    s.bufferStore core pid line lo size x vas =
      s.modCore core fun c => { c with sbuf := putInto (s.core core).sbuf line (SbLine.put pid lo size x vas) } := by
  unfold State.bufferStore putInto
  by_cases held : (s.core core).sbuf.any (·.line == line) = true
  · simp only [held, if_true]
    rfl
  · have len : ¬ (s.core core).sbuf.length ≥ 32 := Nat.not_le.mpr (room.resolve_right held)
    simp only [held, len, Bool.false_eq_true, if_false]
    split <;> rfl

variable {f : SbLine → SbLine} {i : Nat} {w : Bool} {y : Byte}

/-- What a load sees through a buffer into which byte i of a line has been put as y, if w. -/
theorem foldl_putInto_byte (buf : List SbLine) (line at' : Nat) (base : Line) (hi : i < 64)
    (hline : ∀ l, (f l).line = l.line) (hmask : ∀ l, (f l).mask.getLsbD i = (l.mask.getLsbD i || w))
    (hdata : ∀ l, (f l).data.extractLsb' (8 * i) 8 = if w then y else l.data.extractLsb' (8 * i) 8) :
    ((putInto buf line f).foldl (fun d l => if l.line = at' then mergeLine d l.data l.mask else d) base).extractLsb' (8 * i) 8 =
      if at' = line ∧ w then y
      else (buf.foldl (fun d l => if l.line = at' then mergeLine d l.data l.mask else d) base).extractLsb' (8 * i) 8 := by
  rw [foldl_mergeLine_byte _ _ _ hi, foldl_mergeLine_byte _ _ _ hi]
  unfold putInto
  split
  next held =>
    have there (l : SbLine) : ((if l.line = line then f l else l).line == at' && (if l.line = line then f l else l).mask.getLsbD i) =
        (l.line == at' && (l.mask.getLsbD i || (decide (l.line = line) && w))) := by
      split
      next here => rw [hline, hmask, decide_eq_true here, Bool.true_and]
      next other => rw [decide_eq_false other, Bool.false_and, Bool.or_false]
    rw [← List.map_reverse, List.find?_map, Option.map_map]
    simp only [Function.comp_def, there]
    by_cases written : at' = line ∧ w
    · obtain ⟨rfl, rfl⟩ := written
      have first : (buf.reverse.find? fun l => l.line == at' && (l.mask.getLsbD i || (decide (l.line = at') && true))).isSome := by
        obtain ⟨l, mem, here⟩ := List.any_eq_true.mp held
        exact List.find?_isSome.mpr ⟨l, List.mem_reverse.mpr mem, by simp_all⟩
      obtain ⟨l, found⟩ := Option.isSome_iff_exists.mp first
      have here := List.find?_some found
      simp_all
    · have other {l : SbLine} (seen : l.line = at') (here : l.line = line) : w = false :=
        Bool.eq_false_iff.mpr fun hw => written ⟨seen ▸ here, hw⟩
      have same (l : SbLine) : (l.line == at' && (l.mask.getLsbD i || (decide (l.line = line) && w))) =
          (l.line == at' && l.mask.getLsbD i) := by
        by_cases seen : l.line = at' <;> by_cases here : l.line = line
        · rw [other seen here, Bool.and_false, Bool.or_false]
        · rw [decide_eq_false here, Bool.false_and, Bool.or_false]
        · rw [beq_false_of_ne seen, Bool.false_and, Bool.false_and]
        · rw [beq_false_of_ne seen, Bool.false_and, Bool.false_and]
      simp only [same]
      rw [if_neg written]
      refine congrArg (Option.getD · _) (Option.map_congr fun l found => ?_)
      have hit := List.find?_some found
      have seen : l.line = at' := beq_iff_eq.mp (Bool.and_eq_true_iff.mp hit).1
      split
      next here => rw [hdata, other seen here, if_neg Bool.false_ne_true]
      next => rfl
  next =>
    rw [List.reverse_append, List.reverse_singleton, List.singleton_append, List.find?_cons, hline, hmask]
    by_cases written : at' = line ∧ w
    · obtain ⟨rfl, rfl⟩ := written
      rw [beq_self_eq_true, Bool.or_true, Bool.and_true, if_pos ⟨rfl, rfl⟩]
      exact (hdata _).trans (if_pos rfl)
    · have unseen : (line == at' && ((0 : BitVec 64).getLsbD i || w)) = false := by
        have none : (0 : BitVec 64).getLsbD i = false := BitVec.getLsbD_zero
        rw [none, Bool.false_or, Bool.and_eq_false_iff, beq_eq_false_iff_ne]
        exact (not_and_or.mp written).imp Ne.symm Bool.eq_false_iff.mpr
      rw [unseen, if_neg written]

end Sys2Proof.Machine

/-!
Plain stores (05 R92, R94, R95): what they check, and what they put where.
-/
namespace Sys2Proof.Claims
open Machine

/-! ## Checks 1 to 7 of a plain store (R95, R209) -/

/-- The state in which a plain store's checks leave the memory side: a lock that is read there is read behind the writes ahead. -/
def storeChecked (e : State) (t : Target) : State :=
  if t.t = true ∧ ((e.core e.st.core).cached (Memory.line t.addr)).isNone then
    (e.behind e.st (Memory.line t.addr)).reach (dieOf e.st.core) (Memory.line t.addr)
  else e

theorem performed_storeChecked (e : State) (t : Target) : Performed e (storeChecked e t) := by
  unfold storeChecked
  split
  · exact (performed_behindDies ..).trans (performed_reach ..)
  · exact .refl e

/-- Behind its checks and its own writes from dies it has left, a store finds what the statements say it finds. -/
theorem behind_storeChecked (e : State) (t : Target) : (storeChecked e t).behind e.st (Memory.line t.addr) = storeFinds e t := by
  unfold storeChecked storeFinds
  split
  · exact behind_of_performed (performed_reach ..)
  · rfl

theorem performed_storeFinds (e : State) (t : Target) : Performed e (storeFinds e t) := by
  rw [← behind_storeChecked]
  exact (performed_storeChecked e t).trans (performed_behindDies ..)

theorem checkStore_ok {s : State} {va : Word} {size : Nat} {t : Target} (granted : Granted s .store va size t)
    (key : t.t = true → keyOf va = lockSeen s s.st.core t.addr) : s.checkStore s.st va size = .ok t (storeChecked s t) := by
  unfold State.checkStore storeChecked
  rw [granted_iff.mp granted]
  cases cached : (s.core s.st.core).cached (Memory.line t.addr) with
  | some c =>
    simp only [lockSeen, cached] at key
    simp only [Res.bind, cached, checkTag_ok key, Option.isNone_some, Bool.false_eq_true, and_false, if_false]
  | none =>
    simp only [lockSeen, cached] at key
    have locks : (if t.t = true then (s.behind s.st (Memory.line t.addr)).reach (dieOf s.st.core) (Memory.line t.addr) else s).locks =
        s.locks := by
      split
      · exact ((performed_behindDies ..).trans (performed_reach ..)).locks
      · rfl
    simp only [Res.bind, cached, Option.isNone_none, and_true]
    refine checkTag_ok fun tagged => (key tagged).trans ?_
    simp only [State.lockAt, locks]

theorem scratch_le {a : Nat} (h : spaceOf a = .scratch) : 2 ^ 60 ≤ a := by
  by_contra below
  revert h
  unfold spaceOf
  split_ifs <;> nofun

/-- Nothing that lies in a scratchpad is tag-checked: an extent maps addresses below the scratchpads (R142, R212). -/
theorem find_scratch_untagged {s : State} {x : Strand} {va : Word} {t : Target} (found : s.find x va = some t)
    (scratch : spaceOf t.addr = .scratch) : t.t = false := by
  have mapped (e : Extent) : e.pbase + (va.toNat % 2 ^ 56 - e.vbase) < 2 ^ 60 := by
    have base : e.pbase < 2 ^ 56 := (e.extractLsb' 200 56).isLt
    omega
  have high := scratch_le scratch
  unfold State.find at found
  split at found
  · split at found <;> cases found
    rfl
  · split at found
    · split at found <;> cases found
      rfl
    · split at found
      next => cases found
      next e _ =>
        exfalso
        simp only at found
        have addr : t.addr = e.pbase + (va.toNat % 2 ^ 56 - e.vbase) := by
          split at found
          · split at found <;> cases found <;> rfl
          · cases found
            rfl
        exact absurd (addr ▸ high) (Nat.not_le.mpr (mapped e))

/-! ## The end of a store -/

theorem retire_st_of_woken {e e' : State} (h : Woken e.st e'.st) : e'.retire.st = e.retire.st := by
  obtain ⟨st, strands, order, mem, poison, locks, cores, quads, dies, hub, clk, interlocked, crossed, agenda, free⟩ := e'
  rcases h with rfl | ⟨l, ea, d, f, waits, rfl⟩ <;> rfl

/-- A unit that retires writes no register, whether or not a watch of its strand has fired. -/
theorem strandGoesOn_of_woken {e e' : State} (h : Woken e.st e'.st) : StrandGoesOn e e'.retire := by
  have kept := jumpEffect_retireTo e e.nextPc
  have same : e'.retire.st = (e.retireTo e.nextPc).st := retire_st_of_woken h
  have ended := kept.ended
  refine ⟨?_, kept.vector.of_st same, kept.special.of_st same, ?_, ?_, ?_, ?_⟩ <;> simp only [KeepsG, State.G, same]
  exacts [kept.g, ended.pc, ended.hints, ended.wait, ended.inflight]

/-! ## What a store puts where (R94, R200, R205) -/

theorem storePlain_scratch {s : State} {va : Word} {size v : Nat} {t : Target} {done : State → Out}
    (granted : Granted s .store va size t) (scratch : spaceOf t.addr = .scratch) (free : s.scratchBusy t size = false) :
    s.storePlain s.st va size v done = done { s with mem := Memory.writeN s.mem t.addr (v % 2 ^ (8 * size)) size } := by
  have untagged := find_scratch_untagged granted.covered scratch
  have checked : storeChecked s t = s := if_neg (by simp [untagged])
  unfold State.storePlain
  rw [checkStore_ok granted (by simp [untagged]), checked]
  simp only [Res.out, scratch, free, Bool.false_eq_true, if_false, State.storeAt]

theorem storePlain_buffer {s : State} {va : Word} {size v : Nat} {t : Target} {done : State → Out}
    (granted : Granted s .store va size t) (key : t.t = true → keyOf va = lockSeen s s.st.core t.addr)
    (scratch : spaceOf t.addr ≠ .scratch) (fabric : spaceOf t.addr ≠ .fabric) :
    s.storePlain s.st va size v done =
      done ((storeFinds s t).bufferStore s.st.core s.st.pid (Memory.line t.addr) (t.addr % 64) size v (vaLines va)) := by
  have free (e : State) : e.scratchBusy t size = false := by
    rw [State.scratchBusy, beq_false_of_ne scratch, Bool.false_and]
  unfold State.storePlain
  rw [checkStore_ok granted key, ← behind_storeChecked]
  simp only [Res.out, free, Bool.false_eq_true, if_false, State.storeAt]

/-- Byte k of a word, as its number has it. -/
theorem ofNat_byte (x : Word) (k : Nat) : BitVec.ofNat 8 (x.toNat / 2 ^ (8 * k)) = x.extractLsb' (8 * k) 8 := by
  rw [BitVec.extractLsb', Nat.shiftRight_eq_div_pow]

/-- Byte k of a number is one of its low n bytes. -/
theorem ofNat_byte_mod (v : Nat) {n k : Nat} (h : k < n) :
    BitVec.ofNat 8 (v % 2 ^ (8 * n) / 2 ^ (8 * k)) = BitVec.ofNat 8 (v / 2 ^ (8 * k)) := by
  apply BitVec.eq_of_getLsbD_eq
  intro j hj
  rw [BitVec.getLsbD_ofNat, BitVec.getLsbD_ofNat, Nat.testBit_div_two_pow, Nat.testBit_div_two_pow, Nat.testBit_mod_two_pow,
    decide_eq_true (show j + 8 * k < 8 * n by omega), Bool.true_and]

/-- What the core sees of a line behind a store into a buffer with room, byte by byte. -/
theorem merge_bufferStore {s : State} {core addr size : Nat} (pid : Nat) (x : Word) (vas : List Nat)
    (room : (s.core core).sbuf.length < 32 ∨ (s.core core).sbuf.any (·.line == Memory.line addr) = true)
    (line : Nat) (base : Line) {i : Nat} (hi : i < 64) :
    (((s.bufferStore core pid (Memory.line addr) (addr % 64) size x.toNat vas).core core).merge line base).extractLsb' (8 * i) 8 =
      if line = Memory.line addr ∧ addr ≤ line + i ∧ line + i < addr + size then x.extractLsb' (8 * (line + i - addr)) 8
      else ((s.core core).merge line base).extractLsb' (8 * i) 8 := by
  have seen := foldl_putInto_byte (f := SbLine.put pid (addr % 64) size x.toNat vas) (i := i)
    (w := decide (addr % 64 ≤ i ∧ i < addr % 64 + size)) (y := x.extractLsb' (8 * (i - addr % 64)) 8) (s.core core).sbuf
    (Memory.line addr) line base hi (fun l => rfl)
    (fun l => by rw [SbLine.put, BitVec.getLsbD_or, getLsbD_byteMask _ _ hi])
    (fun l => by simp only [SbLine.put, put_byte _ _ _ _ hi, ofNat_byte, decide_eq_true_eq])
  rw [bufferStore_eq pid _ _ _ _ room, Core.merge, State.core, State.modCore, Assoc.getD_modify_same]
  refine seen.trans ?_
  have place : Memory.line addr + addr % 64 = addr := by unfold Memory.line; omega
  by_cases here : line = Memory.line addr
  · subst here
    have offset : Memory.line addr + i - addr = i - addr % 64 := by omega
    have inside : (addr % 64 ≤ i ∧ i < addr % 64 + size) ↔
        addr ≤ Memory.line addr + i ∧ Memory.line addr + i < addr + size := by
      omega
    simp only [true_and, decide_eq_true_eq, offset, inside]
    rfl
  · rw [if_neg fun h => here h.1, if_neg fun h => here h.1]
    rfl

/-- A store of the strand in issue: it writes the scratchpad, or puts its bytes into the store buffer. -/
theorem completesWhen_storeFrom {i : Instr} {inf : Info} {s : State} {d : BitVec 5} {z : BitVec 3} {ea : State → Word}
    (t : Target) (hx : exec i s = storeFrom inf d z ea s) :
    CompletesWhen i inf s
      (fun e => Granted e .store (ea e) (bytesOf z) t ∧ spaceOf t.addr ≠ .fabric ∧
        (t.t = true → keyOf (ea e) = lockSeen e e.st.core t.addr) ∧ e.scratchBusy t (bytesOf z) = false ∧
        (spaceOf t.addr ≠ .scratch → (e.core e.st.core).sbuf.length < 32 ∨
          (e.core e.st.core).sbuf.any (fun l => l.line == Memory.line t.addr) = true))
      fun e m => StrandGoesOn e m ∧ m.locks = e.locks ∧ m.poison = e.poison ∧
        (spaceOf t.addr = .scratch → Wrote e m t.addr (bytesOf z) (e.G d).toNat ∧ m.cores = e.cores ∧ m.hub = e.hub ∧
          m.dies = e.dies) ∧
        (spaceOf t.addr ≠ .scratch → (∀ b, b = storeFinds e t → BytesKept b m ∧ m.hub = b.hub ∧ m.dies = b.dies) ∧
          ∀ line base i, i < 64 →
            ((m.core e.st.core).merge line base).extractLsb' (8 * i) 8 =
              if line = Memory.line t.addr ∧ t.addr ≤ line + i ∧ line + i < t.addr + bytesOf z then
                (e.G d).extractLsb' (8 * (line + i - t.addr)) 8
              else ((e.core e.st.core).merge line base).extractLsb' (8 * i) 8) := by
  rw [storeFrom, sizeOf'_eq] at hx
  refine completesWhen_of_guarded hx fun ⟨granted, fabric, key, free, room⟩ => ?_
  generalize entry inf s = e at granted key free room
  by_cases scratch : spaceOf t.addr = .scratch
  · refine ⟨_, storePlain_scratch granted scratch free, strandGoesOn_of_woken (.inl rfl), rfl, rfl,
      fun _ => ⟨fun b => ?_, rfl, rfl, rfl⟩, fun h => absurd scratch h⟩
    rw [State.retire, State.retireTo_mem, Memory.read_writeN]
    split
    next inside => exact ofNat_byte_mod _ (by omega)
    next => rfl
  · have found := performed_storeFinds e t
    have same : (storeFinds e t).core e.st.core = e.core e.st.core := by rw [State.core, found.cores]; rfl
    have room := room scratch
    rw [← same] at room
    have buffered := bufferStore_eq e.st.pid (t.addr % 64) (bytesOf z) (e.G d).toNat (vaLines (ea e)) room
    refine ⟨_, storePlain_buffer granted key scratch fabric, strandGoesOn_of_woken ?_, ?_, ?_, fun h => absurd h scratch,
      fun _ => ⟨?_, fun line base i hi => ?_⟩⟩
    · rw [buffered]
      exact found.st
    · rw [buffered]
      exact found.locks
    · rw [buffered]
      exact found.poison
    · rintro b rfl
      rw [buffered]
      exact ⟨fun _ => rfl, rfl, rfl⟩
    · rw [← same]
      exact merge_bufferStore e.st.pid (e.G d) (vaLines (ea e)) room line base hi

theorem exec_st (iv : BitVec 2) (d b : BitVec 5) (o : BitVec 7) (z : BitVec 3) (sc : BitVec 4) (s : State) :
    exec (.st iv d b o z sc) s =
      storeFrom ((infoR (encode (.st iv d b o z sc)) iv sc (gs [d, b])).need (Wf.storeSize z)) d z (eaM b o z) s := rfl

theorem exec_stX (iv : BitVec 2) (d b i : BitVec 5) (h : BitVec 2) (z : BitVec 3) (sc : BitVec 4) (s : State) :
    exec (.stX iv d b i h z sc) s =
      storeFrom ((infoR (encode (.stX iv d b i h z sc)) iv sc (gs [d, b, i])).need (Wf.storeSize z)) d z (eaMX b i h) s := rfl

theorem storeSize_eq (z : BitVec 3) : Wf.storeSize z = (z.getLsbD 0 == false) := by revert z; decide

/-- Settles O10: a store writes the scratchpad, or lays its bytes over what the core's buffer shows of their line. -/
theorem plainStore : Obligations.PlainStore := by
  unfold Obligations.PlainStore
  intro iv d b i o h z sc s tgt p hp
  simp only [plainStores, List.mem_cons, List.not_mem_nil, or_false] at hp
  rcases hp with rfl | rfl
  · have store := completesWhen_storeFrom tgt (exec_st iv d b o z sc s)
    rw [storeSize_eq, eaM_eq] at store
    exact store
  · have store := completesWhen_storeFrom tgt (exec_stX iv d b i h z sc s)
    rw [storeSize_eq, eaMX_eq] at store
    exact store

end Sys2Proof.Claims

/-!
Strands that wait at their unit and go on (05 R76, 07 R146, 11 R218, R225, R226, 12 R241, R245, R250).
-/
namespace Sys2Proof.Machine

/-! ## Changes of a strand that leave it live under its sid -/

/-- A change of a strand that neither ends it nor renames it. -/
structure Stays (f : Strand → Strand) : Prop where
  live : ∀ x, (f x).live = x.live
  sid  : ∀ x, (f x).sid = x.sid

/-- A change of a strand within its unit: the unit's place in the program stays. -/
structure InUnit (f : Strand → Strand) : Prop extends Stays f where
  pc    : ∀ x, (f x).pc = x.pc
  hints : ∀ x, (f x).hints = x.hints

theorem inUnit_id : InUnit id := ⟨⟨fun _ => rfl, fun _ => rfl⟩, fun _ => rfl, fun _ => rfl⟩

theorem inUnit_setG (d : BitVec 5) (v : Word) : InUnit fun x => x.setG d v := by
  refine { live := ?_, sid := ?_, pc := ?_, hints := ?_ } <;> intro x <;> simp

theorem InUnit.finish {f : Strand → Strand} (h : InUnit f) : Stays fun x => (f x).finish := ⟨h.live, h.sid⟩

theorem stays_again : Stays Strand.again := ⟨fun _ => rfl, fun _ => rfl⟩

theorem applyWrite_live (x : Strand) (w : RegWrite) : (x.applyWrite w).live = x.live := by
  cases w <;> simp [Strand.applyWrite, Strand.modCtl]

theorem applyWrite_sid (x : Strand) (w : RegWrite) : (x.applyWrite w).sid = x.sid := by
  cases w <;> simp [Strand.applyWrite, Strand.modCtl]

theorem applyWrite_pc (x : Strand) (w : RegWrite) : (x.applyWrite w).pc = x.pc := by
  cases w <;> simp [Strand.applyWrite, Strand.modCtl]

theorem applyWrite_wait (x : Strand) (w : RegWrite) : (x.applyWrite w).wait = x.wait := by
  cases w <;> simp [Strand.applyWrite, Strand.modCtl]

/-- What no register write changes, no result that returns changes. -/
theorem complete_eq {α : Type} {field : Strand → α} (h : ∀ x w, field (Strand.applyWrite x w) = field x) (x : Strand) (o : Outst) :
    field (x.complete o) = field x := by
  unfold Strand.complete
  generalize o.writes = writes
  induction writes generalizing x with
  | nil => rfl
  | cons w writes ih => exact (ih _).trans (h x w)

/-- The strand with its oldest outstanding result returned (R76). -/
def oldestReturned (x : Strand) : Strand :=
  match x.inflight with
  | [] => x
  | o :: rest => { x.complete o with inflight := rest }

theorem oldestReturned_cons {x : Strand} {o : Outst} {rest : List Outst} (h : x.inflight = o :: rest) :
    oldestReturned x = { x.complete o with inflight := rest } := by
  unfold oldestReturned
  rw [h]

theorem stays_oldestReturned : Stays oldestReturned where
  live x := by
    unfold oldestReturned
    split
    · rfl
    · exact complete_eq applyWrite_live x _
  sid x := by
    unfold oldestReturned
    split
    · rfl
    · exact complete_eq applyWrite_sid x _

end Sys2Proof.Machine

namespace Sys2Proof.Claims
open Machine

section
variable {s s' : State} {sid : Nat} {x : Strand} {f : Strand → Strand} {r : Strand → Strand → Prop}

/-! ## The strand alone (R146) -/

theorem alone_modStrand (s : State) (sid : Nat) (stays : Stays f) : Alone s (s.modStrand sid f) sid := by
  obtain ⟨y, l, frame⟩ := s.modStrand_frame sid f
  refine { bytes := fun b => ?_, poison := ?_, locks := ?_, cores := ?_, quads := ?_, dies := ?_, hub := ?_
           others := fun n hn => State.strand_modStrand_other hn (stays.live _) (stays.sid _) } <;> rw [frame]

theorem strandMoves_modStrand (h : s.strand sid = some x) (h' : s'.strand sid = some x) (stays : Stays f) (hr : r x (f x)) :
    StrandMoves s (s'.modStrand sid f) sid r :=
  ⟨x, f x, h, State.strand_modStrand_same h' (stays.live x) (stays.sid x), hr⟩

/-- A strand that goes on after its unit changes alone. -/
theorem alone_finishWait (s : State) (sid : Nat) (unit : InUnit f) : Alone s (s.finishWait sid f) sid := by
  have alone := alone_modStrand s sid unit.finish
  exact ⟨alone.bytes, alone.poison, alone.locks, alone.cores, alone.quads, alone.dies, alone.hub, alone.others⟩

theorem alone_again (s : State) (sid : Nat) : Alone s (s.again sid) sid := by
  have alone := alone_modStrand s sid stays_again
  exact ⟨alone.bytes, alone.poison, alone.locks, alone.cores, alone.quads, alone.dies, alone.hub, alone.others⟩

theorem strandMoves_finishWait (h : s.strand sid = some x) (h' : s'.strand sid = some x) (unit : InUnit f) (hr : r x (f x).finish) :
    StrandMoves s (s'.finishWait sid f) sid r :=
  strandMoves_modStrand h h' unit.finish hr

theorem strandMoves_again (h : s.strand sid = some x) : StrandMoves s (s.again sid) sid TriesAgain :=
  strandMoves_modStrand h h stays_again ⟨rfl, rfl, rfl, rfl, rfl, rfl, rfl, rfl, rfl, rfl, rfl, rfl⟩

theorem goesOn_finish (unit : InUnit f) (x : Strand) : GoesOn x (f x).finish where
  pc := by rw [Strand.finish, Strand.unitLen, unit.pc, unit.hints, Strand.unitLen]
  hints := rfl
  wait := rfl
  sid := unit.sid x

theorem regsKept_finish (x : Strand) : RegsKept x x.finish := ⟨rfl, rfl, rfl, rfl, rfl, rfl, rfl, rfl, rfl⟩

theorem getsG_setG (x : Strand) (d : BitVec 5) (v : Word) : GetsG x (x.setG d v) d v := fun n => Strand.G_setG x d n v

/-- A strand that goes on and keeps its registers. -/
theorem goesOn_finishWait (h : s.strand sid = some x) (h' : s'.strand sid = some x) :
    StrandMoves s (s'.finishWait sid id) sid fun x y => GoesOn x y ∧ RegsKept x y :=
  strandMoves_finishWait h h' inUnit_id ⟨goesOn_finish inUnit_id x, regsKept_finish x⟩

/-! ## Results (R76) -/

theorem exec_longLatencyResult (sid : Nat) (s : State) :
    exec (.longLatencyResult sid) s = .next (s.modStrand sid oldestReturned) := rfl

theorem complete_one {x : Strand} {o : Outst} {w : RegWrite} (h : o.writes = [w]) : x.complete o = x.applyWrite w := by
  rw [Strand.complete, h]
  rfl

theorem complete_two {x : Strand} {o : Outst} {w w' : RegWrite} (h : o.writes = [w, w']) :
    x.complete o = (x.applyWrite w).applyWrite w' := by
  rw [Strand.complete, h]
  rfl

theorem longLatencyResult_gives (h : s.strand sid = some x) {o : Outst} {rest : List Outst} (oldest : x.inflight = o :: rest) :
    Gives (.longLatencyResult sid) s fun t => Alone s t sid ∧ StrandMoves s t sid fun x y =>
      y.inflight = rest ∧ y.pc = x.pc ∧ y.wait = x.wait ∧
      (∀ d v, o.writes = [.g d v] → GetsG x y d v ∧ y.v = x.v ∧ y.ctl = x.ctl) ∧
      (∀ d r, o.writes = [.v d r] → y.g = x.g ∧ (∀ n, y.V n = if n = d then r else x.V n) ∧ y.ctl = x.ctl) ∧
      ∀ d r b, o.writes = [.v d r, .fcr b] → y.g = x.g ∧ (∀ n, y.V n = if n = d then r else x.V n) ∧
        y.ctl = { x.ctl with fcr := x.ctl.fcr ||| b } := by
  refine ⟨_, exec_longLatencyResult sid s, alone_modStrand s sid stays_oldestReturned,
    strandMoves_modStrand h h stays_oldestReturned ?_⟩
  rw [oldestReturned_cons oldest]
  refine ⟨rfl, complete_eq applyWrite_pc x o, complete_eq applyWrite_wait x o, fun d v h => ?_, fun d r h => ?_, fun d r b h => ?_⟩
  · rw [complete_one h]
    exact ⟨getsG_setG x d v, Strand.setG_v x d v, Strand.setG_ctl x d v⟩
  · rw [complete_one h]
    exact ⟨rfl, fun n => Strand.V_setV x d n r, rfl⟩
  · rw [complete_two h]
    exact ⟨rfl, fun n => Strand.V_setV x d n r, rfl⟩

/-! ## Watches (R241) -/

theorem exec_waitaReread (sid : Nat) (s : State) : exec (.waitaReread sid) s = execWaitaReread sid s := rfl

theorem waitaReread_reads (h : s.strand sid = some x) {line : Nat} {ea : Word} {d : BitVec 5}
    (waits : x.wait = some (.waitA line ea d true)) {t : Target} (read : s.strongCheck x .waita ea 8 true true = .ok t s')
    (still : s'.strand sid = some x) :
    Gives (.waitaReread sid) s fun t' => BytesKept s' t' ∧ StrandMoves s t' sid fun x y =>
      GoesOn x y ∧ GetsG x y d (BitVec.ofNat 64 (s'.strongRead t 8)) := by
  have unit := inUnit_setG d (BitVec.ofNat 64 (s'.strongRead t 8))
  refine ⟨s'.finishWait sid fun x => x.setG d (BitVec.ofNat 64 (s'.strongRead t 8)), ?_, (alone_finishWait s' sid unit).bytes,
    strandMoves_finishWait h still unit ⟨goesOn_finish unit x, getsG_setG x d _⟩⟩
  rw [exec_waitaReread, execWaitaReread]
  simp only [h, waits, read]

theorem waitaReread_again (h : s.strand sid = some x) {line : Nat} {ea : Word} {d : BitVec 5}
    (waits : x.wait = some (.waitA line ea d true)) (fails : ∀ t s', s.strongCheck x .waita ea 8 true true ≠ .ok t s') :
    Gives (.waitaReread sid) s fun t => Alone s t sid ∧ StrandMoves s t sid TriesAgain := by
  refine ⟨s.again sid, ?_, alone_again s sid, strandMoves_again h⟩
  rw [exec_waitaReread, execWaitaReread]
  simp only [h, waits]

/-! ## Fences (R218, R225, R226, R245) -/

theorem exec_phaseComplete (sid : Nat) (s : State) : exec (.phaseComplete sid) s = execPhaseComplete sid s := rfl
theorem exec_fenceRComplete (sid : Nat) (s : State) : exec (.fenceRComplete sid) s = execFenceRComplete sid s := rfl
theorem exec_fenceAComplete (sid : Nat) (s : State) : exec (.fenceAComplete sid) s = execFenceAComplete sid s := rfl

/-- A wait that ends when a condition holds, with nothing but the strand changed. -/
theorem fence_gives {i : Instr} {c : Bool} (h : s.strand sid = some x)
    (hx : exec i s = .next (if c then s.finishWait sid id else s)) :
    (c = true → Gives i s fun t => Alone s t sid ∧ StrandMoves s t sid fun x y => GoesOn x y ∧ RegsKept x y) ∧
      (c = false → exec i s = .next s) := by
  refine ⟨fun come => ⟨_, by rw [hx, if_pos come], alone_finishWait s sid inUnit_id, goesOn_finishWait h h⟩, fun missing => ?_⟩
  rw [hx, if_neg (Bool.not_eq_true _ ▸ missing)]

theorem phase_gives (h : s.strand sid = some x) {seen : List (Nat × Nat)} (waits : x.wait = some (.phase seen)) :
    (s.performedUpTo (dieOf x.core) seen = true → Gives (.phaseComplete sid) s fun t =>
        BytesKept s t ∧ (t.core x.core).rcache = [] ∧ StrandMoves s t sid fun x y => GoesOn x y ∧ RegsKept x y) ∧
      (s.performedUpTo (dieOf x.core) seen = false → exec (.phaseComplete sid) s = .next s) := by
  have hx : exec (.phaseComplete sid) s =
      .next (if s.performedUpTo (dieOf x.core) seen then (s.clearRead x.core).finishWait sid id else s) := by
    rw [exec_phaseComplete, execPhaseComplete]
    simp only [h, waits]
  have alone := alone_finishWait (s.clearRead x.core) sid inUnit_id
  refine ⟨fun come => ⟨_, by rw [hx, if_pos come], alone.bytes, ?_, goesOn_finishWait h h⟩, fun missing => ?_⟩
  · rw [State.core, alone.cores, State.clearRead, State.modCore, Assoc.getD_modify_same]
  · rw [hx, if_neg (Bool.not_eq_true _ ▸ missing)]

theorem fenceX_gives (h : s.strand sid = some x) {seen : List (Nat × Nat)} (waits : x.wait = some (.fenceX seen)) :
    (s.performedUpTo (dieOf x.core) seen = true → Gives (.phaseComplete sid) s fun t =>
        Alone s t sid ∧ StrandMoves s t sid fun x y => GoesOn x y ∧ RegsKept x y) ∧
      (s.performedUpTo (dieOf x.core) seen = false → exec (.phaseComplete sid) s = .next s) := by
  refine fence_gives h ?_
  rw [exec_phaseComplete, execPhaseComplete]
  simp only [h, waits]

theorem fenceR_gives (h : s.strand sid = some x) {win : Option Nat} (waits : x.wait = some (.fenceR win)) :
    (s.reflected sid win = true → Gives (.fenceRComplete sid) s fun t =>
        Alone s t sid ∧ StrandMoves s t sid fun x y => GoesOn x y ∧ RegsKept x y) ∧
      (s.reflected sid win = false → exec (.fenceRComplete sid) s = .next s) := by
  refine fence_gives h ?_
  rw [exec_fenceRComplete, execFenceRComplete]
  simp only [h, waits]

theorem fenceA_gives (h : s.strand sid = some x) {die : Nat} {seen : List (Nat × Nat)} (waits : x.wait = some (.fenceA die seen)) :
    (s.performedUpTo die seen = true → Gives (.fenceAComplete sid) s fun t =>
        Alone s t sid ∧ StrandMoves s t sid fun x y => GoesOn x y ∧ RegsKept x y) ∧
      (s.performedUpTo die seen = false → exec (.fenceAComplete sid) s = .next s) := by
  refine fence_gives h ?_
  rw [exec_fenceAComplete, execFenceAComplete]
  simp only [h, waits]

end

end Sys2Proof.Claims

/-!
Locks of granules written (10 R212, 12 R250).
-/
namespace Sys2Proof.Machine

/-- Writing a lock changes the locks and the log of a die. -/
theorem setLock_frame (s : State) (a : Nat) (key : BitVec 4) (sid source : Nat) :
    ∃ l d, s.setLock a key sid source = { s with locks := l, dies := d } := by
  unfold State.setLock
  simp only
  split
  · exact ⟨_, _, rfl⟩
  · exact ⟨_, _, rfl⟩

theorem setLocks_frame (s : State) (a : Nat) (key : BitVec 4) (sid n : Nat) :
    ∃ l d, s.setLocks a key sid n = { s with locks := l, dies := d } := by
  induction n generalizing s a with
  | zero => exact ⟨_, _, rfl⟩
  | succ n ih =>
    obtain ⟨l, d, first⟩ := setLock_frame s a key sid 0
    obtain ⟨l', d', rest⟩ := ih (s.setLock a key sid 0) (a + 32)
    exact ⟨l', d', by rw [State.setLocks, rest, first]⟩

/-- The locks behind the write of one. -/
theorem lockAt_setLock (s : State) (a b : Nat) (key : BitVec 4) (sid source : Nat) :
    (s.setLock a key sid source).lockAt b = if b / 32 = a / 32 then key else s.lockAt b := by
  unfold State.setLock
  simp only
  have granule : b / 32 * 32 = a / 32 * 32 ↔ b / 32 = a / 32 := by omega
  split
  next same =>
    split
    next here => rw [← same, State.lockAt, State.lockAt, here, Nat.mul_div_cancel _ (by decide)]
    next => rfl
  next =>
    simp only [State.lockAt, State.modDie_locks]
    split
    next zero =>
      simp only [Assoc.getD, Assoc.get_erase, granule]
      split
      next => exact zero.symm
      next => rfl
    next =>
      by_cases here : b / 32 = a / 32
      · rw [if_pos here, here, Assoc.getD, Assoc.get_set_same, Option.getD_some]
      · rw [if_neg here, Assoc.getD_set_other _ _ _ _ _ (mt granule.mp here)]

/-- The locks behind the write of n of them. -/
theorem lockAt_setLocks (s : State) (a g : Nat) (key : BitVec 4) (sid n : Nat) :
    (s.setLocks a key sid n).lockAt (32 * g) = if a / 32 ≤ g ∧ g < a / 32 + n then key else s.lockAt (32 * g) := by
  induction n generalizing s a with
  | zero => exact (if_neg (by omega)).symm
  | succ n ih =>
    rw [State.setLocks, ih, lockAt_setLock, Nat.mul_div_cancel_left g (by decide), Nat.add_div_right a (by decide)]
    by_cases first : g = a / 32
    · rw [if_neg (by omega), if_pos first, if_pos (by omega)]
    · rw [if_neg first]
      exact if_congr (by omega) rfl rfl

end Sys2Proof.Machine

namespace Sys2Proof.Claims
open Machine

section
variable {s : State} {sid : Nat} {x : Strand}

theorem exec_tagSetComplete (sid : Nat) (s : State) : exec (.tagSetComplete sid) s = execTagSetComplete sid s := rfl

/-- A strand that waits for anything but a watch is as it was when writes have been performed. -/
theorem Performed.strand_eq {t : State} (h : Performed s t) (here : s.strand sid = some x)
    (waits : ∀ l ea d f, x.wait ≠ some (.waitA l ea d f)) : t.strand sid = some x := by
  have woken := h.strand sid
  rw [here] at woken
  cases after : t.strand sid with
  | none => rw [after] at woken; cases woken
  | some y =>
    rw [after] at woken
    cases woken with
    | some woken => rw [woken.eq_of_wait waits]

theorem countLines_mem (s : State) (die : Nat) (lines : List Nat) : (s.countLines die lines).mem = s.mem := by
  have one (t : State) (line : Nat) : (t.countAccess die line).mem = t.mem := by
    unfold State.countAccess
    split
    · split <;> rfl
    · rfl
  exact List.foldlRecOn (motive := fun t : State => t.mem = s.mem) lines _ rfl fun t ht line _ => (one t line).trans ht

/-- A checked tag.set performs the writes before it, and writes the locks behind them (R255). -/
theorem tagWrite_performed (s : State) (x : Strand) (a n : Nat) (key : BitVec 4) : ∃ u, Performed s u ∧
    (s.tagWrite x a n key).mem = (s.flushOf x).mem ∧ (s.tagWrite x a n key).locks = (u.setLocks a key x.sid.toNat n).locks ∧
      ∀ sid, (s.tagWrite x a n key).strand sid = u.strand sid := by
  have performed := (performed_flushOf s x).trans (performed_countLines _ (dieOf x.core) (linesIn a (32 * n)))
  have bytes := countLines_mem (s.flushOf x) (dieOf x.core) (linesIn a (32 * n))
  refine ⟨_, performed, ?_⟩
  unfold State.tagWrite
  generalize (s.flushOf x).countLines (dieOf x.core) (linesIn a (32 * n)) = u at bytes
  obtain ⟨l, d, frame⟩ := setLocks_frame u a key x.sid.toNat n
  rw [frame]
  exact ⟨bytes, rfl, fun sid => rfl⟩

theorem tagSetComplete_writes (h : s.strand sid = some x) {ea len : Word} (waits : x.wait = some (.tagSet ea len)) {pa n : Nat}
    (passes : tagCheck x ea len = .ok (pa, n)) :
    Gives (.tagSetComplete sid) s fun t =>
        BytesKept (s.flushOf x) t ∧ (StrandMoves s t sid fun x y => GoesOn x y ∧ RegsKept x y) ∧
        ∀ g, t.lockAt (32 * g) = if pa / 32 ≤ g ∧ g < pa / 32 + n then ea.extractLsb' 56 4 else s.lockAt (32 * g) := by
  obtain ⟨u, performed, bytes, locks, strands⟩ := tagWrite_performed s x pa n (keyOf ea)
  have alone := alone_finishWait (s.tagWrite x pa n (keyOf ea)) sid inUnit_id
  refine ⟨(s.tagWrite x pa n (keyOf ea)).finishWait sid id, ?_, fun b => ?_, goesOn_finishWait h ?_, fun g => ?_⟩
  · rw [exec_tagSetComplete, execTagSetComplete]
    simp only [h, waits, passes]
  · rw [alone.bytes, bytes]
  · rw [strands]
    exact Performed.strand_eq performed h (by simp [waits])
  · rw [State.lockAt, alone.locks, locks]
    refine (lockAt_setLocks u pa g (keyOf ea) x.sid.toNat n).trans ?_
    rw [State.lockAt, performed.locks]
    rfl

theorem tagSetComplete_again (h : s.strand sid = some x) {ea len : Word} (waits : x.wait = some (.tagSet ea len))
    {c : BitVec 8 × Word} (fails : tagCheck x ea len = .error c) :
    Gives (.tagSetComplete sid) s fun t => Alone s t sid ∧ StrandMoves s t sid TriesAgain := by
  refine ⟨s.again sid, ?_, alone_again s sid, strandMoves_again h⟩
  rw [exec_tagSetComplete, execTagSetComplete]
  simp only [h, waits, fails]

end

end Sys2Proof.Claims

/-!
The translation engine's answer to xreq (12 R252, log 45).
-/
namespace Sys2Proof.Machine

/-! ## The entries of a strand -/

theorem getD_toList_ext (v : Vector Extent 16) {i : Nat} (h : i < 16) : v.toList.getD i 0 = v[i] := by
  rw [List.getD_eq_getElem _ _ (by simpa using h)]
  simp

theorem indexOf_eq_none {v : Vector Extent 16} {f : Extent → Bool} (h : ∀ i (hi : i < 16), f v[i] = false) :
    indexOf v.toList f = none := by
  unfold indexOf
  rw [List.find?_eq_none]
  intro i mem
  have hi : i < 16 := by simpa using mem
  rw [getD_toList_ext v hi, h i hi]
  exact Bool.false_ne_true

theorem indexOf_eq_some {v : Vector Extent 16} {f : Extent → Bool} {i : Nat} (hi : i < 16) (h : f v[i] = true)
    (below : ∀ j (hj : j < i), f (v[j]'(by omega)) = false) : indexOf v.toList f = some i := by
  unfold indexOf
  rw [List.find?_range_eq_some]
  refine ⟨by rw [getD_toList_ext v hi, h], by simpa using hi, fun j hj => ?_⟩
  rw [getD_toList_ext v (by omega), below j hj]
  rfl

/-- An entry that the engine builds is not revoked. -/
theorem mkExtent_revoked (vbase length pbase die rights : Nat) (host : Bool) :
    (mkExtent vbase length pbase die rights host).revoked = false := by
  have flags : (if host then 2 ^ 79 else 0) + 2 ^ 77 < 2 ^ 80 := by split <;> decide
  have fields : pbase % 2 ^ 56 * 2 ^ 200 + die % 16 * 2 ^ 196 + rights % 16 * 2 ^ 192 + vbase % 2 ^ 56 * 2 ^ 136
      + length % 2 ^ 56 * 2 ^ 80 + (if host then 2 ^ 79 else 0) + 2 ^ 77 =
      2 ^ 80 * (pbase % 2 ^ 56 * 2 ^ 120 + die % 16 * 2 ^ 116 + rights % 16 * 2 ^ 112 + vbase % 2 ^ 56 * 2 ^ 56 + length % 2 ^ 56) +
        ((if host then 2 ^ 79 else 0) + 2 ^ 77) := by
    ring
  rw [mkExtent, Extent.revoked, BitVec.getLsbD_ofNat, fields, Nat.testBit_two_pow_mul_add _ flags, if_pos (by decide)]
  cases host <;> decide

theorem entryOver_revoked (s : State) (g : Page) (vbase vend rights : Nat) : (s.entryOver g vbase vend rights).revoked = false :=
  mkExtent_revoked ..

/-- The word that reports an entry that is not revoked (R252): its index, and its rights above it. -/
theorem report_eq {e : Extent} (live : e.revoked = false) {i : Nat} (hi : i < 16) :
    e.report i = BitVec.ofNat 64 i ||| (e.extractLsb' 192 4).setWidth 64 <<< 8 := by
  have above (k : Nat) : e.toNat / 2 ^ (192 + k) = e.toNat / 2 ^ 192 / 2 ^ k := by rw [Nat.pow_add, Nat.div_div_eq_div_mul]
  have rights : (e.extractLsb' 192 4).toNat = e.toNat / 2 ^ 192 % 16 := by rw [BitVec.extractLsb'_toNat, Nat.shiftRight_eq_div_pow]
  rw [Extent.report, live, if_neg Bool.false_ne_true, above 1, above 2, above 3]
  apply BitVec.eq_of_toNat_eq
  rw [BitVec.toNat_or, BitVec.toNat_shiftLeft, BitVec.toNat_setWidth, rights, BitVec.toNat_ofNat, BitVec.toNat_ofNat,
    Nat.shiftLeft_eq]
  generalize e.toNat / 2 ^ 192 = m
  have sum : i + m % 2 * 256 + m / 2 ^ 1 % 2 * 512 + m / 2 ^ 2 % 2 * 1024 + m / 2 ^ 3 % 2 * 2048 + 0 = 2 ^ 8 * (m % 16) + i := by omega
  have small : 2 ^ 8 * (m % 16) < 2 ^ 64 := by omega
  rw [sum, Nat.mod_eq_of_lt (show m % 16 < 2 ^ 64 by omega), Nat.mul_comm _ (2 ^ 8), Nat.mod_eq_of_lt small,
    Nat.mod_eq_of_lt (show i < 2 ^ 64 by omega), Nat.mod_eq_of_lt (show 2 ^ 8 * (m % 16) + i < 2 ^ 64 by omega),
    Nat.two_pow_add_eq_or_of_lt (by omega), Nat.or_comm]

/-! ## The run of pages -/

theorem run_cons (s : State) (p limit : Nat) (g : Page) (n : Nat) : ∃ t, s.run p limit g n = g :: t := by
  cases n with
  | zero => exact ⟨[], rfl⟩
  | succ n =>
    rw [State.run]
    split
    · exact ⟨_, rfl⟩
    · split
      · exact ⟨_, rfl⟩
      · split <;> exact ⟨_, rfl⟩

/-- Noting pages changes what the hub knows of pages. -/
theorem notePages_frame (s : State) (p : Nat) (l : List Page) :
    ∃ n, s.notePages p l = { s with hub := { s.hub with pages := n } } := by
  refine List.foldlRecOn (motive := fun t : State => ∃ n, t = { s with hub := { s.hub with pages := n } }) l _ ⟨s.hub.pages, rfl⟩ ?_
  rintro t ⟨n, rfl⟩ g -
  split
  · exact ⟨n, rfl⟩
  · exact ⟨_, rfl⟩

end Sys2Proof.Machine

namespace Sys2Proof.Claims
open Machine

section
variable {s : State} {sid : Nat} {x : Strand} {d : BitVec 5} {va req : Word} {g : Page}

/-! ## What the engine answers (R252) -/

/-- No page that an entry may lie over maps the address. -/
theorem xlate_unmapped (uncovered : ∀ i (h : i < 16), Extent.covers x.ext[i] va = false)
    (missing : 2 ^ 60 ≤ va.toNat ∨ s.openPage x.pid (va.toNat % 2 ^ 56) = none) : s.xlate x va req = (-2, none) := by
  have run : s.xlateRun x va req = [] := by
    unfold State.xlateRun
    rcases missing with high | absent
    · exact if_pos (by omega)
    · simp only [absent, ite_self]
  have other : indexOf x.ext.toList (fun e => Extent.covers e va) = none := indexOf_eq_none uncovered
  rw [State.xlate]
  simp only [other, run]

/-- A page maps the address: the run of pages from it gives the rights, and the lowest entry that is not valid is written. -/
theorem xlate_mapped (uncovered : ∀ i (h : i < 16), Extent.covers x.ext[i] va = false) (low : va.toNat < 2 ^ 60)
    (page : s.openPage x.pid (va.toNat % 2 ^ 56) = some g) {l : List Page} {r : Nat}
    (run : l = s.run x.pid (xlateLimit x (va.toNat % 2 ^ 56) req.toNat) g runFuel) (rights : r = grant l (req.toNat / 2 ^ 60)) :
    s.xlate x va req = if r = 0 then (-3, none) else
      (indexOf x.ext.toList fun e => !Extent.valid e).elim (-1, none) fun i =>
        ((s.entryOver g (va.toNat % 2 ^ 56 / 64 * 64) (runEnd (xlateLimit x (va.toNat % 2 ^ 56) req.toNat) l) r).report i,
          some (i, s.entryOver g (va.toNat % 2 ^ 56 / 64 * 64) (runEnd (xlateLimit x (va.toNat % 2 ^ 56) req.toNat) l) r)) := by
  obtain ⟨t, cons⟩ := run_cons s x.pid (xlateLimit x (va.toNat % 2 ^ 56) req.toNat) g runFuel
  have whole : s.xlateRun x va req = g :: t := by
    unfold State.xlateRun
    rw [if_neg (by omega)]
    simp only [page, cons]
  rw [cons] at run
  subst run rights
  have other : indexOf x.ext.toList (fun e => Extent.covers e va) = none := indexOf_eq_none uncovered
  rw [State.xlate]
  simp only [other, whole]
  refine if_congr Iff.rfl rfl ?_
  cases indexOf x.ext.toList (fun e => !Extent.valid e) <;> rfl

/-! ## The event -/

/-- The strand with the engine's answer: the entry written, and the word in G[d]. -/
def answered (d : BitVec 5) (a : Word × Option (Nat × Extent)) (x : Strand) : Strand :=
  (match a.2 with
    | some (i, e) => { x with ext := x.ext.setIfInBounds i e }
    | none => x).setG d a.1

theorem inUnit_answered (d : BitVec 5) (a : Word × Option (Nat × Extent)) : InUnit (answered d a) := by
  obtain ⟨v, _ | ⟨i, e⟩⟩ := a <;> refine { live := ?_, sid := ?_, pc := ?_, hints := ?_ } <;> intro x <;> simp [answered]

theorem getsG_answered (d : BitVec 5) (a : Word × Option (Nat × Extent)) (x : Strand) : GetsG x (answered d a x).finish d a.1 := by
  obtain ⟨v, _ | ⟨i, e⟩⟩ := a
  · exact getsG_setG x d v
  · exact getsG_setG { x with ext := x.ext.setIfInBounds i e } d v

theorem ext_answered (d : BitVec 5) (v : Word) (i : Nat) (e : Extent) (x : Strand) :
    (answered d (v, some (i, e)) x).finish.ext = x.ext.setIfInBounds i e := Strand.setG_ext { x with ext := x.ext.setIfInBounds i e } d v

/-- What the engine changes besides the strand: it notes the pages of an entry, or counts a request for configuration space. -/
def answering (s : State) (x : Strand) (va req : Word) : State :=
  if (s.xlate x va req).2.isSome then s.notePages x.pid (s.xlateRun x va req)
  else if va.toNat / 2 ^ 60 = 0 ∧ (s.pageAt x.pid va.toNat).isSome ∧ (s.openPage x.pid va.toNat).isNone then s.deny x.pid else s

theorem exec_translationAnswer (h : s.strand sid = some x) (waits : x.wait = some (.xreq d va req)) :
    exec (.translationAnswer sid) s = .next ((answering s x va req).finishWait sid (answered d (s.xlate x va req))) := by
  have run : exec (.translationAnswer sid) s = execTranslationAnswer sid s := rfl
  rw [run, execTranslationAnswer]
  simp only [h, waits] <;> rfl

theorem pageAt_mod (s : State) (p va : Nat) : s.pageAt p (va % 2 ^ 56) = s.pageAt p va := by
  rw [State.pageAt, State.pageAt, Nat.mod_mod]

theorem openPage_mod (s : State) (p va : Nat) : s.openPage p (va % 2 ^ 56) = s.openPage p va := by
  rw [State.openPage, State.openPage, pageAt_mod]

/-- An answer with no entry, and nothing counted: the strand goes on with its word alone. -/
theorem translationAnswer_word (h : s.strand sid = some x) (waits : x.wait = some (.xreq d va req)) {v : Word}
    (answer : s.xlate x va req = (v, none))
    (uncounted : ¬ (va.toNat < 2 ^ 60 ∧ (s.pageAt x.pid (va.toNat % 2 ^ 56)).isSome ∧
      (s.openPage x.pid (va.toNat % 2 ^ 56)).isNone)) :
    Gives (.translationAnswer sid) s fun t =>
      Alone s t sid ∧ StrandMoves s t sid fun x y => GoesOn x y ∧ GetsG x y d v ∧ y.ext = x.ext := by
  have same : answering s x va req = s := by
    rw [answering, answer, if_neg (by simp), if_neg]
    rintro ⟨low, mapped⟩
    rw [← pageAt_mod s x.pid va.toNat, ← openPage_mod s x.pid va.toNat] at mapped
    exact uncounted ⟨by omega, mapped⟩
  have unit := inUnit_answered d (v, none)
  refine ⟨_, (exec_translationAnswer h waits).trans (by rw [same, answer]), alone_finishWait s sid unit, strandMoves_finishWait h h unit
    ⟨goesOn_finish unit x, getsG_answered d (v, none) x, Strand.setG_ext x d v⟩⟩

/-- A request for configuration space is counted, and answered as one that no page maps (R388). -/
theorem translationAnswer_denied (h : s.strand sid = some x) (waits : x.wait = some (.xreq d va req)) {v : Word}
    (answer : s.xlate x va req = (v, none)) (low : va.toNat < 2 ^ 60) (page : s.pageAt x.pid (va.toNat % 2 ^ 56) = some g)
    (config : s.openPage x.pid (va.toNat % 2 ^ 56) = none) :
    Gives (.translationAnswer sid) s fun t => BytesKept s t ∧ Counts s t x.pid .cfgDeny 1 ∧
      StrandMoves s t sid fun x y => GoesOn x y ∧ GetsG x y d v ∧ y.ext = x.ext := by
  have counted : answering s x va req = s.deny x.pid := by
    rw [answering, answer, if_neg (by simp), if_pos]
    rw [← pageAt_mod s x.pid va.toNat, ← openPage_mod s x.pid va.toNat, page, config]
    exact ⟨by omega, rfl, rfl⟩
  have unit := inUnit_answered d (v, none)
  have alone := alone_finishWait (s.deny x.pid) sid unit
  refine ⟨_, (exec_translationAnswer h waits).trans (by rw [counted, answer]), alone.bytes, ?_, strandMoves_finishWait h h unit
    ⟨goesOn_finish unit x, getsG_answered d (v, none) x, Strand.setG_ext x d v⟩⟩
  rw [Counts, State.part, State.part, alone.hub, State.deny, State.count, State.modPart, State.modHub, Assoc.getD_modify_same, bump,
    Assoc.getD_modify_same, BitVec.toNat_ofNat]
  exact Nat.mod_eq_of_lt (lt_of_le_of_lt (Nat.min_le_right _ _) (by decide))

/-- An answer with an entry: it stands at its index, and the hub knows the pages below it. -/
theorem translationAnswer_entry (h : s.strand sid = some x) (waits : x.wait = some (.xreq d va req)) {i : Nat} {e : Extent}
    (hi : i < 16) (live : e.revoked = false) (answer : s.xlate x va req = (e.report i, some (i, e))) :
    Gives (.translationAnswer sid) s fun t => BytesKept s t ∧ t.cores = s.cores ∧ t.quads = s.quads ∧ t.dies = s.dies ∧
      t.locks = s.locks ∧ t.hub = { s.hub with pages := t.hub.pages } ∧
      ∃ y, t.strand sid = some y ∧ GoesOn x y ∧ (∀ j (hj : j < 16), j ≠ i → y.ext[j] = x.ext[j]) ∧ y.ext[i] = e ∧
        GetsG x y d (BitVec.ofNat 64 i ||| ((y.ext[i]).extractLsb' 192 4).setWidth 64 <<< 8) := by
  obtain ⟨n, noted⟩ := notePages_frame s x.pid (s.xlateRun x va req)
  have same : answering s x va req = { s with hub := { s.hub with pages := n } } := by
    rw [answering, answer, if_pos (by simp), noted]
  have unit := inUnit_answered d (e.report i, some (i, e))
  have alone := alone_finishWait { s with hub := { s.hub with pages := n } } sid unit
  refine ⟨_, (exec_translationAnswer h waits).trans (by rw [same, answer]), alone.bytes, alone.cores, alone.quads, alone.dies,
    alone.locks, by rw [alone.hub], (answered d (e.report i, some (i, e)) x).finish,
    State.strand_modStrand_same h (unit.live x) (unit.sid x), goesOn_finish unit x, fun j hj other => ?_, ?_, ?_⟩
  · simp only [ext_answered, Vector.getElem_setIfInBounds_ne _ other.symm]
  · simp only [ext_answered, Vector.getElem_setIfInBounds_self]
  · simp only [ext_answered, Vector.getElem_setIfInBounds_self, ← report_eq live hi]
    exact getsG_answered d (e.report i, some (i, e)) x

end

end Sys2Proof.Claims

/-!
Events that end a wait (05 R76, 11 R218, R225, R226, 12 R241, R245, R250, R252).
-/
namespace Sys2Proof.Claims
open Machine

section
variable {s : State} {sid : Nat} {x : Strand} {d : BitVec 5} {va req : Word} {g : Page} {p v : Nat}

theorem openPage_none (h : s.pageAt p v = none) : s.openPage p v = none := by rw [State.openPage, h]; rfl

theorem openPage_config (h : s.pageAt p v = some g) (config : spaceOf g.base = .config) : s.openPage p v = none := by
  rw [State.openPage, h]
  simp [Option.filter, config]

theorem openPage_some (h : s.pageAt p v = some g) (space : spaceOf g.base ≠ .config) : s.openPage p v = some g := by
  rw [State.openPage, h]
  simp [Option.filter, space]

/-- No page maps the address of an xreq. -/
theorem xreq_unmapped (h : s.strand sid = some x) (waits : x.wait = some (.xreq d va req))
    (uncovered : ∀ i (h : i < 16), Extent.covers x.ext[i] va = false)
    (missing : 2 ^ 60 ≤ va.toNat ∨ s.pageAt x.pid (va.toNat % 2 ^ 56) = none) :
    Gives (.translationAnswer sid) s fun t =>
      Alone s t sid ∧ StrandMoves s t sid fun x y => GoesOn x y ∧ GetsG x y d (-2) ∧ y.ext = x.ext := by
  refine translationAnswer_word h waits (xlate_unmapped uncovered (missing.imp_right openPage_none)) ?_
  rintro ⟨low, mapped, -⟩
  rcases missing with high | absent
  · omega
  · rw [absent] at mapped
    exact Bool.false_ne_true mapped

/-- A page over configuration space maps it. -/
theorem xreq_config (h : s.strand sid = some x) (waits : x.wait = some (.xreq d va req))
    (uncovered : ∀ i (h : i < 16), Extent.covers x.ext[i] va = false) (low : va.toNat < 2 ^ 60)
    (page : s.pageAt x.pid (va.toNat % 2 ^ 56) = some g) (config : spaceOf g.base = .config) :
    Gives (.translationAnswer sid) s fun t => BytesKept s t ∧ Counts s t x.pid .cfgDeny 1 ∧
      StrandMoves s t sid fun x y => GoesOn x y ∧ GetsG x y d (-2) ∧ y.ext = x.ext :=
  have closed := openPage_config page config
  translationAnswer_denied h waits (xlate_unmapped uncovered (.inr closed)) low page closed

/-- A page that an entry may lie over maps it. -/
theorem xreq_mapped (h : s.strand sid = some x) (waits : x.wait = some (.xreq d va req))
    (uncovered : ∀ i (h : i < 16), Extent.covers x.ext[i] va = false) (low : va.toNat < 2 ^ 60)
    (page : s.pageAt x.pid (va.toNat % 2 ^ 56) = some g) (space : spaceOf g.base ≠ .config) {l : List Page} {r : Nat}
    (run : l = s.run x.pid (xlateLimit x (va.toNat % 2 ^ 56) req.toNat) g runFuel) (rights : r = grant l (req.toNat / 2 ^ 60)) :
    (r = 0 → Gives (.translationAnswer sid) s fun t =>
      Alone s t sid ∧ StrandMoves s t sid fun x y => GoesOn x y ∧ GetsG x y d (-3) ∧ y.ext = x.ext) ∧
    (r ≠ 0 → (∀ i (h : i < 16), Extent.valid x.ext[i] = true) → Gives (.translationAnswer sid) s fun t =>
      Alone s t sid ∧ StrandMoves s t sid fun x y => GoesOn x y ∧ GetsG x y d (-1) ∧ y.ext = x.ext) ∧
    (∀ i (h : i < 16), r ≠ 0 → Extent.valid x.ext[i] = false →
      (∀ j (_ : j < i), Extent.valid (x.ext[j]'(by omega)) = true) →
      Gives (.translationAnswer sid) s fun t => BytesKept s t ∧ t.cores = s.cores ∧ t.quads = s.quads ∧ t.dies = s.dies ∧
        t.locks = s.locks ∧ t.hub = { s.hub with pages := t.hub.pages } ∧
        StrandMoves s t sid fun x y => GoesOn x y ∧
          (∀ j (hj : j < 16), j ≠ i → y.ext[j] = x.ext[j]) ∧
          y.ext[i] = s.entryOver g (va.toNat % 2 ^ 56 / 64 * 64)
            (runEnd (xlateLimit x (va.toNat % 2 ^ 56) req.toNat) l) r ∧
          GetsG x y d (BitVec.ofNat 64 i ||| ((y.ext[i]).extractLsb' 192 4).setWidth 64 <<< 8)) := by
  have mapped := openPage_some page space
  have answer := xlate_mapped uncovered low mapped run rights
  have uncounted : ¬ (va.toNat < 2 ^ 60 ∧ (s.pageAt x.pid (va.toNat % 2 ^ 56)).isSome ∧
      (s.openPage x.pid (va.toNat % 2 ^ 56)).isNone) := by
    rw [mapped]
    exact fun h => Bool.false_ne_true h.2.2
  refine ⟨fun refused => ?_, fun given full => ?_, fun i hi given free below => ?_⟩
  · exact translationAnswer_word h waits (answer.trans (if_pos refused)) uncounted
  · have index : indexOf x.ext.toList (fun e => !Extent.valid e) = none :=
      indexOf_eq_none fun i hi => by rw [full i hi]; rfl
    rw [if_neg given, index] at answer
    exact translationAnswer_word h waits answer uncounted
  · have index : indexOf x.ext.toList (fun e => !Extent.valid e) = some i :=
      indexOf_eq_some hi (by rw [free]; rfl) fun j hj => by rw [below j hj]; rfl
    rw [if_neg given, index] at answer
    rw [Option.elim_some] at answer
    obtain ⟨t, gives, bytes, cores, quads, dies, locks, hub, y, hy, moves⟩ :=
      translationAnswer_entry h waits hi (entryOver_revoked ..) answer
    exact ⟨t, gives, bytes, cores, quads, dies, locks, hub, x, y, h, hy, moves⟩

end

/-- Settles O45: each event finds the strand at its wait, and lets it go on with what has come. -/
theorem waitEvents : Obligations.WaitEvents := by
  unfold Obligations.WaitEvents
  intro s sid x h
  refine ⟨fun o rest oldest => longLatencyResult_gives h oldest,
    fun line ea d waits => ⟨fun t s' read still => waitaReread_reads h waits read still, waitaReread_again h waits⟩,
    fun seen waits => phase_gives h waits, fun seen waits => fenceX_gives h waits, fun win waits => fenceR_gives h waits,
    fun die seen waits => fenceA_gives h waits,
    fun ea len waits => ⟨fun pa n passes => tagSetComplete_writes h waits passes, fun c fails => tagSetComplete_again h waits fails⟩,
    fun d va req waits uncovered => ⟨xreq_unmapped h waits uncovered, fun g => xreq_config h waits uncovered,
      fun g l r low page space run rights => xreq_mapped h waits uncovered low page space run rights⟩⟩

end Sys2Proof.Claims

/-!
Results over the units of any format (01 R12 to R14, 06 R101 to R104): V[d] as an instruction that maps units leaves it, int4's bytes
included, and what element-wise arithmetic, logic and shifts put there (06 R105, R106).
-/
namespace Sys2Proof.Claims
open Machine

/-! ## The result register in any format (R12, R44, R101) -/

/-- The units of a shape that fits are whole bytes, and no more than the registers have. -/
theorem unit_bytes_of_fits {t : BitVec 4} {n : Nat} (h : n * Wf.tagHalf t ≤ 512) :
    8 * (unitsOf t n * widthOf t / 8) = widthOf t * unitsOf t n ∧ unitsOf t n * widthOf t / 8 ≤ 256 := by
  by_cases ht : t = 12
  · subst ht
    have small : n ≤ 512 := by simpa [Wf.tagHalf] using h
    simp only [unitsOf, widthOf, if_true]
    omega
  · have units : unitsOf t n = n := if_neg ht
    rw [units]
    exact bytes_of_fits h ht

/-- The register of a result over the units of the shape. -/
theorem lanes_units {e : State} {t : BitVec 4} (d : BitVec 4) (k : BitVec 3) (scale : Word) (f : Nat → Nat → Nat × Fl)
    (h : Fits e (Wf.tagHalf t)) :
    Lanes (e.st.result d k t scale f).1 (e.st.V d) (e.st.K k) t scale (unitsOf t (e.st.rows * e.st.cols)) (widthOf t) f := by
  obtain ⟨whole, room⟩ := unit_bytes_of_fits h
  exact lanes_mkVReg _ _ t scale f whole room

/-- The whole effect of an instruction that writes such a result, having drawn from the generator. -/
theorem vectorEffect_result {e : State} (draws : Nat) (d : BitVec 4) (k : BitVec 3) {t : BitVec 4} (scale : Word)
    {f g : Nat → Nat → Nat × Fl} (h : Fits e (Wf.tagHalf t)) (hfg : ∀ i j, f i j = g i j) :
    VectorEffect e (vwritten e draws d (e.st.result d k t scale f).1 (e.st.result d k t scale f).2) d (e.st.K k) t scale
      (unitsOf t (e.st.rows * e.st.cols)) (widthOf t) g draws := by
  obtain rfl : f = g := funext₂ hfg
  exact vectorEffect_vwritten e draws d _ _ (lanes_units d k scale f h) (gathers_result e.st d k t scale f)

/-- The same without a draw. -/
theorem vwrite_result {e : State} (d : BitVec 4) (k : BitVec 3) {t : BitVec 4} (scale : Word) {f g : Nat → Nat → Nat × Fl}
    (h : Fits e (Wf.tagHalf t)) (hfg : ∀ i j, f i j = g i j) :
    ∃ u, e.vwrite d (e.st.result d k t scale f) = .next u ∧
      VectorEffect e u d (e.st.K k) t scale (unitsOf t (e.st.rows * e.st.cols)) (widthOf t) g 0 :=
  ⟨_, vwrite_eq .., vectorEffect_result 0 d k scale h hfg⟩

/-- A format that is not int4 has as many units as the shape has elements. -/
theorem unitsOf_of_ne {t : BitVec 4} (h : t ≠ 12) (n : Nat) : unitsOf t n = n := if_neg h

/-! ## The scale field (R101) -/

theorem keepScale_eq (e : State) (a : BitVec 4) : keepScale (e.st.V a) = scaleFrom e a := by
  unfold keepScale scaleFrom tagOf
  simp only [← BitVec.toNat_inj]
  rfl

/-- Only be4 and bi8 have one. -/
theorem scaleFrom_eq_zero {e : State} {a : BitVec 4} (h : tagOf e a ∈ [1, 2, 3, 4, 7, 8, 9, 10]) : scaleFrom e a = 0 := by
  refine if_neg ?_
  rintro (block | block) <;> simp [block] at h

/-! ## Element-wise results (R105) -/

/-- An instruction over the elements of V[a], of a second operand and of V[d], whose result takes the format of V[a]. -/
theorem vwrite_lanes {e : State} (d a : BitVec 4) (k : BitVec 3) (b : Nat → Nat) {op : Nat → Nat → Nat → Nat × Fl} {g : Nat → Nat × Fl}
    {scale : Word} (h : Fits e (Wf.tagHalf (e.st.V a).tag)) (hs : scaleFrom e a = scale)
    (hg : ∀ i, op (unitAt (e.st.V a) (widthIn e a) i) (b i) (unitAt (e.st.V d) (widthIn e a) i) = g i) :
    ∃ u, e.vwrite d (e.st.lanes d a k b op) = .next u ∧
      VectorEffect e u d (e.st.K k) (e.st.V a).tag scale (unitsIn e a) (widthIn e a) (fun i _ => g i) 0 := by
  subst hs
  rw [Strand.lanes, keepScale_eq]
  refine vwrite_result d k _ h fun i _ => ?_
  rw [← hg, unitAt_eq_elem, unitAt_eq_elem, widthIn]

/-- The elements of a second register of the same format. -/
theorem lane_eq (e : State) (b a : BitVec 4) : e.st.lane b a = fun i => unitAt (e.st.V b) (widthIn e a) i := by
  funext i
  rw [unitAt_eq_elem, Strand.lane, widthIn]

section
variable {i : Instr} {iv : BitVec 2} {d a b : BitVec 4} {k : BitVec 3} {sc : BitVec 4} {s : State}

/-- Arithmetic of two sources. -/
theorem completesWhen_arith2 {acc : List Nat} {signed satOk : Bool} {fi : IntOp} {ff : FloatOp}
    (hx : exec i s = arith2 (encode i) iv d a b k sc acc signed satOk fi ff s) :
    CompletesWhen i (infoR (encode i) iv sc (vs [d, a, b] ++ ks [k])) s
      (fun e => Ready e a acc ∧ tagOf e b = tagOf e a)
      fun e t => VectorEffect e t d (e.st.K k) (e.st.V a).tag (scaleFrom e a) (unitsIn e a) (widthIn e a)
        (fun i _ => arithElem (e.st.V a).tag signed (satOk && e.st.satOn) e.st.rm.plain e.st.fz fi ff
          (unitAt (e.st.V a) (widthIn e a) i) (unitAt (e.st.V b) (widthIn e a) i) (unitAt (e.st.V d) (widthIn e a) i)) 0 := by
  refine completesWhen_of_vguard (hx.trans (arith2.eq_def ..)) fun e _ ⟨⟨htag, h15, hfit⟩, hsame⟩ => ⟨?_, ?_⟩
  · simpa using ⟨need_eq_none htag h15, same_eq_none hsame h15, fits_eq_none hfit⟩
  · dsimp only
    rw [lane_eq]
    exact vwrite_lanes d a k _ hfit rfl fun _ => rfl

/-- Multiply and accumulate. -/
theorem completesWhen_arith3 {fi : IntOp} {ff : FloatOp} (hx : exec i s = arith3 (encode i) iv d a b k sc fi ff s) :
    CompletesWhen i (infoR (encode i) iv sc (vs [d, a, b] ++ ks [k])) s
      (fun e => Ready e a [1, 2, 3, 4, 7, 8, 9] ∧ tagOf e b = tagOf e a ∧ tagOf e d = tagOf e a)
      fun e t => VectorEffect e t d (e.st.K k) (e.st.V a).tag 0 (unitsIn e a) (widthIn e a)
        (fun i _ => arithElem (e.st.V a).tag true e.st.satOn e.st.rm.plain e.st.fz fi ff
          (unitAt (e.st.V a) (widthIn e a) i) (unitAt (e.st.V b) (widthIn e a) i) (unitAt (e.st.V d) (widthIn e a) i)) 0 := by
  refine completesWhen_of_vguard (hx.trans (arith3.eq_def ..)) fun e _ ⟨⟨htag, h15, hfit⟩, hb, hd⟩ => ⟨?_, ?_⟩
  · simpa using ⟨same_eq_none hd h15, need_eq_none htag h15, same_eq_none hb h15, fits_eq_none hfit⟩
  · dsimp only
    rw [lane_eq]
    exact vwrite_lanes d a k _ hfit (scaleFrom_eq_zero (List.mem_append_left [10] htag)) fun _ => rfl

/-- Arithmetic of one source. -/
theorem completesWhen_arith1 {acc : List Nat} {fi : IntOp} {ff : FloatOp}
    (hx : exec i s = arith1 (encode i) iv d a k sc acc fi ff s) (hacc : acc ⊆ [1, 2, 3, 4, 7, 8, 9, 10]) :
    CompletesWhen i (infoR (encode i) iv sc (vs [d, a] ++ ks [k])) s (fun e => Ready e a acc)
      fun e t => VectorEffect e t d (e.st.K k) (e.st.V a).tag 0 (unitsIn e a) (widthIn e a)
        (fun i _ => arithElem (e.st.V a).tag true e.st.satOn e.st.rm.plain e.st.fz fi ff
          (unitAt (e.st.V a) (widthIn e a) i) 0 (unitAt (e.st.V d) (widthIn e a) i)) 0 := by
  refine completesWhen_of_vguard (hx.trans (arith1.eq_def ..)) fun e _ ⟨htag, h15, hfit⟩ => ⟨?_, ?_⟩
  · simpa using ⟨need_eq_none htag h15, fits_eq_none hfit⟩
  · exact vwrite_lanes d a k _ hfit (scaleFrom_eq_zero (hacc htag)) fun _ => rfl

/-- Logic and shifts: f is what the bits of an element become. -/
theorem completesWhen_bits2 {acc : List Nat} {f : Nat → Nat → Nat → Nat} {op : (w : Nat) → BitVec w → BitVec w → BitVec w}
    (hx : exec i s = bits2 (encode i) iv d a b k sc acc f s)
    (hf : ∀ w, 0 < w → ∀ x y : BitVec w, f w x.toNat y.toNat = (op w x y).toNat) :
    CompletesWhen i (infoR (encode i) iv sc (vs [d, a, b] ++ ks [k])) s
      (fun e => Ready e a acc ∧ tagOf e b = tagOf e a)
      fun e t => VectorEffect e t d (e.st.K k) (e.st.V a).tag (scaleFrom e a) (unitsIn e a) (widthIn e a)
        (fun i _ => ((op (widthIn e a) (BitVec.ofNat _ (unitAt (e.st.V a) (widthIn e a) i))
          (BitVec.ofNat _ (unitAt (e.st.V b) (widthIn e a) i))).toNat, 0)) 0 := by
  refine completesWhen_of_vguard (hx.trans (bits2.eq_def ..)) fun e _ ⟨⟨htag, h15, hfit⟩, hsame⟩ => ⟨?_, ?_⟩
  · simpa using ⟨need_eq_none htag h15, same_eq_none hsame h15, fits_eq_none hfit⟩
  · dsimp only
    rw [lane_eq]
    refine vwrite_lanes d a k _ hfit rfl fun i => congrArg (·, (0 : Fl)) ?_
    have width : 0 < widthIn e a := by unfold widthIn; generalize (e.st.V a).tag = t; revert t; decide
    simp only [unitAt, BitVec.ofNat_toNat, BitVec.setWidth_eq]
    exact hf _ width _ _

end

/-! ## Bits of an element (R106) -/

theorem andNot_eq (w : Nat) (x y : BitVec w) : andNot w x.toNat y.toNat = (x &&& ~~~y).toNat := by
  rw [andNot, BitVec.toNat_and, BitVec.toNat_not, Nat.mod_eq_of_lt y.isLt]

theorem shlElem_eq (w : Nat) (x y : BitVec w) : shlElem w x.toNat y.toNat = (x <<< y.toNat).toNat := by
  rw [shlElem, BitVec.toNat_shiftLeft, Nat.shiftLeft_eq]
  split
  next beyond => exact (Nat.mod_eq_zero_of_dvd ((pow_dvd_pow 2 beyond).mul_left _)).symm
  next => rfl

theorem shrElem_eq (w : Nat) (x y : BitVec w) : shrElem w x.toNat y.toNat = (x >>> y.toNat).toNat := by
  rw [shrElem, BitVec.toNat_ushiftRight, Nat.shiftRight_eq_div_pow]
  split
  next beyond => exact (Nat.div_eq_of_lt (x.isLt.trans_le (Nat.pow_le_pow_right (by decide) beyond))).symm
  next => rfl

/-- A quotient by a power of two that the magnitude does not exceed is that by any greater one. -/
theorem ediv_two_pow_eq {z : Int} {m n : Nat} (low : -(2 ^ m : Int) ≤ z) (high : z < 2 ^ m) (hmn : m ≤ n) :
    z / 2 ^ m = z / 2 ^ n := by
  have grow : (2 ^ m : Int) ≤ 2 ^ n := pow_le_pow_right₀ (by decide) hmn
  have floor {k : Nat} (hk : (2 ^ m : Int) ≤ 2 ^ k) : z / 2 ^ k = if z < 0 then -1 else 0 := by
    split
    next neg => exact Int.ediv_eq_neg_one_of_neg_of_le neg (by omega)
    next pos => exact Int.ediv_eq_zero_of_lt (by omega) (by omega)
  rw [floor le_rfl, floor grow]

/-- A shift by the width or more leaves the sign alone, as one by the width less one does. -/
theorem sraElem_eq (w : Nat) (hw : 0 < w) (x y : BitVec w) : sraElem w x.toNat y.toNat = (x.sshiftRight y.toNat).toNat := by
  have value : asInt true w x.toNat = x.toInt := by rw [asInt_signed w _ hw, BitVec.ofNat_toNat, BitVec.setWidth_eq]
  have shift : x.toInt / ((2 ^ Nat.min y.toNat (w - 1) : Nat) : Int) = x.toInt >>> y.toNat := by
    rw [Int.shiftRight_eq_div_pow]
    push_cast
    obtain short | long := le_total y.toNat (w - 1)
    · rw [show Nat.min y.toNat (w - 1) = y.toNat from Nat.min_eq_left short]
    · rw [show Nat.min y.toNat (w - 1) = w - 1 from Nat.min_eq_right long]
      exact ediv_two_pow_eq (by exact_mod_cast BitVec.le_toInt x) (by exact_mod_cast BitVec.toInt_lt (x := x)) long
  rw [sraElem, value, shift, wrap, BitVec.sshiftRight, BitVec.toNat_ofInt]

/-! ## The forms -/

theorem completesWhen_vectorTwo (iv : BitVec 2) (d a b : BitVec 4) (k : BitVec 3) (sc : BitVec 4) (s : State) :
    ∀ p ∈ vectorTwo iv d a b k sc, CompletesWhen p.1 (infoR (encode p.1) iv sc (vs [d, a, b] ++ ks [k])) s
      (fun e => Ready e a p.2.1 ∧ tagOf e b = tagOf e a)
      fun e t => VectorEffect e t d (e.st.K k) (e.st.V a).tag (scaleFrom e a) (unitsIn e a) (widthIn e a)
        (fun i _ => arithElem (e.st.V a).tag p.2.2.1 (p.2.2.2.1 && e.st.satOn) e.st.rm.plain e.st.fz p.2.2.2.2.1 p.2.2.2.2.2
          (unitAt (e.st.V a) (widthIn e a) i) (unitAt (e.st.V b) (widthIn e a) i) (unitAt (e.st.V d) (widthIn e a) i)) 0 := by
  simp only [vectorTwo, List.forall_mem_cons, List.not_mem_nil, false_imp_iff, implies_true, and_true]
  refine ⟨?_, ?_, ?_, ?_, ?_, ?_, ?_, ?_, ?_, ?_, ?_, ?_⟩ <;> exact completesWhen_arith2 rfl

theorem completesWhen_vectorThree (iv : BitVec 2) (d a b : BitVec 4) (k : BitVec 3) (sc : BitVec 4) (s : State) :
    ∀ p ∈ vectorThree iv d a b k sc, CompletesWhen p.1 (infoR (encode p.1) iv sc (vs [d, a, b] ++ ks [k])) s
      (fun e => Ready e a [1, 2, 3, 4, 7, 8, 9] ∧ tagOf e b = tagOf e a ∧ tagOf e d = tagOf e a)
      fun e t => VectorEffect e t d (e.st.K k) (e.st.V a).tag 0 (unitsIn e a) (widthIn e a)
        (fun i _ => arithElem (e.st.V a).tag true e.st.satOn e.st.rm.plain e.st.fz p.2.1 p.2.2
          (unitAt (e.st.V a) (widthIn e a) i) (unitAt (e.st.V b) (widthIn e a) i) (unitAt (e.st.V d) (widthIn e a) i)) 0 := by
  simp only [vectorThree, List.forall_mem_cons, List.not_mem_nil, false_imp_iff, implies_true, and_true]
  exact ⟨completesWhen_arith3 rfl, completesWhen_arith3 rfl⟩

/-- The magnitude of an integer. -/
theorem natAbs_eq_ite (x : Int) : (x.natAbs : Int) = if x < 0 then -x else x := by
  split <;> omega

theorem exec_vabs (iv : BitVec 2) (d a : BitVec 4) (k : BitVec 3) (sc : BitVec 4) (s : State) :
    exec (.vabs iv d a k sc) s =
      arith1 (encode (.vabs iv d a k sc)) iv d a k sc tIF (fun x _ _ => if x < 0 then -x else x) fAbs s := by
  simp only [← natAbs_eq_ite]
  rfl

theorem completesWhen_vectorOne (iv : BitVec 2) (d a : BitVec 4) (k : BitVec 3) (sc : BitVec 4) (s : State) :
    ∀ p ∈ vectorOne iv d a k sc, CompletesWhen p.1 (infoR (encode p.1) iv sc (vs [d, a] ++ ks [k])) s (fun e => Ready e a p.2.1)
      fun e t => VectorEffect e t d (e.st.K k) (e.st.V a).tag 0 (unitsIn e a) (widthIn e a)
        (fun i _ => arithElem (e.st.V a).tag true e.st.satOn e.st.rm.plain e.st.fz p.2.2.1 p.2.2.2
          (unitAt (e.st.V a) (widthIn e a) i) 0 (unitAt (e.st.V d) (widthIn e a) i)) 0 := by
  simp only [vectorOne, List.forall_mem_cons, List.not_mem_nil, false_imp_iff, implies_true, and_true]
  exact ⟨completesWhen_arith1 (exec_vabs iv d a k sc s) (by decide), completesWhen_arith1 rfl (by decide)⟩

theorem completesWhen_vectorBits (iv : BitVec 2) (d a b : BitVec 4) (k : BitVec 3) (sc : BitVec 4) (s : State) :
    ∀ p ∈ vectorBits iv d a b k sc, CompletesWhen p.1 (infoR (encode p.1) iv sc (vs [d, a, b] ++ ks [k])) s
      (fun e => Ready e a p.2.1 ∧ tagOf e b = tagOf e a)
      fun e t => VectorEffect e t d (e.st.K k) (e.st.V a).tag (scaleFrom e a) (unitsIn e a) (widthIn e a)
        (fun i _ => ((p.2.2 (widthIn e a) (BitVec.ofNat _ (unitAt (e.st.V a) (widthIn e a) i))
          (BitVec.ofNat _ (unitAt (e.st.V b) (widthIn e a) i))).toNat, 0)) 0 := by
  simp only [vectorBits, List.forall_mem_cons, List.not_mem_nil, false_imp_iff, implies_true, and_true]
  exact ⟨completesWhen_bits2 rfl fun w _ x y => (BitVec.toNat_and x y).symm,
    completesWhen_bits2 rfl fun w _ x y => (BitVec.toNat_or x y).symm,
    completesWhen_bits2 rfl fun w _ x y => (BitVec.toNat_xor x y).symm,
    completesWhen_bits2 rfl fun w _ => andNot_eq w, completesWhen_bits2 rfl fun w _ => shlElem_eq w,
    completesWhen_bits2 rfl fun w _ => shrElem_eq w, completesWhen_bits2 rfl sraElem_eq⟩

/-- Settles O20: each form has the shape of its number of sources. -/
theorem vectorArithResult : Obligations.VectorArithResult := by
  unfold Obligations.VectorArithResult
  exact ⟨completesWhen_vectorTwo, fun iv d a b k sc s => ⟨completesWhen_vectorThree iv d a b k sc s,
    completesWhen_vectorOne iv d a k sc s, completesWhen_vectorBits iv d a b k sc s⟩⟩

end Sys2Proof.Claims

/-!
Vector-scalar forms (06 R116).
-/
namespace Sys2Proof.Claims
open Machine

/-! ## Vector-scalar forms (R116) -/

theorem completesWhen_arithS {i : Instr} {iv : BitVec 2} {d a : BitVec 4} {g : BitVec 5} {k : BitVec 3} {sc : BitVec 4} {s : State}
    {acc : List Nat} {signed reads : Bool} {fi : IntOp} {ff : FloatOp}
    (hx : exec i s = arithS (encode i) iv d a g k sc acc signed reads fi ff s) (hacc : acc ⊆ [1, 2, 3, 4, 7, 8, 9, 10]) :
    CompletesWhen i (infoR (encode i) iv sc (vs [d, a] ++ gs [g] ++ ks [k])) s
      (fun e => Ready e a acc ∧ (reads = true → tagOf e d = tagOf e a))
      fun e t => VectorEffect e t d (e.st.K k) (e.st.V a).tag 0 (unitsIn e a) (widthIn e a)
        (fun i _ => arithElem (e.st.V a).tag signed e.st.satOn e.st.rm.plain e.st.fz fi ff
          (unitAt (e.st.V a) (widthIn e a) i) ((e.G g).toNat % 2 ^ widthIn e a) (unitAt (e.st.V d) (widthIn e a) i)) 0 := by
  refine completesWhen_of_vguard (hx.trans (arithS.eq_def ..)) fun e _ ⟨⟨htag, h15, hfit⟩, hd⟩ => ⟨?_, ?_⟩
  · have rest : ∀ c ∈ [e.st.need a acc, e.st.fits (e.st.halfOf a)], c = none := by
      simpa using ⟨need_eq_none htag h15, fits_eq_none hfit⟩
    cases reads with
    | false => exact rest
    | true => exact List.forall_mem_cons.mpr ⟨same_eq_none (hd rfl) h15, rest⟩
  · exact vwrite_lanes d a k _ hfit (scaleFrom_eq_zero (hacc htag)) fun _ => rfl

theorem completesWhen_vectorScalar (iv : BitVec 2) (d a : BitVec 4) (g : BitVec 5) (k : BitVec 3) (sc : BitVec 4) (s : State) :
    ∀ p ∈ vectorScalar iv d a g k sc, CompletesWhen p.1 (infoR (encode p.1) iv sc (vs [d, a] ++ gs [g] ++ ks [k])) s
      (fun e => Ready e a p.2.1 ∧ (p.2.2.2.1 = true → tagOf e d = tagOf e a))
      fun e t => VectorEffect e t d (e.st.K k) (e.st.V a).tag 0 (unitsIn e a) (widthIn e a)
        (fun i _ => arithElem (e.st.V a).tag p.2.2.1 e.st.satOn e.st.rm.plain e.st.fz p.2.2.2.2.1 p.2.2.2.2.2
          (unitAt (e.st.V a) (widthIn e a) i) ((e.G g).toNat % 2 ^ widthIn e a) (unitAt (e.st.V d) (widthIn e a) i)) 0 := by
  have numbers : tIF ⊆ [1, 2, 3, 4, 7, 8, 9, 10] := by decide
  have integers : tI ⊆ [1, 2, 3, 4, 7, 8, 9, 10] := by decide
  intro p hp
  simp only [vectorScalar, List.mem_cons, List.not_mem_nil, or_false] at hp
  rcases hp with rfl | rfl | rfl | rfl | rfl
  exacts [completesWhen_arithS rfl numbers, completesWhen_arithS rfl integers, completesWhen_arithS rfl numbers,
    completesWhen_arithS rfl integers, completesWhen_arithS rfl numbers]

theorem exec_vbcast (iv : BitVec 2) (d : BitVec 4) (g : BitVec 5) (k : BitVec 3) (sc : BitVec 4) (s : State) :
    exec (.vbcast iv d g k sc) s = execVbcast iv d g k sc s := rfl

theorem tag_eq_int4 {e : State} {a : BitVec 4} : (e.st.V a).tag = 12 ↔ tagOf e a = 12 := BitVec.toNat_inj.symm

theorem completesWhen_vbcast (iv : BitVec 2) (d : BitVec 4) (g : BitVec 5) (k : BitVec 3) (sc : BitVec 4) (s : State) :
    CompletesWhen (.vbcast iv d g k sc) (infoR (encode (.vbcast iv d g k sc)) iv sc (vs [d] ++ gs [g] ++ ks [k])) s
      (fun e => Ready e d (List.range 15))
      fun e t => VectorEffect e t d (e.st.K k) (e.st.V d).tag (e.st.V d).scale (unitsIn e d) (widthIn e d)
        (fun _ _ => (if tagOf e d = 12 then (e.G g).toNat % 16 + 16 * ((e.G g).toNat % 16)
          else (e.G g).toNat % 2 ^ widthIn e d, 0)) 0 := by
  refine completesWhen_of_vguard ((exec_vbcast ..).trans (execVbcast.eq_def ..)) fun e _ ⟨_, h15, hfit⟩ => ⟨?_, ?_⟩
  · simpa using ⟨need_eq_none (mem_tAny h15) h15, fits_eq_none hfit⟩
  · refine vwrite_result d k _ hfit fun _ _ => congrArg (·, (0 : Fl)) ?_
    simp only [tag_eq_int4]
    refine if_congr Iff.rfl ?_ rfl
    rw [Strand.scalarOf, Nat.mul_succ, Nat.add_comm, Nat.mul_comm]
    rfl

/-! ## One element: the lowest active one (R116) -/

theorem lowest_eq_some {e : State} {k : BitVec 3} {n j : Nat} (hj : j < n) (active : (e.st.K k).getLsbD j = true)
    (least : ∀ i, i < j → (e.st.K k).getLsbD i = false) : e.st.lowest k n = some j := by
  refine List.find?_range_eq_some.mpr ⟨active, List.mem_range.mpr hj, fun i hi => ?_⟩
  simpa [Strand.active] using least i hi

theorem lowest_eq_none {e : State} {k : BitVec 3} {n : Nat} (idle : ∀ i, i < n → (e.st.K k).getLsbD i = false) :
    e.st.lowest k n = none := by
  refine List.find?_eq_none.mpr fun i hi => ?_
  simpa [Strand.active] using idle i (List.mem_range.mp hi)

theorem lowest_eq_some_iff {e : State} {k : BitVec 3} {n j : Nat} : e.st.lowest k n = some j ↔
    (e.st.K k).getLsbD j = true ∧ j < n ∧ ∀ i, i < j → (e.st.K k).getLsbD i = false := by
  rw [Strand.lowest, List.find?_range_eq_some, List.mem_range]
  simp [Strand.active]

/-- A mask whose only bit below 256 is that of the lowest active element, if there is one, marks what vset writes. -/
theorem lowest_beq {e : State} {k : BitVec 3} {m : BitVec 256} {n : Nat} (hn : n ≤ 256)
    (hm : ∀ i, i < 256 → (BitVec.getLsbD m i = true ↔
      (e.st.K k).getLsbD i = true ∧ i < n ∧ ∀ j, j < i → (e.st.K k).getLsbD j = false)) {i : Nat} (hi : i < n) :
    (e.st.lowest k n == some i) = m.getLsbD i := by
  rw [Bool.eq_iff_iff, beq_iff_eq, lowest_eq_some_iff, hm i (by omega)]

theorem exec_vset (iv : BitVec 2) (d : BitVec 4) (g : BitVec 5) (k : BitVec 3) (sc : BitVec 4) (s : State) :
    exec (.vset iv d g k sc) s = execVset iv d g k sc s := rfl

theorem mem_tNo4 {e : State} {a : BitVec 4} (h12 : tagOf e a ≠ 12) (h15 : tagOf e a ≠ 15) : tagOf e a ∈ tNo4 := by
  have any := mem_tAny h15
  simp only [tAny, tNo4, List.mem_cons, List.not_mem_nil, or_false] at any ⊢
  omega

/-- Elements of whole bytes are at most as many as a register has bytes. -/
theorem elems_le_of_fits {e : State} {t : BitVec 4} (h : Fits e (Wf.tagHalf t)) (ht : t ≠ 12) : e.st.rows * e.st.cols ≤ 256 := by
  have least : 2 ≤ Wf.tagHalf t := two_le_tagHalf ht
  have room : e.st.rows * e.st.cols * 2 ≤ 512 := (Nat.mul_le_mul_left _ least).trans h
  omega

theorem completesWhen_vset (iv : BitVec 2) (d : BitVec 4) (g : BitVec 5) (k : BitVec 3) (sc : BitVec 4) (s : State) :
    CompletesWhen (.vset iv d g k sc) (infoR (encode (.vset iv d g k sc)) iv sc (vs [d] ++ gs [g] ++ ks [k])) s
      (fun e => Ready e d (List.range 15) ∧ tagOf e d ≠ 12)
      fun e t => ∀ m, (∀ i, i < 256 → (BitVec.getLsbD m i = true ↔
            (e.st.K k).getLsbD i = true ∧ i < e.st.rows * e.st.cols ∧ ∀ j, j < i → (e.st.K k).getLsbD j = false)) →
        VectorEffect e t d m (e.st.V d).tag (e.st.V d).scale (e.st.rows * e.st.cols) (widthIn e d)
          (fun _ _ => ((e.G g).toNat % 2 ^ widthIn e d, 0)) 0 := by
  refine completesWhen_of_vguard ((exec_vset ..).trans (execVset.eq_def ..)) fun e _ ⟨⟨_, h15, hfit⟩, h12⟩ => ⟨?_, ?_⟩
  · simpa using ⟨need_eq_none (mem_tNo4 h12 h15) h15, fits_eq_none hfit⟩
  · have int4 : (e.st.V d).tag ≠ 12 := mt tag_eq_int4.mp h12
    refine ⟨_, vwrite_eq .., fun m hm => vectorEffect_vwritten e 0 d _ _ ?_ (gathers_zero fun _ _ => rfl)⟩
    obtain ⟨whole, room⟩ := bytes_of_fits hfit int4
    dsimp only
    rw [mapUnits_congr (act' := m.getLsbD) (old' := (e.st.V d).data.toNat) _ e.st.elems 0 0
      (fun u hu => by rw [Nat.zero_add]; exact lowest_beq (elems_le_of_fits hfit int4) hm hu) fun _ _ _ => rfl]
    exact lanes_mkVReg m _ _ _ _ whole room

/-! ## One element read (R116) -/

/-- What vget takes from an element: a number of its sign where it is a signed integer, else its bits. -/
def gotten (e : State) (a : BitVec 4) (signed : Bool) (j : Nat) : Word :=
  if signed = true ∧ tagOf e a ∈ [1, 2, 3, 4] then (BitVec.ofNat (widthIn e a) (unitAt (e.st.V a) (widthIn e a) j)).signExtend 64
  else BitVec.ofNat 64 (unitAt (e.st.V a) (widthIn e a) j)

theorem widthOf_pos (t : BitVec 4) : 0 < widthOf t := by revert t; decide

theorem ofInt_asInt (e : State) (a : BitVec 4) (signed : Bool) (j : Nat) :
    BitVec.ofInt 64 (asInt (signed && tI.contains (e.st.V a).tag.toNat) (widthIn e a) (unitAt (e.st.V a) (widthIn e a) j)) =
      gotten e a signed j := by
  have bits : unitAt (e.st.V a) (widthIn e a) j < 2 ^ widthIn e a := BitVec.isLt _
  have kind : (signed && tI.contains (e.st.V a).tag.toNat) = decide (signed = true ∧ tagOf e a ∈ [1, 2, 3, 4]) := by
    rw [Bool.eq_iff_iff]
    simp only [Bool.and_eq_true, decide_eq_true_eq, List.contains_iff_mem]
    rfl
  rw [kind, gotten]
  split
  next h => rw [decide_eq_true h, asInt_signed (widthIn e a) _ (widthOf_pos _)]; rfl
  next h => rw [decide_eq_false h, asInt_unsigned, Nat.mod_eq_of_lt bits, BitVec.ofInt_natCast]

theorem completesWhen_getLane {i : Instr} {iv : BitVec 2} {a : BitVec 4} {g : BitVec 5} {k : BitVec 3} {sc : BitVec 4} {s : State}
    {signed : Bool} {acc : List Nat} (hx : exec i s = getLane (encode i) iv a g k sc signed acc s) :
    CompletesWhen i (infoR (encode i) iv sc (gs [g] ++ vs [a] ++ ks [k])) s (fun e => Ready e a acc)
      fun e t => ((∀ i, i < e.st.rows * e.st.cols → (e.st.K k).getLsbD i = false) → ScalarEffect e t g 0 e.nextPc) ∧
        ∀ j, j < e.st.rows * e.st.cols → (e.st.K k).getLsbD j = true → (∀ i, i < j → (e.st.K k).getLsbD i = false) →
          ScalarEffect e t g (gotten e a signed j) e.nextPc := by
  refine completesWhen_of_vguard (hx.trans (getLane.eq_def ..)) fun e _ ⟨htag, h15, hfit⟩ => ⟨?_, ?_⟩
  · simpa using ⟨need_eq_none htag h15, fits_eq_none hfit⟩
  · refine ⟨_, rfl, fun idle => ?_, fun j hj active least => ?_⟩
    · rw [show e.st.lowest k e.st.elems = none from lowest_eq_none idle]
      exact scalarEffect_retire ..
    · rw [show e.st.lowest k e.st.elems = some j from lowest_eq_some hj active least, ← ofInt_asInt, unitAt_eq_elem]
      exact scalarEffect_retire ..

theorem exec_vget (iv : BitVec 2) (a : BitVec 4) (g : BitVec 5) (k : BitVec 3) (sc : BitVec 4) (s : State) :
    exec (.vget iv a g k sc) s = getLane (encode (.vget iv a g k sc)) iv a g k sc true tNo4 s := rfl

theorem exec_vgetN (iv : BitVec 2) (a : BitVec 4) (g : BitVec 5) (k : BitVec 3) (sc : BitVec 4) (s : State) :
    exec (.vgetN iv a g k sc) s =
      getLane (encode (.vgetN iv a g k sc)) iv a g k sc false [0, 1, 2, 3, 4, 11, 13, 14] s := rfl

/-- Settles O22: the elementwise forms are arithmetic with one operand for all elements; the others act on the lowest active one. -/
theorem vectorScalarResult : Obligations.VectorScalarResult := by
  unfold Obligations.VectorScalarResult
  intro iv d a g k sc s
  refine ⟨completesWhen_vectorScalar iv d a g k sc s, completesWhen_vbcast iv d g k sc s, completesWhen_vset iv d g k sc s, ?_, ?_⟩
  · intro passes ⟨⟨_, h15, hfit⟩, h12⟩
    simpa only [gotten, true_and] using completesWhen_getLane (exec_vget iv a g k sc s) passes ⟨mem_tNo4 h12 h15, h15, hfit⟩
  · simpa only [gotten, Bool.false_eq_true, false_and, if_false] using completesWhen_getLane (exec_vgetN iv a g k sc s)

end Sys2Proof.Claims

/-!
Selection and permutation, compares, and reductions (06 R107 to R110).
-/
namespace Sys2Proof.Claims
open Machine

/-! ## Selection and permutation (R108) -/

/-- The bits of the unit that a move names, or zero where it names none. -/
def sourceUnit (e : State) (w : Nat) (o : Option (BitVec 4 × Nat)) : Nat := o.elim 0 fun q => unitAt (e.st.V q.1) w q.2

/-- An instruction that permutes the units of V[a]. -/
theorem completesWhen_vpermute {i : Instr} {inf : Info} {checks : Strand → List Check} {d a : BitVec 4} {k : BitVec 3}
    {src : Strand → Nat → Option Nat} {s : State} {pre : State → Prop} {from' : State → Nat → Option (BitVec 4 × Nat)}
    (hx : exec i s = vpermute inf checks d a k src s)
    (hpre : ∀ e, pre e ∧ Fits e (Wf.tagHalf (e.st.V a).tag) → ∀ c ∈ checks e.st, c = none)
    (hsrc : ∀ e i, from' e i = (src e.st i).map (a, ·)) :
    CompletesWhen i inf s (fun e => pre e ∧ Fits e (Wf.tagHalf (e.st.V a).tag))
      fun e t => VectorEffect e t d (e.st.K k) (e.st.V a).tag (e.st.V a).scale (unitsIn e a) (widthIn e a)
        (fun i _ => (sourceUnit e (widthIn e a) (from' e i), 0)) 0 := by
  refine completesWhen_of_vguard (hx.trans (vpermute.eq_def ..)) fun e _ ready => ⟨hpre e ready, ?_⟩
  refine vwrite_result d k _ ready.2 fun i _ => congrArg (·, (0 : Fl)) ?_
  rw [hsrc]
  cases src e.st i with
  | none => rfl
  | some j => exact (unitAt_eq_elem ..).symm

/-- Both vectors of a vsel have the format of V[a]; the mask chooses, and holds nothing back. -/
theorem completesWhen_vsel (iv : BitVec 2) (d a b : BitVec 4) (k : BitVec 3) (sc : BitVec 4) (s : State) :
    CompletesWhen (.vsel iv d a b k sc) (infoR (encode (.vsel iv d a b k sc)) iv sc (vs [d, a, b] ++ ks [k])) s
      (fun e => (tagOf e a ≠ 15 ∧ tagOf e b = tagOf e a) ∧ Fits e (Wf.tagHalf (e.st.V a).tag))
      fun e t => VectorEffect e t d (BitVec.allOnes 256) (e.st.V a).tag (e.st.V a).scale (unitsIn e a) (widthIn e a)
        (fun i _ => (sourceUnit e (widthIn e a) (some (if (e.st.K k).getLsbD i then a else b, i)), 0)) 0 := by
  have hx : exec (.vsel iv d a b k sc) s = execVsel iv d a b k sc s := rfl
  refine completesWhen_of_vguard (hx.trans (execVsel.eq_def ..)) fun e _ ⟨⟨h15, hsame⟩, hfit⟩ => ⟨?_, ?_⟩
  · simpa using ⟨need_eq_none (mem_tAny h15) h15, same_eq_none hsame h15, fits_eq_none hfit⟩
  · refine vwrite_result d 0 _ hfit fun i _ => congrArg (·, (0 : Fl)) ?_
    rw [sourceUnit, Option.elim_some, unitAt_eq_elem, Strand.active]
    split <;> rfl

theorem indexFits_eq_none {x : Strand} {a n : BitVec 4} {limit : Nat} (h : n.toNat < limit) : x.indexFits a n limit = none := if_pos h
theorem fitsAt_eq_none {e : State} {half : Nat} (index : Nat) (h : Fits e half) : e.st.fitsAt half index = none := if_pos h

section
variable (iv : BitVec 2) (d a b n : BitVec 4) (k : BitVec 3) (sc : BitVec 4) (s : State)

/-! Each permutation, with the check of its sources and where unit i comes from. -/

theorem exec_vperm : exec (.vperm iv d a b k sc) s = vpermute (infoR (encode (.vperm iv d a b k sc)) iv sc (vs [d, a, b] ++ ks [k]))
    (fun x => [x.need a tNo4, x.need b [1], x.fits (x.halfOf a)]) d a k
    (fun x i => if elem (x.V b).data.toNat 8 i < x.elems then some (elem (x.V b).data.toNat 8 i) else none) s := rfl

theorem exec_vtrn : exec (.vtrn iv d a k sc) s = vpermute (infoR (encode (.vtrn iv d a k sc)) iv sc (vs [d, a] ++ ks [k]))
    (fun x => [x.need a tNo4, x.fits (x.halfOf a)]) d a k (fun x i => some (i % x.rows * x.cols + i / x.rows)) s := rfl

theorem exec_vrowb : exec (.vrowb iv d a n k sc) s = vpermute (infoR (encode (.vrowb iv d a n k sc)) iv sc (vs [d, a] ++ ks [k]))
    (fun x => [x.need a tNo4, x.fitsAt (x.halfOf a) n.toNat, x.indexFits a n x.rows]) d a k
    (fun x i => some (n.toNat * x.cols + i % x.cols)) s := rfl

theorem exec_vcolb : exec (.vcolb iv d a n k sc) s = vpermute (infoR (encode (.vcolb iv d a n k sc)) iv sc (vs [d, a] ++ ks [k]))
    (fun x => [x.need a tNo4, x.fitsAt (x.halfOf a) n.toNat, x.indexFits a n x.cols]) d a k
    (fun x i => some (i / x.cols * x.cols + n.toNat)) s := rfl

theorem exec_vslide : exec (.vslide iv d a n k sc) s = vpermute (infoR (encode (.vslide iv d a n k sc)) iv sc (vs [d, a] ++ ks [k]))
    (fun x => [x.need a tNo4, x.fits (x.halfOf a)]) d a k
    (fun x i => if i + n.toNat < x.elems then some (i + n.toNat) else none) s := rfl

theorem completesWhen_vectorMoves :
    ∀ p ∈ vectorMoves iv d a b n k sc, CompletesWhen p.1 (infoR (encode p.1) iv sc p.2.1) s
      (fun e => p.2.2.2.1 e ∧ Fits e (Wf.tagHalf (e.st.V a).tag))
      fun e t => VectorEffect e t d (if p.2.2.1 then BitVec.allOnes 256 else e.st.K k) (e.st.V a).tag (e.st.V a).scale
        (unitsIn e a) (widthIn e a) (fun i _ => (sourceUnit e (widthIn e a) (p.2.2.2.2 e i), 0)) 0 := by
  have chosen {c : Prop} [Decidable c] (j : Nat) :
      (if c then some (a, j) else none) = (if c then some j else none).map fun j => (a, j) := by split <;> rfl
  intro p hp
  simp only [vectorMoves, List.mem_cons, List.not_mem_nil, or_false] at hp
  rcases hp with rfl | rfl | rfl | rfl | rfl | rfl
  · exact completesWhen_vsel iv d a b k sc s
  · refine completesWhen_vpermute (exec_vperm iv d a b k sc s) (fun e ⟨⟨h12, h15, hb⟩, hfit⟩ => ?_) fun e i => ?_
    · have index : e.st.need b [1] = none := need_eq_none (List.mem_singleton.mpr hb) (by omega)
      simpa using ⟨need_eq_none (mem_tNo4 h12 h15) h15, index, fits_eq_none hfit⟩
    · rw [← unitAt_eq_elem]
      exact chosen _
  · refine completesWhen_vpermute (exec_vtrn iv d a k sc s) (fun e ⟨⟨h12, h15⟩, hfit⟩ => ?_) fun e i => rfl
    simpa using ⟨need_eq_none (mem_tNo4 h12 h15) h15, fits_eq_none hfit⟩
  · refine completesWhen_vpermute (exec_vrowb iv d a n k sc s) (fun e ⟨⟨h12, h15, hn⟩, hfit⟩ => ?_) fun e i => rfl
    simpa using ⟨need_eq_none (mem_tNo4 h12 h15) h15, fitsAt_eq_none _ hfit, indexFits_eq_none hn⟩
  · refine completesWhen_vpermute (exec_vcolb iv d a n k sc s) (fun e ⟨⟨h12, h15, hn⟩, hfit⟩ => ?_) fun e i => rfl
    simpa using ⟨need_eq_none (mem_tNo4 h12 h15) h15, fitsAt_eq_none _ hfit, indexFits_eq_none hn⟩
  · refine completesWhen_vpermute (exec_vslide iv d a n k sc s) (fun e ⟨⟨h12, h15⟩, hfit⟩ => ?_) fun e i => chosen _
    simpa using ⟨need_eq_none (mem_tNo4 h12 h15) h15, fits_eq_none hfit⟩

end

/-- Settles O23: each form names the unit that its own unit comes from. -/
theorem vectorMoveResult : Obligations.VectorMoveResult := by
  unfold Obligations.VectorMoveResult
  intro iv d a b n k sc s p hp passes ready
  obtain ⟨t, next, effect⟩ := completesWhen_vectorMoves iv d a b n k sc s p hp passes ready
  refine ⟨t, next, ?_⟩
  convert effect using 4 with i
  cases p.2.2.2.2 (entry (infoR (encode p.1) iv sc p.2.1) s) i <;> rfl

/-! ## Compares (R107) -/

/-- Bit u of a mask over n elements from i on. -/
theorem testBit_mapMask (act : Nat → Bool) (old : BitVec 256) (p : Nat → Bool) (n i u : Nat) :
    (mapMask act old p n i).testBit u = (decide (u < n) && if act (i + u) then p (i + u) else old.getLsbD (i + u)) := by
  induction n generalizing i u with
  | zero => simp [mapMask]
  | succ n ih =>
    have head (b : Bool) (r : Nat) : ((if b then 1 else 0) + 2 * r).testBit 0 = b := by
      cases b <;> simp [Nat.testBit_zero]
    have tail (b : Bool) (r v : Nat) : ((if b then 1 else 0) + 2 * r).testBit (v + 1) = r.testBit v := by
      rw [Nat.testBit_succ]
      congr 1
      cases b <;> simp only [if_true, if_false, Bool.false_eq_true] <;> omega
    rw [mapMask]
    cases u with
    | zero => rw [head]; simp
    | succ u => rw [tail, ih, Nat.add_right_comm, Nat.add_assoc i u 1]; simp

theorem completesWhen_vcompare {i : Instr} {iv : BitVec 2} {d : BitVec 3} {a b : BitVec 4} {k : BitVec 3} {sc : BitVec 4} {s : State}
    {acc : List Nat} {signed all : Bool} {rel : Order → Bool}
    (hx : exec i s = vcompare (encode i) iv d a b k sc acc signed rel all s) :
    CompletesWhen i (infoR (encode i) iv sc (ks [d] ++ vs [a, b] ++ ks [k])) s
      (fun e => Ready e a acc ∧ tagOf e b = tagOf e a)
      fun e t => ∃ m, MaskEffect e t d m ∧ ∀ i, m.getLsbD i =
        (decide (i < e.st.rows * e.st.cols) && decide (i < 256) && if (e.st.K k).getLsbD i then
          relHolds (e.st.V a).tag signed e.st.fz rel all (unitAt (e.st.V a) (widthIn e a) i) (unitAt (e.st.V b) (widthIn e a) i)
         else (e.st.K d).getLsbD i) := by
  refine completesWhen_of_vguard (hx.trans (vcompare.eq_def ..)) fun e _ ⟨⟨htag, h15, hfit⟩, hsame⟩ => ⟨?_, ?_⟩
  · simpa using ⟨need_eq_none htag h15, same_eq_none hsame h15, fits_eq_none hfit⟩
  · refine ⟨_, rfl, _, maskEffect_setK e d _, fun i => ?_⟩
    rw [BitVec.getLsbD_ofNat, testBit_mapMask, Nat.zero_add, unitAt_eq_elem, unitAt_eq_elem, Bool.and_left_comm, ← Bool.and_assoc]
    rfl

/-- Settles O24: each compare is a mask over the elements of its shape, with its own relation. -/
theorem vectorCompareResult : Obligations.VectorCompareResult := by
  unfold Obligations.VectorCompareResult
  intro iv d a b k sc s
  simp only [vectorCompares, List.forall_mem_cons, List.not_mem_nil, false_imp_iff, implies_true, and_true]
  refine ⟨?_, ?_, ?_, ?_, ?_, ?_, ?_⟩ <;> exact completesWhen_vcompare rfl

/-! ## Reductions (R109, R110) -/

/-- The active elements at a list of indices, as the model picks them. -/
theorem pick_eq (e : State) (a : BitVec 4) (k : BitVec 3) (l : List Nat) : e.st.pick a k l = elementsAt e a k l :=
  List.map_congr_left fun _ _ => (unitAt_eq_elem ..).symm

/-- A write of G[g] and one of flags are made in either order. -/
theorem setG_raise (e : State) (g : BitVec 5) (y : Word) (fl : Fl) :
    (e.setG g y).modSt (·.raise fl) = (e.modSt (·.raise fl)).setG g y := by
  simp only [State.setG, State.modSt, Strand.setG]
  split <;> rfl

/-- The number that a reduction gives, in a scalar register. -/
theorem ofInt_reduced (e : State) (a : BitVec 4) (signed : Bool) (r : Nat) :
    BitVec.ofInt 64 (asInt (signed && tI.contains (e.st.V a).tag.toNat) (widthIn e a) r) =
      BitVec.ofInt 64 (if signed && (tagOf e a ∈ [1, 2, 3, 4]) then asInt true (widthIn e a) r else (r % 2 ^ widthIn e a : Nat)) := by
  have kind : tI.contains (e.st.V a).tag.toNat = decide (tagOf e a ∈ [1, 2, 3, 4]) := by
    rw [Bool.eq_iff_iff, List.contains_iff_mem, decide_eq_true_eq]
    rfl
  rw [kind]
  cases (signed && decide (tagOf e a ∈ [1, 2, 3, 4])) <;> rfl

theorem completesWhen_reduceAll {i : Instr} {iv : BitVec 2} {a : BitVec 4} {g : BitVec 5} {k : BitVec 3} {sc : BitVec 4} {s : State}
    {op : RedOp} (hx : exec i s = reduceAll (encode i) iv a g k sc op s) :
    CompletesWhen i (infoR (encode i) iv sc (gs [g] ++ vs [a] ++ ks [k])) s (fun e => Ready e a op.acc)
      fun e t => ∀ r, r = op.reduce (e.st.V a).tag e.st.rm.plain e.st.fz
          (elementsAt e a k (List.range (e.st.rows * e.st.cols))) →
        SetsG e t g (BitVec.ofInt 64 (if op.signed && (tagOf e a ∈ [1, 2, 3, 4]) then asInt true (widthIn e a) r.1
          else (r.1 % 2 ^ widthIn e a : Nat))) ∧
        VectorKept e t ∧ UnitsKept e t ∧ Ended e t e.nextPc ∧
        t.st.ctl = { e.st.ctl with fcr := e.st.ctl.fcr ||| (r.2.setWidth 15 <<< 8) } := by
  refine completesWhen_of_vguard (hx.trans (reduceAll.eq_def ..)) fun e _ ⟨htag, h15, hfit⟩ => ⟨?_, ?_⟩
  · simpa using ⟨need_eq_none htag h15, fits_eq_none hfit⟩
  · dsimp only
    rw [setG_raise]
    refine ⟨_, rfl, fun r hr => ?_⟩
    rw [pick_eq, show e.st.elems = e.st.rows * e.st.cols from rfl, ← hr]
    have effect := scalarEffect_retire (e.modSt (·.raise r.2)) g
      (BitVec.ofInt 64 (asInt (op.signed && tI.contains (e.st.V a).tag.toNat) (widthIn e a) r.1))
    rw [← ofInt_reduced]
    obtain ⟨sets, kept, special, ⟨bytes, poison, locks, cores, quads, dies, hub, strands, clk⟩, ended⟩ := effect
    exact ⟨sets, ⟨kept.v, kept.k, kept.q⟩, ⟨bytes, poison, locks, cores, quads, dies, hub, strands, clk⟩,
      ⟨ended.pc, ended.hints, ended.wait, ended.inflight⟩, special.ctl⟩

/-- The row that element i stands first in. -/
theorem rowOf_of_first {x : Strand} {i : Nat} (h : i % x.cols = 0) : x.rowOf (i / x.cols) = (List.range x.cols).map (i + ·) := by
  rw [Strand.rowOf, Nat.div_mul_cancel (Nat.dvd_of_mod_eq_zero h)]

section
variable {i : Instr} {iv : BitVec 2} {d a : BitVec 4} {k : BitVec 3} {sc : BitVec 4} {s : State} {op : RedOp}

theorem completesWhen_reduceRows (hx : exec i s = reduceInto (encode i) iv d a k sc op Strand.rowOf Strand.rowAt s) :
    CompletesWhen i (infoR (encode i) iv sc (vs [d, a] ++ ks [k])) s (fun e => Ready e a op.acc)
      fun e t => VectorEffect e t d (BitVec.allOnes 256) (e.st.V a).tag 0 (unitsIn e a) (widthIn e a)
        (fun i _ => if i % e.st.cols = 0 then op.reduce (e.st.V a).tag e.st.rm.plain e.st.fz
          (elementsAt e a k ((List.range e.st.cols).map (i + ·))) else (0, 0)) 0 := by
  refine completesWhen_of_vguard (hx.trans (reduceInto.eq_def ..)) fun e _ ⟨htag, h15, hfit⟩ => ⟨?_, ?_⟩
  · simpa using ⟨need_eq_none htag h15, fits_eq_none hfit⟩
  · refine vwrite_result d 0 0 hfit fun i _ => ?_
    by_cases first : i % e.st.cols = 0
    · rw [show e.st.rowAt i = some (i / e.st.cols) from if_pos first, if_pos first, ← rowOf_of_first first, ← pick_eq]
    · rw [show e.st.rowAt i = none from if_neg first, if_neg first]

theorem completesWhen_reduceCols (hx : exec i s = reduceInto (encode i) iv d a k sc op Strand.colOf Strand.colAt s) :
    CompletesWhen i (infoR (encode i) iv sc (vs [d, a] ++ ks [k])) s (fun e => Ready e a op.acc)
      fun e t => VectorEffect e t d (BitVec.allOnes 256) (e.st.V a).tag 0 (unitsIn e a) (widthIn e a)
        (fun i _ => if i < e.st.cols then op.reduce (e.st.V a).tag e.st.rm.plain e.st.fz
          (elementsAt e a k ((List.range e.st.rows).map (· * e.st.cols + i))) else (0, 0)) 0 := by
  refine completesWhen_of_vguard (hx.trans (reduceInto.eq_def ..)) fun e _ ⟨htag, h15, hfit⟩ => ⟨?_, ?_⟩
  · simpa using ⟨need_eq_none htag h15, fits_eq_none hfit⟩
  · refine vwrite_result d 0 0 hfit fun i _ => ?_
    by_cases first : i < e.st.cols
    · rw [show e.st.colAt i = some i from if_pos first, if_pos first, ← pick_eq]
      rfl
    · rw [show e.st.colAt i = none from if_neg first, if_neg first]

end

/-- Settles O25: reductions into a scalar register, into the first elements of rows, and into those of columns. -/
theorem reductionResult : Obligations.ReductionResult := by
  unfold Obligations.ReductionResult
  intro iv d a g k sc s
  simp only [reductionsAll, reductionsLines, List.forall_mem_cons, List.not_mem_nil, false_imp_iff, implies_true, and_true]
  refine ⟨⟨?_, ?_, ?_, ?_, ?_, ?_, ?_, ?_⟩, ⟨?_, ?_, ?_, ?_, ?_, ?_, ?_, ?_, ?_, ?_, ?_, ?_, ?_, ?_, ?_, ?_⟩⟩
  iterate 8 exact completesWhen_reduceAll rfl
  iterate 8 exact completesWhen_reduceRows rfl
  iterate 8 exact completesWhen_reduceCols rfl

end Sys2Proof.Claims

/-!
Conversions, saturation, dot products and complex multiply (06 R111, R112, R114, R121).
-/
namespace Sys2Proof.Claims
open Machine

/-! ## Targets (R111, R112) -/

theorem cvtTarget_eq (t : BitVec 4) : Wf.cvtTarget t = decide (t.toNat ∈ [1, 2, 3, 4, 5, 6, 7, 8, 9, 10]) := by revert t; decide
theorem satTarget_eq (t : BitVec 4) : Wf.satTarget t = decide (t.toNat ∈ [1, 2, 3, 4]) := by revert t; decide

/-- A unit that passes its checks meets what check 4 asks of its fields (R74). -/
theorem completesWhen_of_ok {i : Instr} {inf : Info} {s : State} {pre : State → Prop} {effect : State → State → Prop}
    (h : inf.ok = true → CompletesWhen i inf s pre effect) : CompletesWhen i inf s pre effect :=
  fun passes => h passes.ok passes

theorem ne_int4_of_mem {t : BitVec 4} {l : List Nat} (h : t.toNat ∈ l) (hl : 12 ∉ l) : t ≠ 12 := by
  rintro rfl
  exact hl h

/-- The source of a conversion passes its check (R11, R112). -/
theorem cvtPair_eq_none {e : State} {a t : BitVec 4} {signed : Bool} (h : tagOf e a ∈ cvtSources t signed) :
    e.st.cvtPair a t signed = none := by
  have reserved : 15 ∉ cvtSources t signed := by clear h; revert t signed; decide
  have some' : (cvtSources t signed).isEmpty = false := by
    rw [List.isEmpty_eq_false_iff]
    exact List.ne_nil_of_mem h
  rw [Strand.cvtPair, some', if_neg Bool.false_ne_true]
  exact need_eq_none h fun h15 => reserved (h15 ▸ h)

theorem fits_max {e : State} {m n : Nat} (h : Fits e (max m n)) : Fits e n :=
  (Nat.mul_le_mul_left _ (le_max_right m n)).trans h

/-- Stochastic rounding draws an output for each active element, into the formats below fp32 alone (R51, R52). -/
theorem draws_eq (e : State) (k : BitVec 3) (t : BitVec 4) : e.st.rm.draws t (countActive (e.st.active k) e.st.elems 0) =
    if e.st.rm = .st ∧ t.toNat ∈ [5, 6, 7, 8] then activeBelow (e.st.K k) (e.st.rows * e.st.cols) else 0 := by
  have kinds : stochastic t = decide (t.toNat ∈ [5, 6, 7, 8]) := by revert t; decide
  rw [RM.draws, countActive_active, kinds]
  refine if_congr ?_ rfl rfl
  rw [Bool.and_eq_true, decide_eq_true_eq, decide_eq_true_eq]

section
variable {i : Instr} {iv : BitVec 2} {d a b tg : BitVec 4} {k : BitVec 3} {sc : BitVec 4} {s : State} {signed : Bool}

theorem completesWhen_convert (hx : exec i s = convert (encode i) iv d a tg k sc signed s) :
    CompletesWhen i { (infoR (encode i) iv sc (vs [d, a] ++ ks [k])).need (decide (tg.toNat ∈ [1, 2, 3, 4, 5, 6, 7, 8, 9, 10]))
        with conv := true } s
      (fun e => tagOf e a ∈ cvtSources tg signed ∧ Fits e (max (Wf.tagHalf (e.st.V a).tag) (Wf.tagHalf tg)))
      fun e t => VectorEffect e t d (e.st.K k) tg (scaleFrom e a) (e.st.rows * e.st.cols) (widthOf tg)
        (fun i j => cvtElem e.st (e.st.V a).tag tg (e.st.V a).scale signed i j (unitAt (e.st.V a) (widthIn e a) i))
        (if e.st.rm = .st ∧ tg.toNat ∈ [5, 6, 7, 8] then activeBelow (e.st.K k) (e.st.rows * e.st.cols) else 0) := by
  rw [← cvtTarget_eq]
  refine completesWhen_of_ok fun ok => ?_
  have target : Wf.cvtTarget tg = true := (Bool.and_eq_true_iff.mp ok).2
  rw [cvtTarget_eq, decide_eq_true_eq] at target
  refine completesWhen_of_vguard (hx.trans (convert.eq_def ..)) fun e _ ⟨hsource, hfit⟩ => ⟨?_, ?_⟩
  · simpa using ⟨cvtPair_eq_none hsource, fits_eq_none hfit⟩
  · dsimp only
    rw [draws_eq, keepScale_eq]
    refine ⟨_, vwrite_drew .., ?_⟩
    rw [← unitsOf_of_ne (ne_int4_of_mem target (by decide)) (e.st.rows * e.st.cols)]
    refine vectorEffect_result _ d k _ (fits_max hfit) fun i j => ?_
    rw [unitAt_eq_elem, widthIn]

theorem completesWhen_saturate (hx : exec i s = saturate (encode i) iv d a tg k sc signed s) :
    CompletesWhen i ((infoR (encode i) iv sc (vs [d, a] ++ ks [k])).need (decide (tg.toNat ∈ [1, 2, 3, 4]))) s
      (fun e => tagOf e a ∈ [1, 2, 3, 4] ∧ Fits e (max (Wf.tagHalf (e.st.V a).tag) (Wf.tagHalf tg)))
      fun e t => VectorEffect e t d (e.st.K k) tg 0 (e.st.rows * e.st.cols) (widthOf tg)
        (fun i _ => clampTo signed (widthOf tg) (BitVec.ofNat (widthIn e a) (unitAt (e.st.V a) (widthIn e a) i)).toInt) 0 := by
  rw [← satTarget_eq]
  refine completesWhen_of_ok fun ok => ?_
  have target : Wf.satTarget tg = true := (Bool.and_eq_true_iff.mp ok).2
  rw [satTarget_eq, decide_eq_true_eq] at target
  refine completesWhen_of_vguard (hx.trans (saturate.eq_def ..)) fun e _ ⟨hsource, hfit⟩ => ⟨?_, ?_⟩
  · have h15 : tagOf e a ≠ 15 := fun h => by simp [h] at hsource
    simpa using ⟨need_eq_none hsource h15, fits_eq_none hfit⟩
  · rw [← unitsOf_of_ne (ne_int4_of_mem target (by decide)) (e.st.rows * e.st.cols)]
    refine vwrite_result d k 0 (fits_max hfit) fun i _ => ?_
    rw [← asInt_signed (widthIn e a) _ (widthOf_pos _), unitAt_eq_elem]
    rfl

end

/-- Settles O26: conversions and saturations are results over the elements of the shape in the width of the target. -/
theorem vectorConvertResult : Obligations.VectorConvertResult := by
  unfold Obligations.VectorConvertResult
  intro iv d a tg k sc s signed
  refine ⟨?_, ?_⟩
  · cases signed <;> exact completesWhen_convert rfl
  · have saturated (inf : Info) (i : Instr) (h : CompletesWhen i inf s
        (fun e => tagOf e a ∈ [1, 2, 3, 4] ∧ Fits e (max (Wf.tagHalf (e.st.V a).tag) (Wf.tagHalf tg)))
        fun e t => VectorEffect e t d (e.st.K k) tg 0 (e.st.rows * e.st.cols) (widthOf tg)
          (fun i _ => clampTo signed (widthOf tg) (BitVec.ofNat (widthIn e a) (unitAt (e.st.V a) (widthIn e a) i)).toInt) 0) := by
      simpa only [clampTo_eq, wrap_eq, loOf, hiOf, Nat.cast_pow, Nat.cast_ofNat] using h
    cases signed
    · exact saturated _ _ (completesWhen_saturate rfl)
    · exact saturated _ _ (completesWhen_saturate rfl)

/-! ## Dot products (R121) -/

/-- The products of a dot product of integers, added to V[d]'s element. -/
theorem foldl_add_eq_sum (l : List Int) (v : Int) : l.foldl (· + ·) v = l.sum + v := by
  induction l generalizing v with
  | nil => rw [List.sum_nil, Int.zero_add]; rfl
  | cons x l ih => rw [List.foldl_cons, ih, List.sum_cons]; omega

/-- An element of the integers of a register. -/
theorem asInt_elem (signed : Bool) {w : Nat} (hw : 0 < w) (r : VReg) (i : Nat) : asInt signed w (elem r.data.toNat w i) =
    if signed then (r.data.extractLsb' (w * i) w).toInt else (unitAt r w i : Int) := by
  have bits : unitAt r w i < 2 ^ w := BitVec.isLt _
  rw [← unitAt_eq_elem]
  cases signed
  · rw [asInt_unsigned, Nat.mod_eq_of_lt bits]; rfl
  · rw [asInt_signed _ _ hw, unitAt, BitVec.ofNat_toNat, BitVec.setWidth_eq]; rfl

/-- Source elements for each element of the result (R121). -/
def dotCount (e : State) (a : BitVec 4) : Nat := if 7 ≤ tagOf e a then 2 else 4

/-- Element i of a dot product in a floating-point format: V[d]'s element and the exact products, rounded once. -/
def dotFloat (e : State) (d a b : BitVec 4) (i : Nat) (f : Fmt) : Nat × Fl :=
  Fmt.f32.sumUp e.st.rm.plain e.st.fz ((Fmt.f32.decode e.st.fz (unitAt (e.st.V d) 32 i), 0) ::
    (List.range (dotCount e a)).map fun j =>
      (f.decode e.st.fz (unitAt (e.st.V a) (widthIn e a) (dotCount e a * i + j))).mul
        (f.decode e.st.fz (unitAt (e.st.V b) (widthIn e a) (dotCount e a * i + j))))

/-- Element i of a dot product of bytes, signed or not. -/
def dotInteger (e : State) (signed : Bool) (d a b : BitVec 4) (i : Nat) : Nat × Fl :=
  intResult e.st.satOn signed 32 (((List.range 4).map fun j => asInt signed 8 (elem (e.st.V a).data.toNat 8 (4 * i + j)) *
    asInt signed 8 (elem (e.st.V b).data.toNat 8 (4 * i + j))).sum + asInt signed 32 (elem (e.st.V d).data.toNat 32 i))

theorem dotWidth_eq {e : State} {a : BitVec 4} (h : tagOf e a ∈ [1, 5, 6, 7, 8]) : dotWidth (e.st.V a).tag = dotCount e a := by
  unfold dotCount tagOf at *
  generalize (e.st.V a).tag = t at *
  revert t
  decide

theorem tag_eq_int8 {t : BitVec 4} (h : t.toNat ∈ [1, 5, 6, 7, 8]) (hf : Fmt.ofTag t = none) : t = 1 := by
  revert t
  decide

theorem ofTag_of_int8 {e : State} {a : BitVec 4} (h : tagOf e a = 1) : Fmt.ofTag (e.st.V a).tag = none := by
  rw [show (e.st.V a).tag = 1 from BitVec.eq_of_toNat_eq h]
  rfl

theorem dotElem_eq {e : State} {a : BitVec 4} (h : tagOf e a ∈ [1, 5, 6, 7, 8]) (signed : Bool) (d b : BitVec 4) (i : Nat) :
    dotElem (e.st.V a).tag signed e.st.satOn e.st.rm.plain e.st.fz (e.st.V a).data.toNat (e.st.V b).data.toNat
      (elem (e.st.V d).data.toNat 32 i) i =
        (Fmt.ofTag (e.st.V a).tag).elim (dotInteger e signed d a b i) (dotFloat e d a b i) := by
  unfold dotElem
  rw [dotWidth_eq h]
  cases hf : Fmt.ofTag (e.st.V a).tag with
  | none =>
    have int8 := tag_eq_int8 h hf
    have four : dotCount e a = 4 := if_neg (by rw [tagOf, int8]; decide)
    rw [int8, four, Option.elim_none, dotInteger, ← foldl_add_eq_sum, List.foldl_map]
    dsimp only
    rw [List.foldl_map]
    rfl
  | some f =>
    simp only [Option.elim_some, dotFloat, List.map_map, unitAt_eq_elem, widthIn]
    rfl

theorem completesWhen_dotProduct {i : Instr} {iv : BitVec 2} {d a b : BitVec 4} {k : BitVec 3} {sc : BitVec 4} {s : State}
    {acc : List Nat} {signed : Bool} (hx : exec i s = dotProduct (encode i) iv d a b k sc acc signed s)
    (hacc : acc ⊆ [1, 5, 6, 7, 8]) :
    CompletesWhen i (infoR (encode i) iv sc (vs [d, a, b] ++ ks [k])) s
      (fun e => tagOf e a ∈ acc ∧ tagOf e b = tagOf e a ∧ tagOf e d = (if tagOf e a = 1 then 3 else 9) ∧ Fits e 8)
      fun e t => VectorEffect e t d (e.st.K k) (e.st.V d).tag 0 (e.st.rows * e.st.cols) 32
        (fun i _ => (Fmt.ofTag (e.st.V a).tag).elim (dotInteger e signed d a b i) (dotFloat e d a b i)) 0 := by
  refine completesWhen_of_vguard (hx.trans (Machine.dotProduct.eq_def ..)) fun e _ ⟨ha, hb, hd, hfit⟩ => ⟨?_, ?_⟩
  · have h15 : tagOf e a ≠ 15 := fun h => absurd (hacc ha) (by simp [h])
    have sum : tagOf e d = (dotTag (e.st.V a).tag).toNat := by
      rw [hd, dotTag, apply_ite BitVec.toNat]
      exact if_congr (BitVec.toNat_inj (y := 1)) rfl rfl
    have target : e.st.need d [(dotTag (e.st.V a).tag).toNat] = none :=
      need_eq_none (List.mem_singleton.mpr sum) (by rw [hd]; split <;> decide)
    simpa [target] using ⟨need_eq_none ha h15, same_eq_none hb h15, fits_eq_none hfit⟩
  · have tags : tagOf e d = 3 ∨ tagOf e d = 9 := by rw [hd]; split <;> simp
    have width : widthOf (e.st.V d).tag = 32 ∧ (e.st.V d).tag ≠ 12 ∧ Wf.tagHalf (e.st.V d).tag = 8 := by
      unfold tagOf at tags
      generalize (e.st.V d).tag = t at tags
      revert t
      decide
    obtain ⟨wide, int4, half⟩ := width
    have effect := vwrite_result (e := e) d k 0 (t := (e.st.V d).tag) (half.symm ▸ hfit) fun i _ => dotElem_eq (hacc ha) signed d b i
    rwa [wide, unitsOf_of_ne int4] at effect

theorem exec_vcmul (iv : BitVec 2) (d a b : BitVec 4) (k : BitVec 3) (sc : BitVec 4) (s : State) :
    exec (.vcmul iv d a b k sc) s = execVcmul iv d a b k sc s := rfl

theorem completesWhen_vcmul (iv : BitVec 2) (d a b : BitVec 4) (k : BitVec 3) (sc : BitVec 4) (s : State) :
    CompletesWhen (.vcmul iv d a b k sc) (infoR (encode (.vcmul iv d a b k sc)) iv sc (vs [d, a, b] ++ ks [k])) s
      (fun e => Ready e a [10] ∧ tagOf e b = 10)
      fun e t => VectorEffect e t d (e.st.K k) 10 0 (e.st.rows * e.st.cols) 64 (fun i _ =>
        cmulElem e.st.rm.plain e.st.fz (unitAt (e.st.V a) 64 i) (unitAt (e.st.V b) 64 i)) 0 := by
  refine completesWhen_of_vguard ((exec_vcmul ..).trans (execVcmul.eq_def ..)) fun e _ ⟨⟨ha, h15, hfit⟩, hb⟩ => ⟨?_, ?_⟩
  · have same : tagOf e b = tagOf e a := hb.trans (List.mem_singleton.mp ha).symm
    simpa using ⟨need_eq_none ha h15, same_eq_none same h15, fits_eq_none hfit⟩
  · have c32 : (e.st.V a).tag = 10 := BitVec.eq_of_toNat_eq (List.mem_singleton.mp ha)
    have numbers : scaleFrom e a = 0 := scaleFrom_eq_zero (by rw [List.mem_singleton.mp ha]; decide)
    have width : widthIn e a = 64 := by rw [widthIn, c32]; rfl
    have units : unitsIn e a = e.st.rows * e.st.cols := by rw [unitsIn, c32]; rfl
    dsimp only
    rw [lane_eq]
    have effect := vwrite_lanes d a k (fun i => unitAt (e.st.V b) (widthIn e a) i)
      (op := fun p q _ => cmulElem e.st.rm.plain e.st.fz p q) hfit numbers fun _ => rfl
    rw [width, units, c32] at effect
    rwa [width]

/-- Settles O29: products and sums are exact, and what is not an integer is rounded once, at the end. -/
theorem dotResult : Obligations.DotResult := by
  unfold Obligations.DotResult
  intro iv d a b k sc s
  refine ⟨fun passes ready => ?_, fun passes ⟨ha, hb, hd, hfit⟩ => ?_, completesWhen_vcmul iv d a b k sc s⟩
  · obtain ⟨t, next, effect⟩ := completesWhen_dotProduct (i := .vdot iv d a b k sc) (signed := true) rfl (List.Subset.refl _) passes ready
    refine ⟨t, next, ?_⟩
    convert effect using 2 with i
    cases Fmt.ofTag _ with
    | none => simp only [Option.elim_none, dotInteger, asInt_elem true, Nat.zero_lt_succ, if_true]
    | some f => rfl
  · obtain ⟨t, next, effect⟩ := completesWhen_dotProduct (i := .vdotN iv d a b k sc) (acc := [1]) (signed := false) rfl
      (by decide) passes ⟨List.mem_singleton.mpr ha, hb.trans ha.symm, hd.trans (if_pos ha).symm, hfit⟩
    refine ⟨t, next, ?_⟩
    convert effect using 2 with i
    rw [ofTag_of_int8 ha, Option.elim_none, dotInteger]
    simp only [asInt_elem false, Nat.zero_lt_succ, Bool.false_eq_true, if_false, Nat.cast_add, Nat.cast_list_sum, List.map_map]
    rfl

end Sys2Proof.Claims

/-!
Packing and unpacking of int4 and trits (03 R45, R48, 06 R113).
-/
namespace Sys2Proof.Machine

/-! ## Bytes of a register, and their halves -/

/-- Byte i of a register made of n bytes. -/
theorem elem_buildBytes (n : Nat) (f : Nat → Nat × Fl) (i : Nat) :
    elem (buildBytes n f).1 8 i = if i < n then (f i).1 % 256 else 0 := by
  split
  next h => simpa [buildBytes, unitOf] using elem_mapUnits 8 (fun _ => true) 0 (fun i _ => f i) h 0 0
  next h => exact elem_of_lt (mapUnits_lt ..) (Nat.not_lt.mp h)

/-- Bytes that each raise one flag or none raise it where one of them does. -/
theorem buildBytes_flag {n : Nat} {f : Nat → Nat × Fl} {p : Nat → Bool} {c : Fl} (h : ∀ i, i < n → (f i).2 = Fl.when (p i) c) :
    (buildBytes n f).2 = Fl.when ((List.range n).any p) c := by
  apply BitVec.eq_of_getLsbD_eq
  intro b _
  have raised (i : Nat) (hi : i < n) : (f i).2.getLsbD b = (p i && c.getLsbD b) := by
    rw [h i hi, Fl.when]
    cases p i <;> simp
  have all : (buildBytes n f).2.getLsbD b = true ↔ ∃ i, i < n ∧ (f i).2.getLsbD b = true := by
    simpa [buildBytes] using mapUnits_flag 8 (fun _ => true) 0 (fun i _ => f i) n 0 0 b
  have any : (Fl.when ((List.range n).any p) c).getLsbD b = ((List.range n).any p && c.getLsbD b) := by
    rw [Fl.when]
    cases (List.range n).any p <;> simp
  rw [Bool.eq_iff_iff, all, any, Bool.and_eq_true, List.any_eq_true]
  constructor
  · rintro ⟨i, hi, hb⟩
    rw [raised i hi, Bool.and_eq_true] at hb
    exact ⟨⟨i, List.mem_range.mpr hi, hb.1⟩, hb.2⟩
  · rintro ⟨⟨i, hi, hp⟩, hc⟩
    have hi := List.mem_range.mp hi
    exact ⟨i, hi, by rw [raised i hi, hp, hc]; rfl⟩

/-- The half-bytes of a number are the halves of its bytes. -/
theorem elem_nibble (data i : Nat) : elem data 4 i = elem data 8 (i / 2) / 16 ^ (i % 2) % 16 := by
  have split' : data / 2 ^ (4 * i) = data / 2 ^ (8 * (i / 2)) / 16 ^ (i % 2) := by
    rw [Nat.div_div_eq_div_mul, show (16 : Nat) = 2 ^ 4 from rfl, ← Nat.pow_mul, ← Nat.pow_add]
    congr 2
    omega
  rw [elem, elem, split']
  generalize data / 2 ^ (8 * (i / 2)) = x
  obtain h | h := Nat.mod_two_eq_zero_or_one i <;> rw [h] <;> omega

/-! ## Integers of a width -/

/-- A number in the range of a width is what its bits stand for. -/
theorem toInt_of_toNat_wrap {w : Nat} (hw : 0 < w) {y : BitVec w} {z : Int} (h : y.toNat = wrap w z) (low : -2 ^ (w - 1) ≤ z)
    (high : z < 2 ^ (w - 1)) : y.toInt = z := by
  have bits : y = BitVec.ofInt w z := BitVec.eq_of_toNat_eq (h.trans (BitVec.toNat_ofInt ..).symm)
  rw [bits]
  exact BitVec.toInt_ofInt_eq_self hw low high

theorem wrap_lt (w : Nat) (z : Int) : wrap w z < 2 ^ w := by
  have pos : (0 : Int) < (2 ^ w : Nat) := by exact_mod_cast Nat.two_pow_pos w
  have := Int.emod_lt_of_pos z pos
  have := Int.emod_nonneg z pos.ne'
  rw [wrap]
  omega

/-! ## Trits (R48) -/

/-- A value of a trit. -/
def IsTrit (z : Int) : Prop := z = -1 ∨ z = 0 ∨ z = 1

/-- The digit of a trit in its byte. -/
theorem IsTrit.digit {z : Int} (h : IsTrit z) : (z + 1).toNat ≤ 2 ∧ z = (z + 1).toNat - 1 := by
  unfold IsTrit at h
  omega

/-- The byte of five trits by its digits. -/
theorem tritByte_eq (t : Nat → Int) : tritByte t = (t 0 + 1).toNat + 3 * (t 1 + 1).toNat + 9 * (t 2 + 1).toNat +
    27 * (t 3 + 1).toNat + 81 * (t 4 + 1).toNat := by
  simp only [tritByte, List.range, List.range.loop, List.foldl]
  omega

theorem tritByte_le (t : Nat → Int) (h : ∀ i, IsTrit (t i)) : tritByte t ≤ 242 := by
  have d0 := (h 0).digit.1; have d1 := (h 1).digit.1; have d2 := (h 2).digit.1; have d3 := (h 3).digit.1
  have d4 := (h 4).digit.1
  rw [tritByte_eq]
  omega

/-- A byte of trits gives each of them back. -/
theorem tritOf_tritByte (t : Nat → Int) (h : ∀ i, IsTrit (t i)) {i : Nat} (hi : i < 5) : tritOf (tritByte t) i = t i := by
  have d0 := (h 0).digit.1; have d1 := (h 1).digit.1; have d2 := (h 2).digit.1; have d3 := (h 3).digit.1
  have d4 := (h 4).digit.1
  have value := (h i).digit.2
  rw [tritOf, if_neg (Nat.not_lt.mpr (tritByte_le t h)), tritByte_eq, value]
  congr 2
  generalize hd0 : (t 0 + 1).toNat = x0, hd1 : (t 1 + 1).toNat = x1, hd2 : (t 2 + 1).toNat = x2, hd3 : (t 3 + 1).toNat = x3,
    hd4 : (t 4 + 1).toNat = x4 at *
  obtain rfl | rfl | rfl | rfl | rfl : i = 0 ∨ i = 1 ∨ i = 2 ∨ i = 3 ∨ i = 4 := by omega
  all_goals clear value; omega

/-- Whatever a byte is, its trits are trits. -/
theorem isTrit_tritOf (b i : Nat) : IsTrit (tritOf b i) := by
  unfold IsTrit tritOf
  split <;> omega

end Sys2Proof.Machine


namespace Sys2Proof.Claims
open Machine

/-! ## vpack (R113) -/

/-- The int8 elements of V[a], as vpack finds them: none beyond the shape. -/
def int8s (x : Strand) (a : BitVec 4) (i : Nat) : Option Int :=
  if i < x.elems then some (asInt true 8 (elem (x.V a).data.toNat 8 i)) else none

theorem int8s_getD (e : State) (a : BitVec 4) (i : Nat) : (int8s e.st a i).getD 0 =
    if i < e.st.rows * e.st.cols then ((e.st.V a).data.extractLsb' (8 * i) 8).toInt else 0 := by
  rw [int8s, asInt_elem true (by decide), if_pos rfl, apply_ite (Option.getD · 0)]
  rfl

theorem int8s_getD_of_le {x : Strand} {a : BitVec 4} {i : Nat} (h : x.elems ≤ i) : (int8s x a i).getD 0 = 0 := by
  rw [int8s, if_neg (Nat.not_lt.mpr h), Option.getD_none]

/-- An element that int4 does not hold, and one that a trit does not. -/
def beyondInt4 (z : Int) : Bool := decide (z < -8 ∨ 7 < z)
def beyondTrit (z : Int) : Bool := decide (z < -1 ∨ 1 < z)

theorem nibbleOf_eq (v : Nat → Option Int) (i : Nat) :
    nibbleOf v i = (wrap 4 (max (-8) (min 7 ((v i).getD 0))), Fl.when (beyondInt4 ((v i).getD 0)) Fl.sat) := by
  have clamped (z : Int) : clampTo true 4 z = (wrap 4 (max (-8) (min 7 z)), Fl.when (beyondInt4 z) Fl.sat) := by
    rw [clampTo_eq, Fl.when, beyondInt4]
    refine Prod.ext rfl ?_
    have range : (loOf true 4 ≤ z ∧ z ≤ hiOf true 4) ↔ ¬(z < -8 ∨ 7 < z) := by
      rw [show loOf true 4 = -8 from rfl, show hiOf true 4 = 7 from rfl]
      omega
    rw [if_congr range rfl rfl, ite_not]
    exact if_congr decide_eq_true_iff.symm rfl rfl
  unfold nibbleOf
  cases v i with
  | none => rw [Option.getD_none]; decide
  | some z => exact clamped z

theorem signOf_eq (v : Nat → Option Int) (i : Nat) :
    signOf v i = if (v i).getD 0 < 0 then -1 else if 0 < (v i).getD 0 then 1 else 0 := by
  unfold signOf
  cases v i <;> rfl

theorem isTrit_signOf (v : Nat → Option Int) (i : Nat) : IsTrit (signOf v i) := by
  rw [signOf_eq]
  unfold IsTrit
  split_ifs <;> omega

/-- A byte of two nibbles. -/
def nibblesAt (v : Nat → Option Int) (j : Nat) : Nat × Fl :=
  ((nibbleOf v (2 * j)).1 + 16 * (nibbleOf v (2 * j + 1)).1, (nibbleOf v (2 * j)).2 ||| (nibbleOf v (2 * j + 1)).2)

/-- Every nibble is its element, clamped. -/
theorem elem_nibblesAt {v : Nat → Option Int} {n : Nat} (hv : ∀ i, n ≤ i → (v i).getD 0 = 0) (i : Nat) :
    elem (buildBytes ((n + 1) / 2) (nibblesAt v)).1 4 i = wrap 4 (max (-8) (min 7 ((v i).getD 0))) := by
  rw [elem_nibble, elem_buildBytes]
  split
  next inside =>
    have low := wrap_lt 4 (max (-8) (min 7 ((v (2 * (i / 2))).getD 0)))
    have high := wrap_lt 4 (max (-8) (min 7 ((v (2 * (i / 2) + 1)).getD 0)))
    rw [nibblesAt, nibbleOf_eq, nibbleOf_eq]
    obtain h | h := Nat.mod_two_eq_zero_or_one i
    · rw [show 2 * (i / 2) = i by omega] at low ⊢
      rw [h]
      dsimp only
      omega
    · rw [show 2 * (i / 2) + 1 = i by omega] at high ⊢
      rw [h]
      dsimp only
      omega
  next outside =>
    rw [hv i (by omega), Nat.zero_div, Nat.zero_mod]
    rfl

/-- The flag of packed nibbles. -/
theorem flag_nibblesAt {v : Nat → Option Int} {n : Nat} (hv : ∀ i, n ≤ i → (v i).getD 0 = 0) :
    ∃ p : Bool, (buildBytes ((n + 1) / 2) (nibblesAt v)).2 = Fl.when p Fl.sat ∧
      (p = true ↔ ∃ i, (v i).getD 0 < -8 ∨ 7 < (v i).getD 0) := by
  refine ⟨_, buildBytes_flag (p := fun j => beyondInt4 ((v (2 * j)).getD 0) || beyondInt4 ((v (2 * j + 1)).getD 0))
    fun j _ => ?_, ?_⟩
  · rw [nibblesAt, nibbleOf_eq, nibbleOf_eq]
    dsimp only
    cases beyondInt4 ((v (2 * j)).getD 0) <;> cases beyondInt4 ((v (2 * j + 1)).getD 0) <;> rfl
  · simp only [List.any_eq_true, List.mem_range, Bool.or_eq_true, beyondInt4, decide_eq_true_eq]
    constructor
    · rintro ⟨j, -, h | h⟩
      · exact ⟨_, h⟩
      · exact ⟨_, h⟩
    · rintro ⟨i, h⟩
      have inside : i < n := by
        by_contra beyond
        rw [hv i (by omega)] at h
        omega
      refine ⟨i / 2, by omega, ?_⟩
      obtain even | odd := Nat.mod_two_eq_zero_or_one i
      · exact .inl (by rwa [show 2 * (i / 2) = i by omega])
      · exact .inr (by rwa [show 2 * (i / 2) + 1 = i by omega])

/-- A byte of five trits. -/
def tritsAt (v : Nat → Option Int) (j : Nat) : Nat × Fl := (tritByte fun i => signOf v (5 * j + i), 0)

theorem elem_tritsAt (v : Nat → Option Int) (m j : Nat) :
    elem (buildBytes m (tritsAt v)).1 8 j = if j < m then tritByte fun i => signOf v (5 * j + i) else 0 := by
  have byte := tritByte_le (fun i => signOf v (5 * j + i)) fun i => isTrit_signOf v _
  rw [elem_buildBytes, tritsAt]
  exact if_congr Iff.rfl (Nat.mod_eq_of_lt (by omega)) rfl

theorem tritOf_tritsAt (v : Nat → Option Int) {m i : Nat} (hi : i < 5 * m) :
    tritOf (elem (buildBytes m (tritsAt v)).1 8 (i / 5)) (i % 5) = signOf v i := by
  rw [elem_tritsAt, if_pos (by omega), tritOf_tritByte _ (fun _ => isTrit_signOf v _) (by omega), Nat.div_add_mod]

/-- What vpack makes of its source: the bytes under the tag, and the flag. -/
def packed (x : Strand) (a t : BitVec 4) : Nat × Fl :=
  if t = 12 then buildBytes ((x.elems + 1) / 2) (nibblesAt (int8s x a))
  else ((buildBytes ((x.elems + 4) / 5) (tritsAt (int8s x a))).1,
    Fl.when ((List.range x.elems).any fun i => beyondTrit ((int8s x a i).getD 0)) Fl.sat)

theorem beyondTrit_int8s (x : Strand) (a : BitVec 4) (i : Nat) :
    (match int8s x a i with | some y => decide (1 < y.natAbs) | none => false) = beyondTrit ((int8s x a i).getD 0) := by
  cases int8s x a i with
  | none => rfl
  | some z => exact decide_eq_decide.mpr (by dsimp only [Option.getD_some]; omega)

theorem exec_vpack (iv : BitVec 2) (d a t sc : BitVec 4) (s : State) :
    exec (.vpack iv d a t sc) s = vguard ((infoR (encode (.vpack iv d a t sc)) iv sc (vs [d, a])).need (t == 11 || t == 12))
      (fun x => [x.need a [1], x.fits 2]) s fun s => s.vwrite d (mkVReg (packed s.st a t).1 256 t 0, (packed s.st a t).2) := by
  unfold packed
  simp only [← beyondTrit_int8s]
  rfl

/-- No flag but sat, and that where an element lies beyond what it is packed into. -/
theorem flag_packed (x : Strand) (a t : BitVec 4) : ∃ p : Bool, (packed x a t).2 = Fl.when p Fl.sat ∧
    (p = true ↔ ∃ i, if t = 12 then (int8s x a i).getD 0 < -8 ∨ 7 < (int8s x a i).getD 0
      else (int8s x a i).getD 0 < -1 ∨ 1 < (int8s x a i).getD 0) := by
  unfold packed
  split
  next => exact flag_nibblesAt fun i hi => int8s_getD_of_le hi
  next =>
    refine ⟨_, rfl, ?_⟩
    simp only [List.any_eq_true, List.mem_range, beyondTrit, decide_eq_true_eq]
    refine ⟨fun ⟨i, _, h⟩ => ⟨i, h⟩, fun ⟨i, h⟩ => ⟨i, ?_, h⟩⟩
    by_contra beyond
    rw [int8s_getD_of_le (Nat.not_lt.mp beyond)] at h
    omega

/-! ## Registers of bytes -/

theorem buildBytes_lt {n : Nat} (h : n ≤ 256) (f : Nat → Nat × Fl) : (buildBytes n f).1 < 2 ^ (8 * 256) :=
  Nat.lt_of_lt_of_le (mapUnits_lt ..) (Nat.pow_le_pow_right Nat.two_pos (Nat.mul_le_mul_left 8 h))

theorem packed_lt {x : Strand} (h : x.elems ≤ 256) (a t : BitVec 4) : (packed x a t).1 < 2 ^ (8 * 256) := by
  unfold packed
  split <;> exact buildBytes_lt (by omega) _

theorem unitAt_mkVReg {data : Nat} (h : data < 2 ^ (8 * 256)) (t : BitVec 4) (scale : Word) (w i : Nat) :
    unitAt (mkVReg data 256 t scale) w i = elem data w i := by
  rw [unitAt_eq_elem, toNat_mkVReg t scale le_rfl h]

theorem vwritten_V_same (e : State) (draws : Nat) (d : BitVec 4) (r : VReg) (fl : Fl) : (vwritten e draws d r fl).st.V d = r :=
  (vwritten_V ..).trans (if_pos rfl)

/-- The flags that an instruction of one kind of flag leaves. -/
theorem fcr_vwritten_when (e : State) (d : BitVec 4) (r : VReg) (p : Bool) (c : Fl) :
    (vwritten e 0 d r (Fl.when p c)).st.ctl.fcr = if p then e.st.ctl.fcr ||| (c.setWidth 15 <<< 8) else e.st.ctl.fcr := by
  rw [vwritten_ctl]
  cases p
  · exact BitVec.or_zero
  · rfl

theorem completesWhen_vpack (iv : BitVec 2) (d a tg sc : BitVec 4) (s : State) :
    CompletesWhen (.vpack iv d a tg sc) ((infoR (encode (.vpack iv d a tg sc)) iv sc (vs [d, a])).need (tg == 11 || tg == 12)) s
      (fun e => tagOf e a = 1 ∧ Fits e 2)
      fun e t => (t.st.V d).tag = tg ∧ (t.st.V d).scale = 0 ∧ OnlyV e t d ∧
        ∀ x : Nat → Int, (∀ i, x i = if i < e.st.rows * e.st.cols then ((e.st.V a).data.extractLsb' (8 * i) 8).toInt else 0) →
          (tg = 12 → ∀ i, ((t.st.V d).data.extractLsb' (4 * i) 4).toInt = max (-8) (min 7 (x i))) ∧
          (tg = 11 → ∀ i, i < 5 * ((e.st.rows * e.st.cols + 4) / 5) →
            tritOf (unitAt (t.st.V d) 8 (i / 5)) (i % 5) = if x i < 0 then -1 else if 0 < x i then 1 else 0) ∧
          (tg = 11 → ∀ j, (e.st.rows * e.st.cols + 4) / 5 ≤ j → unitAt (t.st.V d) 8 j = 0) ∧
          ((∀ i, if tg = 12 then -8 ≤ x i ∧ x i ≤ 7 else -1 ≤ x i ∧ x i ≤ 1) → t.st.ctl.fcr = e.st.ctl.fcr) ∧
          ((∃ i, if tg = 12 then x i < -8 ∨ 7 < x i else x i < -1 ∨ 1 < x i) →
            t.st.ctl.fcr = e.st.ctl.fcr ||| (Fl.sat.setWidth 15 <<< 8)) := by
  refine completesWhen_of_vguard (exec_vpack ..) fun e _ ⟨ha, hfit⟩ => ⟨?_, _, vwrite_eq .., ?_⟩
  · simpa using ⟨need_eq_none (List.mem_singleton.mpr ha) (by omega), fits_eq_none hfit⟩
  obtain ⟨p, flag, raised⟩ := flag_packed e.st a tg
  have room : e.st.elems ≤ 256 := by unfold Fits at hfit; rw [Strand.elems]; omega
  have bytes := unitAt_mkVReg (packed_lt room a tg) tg 0
  dsimp only
  rw [flag, fcr_vwritten_when, vwritten_V_same]
  refine ⟨rfl, rfl, onlyV_vwritten .., fun x hx => ?_⟩
  obtain rfl : x = fun i => (int8s e.st a i).getD 0 := funext fun i => (hx i).trans (int8s_getD e a i).symm
  refine ⟨fun ht i => ?_, fun ht i hi => ?_, fun ht j hj => ?_, fun kept => ?_, fun beyond => ?_⟩
  · refine toInt_of_toNat_wrap (by decide) ((bytes 4 i).trans ?_) (by omega) (by omega)
    rw [packed, if_pos ht]
    exact elem_nibblesAt (fun j hj => int8s_getD_of_le hj) i
  · rw [bytes, packed, if_neg (by rw [ht]; decide), ← signOf_eq]
    exact tritOf_tritsAt _ hi
  · rw [bytes, packed, if_neg (by rw [ht]; decide), elem_tritsAt]
    exact if_neg (Nat.not_lt.mpr hj)
  · refine if_neg fun hp => ?_
    obtain ⟨i, beyond⟩ := raised.mp hp
    have inside := kept i
    dsimp only at inside
    split at beyond
    next ht => rw [if_pos ht] at inside; omega
    next ht => rw [if_neg ht] at inside; omega
  · exact if_pos (raised.mpr beyond)

/-! ## vunpack (R113) -/

/-- What vunpack makes of its source: the bytes, and the flag. -/
def unpacked (x : Strand) (a : BitVec 4) : Nat × Fl :=
  if (x.V a).tag = 12 then buildBytes x.elems fun i => (wrap 8 (asInt true 4 (elem (x.V a).data.toNat 4 i)), 0)
  else buildBytes (5 * x.elems) fun i => (wrap 8 (tritOf (elem (x.V a).data.toNat 8 (i / 5)) (i % 5)),
    Fl.when (decide (242 < elem (x.V a).data.toNat 8 (i / 5))) Fl.tinv)

theorem exec_vunpack (iv : BitVec 2) (d a sc : BitVec 4) (s : State) :
    exec (.vunpack iv d a sc) s = vguard (infoR (encode (.vunpack iv d a sc)) iv sc (vs [d, a]))
      (fun x => [x.need a [11, 12], x.fits 2,
        if (x.V a).tag = 11 ∧ 5 * x.elems > 256 then some (0x21, x.shapeVal 2 0) else none]) s
      fun s => s.vwrite d (mkVReg (unpacked s.st a).1 256 1 0, (unpacked s.st a).2) := rfl

theorem unpacked_lt {x : Strand} {a : BitVec 4} (h : x.elems ≤ 256) (trits : (x.V a).tag ≠ 12 → 5 * x.elems ≤ 256) :
    (unpacked x a).1 < 2 ^ (8 * 256) := by
  unfold unpacked
  split
  next => exact buildBytes_lt h _
  next ht => exact buildBytes_lt (trits ht) _

/-- No flag but tinv, and that where a byte of trits stands for none. -/
theorem flag_unpacked (x : Strand) (a : BitVec 4) : ∃ p : Bool, (unpacked x a).2 = Fl.when p Fl.tinv ∧
    (p = true ↔ (x.V a).tag ≠ 12 ∧ ∃ j, j < x.elems ∧ 242 < unitAt (x.V a) 8 j) := by
  unfold unpacked
  split
  next ht =>
    refine ⟨_, buildBytes_flag (p := fun _ => false) fun _ _ => rfl, ?_⟩
    simp [ht]
  next ht =>
    refine ⟨_, buildBytes_flag (p := fun i => decide (242 < elem (x.V a).data.toNat 8 (i / 5))) fun _ _ => rfl, ?_⟩
    simp only [List.any_eq_true, List.mem_range, decide_eq_true_eq, unitAt_eq_elem]
    constructor
    · rintro ⟨i, hi, h⟩
      exact ⟨ht, i / 5, by omega, h⟩
    · rintro ⟨-, j, hj, h⟩
      exact ⟨5 * j, by omega, by rwa [Nat.mul_div_cancel_left j (by decide)]⟩

/-- A byte that holds a small number, or is beyond the bytes built. -/
theorem toInt_byte {y : BitVec 8} {n i : Nat} {z : Int} (h : y.toNat = if i < n then wrap 8 z % 256 else 0) (low : -8 ≤ z) (high : z < 8) :
    y.toInt = if i < n then z else 0 := by
  split
  next inside =>
    rw [if_pos inside, Nat.mod_eq_of_lt (b := 256) (wrap_lt 8 z)] at h
    exact toInt_of_toNat_wrap (by decide) h (by omega) (by omega)
  next outside =>
    rw [if_neg outside] at h
    rw [BitVec.eq_of_toNat_eq (y := 0#8) h]
    rfl

theorem completesWhen_vunpack (iv : BitVec 2) (d a sc : BitVec 4) (s : State) :
    CompletesWhen (.vunpack iv d a sc) (infoR (encode (.vunpack iv d a sc)) iv sc (vs [d, a])) s
      (fun e => (tagOf e a = 12 ∧ Fits e 2) ∨ (tagOf e a = 11 ∧ Fits e 2 ∧ 5 * (e.st.rows * e.st.cols) ≤ 256))
      fun e t => (t.st.V d).tag = 1 ∧ (t.st.V d).scale = 0 ∧ OnlyV e t d ∧
        (tagOf e a = 12 → ∀ i, ((t.st.V d).data.extractLsb' (8 * i) 8).toInt =
          if i < e.st.rows * e.st.cols then ((e.st.V a).data.extractLsb' (4 * i) 4).toInt else 0) ∧
        (tagOf e a = 11 → ∀ i, ((t.st.V d).data.extractLsb' (8 * i) 8).toInt =
          if i < 5 * (e.st.rows * e.st.cols) then tritOf (unitAt (e.st.V a) 8 (i / 5)) (i % 5) else 0) ∧
        ((tagOf e a = 12 ∨ ∀ j, j < e.st.rows * e.st.cols → unitAt (e.st.V a) 8 j ≤ 242) → t.st.ctl.fcr = e.st.ctl.fcr) ∧
        ((tagOf e a = 11 ∧ ∃ j, j < e.st.rows * e.st.cols ∧ 242 < unitAt (e.st.V a) 8 j) →
          t.st.ctl.fcr = e.st.ctl.fcr ||| (Fl.tinv.setWidth 15 <<< 8)) := by
  refine completesWhen_of_vguard (exec_vunpack ..) fun e _ source => ?_
  have tags : tagOf e a = 11 ∨ tagOf e a = 12 := source.elim (fun h => .inr h.1) fun h => .inl h.1
  have hfit : Fits e 2 := source.elim (·.2) (·.2.1)
  have trits : (e.st.V a).tag ≠ 12 → 5 * e.st.elems ≤ 256 := fun ht =>
    source.elim (fun h => absurd (BitVec.eq_of_toNat_eq (y := 12) h.1) ht) (·.2.2)
  refine ⟨?_, _, vwrite_eq .., ?_⟩
  · have shape : ¬ ((e.st.V a).tag = 11 ∧ 5 * e.st.elems > 256) := fun ⟨ht, big⟩ =>
      absurd (trits (by rw [ht]; decide)) (Nat.not_le.mpr big)
    have need := need_eq_none (e := e) (a := a) (ok := [11, 12]) (by simpa using tags) (by omega)
    simp only [List.forall_mem_cons, List.not_mem_nil, false_imp_iff, implies_true, and_true]
    exact ⟨need, fits_eq_none hfit, if_neg shape⟩
  obtain ⟨p, flag, raised⟩ := flag_unpacked e.st a
  have room : e.st.elems ≤ 256 := by unfold Fits at hfit; rw [Strand.elems]; omega
  have bytes := unitAt_mkVReg (unpacked_lt room trits) 1 0 8
  have int4 : (e.st.V a).tag = 12 ↔ tagOf e a = 12 := BitVec.toNat_inj.symm
  dsimp only
  rw [flag, fcr_vwritten_when, vwritten_V_same]
  refine ⟨rfl, rfl, onlyV_vwritten .., fun ht i => ?_, fun ht i => ?_, fun sound => ?_, fun ⟨ht, bad⟩ => ?_⟩
  · have low := BitVec.le_toInt ((e.st.V a).data.extractLsb' (4 * i) 4)
    have high := BitVec.toInt_lt (x := (e.st.V a).data.extractLsb' (4 * i) 4)
    refine toInt_byte ((bytes i).trans ?_) low high
    rw [unpacked, if_pos (int4.mpr ht), elem_buildBytes, asInt_elem true (by decide), if_pos rfl]
    rfl
  · have trit := isTrit_tritOf (unitAt (e.st.V a) 8 (i / 5)) (i % 5)
    unfold IsTrit at trit
    refine toInt_byte ((bytes i).trans ?_) (by omega) (by omega)
    rw [unpacked, if_neg (by rw [int4, ht]; decide), elem_buildBytes, unitAt_eq_elem]
    rfl
  · refine if_neg fun hp => ?_
    obtain ⟨ht, j, hj, bad⟩ := raised.mp hp
    exact sound.elim (fun h => ht (int4.mpr h)) fun h => absurd (h j hj) (Nat.not_le.mpr bad)
  · exact if_pos (raised.mpr ⟨by rw [Ne, int4, ht]; decide, bad⟩)

/-- Settles O27: each byte, nibble and trit that packing builds is the one that its unit asks for. -/
theorem packResult : Obligations.PackResult := by
  unfold Obligations.PackResult
  exact fun iv d a tg sc s => ⟨completesWhen_vpack iv d a tg sc s, completesWhen_vunpack iv d a sc s⟩

end Sys2Proof.Claims

/-!
Lists of plain loads (06 R117 to R120): what a load that succeeds has found, and that each load leaves the others as they may be made.
-/
namespace Sys2Proof.Claims
open Machine

/-! ## Results that go on -/

theorem bind_eq_ok {α β : Type} {r : Res α} {k : α → State → Res β} {y : β} {t : State} :
    r.bind k = .ok y t ↔ ∃ x s, r = .ok x s ∧ k x s = .ok y t := by
  constructor
  · intro h
    cases r with
    | ok x s => exact ⟨x, s, rfl, h⟩
    | trap => cases h
    | stop => cases h
  · rintro ⟨x, s, rfl, h⟩
    exact h

/-! ## Checks 1 to 6 (R95) -/

section
variable {s s' : State} {x : Strand} {a : Acc} {va : Word} {n : Nat} {t tgt : Target}

/-- What is passed is the target that was found. -/
theorem eq_of_spaceCheck_eq_ok (h : spaceCheck s a va t = .ok tgt s') : t = tgt ∧ s' = s := by
  unfold spaceCheck at h
  generalize t.space = space at h
  cases space <;> dsimp only at h
  case host => cases h
  case config =>
    split at h
    · cases h; exact ⟨rfl, rfl⟩
    · cases h
  case fabric =>
    split at h
    · cases h
    split at h
    · cases h
    · cases h; exact ⟨rfl, rfl⟩
  case nothing => split at h <;> cases h
  all_goals cases h; exact ⟨rfl, rfl⟩

theorem eq_of_targetCheck_eq_ok (h : targetCheck s a va t = .ok tgt s') : t = tgt ∧ s' = s := by
  unfold targetCheck at h
  split at h
  · cases h
  split at h
  · cases h
  split at h
  · cases h
  · exact eq_of_spaceCheck_eq_ok h

theorem targetCheck_of_check (h : s.check x a va n = .ok tgt s') :
    Formed a va ∧ va.toNat % n = 0 ∧ s.find x va = some tgt ∧ targetCheck s a va tgt = .ok tgt s := by
  have formed : Formed a va := by
    by_contra bad
    rw [check_unformed bad] at h
    cases h
  rw [check_formed formed] at h
  split at h
  next => cases h
  next aligned =>
    cases found : s.find x va with
    | none => rw [found] at h; cases h
    | some t =>
      rw [found] at h
      obtain ⟨rfl, rfl⟩ := eq_of_targetCheck_eq_ok h
      exact ⟨formed, not_not.mp aligned, rfl, h⟩

theorem eq_of_check_eq_ok (h : s.check x a va n = .ok tgt s') : s' = s := by
  obtain ⟨formed, aligned, found, passed⟩ := targetCheck_of_check h
  rw [check_formed formed, if_neg (not_not.mpr aligned), found, Option.elim_some, passed] at h
  cases h
  rfl

/-- Another state in which the same covers the address passes it too. -/
theorem check_of_find {m : State} (h : s.check x a va n = .ok tgt s) (find : m.find x va = s.find x va) :
    m.check x a va n = .ok tgt m := by
  obtain ⟨formed, aligned, found, passed⟩ := targetCheck_of_check h
  rw [check_formed formed, if_neg (not_not.mpr aligned), find, found]
  exact targetCheck_eq_ok.mpr (targetCheck_eq_ok.mp passed)

end

/-! ## Fills of the read cache (R206, R207) -/

/-- A line that is found where the lines of one number have been taken out. -/
theorem find?_filter_line {l : List RcLine} {line out : Nat} {c : RcLine}
    (h : (l.filter (·.line != out)).find? (·.line == line) = some c) : l.find? (·.line == line) = some c ∧ line ≠ out := by
  have here : c.line = line := by simpa using List.find?_some h
  have kept : c.line ≠ out := bne_iff_ne.mp (List.mem_filter.mp (List.mem_of_find?_eq_some h)).2
  have other : line ≠ out := here ▸ kept
  rw [List.find?_filter] at h
  have same : (fun a : RcLine => decide (a.line != out ∧ a.line == line)) = fun a => a.line == line := by
    funext a
    by_cases ha : a.line = line <;> simp [ha, other]
  exact ⟨by simpa [other] using same ▸ h, other⟩

theorem core_modCore (s : State) (core : Nat) (f : Core → Core) : (s.modCore core f).core core = f (s.core core) :=
  Assoc.getD_modify_same ..

/-- A line found in a list that a line has been put behind. -/
theorem find?_append_line {l : List RcLine} {new c : RcLine} {line : Nat}
    (h : (l ++ [new]).find? (·.line == line) = some c) : l.find? (·.line == line) = some c ∨ (line = new.line ∧ c = new) := by
  rw [List.find?_append, Option.or_eq_some_iff] at h
  refine h.imp id fun ⟨_, found⟩ => ?_
  obtain rfl : c = new := List.mem_singleton.mp (List.mem_of_find?_eq_some found)
  have here := List.find?_some found
  exact ⟨(beq_iff_eq.mp here).symm, rfl⟩

/-- A fill changes the lines of its core's read cache alone, and they are lines that it held and the new one. -/
theorem fill_core (s : State) (core : Nat) (l : RcLine) :
    ∃ lines, (s.fill core l).core core = { s.core core with rcache := lines } ∧
      ∀ line c, lines.find? (·.line == line) = some c → (s.core core).cached line = some c ∨ (line = l.line ∧ c = l) := by
  unfold State.fill
  simp only
  split
  · rw [core_modCore]
    exact ⟨_, rfl, fun line c h => (find?_append_line h).imp (fun old => (find?_filter_line old).1) id⟩
  · split
    · exact ⟨(s.core core).rcache, rfl, fun line c h => .inl h⟩
    · rw [core_modCore]
      exact ⟨_, rfl, fun line c h => (find?_append_line h).imp (fun old => (find?_filter_line (find?_filter_line old).1).1) id⟩

/-! ## What a load that succeeds has found (R94, R206) -/

/-- What a load keeps that the checks of others depend on: the cover, poison and lock of every address. -/
structure LoadKeeps (x : Strand) (s m : State) : Prop where
  woken  : Woken s.st m.st
  find   : ∀ va, m.find x va = s.find x va
  poison : m.poison = s.poison
  locks  : m.locks = s.locks
  lock   : ∀ addr, lockSeen m x.core addr = lockSeen s x.core addr ∨ lockSeen m x.core addr = s.lockAt addr

theorem LoadKeeps.refl (x : Strand) (s : State) : LoadKeeps x s s := ⟨.inl rfl, fun _ => rfl, rfl, rfl, fun _ => .inl rfl⟩

/-- What covers an address depends on the part alone that its core has. -/
theorem find_of_part {s m : State} {x : Strand} (h : (m.core x.core).part = (s.core x.core).part) (va : Word) :
    m.find x va = s.find x va := by
  have size : m.scratchOf x.core = s.scratchOf x.core := by rw [State.scratchOf, h]; rfl
  unfold State.find
  rw [size]

/-- The locks of a line's halves are those of its granules (R212). -/
theorem lockAt_half (s : State) (addr : Nat) :
    (if addr % 64 < 32 then s.lockAt (Memory.line addr) else s.lockAt (Memory.line addr + 32)) = s.lockAt addr := by
  unfold State.lockAt Memory.line
  split <;> congr 1 <;> omega

variable {s m : State} {x : Strand} {va : Word} {t : Target} {size pol v : Nat} {tag : Bool}

/-- The line as a load from memory puts it into the read cache. -/
def filledLine (e : State) (addr pol : Nat) : RcLine :=
  ⟨Memory.line addr, e.lineAt (Memory.line addr), e.lockAt (Memory.line addr), e.lockAt (Memory.line addr + 32), pol⟩

/-- A load that succeeds has left the state it found, or has filled its line from it. -/
theorem loadAt_cases (h : s.loadAt x va t size pol tag = .ok v m) : v = seenBy x s t size ∧
    ((findsFor x s t.addr = s ∧ m = s) ∨ ∃ e, findsFor x s t.addr = e ∧ m = e.fill x.core (filledLine e t.addr pol)) := by
  unfold State.loadAt at h
  unfold seenBy
  by_cases scratch : spaceOf t.addr = .scratch
  · simp only [scratch] at h
    split at h
    · cases h
    · cases h
      exact ⟨(if_pos scratch).symm, .inl ⟨if_pos (.inl scratch), rfl⟩⟩
  · rw [if_neg scratch]
    cases cached : (s.core x.core).cached (Memory.line t.addr) with
    | some c =>
      have found : findsFor x s t.addr = s := if_pos (.inr (by rw [cached]; rfl))
      simp only [cached] at h
      obtain ⟨_, _, -, h⟩ := bind_eq_ok.mp h
      rw [found, lineSeen, cached]
      split at h
      · cases h
      · cases h
        exact ⟨rfl, .inl ⟨rfl, rfl⟩⟩
    | none =>
      have found : findsFor x s t.addr = (s.behind x (Memory.line t.addr)).reach (dieOf x.core) (Memory.line t.addr) :=
        if_neg (by simp [scratch, cached])
      have cores := (performed_findsFor x s t.addr).cores
      simp only [cached] at h
      rw [← found] at h
      generalize findsFor x s t.addr = e at cores h ⊢
      have uncached : (e.core x.core).cached (Memory.line t.addr) = none := by rw [State.core, cores]; exact cached
      obtain ⟨_, _, -, h⟩ := bind_eq_ok.mp h
      rw [lineSeen, uncached]
      split at h
      · cases h
      · cases h
        exact ⟨rfl, .inr ⟨e, rfl, rfl⟩⟩

/-- What a fill keeps, and what it makes of the lock that a load compares with. -/
theorem loadKeeps_fill {e : State} (performed : Performed s e) {addr : Nat} :
    LoadKeeps x s (e.fill x.core (filledLine e addr pol)) := by
  have same : e.core x.core = s.core x.core := by rw [State.core, performed.cores]; rfl
  have locks (a : Nat) : e.lockAt a = s.lockAt a := by rw [State.lockAt, performed.locks]; rfl
  obtain ⟨c, n, frame⟩ := fill_frame e x.core (filledLine e addr pol)
  obtain ⟨lines, core, held⟩ := fill_core e x.core (filledLine e addr pol)
  generalize e.fill x.core _ = m at frame core
  refine ⟨by rw [frame]; exact performed.st, find_of_part (by rw [core, same]), by rw [frame]; exact performed.poison,
    by rw [frame]; exact performed.locks, fun a => ?_⟩
  have there : (m.core x.core).cached (Memory.line a) = lines.find? (·.line == Memory.line a) := by rw [core]; rfl
  unfold lockSeen
  rw [there]
  cases found : lines.find? (·.line == Memory.line a) with
  | none => exact .inr (by rw [State.lockAt, frame]; exact locks a)
  | some c =>
    obtain old | ⟨line, rfl⟩ := held _ _ found
    · rw [same] at old
      rw [old]
      exact .inl rfl
    · refine .inr ?_
      dsimp only [filledLine] at line ⊢
      rw [locks, locks, ← line]
      exact lockAt_half s a

/-- A load that succeeds has given what it finds, is a step as the statements say, and leaves others as they may be made. -/
theorem step_of_loadAt (h : s.loadAt x va t size pol tag = .ok v m) :
    v = seenBy x s t size ∧ LoadStep x s m t.addr ∧ LoadKeeps x s m := by
  have performed := performed_findsFor x s t.addr
  obtain ⟨rfl, ⟨found, rfl⟩ | ⟨e, found, rfl⟩⟩ := loadAt_cases h
  · refine ⟨rfl, ⟨?_, rfl, ?_, Eq.refl _, fun _ _ h => .inl h⟩, .refl x _⟩ <;> rw [found]
    exact fun _ => rfl
  · rw [found] at performed
    refine ⟨rfl, ?_, loadKeeps_fill performed⟩
    have same : e.core x.core = s.core x.core := by rw [State.core, performed.cores]; rfl
    obtain ⟨c, n, frame⟩ := fill_frame e x.core (filledLine e t.addr pol)
    obtain ⟨lines, core, held⟩ := fill_core e x.core (filledLine e t.addr pol)
    generalize e.fill x.core _ = m at frame core
    refine ⟨by rw [found, frame]; exact fun _ => rfl, by rw [frame]; exact performed.locks, by rw [found, frame],
      by rw [core, same], fun line c h => ?_⟩
    rw [core] at h
    rw [found, ← same]
    exact (held line c h).imp id fun ⟨here, new⟩ => ⟨here, by rw [new, here]; rfl⟩

theorem step_of_loadPlain {a : Acc} (h : s.loadPlain x a va size pol = .ok v m) :
    ∃ t, s.find x va = some t ∧ v = seenBy x s t size ∧ LoadStep x s m t.addr ∧ LoadKeeps x s m := by
  obtain ⟨t, s', checked, loaded⟩ := bind_eq_ok.mp h
  obtain rfl := eq_of_check_eq_ok checked
  obtain ⟨-, -, found, -⟩ := targetCheck_of_check checked
  exact ⟨t, found, step_of_loadAt loaded⟩

/-- Loads that succeed one after the other have given what each found (R119). -/
theorem loadsInOrder_of_performLoads {l : List Word} {vals : List Nat} {t : State} (h : s.performLoads x size pol l = .ok vals t) :
    LoadsInOrder x size s l vals t ∧ Woken s.st t.st ∧ t.locks = s.locks := by
  induction l generalizing s vals with
  | nil => cases h; exact ⟨⟨rfl, rfl⟩, .inl rfl, rfl⟩
  | cons a l ih =>
    obtain ⟨v, m, loaded, h⟩ := bind_eq_ok.mp h
    obtain ⟨rest, m', performed, h⟩ := bind_eq_ok.mp h
    cases h
    obtain ⟨tgt, found, rfl, step, kept⟩ := step_of_loadPlain loaded
    obtain ⟨order, woken, locks⟩ := ih performed
    exact ⟨⟨tgt, m, rest, found, rfl, step, order⟩, kept.woken.trans woken, locks.trans kept.locks⟩

/-! ## Loads that may be made (R95) -/

/-- An address may be loaded from by a strand. -/
def MayLoadAt (x : Strand) (s : State) (size : Nat) (va : Word) : Prop :=
  ∃ t, s.check x .load va size = .ok t s ∧ s.poisoned (Memory.line t.addr) = false ∧
    (t.t = true → keyOf va = lockSeen s x.core t.addr ∧ keyOf va = s.lockAt t.addr)

/-- Another load leaves it so. -/
theorem MayLoadAt.kept (h : MayLoadAt x s size va) (kept : LoadKeeps x s m) : MayLoadAt x m size va := by
  obtain ⟨t, checked, clean, key⟩ := h
  refine ⟨t, check_of_find checked (kept.find va), by rw [State.poisoned, kept.poison]; exact clean, fun tagged => ?_⟩
  obtain ⟨seen, lock⟩ := key tagged
  refine ⟨?_, by rw [State.lockAt, kept.locks]; exact lock⟩
  obtain same | side := kept.lock t.addr
  · rw [same, seen]
  · rw [side, lock]

/-- The lock that a load compares with does not depend on the writes ahead of it. -/
theorem lockSeen_findsFor (x : Strand) (s : State) (addr a : Nat) : lockSeen (findsFor x s addr) x.core a = lockSeen s x.core a := by
  have performed := performed_findsFor x s addr
  have same : (findsFor x s addr).core x.core = s.core x.core := by rw [State.core, performed.cores]; rfl
  unfold lockSeen
  rw [same, State.lockAt, performed.locks]
  rfl

theorem loadPlain_of_mayLoadAt (pol : Nat) (h : MayLoadAt x s size va) : ∃ v m, s.loadPlain x .load va size pol = .ok v m := by
  obtain ⟨t, checked, clean, key⟩ := h
  obtain ⟨c, n, loaded⟩ := loadAt_ok (x := x) (size := size) (pol := pol) (tag := true) (va := va)
    (by rw [State.poisoned, (performed_findsFor x s t.addr).poison]; exact clean)
    fun _ _ tagged => (key tagged).1.trans (lockSeen_findsFor x s t.addr t.addr).symm
  exact ⟨_, _, bind_eq_ok.mpr ⟨t, s, checked, loaded⟩⟩

theorem checkLoads_ok (pol : Nat) {l : List Word} (h : ∀ a ∈ l, MayLoadAt x s size a) : s.checkLoads x size pol l = .ok () s := by
  induction l with
  | nil => rfl
  | cons a l ih =>
    obtain ⟨first, rest⟩ := List.forall_mem_cons.mp h
    obtain ⟨v, m, loaded⟩ := loadPlain_of_mayLoadAt pol first
    exact bind_eq_ok.mpr ⟨v, m, loaded, ih rest⟩

theorem performLoads_ok (pol : Nat) {l : List Word} (h : ∀ a ∈ l, MayLoadAt x s size a) :
    ∃ vals t, s.performLoads x size pol l = .ok vals t := by
  induction l generalizing s with
  | nil => exact ⟨[], s, rfl⟩
  | cons a l ih =>
    obtain ⟨first, rest⟩ := List.forall_mem_cons.mp h
    obtain ⟨v, m, loaded⟩ := loadPlain_of_mayLoadAt pol first
    obtain ⟨_, _, _, _, kept⟩ := step_of_loadPlain loaded
    obtain ⟨vals, t, performed⟩ := ih fun a ha => (rest a ha).kept kept
    exact ⟨v :: vals, t, bind_eq_ok.mpr ⟨v, m, loaded, bind_eq_ok.mpr ⟨vals, t, performed, rfl⟩⟩⟩

/-- Each load of a list that may be made succeeds, and so does the list. -/
theorem loadList_of_mayLoad {e : State} {l : List Word} (h : MayLoad e size l) :
    ∃ vals e', e.loadList e.st size e.policy l = .ok vals e' := by
  refine h.elim (fun loadable => ?_) id
  have each : ∀ a ∈ l, MayLoadAt e.st e size a := fun a ha => by
    obtain ⟨t, granted, -, clean, key⟩ := loadable a ha
    exact ⟨t, granted_iff.mp granted, clean, key⟩
  obtain ⟨vals, t, performed⟩ := performLoads_ok e.policy each
  exact ⟨vals, t, bind_eq_ok.mpr ⟨(), e, checkLoads_ok e.policy each, performed⟩⟩

/-! ## Addresses (R117, R120) -/

theorem unitAddr_eq (e : State) (b : BitVec 5) (l : BitVec 2) (t : BitVec 4) : e.st.unitAddr b l t = layoutAddr e b l t := by
  funext i
  unfold Strand.unitAddr layoutAddr
  simp only [leaOf_eq]
  obtain rfl | rfl | rfl | rfl : l = 0 ∨ l = 1 ∨ l = 2 ∨ l = 3 := by revert l; decide
  all_goals rfl

theorem indexAddr_eq (e : State) (b : BitVec 5) (x : BitVec 4) (l : BitVec 2) : e.st.indexAddr b x l = gatherAddr e b x l := by
  funext i
  unfold Strand.indexAddr gatherAddr
  rw [leaOf_eq, unitAt_eq_elem, BitVec.signExtend, ← asInt_signed (widthIn e x) _ (widthOf_pos _)]
  rfl

theorem evenCols_eq_none {e : State} {l : BitVec 2} {t : BitVec 4} (h : t = 12 → l = 1 → e.st.cols % 2 = 0) :
    e.st.evenCols l t = none :=
  if_neg fun ⟨int4, rows, odd⟩ => by have := h int4 rows; omega

theorem isB_iff (t : BitVec 4) : isB t = true ↔ t = 13 ∨ t = 14 := by revert t; decide

/-- The checks of a gather or scatter (R120). -/
theorem indexChecks_eq_none {e : State} {d x : BitVec 4} (int4 : tagOf e d ≠ 12) (reserved : tagOf e d ≠ 15)
    (index : tagOf e x ∈ [3, 4]) (hfit : Fits e (max (Wf.tagHalf (e.st.V d).tag) (Wf.tagHalf (e.st.V x).tag))) :
    ∀ c ∈ indexChecks d x e.st, c = none := by
  have h15 : tagOf e x ≠ 15 := fun h => by simp [h] at index
  simpa [indexChecks] using ⟨need_eq_none (mem_tNo4 int4 reserved) reserved, need_eq_none index h15, fits_eq_none hfit⟩

/-! ## Vector loads and gathers -/

/-- Loads of a list into the active units of V[d]. -/
theorem completesWhen_loads {i : Instr} {inf : Info} {s : State} {d : BitVec 4} {k : BitVec 3} {checks : Strand → List Check}
    {tag : State → BitVec 4} {scale : State → Word} {l : State → List Word} {pre : State → Prop}
    (hx : exec i s = vguard inf checks s fun s =>
      (s.loadList s.st (widthOf (tag s) / 8) s.policy (l s)).out fun vals s' =>
        .next (s'.retireLL inf (vs [d]) [.v d (s.st.loadResult d k (tag s) (scale s) vals)]))
    (passed : ∀ e, pre e → ∀ c ∈ checks e.st, c = none) (hfit : ∀ e, pre e → Fits e (Wf.tagHalf (tag e)))
    (may : ∀ e, pre e → MayLoad e (widthOf (tag e) / 8) (l e)) :
    CompletesWhen i inf s pre fun e t => VectorLoaded e t inf d k (tag e) (scale e) (unitsOf (tag e) (e.st.rows * e.st.cols))
      (widthOf (tag e)) (l e) := by
  refine completesWhen_of_vguard hx fun e _ ready => ⟨passed e ready, ?_⟩
  obtain ⟨vals, e', loaded⟩ := loadList_of_mayLoad (may e ready)
  obtain ⟨_, _, -, performed⟩ := bind_eq_ok.mp loaded
  obtain ⟨order, woken, locks⟩ := loadsInOrder_of_performLoads performed
  rw [loaded]
  exact ⟨_, rfl, e.st.loadResult d k (tag e) (scale e) vals, vals, e', order, fun _ => rfl, locks,
    lanes_units d k (scale e) _ (hfit e ready), outstanding_of_woken inf _ _ woken⟩

theorem exec_vld (iv : BitVec 2) (d : BitVec 4) (b : BitVec 5) (t : BitVec 4) (k : BitVec 3) (l : BitVec 2) (sc : BitVec 4) (s : State) :
    exec (.vld iv d b t k l sc) s =
      vguard ((infoLL (encode (.vld iv d b t k l sc)) iv sc (vs [d] ++ layoutRegs b l ++ ks [k])).need (Wf.vldLayout t b l))
        (fun x => [x.fits (Wf.tagHalf t), x.evenCols l t]) s fun e =>
        (e.loadList e.st (widthOf t / 8) e.policy ((activeOnes e k (unitsOf t (e.st.rows * e.st.cols))).map (layoutAddr e b l t))).out
          fun vals e' => .next (e'.retireLL
            ((infoLL (encode (.vld iv d b t k l sc)) iv sc (vs [d] ++ layoutRegs b l ++ ks [k])).need (Wf.vldLayout t b l))
            (vs [d]) [.v d (e.st.loadResult d k t (if t = 13 ∨ t = 14 then 0x7F7F7F7F7F7F7F7F else 0) vals)]) := by
  simp only [← unitAddr_eq, ← isB_iff]
  rfl

theorem exec_vgather (iv : BitVec 2) (d : BitVec 4) (b : BitVec 5) (x : BitVec 4) (k : BitVec 3) (l : BitVec 2) (sc : BitVec 4)
    (s : State) :
    exec (.vgather iv d b x k l sc) s =
      vguard (infoLL (encode (.vgather iv d b x k l sc)) iv sc (vs [d] ++ gs [b] ++ vs [x] ++ ks [k])) (indexChecks d x) s fun e =>
        (e.loadList e.st (widthOf (e.st.V d).tag / 8) e.policy
          ((activeOnes e k (e.st.rows * e.st.cols)).map (gatherAddr e b x l))).out fun vals e' =>
          .next (e'.retireLL (infoLL (encode (.vgather iv d b x k l sc)) iv sc (vs [d] ++ gs [b] ++ vs [x] ++ ks [k]))
            (vs [d]) [.v d (e.st.loadResult d k (e.st.V d).tag (e.st.V d).scale vals)]) := by
  simp only [← indexAddr_eq]
  rfl

/-- Settles O32: a list of loads that each may be made succeeds, and each finds what a plain load finds. -/
theorem vectorLoadResult : Obligations.VectorLoadResult := by
  unfold Obligations.VectorLoadResult
  intro iv d b tg k l sc x s inf
  refine ⟨?_, ?_⟩
  · rintro rfl
    exact completesWhen_loads (exec_vld ..)
      (fun e ⟨hfit, even, _⟩ => by simpa using ⟨fits_eq_none hfit, evenCols_eq_none even⟩) (fun e ⟨hfit, _, _⟩ => hfit)
      fun e ⟨_, _, may⟩ => may
  · rintro rfl passes ready
    have gathered := completesWhen_loads (exec_vgather iv d b x k l sc s)
      (pre := fun e => tagOf e d ≠ 12 ∧ tagOf e d ≠ 15 ∧ tagOf e x ∈ [3, 4] ∧
        Fits e (max (Wf.tagHalf (e.st.V d).tag) (Wf.tagHalf (e.st.V x).tag)) ∧
        MayLoad e (widthIn e d / 8) ((activeOnes e k (e.st.rows * e.st.cols)).map (gatherAddr e b x l)))
      (fun e ⟨int4, reserved, index, hfit, _⟩ => indexChecks_eq_none int4 reserved index hfit)
      (fun e ⟨_, _, _, hfit, _⟩ => (Nat.mul_le_mul_left _ (le_max_left ..)).trans hfit) (fun e ⟨_, _, _, _, may⟩ => may) passes ready
    obtain ⟨t, next, loaded⟩ := gathered
    rw [unitsOf_of_ne fun int4 => ready.1 (congrArg BitVec.toNat int4)] at loaded
    exact ⟨t, next, loaded⟩

end Sys2Proof.Claims

/-!
Lists of plain stores (06 R117 to R120): what their checks perform, and what the store buffer shows behind them.
-/
namespace Sys2Proof.Claims
open Machine

/-! ## What lies ahead of an access does not depend on the cores (R225, R230) -/

/-- The states agree in all but their cores, and in whether an access has crossed a link that is retraining. -/
def Agree (s t : State) : Prop := ∃ cores crossed, t = { s with cores := cores, crossed := crossed }

theorem Agree.refl (s : State) : Agree s s := ⟨s.cores, s.crossed, rfl⟩

theorem Agree.trans {s t u : State} (h : Agree s t) (h' : Agree t u) : Agree s u := by
  obtain ⟨_, _, rfl⟩ := h
  obtain ⟨c, b, rfl⟩ := h'
  exact ⟨c, b, rfl⟩

section
variable {s t : State} (h : Agree s t)
include h

theorem Agree.modStrand (sid : Nat) (f : Strand → Strand) : Agree (s.modStrand sid f) (t.modStrand sid f) := by
  obtain ⟨c, b, rfl⟩ := h
  unfold State.modStrand
  dsimp only
  split
  · exact ⟨c, b, rfl⟩
  · split <;> exact ⟨c, b, rfl⟩

theorem Agree.fireWatches (line : Nat) : Agree (s.fireWatches line) (t.fireWatches line) := by
  have die (d : Nat) : t.die d = s.die d := by obtain ⟨_, _, rfl⟩ := h; rfl
  have owner : t.ownerDie line = s.ownerDie line := by obtain ⟨_, _, rfl⟩ := h; rfl
  unfold State.fireWatches
  simp only [owner, die]
  split
  · exact h
  · refine List.foldl_rel ?_ fun w _ s t h => h.modStrand w.sid _
    obtain ⟨c, b, rfl⟩ := h
    exact ⟨c, b, rfl⟩

theorem Agree.performWrite (line mask data : Nat) : Agree (s.performWrite line mask data) (t.performWrite line mask data) := by
  have freed : t.freed line = s.freed line := by obtain ⟨_, _, rfl⟩ := h; rfl
  unfold State.performWrite
  rw [freed]
  split
  · exact h
  · refine Agree.fireWatches ?_ line
    obtain ⟨c, b, rfl⟩ := h
    exact ⟨c, b, rfl⟩

theorem Agree.countAccess (die line : Nat) : Agree (s.countAccess die line) (t.countAccess die line) := by
  have work : t.inWork line = s.inWork line := by obtain ⟨_, _, rfl⟩ := h; rfl
  unfold State.countAccess
  rw [work]
  split
  · split
    · exact h
    · obtain ⟨c, b, rfl⟩ := h
      exact ⟨c, b, rfl⟩
  · exact h

theorem Agree.cross (a d : Nat) : Agree (s.cross a d) (t.cross a d) := by
  obtain ⟨c, b, rfl⟩ := h
  unfold State.cross
  split <;> split <;> exact ⟨c, _, rfl⟩

theorem Agree.pathStep (a d : Nat) : Agree (s.pathStep a d) (t.pathStep a d) := by
  have path : t.path a d = s.path a d := by obtain ⟨_, _, rfl⟩ := h; rfl
  cases writes : (s.path a d).writes with
  | nil => rwa [State.pathStep, State.pathStep, path, writes]
  | cons w rest =>
    have taken : Agree (setPath s a d rest) (setPath t a d rest) := by
      obtain ⟨c, b, rfl⟩ := h
      exact ⟨c, b, rfl⟩
    rw [pathStep_cons writes, pathStep_cons (path ▸ writes)]
    exact ((taken.cross a d).countAccess a w.line).performWrite ..

theorem Agree.pathFlush (a d : Nat) : Agree (s.pathFlush a d) (t.pathFlush a d) := by
  have path : t.path a d = s.path a d := by obtain ⟨_, _, rfl⟩ := h; rfl
  unfold State.pathFlush
  rw [path]
  exact List.foldl_rel h fun _ _ s t h => h.pathStep a d

/-- So a strand finds the same of its own writes performed. -/
theorem Agree.behind (x : Strand) (line : Nat) : Agree (s.behind x line) (t.behind x line) := by
  refine List.foldl_rel h fun d _ s t h => ?_
  have owner : t.ownerDie line = s.ownerDie line := by obtain ⟨_, _, rfl⟩ := h; rfl
  rw [owner]
  exact h.pathFlush d _

theorem Agree.bytes : BytesKept s t := by
  obtain ⟨_, _, rfl⟩ := h
  exact fun _ => rfl

end

/-- What a strand finds performed depends on the dies it has left alone. -/
theorem behind_of_woken {x y : Strand} (h : Woken x y) (s : State) (line : Nat) : s.behind y line = s.behind x line := by
  rw [h.eq]
  rfl

/-! ## The checks of a list of stores (R119, R209) -/

section
variable {s m : State} {x : Strand} {va : Word} {t g : Target} {size : Nat}

theorem eq_of_checkTag_eq_ok {lock : BitVec 4} (h : s.checkTag x va t lock = .ok g m) : m = s := by
  unfold State.checkTag at h
  split at h
  · cases h
  · cases h
    rfl

/-- A check that passes has performed no more than what a lock read finds ahead of it. -/
theorem performed_checkStore (h : s.checkStore x va size = .ok g m) : Performed s m := by
  obtain ⟨t, s', checked, passed⟩ := bind_eq_ok.mp h
  obtain rfl := eq_of_check_eq_ok checked
  split at passed
  · rw [eq_of_checkTag_eq_ok passed]
    exact .refl _
  · rw [eq_of_checkTag_eq_ok passed]
    split
    · exact (performed_behindDies ..).trans (performed_reach ..)
    · exact .refl _

/-- The checks of a list give one target for each address. -/
theorem checkStores_frame {l : List Word} {ts : List Target} (h : s.checkStores x size l = .ok ts m) :
    ts.length = l.length ∧ Performed s m := by
  induction l generalizing s ts with
  | nil => cases h; exact ⟨rfl, .refl _⟩
  | cons a l ih =>
    obtain ⟨g, s', checked, h⟩ := bind_eq_ok.mp h
    have rest : ∃ ts', s'.checkStores x size l = .ok ts' m ∧ ts = g :: ts' := by
      split at h
      · split at h
        · cases h
        · obtain ⟨ts', m', passed, h⟩ := bind_eq_ok.mp h
          cases h
          exact ⟨ts', passed, rfl⟩
      · obtain ⟨ts', m', passed, h⟩ := bind_eq_ok.mp h
        cases h
        exact ⟨ts', passed, rfl⟩
    obtain ⟨ts', passed, rfl⟩ := rest
    obtain ⟨length, performed⟩ := ih passed
    exact ⟨congrArg (· + 1) length, (performed_checkStore checked).trans performed⟩

end

/-! ## A list of stores into the buffer (R94, R205) -/

theorem length_putInto_le (buf : List SbLine) (line : Nat) (f : SbLine → SbLine) : (putInto buf line f).length ≤ buf.length + 1 := by
  unfold putInto
  split
  · rw [List.length_map]
    exact Nat.le_succ _
  · rw [List.length_append, List.length_singleton]

/-- Byte i of a line as a core sees it. -/
def seenByte (s : State) (core line : Nat) (base : Line) (i : Nat) : Byte := ((s.core core).merge line base).extractLsb' (8 * i) 8

variable {s b : State} {x : Strand} {size : Nat}

/-- One store of a list, into a buffer with room. -/
theorem storeTarget_buffered {p : Target × Word × Nat} (space : spaceOf p.1.addr = .dieMem ∨ spaceOf p.1.addr = .priv)
    (small : p.2.2 < 2 ^ 64) (room : (s.core x.core).sbuf.length < 32) :
    Agree (s.behind x (Memory.line p.1.addr)) (s.storeTarget x size p) ∧ Woken s.st (s.storeTarget x size p).st ∧
      ((s.storeTarget x size p).core x.core).sbuf.length ≤ (s.core x.core).sbuf.length + 1 ∧
      ∀ line base i, i < 64 → seenByte (s.storeTarget x size p) x.core line base i =
        overlaid [(p.1, p.2.2)] size line i (seenByte s x.core line base i) := by
  have performed : Performed s (s.behind x (Memory.line p.1.addr)) := performed_behindDies ..
  have same : (s.behind x (Memory.line p.1.addr)).core x.core = s.core x.core := by rw [State.core, performed.cores]; rfl
  have stored : s.storeTarget x size p = (s.behind x (Memory.line p.1.addr)).bufferStore x.core x.pid (Memory.line p.1.addr)
      (p.1.addr % 64) size p.2.2 (vaLines p.2.1) := by
    obtain space | space := space <;> simp only [State.storeTarget, State.storeAt, space]
  have room : ((s.behind x (Memory.line p.1.addr)).core x.core).sbuf.length < 32 ∨
      ((s.behind x (Memory.line p.1.addr)).core x.core).sbuf.any (·.line == Memory.line p.1.addr) = true :=
    .inl (by rwa [same])
  have put := bufferStore_eq x.pid (p.1.addr % 64) size p.2.2 (vaLines p.2.1) room
  refine ⟨?_, ?_, ?_, fun line base i hi => ?_⟩
  · rw [stored, put]
    exact ⟨_, _, rfl⟩
  · rw [stored, put]
    exact performed.st
  · rw [stored, put, core_modCore, ← same]
    exact length_putInto_le ..
  · have value : (BitVec.ofNat 64 p.2.2).toNat = p.2.2 := Nat.mod_eq_of_lt small
    have seen := merge_bufferStore x.pid (BitVec.ofNat 64 p.2.2) (vaLines p.2.1) room line base hi (size := size)
    rw [value, same, ← ofNat_byte, value] at seen
    rw [seenByte, stored]
    exact seen

/-- A list of stores into a buffer with room. -/
theorem storeTargets_buffered (l : List (Target × Word × Nat)) (agree : Agree b s)
    (space : ∀ p ∈ l, spaceOf p.1.addr = .dieMem ∨ spaceOf p.1.addr = .priv) (small : ∀ p ∈ l, p.2.2 < 2 ^ 64)
    (room : (s.core x.core).sbuf.length + l.length ≤ 32) :
    Agree (l.foldl (fun b p => b.behind x (Memory.line p.1.addr)) b) (l.foldl (fun s p => s.storeTarget x size p) s) ∧
      Woken s.st (l.foldl (fun s p => s.storeTarget x size p) s).st ∧
      ∀ line base i, i < 64 → seenByte (l.foldl (fun s p => s.storeTarget x size p) s) x.core line base i =
        overlaid (l.map fun p => (p.1, p.2.2)) size line i (seenByte s x.core line base i) := by
  induction l generalizing b s with
  | nil => exact ⟨agree, .inl rfl, fun _ _ _ _ => rfl⟩
  | cons p l ih =>
    rw [List.length_cons] at room
    obtain ⟨here, rest⟩ := List.forall_mem_cons.mp space
    obtain ⟨fits, smaller⟩ := List.forall_mem_cons.mp small
    obtain ⟨step, woken, length, seen⟩ := storeTarget_buffered (s := s) (x := x) (size := size) here fits (by omega)
    obtain ⟨agree', woken', seen'⟩ := ih ((agree.behind x _).trans step) rest smaller (by omega)
    refine ⟨agree', woken.trans woken', fun line base i hi => ?_⟩
    rw [List.foldl_cons, seen' line base i hi, seen line base i hi]
    rfl

/-- The stores of a list whose checks pass, each with its target. -/
theorem storeList_buffered {e e' : State} {ts : List Target} {l : List (Word × Nat)}
    (checked : e.checkStores e.st size (l.map (·.1)) = .ok ts e') (space : ∀ g ∈ ts, spaceOf g.addr = .dieMem ∨ spaceOf g.addr = .priv)
    (room : (e.core e.st.core).sbuf.length + ts.length ≤ 32) (small : ∀ p ∈ l, p.2 < 2 ^ 64) :
    ∃ t, storeList e size l = .next t ∧ StrandGoesOn e t ∧
      BytesKept (ts.foldl (fun s g => s.behind e.st (Memory.line g.addr)) e') t ∧ ∀ line base i, i < 64 →
      seenByte t e.st.core line base i = overlaid (ts.zip (l.map (·.2))) size line i (seenByte e e.st.core line base i) := by
  obtain ⟨length, performed⟩ := checkStores_frame checked
  have woken := performed.st
  have core : e'.st.core = e.st.core := by rw [woken.eq]
  have same : e'.core e.st.core = e.core e.st.core := by rw [State.core, performed.cores]; rfl
  have targets : (ts.zip l).map (·.1) = ts := List.map_fst_zip (by rw [length, List.length_map])
  have values : (ts.zip l).map (fun p => (p.1, p.2.2)) = ts.zip (l.map (·.2)) := by rw [List.zip_map_right]; rfl
  have free : (ts.any (fun g => spaceOf g.addr == .fabric) && e'.reflectFull e'.st.pid || ts.any (e'.scratchBusy · size)) = false := by
    have fabric : ts.any (fun g => spaceOf g.addr == .fabric) = false :=
      List.any_eq_false.mpr fun g hg => by obtain h | h := space g hg <;> rw [h] <;> decide
    have scratch : ts.any (e'.scratchBusy · size) = false := List.any_eq_false.mpr fun g hg => by
      unfold State.scratchBusy
      obtain h | h := space g hg <;> rw [h] <;> exact Bool.false_ne_true
    rw [fabric, scratch]
    rfl
  obtain ⟨agree, woken', seen⟩ := storeTargets_buffered (x := e'.st) (size := size) (ts.zip l) (.refl e')
    (fun p hp => space p.1 (List.of_mem_zip hp).1) (fun p hp => small p.2 (List.of_mem_zip hp).2)
    (by rw [core, same, List.length_zip]; omega)
  refine ⟨_, by rw [storeList, checked]; exact if_neg (Bool.eq_false_iff.mp free), strandGoesOn_of_woken (woken.trans woken'), ?_,
    fun line base i hi => ?_⟩
  · have behind : (ts.zip l).foldl (fun b p => b.behind e'.st (Memory.line p.1.addr)) e' =
        ts.foldl (fun s g => s.behind e.st (Memory.line g.addr)) e' := by
      conv_rhs => rw [← targets, List.foldl_map]
      simp only [behind_of_woken woken]
    rw [← behind]
    exact agree.bytes
  · have before : seenByte e' e.st.core line base i = seenByte e e.st.core line base i := by rw [seenByte, same]; rfl
    rw [← before, ← values, ← core]
    exact seen line base i hi

/-! ## Vector stores and scatters -/

theorem elem_lt (data w i : Nat) : elem data w i < 2 ^ w := Nat.mod_lt _ (Nat.two_pow_pos w)

theorem widthOf_le (t : BitVec 4) : widthOf t ≤ 64 := by revert t; decide

/-- Stores of the elements of V[d]. -/
theorem storeList_units {e e' : State} {ts : List Target} {d : BitVec 4} {units : List Nat} {addr : Nat → Word}
    (checked : e.checkStores e.st (widthIn e d / 8) (units.map addr) = .ok ts e')
    (space : ∀ g ∈ ts, spaceOf g.addr = .dieMem ∨ spaceOf g.addr = .priv)
    (room : (e.core e.st.core).sbuf.length + ts.length ≤ 32) :
    ∃ t, storeList e (widthIn e d / 8) (units.map fun i => (addr i, elem (e.st.V d).data.toNat (widthIn e d) i)) = .next t ∧
      StrandGoesOn e t ∧ BytesKept (ts.foldl (fun s g => s.behind e.st (Memory.line g.addr)) e') t ∧ ∀ line base i, i < 64 →
      ((t.core e.st.core).merge line base).extractLsb' (8 * i) 8 =
        overlaid (ts.zip (units.map fun u => unitAt (e.st.V d) (widthIn e d) u)) (widthIn e d / 8) line i
          (((e.core e.st.core).merge line base).extractLsb' (8 * i) 8) := by
  have stored := storeList_buffered (l := units.map fun i => (addr i, elem (e.st.V d).data.toNat (widthIn e d) i))
    (by rw [List.map_map]; exact checked) space room fun p hp => by
      obtain ⟨i, -, rfl⟩ := List.mem_map.mp hp
      exact (elem_lt ..).trans_le (Nat.pow_le_pow_right (by decide) (widthOf_le _))
  simpa only [List.map_map, Function.comp_def, seenByte, ← unitAt_eq_elem] using stored

theorem exec_vst (iv : BitVec 2) (d : BitVec 4) (b : BitVec 5) (k : BitVec 3) (l : BitVec 2) (sc : BitVec 4) (s : State) :
    exec (.vst iv d b k l sc) s =
      vguard ((infoR (encode (.vst iv d b k l sc)) iv sc (vs [d] ++ layoutRegs b l ++ ks [k])).need (Wf.vstLayout b l))
        (fun x => [x.need d (layoutTags l), x.fits (x.halfOf d), x.evenCols l (x.V d).tag]) s fun e =>
        storeList e (widthIn e d / 8) ((activeOnes e k (unitsIn e d)).map fun i =>
          (layoutAddr e b l (e.st.V d).tag i, elem (e.st.V d).data.toNat (widthIn e d) i)) := by
  simp only [← unitAddr_eq]
  rfl

theorem exec_vscatter (iv : BitVec 2) (d : BitVec 4) (b : BitVec 5) (x : BitVec 4) (k : BitVec 3) (l : BitVec 2) (sc : BitVec 4)
    (s : State) :
    exec (.vscatter iv d b x k l sc) s =
      vguard (infoR (encode (.vscatter iv d b x k l sc)) iv sc (vs [d] ++ gs [b] ++ vs [x] ++ ks [k])) (indexChecks d x) s fun e =>
        storeList e (widthIn e d / 8) ((activeOnes e k (e.st.rows * e.st.cols)).map fun i =>
          (gatherAddr e b x l i, elem (e.st.V d).data.toNat (widthIn e d) i)) := by
  simp only [← indexAddr_eq]
  rfl

/-- Settles O33: the buffer takes each store behind the one before it, and shows its bytes over what it showed. -/
theorem vectorStoreResult : Obligations.VectorStoreResult := by
  unfold Obligations.VectorStoreResult
  intro iv d b k l sc x s ts e'
  refine ⟨completesWhen_of_vguard (exec_vst ..) fun e _ ⟨tags, reserved, hfit, even, checked, space, room⟩ => ⟨?_, ?_⟩,
    completesWhen_of_vguard (exec_vscatter ..) fun e _ ⟨int4, reserved, index, hfit, checked, space, room⟩ => ⟨?_, ?_⟩⟩
  · simpa using ⟨need_eq_none tags reserved, fits_eq_none hfit, evenCols_eq_none fun int4 => even (congrArg BitVec.toNat int4)⟩
  · exact storeList_units checked space room
  · exact indexChecks_eq_none int4 reserved index hfit
  · exact storeList_units checked space room

end Sys2Proof.Claims

/-!
The machine right after reset (07 R131, 20 R352, 22 R368, 24 R389, R403).
-/
namespace Sys2Proof.Claims
open Machine

/-- No queue of a quad holds an entry at reset, whatever its number. -/
theorem queue_reset (q n : Nat) : (State.reset.quad q).queue n = [] := by
  unfold Quad.queue
  split
  · rfl
  · split <;> rfl

/-- Settles O60: every part of the reset state has its stated value by computation, and its memory, of zero bytes alone, is in
canonical form. -/
theorem resetState : Obligations.ResetState := by
  unfold Obligations.ResetState
  exact ⟨State.reset_mem_wf, fun _ => rfl, fun _ _ => rfl, fun _ => rfl, fun _ _ => rfl, fun _ => rfl, fun _ => rfl, queue_reset,
    fun _ _ => rfl, fun _ => rfl, rfl, rfl, rfl, rfl, fun p _ => (rfl : (0 : Word).getLsbD 63 = false)⟩

end Sys2Proof.Claims

/-!
The landing registers (07 R148, 09 R183): where the statement fails. An unmask that comes too late makes the fault of R148 due
for the strand in issue, and a fault of a strand whose place is `.saved` is entered in its saved frame. What the strand shows
then is what the frame holds, not its registers in issue. The statement keeps the registers whatever the place of the strand.
-/
namespace Sys2Proof.Claims
open Machine

/-- Strand 1 issues with its place `.saved`: `g1` is one, its frame in memory is of zero bytes, and core 0 is held by it since
cycle 0, which is 513 cycles ago. -/
def savedHolder : State :=
  { st := { live := true, sid := 1, cls := .light, place := .saved, frame := some 0, g := (Vector.replicate 32 0).set 1 1 }
    cores := [(0, { umask := some (1, 0) })], clk := 513 }

theorem exec_unmask (iv : BitVec 2) (sc : BitVec 4) (s : State) :
    exec (.unmask iv sc) s = guarded (infoR (encode (.unmask iv sc)) iv sc []) s fun s =>
      .next (if s.st.ctl.urg then s else (s.overrun s.st.core 513).modCore s.st.core fun c => { c with umask := none }).retire := rfl

/-- The end of a hold and the retirement change no register: what `unmask` leaves in one is what the overrun left. -/
theorem G_unmask (e : State) (n : BitVec 5) (h : e.st.ctl.urg = false) :
    (if e.st.ctl.urg then e else (e.overrun e.st.core 513).modCore e.st.core fun c => { c with umask := none }).retire.G n =
      (e.overrun e.st.core 513).G n := by
  rw [h]
  rfl

theorem passes_savedHolder : Passes (infoR (encode (.unmask 1 0)) 1 0 []) savedHolder := ⟨rfl, .inl rfl⟩

theorem entry_savedHolder : entry (infoR (encode (.unmask 1 0)) 1 0 []) savedHolder = savedHolder := rfl

/-- The overdue hold's fault shows `g1` as the frame holds it. -/
theorem overrun_savedHolder : (savedHolder.overrun 0 513).G 1 = 0 := by decide +kernel

/-- Refutes O36: `unmask` by `savedHolder` after 513 cycles changes `g1` from one to zero, while the statement's first clause
about `unmask` keeps every register of every strand that may issue it. -/
theorem not_landingResult : ¬ Obligations.LandingResult := by
  unfold Obligations.LandingResult
  intro h
  obtain ⟨-, -, -, -, -, -, -, unmask⟩ := h 1 0 0 0 0 0 savedHolder
  obtain ⟨t, ended, kept, -⟩ := unmask passes_savedHolder
  rw [exec_unmask, guarded_passes passes_savedHolder, entry_savedHolder] at ended
  have zero : t.G 1 = 0 := by
    rw [← Host.Outcome.next.inj ended]
    exact (G_unmask savedHolder 1 rfl).trans overrun_savedHolder
  exact absurd (zero.symm.trans (kept 1)) (by decide)

end Sys2Proof.Claims

/-!
What is performed at the memory side leaves of the hub, of a line and of a store buffer (07 R131, 10 R205, 11 R225).
-/
namespace Sys2Proof.Claims
open Machine

/-! ## The hub beside the memory side -/

/-- Of the hub, what is performed at the memory side changes the counts of accesses, the marks for recopy and the counters of
partitions alone (R209, R210, R398). -/
structure HubKept (s t : State) : Prop where
  hub  : ∃ parts cnt migs, t.hub = { s.hub with parts := parts, pageCnt := cnt, migs := migs }
  part : ∀ p, ∃ l, t.part p = { s.part p with counters := l }

section
variable {s t u : State}

theorem hubKept_of_hub (h : t.hub = s.hub) : HubKept s t :=
  ⟨⟨_, _, _, h⟩, fun p => ⟨(s.part p).counters, by rw [State.part, h]; rfl⟩⟩

theorem HubKept.refl (s : State) : HubKept s s := hubKept_of_hub rfl

theorem HubKept.trans (h : HubKept s t) (h' : HubKept t u) : HubKept s u := by
  obtain ⟨_, _, _, first⟩ := h.hub
  obtain ⟨_, _, _, second⟩ := h'.hub
  refine ⟨⟨_, _, _, by rw [second, first]⟩, fun p => ?_⟩
  obtain ⟨_, first⟩ := h.part p
  obtain ⟨l, second⟩ := h'.part p
  exact ⟨l, by rw [second, first]⟩

theorem HubKept.foldl {α : Type} {f : State → α → State} (l : List α) (s : State) (h : ∀ t, ∀ x ∈ l, HubKept t (f t x)) :
    HubKept s (l.foldl f s) :=
  List.foldlRecOn (motive := HubKept s) l f (.refl s) fun t ht x hx => ht.trans (h t x hx)

theorem HubKept.nodes (h : HubKept s t) : t.hub.nodes = s.hub.nodes := by obtain ⟨_, _, _, e⟩ := h.hub; rw [e]
theorem HubKept.landings (h : HubKept s t) : t.hub.landings = s.hub.landings := by obtain ⟨_, _, _, e⟩ := h.hub; rw [e]
theorem HubKept.refusals (h : HubKept s t) : t.hub.refusals = s.hub.refusals := by obtain ⟨_, _, _, e⟩ := h.hub; rw [e]

theorem HubKept.slot (h : HubKept s t) (n : Nat) : t.slot n = s.slot n := by
  obtain ⟨_, _, _, e⟩ := h.hub
  rw [State.slot, e]
  rfl

theorem HubKept.cfg (h : HubKept s t) (p off : Nat) : t.cfg p off = s.cfg p off := by
  obtain ⟨_, e⟩ := h.part p
  rw [State.cfg, e]
  rfl

theorem HubKept.dom (h : HubKept s t) (p : Nat) : t.dom p = s.dom p := by
  obtain ⟨_, e⟩ := h.part p
  rw [State.dom, e]
  rfl

theorem HubKept.nodeOf (h : HubKept s t) (id : Nat) : t.nodeOf id = s.nodeOf id := by rw [State.nodeOf, h.nodes]; rfl

/-- The access counts and the recopy marks change. -/
theorem hubKept_modHub (s : State) (f : Hub → Hub)
    (h : ∃ cnt migs, f s.hub = { s.hub with pageCnt := cnt, migs := migs }) : HubKept s (s.modHub f) := by
  obtain ⟨_, _, e⟩ := h
  exact ⟨⟨_, _, _, e⟩, fun p => ⟨(s.part p).counters, by rw [State.part, State.modHub_hub, e]; rfl⟩⟩

theorem part_modPart (s : State) (p q : Nat) (f : Part → Part) :
    (s.modPart p f).part q = if q = p then f (s.part p) else s.part q := by
  simp only [State.part, State.modPart, State.modHub_hub]
  split
  next h => rw [h, Assoc.getD_modify_same]
  next h => rw [Assoc.getD_modify_other _ _ _ _ _ h]

theorem hubKept_count (s : State) (p : Nat) (c : Counter) (n : Nat) : HubKept s (s.count p c n) := by
  refine ⟨⟨_, _, _, rfl⟩, fun q => ?_⟩
  rw [State.count, part_modPart]
  split
  next h => exact ⟨_, by rw [h]⟩
  next => exact ⟨_, rfl⟩

theorem hub_modStrand (s : State) (sid : Nat) (f : Strand → Strand) : (s.modStrand sid f).hub = s.hub := by
  obtain ⟨_, _, h⟩ := s.modStrand_frame sid f
  rw [h]

theorem mem_modStrand (s : State) (sid : Nat) (f : Strand → Strand) : (s.modStrand sid f).mem = s.mem := by
  obtain ⟨_, _, h⟩ := s.modStrand_frame sid f
  rw [h]

/-- Watches that fire change neither the hub nor a byte (R241). -/
theorem fireWatches_frame (s : State) (line : Nat) : (s.fireWatches line).hub = s.hub ∧ (s.fireWatches line).mem = s.mem := by
  unfold State.fireWatches
  simp only
  split
  · exact ⟨rfl, rfl⟩
  · exact List.foldlRecOn (motive := fun t : State => t.hub = s.hub ∧ t.mem = s.mem) _ _ ⟨rfl, rfl⟩ fun t ht w _ =>
      ⟨(hub_modStrand ..).trans ht.1, (mem_modStrand ..).trans ht.2⟩

theorem hubKept_marked (s : State) (line : Nat) : HubKept s ((s.markRecopy line).fireWatches line) :=
  (hubKept_modHub s _ ⟨_, _, rfl⟩).trans (hubKept_of_hub (fireWatches_frame _ line).1)

/-- Bytes are no concern of what the strands, the units and the hub keep. -/
theorem hubKept_mem (s : State) (m : Memory) : HubKept s { s with mem := m } := hubKept_of_hub rfl

theorem performed_mem (s : State) (m : Memory) : Performed s { s with mem := m } :=
  .of_strands rfl rfl rfl rfl rfl rfl rfl rfl rfl fun _ _ => List.suffix_rfl

theorem hubKept_performWrite (s : State) (line mask data : Nat) : HubKept s (s.performWrite line mask data) := by
  unfold State.performWrite
  split
  · exact .refl s
  · exact (hubKept_mem s _).trans (hubKept_marked _ line)

theorem hubKept_countAccess (s : State) (die line : Nat) : HubKept s (s.countAccess die line) := by
  unfold State.countAccess
  split
  · split
    · exact .refl s
    · exact hubKept_modHub s _ ⟨_, _, rfl⟩
  · exact .refl s

theorem hubKept_cross (s : State) (a b : Nat) : HubKept s (s.cross a b) := by
  unfold State.cross
  split
  · exact hubKept_of_hub rfl
  · exact .refl s

theorem hubKept_pathStep (s : State) (a d : Nat) : HubKept s (s.pathStep a d) := by
  cases h : (s.path a d).writes with
  | nil =>
    rw [State.pathStep, h]
    exact .refl s
  | cons w rest =>
    rw [pathStep_cons h]
    have taken : HubKept s (setPath s a d rest) := hubKept_of_hub rfl
    exact ((taken.trans (hubKept_cross ..)).trans (hubKept_countAccess ..)).trans (hubKept_performWrite ..)

theorem hubKept_pathFlush (s : State) (a d : Nat) : HubKept s (s.pathFlush a d) := .foldl _ s fun t _ _ => hubKept_pathStep t a d

theorem hubKept_flushPaths (s : State) (die : Nat) : HubKept s (s.flushPaths die) := .foldl _ s fun t p _ => hubKept_pathFlush t die p.1

theorem hubKept_reach (s : State) (die line : Nat) : HubKept s (s.reach die line) := by
  simp only [State.reach]
  split
  · exact hubKept_countAccess ..
  · exact ((hubKept_pathFlush ..).trans (hubKept_cross ..)).trans (hubKept_countAccess ..)

theorem hubKept_countLines (s : State) (die : Nat) (lines : List Nat) : HubKept s (s.countLines die lines) :=
  .foldl lines s fun t l _ => hubKept_countAccess t die l

/-! ## Lines that a unit of the part has written (R241) -/

/-- t is s but for what the writing of lines notes: watches fire, and copies of the lines are stale; no byte changes. -/
theorem wrote_keeps (s : State) (lines : List Nat) :
    Performed s (s.wrote lines) ∧ HubKept s (s.wrote lines) ∧ (s.wrote lines).mem = s.mem := by
  refine ⟨.foldl _ s fun t l _ => ?_, .foldl _ s fun t l _ => hubKept_marked t l,
    List.foldlRecOn (motive := fun t : State => t.mem = s.mem) _ _ rfl fun t ht l _ => ?_⟩
  · exact (performed_modHub t _ rfl rfl).trans (performed_fireWatches _ l)
  · exact (fireWatches_frame _ l).2.trans ht

theorem unitWrite_keeps (s : State) (a x n : Nat) : Performed s (s.unitWrite a x n) ∧ HubKept s (s.unitWrite a x n) ∧
    (s.unitWrite a x n).mem = Memory.writeN s.mem a x n := by
  obtain ⟨performed, kept, bytes⟩ := wrote_keeps { s with mem := Memory.writeN s.mem a x n } (linesIn a n)
  exact ⟨(performed_mem s _).trans performed, (hubKept_mem s _).trans kept, bytes⟩

theorem unitFields_keeps (s : State) (die base : Nat) (l : List Field) :
    Performed s (s.unitFields die base l) ∧ HubKept s (s.unitFields die base l) := by
  unfold State.unitFields
  obtain ⟨performed, kept, -⟩ :=
    wrote_keeps ({ s with mem := writeFields s.mem base l }.countLines die (fieldLines base l)) (fieldLines base l)
  exact ⟨((performed_mem s _).trans (performed_countLines ..)).trans performed,
    ((hubKept_mem s _).trans (hubKept_countLines ..)).trans kept⟩

theorem updateFields_keeps (s : State) (base : Nat) (l : List Field) :
    Performed s (s.updateFields base l) ∧ HubKept s (s.updateFields base l) := by
  unfold State.updateFields
  dsimp only
  generalize List.filter _ _ = lines
  obtain ⟨performed, kept, -⟩ := wrote_keeps ({ s with mem := writeFields s.mem base l }.countLines (base / 2 ^ 35 % 16) lines) lines
  exact ⟨((performed_mem s _).trans (performed_countLines ..)).trans performed,
    ((hubKept_mem s _).trans (hubKept_countLines ..)).trans kept⟩

theorem hubWrite_keeps (s : State) (a n x : Nat) : Performed s (s.hubWrite a n x) ∧ HubKept s (s.hubWrite a n x) :=
  ⟨performed_performWrite .., hubKept_performWrite ..⟩

end

/-! ## Bytes as numbers (R5) -/

/-- What n bytes read as depends on these bytes alone. -/
theorem readN_congr {m m' : Memory} {a n : Nat} (h : ∀ b, a ≤ b → b < a + n → Memory.read m b = Memory.read m' b) :
    Memory.readN m a n = Memory.readN m' a n := by
  induction n generalizing a with
  | zero => rfl
  | succ n ih =>
    rw [Memory.readN, Memory.readN, h a le_rfl (by omega), ih fun b low high => h b (by omega) (by omega)]

/-- A number whose bytes stand from a on reads as that number. -/
theorem readN_of_bytes {m : Memory} {a n x : Nat}
    (h : ∀ b, a ≤ b → b < a + n → Memory.read m b = BitVec.ofNat 8 (x / 2 ^ (8 * (b - a)))) : Memory.readN m a n = x % 2 ^ (8 * n) := by
  induction n generalizing a x with
  | zero => simp [Memory.readN, Nat.mod_one]
  | succ n ih =>
    have first : (Memory.read m a).toNat = x % 256 := by
      rw [h a le_rfl (by omega), Nat.sub_self, Nat.mul_zero, Nat.pow_zero, Nat.div_one]
      rfl
    have rest := ih (a := a + 1) (x := x / 256) fun b low high => by
      rw [h b (by omega) (by omega), show 8 * (b - a) = 8 + 8 * (b - (a + 1)) by omega, Nat.pow_add, Nat.div_div_eq_div_mul]
    rw [Memory.readN, first, rest, show 8 * (n + 1) = 8 + 8 * n by omega, Nat.pow_add, ← Nat.mod_mul]

theorem readN_writeN_same (m : Memory) (a x n : Nat) : Memory.readN (Memory.writeN m a x n) a n = x % 2 ^ (8 * n) :=
  readN_of_bytes fun b low high => by rw [Memory.read_writeN, if_pos ⟨low, high⟩]

/-- k bytes of those written, from the lo-th on. -/
theorem readN_writeN_within (m : Memory) (a x : Nat) {lo k n : Nat} (h : lo + k ≤ n) :
    Memory.readN (Memory.writeN m a x n) (a + lo) k = x / 2 ^ (8 * lo) % 2 ^ (8 * k) :=
  readN_of_bytes fun b low high => by
    rw [Memory.read_writeN, if_pos (by omega), Nat.div_div_eq_div_mul, ← Nat.pow_add]
    congr 3
    omega

theorem readN_writeN_apart (m : Memory) (a x n : Nat) {b k : Nat} (h : b + k ≤ a ∨ a + n ≤ b) :
    Memory.readN (Memory.writeN m a x n) b k = Memory.readN m b k :=
  readN_congr fun c low high => by rw [Memory.read_writeN, if_neg (by omega)]

/-! ## A value that the hub writes (R136) -/

theorem spaceOf_dieMem {a : Nat} (h : a < 2 ^ 39) : spaceOf a = .dieMem := if_pos h

/-- Die memory is never a strand's own memory, which goes when the strand ends. -/
theorem freed_dieMem (s : State) {a : Nat} (h : a < 2 ^ 39) : s.freed a = false := by
  rw [State.freed, spaceOf_dieMem h]

theorem mem_performWrite {s : State} {line mask data : Nat} (h : s.freed line = false) :
    (s.performWrite line mask data).mem = Memory.writeMask s.mem line data mask 64 := by
  rw [State.performWrite, h]
  exact (fireWatches_frame _ _).2

theorem read_hubWrite (s : State) {a n : Nat} (x : Nat) (low : a < 2 ^ 39) (inside : a % 64 + n ≤ 64) (b : Nat) :
    Memory.read (s.hubWrite a n x).mem b = if a ≤ b ∧ b < a + n then BitVec.ofNat 8 (x / 2 ^ (8 * (b - a))) else Memory.read s.mem b := by
  have below : Memory.line a ≤ a := Nat.div_mul_le_self a 64
  have within : a - Memory.line a + n ≤ 64 := by rwa [sub_line]
  rw [State.hubWrite, mem_performWrite (freed_dieMem s (by omega)), Memory.read_writeMask]
  generalize Memory.line a = l at *
  have bit : Nat.testBit ((2 ^ n - 1) * 2 ^ (a - l)) (b - l) = true ↔ a - l ≤ b - l ∧ b - l - (a - l) < n := by
    rw [Nat.testBit_mul_two_pow, Nat.testBit_two_pow_sub_one, Bool.and_eq_true, decide_eq_true_eq, decide_eq_true_eq]
  simp only [bit]
  by_cases written : a ≤ b ∧ b < a + n
  · rw [if_pos (by omega), if_pos written]
    apply BitVec.eq_of_getLsbD_eq
    intro j hj
    rw [BitVec.getLsbD_ofNat, BitVec.getLsbD_ofNat, Nat.testBit_div_two_pow, Nat.testBit_div_two_pow, Nat.testBit_mul_two_pow,
      Nat.testBit_mod_two_pow, decide_eq_true (show 8 * (a - l) ≤ j + 8 * (b - l) by omega),
      decide_eq_true (show j + 8 * (b - l) - 8 * (a - l) < 8 * n by omega)]
    simp only [Bool.true_and]
    congr 2
    omega
  · rw [if_neg (by omega), if_neg written]

theorem readN_hubWrite_same (s : State) {a n x : Nat} (low : a < 2 ^ 39) (inside : a % 64 + n ≤ 64) :
    Memory.readN (s.hubWrite a n x).mem a n = x % 2 ^ (8 * n) :=
  readN_of_bytes fun b h h' => by rw [read_hubWrite s x low inside, if_pos ⟨h, h'⟩]

theorem readN_hubWrite_apart (s : State) {a n x : Nat} (low : a < 2 ^ 39) (inside : a % 64 + n ≤ 64) {b k : Nat}
    (apart : b + k ≤ a ∨ a + n ≤ b) : Memory.readN (s.hubWrite a n x).mem b k = Memory.readN s.mem b k :=
  readN_congr fun c h h' => by rw [read_hubWrite s x low inside, if_neg (by omega)]

end Sys2Proof.Claims

/-!
Landings on their way (07 R153, R154, 09 R182, 18 R329, R330): what a strand makes of one, and where the hub's lists stand.
-/
namespace Sys2Proof.Claims
open Machine

/-! ## What a strand makes of a landing (R152, R153) -/

section
variable {x : Strand} {l : Landing}

/-- The register sets of R174 by the bits of their masks. -/
theorem getLsbD_setG' (x : Strand) (m : Word) (n : Nat) : (setG' x m).getLsbD n = picksG x m n := by
  have mask : (gMask x.cls).getLsbD n = (decide (1 ≤ n) && decide (n < (if x.cls = .light then 8 else 32))) := by
    by_cases small : n < 32
    · cases x.cls <;> (simp only [gMask]; decide +revert)
    · rw [BitVec.getLsbD_of_ge _ _ (by omega), decide_eq_false (p := n < _) (by split <;> omega), Bool.and_false]
  rw [setG', BitVec.getLsbD_and, BitVec.getLsbD_setWidth, mask, picksG]
  by_cases small : n < 32
  · rw [decide_eq_true small, Bool.true_and, Bool.and_comm]
  · rw [decide_eq_false (p := n < ite _ _ _) (by split <;> omega)]
    simp

theorem getLsbD_setV' (x : Strand) (m : Word) (n : Nat) : (setV' x m).getLsbD n = picksV x m n := by
  have mask : (vMask x.cls).getLsbD n = (decide (x.cls = .full) && decide (n < 16)) := by
    by_cases small : n < 16
    · cases x.cls <;> (simp only [vMask]; decide +revert)
    · rw [BitVec.getLsbD_of_ge _ _ (by omega), decide_eq_false small, Bool.and_false]
  rw [setV', BitVec.getLsbD_and, BitVec.getLsbD_extractLsb', mask, picksV]
  by_cases small : n < 16
  · rw [decide_eq_true small, Bool.true_and, Bool.and_true, Bool.and_comm]
  · rw [decide_eq_false small]
    simp

/-- The fields of the address of a landing for g register n. -/
theorem NamesG.fields {n : BitVec 5} (h : NamesG x l n) : l.addr.toNat / 2 ^ 8 % 2 ^ 8 = 0 ∧ landSel l.addr = n.toNat := by
  have low := congrArg BitVec.toNat h.2.1
  have small := n.isLt
  rw [BitVec.extractLsb'_toNat, BitVec.toNat_setWidth, Nat.shiftRight_zero, Nat.mod_eq_of_lt (a := n.toNat) (by omega)] at low
  unfold landSel
  omega

theorem NamesV.fields {n : BitVec 4} (h : NamesV x l n) : l.addr.toNat / 2 ^ 8 % 2 ^ 8 = 0 ∧ landSel l.addr = 0x40 + n.toNat := by
  have low := congrArg BitVec.toNat h.2.1
  have small := n.isLt
  rw [BitVec.extractLsb'_toNat, BitVec.toNat_add, BitVec.toNat_setWidth, Nat.shiftRight_zero, Nat.mod_eq_of_lt (a := n.toNat) (by omega),
    show (0x40 : BitVec 16).toNat = 0x40 from rfl] at low
  unfold landSel
  omega

/-- A landing for a register that the strand has is refused where the register is closed, or where a landing stands in it. -/
theorem NamesG.refuses {n : BitVec 5} (h : NamesG x l n) : x.refuses l =
    if x.ctl.lmask.getLsbD n.toNat = false then some 0x69 else if x.ctl.larr.getLsbD n.toNat then some 0x6A else none := by
  obtain ⟨high, sel⟩ := h.fields
  obtain ⟨scalar, -, low, light⟩ := h
  have small := n.isLt
  have named : (decide (1 ≤ n.toNat) && decide (n.toNat ≤ 0x1F) && (x.cls != .light || decide (n.toNat ≤ 7))) = true := by
    simp only [Bool.and_eq_true, decide_eq_true_eq, Bool.or_eq_true, bne_iff_ne, ne_eq]
    exact ⟨⟨low, by omega⟩, (em (x.cls = .light)).elim (fun c => .inr (light c)) .inl⟩
  simp only [Strand.refuses, scalar, high, sel, named, Bool.false_eq_true, if_false, ne_eq, not_true_eq_false, false_or, Bool.not_true,
    Bool.not_eq_true']

theorem NamesV.refuses {n : BitVec 4} (h : NamesV x l n) : x.refuses l =
    if x.ctl.lvmask.getLsbD n.toNat = false then some 0x69 else if x.ctl.lvarr.getLsbD n.toNat then some 0x6A else none := by
  obtain ⟨high, sel⟩ := h.fields
  obtain ⟨vector, -, full⟩ := h
  have small := n.isLt
  have named : (decide (0x40 ≤ 0x40 + n.toNat) && decide (0x40 + n.toNat ≤ 0x4F) && x.cls == .full) = true := by
    simp only [Bool.and_eq_true, decide_eq_true_eq, beq_iff_eq]
    exact ⟨⟨by omega, by omega⟩, full⟩
  simp only [Strand.refuses, vector, high, sel, named, if_true, ne_eq, not_true_eq_false, false_or, Bool.not_true, Bool.false_eq_true,
    if_false, Bool.not_eq_true', Nat.add_sub_cancel_left]

/-- A landing that names no register of the strand is refused with 0x68. -/
theorem refuses_unnamed (scalar : ∀ n, ¬ NamesG x l n) (vector : ∀ n, ¬ NamesV x l n) : x.refuses l = some 0x68 := by
  have word (n : Nat) (high : l.addr.toNat / 2 ^ 8 % 2 ^ 8 = 0) (sel : landSel l.addr = n) :
      (l.addr.extractLsb' 0 16).toNat = n := by
    rw [BitVec.extractLsb'_toNat, Nat.shiftRight_zero]
    unfold landSel at sel
    omega
  unfold Strand.refuses
  refine if_pos ?_
  by_contra fits
  rw [not_or, not_not, Bool.not_eq_true, Bool.not_eq_false'] at fits
  obtain ⟨high, named⟩ := fits
  split at named
  next isV =>
    simp only [Bool.and_eq_true, decide_eq_true_eq, beq_iff_eq] at named
    obtain ⟨⟨low, top⟩, full⟩ := named
    refine vector (BitVec.ofNat 4 (landSel l.addr - 0x40)) ⟨isV, BitVec.eq_of_toNat_eq ?_, full⟩
    rw [word _ high rfl, BitVec.toNat_add, BitVec.toNat_setWidth, BitVec.toNat_ofNat, show (0x40 : BitVec 16).toNat = 0x40 from rfl]
    omega
  next isG =>
    simp only [Bool.and_eq_true, decide_eq_true_eq, Bool.or_eq_true, bne_iff_ne] at named
    obtain ⟨⟨low, top⟩, light⟩ := named
    have number : (BitVec.ofNat 5 (landSel l.addr)).toNat = landSel l.addr := Nat.mod_eq_of_lt (by omega)
    refine scalar (BitVec.ofNat 5 (landSel l.addr)) ⟨Bool.eq_false_iff.mpr isG, BitVec.eq_of_toNat_eq ?_, by omega,
      fun c => by rw [number]; exact light.resolve_left (not_not.mpr c)⟩
    rw [word _ high rfl, BitVec.toNat_setWidth, number, Nat.mod_eq_of_lt (by omega)]

/-- The register and its arrival bit, and nothing else of the registers. -/
theorem lands_land (x : Strand) (l : Landing) : Lands x (x.land l) l := by
  constructor
  · intro n h
    obtain ⟨-, sel⟩ := h.fields
    have small := n.isLt
    have number : landSel l.addr % 0x20 = n.toNat := by omega
    have landed : x.land l = (x.setG n l.value).modCtl fun c => { c with larr := c.larr ||| (1#32 <<< n.toNat) } := by
      simp [Strand.land, h.1, number]
    have nonzero : n ≠ 0 := fun zero => absurd h.2.2.1 (by simp [zero])
    rw [landed]
    refine ⟨fun m => (Strand.G_setG x n m l.value).trans (by simp only [nonzero, if_false]), by simp, fun m => ?_, by simp⟩
    simp only [Strand.modCtl_ctl, Strand.setG_ctl, BitVec.getLsbD_or]
    congr 1
    rw [BitVec.getLsbD_shiftLeft, BitVec.getLsbD_one, Bool.eq_iff_iff]
    simp only [Bool.and_eq_true, Bool.not_eq_true', decide_eq_true_eq, decide_eq_false_iff_not, beq_iff_eq]
    omega
  · intro n h
    obtain ⟨-, sel⟩ := h.fields
    have small := n.isLt
    have number : landSel l.addr % 0x20 = n.toNat := by omega
    have landed : x.land l = (x.setV n l.vec).modCtl fun c => { c with lvarr := c.lvarr ||| (1#16 <<< n.toNat) } := by
      simp [Strand.land, h.1, number, Nat.mod_eq_of_lt small]
    rw [landed]
    refine ⟨fun m => Strand.V_setV x n m l.vec, by simp, fun m => ?_, by simp⟩
    simp only [Strand.modCtl_ctl, Strand.setV_ctl, BitVec.getLsbD_or]
    congr 1
    rw [BitVec.getLsbD_shiftLeft, BitVec.getLsbD_one, Bool.eq_iff_iff]
    simp only [Bool.and_eq_true, Bool.not_eq_true', decide_eq_true_eq, decide_eq_false_iff_not, beq_iff_eq]
    omega

/-- What a written landing leaves of a strand but its registers. -/
theorem land_keeps (x : Strand) (l : Landing) : (x.land l).live = x.live ∧ (x.land l).sid = x.sid ∧ (x.land l).place = x.place ∧
    (x.land l).pc = x.pc ∧ (x.land l).wait = x.wait := by
  unfold Strand.land
  dsimp only
  split <;> simp

/-- A wait.l on the register ends (R183). -/
theorem NamesG.woken {n : BitVec 5} (h : NamesG x l n) : (if x.woken l then none else x.wait) =
    (match x.wait with | some (.waitL m) => if picksG x m n.toNat then none else x.wait | w => w) := by
  have small := n.isLt
  have number : landSel l.addr % 0x20 = n.toNat := by have := h.fields.2; omega
  unfold Strand.woken
  simp only [number, h.1, Bool.false_eq_true, if_false, getLsbD_setG']
  cases waits : x.wait with
  | none => rfl
  | some w => cases w <;> rfl

theorem NamesV.woken {n : BitVec 4} (h : NamesV x l n) : (if x.woken l then none else x.wait) =
    (match x.wait with | some (.waitL m) => if picksV x m n.toNat then none else x.wait | w => w) := by
  have small := n.isLt
  have number : landSel l.addr % 0x20 = n.toNat := by have := h.fields.2; omega
  unfold Strand.woken
  simp only [number, h.1, if_true, getLsbD_setV']
  cases waits : x.wait with
  | none => rfl
  | some w => cases w <;> rfl

end

end Sys2Proof.Claims

/-!
The events of landings (07 R153, R154, 09 R182, 18 R329, R330).
-/
namespace Sys2Proof.Claims
open Machine

/-! ## Agents count a landing off (R329) -/

section
variable {s t : State} {i sid : Nat} {l : Landing} {x : Strand}

theorem modFwds_frame (s : State) (loc : Loc) (f : List FwdEntry → List FwdEntry) :
    ∃ cores dies, s.modFwds loc f = { s with cores := cores, dies := dies } ∧ ∀ d, (Assoc.getD dies d {}).cache = (s.die d).cache := by
  cases loc with
  | core c => exact ⟨_, _, rfl, fun _ => rfl⟩
  | agent a =>
    refine ⟨_, _, rfl, fun d => ?_⟩
    by_cases here : d = a
    · rw [here, Assoc.getD_modify_same]
      rfl
    · rw [Assoc.getD_modify_other _ _ _ _ _ here]
      rfl

theorem switched_frame (s : State) (die sid : Nat) (old : Loc) :
    ∃ cores dies, s.switched die sid old = { s with cores := cores, dies := dies } ∧
      ∀ d, (Assoc.getD dies d {}).cache = (s.die d).cache := by
  unfold State.switched
  split
  · exact ⟨s.cores, s.dies, rfl, fun _ => rfl⟩
  · exact modFwds_frame ..

/-- Switching changes the forwarding entries alone. -/
theorem switchedAll_frame (s : State) (die sid : Nat) (l : List (Loc × Loc)) :
    ∃ cores dies, l.foldl (fun s p => s.switched die sid p.1) s = { s with cores := cores, dies := dies } ∧
      ∀ d, (Assoc.getD dies d {}).cache = (s.die d).cache := by
  induction l generalizing s with
  | nil => exact ⟨s.cores, s.dies, rfl, fun _ => rfl⟩
  | cons p l ih =>
    obtain ⟨cores, dies, one, kept⟩ := switched_frame s die sid p.1
    obtain ⟨cores', dies', all, kept'⟩ := ih (s.switched die sid p.1)
    refine ⟨cores', dies', by rw [List.foldl_cons, all, one], fun d => ?_⟩
    rw [kept', one]
    exact kept d

theorem settleCache_frame (s : State) (die sid : Nat) : ∃ cores dies, s.settleCache die sid = { s with cores := cores, dies := dies } := by
  unfold State.settleCache
  split
  · exact ⟨_, _, rfl⟩
  · split
    · exact ⟨_, _, rfl⟩
    · split
      · exact ⟨_, _, rfl⟩
      · obtain ⟨cores, dies, all, -⟩ := switchedAll_frame s die sid _
        rw [all]
        exact ⟨_, _, rfl⟩

/-- A landing that is taken off the list changes what cores and agents know of locations beside the list. -/
theorem landed_frame (s : State) (l : Landing) (i : Nat) : ∃ cores dies, s.landed l i =
    { s with cores := cores, dies := dies, hub := { s.hub with landings := s.hub.landings.eraseIdx i } } := by
  unfold State.landed
  split
  · exact ⟨_, _, rfl⟩
  · obtain ⟨cores, dies, settled⟩ := settleCache_frame
      ((s.modHub fun h => { h with landings := h.landings.eraseIdx i }).modCache (dieOf l.from_) (landSid l.addr) fun c =>
        { c with flying := c.flying - 1 }) (dieOf l.from_) (landSid l.addr)
    exact ⟨cores, dies, settled⟩

theorem landed_keeps (s : State) (l : Landing) (i : Nat) :
    (s.landed l i).hub = { s.hub with landings := s.hub.landings.eraseIdx i } ∧ (s.landed l i).mem = s.mem ∧
      ∀ n, (s.landed l i).strand n = s.strand n := by
  obtain ⟨cores, dies, frame⟩ := landed_frame s l i
  rw [frame]
  exact ⟨rfl, rfl, fun _ => rfl⟩

theorem refusedWith_refuse (s : State) (l : Landing) (i : Nat) (c : BitVec 8) : RefusedWith s ((s.landed l i).refuse l c) i l c := by
  obtain ⟨cores, dies, frame⟩ := landed_frame s l i
  rw [frame]
  exact ⟨rfl, rfl, fun _ => rfl⟩

/-! ## Arrival at a core (R153) -/

theorem exec_landingArrival (i : Nat) (s : State) : exec (.landingArrival i) s = execLandingArrival i s := rfl

theorem LandingAt.first_eq {tgt : Loc} (h : LandingAt s i l tgt) : s.hub.first i l = true := by
  refine List.all_eq_true.mpr fun m hm => ?_
  obtain ⟨j, at_⟩ := List.getElem?_of_mem hm
  obtain ⟨short, -⟩ := List.getElem?_eq_some_iff.mp at_
  rw [List.length_take, Nat.lt_min] at short
  rw [List.getElem?_take_of_lt short.1] at at_
  simpa only [Bool.or_eq_true, bne_iff_ne] using h.first j m short.1 at_

section
variable {c : Nat} (at_ : LandingAt s i l (.core c))
include at_

theorem arrival_dead (none_ : s.strand (landSid l.addr) = none) :
    exec (.landingArrival i) s = .next (((s.landed l i).refuse l 0x6B).measureLanding c l) := by
  rw [exec_landingArrival, execLandingArrival]
  simp only [at_.at_, at_.tgt, at_.first_eq, none_, Bool.not_true, Bool.false_eq_true, if_false]

theorem arrival_here (here : s.strand (landSid l.addr) = some x) (core : x.core = c) (place : x.place = .resident ∨ x.place = .shadow) :
    exec (.landingArrival i) s = .next (((s.landed l i).applyLanding (landSid l.addr) x l).measureLanding c l) := by
  have reached : x.core = c ∧ (x.place = .resident ∨ x.place = .shadow) := ⟨core, place⟩
  rw [exec_landingArrival, execLandingArrival]
  simp only [at_.at_, at_.tgt, at_.first_eq, here, Bool.not_true, Bool.false_eq_true, if_false]
  rw [if_pos reached]

theorem arrival_cut (here : s.strand (landSid l.addr) = some x) (place : x.place = .cut) :
    exec (.landingArrival i) s = .next (s.forward l i (.agent x.home)) := by
  rw [exec_landingArrival, execLandingArrival]
  simp only [at_.at_, at_.tgt, at_.first_eq, here, place, Bool.not_true, Bool.false_eq_true, if_false, if_true, reduceCtorEq, or_self,
    and_false]

/-- A landing that the strand refuses. -/
theorem arrival_refused {k : BitVec 8} (here : s.strand (landSid l.addr) = some x) (core : x.core = c)
    (place : x.place = .resident ∨ x.place = .shadow) (refused : x.refuses l = some k) :
    Gives (.landingArrival i) s fun t => RefusedWith s t i l k := by
  refine ⟨_, arrival_here at_ here core place, ?_⟩
  rw [State.applyLanding, refused]
  exact refusedWith_refuse s l i k

end

/-- A strand on a core is changed where it stands. -/
theorem modView_onCore {f : Strand → Strand} (here : s.strand sid = some x) (place : x.place = .resident ∨ x.place = .shadow) :
    s.modView sid f = s.modStrand sid fun _ => f x := by
  unfold State.modView
  rw [here]
  rcases place with place | place <;> simp only [place, State.view]

/-- A landing that a strand on its core accepts is written, and ends a wait for its register (R153, R183). -/
theorem applyLanding_lands (here : s.strand sid = some x) (place : x.place = .resident ∨ x.place = .shadow)
    (accepted : x.refuses l = none) : (s.applyLanding sid x l).hub = s.hub ∧ (s.applyLanding sid x l).mem = s.mem ∧
      ∃ y, (s.applyLanding sid x l).strand sid = some y ∧ Lands x y l ∧ y.pc = x.pc ∧ y.wait = if x.woken l then none else x.wait := by
  obtain ⟨live, id, -, pc, wait⟩ := land_keeps x l
  have written := State.strand_modStrand_same (f := fun _ => x.land l) here live id
  have hub := hub_modStrand s sid fun _ => x.land l
  have mem := mem_modStrand s sid fun _ => x.land l
  unfold State.applyLanding
  simp only [accepted, modView_onCore here place]
  cases woken : x.woken l with
  | false => exact ⟨hub, mem, _, written, lands_land x l, pc, wait⟩
  | true =>
    have saved : x.place ≠ .saved := by rcases place with place | place <;> rw [place] <;> nofun
    rw [if_neg (by simp), if_neg saved, if_pos place]
    exact ⟨(hub_modStrand ..).trans hub, (mem_modStrand ..).trans mem, (x.land l).again, State.strand_modStrand_same written rfl rfl,
      lands_land x l, pc, rfl⟩

/-- A landing that the strand accepts. -/
theorem arrival_lands {c : Nat} (at_ : LandingAt s i l (.core c)) (here : s.strand (landSid l.addr) = some x) (core : x.core = c)
    (place : x.place = .resident ∨ x.place = .shadow) (accepted : x.refuses l = none) :
    Gives (.landingArrival i) s fun t => BytesKept s t ∧ t.hub.landings = s.hub.landings.eraseIdx i ∧
      t.hub.refusals = s.hub.refusals ∧ ∃ y, t.strand (landSid l.addr) = some y ∧ Lands x y l ∧ y.pc = x.pc ∧
        y.wait = if x.woken l then none else x.wait := by
  obtain ⟨hub, mem, strand⟩ := landed_keeps s l i
  obtain ⟨hub', mem', y, stands, lands⟩ := applyLanding_lands ((strand _).trans here) place accepted
  exact ⟨_, arrival_here at_ here core place, fun b => congrArg (Memory.read · b) (mem'.trans mem),
    (congrArg Hub.landings hub').trans (by rw [hub]), (congrArg Hub.refusals hub').trans (by rw [hub]),
    y, stands, lands⟩

theorem counts_count (s : State) (p : Nat) (c : Counter) (n : Nat) : Counts s (s.count p c n) p c n := by
  unfold Counts State.count
  rw [part_modPart, if_pos rfl, bump, Assoc.getD_modify_same, BitVec.toNat_ofNat]
  exact Nat.mod_eq_of_lt ((Nat.min_le_right ..).trans_lt (by decide))

theorem Counts.refl (s : State) (p : Nat) (c : Counter) : Counts s s p c 0 := by
  unfold Counts
  omega

theorem arrival_forwarded {c : Nat} (at_ : LandingAt s i l (.core c)) (here : s.strand (landSid l.addr) = some x) (place : x.place = .cut) :
    Gives (.landingArrival i) s fun t => BytesKept s t ∧ Counts s t l.pid .landFwd (if l.forwarded then 0 else 1) ∧
      t.hub.landings = s.hub.landings.set i { l with tgt := .agent x.home, forwarded := true } := by
  refine ⟨_, arrival_cut at_ here place, ?_⟩
  unfold State.forward
  cases l.forwarded
  · exact ⟨fun _ => rfl, counts_count s l.pid .landFwd 1, rfl⟩
  · exact ⟨fun _ => rfl, Counts.refl s l.pid .landFwd, rfl⟩

end

end Sys2Proof.Claims

/-!
Strands that are not on a core, and landings that reach them (18 R324, R325, R330, R354).
-/
namespace Sys2Proof.Claims
open Machine

/-! ## The view of a strand -/

/-- It differs in what it waits for, if at all. -/
theorem Woken.frame {x y : Strand} (h : Woken x y) : ∃ w, y = { x with wait := w } := ⟨_, h.eq⟩

/-- What a frame holds leaves of a strand. -/
theorem readFrame_keeps (m : Memory) (a : Nat) (x : Strand) : (readFrame m a x).live = x.live ∧ (readFrame m a x).sid = x.sid ∧
    (readFrame m a x).place = x.place ∧ (readFrame m a x).wait = x.wait := by
  cases h : x.cls <;> simp only [readFrame, h, readRecord, readVector, readScalar, readLight, and_self]

theorem view_keeps (s : State) (x : Strand) : (s.view x).live = x.live ∧ (s.view x).sid = x.sid ∧ (s.view x).place = x.place ∧
    (s.view x).wait = x.wait := by
  unfold State.view
  split
  · split
    · exact readFrame_keeps ..
    · exact ⟨rfl, rfl, rfl, rfl⟩
  · split
    · exact readFrame_keeps ..
    · exact ⟨rfl, rfl, rfl, rfl⟩
  · simp only [readLight, and_self]
  · exact ⟨rfl, rfl, rfl, rfl⟩

/-- A saved strand is as memory has it. -/
theorem view_saved {s t : State} {x : Strand} (saved : x.place = .saved) (mem : t.mem = s.mem) : t.view x = s.view x := by
  simp only [State.view, saved, mem]

section
variable {s : State} {sid : Nat} {x : Strand} {f : Strand → Strand}

/-- A strand is changed wherever it stands: where its image is written, watches fire. -/
theorem modView_keeps (here : s.strand sid = some x) :
    Performed (s.modStrand sid fun _ => f (s.view x)) (s.modView sid f) ∧ HubKept s (s.modView sid f) := by
  have changed := hubKept_of_hub (hub_modStrand s sid fun _ => f (s.view x))
  have written (a : Nat) (l : List Field) := updateFields_keeps (s.modStrand sid fun _ => f (s.view x)) a l
  unfold State.modView
  simp only [here]
  split
  · split
    · exact ⟨(written _ _).1, changed.trans (written _ _).2⟩
    · exact ⟨.refl _, changed⟩
  · split
    · exact ⟨(written _ _).1, changed.trans (written _ _).2⟩
    · exact ⟨.refl _, changed⟩
  · exact ⟨(written _ _).1, changed.trans (written _ _).2⟩
  · exact ⟨.refl _, changed⟩

theorem Performed.stands {t : State} (h : Performed s t) (here : s.strand sid = some x) : ∃ y, t.strand sid = some y ∧ Woken x y := by
  have woken := h.strand sid
  rw [here] at woken
  generalize t.strand sid = after at woken
  cases woken with
  | some woken => exact ⟨_, rfl, woken⟩

theorem modView_stands (here : s.strand sid = some x) (live : (f (s.view x)).live = x.live) (id : (f (s.view x)).sid = x.sid) :
    ∃ y, (s.modView sid f).strand sid = some y ∧ Woken (f (s.view x)) y :=
  (modView_keeps here).1.stands (State.strand_modStrand_same (f := fun _ => f (s.view x)) here live id)

end

/-! ## Runnable strands (R330, R354) -/

theorem performed_modDieRegs (s : State) (d p : Nat) (f : DieRegs → DieRegs) : Performed s (s.modDieRegs d p f) :=
  performed_modDie s d _ fun _ => List.suffix_rfl

theorem hubKept_modDieRegs (s : State) (d p : Nat) (f : DieRegs → DieRegs) : HubKept s (s.modDieRegs d p f) := hubKept_of_hub rfl

theorem postAll_keeps (s : State) (die p n : Nat) : Performed s (s.postAll die p n) ∧ HubKept s (s.postAll die p n) := by
  induction n generalizing s with
  | zero => exact ⟨.refl s, .refl s⟩
  | succ n ih =>
    unfold State.postAll
    dsimp only
    split
    · exact ⟨.refl s, .refl s⟩
    · split
      · exact ⟨.refl s, .refl s⟩
      · split
        · refine ⟨Performed.trans (.trans (.trans (unitWrite_keeps ..).1 (hubWrite_keeps ..).1) (performed_modDieRegs ..)) (ih _).1,
            HubKept.trans (.trans (.trans (unitWrite_keeps ..).2.1 (hubWrite_keeps ..).2) (hubKept_modDieRegs ..)) (ih _).2⟩
        · exact ⟨.refl s, .refl s⟩

/-- A strand that becomes runnable stays where it is. -/
theorem runnable_keeps {s : State} {sid : Nat} {x : Strand} (here : s.strand sid = some x) :
    (∃ y, (s.runnable sid).strand sid = some y ∧ y.place = x.place ∧ y.flags.runnable = true) ∧ HubKept s (s.runnable sid) := by
  obtain ⟨live, id, place, -⟩ := view_keeps s x
  obtain ⟨y, stands, woken⟩ := modView_stands (f := fun x => x.modFlags fun f => { f with runnable := true }) here live id
  have kept := (modView_keeps (f := fun x => x.modFlags fun f => { f with runnable := true }) here).2
  obtain ⟨w, marked⟩ := woken.frame
  unfold State.runnable
  simp only [State.viewOf, here, Option.map_some]
  split
  · exact ⟨⟨y, stands, by rw [marked]; exact place, by rw [marked]; rfl⟩, kept⟩
  · obtain ⟨posted, hub⟩ := postAll_keeps ((s.modView sid fun x => x.modFlags fun f => { f with runnable := true }).modDieRegs
      (s.view x).home (s.view x).pid fun r => { r with posts := r.posts ++ [sid] }) (s.view x).home (s.view x).pid _
    obtain ⟨z, stands, woken⟩ := ((performed_modDieRegs ..).trans posted).stands stands
    obtain ⟨w, same⟩ := woken.frame
    exact ⟨⟨z, stands, by rw [same, marked]; exact place, by rw [same, marked]; rfl⟩,
      kept.trans (.trans (hubKept_modDieRegs ..) hub)⟩

/-! ## Landings at an agent (R330) -/

section
variable {s : State} {i d : Nat} {l : Landing} {x : Strand}

theorem exec_landingHeld (i : Nat) (s : State) : exec (.landingHeld i) s = execLandingHeld i s := rfl

theorem held_dead (at_ : LandingAt s i l (.agent d)) (none_ : s.strand (landSid l.addr) = none) :
    exec (.landingHeld i) s = .next ((s.landed l i).refuse l 0x6B) := by
  rw [exec_landingHeld, execLandingHeld]
  simp only [at_.at_, at_.tgt, at_.first_eq, none_, Bool.not_true, Bool.false_eq_true, if_false]

/-- The save of the strand has not ended. -/
theorem held_cut (at_ : LandingAt s i l (.agent d)) (here : s.strand (landSid l.addr) = some x) (place : x.place = .cut)
    (home : x.home = d) : exec (.landingHeld i) s = .next s := by
  rw [exec_landingHeld, execLandingHeld]
  simp only [at_.at_, at_.tgt, at_.first_eq, here, place, home, Bool.not_true, Bool.false_eq_true, if_false, and_self, if_true]

theorem held_saved (at_ : LandingAt s i l (.agent d)) (here : s.strand (landSid l.addr) = some x) (saved : x.place = .saved)
    (home : x.home = d) : exec (.landingHeld i) s = .next ((s.landed l i).applyLanding (landSid l.addr) (s.view x) l) := by
  have loc : x.loc = .agent d := by simp only [Strand.loc, saved, home]
  rw [exec_landingHeld, execLandingHeld]
  simp only [at_.at_, at_.tgt, at_.first_eq, here, saved, loc, Bool.not_true, Bool.false_eq_true, if_false, reduceCtorEq, false_and,
    if_true]

theorem held_refused {k : BitVec 8} (at_ : LandingAt s i l (.agent d)) (here : s.strand (landSid l.addr) = some x)
    (saved : x.place = .saved) (home : x.home = d) (refused : (s.view x).refuses l = some k) :
    Gives (.landingHeld i) s fun t => RefusedWith s t i l k := by
  refine ⟨_, held_saved at_ here saved home, ?_⟩
  rw [State.applyLanding, refused]
  exact refusedWith_refuse s l i k

/-- A landing that a saved strand accepts is written to its frame; a strand that waited for it becomes runnable. -/
theorem applyLanding_saved {sid : Nat} (here : s.strand sid = some x) (saved : x.place = .saved)
    (accepted : (s.view x).refuses l = none) : HubKept s (s.applyLanding sid (s.view x) l) ∧
      ∃ y, (s.applyLanding sid (s.view x) l).strand sid = some y ∧ y.place = .saved ∧
        ((s.view x).wait = none → ∃ w, y = { (s.view x).land l with wait := w }) ∧
        ((s.view x).woken l = true → y.flags.runnable = true) := by
  obtain ⟨live, id, place, -⟩ := view_keeps s x
  obtain ⟨live', id', place', -⟩ := land_keeps (s.view x) l
  obtain ⟨y, stands, woken⟩ := modView_stands (f := fun x => x.land l) here (live'.trans live) (id'.trans id)
  have kept := (modView_keeps (f := fun x => x.land l) here).2
  obtain ⟨w, same⟩ := woken.frame
  have stays : y.place = .saved := by rw [same]; exact (place'.trans place).trans saved
  unfold State.applyLanding
  simp only [accepted]
  cases wakes : (s.view x).woken l with
  | false => exact ⟨kept, y, stands, stays, fun _ => ⟨w, same⟩, nofun⟩
  | true =>
    obtain ⟨⟨z, stands', place'', runs⟩, hub⟩ := runnable_keeps stands
    rw [if_neg (by simp), if_pos (place.trans saved)]
    refine ⟨kept.trans hub, z, stands', place''.trans stays, fun idle => ?_, fun _ => runs⟩
    rw [Strand.woken, idle] at wakes
    cases wakes

theorem woken_waitL {n : BitVec 5} {m : Word} (named : NamesG x l n) (waits : x.wait = some (.waitL m))
    (picks : picksG x m n.toNat = true) : x.woken l = true := by
  have small := n.isLt
  have number : landSel l.addr % 0x20 = n.toNat := by have := named.fields.2; omega
  simp only [Strand.woken, waits, number, named.1, Bool.false_eq_true, if_false, getLsbD_setG', picks]

theorem held_lands {n : BitVec 5} (at_ : LandingAt s i l (.agent d)) (here : s.strand (landSid l.addr) = some x)
    (saved : x.place = .saved) (home : x.home = d) (named : NamesG (s.view x) l n) (accepted : (s.view x).refuses l = none) :
    Gives (.landingHeld i) s fun t => t.hub.landings = s.hub.landings.eraseIdx i ∧ t.hub.refusals = s.hub.refusals ∧
      Stands t (landSid l.addr) fun y => y.place = .saved ∧
        ((s.view x).wait = none → y.G n = l.value ∧ (∀ m, m ≠ n → y.G m = (s.view x).G m) ∧ y.pc = (s.view x).pc) ∧
        ∀ m, (s.view x).wait = some (.waitL m) → picksG (s.view x) m n.toNat = true → y.flags.runnable = true := by
  obtain ⟨hub, mem, strand⟩ := landed_keeps s l i
  have view := view_saved saved mem
  obtain ⟨kept, y, stands, place, written, runs⟩ := applyLanding_saved (l := l) ((strand _).trans here) saved (by rwa [view])
  rw [view] at kept stands written runs
  refine ⟨_, held_saved at_ here saved home, kept.landings.trans (by rw [hub]), kept.refusals.trans (by rw [hub]), y, stands, place,
    fun idle => ?_, fun m waits picks => runs (woken_waitL named waits picks)⟩
  obtain ⟨w, same⟩ := written idle
  obtain ⟨g, -⟩ := (lands_land (s.view x) l).1 n named
  have pc := (land_keeps (s.view x) l).2.2.2.1
  have read (m) : y.G m = ((s.view x).land l).G m := by rw [same]; rfl
  refine ⟨(read n).trans ((g n).trans (if_pos rfl)), fun m other => (read m).trans ((g m).trans (if_neg other)), by rw [same]; exact pc⟩

end

end Sys2Proof.Claims

/-!
What the device writes into a strand's own memory, deferred faults, and refusals on their way back (09 R182, 18 R321, R346).
-/
namespace Sys2Proof.Claims
open Machine

/-! ## Paths to one memory side (R225) -/

/-- Every write on the paths to the memory side of a die is performed. -/
def flushedTo (s : State) (home : Nat) : State := s.dies.foldl (fun s d => s.pathFlush d.1 home) s

theorem Assoc.mem_of_get {α : Type} {l : List (Nat × α)} {a : Nat} {x : α} (h : Assoc.get l a = some x) : (a, x) ∈ l := by
  induction l with
  | nil => cases h
  | cons p l ih =>
    unfold Assoc.get at h
    split at h
    next same => cases h; rw [← same]; exact List.mem_cons_self
    next => exact List.mem_cons_of_mem _ (ih h)

theorem flushFold_keeps (home : Nat) (l : List (Nat × Die)) (s : State) :
    Performed s (l.foldl (fun s d => s.pathFlush d.1 home) s) ∧ HubKept s (l.foldl (fun s d => s.pathFlush d.1 home) s) ∧
      ∀ a, (∃ p ∈ l, p.1 = a) → ((l.foldl (fun s d => s.pathFlush d.1 home) s).path a home).writes = [] := by
  induction l generalizing s with
  | nil => exact ⟨.refl s, .refl s, by simp⟩
  | cons p l ih =>
    obtain ⟨first, clear⟩ := performed_pathFlush s p.1 home
    obtain ⟨performed, kept, rest⟩ := ih (s.pathFlush p.1 home)
    refine ⟨first.trans performed, (hubKept_pathFlush ..).trans kept, fun a ⟨q, hq, ha⟩ => ?_⟩
    rcases List.mem_cons.mp hq with rfl | hq
    · rw [← ha]
      exact List.eq_nil_of_suffix_nil (clear ▸ performed.paths q.1 home)
    · exact rest a ⟨q, hq, ha⟩

theorem flushedTo_keeps (s : State) (home : Nat) : Performed s (flushedTo s home) ∧ HubKept s (flushedTo s home) ∧
    ∀ a, ((flushedTo s home).path a home).writes = [] := by
  obtain ⟨performed, kept, clear⟩ := flushFold_keeps home s.dies s
  refine ⟨performed, kept, fun a => ?_⟩
  cases listed : Assoc.get s.dies a with
  | none =>
    have empty : (s.path a home).writes = [] := by simp only [State.path, State.die, Assoc.getD, listed]; rfl
    exact List.eq_nil_of_suffix_nil (empty ▸ performed.paths a home)
  | some d => exact clear a ⟨(a, d), Assoc.mem_of_get listed, rfl⟩

theorem flushedTo_clear {s : State} {home : Nat} (clear : ∀ a, (s.path a home).writes = []) : flushedTo s home = s :=
  List.foldlRecOn (motive := (· = s)) s.dies _ rfl fun t ht p _ => by rw [ht, pathFlush_eq (clear p.1)]

/-! ## A strand's own memory as the device writes it (R182) -/

/-- An address in a strand's own memory belongs to the die of the strand. -/
theorem ownerDie_priv {s : State} {sid : Nat} {x : Strand} (here : s.strand sid = some x) {off : Nat} (low : off < 2 ^ 18) :
    s.ownerDie (Memory.privBase sid + off) = x.home := by
  unfold Memory.privBase
  have space : spaceOf (2 ^ 66 + sid * 2 ^ 18 + off) = .priv := by
    unfold spaceOf
    rw [if_neg (by omega), if_neg (by omega), if_pos (by omega)]
  rw [State.ownerDie, space, show (2 ^ 66 + sid * 2 ^ 18 + off - 2 ^ 66) / 2 ^ 18 = sid by omega, here]

/-- The device's write: what stands on the paths is performed first, and stale copies of the bytes in the cores go. -/
theorem devWrite_keeps {s : State} {sid off : Nat} {x : Strand} (here : s.strand sid = some x) (low : off < 2 ^ 18) (n v : Nat) :
    ∃ t cores, s.devWrite sid off n v = { t with cores := cores } ∧ Performed s t ∧ HubKept s t ∧
      t.mem = Memory.writeN (flushedTo s x.home).mem (Memory.privBase sid + off) v n ∧ ∀ a, (t.path a x.home).writes = [] := by
  obtain ⟨performed, kept, clear⟩ := flushedTo_keeps s x.home
  obtain ⟨performed', kept', mem⟩ := unitWrite_keeps (flushedTo s x.home) (Memory.privBase sid + off) v n
  have clear' (a : Nat) := List.eq_nil_of_suffix_nil (clear a ▸ performed'.paths a x.home)
  unfold State.devWrite
  dsimp only
  rw [ownerDie_priv here low]
  exact ⟨_, _, rfl, performed.trans performed', kept.trans kept', mem, clear'⟩

/-- Two writes in a row: the first leaves no write on the paths for the second to perform. -/
theorem devWrite_devWrite_keeps {s : State} {sid : Nat} {x : Strand} (here : s.strand sid = some x) {off off' : Nat}
    (low : off < 2 ^ 18) (low' : off' < 2 ^ 18) (n v n' v' : Nat) :
    ∃ t cores, (s.devWrite sid off n v).devWrite sid off' n' v' = { t with cores := cores } ∧
      (∀ k, Option.Rel Woken (s.strand k) (t.strand k)) ∧ t.clk = s.clk ∧ HubKept s t ∧
      t.mem = Memory.writeN (Memory.writeN (flushedTo s x.home).mem (Memory.privBase sid + off) v n)
        (Memory.privBase sid + off') v' n' := by
  obtain ⟨t, cores, first, performed, kept, mem, clear⟩ := devWrite_keeps here low n v
  obtain ⟨y, there, woken⟩ := performed.stands here
  have home : y.home = x.home := by rw [woken.eq]
  have settled : flushedTo { t with cores := cores } y.home = { t with cores := cores } := by
    rw [home]
    exact flushedTo_clear clear
  obtain ⟨u, cores', second, performed', kept', mem', -⟩ :=
    devWrite_keeps (s := { t with cores := cores }) (sid := sid) there low' n' v'
  rw [settled] at mem'
  have kept'' : HubKept t { t with cores := cores } := hubKept_of_hub rfl
  refine ⟨u, cores', by rw [first, second], fun k => ?_, performed'.clk.trans performed.clk,
    kept.trans (kept''.trans kept'), by rw [mem', ← mem]⟩
  have one := performed.strand k
  have two := performed'.strand k
  change Option.Rel Woken (t.strand k) _ at two
  generalize s.strand k = a, t.strand k = b, u.strand k = c at one two
  cases one with
  | none => exact two
  | some one => cases two with
    | some two => exact .some (one.trans two)

/-! ## Deferred faults (R321, R346) -/

theorem insertFault_split (f : Deferred) (l : List Deferred) : ∃ a b, l = a ++ b ∧ insertFault f l = a ++ f :: b ∧
    ∀ d ∈ b.head?, f.cause.toNat < d.cause.toNat := by
  induction l with
  | nil => exact ⟨[], [], rfl, rfl, by simp⟩
  | cons e l ih =>
    unfold insertFault
    split
    next small => exact ⟨[], e :: l, rfl, rfl, by simpa using small⟩
    next =>
      obtain ⟨a, b, parts, inserted, larger⟩ := ih
      exact ⟨e :: a, b, by rw [parts]; rfl, by rw [inserted]; rfl, larger⟩

/-- A fault that becomes due stands last, but for those of a larger code that are due in the same cycle. -/
theorem due_split (x : Strand) (f : Deferred) (now : Nat) : ∃ l r, x.pending = l ++ r ∧ (x.due f now).1 = l ++ f :: r ∧
    (r ≠ [] → x.dueAt = now ∧ r.length ≤ x.dueLast) ∧ ∀ d ∈ r.head?, f.cause.toNat < d.cause.toNat := by
  unfold Strand.due
  generalize size : (if x.dueAt = now then Nat.min x.dueLast x.pending.length else 0) = k
  obtain ⟨a, b, parts, inserted, larger⟩ := insertFault_split f (x.pending.drop (x.pending.length - k))
  refine ⟨x.pending.take (x.pending.length - k) ++ a, b, by rw [List.append_assoc, ← parts, List.take_append_drop],
    by rw [List.append_assoc, ← inserted], fun some_ => ?_, larger⟩
  have short := congrArg List.length parts
  have positive := List.length_pos_iff.mpr some_
  rw [List.length_drop, List.length_append] at short
  split at size
  next same => exact ⟨same, by have : k ≤ x.dueLast := size ▸ Nat.min_le_left _ _; omega⟩
  next => omega

theorem handlingLevel_eq (x : Strand) (c : BitVec 8) : x.handlingLevel c x.ctl.priv = levelOf x c := by
  simp only [Strand.handlingLevel, levelOf, Mode.max, Bool.not_eq_true']

/-- A deferred fault of a strand on its core. -/
theorem deferTo_resident {s : State} {sid : Nat} {x : Strand} (here : s.strand sid = some x) (place : x.place = .resident)
    (c : BitVec 8) (v : Word) : HubKept s (s.deferTo sid c v) ∧ (s.deferTo sid c v).mem = s.mem ∧
      ∃ y, (s.deferTo sid c v).strand sid = some y ∧ (x.pending.length < 8 → FaultDue s x y c v) := by
  have view : s.view x = x := by simp only [State.view, place]
  obtain ⟨l, r, parts, due, sameCycle, larger⟩ := due_split x ⟨c, v, levelOf x c⟩ s.clk.toNat
  have size : ((x.due ⟨c, v, levelOf x c⟩ s.clk.toNat).1).length = x.pending.length + 1 := by
    rw [due, parts, List.length_append, List.length_append, List.length_cons]
    omega
  unfold State.deferTo
  simp only [State.viewOf, here, Option.map_some, view, handlingLevel_eq, modView_onCore here (.inl place)]
  split
  · refine ⟨hubKept_of_hub (hub_modStrand ..), mem_modStrand .., _,
      State.strand_modStrand_same here rfl rfl, fun _ => ⟨l, r, parts, due, sameCycle, larger⟩⟩
  next d ninth =>
    refine ⟨.trans (.trans (hubKept_of_hub (hub_modStrand ..)) (hubKept_count ..)) (hubKept_of_hub rfl), mem_modStrand .., _,
      State.strand_modStrand_same here rfl rfl, fun few => ?_⟩
    obtain ⟨long, -⟩ := List.getElem?_eq_some_iff.mp ninth
    omega

end Sys2Proof.Claims

/-!
Refusals on their way back (09 R182), locations (18 R329) and messages (22 R361 to R363); O48.
-/
namespace Sys2Proof.Claims
open Machine

/-! ## The landing-failure queue (R182) -/

section
variable {s : State} {sid : Nat} {x : Strand} {r : RefusedLanding}

/-- The first k bytes of those written. -/
theorem readN_writeN_first (m : Memory) (a v : Nat) {k n : Nat} (h : k ≤ n) :
    Memory.readN (Memory.writeN m a v n) a k = v % 2 ^ (8 * k) :=
  readN_of_bytes fun b low high => by rw [Memory.read_writeN, if_pos ⟨low, by omega⟩]

/-- The free entries of the queue, counted modulo 2⁶⁴. -/
theorem queued_eq (m : Memory) (a : Nat) :
    (BitVec.ofNat 64 (Memory.readN m a 8) - BitVec.ofNat 64 (Memory.readN m (a + 8) 8)).toNat =
      (Memory.readN m a 8 + 2 ^ 64 - rd m a 8 8) % 2 ^ 64 := by
  have head := readN_lt m a 8
  have tail := readN_lt m (a + 8) 8
  unfold rd
  rw [BitVec.toNat_sub, BitVec.toNat_ofNat, BitVec.toNat_ofNat]
  omega

/-- The fields of a failure record that stand at its bytes 0 to 7 and 16. -/
theorem failRecord_fields (r : RefusedLanding) : failRecord r % 2 ^ 64 = r.l.addr.toNat ∧
    failRecord r / 2 ^ 128 % 2 ^ 8 = r.cause.toNat := by
  have addr := r.l.addr.isLt
  have cause := r.cause.isLt
  have value : (if r.l.source = 0 then r.l.value.toNat else 0) < 2 ^ 64 := by
    split
    · exact r.l.value.isLt
    · omega
  unfold failRecord
  generalize (if r.l.source = 0 then r.l.value.toNat else 0) = b at *
  generalize (if (r.l.isV && r.l.source == 1) = true then r.l.vec.tag.toNat else 0) = c
  generalize (if (r.l.isV && r.l.source == 1) = true then r.l.vec.scale.toNat else 0) = d
  generalize (if r.l.isV = true then r.l.vec.data.toNat else if r.l.source = 2 then r.l.value.toNat else 0) = e
  obtain ⟨k, high⟩ : 2 ^ 136 ∣ 2 ^ 512 := Nat.pow_dvd_pow 2 (by omega)
  obtain ⟨z, parts⟩ : ∃ z, r.l.addr.toNat + b * 2 ^ 64 + r.cause.toNat * 2 ^ 128 + r.l.source * 2 ^ 136 + c * 2 ^ 144
      + r.l.sent % 2 ^ 32 * 2 ^ 160 + d * 2 ^ 192 + e * 2 ^ 512 = r.l.addr.toNat + 2 ^ 64 * (b + 2 ^ 64 * (r.cause.toNat + 2 ^ 8 * z)) :=
    ⟨r.l.source + c * 2 ^ 8 + r.l.sent % 2 ^ 32 * 2 ^ 24 + d * 2 ^ 56 + e * k, by rw [high]; ring⟩
  rw [parts]
  omega

theorem failQueue_eq (s : State) (sid : Nat) (r : RefusedLanding) : s.failQueue sid r =
    if (rd s.mem (Memory.privBase sid) 0 8 + 2 ^ 64 - rd s.mem (Memory.privBase sid) 8 8) % 2 ^ 64 < 16 then
      (true, (s.devWrite sid (0x40 + 320 * (rd s.mem (Memory.privBase sid) 0 8 % 16)) 320 (failRecord r)).devWrite sid 0 8
        ((rd s.mem (Memory.privBase sid) 0 8 + 1) % 2 ^ 64))
    else (false, s.devWrite sid 0x10 8 ((rd s.mem (Memory.privBase sid) 0x10 8 + 1) % 2 ^ 64)) := rfl

/-- The record of a refusal is written where there is room, and counted where there is none. -/
theorem failQueue_keeps (here : s.strand sid = some x) (r : RefusedLanding) (w : Nat) (hw : w = rd s.mem (Memory.privBase sid) 0 8) :
    ∃ t cores, (s.failQueue sid r).2 = { t with cores := cores } ∧ (∀ k, Option.Rel Woken (s.strand k) (t.strand k)) ∧ t.clk = s.clk ∧
      HubKept s t ∧
      (((s.failQueue sid r).1 = true ∧ (w + 2 ^ 64 - rd s.mem (Memory.privBase sid) 8 8) % 2 ^ 64 < 16 ∧
        Memory.readN t.mem (Memory.privBase sid) 8 = (w + 1) % 2 ^ 64 ∧
        Memory.readN t.mem (Memory.privBase sid + 0x40 + 320 * (w % 16)) 8 = r.l.addr.toNat ∧
        Memory.readN t.mem (Memory.privBase sid + 0x40 + 320 * (w % 16) + 16) 1 = r.cause.toNat) ∨
      ((s.failQueue sid r).1 = false ∧ ¬ (w + 2 ^ 64 - rd s.mem (Memory.privBase sid) 8 8) % 2 ^ 64 < 16 ∧
        Memory.readN t.mem (Memory.privBase sid + 0x10) 8 = (rd s.mem (Memory.privBase sid) 0x10 8 + 1) % 2 ^ 64)) := by
  rw [failQueue_eq, ← hw]
  split
  next room =>
    obtain ⟨t, cores, eq, strands, clk, kept, mem⟩ := devWrite_devWrite_keeps here (off := 0x40 + 320 * (w % 16)) (off' := 0)
      (by omega) (by omega) 320 (failRecord r) 8 ((w + 1) % 2 ^ 64)
    obtain ⟨addr, cause⟩ := failRecord_fields r
    rw [Nat.add_zero, ← Nat.add_assoc] at mem
    refine ⟨t, cores, eq, strands, clk, kept, .inl ⟨rfl, room, ?_, ?_, ?_⟩⟩
    · rw [mem, readN_writeN_same, Nat.mod_mod]
    · rw [mem, readN_writeN_apart _ _ _ _ (by omega)]
      rw [readN_writeN_first _ _ _ (by omega), addr]
    · rw [mem, readN_writeN_apart _ _ _ _ (by omega)]
      rw [readN_writeN_within _ _ _ (by omega), cause]
  next full =>
    obtain ⟨t, cores, eq, performed, kept, mem, -⟩ := devWrite_keeps here (off := 0x10) (by omega) 8
      ((rd s.mem (Memory.privBase sid) 0x10 8 + 1) % 2 ^ 64)
    exact ⟨t, cores, eq, performed.strand, performed.clk, kept, .inr ⟨rfl, full, by rw [mem, readN_writeN_same, Nat.mod_mod]⟩⟩

/-- A deferred fault, unless the strand reads its failure queue (R177, R182). -/
theorem deferUnless_resident (here : s.strand sid = some x) (place : x.place = .resident) (c : BitVec 8) (v : Word) (quiet : Bool) :
    HubKept s (if quiet then s else s.deferTo sid c v) ∧ (if quiet then s else s.deferTo sid c v).mem = s.mem ∧
      ∃ y, (if quiet then s else s.deferTo sid c v).strand sid = some y ∧ (quiet = true → y = x) ∧
        (quiet = false → x.pending.length < 8 → FaultDue s x y c v) := by
  cases quiet with
  | true => exact ⟨.refl s, rfl, x, here, fun _ => rfl, nofun⟩
  | false =>
    obtain ⟨kept, mem, y, stands, due⟩ := deferTo_resident here place c v
    exact ⟨kept, mem, y, stands, nofun, fun _ => due⟩

theorem FaultDue.of_woken {t : State} {y z : Strand} {c : BitVec 8} {v : Word} (h : FaultDue t y z c v) (woken : Woken x y)
    (clk : t.clk = s.clk) : FaultDue s x z c v := by
  obtain ⟨w, rfl⟩ := woken.frame
  rwa [FaultDue, clk] at h

/-! ## A refusal that returns (R182) -/

/-- No earlier element of a list has a property. -/
theorem any_take_eq_false {α : Type} {l : List α} {i : Nat} {p : α → Bool} (h : ∀ j x, j < i → l[j]? = some x → p x = false) :
    (l.take i).any p = false := by
  refine List.any_eq_false.mpr fun x hx => ?_
  obtain ⟨j, at_⟩ := List.getElem?_of_mem hx
  obtain ⟨short, -⟩ := List.getElem?_eq_some_iff.mp at_
  rw [List.length_take, Nat.lt_min] at short
  rw [List.getElem?_take_of_lt short.1] at at_
  exact Bool.eq_false_iff.mp (h j x short.1 at_)

theorem exec_landingRefusalReturn (i : Nat) (s : State) : exec (.landingRefusalReturn i) s = execLandingRefusalReturn i s := rfl

variable {i : Nat} (at_ : s.hub.refusals[i]? = some r)
  (first : ∀ j q, j < i → s.hub.refusals[j]? = some q → q.l.sender ≠ r.l.sender)
include at_ first

/-- The sender has ended. -/
theorem refusal_lost (none_ : s.strand r.l.sender = none) : Gives (.landingRefusalReturn i) s fun t => BytesKept s t ∧
    t.hub.refusals = s.hub.refusals.eraseIdx i ∧ Counts s t r.l.pid .landLost 1 := by
  have earlier : ((s.hub.refusals.take i).any fun q => q.l.sender == r.l.sender) = false :=
    any_take_eq_false fun j q hj hq => beq_false_of_ne (first j q hj hq)
  have gone : (s.modHub fun h => { h with refusals := h.refusals.eraseIdx i }).viewOf r.l.sender = none := by
    rw [State.viewOf, show (s.modHub fun h => { h with refusals := h.refusals.eraseIdx i }).strand r.l.sender = none from none_]
    rfl
  refine ⟨(s.modHub fun h => { h with refusals := h.refusals.eraseIdx i }).count r.l.pid .landLost 1, ?_, fun _ => rfl, rfl,
    counts_count (s.modHub fun h => { h with refusals := h.refusals.eraseIdx i }) ..⟩
  rw [exec_landingRefusalReturn, execLandingRefusalReturn]
  simp only [at_, earlier, Bool.false_eq_true, if_false, gone]

theorem exec_refusal_resident (here : s.strand r.l.sender = some x) (place : x.place = .resident) {ok : Bool} {u : State}
    (queue : (s.modHub fun h => { h with refusals := h.refusals.eraseIdx i }).failQueue r.l.sender r = (ok, u)) :
    exec (.landingRefusalReturn i) s = .next (if (ok && x.ctl.lmode) = true then u else u.deferTo r.l.sender r.cause r.l.addr) := by
  have earlier : ((s.hub.refusals.take i).any fun q => q.l.sender == r.l.sender) = false :=
    any_take_eq_false fun j q hj hq => beq_false_of_ne (first j q hj hq)
  have there : (s.modHub fun h => { h with refusals := h.refusals.eraseIdx i }).viewOf r.l.sender = some x := by
    rw [State.viewOf, show (s.modHub fun h => { h with refusals := h.refusals.eraseIdx i }).strand r.l.sender = some x from here]
    simp only [Option.map_some, State.view, place]
  rw [exec_landingRefusalReturn, execLandingRefusalReturn, at_]
  refine (if_neg (by rw [earlier]; nofun)).trans ?_
  conv => lhs; zeta
  rw [there, queue]

/-- What the sender sees of a refusal (R177, R182). -/
theorem refusal_resident (here : s.strand r.l.sender = some x) (place : x.place = .resident) {w q : Nat}
    (hw : w = Memory.readN s.mem (Memory.privBase r.l.sender) 8)
    (hq : q = Memory.readN s.mem (Memory.privBase r.l.sender + 8) 8) : Gives (.landingRefusalReturn i) s fun t =>
      t.hub.refusals = s.hub.refusals.eraseIdx i ∧
      ((BitVec.ofNat 64 w - BitVec.ofNat 64 q).toNat < 16 →
        Memory.readN t.mem (Memory.privBase r.l.sender) 8 = (w + 1) % 2 ^ 64 ∧
        Memory.readN t.mem (Memory.privBase r.l.sender + 0x40 + 320 * (w % 16)) 8 = r.l.addr.toNat ∧
        Memory.readN t.mem (Memory.privBase r.l.sender + 0x40 + 320 * (w % 16) + 16) 1 = r.cause.toNat) ∧
      (¬ (BitVec.ofNat 64 w - BitVec.ofNat 64 q).toNat < 16 →
        Memory.readN t.mem (Memory.privBase r.l.sender + 0x10) 8 =
          (Memory.readN s.mem (Memory.privBase r.l.sender + 0x10) 8 + 1) % 2 ^ 64) ∧
      StrandMoves s t r.l.sender fun x y =>
        ((BitVec.ofNat 64 w - BitVec.ofNat 64 q).toNat < 16 → x.ctl.lmode = true → y.pending = x.pending) ∧
        (x.ctl.lmode = false ∨ ¬ (BitVec.ofNat 64 w - BitVec.ofNat 64 q).toNat < 16 → x.pending.length < 8 →
          FaultDue s x y r.cause r.l.addr) := by
  have room := queued_eq s.mem (Memory.privBase r.l.sender)
  rw [← hw, ← hq] at room
  rw [room]
  have run := exec_refusal_resident at_ first here place (Prod.mk.eta.symm)
  have queue := failQueue_keeps (s := s.modHub fun h => { h with refusals := h.refusals.eraseIdx i }) here r w hw
  rw [show (s.modHub fun h => { h with refusals := h.refusals.eraseIdx i }).mem = s.mem from rfl] at queue
  generalize (s.modHub fun h => { h with refusals := h.refusals.eraseIdx i }).failQueue r.l.sender r = out at run queue
  obtain ⟨t, cores, eq, strands, clk, kept, outcome⟩ := queue
  obtain ⟨ok, u⟩ := out
  subst eq
  have woken := strands r.l.sender
  rw [show (s.modHub fun h => { h with refusals := h.refusals.eraseIdx i }).strand r.l.sender = some x from here] at woken
  cases there : t.strand r.l.sender with
  | none => rw [there] at woken; cases woken
  | some y =>
  rw [there] at woken
  obtain ⟨wait, same⟩ : ∃ w, y = { x with wait := w } := by cases woken with | some woken => exact woken.frame
  obtain ⟨hub, mem, z, stands, quiet, due⟩ := deferUnless_resident (s := { t with cores := cores }) there (by rw [same]; exact place)
    r.cause r.l.addr (ok && x.ctl.lmode)
  have home : ∀ v, FaultDue { t with cores := cores } y z r.cause v → FaultDue s x z r.cause v := fun v h =>
    h.of_woken (by cases woken with | some woken => exact woken) clk
  have pending : y.pending = x.pending := by rw [same]
  refine ⟨_, run, hub.refusals.trans (kept.refusals.trans rfl), ?_⟩
  rw [mem]
  rcases outcome with ⟨rfl, free, counted, addr, cause⟩ | ⟨rfl, full, lost⟩
  · refine ⟨fun _ => ⟨counted, addr, cause⟩, fun full => absurd free full, x, z, here, stands, fun _ lmode => ?_, fun why few => ?_⟩
    · rw [quiet (by rw [lmode]; rfl), pending]
    · have loud := why.resolve_right (not_not.mpr free)
      exact home _ (due (by rw [loud]; rfl) (by rwa [pending]))
  · exact ⟨fun free => absurd free full, fun _ => lost, x, z, here, stands, fun free => absurd free full,
      fun _ few => home _ (due rfl (by rwa [pending]))⟩

end

end Sys2Proof.Claims

/-!
Locations that agents hold (18 R329), and messages (22 R361 to R363).
-/
namespace Sys2Proof.Claims
open Machine

/-! ## Locations (R329) -/

theorem die_modDie_same (s : State) (d : Nat) (f : Die → Die) : (s.modDie d f).die d = f (s.die d) := by
  rw [State.die, State.modDie_dies, Assoc.getD_modify_same]
  rfl

section
variable {s : State} {d sid : Nat} {e : CacheEntry}

/-- An agent's one entry, which is of the sid, changes. -/
theorem cache_modCache (one : (s.die d).cache = [e]) (of : e.sid = sid) (f : CacheEntry → CacheEntry) :
    ((s.modCache d sid f).die d).cache = [f e] := by
  rw [State.modCache, die_modDie_same]
  simp only [one, List.map_cons, List.map_nil, of, if_true]

/-- With nothing to switch to, or a landing in flight, the agent keeps its entry. -/
theorem settleCache_stays (one : (s.die d).cache = [e]) (of : e.sid = sid) (waits : e.next = [] ∨ e.flying ≠ 0) :
    s.settleCache d sid = s := by
  have found : ([e].find? fun c => c.sid == sid) = some e := List.find?_cons_of_pos (beq_iff_eq.mpr of)
  unfold State.settleCache
  simp only [one, found]
  rcases waits with none_ | flying
  · rw [none_]
    exact ite_self s
  · exact if_pos flying

/-- With no landing in flight the agent switches to the last location that it was told. -/
theorem settleCache_switches {l : List (Loc × Loc)} {o n : Loc} (one : (s.die d).cache = [e]) (of : e.sid = sid)
    (landed : e.flying = 0) (told : e.next = l ++ [(o, n)]) :
    ((s.settleCache d sid).die d).cache = [{ e with loc := n, next := [] }] := by
  have found : ([e].find? fun c => c.sid == sid) = some e := List.find?_cons_of_pos (beq_iff_eq.mpr of)
  have last : e.next.getLast? = some (o, n) := by rw [told, List.getLast?_concat]
  obtain ⟨cores, dies, switched, kept⟩ := switchedAll_frame s d sid e.next
  unfold State.settleCache
  simp only [one, found, landed, ne_eq, not_true_eq_false, if_false, last]
  rw [die_modDie_same, switched]
  have cache : (({ s with cores := cores, dies := dies } : State).die d).cache = [e] := (kept d).trans one
  simp only [cache, List.map_cons, List.map_nil, of, if_true, landed]

theorem settleCache_keeps (s : State) (d sid : Nat) : (s.settleCache d sid).hub = s.hub ∧ BytesKept s (s.settleCache d sid) := by
  obtain ⟨cores, dies, frame⟩ := settleCache_frame s d sid
  rw [frame]
  exact ⟨rfl, fun _ => rfl⟩

theorem forwardAck_gives {i : Nat} {a : FwdAck} (at_ : s.hub.acks[i]? = some a) (one : (s.die a.die).cache = [e]) (of : e.sid = a.sid) :
    Gives (.forwardAck i) s fun t => BytesKept s t ∧ t.hub.acks = s.hub.acks.eraseIdx i ∧
      (e.next = [] ∨ 2 ≤ e.flying → (t.die a.die).cache = [{ e with flying := e.flying - 1 }]) ∧
      ∀ l o n, e.next = l ++ [(o, n)] → e.flying = 1 → (t.die a.die).cache = [{ e with flying := 0, loc := n, next := [] }] := by
  have run : exec (.forwardAck i) s = execForwardAck i s := rfl
  have cache := cache_modCache (s := s.modHub fun h => { h with acks := h.acks.eraseIdx i }) one of
    fun c => { c with flying := c.flying - 1 }
  obtain ⟨hub, bytes⟩ := settleCache_keeps ((s.modHub fun h => { h with acks := h.acks.eraseIdx i }).modCache a.die a.sid
    fun c => { c with flying := c.flying - 1 }) a.die a.sid
  rw [execForwardAck] at run
  simp only [at_] at run
  refine ⟨_, run, bytes, congrArg Hub.acks hub, fun stays => ?_, fun l o n told one => ?_⟩
  · rw [settleCache_stays cache of (stays.imp id fun two => by simp only [ne_eq]; omega), cache]
  · rw [settleCache_switches cache of (by simp only [one]) told]
    simp only [one]

theorem locationUpdate_gives {i : Nat} {n : LocNote} (at_ : s.hub.notes[i]? = some n)
    (first : ∀ j m, j < i → s.hub.notes[j]? = some m → m.die ≠ n.die ∨ m.sid ≠ n.sid) (one : (s.die n.die).cache = [e])
    (of : e.sid = n.sid) : Gives (.locationUpdate i) s fun t => BytesKept s t ∧ t.hub.notes = s.hub.notes.eraseIdx i ∧
      (e.flying = 0 → (t.die n.die).cache = [{ e with loc := n.new, next := [] }]) ∧
      (e.flying ≠ 0 → (t.die n.die).cache = [{ e with next := e.next ++ [(n.old, n.new)] }]) := by
  have run : exec (.locationUpdate i) s = execLocationUpdate i s := rfl
  have earlier : ((s.hub.notes.take i).any fun m => m.die == n.die && m.sid == n.sid) = false :=
    any_take_eq_false fun j m hj hm => by
      rw [Bool.and_eq_false_iff]
      exact (first j m hj hm).imp beq_false_of_ne beq_false_of_ne
  have known : ((s.modHub fun h => { h with notes := h.notes.eraseIdx i }).die n.die).cache.any (·.sid == n.sid) = true := by
    rw [show ((s.modHub fun h => { h with notes := h.notes.eraseIdx i }).die n.die).cache = [e] from one]
    exact List.any_eq_true.mpr ⟨e, List.mem_cons_self, beq_iff_eq.mpr of⟩
  have cache := cache_modCache (s := s.modHub fun h => { h with notes := h.notes.eraseIdx i }) one of
    fun c => { c with next := c.next ++ [(n.old, n.new)] }
  obtain ⟨hub, bytes⟩ := settleCache_keeps ((s.modHub fun h => { h with notes := h.notes.eraseIdx i }).modCache n.die n.sid
    fun c => { c with next := c.next ++ [(n.old, n.new)] }) n.die n.sid
  rw [execLocationUpdate] at run
  simp only [at_, earlier, Bool.false_eq_true, if_false, known, if_true] at run
  refine ⟨_, run, bytes, congrArg Hub.notes hub, fun landed => ?_, fun flying => ?_⟩
  · rw [settleCache_switches cache of landed rfl]
  · rw [settleCache_stays cache of (.inr flying), cache]

end

/-! ## Registers and sids of a new strand (R127 to R129) -/

theorem getElem_foldl_setIfInBounds {α : Type} {n : Nat} (l : List α) (k : Nat) (g : Vector α n) {i : Nat} (hi : i < n) :
    ((l.zipIdx k).foldl (fun g (p : α × Nat) => g.setIfInBounds (p.2 + 1) p.1) g)[i] =
      if k + 1 ≤ i then l.getD (i - (k + 1)) g[i] else g[i] := by
  induction l generalizing k g with
  | nil => simp
  | cons x l ih =>
    rw [List.zipIdx_cons, List.foldl_cons, ih, Vector.getElem_setIfInBounds]
    rcases Nat.lt_trichotomy i (k + 1) with low | rfl | high
    · rw [if_neg (by omega), if_neg (by omega), if_neg (by omega)]
    · simp
    · rw [if_pos (by omega), if_neg (by omega), if_pos (by omega), show i - (k + 1) = i - (k + 1 + 1) + 1 by omega]
      rfl

/-- The registers from g1 on are those of the list. -/
theorem getElem_gFile (l : List Word) {i : Nat} (hi : i + 1 < 32) : (gFile l)[i + 1] = l.getD i 0 := by
  refine (getElem_foldl_setIfInBounds l 0 _ hi).trans ?_
  rw [if_pos (by omega), Vector.getElem_replicate]
  rfl

theorem G_ofNat_succ (x : Strand) {i : Nat} (hi : i + 1 < 32) : x.G (BitVec.ofNat 5 (i + 1)) = x.g[i + 1] := by
  have number : (BitVec.ofNat 5 (i + 1)).toNat = i + 1 := Nat.mod_eq_of_lt hi
  have nonzero : BitVec.ofNat 5 (i + 1) ≠ 0 := fun h => by have := congrArg BitVec.toNat h; rw [number] at this; cases this
  rw [Strand.G, if_neg nonzero]
  simp only [number]

theorem mkSid_lt (gen slot kind i : Nat) : mkSid gen slot kind i < 2 ^ 48 := by unfold mkSid; omega

theorem mkSid_mod (gen slot kind i : Nat) : mkSid gen slot kind (i % 2 ^ 30) = mkSid gen slot kind i := by
  unfold mkSid
  rw [Nat.mod_mod]

/-- A sid that no live strand has is taken at once. -/
theorem takeSid_free {s : State} {gen slot kind : Nat} (free : s.strand (mkSid gen slot kind ((s.slot slot).counter kind)) = none) :
    s.takeSid gen slot kind = (mkSid gen slot kind ((s.slot slot).counter kind),
      s.modSlot slot fun l => l.setCounter kind (((s.slot slot).counter kind % 2 ^ 30 + 1) % 2 ^ 30)) := by
  have first : s.nextIndex gen slot kind (s.strands.length + 1) ((s.slot slot).counter kind) = (s.slot slot).counter kind % 2 ^ 30 := by
    rw [State.nextIndex, State.liveSid, free]
    rfl
  simp only [State.takeSid, first, mkSid_mod]

/-- A strand that is added to the others. -/
theorem strand_addStrand {s : State} {x : Strand} (free : s.strand x.sid.toNat = none) :
    (s.addStrand x).strand x.sid.toNat = some x := by
  unfold State.strand at free ⊢
  split at free
  next => cases free
  next other =>
    exact (if_neg other).trans (Assoc.get_set_same ..)

/-! ## Messages (R362, R363) -/

theorem messageArrival_gives {s : State} {i : Nat} {m : Msg} (at_ : s.hub.msgs[i]? = some m)
    (first : ∀ j n, j < i → s.hub.msgs[j]? = some n → n.sender ≠ m.sender ∨ n.die ≠ m.die) : Gives (.messageArrival i) s fun t =>
      BytesKept s t ∧ t.hub.msgs = s.hub.msgs.eraseIdx i ∧ (t.die m.die).msgs = (s.die m.die).msgs ++ [m] := by
  have run : exec (.messageArrival i) s = execMessageArrival i s := rfl
  have earlier : ((s.hub.msgs.take i).any fun n => n.sender == m.sender && n.die == m.die) = false :=
    any_take_eq_false fun j n hj hn => by
      rw [Bool.and_eq_false_iff]
      exact (first j n hj hn).imp beq_false_of_ne beq_false_of_ne
  rw [execMessageArrival] at run
  simp only [at_, earlier, Bool.false_eq_true, if_false] at run
  exact ⟨_, run, fun _ => rfl, rfl, by rw [die_modDie_same]; rfl⟩

/-- The entries of a list change, each as its key says; one that is not listed stands at its default. -/
theorem Assoc.getD_map {α : Type} (l : List (Nat × α)) (g : Nat → α → α) (a : Nat) (d : α) (same : g a d = d) :
    Assoc.getD (l.map fun p => (p.1, g p.1 p.2)) a d = g a (Assoc.getD l a d) := by
  induction l with
  | nil => exact same.symm
  | cons p l ih =>
    unfold Assoc.getD at ih ⊢
    rw [List.map_cons, Assoc.get, Assoc.get]
    split
    next here => rw [here]; rfl
    next => exact ih

theorem exec_messageDispatch (die : Nat) (s : State) : exec (.messageDispatch die) s = execMessageDispatch die s := rfl

/-- A light strand that is created is added beside the others; the dies forget older ones of its sid. -/
theorem create_light {s : State} {x : Strand} (light : x.cls = .light) : ∃ f : List CacheEntry → List CacheEntry, f [] = [] ∧
    s.create x = { s.addStrand x with dies := s.dies.map fun p => (p.1, { p.2 with cache := f p.2.cache }) } := by
  refine ⟨fun l => l.filter (·.sid != x.sid.toNat), rfl, ?_⟩
  unfold State.create
  rw [light]
  rfl

theorem messageDispatch_gives {s : State} {die core sid : Nat} {m : Msg} {rest : List Msg} (msgs : (s.die die).msgs = m :: rest)
    (handler : s.handlerCore die = some core) (admits : s.mayAdmit m.pid = true) (runs : (s.die die).halted = false)
    (hsid : sid = mkSid (sidGen m.sender) (sidSlot m.sender) 3 ((s.slot (sidSlot m.sender)).counter 3))
    (free : s.strand sid = none) : Gives (.messageDispatch die) s fun t => BytesKept s t ∧ (t.die die).msgs = rest ∧
      (t.core core).urgent = (s.core core).urgent ++ [sid] ∧ Stands t sid fun y => y.cls = .light ∧ y.place = .urgentQ ∧
        y.core = core ∧ y.pc = m.pc ∧ (∀ i (h : i < 7), y.G (BitVec.ofNat 5 (i + 1)) = m.regs[i]) ∧
        y.ext = m.ext ∧ y.ctl.priv = m.priv := by
  have bound : sid < 2 ^ 48 := hsid ▸ mkSid_lt ..
  have number : (BitVec.ofNat 48 sid).toNat = sid := Nat.mod_eq_of_lt bound
  have run := exec_messageDispatch die s
  rw [execMessageDispatch] at run
  simp only [msgs, handler, admits, runs, Bool.not_true, Bool.or_self, Bool.false_eq_true, if_false,
    takeSid_free (hsid ▸ free), ← hsid] at run
  refine ⟨_, run, ?_⟩
  generalize part : ((State.modDie _ _ _).core core).part.getD _ = w
  obtain ⟨f, nil, created⟩ := create_light (s := (s.modSlot (sidSlot m.sender) fun l => l.setCounter 3
    (((s.slot (sidSlot m.sender)).counter 3 % 2 ^ 30 + 1) % 2 ^ 30)).modDie die fun d => { d with msgs := rest })
    (x := msgStrand m sid core w) rfl
  have stands := strand_addStrand (s := (s.modSlot (sidSlot m.sender) fun l => l.setCounter 3
    (((s.slot (sidSlot m.sender)).counter 3 % 2 ^ 30 + 1) % 2 ^ 30)).modDie die fun d => { d with msgs := rest })
    (x := msgStrand m sid core w) (by rw [show (msgStrand m sid core w).sid.toNat = sid from number]; exact free)
  rw [show (msgStrand m sid core w).sid.toNat = sid from number] at stands
  rw [created]
  refine ⟨fun _ => rfl, ?_, ?_, msgStrand m sid core w, stands, rfl, rfl, rfl, rfl, fun i h => ?_, rfl, rfl⟩
  · have same := Assoc.getD_map ((s.modSlot (sidSlot m.sender) fun l => l.setCounter 3
        (((s.slot (sidSlot m.sender)).counter 3 % 2 ^ 30 + 1) % 2 ^ 30)).modDie die fun d => { d with msgs := rest }).dies
      (fun _ d => { d with cache := f d.cache }) die {} (by dsimp only; rw [nil])
    refine (congrArg Die.msgs same).trans ?_
    exact congrArg Die.msgs (die_modDie_same (s.modSlot (sidSlot m.sender) _) die fun d => { d with msgs := rest })
  · rw [core_modCore]
    rfl
  · have value := G_ofNat_succ (msgStrand m sid core w) (show i + 1 < 32 by omega)
    rw [value, msgStrand, getElem_gFile _ (by omega), List.getD_eq_getElem _ _ (by simpa using h), Vector.getElem_toList]

end Sys2Proof.Claims

/-!
The events of landings, refusals and messages (07 R153, R154, 09 R182, 18 R329, R330, 22 R362, R363).
-/
namespace Sys2Proof.Claims
open Machine

/-- Settles O48, event by event: `landing_arrival`, agents, `landing_refusal_return`, `forward_ack`, `location_update`, messages. -/
theorem landingEvents : Obligations.LandingEvents := by
  unfold Obligations.LandingEvents
  refine ⟨fun s i l c at_ => ⟨fun none_ => ⟨_, arrival_dead at_ none_, refusedWith_refuse s l i 0x6B⟩, fun x live core =>
      ⟨fun place => ⟨fun n => ⟨fun named isOpen free => ?_, fun named closed => ?_, fun named isOpen busy => ?_⟩,
        fun n => ⟨fun named isOpen free => ?_, fun named closed => ?_⟩,
        fun scalar vector => arrival_refused at_ live.1 core place (refuses_unnamed scalar vector)⟩,
      fun cut => arrival_forwarded at_ live.1 cut⟩⟩,
    fun s i l d at_ => ⟨fun none_ => ⟨_, held_dead at_ none_, refusedWith_refuse s l i 0x6B⟩,
      fun x here cut home => held_cut at_ here cut home, fun x n live saved home named => ⟨fun isOpen free => ?_, fun closed => ?_⟩⟩,
    fun s i r at_ first => ⟨refusal_lost at_ first, fun x w rd live place hw hrd => refusal_resident at_ first live.1 place hw hrd⟩,
    fun s i a e => forwardAck_gives, fun s i n e => locationUpdate_gives, fun s i m => messageArrival_gives,
    fun s die m rest core sid => messageDispatch_gives⟩
  · obtain ⟨t, run, bytes, landings, refusals, y, stands, lands, pc, wait⟩ :=
      arrival_lands at_ live.1 core place (by simp [named.refuses, isOpen, free])
    exact ⟨t, run, bytes, landings, refusals, x, y, live.1, stands, lands, pc, wait.trans named.woken⟩
  · exact arrival_refused at_ live.1 core place (by simp [named.refuses, closed])
  · exact arrival_refused at_ live.1 core place (by simp [named.refuses, isOpen, busy])
  · obtain ⟨t, run, bytes, landings, refusals, y, stands, lands, pc, wait⟩ :=
      arrival_lands at_ live.1 core place (by simp [named.refuses, isOpen, free])
    exact ⟨t, run, bytes, landings, refusals, x, y, live.1, stands, lands, pc, wait.trans named.woken⟩
  · exact arrival_refused at_ live.1 core place (by simp [named.refuses, closed])
  · exact held_lands at_ live.1 saved home named (by simp [named.refuses, isOpen, free])
  · exact held_refused at_ live.1 saved home (by simp [named.refuses, closed])

end Sys2Proof.Claims

/-!
Signals and the completion of nodes (07 R136, R137, R139).
-/
namespace Sys2Proof.Claims
open Machine

/-! ## Nodes -/

section
variable {s : State} {id : Nat} {n : Node}

/-- A node is found by its own id. -/
theorem nodeOf_id (h : s.nodeOf id = some n) : n.id = id := by
  have found := List.find?_some h
  exact beq_iff_eq.mp found

/-- A node that changes keeps its place. -/
theorem nodeOf_modNode (h : s.nodeOf id = some n) (f : Node → Node) (keeps : ∀ m, (f m).id = m.id) :
    (s.modNode id f).nodeOf id = some (f n) := by
  have named := nodeOf_id h
  unfold State.nodeOf State.modNode at *
  rw [State.modHub_hub, List.find?_map]
  have same : ((fun m : Node => m.id == id) ∘ fun m => if m.id = id then f m else m) = fun m => m.id == id := by
    funext m
    by_cases here : m.id = id
    · simp only [Function.comp_apply, here, if_true, keeps]
    · simp only [Function.comp_apply, here, if_false]
  rw [same, h, Option.map_some, if_pos named]

end

/-! ## Signals (R136, R137) -/

section
variable {s : State} {pa : Nat}

theorem hubKept_signalDec (s : State) (pa : Nat) (cause : BitVec 8) : HubKept s (s.signalDec pa cause) := by
  unfold State.signalDec
  dsimp only
  split
  · exact (hubWrite_keeps ..).2.trans (hubWrite_keeps ..).2
  · exact (hubWrite_keeps ..).2

theorem signals_signalDec (aligned : pa % 16 = 0) (low : pa < 2 ^ 39) (cause : BitVec 8) : Signals s (s.signalDec pa cause) pa cause := by
  have first : pa % 64 + 8 ≤ 64 := by omega
  have second : (pa + 8) % 64 + 8 ≤ 64 := by omega
  have low' : pa + 8 < 2 ^ 39 := by omega
  have small := cause.isLt
  unfold State.signalDec
  dsimp only
  split
  next fails =>
    constructor
    · rw [readN_hubWrite_same _ low first, readN_hubWrite_apart _ low' second (.inl (by omega)), Nat.mod_mod]
    · rw [readN_hubWrite_apart _ low first (.inr le_rfl), readN_hubWrite_same _ low' second, if_pos fails, Nat.mod_eq_of_lt (by omega)]
    · intro a outside
      rw [read_hubWrite _ _ low first, if_neg (by omega), read_hubWrite _ _ low' second, if_neg (by omega)]
  next keeps =>
    constructor
    · rw [readN_hubWrite_same _ low first, Nat.mod_mod]
    · rw [readN_hubWrite_apart _ low first (.inr le_rfl), if_neg keeps]
    · intro a outside
      rw [read_hubWrite _ _ low first, if_neg (by omega)]

/-- A node that completes. -/
theorem nodeDone_finishNode (s : State) (n : Node) (cause : BitVec 8) : NodeDone s (s.finishNode n cause) n cause := by
  cases signal : n.signal with
  | none =>
    refine ⟨?_, ?_, ?_, fun _ => ?_⟩
    · simp only [State.finishNode, signal, State.modHub_hub]
    · simp only [signal, reduceCtorEq, false_implies, implies_true]
    · simp only [signal, reduceCtorEq, false_implies, implies_true]
    · simp only [State.finishNode, signal]
      exact fun _ => rfl
  | some pa =>
    cases cut : cutBy n.cuts n.sigVa with
    | true =>
      refine ⟨?_, ?_, fun pa' same _ => ?_, ?_⟩
      · simp only [State.finishNode, signal, cut, if_true, State.modHub_hub, (hubKept_count s n.pid .sigLost _).nodes]
      · simp only [cut, Bool.true_eq_false, false_implies, implies_true]
      · obtain rfl := Option.some.inj (signal.symm.trans same)
        simp only [State.finishNode, signal, cut, if_true]
        exact ⟨fun _ => rfl, counts_count s n.pid .sigLost _⟩
      · simp only [signal, reduceCtorEq, false_implies]
    | false =>
      refine ⟨?_, fun pa' same aligned low _ => ?_, ?_, ?_⟩
      · simp only [State.finishNode, signal, cut, Bool.false_eq_true, if_false, State.modHub_hub, (hubKept_signalDec s pa cause).nodes]
      · obtain rfl := Option.some.inj (signal.symm.trans same)
        simp only [State.finishNode, signal, cut, Bool.false_eq_true, if_false]
        obtain ⟨value, status, others⟩ := signals_signalDec (s := s) aligned low cause
        exact ⟨value, status, others⟩
      · simp only [cut, Bool.false_eq_true, false_implies, implies_true]
      · simp only [signal, reduceCtorEq, false_implies]

end

end Sys2Proof.Claims

/-!
Completions of nodes that are no launch (07 R139, 08 R408).
-/
namespace Sys2Proof.Claims
open Machine

/-- The value that a signal operation leaves (R139). -/
theorem signalOp_value (x : Nat) (op : Nat) (y : Word) (small : x < 2 ^ 64) :
    (if op = 0 then x + 2 ^ 64 - y.toNat else if op = 1 then y.toNat else x + y.toNat) % 2 ^ 64 =
      if op = 0 then (BitVec.ofNat 64 x - y).toNat else if op = 1 then y.toNat else (BitVec.ofNat 64 x + y).toNat := by
  have := y.isLt
  split
  · rw [BitVec.toNat_sub, BitVec.toNat_ofNat]
    omega
  · split
    · omega
    · rw [BitVec.toNat_add, BitVec.toNat_ofNat]
      omega

/-- A domain that is bound stays bound to its launch. -/
theorem bindDom_bound {s : State} {p slot slot' : Nat} (bound : (s.dom p).bound = some slot) : s.bindDom p slot' = s := by
  rw [State.bindDom, bound]

/-- No signal of the list is in error. -/
theorem findSome_error_none {s : State} {list : List (Nat × Word)} (fine : ∀ e ∈ list, Memory.readN s.mem (e.1 + 8) 8 / 2 ^ 63 ≠ 1) :
    (list.findSome? fun e => if Memory.readN s.mem (e.1 + 8) 8 / 2 ^ 63 = 1 then
      some (BitVec.ofNat 8 (Memory.readN s.mem (e.1 + 8) 8)) else none) = none :=
  List.findSome?_eq_none_iff.mpr fun e he => if_neg (fine e he)

section
variable {s : State} {id : Nat} {n : Node} (here : s.nodeOf id = some n) (up : s.hub.down = false) (ready : n.ready = true)
include here up ready

theorem nodeComplete_ended (ended : n.ended = true) : Gives (.nodeComplete id) s fun t => NodeDone s t n n.cause := by
  have run : exec (.nodeComplete id) s = execNodeComplete id s := rfl
  rw [execNodeComplete] at run
  simp only [here, up, ready, ended, Bool.not_true, Bool.or_self, Bool.false_eq_true, if_false, if_true] at run
  exact ⟨_, run, nodeDone_finishNode s n n.cause⟩

theorem nodeComplete_signal {va y : Word} {pa op : Nat} (body : n.body = .signal va pa op y) (runs : n.ended = false)
    (silent : n.signal = none) (kept : cutBy n.cuts va = false) (aligned : pa % 16 = 0) (low : pa < 2 ^ 39) :
    Gives (.nodeComplete id) s fun t => t.hub.nodes = s.hub.nodes.filter (·.id != n.id) ∧
      Memory.readN t.mem pa 8 = (if op = 0 then (BitVec.ofNat 64 (Memory.readN s.mem pa 8) - y).toNat else if op = 1 then y.toNat
        else (BitVec.ofNat 64 (Memory.readN s.mem pa 8) + y).toNat) ∧
      ∀ a, a < pa ∨ pa + 8 ≤ a → Memory.read t.mem a = Memory.read s.mem a := by
  have run : exec (.nodeComplete id) s = execNodeComplete id s := rfl
  have inside : pa % 64 + 8 ≤ 64 := by omega
  have op_eq : s.signalOp n.pid n.cuts va pa op y = s.hubWrite pa 8 ((if op = 0 then Memory.readN s.mem pa 8 + 2 ^ 64 - y.toNat
      else if op = 1 then y.toNat else Memory.readN s.mem pa 8 + y.toNat) % 2 ^ 64) := if_neg (by rw [kept]; nofun)
  rw [execNodeComplete] at run
  simp only [here, up, ready, runs, body, Bool.not_true, Bool.or_self, Bool.false_eq_true, if_false] at run
  rw [op_eq, signalOp_value _ _ _ (readN_lt s.mem pa 8)] at run
  generalize value : (if op = 0 then (BitVec.ofNat 64 (Memory.readN s.mem pa 8) - y).toNat else if op = 1 then y.toNat
    else (BitVec.ofNat 64 (Memory.readN s.mem pa 8) + y).toNat) = x at run ⊢
  have small : x < 2 ^ 64 := by
    rw [← value]
    split
    · exact BitVec.isLt _
    · split <;> exact BitVec.isLt _
  obtain ⟨gone, -, -, bytes⟩ := nodeDone_finishNode (s.hubWrite pa 8 x) n 0
  refine ⟨_, run, gone.trans (by rw [(hubWrite_keeps ..).2.nodes]), ?_, fun a outside => ?_⟩
  · rw [readN_congr fun b _ _ => bytes silent b, readN_hubWrite_same s low inside, Nat.mod_eq_of_lt small]
  · rw [bytes silent a, read_hubWrite s x low inside, if_neg (by omega)]

/-- A seed whose domain can no longer take it. -/
theorem nodeComplete_seedOff {l : List (Nat × Nat)} {count : Nat} (body : n.body = .seed l count) (runs : n.ended = false)
    (off : s.seedOk n.pid n.queue = false) : Gives (.nodeComplete id) s fun t => NodeDone s t n 0x61 := by
  have run : exec (.nodeComplete id) s = execNodeComplete id s := rfl
  rw [execNodeComplete] at run
  simp only [here, up, ready, runs, body, off, Bool.not_true, Bool.not_false, Bool.or_self, Bool.false_eq_true, if_false, if_true] at run
  exact ⟨_, run, nodeDone_finishNode s n 0x61⟩

/-- The last record of a seed. -/
theorem nodeComplete_seedLast {l : List (Nat × Nat)} {count die slot : Nat} {s' : State} (body : n.body = .seed l count)
    (runs : n.ended = false) (takes : s.seedOk n.pid n.queue = true) (bound : (s.dom n.pid).bound = some slot)
    (last : n.done + 1 = count) (turn : (s.domDies n.pid)[n.done % (s.domDies n.pid).length]? = some die)
    (placed : s.placeSeed n.pid die (taskOf (s.readPieces l (64 * n.done) 64)) = some s') :
    Gives (.nodeComplete id) s fun t => NodeDone (s'.countPush n.pid die) t n 0 := by
  have run : exec (.nodeComplete id) s = execNodeComplete id s := rfl
  have one : count - n.done = 1 := by omega
  have record : s.seedRec l (s.domDies n.pid) n.done = some (die, taskOf (s.readPieces l (64 * n.done) 64)) := by
    rw [State.seedRec, turn, Option.map_some]
  have pushed : s.seedFrom n.pid l (s.domDies n.pid) 1 n.done = (n.done + 1, s'.countPush n.pid die) := by
    rw [State.seedFrom, record]
    simp only [placed, State.seedFrom]
  rw [execNodeComplete] at run
  cases newest : s.newestLaunch n.pid n.queue <;>
  · simp only [here, up, ready, runs, body, takes, Bool.not_true, Bool.or_self, Bool.false_eq_true, if_false, newest,
      bindDom_bound bound, one, pushed, last, lt_irrefl] at run
    exact ⟨_, run, nodeDone_finishNode _ n 0⟩

/-! ## Barrier-AND (R139) -/

theorem barrierAnd_passes {list : List (Nat × Word)} (body : n.body = .barrierAnd list)
    (met : ∀ e ∈ list, Memory.readN s.mem (e.1 + 8) 8 / 2 ^ 63 ≠ 1 ∧ (BitVec.ofNat 64 (Memory.readN s.mem e.1 8)).toInt ≤ e.2.toInt) :
    Gives (.barrierAndComplete id) s fun t => NodeDone s t n 0 := by
  have run : exec (.barrierAndComplete id) s = execBarrierAndComplete id s := rfl
  have none_ := findSome_error_none (s := s) fun e he => (met e he).1
  have all : (list.all fun e => decide ((BitVec.ofNat 64 (Memory.readN s.mem e.1 8)).toInt ≤ e.2.toInt)) = true :=
    List.all_eq_true.mpr fun e he => decide_eq_true (met e he).2
  rw [execBarrierAndComplete] at run
  simp only [here, up, ready, body, Bool.not_true, Bool.or_self, Bool.false_eq_true, if_false, none_, all, if_true] at run
  exact ⟨_, run, nodeDone_finishNode s n 0⟩

theorem barrierAnd_waits {list : List (Nat × Word)} (body : n.body = .barrierAnd list)
    (fine : ∀ e ∈ list, Memory.readN s.mem (e.1 + 8) 8 / 2 ^ 63 ≠ 1)
    (above : ∃ e ∈ list, e.2.toInt < (BitVec.ofNat 64 (Memory.readN s.mem e.1 8)).toInt) :
    exec (.barrierAndComplete id) s = .next s := by
  have run : exec (.barrierAndComplete id) s = execBarrierAndComplete id s := rfl
  have none_ := findSome_error_none fine
  obtain ⟨e, he, above⟩ := above
  have all : (list.all fun e => decide ((BitVec.ofNat 64 (Memory.readN s.mem e.1 8)).toInt ≤ e.2.toInt)) = false :=
    List.all_eq_false.mpr ⟨e, he, by rw [decide_eq_true_eq]; omega⟩
  rw [execBarrierAndComplete] at run
  simp only [here, up, ready, body, Bool.not_true, Bool.or_self, Bool.false_eq_true, if_false, none_, all] at run
  exact run

end

end Sys2Proof.Claims

/-!
The configuration block and what translation reads of it (20 R388, R389, R393).
-/
namespace Sys2Proof.Claims
open Machine

/-! ## Configuration dwords -/

/-- A dword is put: a zero is not listed. -/
theorem getD_putDword (l : List (Nat × Word)) (off : Nat) (v : Word) (o : Nat) :
    Assoc.getD (if v = 0 then Assoc.erase l off else Assoc.set l off v) o 0 = if o = off then v else Assoc.getD l o 0 := by
  by_cases zero : v = 0
  · rw [if_pos zero, Assoc.getD, Assoc.get_erase]
    by_cases ho : o = off
    · rw [if_pos ho, if_pos ho, zero]
      rfl
    · rw [if_neg ho, if_neg ho]
      rfl
  · rw [if_neg zero]
    by_cases ho : o = off
    · rw [if_pos ho, ho, Assoc.getD_set_same]
    · rw [if_neg ho, Assoc.getD_set_other _ _ _ _ _ ho]

theorem cfg_setCfg (s : State) (p off : Nat) (v : Word) (p' off' : Nat) :
    (s.setCfg p off v).cfg p' off' = if p' = p ∧ off' = off then v else s.cfg p' off' := by
  unfold State.cfg State.setCfg
  rw [part_modPart]
  by_cases hp : p' = p
  · simp only [hp, if_true, true_and]
    exact getD_putDword ..
  · simp only [hp, if_false, false_and]

theorem dom_setCfg (s : State) (p off : Nat) (v : Word) (p' : Nat) : (s.setCfg p off v).dom p' = s.dom p' := by
  unfold State.dom State.setCfg
  rw [part_modPart]
  split
  next h => rw [h]
  next => rfl

/-! ## What translation depends on -/

/-- Translation of a partition's addresses reads the same in both states. -/
structure Reads (s t : State) (p : Nat) : Prop where
  mem  : t.mem = s.mem
  root : t.cfg p 0x40 = s.cfg p 0x40

section
variable {s t : State} {p : Nat} (h : Reads s t p)
include h

theorem Reads.walk (v a : Nat) (l : List (Nat × Nat)) : t.walk v a l = s.walk v a l := by
  induction l generalizing a with
  | nil => rfl
  | cons x l ih =>
    unfold State.walk
    simp only [h.mem, ih]

theorem Reads.pageAt (v : Nat) : t.pageAt p v = s.pageAt p v := by
  unfold State.pageAt
  simp only [h.root, h.walk]

theorem Reads.mapRange (rights : Nat) (host : Bool) (k va n : Nat) : t.mapRange p rights host k va n = s.mapRange p rights host k va n := by
  induction k generalizing va n with
  | zero => rfl
  | succ k ih =>
    unfold State.mapRange
    simp only [h.pageAt, ih]

theorem Reads.mapVa (va : Word) (n rights : Nat) (host : Bool) : t.mapVa p va n rights host = s.mapVa p va n rights host := by
  unfold State.mapVa
  rw [h.mapRange]

theorem Reads.sigPa (va : Word) : t.sigPa p va = s.sigPa p va := by
  unfold State.sigPa
  rw [h.mapVa]

theorem Reads.optSig (va : Word) : t.optSig p va = s.optSig p va := by
  unfold State.optSig
  rw [h.sigPa]

theorem Reads.readPieces (l : List (Nat × Nat)) (i n : Nat) : t.readPieces l i n = s.readPieces l i n := by
  unfold State.readPieces
  rw [h.mem]

theorem Reads.operandList (va : Word) (n : Nat) : t.operandList p va n = s.operandList p va n := by
  unfold State.operandList
  simp only [h.mapVa, h.readPieces]

theorem Reads.headerOk (n : Nat) : t.headerOk p n = s.headerOk p n := by
  unfold State.headerOk
  rw [h.optSig]

theorem Reads.launchBody (n : Nat) : t.launchBody p n = s.launchBody p n := by
  unfold State.launchBody
  simp only [h.operandList, h.optSig]

end

theorem lt_of_dieMem {a : Nat} (h : spaceOf a = .dieMem) : a < 2 ^ 39 := by
  unfold spaceOf at h
  split_ifs at h
  assumption

/-- The first piece of a range that may not lie in host memory. -/
theorem mapRange_head_low {s : State} {p rights k va n a m : Nat} {l : List (Nat × Nat)}
    (h : s.mapRange p rights false k va n = some ((a, m) :: l)) : a < 2 ^ 39 := by
  cases k with
  | zero => rw [State.mapRange] at h; split at h <;> cases h
  | succ k =>
    unfold State.mapRange at h
    split at h
    · cases h
    · split at h
      · cases h
      next g _ =>
        dsimp only at h
        split at h
        · cases h
        next fits =>
          obtain ⟨_, -, eq⟩ := Option.map_eq_some_iff.mp h
          cases eq
          simp only [Bool.false_and, Bool.or_false, Bool.or_eq_true, not_or, Bool.not_eq_true, Bool.not_eq_false', Bool.and_eq_true,
            beq_iff_eq] at fits
          exact lt_of_dieMem fits.2.1

/-- A usable signal is in die memory (R137). -/
theorem sigPa_low {s : State} {p : Nat} {va : Word} {pa : Nat} (h : s.sigPa p va = some pa) : pa < 2 ^ 39 := by
  unfold State.sigPa State.mapVa at h
  split at h
  · cases h
  · split at h
    · cases h
    · obtain ⟨⟨a, m⟩, first, rfl⟩ := Option.map_eq_some_iff.mp h
      obtain ⟨l, mapped, head⟩ := Option.bind_eq_some_iff.mp first
      cases l with
      | nil => cases head
      | cons x l =>
        cases head
        exact mapRange_head_low mapped

end Sys2Proof.Claims

/-!
The packet processor takes a packet (07 R131, R132, R135, R137, R140).
-/
namespace Sys2Proof.Claims
open Machine

/-! ## The read index of a queue (R131) -/

section
variable (s : State) (p q : Nat)

theorem indexDword_putReadIndex (r : Nat) (cause : Option (BitVec 8)) : ((s.putReadIndex p q r cause).cfg p (0x108 + 16 * q)).toNat =
    r % 2 ^ 32 + (cause.map (·.toNat)).getD ((s.cfg p (0x108 + 16 * q)).toNat / 2 ^ 56) * 2 ^ 56 := by
  have old := (s.cfg p (0x108 + 16 * q)).isLt
  have small : (cause.map (·.toNat)).getD ((s.cfg p (0x108 + 16 * q)).toNat / 2 ^ 56) < 2 ^ 8 := by
    cases cause with
    | none => exact Nat.div_lt_of_lt_mul (by omega)
    | some c => exact c.isLt
  rw [State.putReadIndex, cfg_setCfg, if_pos ⟨rfl, rfl⟩, BitVec.toNat_ofNat]
  omega

theorem reads_putReadIndex (r : Nat) (cause : Option (BitVec 8)) : Reads s (s.putReadIndex p q r cause) p :=
  ⟨rfl, by rw [State.putReadIndex, cfg_setCfg, if_neg (by omega)]⟩

theorem reads_advance : Reads s (s.advance p q) p := reads_putReadIndex ..

theorem advanced_advance : Advanced s (s.advance p q) p q := by
  rw [Advanced, State.advance, indexDword_putReadIndex, State.readIndex]
  omega

theorem readIndex_advance : (s.advance p q).readIndex p q = (s.readIndex p q + 1) % 2 ^ 32 := advanced_advance s p q

end

/-! ## The next packet (R131) -/

section
variable {s : State} {p q n : Nat}

/-- The ring holds a packet that has not been taken, however far the notify register runs ahead. -/
theorem readIndex_ne_writeIndex (written : (s.cfg p (0x108 + 16 * q)).toNat % 2 ^ 32 ≠ (s.cfg p (0xC000 + 8 * q)).toNat) :
    s.readIndex p q ≠ s.writeIndex p q := by
  have size : 2 ^ 4 ≤ s.ringSize p q ∧ s.ringSize p q ≤ 2 ^ 19 := by
    unfold State.ringSize
    exact ⟨Nat.pow_le_pow_right (by omega) (by omega), Nat.pow_le_pow_right (by omega) (by omega)⟩
  rw [State.writeIndex, State.readIndex]
  generalize s.ringSize p q = k at size
  split
  · omega
  · exact written

theorem PacketAt.next (h : PacketAt s p q n) : s.nextPacket p q = some n := by
  have open_ : ¬ (64 ≤ q ∨ (!s.enabled p) = true ∨ s.hub.down = true ∨ s.readIndex p q = s.writeIndex p q ∨ (!s.poolRoom p) = true) := by
    rintro (bound | off | down | none_ | full)
    · exact absurd h.queue (by omega)
    · rw [State.enabled, h.enabled] at off
      cases off
    · rw [h.up] at down
      cases down
    · exact readIndex_ne_writeIndex h.written none_
    · rw [State.poolRoom, decide_eq_true h.room] at full
      cases full
  rw [State.nextPacket, if_neg open_, h.bytes]
  rfl

/-! ## The header (R132, R137) -/

theorem pk_lt (n off k : Nat) : pk n off k < 2 ^ (8 * k) := Nat.mod_lt _ (Nat.two_pow_pos _)

theorem ofNat_pk_eq_zero (n off : Nat) : BitVec.ofNat 64 (pk n off 8) = 0 ↔ pk n off 8 = 0 := by
  have small := pk_lt n off 8
  rw [← BitVec.toNat_inj, BitVec.toNat_ofNat, Nat.mod_eq_of_lt small]
  rfl

theorem optSig_pk (s : State) (p n off : Nat) : s.optSig p (BitVec.ofNat 64 (pk n off 8)) =
    if pk n off 8 = 0 then some none else (s.sigPa p (BitVec.ofNat 64 (pk n off 8))).map some := by
  simp only [State.optSig, ofNat_pk_eq_zero]

theorem HeaderOk.headerOk (h : HeaderOk s p n) : s.headerOk p n = true := by
  obtain ⟨reserved, signal⟩ := h
  rw [State.headerOk, decide_eq_true reserved, Bool.true_and, optSig_pk]
  split
  next => rfl
  next named => rw [Option.isSome_map]; exact signal.resolve_left named

theorem testBit_header {i : Nat} (hi : i < 8) : (pk n 0 1 / 2 ^ i % 2 == 1) = n.testBit i := by
  have bit : (n % 2 ^ 8).testBit i = n.testBit i := by rw [Nat.testBit_mod_two_pow, decide_eq_true hi, Bool.true_and]
  rw [← bit, Nat.testBit_eq_decide_div_mod_eq, pk, Nat.mul_zero, Nat.pow_zero, Nat.div_one]
  rfl

/-! ## Acceptance and rejection -/

theorem accepted_addNode (s : State) (p q n : Nat) (body : NodeBody) (wait : Option Nat) :
    Accepted s ((s.advance p q).addNode p q n body wait) p q n body wait := by
  have signal : ((s.advance p q).optSig p (BitVec.ofNat 64 (pk n 8 8))).getD none =
      if pk n 8 8 = 0 then none else s.sigPa p (BitVec.ofNat 64 (pk n 8 8)) := by
    rw [optSig_pk]
    split
    · rfl
    · rw [(reads_advance s p q).sigPa]
      cases s.sigPa p (BitVec.ofNat 64 (pk n 8 8)) <;> rfl
  exact ⟨advanced_advance s p q, fun _ => rfl, rfl, _, rfl, rfl, rfl, rfl, testBit_header (i := 4) (by omega),
    testBit_header (i := 5) (by omega), rfl, rfl, signal, rfl, rfl⟩

theorem rejected_rejectPacket (s : State) (p q n : Nat) (cause : BitVec 8) :
    Rejected s ((s.advance p q).rejectPacket p q n cause) p q n cause := by
  have reads := reads_advance s p q
  have index := advanced_advance s p q
  unfold State.rejectPacket
  rw [optSig_pk, reads.sigPa]
  by_cases silent : pk n 8 8 = 0
  · simp only [silent, if_true]
    have dword := indexDword_putReadIndex (s.advance p q) p q ((s.advance p q).readIndex p q) (some cause)
    have small := cause.isLt
    rw [readIndex_advance] at dword
    refine ⟨?_, rfl, fun _ => ⟨fun _ => rfl, ?_⟩, fun _ named => absurd silent named⟩
    · rw [Advanced, readIndex_advance, dword, State.readIndex, Option.map_some, Option.getD_some]
      omega
    · rw [readIndex_advance, dword, Option.map_some, Option.getD_some]
      omega
  · simp only [silent, if_false]
    cases usable : s.sigPa p (BitVec.ofNat 64 (pk n 8 8)) with
    | none =>
      have dword := indexDword_putReadIndex (s.advance p q) p q ((s.advance p q).readIndex p q) (some cause)
      have small := cause.isLt
      rw [readIndex_advance] at dword
      refine ⟨?_, rfl, fun named => absurd named silent, fun pa _ found => by rw [usable] at found; cases found⟩
      simp only [Option.map_none]
      rw [Advanced, readIndex_advance, dword, State.readIndex, Option.map_some, Option.getD_some]
      omega
    | some pa =>
      simp only [Option.map_some]
      have kept := hubKept_signalDec (s.advance p q) pa cause
      refine ⟨by rw [Advanced, kept.cfg]; exact index, kept.nodes, fun named => absurd named silent, fun pa' _ found aligned => ?_⟩
      obtain rfl := Option.some.inj (usable.symm.trans found)
      obtain ⟨value, status, others⟩ := signals_signalDec (s := s.advance p q) aligned (sigPa_low usable) cause
      exact ⟨value, status, others⟩

/-- A packet of a kind that an event takes becomes what its body makes of it. -/
theorem takePacket_accepts {i : Instr} {kinds : Nat → Bool} {body : State → Nat → Except (BitVec 8) (NodeBody × Option Nat)}
    (run : exec i s = takePacket p q kinds body s) (h : PacketAt s p q n) (kind : kinds (pk n 0 1 % 16) = true)
    (header : HeaderOk s p n) {b : NodeBody} {w : Option Nat}
    (made : body (s.advance p q) n = .ok (b, w)) : Gives i s fun t => Accepted s t p q n b w := by
  have header' : (s.advance p q).headerOk p n = true := (reads_advance s p q).headerOk n ▸ header.headerOk
  refine ⟨_, run.trans ?_, accepted_addNode s p q n b w⟩
  unfold takePacket
  simp only [h.next, kind, Bool.not_true, Bool.false_eq_true, if_false, header', if_true, made]

theorem takePacket_rejects {i : Instr} {kinds : Nat → Bool} {body : State → Nat → Except (BitVec 8) (NodeBody × Option Nat)}
    (run : exec i s = takePacket p q kinds body s) (h : PacketAt s p q n) (kind : kinds (pk n 0 1 % 16) = true) {c : BitVec 8}
    (made : (if (s.advance p q).headerOk p n then body (s.advance p q) n else .error 0x61) = .error c) :
    Gives i s fun t => Rejected s t p q n c := by
  refine ⟨_, run.trans ?_, rejected_rejectPacket s p q n c⟩
  unfold takePacket
  simp only [h.next, kind, Bool.not_true, Bool.false_eq_true, if_false, made]

end

end Sys2Proof.Claims

/-!
The kinds of packet (07 R133 to R135, R139, 08 R408), and the notify register (07 R131).
-/
namespace Sys2Proof.Claims
open Machine

/-! ## The notify register (R131) -/

theorem cfgKind_notify {q : Nat} (h : q < 64) : cfgKind (0xC000 + 8 * q) = .notify q := by
  unfold cfgKind
  iterate 17 rw [if_neg (by omega)]
  rw [if_pos (by omega)]
  congr 1
  omega

theorem userQueueNotify_gives {s : State} {p q : Nat} {index : Word} (part : p < 20) (queue : q < 64) (booted : s.hub.booted = true) :
    Gives (.userQueueNotify p q index) s fun t => BytesKept s t ∧
      t.cfg p (0xC000 + 8 * q) = BitVec.ofNat 64 (index.toNat % 2 ^ 32) := by
  have run : exec (.userQueueNotify p q index) s = execUserQueueNotify p q index s := rfl
  have takes : (decide (64 ≤ q) || !s.hub.booted) = false := by rw [booted, decide_eq_false (by omega)]; rfl
  have write : s.cfgWrite p (0xC000 + 8 * q) index .host = s.setCfg p (0xC000 + 8 * q) (index &&& 0xFFFFFFFF#64) := by
    rw [State.cfgWrite, if_neg (by omega)]
    simp only [cfgKind_notify queue]
    rfl
  rw [execUserQueueNotify, takes, if_neg (by nofun), write] at run
  refine ⟨_, run, fun _ => rfl, ?_⟩
  rw [cfg_setCfg, if_pos ⟨rfl, rfl⟩]
  apply BitVec.eq_of_toNat_eq
  rw [BitVec.toNat_and, BitVec.toNat_ofNat, BitVec.toNat_ofNat, Nat.mod_eq_of_lt (a := index.toNat % 2 ^ 32) (by omega),
    show 0xFFFFFFFF % 2 ^ 64 = 2 ^ 32 - 1 from rfl, Nat.and_two_pow_sub_one_eq_mod]

/-! ## Packets -/

section
variable {s : State} {p q n : Nat} (h : PacketAt s p q n)

theorem toNat_ofNat_pk (n off : Nat) : (BitVec.ofNat 64 (pk n off 8)).toNat = pk n off 8 := by
  rw [BitVec.toNat_ofNat, Nat.mod_eq_of_lt (pk_lt n off 8)]

/-- The body of a launch packet whose fields keep to R133 and R134. -/
theorem LaunchFields.body {cls : Cls} {ops : List (Word × Nat × Nat)} {wait : Option Nat} (f : LaunchFields s p n cls ops wait) :
    s.launchBody p n = if 2 ^ 30 < pk n 0x18 4 then .error 0x60 else
      .ok (.launch (BitVec.ofNat 64 (pk n 0x10 8)) (pk n 0x18 4) cls (pk n 0x1D 1) (pk n 0x1E 1) (BitVec.ofNat 5 (pk n 0x1F 1))
        (BitVec.ofNat 6 (pk n 0x20 1)) (BitVec.ofNat 10 (pk n 0x22 2)) (BitVec.ofNat 64 (pk n 0x28 8)) ops, wait) := by
  obtain ⟨-, -, cls, ops, wait, entry, slots, arrq, creel, nops, part, zero⟩ := f
  have fits : ¬ (pk n 0x10 8 % 4 ≠ 0 ∨ pk n 0x1D 1 < 2 ∨ 64 < pk n 0x1D 1 ∨ pk n 0x1E 1 < 4 ∨ 16 < pk n 0x1E 1 ∨ 31 < pk n 0x1F 1 ∨
      63 < pk n 0x20 1 ∨ 12 < pk n 0x21 1 ∨ (!partOk (pk n 0x22 2)) = true ∨ pk n 0x24 4 ≠ 0) := by
    simp only [part, Bool.not_true, Bool.false_eq_true, false_or]
    omega
  unfold State.launchBody
  simp only [cls, ops, wait]
  exact if_neg fits

theorem allSome_map_some {α : Type} (l : List α) : allSome (l.map some) = some l := by
  induction l with
  | nil => rfl
  | cons x l ih => rw [List.map_cons, allSome, ih]; rfl

/-- A list of signals and thresholds that are all usable. -/
theorem allSome_signals {α : Type} {l : List α} {f : α → Option Nat} {g : α → Word} {list : List (Nat × Word)}
    (usable : l.map (fun i => (f i, g i)) = list.map fun e => (some e.1, e.2)) :
    allSome (l.map fun i => (f i).map fun pa => (pa, g i)) = some list := by
  have pairs := congrArg (List.map fun e : Option Nat × Word => e.1.map fun pa => (pa, e.2)) usable
  rw [List.map_map, List.map_map] at pairs
  exact (congrArg allSome pairs).trans (allSome_map_some list)

theorem seedOk_advance (s : State) (p q : Nat) : (s.advance p q).seedOk p q = s.seedOk p q := by
  have creel : (s.advance p q).crEn p = s.crEn p := by
    unfold State.crEn State.advance State.putReadIndex
    rw [cfg_setCfg, if_neg (by omega)]
  have bound : (s.advance p q).dom p = s.dom p := dom_setCfg ..
  have newest : (s.advance p q).newestLaunch p q = s.newestLaunch p q := rfl
  rw [State.seedOk, creel, bound, newest]
  rfl

theorem exec_launchPacket (p q : Nat) (s : State) : exec (.launchPacket p q) s = execLaunchPacket p q s := rfl
theorem exec_signalOperationPacket (p q : Nat) (s : State) : exec (.signalOperationPacket p q) s = execSignalOperationPacket p q s := rfl
theorem exec_barrierAndPacket (p q : Nat) (s : State) : exec (.barrierAndPacket p q) s = execBarrierAndPacket p q s := rfl
theorem exec_copyPacket (p q : Nat) (s : State) : exec (.copyPacket p q) s = execCopyPacket p q s := rfl
theorem exec_creelSeedPacket (p q : Nat) (s : State) : exec (.creelSeedPacket p q) s = execCreelSeedPacket p q s := rfl

include h

theorem launchPacket_accepts {cls : Cls} {ops : List (Word × Nat × Nat)} {wait : Option Nat} (f : LaunchFields s p n cls ops wait)
    (few : pk n 0x18 4 ≤ 2 ^ 30) : Gives (.launchPacket p q) s fun t => Accepted s t p q n
      (.launch (BitVec.ofNat 64 (pk n 0x10 8)) (pk n 0x18 4) cls (pk n 0x1D 1) (pk n 0x1E 1) (BitVec.ofNat 5 (pk n 0x1F 1))
        (BitVec.ofNat 6 (pk n 0x20 1)) (BitVec.ofNat 10 (pk n 0x22 2)) (BitVec.ofNat 64 (pk n 0x28 8)) ops) wait :=
  takePacket_accepts (exec_launchPacket p q s) h (by rw [f.kind]; rfl) f.header (by
    rw [if_pos f.kind, (reads_advance s p q).launchBody, f.body, if_neg (by omega)])

theorem launchPacket_rejects {cls : Cls} {ops : List (Word × Nat × Nat)} {wait : Option Nat} (f : LaunchFields s p n cls ops wait)
    (many : 2 ^ 30 < pk n 0x18 4) : Gives (.launchPacket p q) s fun t => Rejected s t p q n 0x60 :=
  takePacket_rejects (exec_launchPacket p q s) h (by rw [f.kind]; rfl) (by
    rw [(reads_advance s p q).headerOk, f.header.headerOk, if_pos rfl, if_pos f.kind, (reads_advance s p q).launchBody, f.body,
      if_pos many])

theorem unknownPacket_rejects (kind : pk n 0 1 % 16 = 0 ∨ 6 ≤ pk n 0 1 % 16) :
    Gives (.launchPacket p q) s fun t => Rejected s t p q n 0x61 :=
  takePacket_rejects (exec_launchPacket p q s) h (by rcases kind with kind | kind <;> simp [kind]) (by
    rw [if_neg (show ¬ pk n 0 1 % 16 = 1 by omega), ite_self])

theorem signalPacket_accepts {pa : Nat} (kind : pk n 0 1 % 16 = 2) (header : HeaderOk s p n)
    (usable : s.sigPa p (BitVec.ofNat 64 (pk n 0x10 8)) = some pa) (op : pk n 0x18 8 ≤ 2) (zero : pk n 0x28 24 = 0) :
    Gives (.signalOperationPacket p q) s fun t => Accepted s t p q n
      (.signal (BitVec.ofNat 64 (pk n 0x10 8)) pa (pk n 0x18 8) (BitVec.ofNat 64 (pk n 0x20 8))) none :=
  takePacket_accepts (exec_signalOperationPacket p q s) h (by rw [kind]; rfl) header (by
    simp only [(reads_advance s p q).sigPa, usable]
    rw [if_neg (by omega)])

theorem barrierAndPacket_accepts {l : List (Nat × Nat)} {list : List (Nat × Word)} (kind : pk n 0 1 % 16 = 3) (header : HeaderOk s p n)
    (aligned : pk n 0x10 8 % 16 = 0) (some_ : 1 ≤ pk n 0x18 4) (few : pk n 0x18 4 ≤ 64) (zero : pk n 0x1C 36 = 0)
    (mapped : s.mapVa p (BitVec.ofNat 64 (pk n 0x10 8)) (16 * pk n 0x18 4) 1 false = some l)
    (usable : (List.range (pk n 0x18 4)).map (fun i => (s.sigPa p (BitVec.ofNat 64 (s.readPieces l (16 * i) 8)),
      BitVec.ofNat 64 (s.readPieces l (16 * i + 8) 8))) = list.map (fun e => (some e.1, e.2))) :
    Gives (.barrierAndPacket p q) s fun t => Accepted s t p q n (.barrierAnd list) none :=
  takePacket_accepts (exec_barrierAndPacket p q s) h (by rw [kind]; rfl) header (by
    simp only [(reads_advance s p q).sigPa, (reads_advance s p q).mapVa, (reads_advance s p q).readPieces, mapped,
      allSome_signals usable, toNat_ofNat_pk]
    rw [if_neg (by omega)])

theorem copyPacket_accepts {a b : List (Nat × Nat)} (kind : pk n 0 1 % 16 = 4) (header : HeaderOk s p n) (src : pk n 0x10 8 % 8 = 0)
    (dst : pk n 0x18 8 % 8 = 0) (some_ : pk n 0x20 8 ≠ 0) (short : pk n 0x20 8 ≤ 2 ^ 32) (whole : pk n 0x20 8 % 64 = 0)
    (zero : pk n 0x28 24 = 0) (from_ : s.mapVa p (BitVec.ofNat 64 (pk n 0x10 8)) (pk n 0x20 8) 1 true = some a)
    (to_ : s.mapVa p (BitVec.ofNat 64 (pk n 0x18 8)) (pk n 0x20 8) 2 true = some b) :
    Gives (.copyPacket p q) s fun t => Accepted s t p q n
      (.copy (BitVec.ofNat 64 (pk n 0x10 8)) (BitVec.ofNat 64 (pk n 0x18 8)) a b (pk n 0x20 8)) none :=
  takePacket_accepts (exec_copyPacket p q s) h (by rw [kind]; rfl) header (by
    simp only [(reads_advance s p q).mapVa, from_, to_, toNat_ofNat_pk]
    rw [if_neg (by omega)])

theorem seedPacket_accepts {l : List (Nat × Nat)} (kind : pk n 0 1 % 16 = 5) (header : HeaderOk s p n) (aligned : pk n 0x10 8 % 64 = 0)
    (some_ : 1 ≤ pk n 0x18 8) (few : pk n 0x18 8 ≤ 4096) (zero : pk n 0x20 8 = 0) (zero' : pk n 0x28 24 = 0)
    (takes : s.seedOk p q = true) (mapped : s.mapVa p (BitVec.ofNat 64 (pk n 0x10 8)) (64 * pk n 0x18 8) 1 false = some l) :
    Gives (.creelSeedPacket p q) s fun t => Accepted s t p q n (.seed l (pk n 0x18 8)) none :=
  takePacket_accepts (exec_creelSeedPacket p q s) h (by rw [kind]; rfl) header (by
    simp only [(reads_advance s p q).mapVa, mapped, toNat_ofNat_pk, seedOk_advance, takes, Bool.not_true, Bool.false_eq_true, or_false]
    rw [if_neg (by omega)])

end

end Sys2Proof.Claims

/-!
Store buffers that drain (10 R205, R217), and the fences of launches (07 R138, R140, R145).
-/
namespace Sys2Proof.Claims
open Machine

/-! ## A drain (R205) -/

/-- The hub as the memory side leaves it, and no empty store buffer has filled. -/
structure OnlyDrains (s t : State) : Prop where
  kept : HubKept s t
  sbuf : ∀ c, (s.core c).sbuf = [] → (t.core c).sbuf = []

section
variable {s t u : State}

theorem OnlyDrains.refl (s : State) : OnlyDrains s s := ⟨.refl s, fun _ => id⟩

theorem OnlyDrains.trans (h : OnlyDrains s t) (h' : OnlyDrains t u) : OnlyDrains s u :=
  ⟨h.kept.trans h'.kept, fun c e => h'.sbuf c (h.sbuf c e)⟩

theorem onlyDrains_of_cores (kept : HubKept s t) (cores : t.cores = s.cores) : OnlyDrains s t :=
  ⟨kept, fun c e => by rwa [State.core, cores]⟩

theorem OnlyDrains.foldl {α : Type} {f : State → α → State} (l : List α) (s : State) (h : ∀ t, ∀ x ∈ l, OnlyDrains t (f t x)) :
    OnlyDrains s (l.foldl f s) :=
  List.foldlRecOn (motive := OnlyDrains s) l f (.refl s) fun t ht x hx => ht.trans (h t x hx)

theorem core_modCore_other (s : State) {core c : Nat} (f : Core → Core) (h : c ≠ core) : (s.modCore core f).core c = s.core c := by
  rw [State.core, State.modCore_cores, Assoc.getD_modify_other _ _ _ _ _ h]
  rfl

/-- A change of a core that leaves it no more in its store buffer. -/
theorem onlyDrains_modCore (s : State) (core : Nat) (f : Core → Core) (h : (s.core core).sbuf = [] → (f (s.core core)).sbuf = []) :
    OnlyDrains s (s.modCore core f) := by
  refine ⟨hubKept_of_hub rfl, fun c e => ?_⟩
  by_cases here : c = core
  · rw [here] at e ⊢
    rw [core_modCore]
    exact h e
  · rwa [core_modCore_other s f here]

theorem onlyDrains_drainLine (s : State) (core : Nat) (l : SbLine) : OnlyDrains s (s.drainLine core (State.drainTo core) l) := by
  have counted : OnlyDrains s (if l.mask &&& l.dead = 0 then s else s.count l.pid .xlatDiscard 1) := by
    split
    · exact .refl s
    · exact onlyDrains_of_cores (hubKept_count ..) rfl
  have out (t : State) (mask : Nat) : OnlyDrains t (State.drainTo core t l mask) :=
    onlyDrains_of_cores ((hubKept_reach ..).trans (hubKept_performWrite ..)) ((performed_reach ..).trans (performed_performWrite ..)).cores
  exact (counted.trans (out _ _)).trans (onlyDrains_modCore _ core _ id)

theorem onlyDrains_drain (s : State) (core : Nat) : OnlyDrains s (s.drain core) :=
  (onlyDrains_modCore s core _ fun _ => rfl).trans (.foldl _ _ fun t l _ => onlyDrains_drainLine t core l)

theorem sbuf_drain (s : State) (core : Nat) : ((s.drain core).core core).sbuf = [] := by
  have emptied : ((s.modCore core fun c => { c with sbuf := [], ran := [] }).core core).sbuf = [] := by rw [core_modCore]
  exact (OnlyDrains.foldl _ _ fun t l _ => onlyDrains_drainLine t core l).sbuf core emptied

theorem onlyDrains_flushPaths (s : State) (die : Nat) : OnlyDrains s (s.flushPaths die) :=
  onlyDrains_of_cores (hubKept_flushPaths s die) (performed_flushPaths s die).cores

/-! ## The drains of fences (R138) -/

/-- The buffers of the cores where something ran drain, and the paths deliver what they carry. -/
def drainWhere (s : State) (p : Core → Bool) : State :=
  (List.range 16).foldl (fun s d => s.flushPaths d) (s.cores.foldl (fun s c => if p c.2 then s.drain c.1 else s) s)

theorem acquire_eq (s : State) (n : Node) :
    s.acquire n =
      let t := drainWhere s fun c => c.ran.any fun r => r.queue == 64 * n.pid + n.queue && decide (r.node < n.id)
      { t with cores := t.cores.map fun (c : Nat × Core) =>
        (c.1, if t.inBands n.pid c.1 then { c.2 with rcache := [] } else c.2) } := rfl

theorem releaseDrain_eq (s : State) (slot : Nat) :
    s.releaseDrain slot = drainWhere s fun c => c.ran.any (·.launch == (s.slot slot).gen.toNat * 2 ^ 10 + slot) := rfl

theorem onlyDrains_drainFold (p : Core → Bool) (l : List (Nat × Core)) (s : State) :
    OnlyDrains s (l.foldl (fun s c => if p c.2 then s.drain c.1 else s) s) :=
  .foldl l s fun t c _ => by
    split
    · exact onlyDrains_drain t c.1
    · exact .refl t

theorem onlyDrains_drainWhere (s : State) (p : Core → Bool) : OnlyDrains s (drainWhere s p) :=
  (onlyDrains_drainFold p s.cores s).trans (.foldl _ _ fun t d _ => onlyDrains_flushPaths t d)

/-- A core of the list that is drained is empty afterwards. -/
theorem sbuf_drainFold (p : Core → Bool) {c : Nat × Core} (hp : p c.2 = true) (l : List (Nat × Core)) (hc : c ∈ l) (s : State) :
    ((l.foldl (fun s c => if p c.2 then s.drain c.1 else s) s).core c.1).sbuf = [] := by
  induction l generalizing s with
  | nil => cases hc
  | cons x l ih =>
    rw [List.foldl_cons]
    rcases List.mem_cons.mp hc with rfl | hc
    · rw [if_pos hp]
      exact (onlyDrains_drainFold p l _).sbuf c.1 (sbuf_drain s c.1)
    · exact ih hc _

theorem sbuf_drainWhere (s : State) {p : Core → Bool} {core : Nat} (ran : p (s.core core) = true) (none_ : p {} = false) :
    ((drainWhere s p).core core).sbuf = [] := by
  refine (OnlyDrains.foldl (List.range 16) _ fun t d _ => onlyDrains_flushPaths t d).sbuf core ?_
  cases listed : Assoc.get s.cores core with
  | none =>
    rw [State.core, Assoc.getD, listed] at ran
    exact absurd ran (by rw [Option.getD_none, none_]; nofun)
  | some c =>
    rw [State.core, Assoc.getD, listed, Option.getD_some] at ran
    exact sbuf_drainFold p (c := (core, c)) ran s.cores (Assoc.mem_of_get listed) s

/-! ## A node becomes ready (R138, R140) -/

theorem exec_nodeReady (id : Nat) (s : State) : exec (.nodeReady id) s = execNodeReady id s := rfl

variable {id : Nat} {n : Node}

/-- A reflected store of an earlier launch of the queue is not yet visible. -/
theorem nodeReady_waits (here : s.nodeOf id = some n) (acq : n.acq = true)
    (earlier : ∃ c ∈ s.hub.copies, ∃ k, c.dev = s.hub.device ∧ c.shown = false ∧
      c.launch = some (64 * n.pid + n.queue, k) ∧ k < n.id) : exec (.nodeReady id) s = .next s := by
  obtain ⟨c, hc, k, dev, shown, launch, before⟩ := earlier
  have closed : s.acquired n = false := by
    have hidden : (s.hub.copies.all fun c => c.shown || c.dev != s.hub.device || c.launch.all fun l =>
        l.1 != 64 * n.pid + n.queue || decide (n.id ≤ l.2)) = false :=
      List.all_eq_false.mpr ⟨c, hc, by simp [dev, shown, launch]; omega⟩
    rw [State.acquired, acq, hidden, Bool.and_false]
    rfl
  rw [exec_nodeReady, execNodeReady]
  simp only [here, closed, Bool.not_false, Bool.or_true, Bool.true_or, if_true]

theorem acquired_of_visible (visible : n.acq = true → (∀ m ∈ s.hub.nodes, m.pid = n.pid → m.queue = n.queue → n.id ≤ m.id) ∧
    ∀ c ∈ s.hub.copies, ∀ k, c.dev = s.hub.device → c.shown = false → c.launch = some (64 * n.pid + n.queue, k) → n.id ≤ k) :
    s.acquired n = true := by
  unfold State.acquired
  cases acq : n.acq with
  | false => rfl
  | true =>
    obtain ⟨nodes, copies⟩ := visible acq
    rw [Bool.not_true, Bool.false_or, Bool.and_eq_true, List.all_eq_true, List.all_eq_true]
    refine ⟨fun m hm => ?_, fun c hc => ?_⟩
    · by_contra hidden
      simp only [Bool.or_eq_true, bne_iff_ne, decide_eq_true_eq, not_or, not_not] at hidden
      obtain ⟨⟨part, queue⟩, later⟩ := hidden
      exact later (nodes m hm part queue)
    · cases launch : c.launch with
      | none => simp only [Option.all_none, Bool.or_true]
      | some l =>
        by_contra hidden
        simp only [Option.all_some, Bool.or_eq_true, bne_iff_ne, decide_eq_true_eq, not_or, not_not, Bool.not_eq_true] at hidden
        obtain ⟨⟨shown, dev⟩, queue, later⟩ := hidden
        exact later (copies c hc l.2 dev shown (by rw [launch, ← queue]))

/-- What an acquire leaves (R138): no line of the partition's read caches, and empty buffers where earlier launches ran. -/
theorem acquire_keeps (s : State) (n : Node) : HubKept s (s.acquire n) ∧
    (∀ core, s.inBands n.pid core = true → ((s.acquire n).core core).rcache = []) ∧
    ∀ core, ∀ r ∈ (s.core core).ran, r.queue = 64 * n.pid + n.queue → r.node < n.id → ((s.acquire n).core core).sbuf = [] := by
  rw [acquire_eq]
  dsimp only
  have drained := fun core => sbuf_drainWhere s (p := fun c => c.ran.any fun r => r.queue == 64 * n.pid + n.queue && decide (r.node < n.id))
    (core := core)
  have only := onlyDrains_drainWhere s fun c => c.ran.any fun r => r.queue == 64 * n.pid + n.queue && decide (r.node < n.id)
  generalize drainWhere s _ = t at only drained ⊢
  have cores (core : Nat) := Assoc.getD_map t.cores (fun a (c : Core) => if t.inBands n.pid a then { c with rcache := [] } else c) core {}
    (ite_self _)
  refine ⟨only.kept.trans (hubKept_of_hub rfl), fun core inside => ?_, fun core r hr queue before => ?_⟩
  · have inside' : t.inBands n.pid core = true := by rwa [State.inBands, only.kept.cfg]
    rw [State.core, cores, if_pos inside']
  · have empty := drained core (List.any_eq_true.mpr ⟨r, hr, by simp [queue, before]⟩) rfl
    rw [State.core, cores]
    split <;> exact empty

theorem core_modNode (s : State) (id : Nat) (f : Node → Node) (c : Nat) : (s.modNode id f).core c = s.core c := rfl

theorem nodeReady_becomes (here : s.nodeOf id = some n) (up : s.hub.down = false) (idle : n.ready = false)
    (visible : n.acq = true → (∀ m ∈ s.hub.nodes, m.pid = n.pid → m.queue = n.queue → n.id ≤ m.id) ∧
      ∀ c ∈ s.hub.copies, ∀ k, c.dev = s.hub.device → c.shown = false → c.launch = some (64 * n.pid + n.queue, k) → n.id ≤ k)
    (waited : ∀ pa, n.wait = some pa → Memory.readN s.mem pa 8 = 0)
    (room : (s.hub.nodes.filter fun m => m.pid == n.pid && m.pooled).length < 4096) : Gives (.nodeReady id) s fun t =>
      BytesKept (if n.acq then s.acquire n else s) t ∧
      (n.acq = true → (∀ core, s.inBands n.pid core = true → (t.core core).rcache = []) ∧
        ∀ core, ∀ r ∈ (s.core core).ran, r.queue = 64 * n.pid + n.queue → r.node < n.id → (t.core core).sbuf = []) ∧
      ∃ m, t.nodeOf id = some m ∧ m.ready = true ∧ m.body = n.body ∧ m.done = n.done := by
  have signal : s.waited n = true := by
    unfold State.waited
    cases wait : n.wait with
    | none => rfl
    | some pa => exact beq_iff_eq.mpr (waited pa wait)
  have run := exec_nodeReady id s
  rw [execNodeReady] at run
  simp only [here, idle, acquired_of_visible visible, signal, State.poolRoom, room, up, decide_true, Bool.not_true, Bool.or_self,
    Bool.false_eq_true, if_false] at run
  refine ⟨_, run, fun _ => rfl, fun acq => ?_, _, nodeOf_modNode (n := n) ?_ _ fun _ => rfl, rfl, rfl, rfl⟩
  · simp only [core_modNode, if_pos acq]
    exact (acquire_keeps s n).2
  · split
    · rw [(acquire_keeps s n).1.nodeOf, here]
    · exact here

end

end Sys2Proof.Claims

/-!
The end of a launch (07 R138, R145).
-/
namespace Sys2Proof.Claims
open Machine

theorem slot_modSlot_same (s : State) (slot : Nat) (f : Slot → Slot) : (s.modSlot slot f).slot slot = f (s.slot slot) := by
  rw [State.slot, State.modSlot, State.modHub_hub, Assoc.getD_modify_same]
  rfl

section
variable {s t : State} {n : Node} {cause : BitVec 8}

/-- The completion of a node touches no domain, launch slot or core. -/
theorem finishNode_keeps (s : State) (n : Node) (cause : BitVec 8) : (∀ p, (s.finishNode n cause).dom p = s.dom p) ∧
    (∀ k, (s.finishNode n cause).slot k = s.slot k) ∧ (s.finishNode n cause).cores = s.cores := by
  have signalled : ∃ u, s.finishNode n cause = u.modHub (fun h => { h with nodes := h.nodes.filter (·.id != n.id) }) ∧
      HubKept s u ∧ u.cores = s.cores := by
    unfold State.finishNode
    split
    · exact ⟨s, rfl, .refl s, rfl⟩
    · split
      · exact ⟨_, rfl, hubKept_count .., rfl⟩
      · refine ⟨_, rfl, hubKept_signalDec .., ?_⟩
        unfold State.signalDec
        dsimp only
        split
        · exact ((hubWrite_keeps ..).1.trans (hubWrite_keeps ..).1).cores
        · exact (hubWrite_keeps ..).1.cores
  obtain ⟨u, eq, kept, cores⟩ := signalled
  rw [eq]
  exact ⟨fun p => (show (u.modHub _).dom p = u.dom p from rfl).trans (kept.dom p),
    fun k => (show (u.modHub _).slot k = u.slot k from rfl).trans (kept.slot k), cores⟩

/-- A launch slot is no part of what the completion of a node is about. -/
theorem NodeDone.modSlot (h : NodeDone s t n cause) (slot : Nat) (f : Slot → Slot) : NodeDone s (t.modSlot slot f) n cause := by
  obtain ⟨gone, signal, revoked, none_⟩ := h
  refine ⟨gone, fun pa named aligned low kept => ?_, revoked, none_⟩
  obtain ⟨value, status, others⟩ := signal pa named aligned low kept
  exact ⟨value, status, others⟩

theorem exec_launchComplete (slot : Nat) (s : State) : exec (.launchComplete slot) s = execLaunchComplete slot s := rfl

theorem releaseDrain_keeps (s : State) (slot : Nat) : HubKept s (s.releaseDrain slot) ∧
    ∀ core, ∀ r ∈ (s.core core).ran, r.launch = (s.slot slot).gen.toNat * 2 ^ 10 + slot → ((s.releaseDrain slot).core core).sbuf = [] := by
  rw [releaseDrain_eq]
  exact ⟨(onlyDrains_drainWhere ..).kept, fun core r hr launch => sbuf_drainWhere s
    (p := fun c => c.ran.any (·.launch == (s.slot slot).gen.toNat * 2 ^ 10 + slot))
    (List.any_eq_true.mpr ⟨r, hr, beq_iff_eq.mpr launch⟩) rfl⟩

theorem launchComplete_gives {slot : Nat} (here : s.nodeOf (s.slot slot).node = some n) (used : (s.slot slot).used = true)
    (runs : (s.slot slot).closed = false) (owns : n.slot = some slot) (all : (s.slot slot).count ≤ n.done)
    (over_ : s.launchDone slot = true) (visible : n.rel = true → s.localVisible slot = true) (up : s.hub.down = false) :
    Gives (.launchComplete slot) s fun t =>
      NodeDone (if n.rel then s.releaseDrain slot else s) t n ((s.slot slot).cause.getD 0) ∧
      (n.rel = true → ∀ core, ∀ r ∈ (s.core core).ran, r.launch = (s.slot slot).gen.toNat * 2 ^ 10 + slot →
        (t.core core).sbuf = []) ∧
      ((s.dom (s.slot slot).pid).bound ≠ some slot → t.slot slot = { gen := (s.slot slot).gen + 1 }) ∧
      ((s.dom (s.slot slot).pid).bound = some slot → t.slot slot = { s.slot slot with closed := true }) := by
  have released : (n.rel && !s.localVisible slot) = false := by
    cases rel : n.rel with
    | false => rfl
    | true => rw [visible rel]; rfl
  have owns' : (n.slot != some slot) = false := by rw [owns, bne_self_eq_false]
  have run := exec_launchComplete slot s
  rw [execLaunchComplete] at run
  simp only [here, used, runs, owns', decide_eq_false (Nat.not_lt.mpr all), over_, released, up, Bool.not_true, Bool.or_self,
    Bool.false_eq_true, if_false] at run
  have kept : HubKept s (if n.rel = true then s.releaseDrain slot else s) := by
    split
    · exact (releaseDrain_keeps s slot).1
    · exact .refl s
  have drained : n.rel = true → ∀ core, ∀ r ∈ (s.core core).ran, r.launch = (s.slot slot).gen.toNat * 2 ^ 10 + slot →
      ((if n.rel = true then s.releaseDrain slot else s).core core).sbuf = [] := fun rel => by
    rw [if_pos rel]
    exact (releaseDrain_keeps s slot).2
  generalize (if n.rel = true then s.releaseDrain slot else s) = u at run kept drained ⊢
  obtain ⟨dom, slots, cores⟩ := finishNode_keeps u n ((s.slot slot).cause.getD 0)
  have done := nodeDone_finishNode u n ((s.slot slot).cause.getD 0)
  generalize u.finishNode n ((s.slot slot).cause.getD 0) = v at run dom slots cores done
  rw [dom, kept.dom] at run
  have sbuf (core : Nat) : (v.core core).sbuf = (u.core core).sbuf := by rw [State.core, cores]; rfl
  have slot_eq : v.slot slot = s.slot slot := (slots slot).trans (kept.slot slot)
  by_cases bound : (s.dom (s.slot slot).pid).bound = some slot
  · rw [if_pos bound] at run
    refine ⟨_, run, done.modSlot slot _, fun rel core r hr launch => (sbuf core).trans (drained rel core r hr launch),
      fun free => absurd bound free, fun _ => ?_⟩
    rw [slot_modSlot_same, slot_eq]
  · rw [if_neg bound] at run
    refine ⟨_, run, done.modSlot slot _, fun rel core r hr launch => (sbuf core).trans (drained rel core r hr launch),
      fun _ => ?_, fun bound' => absurd bound' bound⟩
    rw [State.freeSlot, slot_modSlot_same, slot_eq]

end

end Sys2Proof.Claims

/-!
The hub's copy engine (07 R139, 15 R271): the bytes of a beat by lines, and a copy of contiguous pieces.
-/
namespace Sys2Proof.Claims
open Machine

/-! ## Contiguous bytes by lines -/

/-- n bytes from address d on. -/
def stretch (d n : Nat) (v : Nat → Byte) : List (Nat × Byte) := (List.range n).map fun j => (d + j, v j)

theorem stretch_succ (d n : Nat) (v : Nat → Byte) : stretch d (n + 1) v = stretch d n v ++ [(d + n, v n)] := by
  rw [stretch, List.range_succ, List.map_append]
  rfl

theorem lineOf_append (line : Nat) (l : List (Nat × Byte)) (a : Nat) (x : Byte) : lineOf line (l ++ [(a, x)]) =
    if Memory.line a = line then ((lineOf line l).1 + 2 ^ (a - line), (lineOf line l).2 + x.toNat * 2 ^ (8 * (a - line)))
    else lineOf line l := by
  rw [lineOf, List.foldl_append]
  rfl

theorem testBit_add_two_pow {m k : Nat} (small : m < 2 ^ k) (i : Nat) : (m + 2 ^ k).testBit i = (m.testBit i || decide (i = k)) := by
  rw [Nat.add_comm]
  rcases Nat.lt_trichotomy i k with low | rfl | high
  · rw [Nat.testBit_two_pow_add_gt low, decide_eq_false (by omega), Bool.or_false]
  · rw [Nat.testBit_two_pow_add_eq, Nat.testBit_lt_two_pow small, decide_eq_true rfl]
    rfl
  · have wide : 2 ^ (k + 1) ≤ 2 ^ i := Nat.pow_le_pow_right (by omega) high
    rw [Nat.pow_succ] at wide
    rw [Nat.testBit_lt_two_pow (by omega), Nat.testBit_lt_two_pow (x := m) (by omega), decide_eq_false (by omega)]
    rfl

theorem byte_add_mul {x k : Nat} (small : x < 2 ^ (8 * k)) (b : Byte) {i : Nat} (le : i ≤ k) :
    BitVec.ofNat 8 ((x + b.toNat * 2 ^ (8 * k)) / 2 ^ (8 * i)) = if i = k then b else BitVec.ofNat 8 (x / 2 ^ (8 * i)) := by
  by_cases same : i = k
  · rw [if_pos same, same, Nat.add_mul_div_right _ _ (Nat.two_pow_pos _), Nat.div_eq_of_lt small, Nat.zero_add, BitVec.ofNat_toNat,
      BitVec.setWidth_eq]
  · rw [if_neg same]
    obtain ⟨j, rfl⟩ : ∃ j, k = i + 1 + j := ⟨k - (i + 1), by omega⟩
    have parts : b.toNat * 2 ^ (8 * (i + 1 + j)) = b.toNat * 2 ^ (8 * j) * 256 * 2 ^ (8 * i) := by
      rw [show 8 * (i + 1 + j) = 8 * j + 8 + 8 * i by ring, Nat.pow_add, Nat.pow_add]
      ring
    rw [parts, Nat.add_mul_div_right _ _ (Nat.two_pow_pos _)]
    apply BitVec.eq_of_toNat_eq
    rw [BitVec.toNat_ofNat, BitVec.toNat_ofNat]
    omega

/-- A byte of a line by its address. -/
theorem line_eq_iff {line a : Nat} (whole : line % 64 = 0) : Memory.line a = line ↔ line ≤ a ∧ a < line + 64 := by
  unfold Memory.line
  omega

/-- The mask and the data of a line's part of a stretch. -/
theorem lineOf_stretch {line d : Nat} (whole : line % 64 = 0) (v : Nat → Byte) (n : Nat) :
    ((lineOf line (stretch d n v)).1 < 2 ^ (d + n - line) ∧ (lineOf line (stretch d n v)).2 < 2 ^ (8 * (d + n - line))) ∧
    (∀ i, (lineOf line (stretch d n v)).1.testBit i = decide (i < 64 ∧ d ≤ line + i ∧ line + i < d + n)) ∧
    ∀ i, i < 64 → d ≤ line + i → line + i < d + n →
      BitVec.ofNat 8 ((lineOf line (stretch d n v)).2 / 2 ^ (8 * i)) = v (line + i - d) := by
  induction n with
  | zero =>
    refine ⟨⟨Nat.two_pow_pos _, Nat.two_pow_pos _⟩, fun i => ?_, fun i _ low high => by omega⟩
    rw [decide_eq_false (by omega)]
    exact Nat.zero_testBit i
  | succ n ih =>
    obtain ⟨⟨maskSmall, dataSmall⟩, mask, data⟩ := ih
    rw [stretch_succ, lineOf_append]
    generalize lineOf line (stretch d n v) = p at *
    by_cases inside : Memory.line (d + n) = line
    · rw [if_pos inside]
      rw [line_eq_iff whole] at inside
      have byte := (v n).isLt
      have next : d + (n + 1) - line = d + n - line + 1 := by omega
      refine ⟨⟨?_, ?_⟩, fun i => ?_, fun i small low high => ?_⟩
      · rw [next, Nat.pow_succ]
        omega
      · have : (v n).toNat * 2 ^ (8 * (d + n - line)) ≤ 255 * 2 ^ (8 * (d + n - line)) := Nat.mul_le_mul_right _ (by omega)
        rw [next, Nat.mul_succ, Nat.pow_add]
        omega
      · rw [testBit_add_two_pow maskSmall, mask, Bool.eq_iff_iff]
        simp only [Bool.or_eq_true, decide_eq_true_eq]
        omega
      · rw [byte_add_mul dataSmall _ (by omega)]
        by_cases last : i = d + n - line
        · rw [if_pos last, show line + i - d = n by omega]
        · rw [if_neg last, data i small low (by omega)]
    · rw [if_neg inside]
      rw [line_eq_iff whole] at inside
      refine ⟨⟨maskSmall.trans_le (Nat.pow_le_pow_right (by omega) (by omega)),
        dataSmall.trans_le (Nat.pow_le_pow_right (by omega) (by omega))⟩, fun i => ?_, fun i small low high => data i small low (by omega)⟩
      rw [mask, decide_eq_decide]
      omega

theorem mem_linesOf {l : List Nat} {line : Nat} : line ∈ linesOf l ↔ ∃ a ∈ l, Memory.line a = line := by
  have fold (acc : List Nat) : line ∈ l.foldl (fun acc a => if acc.contains (Memory.line a) then acc else acc ++ [Memory.line a]) acc ↔
      line ∈ acc ∨ ∃ a ∈ l, Memory.line a = line := by
    induction l generalizing acc with
    | nil => simp
    | cons x l ih =>
      rw [List.foldl_cons, ih, List.exists_mem_cons_iff]
      split
      next known =>
        rw [List.contains_iff_mem] at known
        exact ⟨fun h => h.imp id .inr, fun h => h.elim .inl fun h => h.elim (fun same => .inl (same ▸ known)) .inr⟩
      next => rw [List.mem_append, List.mem_singleton, or_assoc, eq_comm]
  exact (fold []).trans (by simp)

/-! ## A beat -/

/-- What beats keep: the hub as the memory side leaves it, the strands, and poison only where it was. -/
structure OnlyBeats (s t : State) : Prop where
  kept   : HubKept s t
  freed  : ∀ l, t.freed l = s.freed l
  poison : ∀ l, t.poisoned l = true → s.poisoned l = true

section
variable {s t u : State}

theorem OnlyBeats.refl (s : State) : OnlyBeats s s := ⟨.refl s, fun _ => rfl, fun _ => id⟩

theorem OnlyBeats.trans (h : OnlyBeats s t) (h' : OnlyBeats t u) : OnlyBeats s u :=
  ⟨h.kept.trans h'.kept, fun l => (h'.freed l).trans (h.freed l), fun l hl => h.poison l (h'.poison l hl)⟩

theorem Performed.freed (h : Performed s t) (l : Nat) : t.freed l = s.freed l := by
  have woken := h.strand ((l - 2 ^ 66) / 2 ^ 18)
  unfold State.freed
  generalize s.strand _ = x, t.strand _ = y at woken ⊢
  cases woken <;> rfl

theorem onlyBeats_performWrite (s : State) (line mask data : Nat) : OnlyBeats s (s.performWrite line mask data) := by
  have performed := performed_performWrite s line mask data
  exact ⟨hubKept_performWrite .., performed.freed, fun l h => by rwa [State.poisoned, performed.poison] at h⟩

theorem onlyBeats_unpoison (s : State) (line : Nat) : OnlyBeats s (s.unpoison line) := by
  refine ⟨hubKept_of_hub rfl, fun _ => rfl, fun l h => ?_⟩
  unfold State.poisoned State.unpoison at *
  rw [List.contains_iff_mem] at h ⊢
  exact (List.mem_filter.mp h).1

/-- A line's part of a stretch is written. -/
theorem read_writeStretch {line d n : Nat} (whole : line % 64 = 0) (lives : s.freed line = false) (v : Nat → Byte) (c : Nat) :
    Memory.read (s.performWrite line (lineOf line (stretch d n v)).1 (lineOf line (stretch d n v)).2).mem c =
      if Memory.line c = line ∧ d ≤ c ∧ c < d + n then v (c - d) else Memory.read s.mem c := by
  obtain ⟨-, mask, data⟩ := lineOf_stretch (d := d) whole v n
  rw [mem_performWrite lives, Memory.read_writeMask]
  have within := line_eq_iff (a := c) whole
  by_cases written : Memory.line c = line ∧ d ≤ c ∧ c < d + n
  · obtain ⟨here, low, high⟩ := written
    rw [within] at here
    rw [if_pos ⟨here.1, here.2, by rw [mask, decide_eq_true_eq]; omega⟩, data _ (by omega) (by omega) (by omega), if_pos
      ⟨within.mpr here, low, high⟩, show line + (c - line) - d = c - d by omega]
  · rw [if_neg written, if_neg]
    rintro ⟨low, high, bit⟩
    rw [mask, decide_eq_true_eq] at bit
    exact written ⟨within.mpr ⟨low, high⟩, by omega, by omega⟩

/-- One line of a beat: it is written, and healed where the copy covers the whole of it. -/
def beatLine (i : Nat) (l : List (Nat × Byte)) (s : State) (line : Nat) : State :=
  let s := s.performWrite line (lineOf line l).1 (lineOf line l).2
  if wholeLine line i (i + 64) l then s.unpoison line else s

theorem beatLine_keeps (s : State) (i : Nat) (l : List (Nat × Byte)) (line : Nat) : OnlyBeats s (beatLine i l s line) ∧
    (beatLine i l s line).mem = (s.performWrite line (lineOf line l).1 (lineOf line l).2).mem := by
  have written := onlyBeats_performWrite s line (lineOf line l).1 (lineOf line l).2
  unfold beatLine
  dsimp only
  split
  · exact ⟨written.trans (onlyBeats_unpoison ..), rfl⟩
  · exact ⟨written, rfl⟩

theorem beatLines_keep (i d n : Nat) (v : Nat → Byte) (lines : List Nat) (s : State)
    (whole : ∀ line ∈ lines, line % 64 = 0) (live : ∀ line ∈ lines, s.freed line = false) :
    OnlyBeats s (lines.foldl (beatLine i (stretch d n v)) s) ∧ ∀ c, Memory.read (lines.foldl (beatLine i (stretch d n v)) s).mem c =
      if Memory.line c ∈ lines ∧ d ≤ c ∧ c < d + n then v (c - d) else Memory.read s.mem c := by
  induction lines generalizing s with
  | nil => exact ⟨.refl s, fun c => (if_neg (by simp)).symm⟩
  | cons line lines ih =>
    obtain ⟨first, mem⟩ := beatLine_keeps s i (stretch d n v) line
    obtain ⟨rest, bytes⟩ := ih (beatLine i (stretch d n v) s line) (fun l hl => whole l (List.mem_cons_of_mem _ hl))
      fun l hl => (first.freed l).trans (live l (List.mem_cons_of_mem _ hl))
    refine ⟨first.trans rest, fun c => ?_⟩
    rw [List.foldl_cons, bytes, mem, read_writeStretch (whole line List.mem_cons_self) (live line List.mem_cons_self)]
    simp only [List.mem_cons]
    by_cases inside : d ≤ c ∧ c < d + n
    · by_cases here : Memory.line c = line
      · simp only [here, inside, and_self, true_or, if_true, ite_self]
      · simp only [here, inside, and_self, false_or, and_true, if_false]
    · simp only [inside, and_false, if_false]

/-! ## A copy of contiguous pieces -/

theorem ofNat_readN_one (m : Memory) (a : Nat) : BitVec.ofNat 8 (Memory.readN m a 1) = Memory.read m a := by
  rw [Memory.readN, Memory.readN, Nat.mul_zero, Nat.add_zero, BitVec.ofNat_toNat, BitVec.setWidth_eq]

section
variable {n : Node} {srcVa dstVa : Word} {a b len : Nat} (uncut : n.cuts = [])
include uncut

theorem hubBeat_ok {i : Nat} (fits : i + 64 ≤ len) (sound : ∀ j, j < len → s.poisoned (Memory.line (a + j)) = false)
    (live : ∀ j, j < len → s.freed (Memory.line (b + j)) = false) :
    ∃ t, s.hubBeat n srcVa dstVa [(a, len)] [(b, len)] i = .ok t ∧ OnlyBeats s t ∧
      ∀ c, Memory.read t.mem c = if b + i ≤ c ∧ c < b + i + 64 then Memory.read s.mem (a + (c - b)) else Memory.read s.mem c := by
  have piece (x j : Nat) (hj : j < 64) : pieceAt [(x, len)] (i + j) = x + (i + j) := if_pos (by omega)
  have to_ : ((List.range 64).map (i + ·)).map (pieceAt [(b, len)]) = (List.range 64).map fun j => b + i + j := by
    rw [List.map_map]
    exact List.map_congr_left fun j hj => (piece b j (List.mem_range.mp hj)).trans (Nat.add_assoc ..).symm
  have from_ : ((List.range 64).map (i + ·)).map (pieceAt [(a, len)]) = (List.range 64).map fun j => a + (i + j) := by
    rw [List.map_map]
    exact List.map_congr_left fun j hj => piece a j (List.mem_range.mp hj)
  have bytes : (((List.range 64).map (i + ·)).map (pieceAt [(b, len)])).zip ((((List.range 64).map (i + ·)).map (pieceAt [(a, len)])).map
      fun x => BitVec.ofNat 8 (Memory.readN s.mem x 1)) = stretch (b + i) 64 fun j => Memory.read s.mem (a + (i + j)) := by
    rw [to_, from_, List.map_map, List.zip_map']
    exact List.map_congr_left fun j _ => Prod.ext rfl (ofNat_readN_one ..)
  have healthy : (((List.range 64).map (i + ·)).map (pieceAt [(a, len)])).any (fun x => s.poisoned (Memory.line x)) = false := by
    rw [from_, List.any_map, List.any_eq_false]
    intro j hj
    have := List.mem_range.mp hj
    rw [Function.comp_apply, sound (i + j) (by omega)]
    nofun
  have no_cut (va : Word) : ((List.range 64).map (i + ·)).any (fun j => cutBy n.cuts (va + BitVec.ofNat 64 j)) = false := by
    rw [uncut]
    exact List.any_eq_false.mpr fun _ _ => nofun
  have addresses : (stretch (b + i) 64 fun j => Memory.read s.mem (a + (i + j))).map (·.1) = (List.range 64).map fun j => b + i + j := by
    rw [stretch, List.map_map]
    rfl
  have lines (line : Nat) : line ∈ linesOf ((stretch (b + i) 64 fun j => Memory.read s.mem (a + (i + j))).map (·.1)) ↔
      ∃ j, j < 64 ∧ Memory.line (b + i + j) = line := by
    rw [mem_linesOf, addresses]
    simp only [List.mem_map, List.mem_range, exists_exists_and_eq_and]
  obtain ⟨kept, read⟩ := beatLines_keep i (b + i) 64 (fun j => Memory.read s.mem (a + (i + j)))
    (linesOf ((stretch (b + i) 64 fun j => Memory.read s.mem (a + (i + j))).map (·.1))) s
    (fun line hl => by obtain ⟨j, -, rfl⟩ := (lines line).mp hl; exact Nat.mul_mod_left ..)
    (fun line hl => by obtain ⟨j, hj, rfl⟩ := (lines line).mp hl; rw [Nat.add_assoc]; exact live (i + j) (by omega))
  refine ⟨_, ?_, kept, fun c => ?_⟩
  · unfold State.hubBeat
    simp only [no_cut, healthy, bytes, Bool.or_self, Bool.false_eq_true, if_false]
    rfl
  · rw [read c]
    by_cases inside : b + i ≤ c ∧ c < b + i + 64
    · rw [if_pos ⟨(lines _).mpr ⟨c - (b + i), by omega, by congr 1; omega⟩, inside⟩, if_pos inside]
      congr 1
      omega
    · rw [if_neg (fun h => inside h.2), if_neg inside]

theorem hubBeats_ok (apart : a + len ≤ b ∨ b + len ≤ a) (k i : Nat) (s : State) (parts : i + 64 * k = len)
    (sound : ∀ j, j < len → s.poisoned (Memory.line (a + j)) = false)
    (live : ∀ j, j < len → s.freed (Memory.line (b + j)) = false) :
    ∃ t, s.hubBeats n srcVa dstVa [(a, len)] [(b, len)] k i = (t, 0) ∧ OnlyBeats s t ∧
      ∀ c, Memory.read t.mem c = if b + i ≤ c ∧ c < b + len then Memory.read s.mem (a + (c - b)) else Memory.read s.mem c := by
  induction k generalizing i s with
  | zero => exact ⟨s, rfl, .refl s, fun c => (if_neg (by omega)).symm⟩
  | succ k ih =>
    obtain ⟨t, beat, first, bytes⟩ := hubBeat_ok (srcVa := srcVa) (dstVa := dstVa) uncut (i := i) (by omega) sound live
    obtain ⟨u, rest, later, bytes'⟩ := ih (i + 64) t (by omega)
      (fun j hj => Bool.eq_false_iff.mpr fun bad => absurd (first.poison _ bad) (by rw [sound j hj]; nofun))
      fun j hj => (first.freed _).trans (live j hj)
    refine ⟨u, by rw [State.hubBeats, beat]; exact rest, first.trans later, fun c => ?_⟩
    rw [bytes', bytes c]
    by_cases behind : b + (i + 64) ≤ c ∧ c < b + len
    · rw [if_pos behind, if_pos (by omega), bytes, if_neg (by omega)]
    · rw [if_neg behind]
      by_cases now : b + i ≤ c ∧ c < b + i + 64
      · rw [if_pos now, if_pos (by omega)]
      · rw [if_neg now, if_neg (by omega)]

end

theorem copyPacketComplete_gives {id : Nat} {n : Node} {srcVa dstVa : Word} {a b len : Nat} (here : s.nodeOf id = some n)
    (up : s.hub.down = false) (ready : n.ready = true) (body : n.body = .copy srcVa dstVa [(a, len)] [(b, len)] len)
    (silent : n.signal = none) (uncut : n.cuts = []) (whole : len % 64 = 0) (apart : a + len ≤ b ∨ b + len ≤ a)
    (sound : ∀ i, i < len → s.poisoned (Memory.line (a + i)) = false ∧ s.freed (Memory.line (b + i)) = false) :
    Gives (.copyPacketComplete id false) s fun t => t.hub.nodes = s.hub.nodes.filter (·.id != n.id) ∧
      ∀ c, Memory.read t.mem c = if b ≤ c ∧ c < b + len then Memory.read s.mem (a + (c - b)) else Memory.read s.mem c := by
  obtain ⟨u, copied, kept, bytes⟩ := hubBeats_ok (srcVa := srcVa) (dstVa := dstVa) uncut apart (len / 64) 0 s (by omega)
    (fun j hj => (sound j hj).1) fun j hj => (sound j hj).2
  have run : exec (.copyPacketComplete id false) s = execCopyPacketComplete id false s := rfl
  rw [execCopyPacketComplete] at run
  simp only [here, body, up, ready, Bool.not_true, Bool.or_self, Bool.false_and, Bool.false_eq_true, if_false, copied] at run
  obtain ⟨gone, -, -, still⟩ := nodeDone_finishNode u n 0
  exact ⟨_, run, gone.trans (by rw [kept.kept.nodes]), fun c => (still silent c).trans (bytes c)⟩

end

end Sys2Proof.Claims

/-!
Strands that are created and placed (07 R129, R143, R149).
-/
namespace Sys2Proof.Claims
open Machine

/-! ## What the placing of strands leaves -/

/-- The nodes and the launch slots are the same. -/
structure LaunchKept (s t : State) : Prop where
  nodes : t.hub.nodes = s.hub.nodes
  slot  : ∀ k, t.slot k = s.slot k

/-- Other strands than one stay as they are, but for watches that fire. -/
def OthersWoken (s t : State) (sid : Nat) : Prop := ∀ k, k ≠ sid → Option.Rel Woken (s.strand k) (t.strand k)

section
variable {s t u : State} {sid : Nat}

theorem launchKept_of_hub (h : t.hub = s.hub) : LaunchKept s t := ⟨by rw [h], fun k => by rw [State.slot, h]; rfl⟩

theorem LaunchKept.refl (s : State) : LaunchKept s s := launchKept_of_hub rfl

theorem LaunchKept.trans (h : LaunchKept s t) (h' : LaunchKept t u) : LaunchKept s u :=
  ⟨h'.nodes.trans h.nodes, fun k => (h'.slot k).trans (h.slot k)⟩

theorem LaunchKept.nodeOf (h : LaunchKept s t) (id : Nat) : t.nodeOf id = s.nodeOf id := by rw [State.nodeOf, h.nodes]; rfl

theorem LaunchKept.foldl {α : Type} {f : State → α → State} (l : List α) (s : State) (h : ∀ t, ∀ x ∈ l, LaunchKept t (f t x)) :
    LaunchKept s (l.foldl f s) :=
  List.foldlRecOn (motive := LaunchKept s) l f (.refl s) fun t ht x hx => ht.trans (h t x hx)

theorem HubKept.launch (h : HubKept s t) : LaunchKept s t := ⟨h.nodes, h.slot⟩

theorem rel_woken_trans {x y z : Option Strand} (h : Option.Rel Woken x y) (h' : Option.Rel Woken y z) : Option.Rel Woken x z := by
  cases h with
  | none => exact h'
  | some one => cases h' with
    | some two => exact .some (one.trans two)

theorem OthersWoken.trans (h : OthersWoken s t sid) (h' : OthersWoken t u sid) : OthersWoken s u sid :=
  fun k hk => rel_woken_trans (h k hk) (h' k hk)

theorem othersWoken_of_eq (h : ∀ k, k ≠ sid → t.strand k = s.strand k) : OthersWoken s t sid := fun k hk => by
  rw [h k hk]
  exact optionRel_woken_refl _

theorem Performed.others (h : Performed s t) : OthersWoken s t sid := fun k _ => h.strand k

end

/-! ## Moves (R329) -/

section
variable {s : State} {sid : Nat} {x : Strand}

theorem changeLoc_frame (s : State) (sid : Nat) (old new : Loc) : ∃ cores dies notes, s.changeLoc sid old new =
    { s with cores := cores, dies := dies, hub := { s.hub with notes := notes } } := by
  unfold State.changeLoc
  split
  · exact ⟨s.cores, s.dies, s.hub.notes, rfl⟩
  · dsimp only
    generalize (s.told sid) = told
    generalize (((s.fwdsAt old).find? (·.sid == sid)).map (·.pend)).getD [] = prev
    obtain ⟨cores, dies, first, -⟩ := modFwds_frame s old fun l => (l.filter (·.sid != sid)) ++
      (if (prev ++ told).isEmpty then [] else [⟨sid, new, (prev ++ told).eraseDups, s.clk.toNat % 2 ^ 48⟩])
    rw [first]
    obtain ⟨cores', dies', second, -⟩ := modFwds_frame { s with cores := cores, dies := dies } new fun l =>
      l.filter fun e => e.sid != sid || e.loc != new
    rw [second]
    exact ⟨_, _, _, rfl⟩

theorem changeLoc_keeps (s : State) (sid : Nat) (old new : Loc) : LaunchKept s (s.changeLoc sid old new) ∧
    ∀ k, (s.changeLoc sid old new).strand k = s.strand k := by
  obtain ⟨cores, dies, notes, frame⟩ := changeLoc_frame s sid old new
  rw [frame]
  exact ⟨⟨rfl, fun _ => rfl⟩, fun _ => rfl⟩

/-- A strand that takes the place of one with the same sid leaves the others. -/
theorem strand_putStrand_other {y : Strand} (here : s.strand sid = some x) (live : y.live = x.live) (id : y.sid = x.sid) {k : Nat}
    (hk : k ≠ sid) : (s.modStrand sid fun _ => y).strand k = s.strand k := by
  by_cases issuing : (s.st.live && s.st.sid.toNat == sid) = true
  · have same : s.st = x := by
      rw [State.strand, if_pos issuing] at here
      exact Option.some.inj here
    exact State.strand_modStrand_other hk (by rw [same]; exact live) (by rw [same]; exact id)
  · rw [State.modStrand, if_neg issuing]
    split
    · unfold State.strand
      simp only [Assoc.get_set_other _ _ _ _ hk]
    · rfl

theorem moveTo_launch (s : State) (sid : Nat) (place : Place) (core : Nat) : LaunchKept s (s.moveTo sid place core) := by
  unfold State.moveTo
  split
  · exact .refl s
  · exact (launchKept_of_hub (hub_modStrand ..)).trans (changeLoc_keeps ..).1

theorem moveTo_strands (here : s.strand sid = some x) (place : Place) (core : Nat) :
    (∃ left, (s.moveTo sid place core).strand sid = some { x with place := place, core := core, left := left }) ∧
      OthersWoken s (s.moveTo sid place core) sid := by
  unfold State.moveTo
  simp only [here]
  refine ⟨⟨_, ((changeLoc_keeps ..).2 sid).trans (State.strand_modStrand_same here rfl rfl)⟩, othersWoken_of_eq fun k hk => ?_⟩
  exact ((changeLoc_keeps ..).2 k).trans (strand_putStrand_other (y := { x with place := place, core := core, left := _ }) here rfl rfl hk)

/-! ## Arrival and residence (R149, R201) -/

theorem toQueue_launch (s : State) (sid core : Nat) : LaunchKept s (s.toQueue sid core) :=
  (moveTo_launch s sid .queued core).trans (launchKept_of_hub rfl)

theorem toRing_launch (s : State) (sid core : Nat) : LaunchKept s (s.toRing sid core) := by
  unfold State.toRing
  split
  · exact .refl s
  · refine LaunchKept.trans ?_ (moveTo_launch ..)
    refine LaunchKept.trans ?_ (unitFields_keeps ..).2.launch
    exact launchKept_of_hub rfl

theorem arrive_launch (s : State) (sid core : Nat) : LaunchKept s (s.arrive sid core) := by
  unfold State.arrive
  split
  · exact .refl s
  · split
    · exact toQueue_launch ..
    · split
      · exact toRing_launch ..
      · exact (moveTo_launch ..).trans (launchKept_of_hub rfl)

/-- A light strand that arrives changes its place alone. -/
theorem arrive_strands (here : s.strand sid = some x) (core : Nat) :
    (∃ y, (s.arrive sid core).strand sid = some y ∧ ∃ p l w, y = { x with place := p, core := core, left := l, wait := w }) ∧
      OthersWoken s (s.arrive sid core) sid := by
  unfold State.arrive
  simp only [here]
  split
  · obtain ⟨⟨left, stands⟩, others⟩ := moveTo_strands here .queued core
    exact ⟨⟨_, stands, _, _, _, rfl⟩, others⟩
  · split
    · unfold State.toRing
      simp only [here]
      obtain ⟨written, -⟩ := unitFields_keeps (s.modDie (dieOf core) fun d => { d with
        ovf := Assoc.modify d.ovf x.pid {} fun r => { r with tail := s.ringNext (dieOf core) x.pid + 1 }
        waiting := d.waiting.filter (· != sid) }) (dieOf core) (s.ovfAddr x.pid (dieOf core) (s.ringNext (dieOf core) x.pid)) (ovfFields x)
      obtain ⟨y, there, woken⟩ := written.stands here
      obtain ⟨w, same⟩ := woken.frame
      obtain ⟨⟨left, stands⟩, others⟩ := moveTo_strands there (.ring (dieOf core) (s.ringNext (dieOf core) x.pid)) core
      exact ⟨⟨_, stands, _, left, w, by rw [same]⟩, written.others.trans others⟩
    · obtain ⟨⟨left, stands⟩, others⟩ := moveTo_strands here (.agent (dieOf core)) core
      exact ⟨⟨_, stands, _, _, _, rfl⟩, others⟩

theorem makeResident_launch (s : State) (sid core : Nat) : LaunchKept s (s.makeResident sid core) := by
  have drained (x : Strand) (u : State) :
      LaunchKept u (if x.resuming = true then (u.drain core).modCore core fun c => { c with rcache := [] } else u) := by
    split
    · exact (onlyDrains_drain u core).kept.launch.trans (launchKept_of_hub rfl)
    · exact .refl u
  have counted (x : Strand) (u : State) : LaunchKept u (if x.moving = true then u else u.addResident x.pid) := by
    split
    · exact .refl u
    · exact ⟨rfl, fun _ => rfl⟩
  unfold State.makeResident
  split
  · exact .refl s
  next x _ =>
    dsimp only
    refine LaunchKept.trans ?_ (launchKept_of_hub (s := State.moveTo _ sid .resident core) rfl)
    refine LaunchKept.trans ?_ (moveTo_launch ..)
    refine LaunchKept.trans ?_ (launchKept_of_hub (hub_modStrand ..))
    refine LaunchKept.trans ?_ (counted x _)
    refine LaunchKept.trans ?_ (drained x _)
    exact launchKept_of_hub rfl

/-- A strand changes and takes its place on a core. -/
theorem settle_strands (here : s.strand sid = some x) {f : Strand → Strand} (stays : ∀ z, (f z).live = z.live ∧ (f z).sid = z.sid)
    (core : Nat) : (∃ left, (((s.modStrand sid f).moveTo sid .resident core).toBack sid).strand sid =
        some { f x with place := .resident, core := core, left := left }) ∧
      OthersWoken s (((s.modStrand sid f).moveTo sid .resident core).toBack sid) sid := by
  have changed := State.strand_modStrand_same (f := f) here (stays x).1 (stays x).2
  obtain ⟨stands, others⟩ := moveTo_strands changed .resident core
  exact ⟨stands, (othersWoken_of_eq fun k hk => State.strand_modStrand_other hk (stays _).1 (stays _).2).trans others⟩

/-- A strand under a partition word, its move and its resume over. -/
def underPart (w : BitVec 10) (x : Strand) : Strand :=
  { x.modCtl fun c => { c with part := w } with moving := false, resuming := false }

/-- A new strand that takes its context stands on its core. -/
theorem makeResident_strands (here : s.strand sid = some x) (settled : x.resuming = false) (still : x.moving = false) (core : Nat) :
    (∃ y, (s.makeResident sid core).strand sid = some y ∧
      ∃ c l, y = { x with ctl := c, moving := false, resuming := false, place := .resident, core := core, left := l }) ∧
      OthersWoken s (s.makeResident sid core) sid := by
  unfold State.makeResident
  simp only [here, settled, still, Bool.false_eq_true, if_false]
  generalize counted : (s.modCore core _).addResident x.pid = u
  have same (k : Nat) : u.strand k = s.strand k := by rw [← counted]; rfl
  obtain ⟨⟨left, stands⟩, others⟩ := settle_strands (f := underPart (((u.core core).part).getD (s.slot (sidSlot sid)).part))
    ((same sid).trans here) (fun _ => ⟨rfl, rfl⟩) core
  exact ⟨⟨_, stands, _, left, rfl⟩, (othersWoken_of_eq fun k _ => same k).trans others⟩

/-! ## Creation (R129) -/

theorem create_launch (s : State) (x : Strand) : LaunchKept s (s.create x) := by
  unfold State.create
  dsimp only
  split <;> exact launchKept_of_hub rfl

theorem strand_addStrand_other (s : State) (x : Strand) {k : Nat} (hk : k ≠ x.sid.toNat) : (s.addStrand x).strand k = s.strand k := by
  unfold State.strand State.addStrand
  simp only [Assoc.get_set_other _ _ _ _ hk]

theorem create_strands (x : Strand) (free : s.strand x.sid.toNat = none) : (s.create x).strand x.sid.toNat = some x ∧
    OthersWoken s (s.create x) x.sid.toNat := by
  unfold State.create
  dsimp only
  split
  · exact ⟨strand_addStrand (s := { s.zeroTiles x.core with dies := _ }) free, othersWoken_of_eq fun k hk =>
      (strand_addStrand_other { s.zeroTiles x.core with dies := _ } x hk).trans rfl⟩
  · exact ⟨strand_addStrand (s := { s with dies := _ }) free, othersWoken_of_eq fun k hk =>
      (strand_addStrand_other { s with dies := _ } x hk).trans rfl⟩

end

end Sys2Proof.Claims

/-!
The distributor: launches take slots, and their strands start (07 R129, R141 to R144).
-/
namespace Sys2Proof.Claims
open Machine

/-! ## One strand of a launch (R129, R143) -/

/-- Strand `index` of a launch on a core: class, entry and table of the launch, its index and the count in g1 and g2. -/
def Launched (l : Slot) (index core : Nat) (y : Strand) : Prop :=
  y.cls = l.cls ∧ y.core = core ∧ y.pc = l.entry ∧ y.G 1 = BitVec.ofNat 64 index ∧ y.G 2 = BitVec.ofNat 64 l.count ∧ y.ext = l.ext ∧
    (l.cls ≠ .light → y.place = .resident)

theorem Launched.of_woken {l : Slot} {index core : Nat} {x y : Strand} (h : Launched l index core x) (woken : Woken x y) :
    Launched l index core y := by
  obtain ⟨w, rfl⟩ := woken.frame
  exact h

/-- The registers g1 and g2 of a strand that is created. -/
theorem G_newStrand (l : Slot) (sid : Nat) (cls : Cls) (core : Nat) (pc a b : Word) :
    (newStrand l sid cls core pc [a, b]).G 1 = a ∧ (newStrand l sid cls core pc [a, b]).G 2 = b := by
  have read {i : Nat} (hi : i < 2) : (newStrand l sid cls core pc [a, b]).g[i + 1] = [a, b].getD i 0 := by
    unfold newStrand
    dsimp only
    split
    · exact getElem_gFile _ (by omega)
    · rw [Vector.getElem_setIfInBounds, if_neg (by omega)]
      exact getElem_gFile _ (by omega)
  exact ⟨(G_ofNat_succ _ (by omega)).trans (read (i := 0) (by omega)), (G_ofNat_succ _ (by omega)).trans (read (i := 1) (by omega))⟩

theorem toNat_ofNat_mkSid (gen slot kind i : Nat) : (BitVec.ofNat 48 (mkSid gen slot kind i)).toNat = mkSid gen slot kind i := by
  rw [BitVec.toNat_ofNat, Nat.mod_eq_of_lt (mkSid_lt ..)]

theorem mkSid_inj {gen slot kind i j : Nat} (hi : i < 2 ^ 30) (hj : j < 2 ^ 30) (h : mkSid gen slot kind i = mkSid gen slot kind j) :
    i = j := by
  unfold mkSid at h
  omega

theorem startStrand_launch (s : State) (slot index core : Nat) : LaunchKept s (s.startStrand slot index core) := by
  unfold State.startStrand
  dsimp only
  split
  · exact (create_launch ..).trans (arrive_launch ..)
  · exact (create_launch ..).trans (makeResident_launch ..)
  · exact (create_launch ..).trans (makeResident_launch ..)

theorem startStrand_strands {s : State} {slot index core sid : Nat} (hsid : sid = mkSid (s.slot slot).gen.toNat slot 0 index)
    (free : s.strand sid = none) :
    Stands (s.startStrand slot index core) sid (Launched (s.slot slot) index core) ∧ OthersWoken s (s.startStrand slot index core) sid := by
  have number : (newStrand (s.slot slot) sid (s.slot slot).cls core (s.slot slot).entry
      [BitVec.ofNat 64 index, BitVec.ofNat 64 (s.slot slot).count]).sid.toNat = sid := by
    rw [hsid]
    exact toNat_ofNat_mkSid ..
  have created := create_strands (s := s) (newStrand (s.slot slot) sid (s.slot slot).cls core (s.slot slot).entry
    [BitVec.ofNat 64 index, BitVec.ofNat 64 (s.slot slot).count]) (by rw [number]; exact free)
  obtain ⟨g1, g2⟩ := G_newStrand (s.slot slot) sid (s.slot slot).cls core (s.slot slot).entry (BitVec.ofNat 64 index)
    (BitVec.ofNat 64 (s.slot slot).count)
  rw [number] at created
  obtain ⟨stands, others⟩ := created
  unfold State.startStrand
  dsimp only
  rw [← hsid]
  cases cls : (s.slot slot).cls with
  | light =>
    rw [cls] at stands others g1 g2
    obtain ⟨⟨y, there, p, l, w, rfl⟩, rest⟩ := arrive_strands stands core
    exact ⟨⟨_, there, cls.symm, rfl, rfl, g1, g2, rfl, fun heavy => absurd cls heavy⟩, others.trans rest⟩
  | scalar =>
    rw [cls] at stands others g1 g2
    obtain ⟨⟨y, there, c, l, rfl⟩, rest⟩ := makeResident_strands stands rfl rfl core
    exact ⟨⟨_, there, cls.symm, rfl, rfl, g1, g2, rfl, fun _ => rfl⟩, others.trans rest⟩
  | full =>
    rw [cls] at stands others g1 g2
    obtain ⟨⟨y, there, c, l, rfl⟩, rest⟩ := makeResident_strands stands rfl rfl core
    exact ⟨⟨_, there, cls.symm, rfl, rfl, g1, g2, rfl, fun _ => rfl⟩, others.trans rest⟩

/-! ## The strands of one dispatch (R144) -/

/-- Strands from an index on start on the cores of a list. -/
def startAll (slot done : Nat) (l : List (Nat × Nat)) (s : State) : State :=
  l.foldl (fun s (c : Nat × Nat) => s.startStrand slot (done + c.2) c.1) s

theorem startAll_launch (slot done : Nat) (l : List (Nat × Nat)) (s : State) : LaunchKept s (startAll slot done l s) :=
  .foldl l s fun t c _ => startStrand_launch t slot (done + c.2) c.1

theorem none_of_rel {y : Option Strand} (h : Option.Rel Woken none y) : y = none := by cases h; rfl

theorem startAll_strands {slot done : Nat} {l : Slot} (cores : List Nat) (k : Nat) (s : State) (hl : s.slot slot = l)
    (few : done + (k + cores.length) ≤ 2 ^ 30)
    (free : ∀ i, i < cores.length → s.strand (mkSid l.gen.toNat slot 0 (done + (k + i))) = none) :
    (∀ m, (∀ i, i < cores.length → m ≠ mkSid l.gen.toNat slot 0 (done + (k + i))) →
      Option.Rel Woken (s.strand m) ((startAll slot done (cores.zipIdx k) s).strand m)) ∧
    ∀ i core, cores[i]? = some core → Stands (startAll slot done (cores.zipIdx k) s) (mkSid l.gen.toNat slot 0 (done + (k + i)))
      (Launched l (done + (k + i)) core) := by
  induction cores generalizing k s with
  | nil => exact ⟨fun m _ => optionRel_woken_refl _, fun i core h => by cases h⟩
  | cons c cores ih =>
    rw [List.length_cons] at few free
    obtain ⟨stands, others⟩ := startStrand_strands (s := s) (slot := slot) (index := done + k) (core := c)
      (sid := mkSid l.gen.toNat slot 0 (done + k)) (by rw [hl]) (free 0 (by omega))
    rw [hl] at stands
    have apart (i : Nat) (hi : i < cores.length) :
        mkSid l.gen.toNat slot 0 (done + (k + 1 + i)) ≠ mkSid l.gen.toNat slot 0 (done + k) := fun same => by
      have := mkSid_inj (by omega) (by omega) same
      omega
    have next (i : Nat) : k + (i + 1) = k + 1 + i := by omega
    obtain ⟨rest, started⟩ := ih (k + 1) (s.startStrand slot (done + k) c) (((startStrand_launch ..).slot slot).trans hl) (by omega)
      fun i hi => by
        have woken := others _ (apart i hi)
        rw [← next, free (i + 1) (by omega)] at woken
        rw [← next]
        exact none_of_rel woken
    have first : startAll slot done ((c :: cores).zipIdx k) s =
        startAll slot done (cores.zipIdx (k + 1)) (s.startStrand slot (done + k) c) := rfl
    rw [first]
    refine ⟨fun m hm => ?_, fun i core h => ?_⟩
    · refine rel_woken_trans (others m (hm 0 (Nat.succ_pos _))) (rest m fun i hi => ?_)
      rw [← next]
      exact hm (i + 1) (Nat.succ_lt_succ hi)
    · cases i with
      | zero =>
        obtain rfl := Option.some.inj h
        obtain ⟨y, there, launched⟩ := stands
        have woken := rest (mkSid l.gen.toNat slot 0 (done + k)) fun i hi => (apart i hi).symm
        rw [there] at woken
        generalize later : State.strand _ _ = z at woken
        cases woken with
        | some woken => exact ⟨_, later, launched.of_woken woken⟩
      | succ i =>
        rw [next i]
        exact started i core h

/-! ## Dispatch (R141, R142) -/

theorem notePages_launch (s : State) (p : Nat) (l : List Page) : LaunchKept s (s.notePages p l) := by
  obtain ⟨pages, frame⟩ := notePages_frame s p l
  rw [frame]
  exact ⟨rfl, fun _ => rfl⟩

theorem slotted_slot (s : State) (slot age id : Nat) (f : Slot → Slot) (g : Node → Node) :
    (((s.modSlot slot f).modHub fun h => { h with nextAge := age }).modNode id g).slot slot = f (s.slot slot) :=
  slot_modSlot_same s slot f

theorem slotted_node {s : State} {slot age id : Nat} {f : Slot → Slot} {g : Node → Node} {n : Node} (here : s.nodeOf id = some n)
    (keeps : ∀ m, (g m).id = m.id) :
    (((s.modSlot slot f).modHub fun h => { h with nextAge := age }).modNode id g).nodeOf id = some (g n) :=
  nodeOf_modNode (s := (s.modSlot slot f).modHub fun h => { h with nextAge := age }) here g keeps

/-- A launch whose table fits takes its slot (R142). -/
theorem openLaunch_some {s : State} {id : Nat} {n : Node} {pc seed : Word} {count slots arrq : Nat} {cls : Cls} {cshift : BitVec 5}
    {cbound : BitVec 6} {part : BitVec 10} {ops : List (Word × Nat × Nat)} {ext : Vector Extent 16} (here : s.nodeOf id = some n)
    (body : n.body = .launch pc count cls slots arrq cshift cbound part seed ops) (table : s.launchTable n.pid ops = some ext)
    (slot : Nat) : ∃ t, s.openLaunch n slot = t ∧
      (∃ age, t.slot slot =
        { gen := (s.slot slot).gen, used := true, node := n.id, queue := n.queue, pid := n.pid, count := count, cls := cls
          slots := slots, arrq := arrq, cshift := cshift, cbound := cbound, part := part, seed := seed, entry := pc, ext := ext
          age := age }) ∧
      t.nodeOf id = some { n with slot := some slot } := by
  have kept : LaunchKept s (ops.foldl (fun t o => ((s.operandPieces n.pid o).getD []).foldl (fun t r => t.notePages n.pid r.2) t) s) :=
    .foldl _ _ fun t o _ => .foldl _ _ fun t r _ => notePages_launch t n.pid r.2
  have opened : s.openLaunch n slot =
      let u := ops.foldl (fun t o => ((s.operandPieces n.pid o).getD []).foldl (fun t r => t.notePages n.pid r.2) t) s
      ((u.modSlot slot fun l =>
        { gen := l.gen, used := true, node := n.id, queue := n.queue, pid := n.pid, count := count, cls := cls, slots := slots
          arrq := arrq, cshift := cshift, cbound := cbound, part := part, seed := seed, entry := pc, ext := ext
          age := u.hub.nextAge }).modHub fun h => { h with nextAge := u.hub.nextAge + 1 }).modNode n.id fun n =>
            { n with slot := some slot } := by
    rw [State.openLaunch]
    simp only [body, table]
  rw [opened]
  generalize List.foldl _ s ops = u at kept
  obtain rfl := nodeOf_id here
  exact ⟨_, rfl, ⟨_, (slotted_slot ..).trans (by rw [kept.slot])⟩,
    slotted_node (g := fun n => { n with slot := some slot }) ((kept.nodeOf _).trans here) fun _ => rfl⟩

theorem exec_launchDispatch (id : Nat) (s : State) : exec (.launchDispatch id) s = execLaunchDispatch id s := rfl

section
variable {s : State} {id : Nat} {n : Node} {pc seed : Word} {count slots arrq : Nat} {cls : Cls} {cshift : BitVec 5} {cbound : BitVec 6}
  {part : BitVec 10} {ops : List (Word × Nat × Nat)} (here : s.nodeOf id = some n) (up : s.hub.down = false) (ready : n.ready = true)
  (body : n.body = .launch pc count cls slots arrq cshift cbound part seed ops) (runs : n.ended = false) (left : n.done < count)
  (oldest : ∀ m ∈ s.hub.nodes, m.pid = n.pid → m.id < n.id → s.canLaunch m = false)
include up oldest here ready body runs left

omit here in
/-- What the distributor checks before it takes up a launch. -/
theorem launchDispatch_open (slotted : n.slot.isSome = true ∨ s.freeLaunchSlot.isSome = true) (room : (s.launchCores n).isSome = true) :
    (!s.canLaunch n || s.hub.down || s.hub.nodes.any fun m => m.pid == n.pid && decide (m.id < n.id) && s.canLaunch m) = false := by
  have can : s.canLaunch n = true := by
    simp only [State.canLaunch, Node.pooled, ready, runs, body, left, room, Bool.not_false, decide_true, Bool.and_self, Bool.true_and,
      Bool.and_true, Bool.or_eq_true]
    exact slotted
  have older : (s.hub.nodes.any fun m => m.pid == n.pid && decide (m.id < n.id) && s.canLaunch m) = false := by
    refine List.any_eq_false.mpr fun m hm yes => ?_
    simp only [Bool.and_eq_true, beq_iff_eq, decide_eq_true_eq] at yes
    obtain ⟨⟨same, before⟩, can⟩ := yes
    rw [oldest m hm same before] at can
    cases can
  rw [can, up, older]
  rfl

theorem launchDispatch_starts {slot : Nat} {cores : List Nat} (owns : n.slot = some slot) (placed : s.launchCores n = some cores)
    (few : n.done + cores.length ≤ 2 ^ 30)
    (free : ∀ i, i < cores.length → s.strand (mkSid (s.slot slot).gen.toNat slot 0 (n.done + i)) = none) :
    Gives (.launchDispatch id) s fun t => (∃ m, t.nodeOf id = some m ∧ m.done = n.done + cores.length) ∧
      ∀ i core, cores[i]? = some core → Stands t (mkSid (s.slot slot).gen.toNat slot 0 (n.done + i))
        (Launched (s.slot slot) (n.done + i) core) := by
  have ready_ := launchDispatch_open up ready body runs left oldest (.inl (by rw [owns]; rfl)) (by rw [placed]; rfl)
  have run := exec_launchDispatch id s
  rw [execLaunchDispatch] at run
  simp only [here, ready_, owns, placed, Option.bind_some, Bool.false_eq_true, if_false] at run
  obtain ⟨-, started⟩ := startAll_strands (done := n.done) cores 0 s rfl (by omega) (by simpa only [Nat.zero_add] using free)
  have kept := startAll_launch slot n.done (cores.zipIdx 0) s
  refine ⟨_, run, ⟨_, nodeOf_modNode ((kept.nodeOf id).trans here) _ fun _ => rfl, rfl⟩, fun i core h => ?_⟩
  have := started i core h
  rw [Nat.zero_add] at this
  exact this

/-- A launch without a slot takes the lowest free one, or fails with 0x62 where its table does not fit (R142). -/
theorem launchDispatch_opens {slot : Nat} (owns : n.slot = none) (room : (s.launchCores n).isSome = true)
    (free : s.freeLaunchSlot = some slot) : Gives (.launchDispatch id) s fun t =>
      (s.launchTable n.pid ops = none → BytesKept s t ∧ t.strands = s.strands ∧
        ∃ m, t.nodeOf id = some m ∧ m.cause = 0x62 ∧ m.ended = true) ∧
      ∀ ext, s.launchTable n.pid ops = some ext → (t.slot slot).used = true ∧ (t.slot slot).node = n.id ∧
        (t.slot slot).gen = (s.slot slot).gen ∧ (t.slot slot).count = count ∧ (t.slot slot).cls = cls ∧
        (t.slot slot).entry = pc ∧ (t.slot slot).part = part ∧ (t.slot slot).ext = ext ∧
        ∃ m, t.nodeOf id = some m ∧ m.slot = some slot := by
  have ready_ := launchDispatch_open up ready body runs left oldest (.inr (by rw [free]; rfl)) room
  have named := nodeOf_id here
  have run := exec_launchDispatch id s
  rw [execLaunchDispatch] at run
  simp only [here, ready_, owns, free, Bool.false_eq_true, if_false] at run
  cases table : s.launchTable n.pid ops with
  | none =>
    have opened : s.openLaunch n slot = s.modNode n.id fun n => { n with cause := 0x62, ended := true } := by
      simp only [State.openLaunch, body, table]
    have failed := nodeOf_modNode here (fun n => { n with cause := 0x62, ended := true }) fun _ => rfl
    rw [opened, named, failed] at run
    simp only [Option.bind_some, owns] at run
    exact ⟨_, run, fun _ => ⟨fun _ => rfl, rfl, _, failed, rfl, rfl⟩, nofun⟩
  | some ext =>
    obtain ⟨t, opened, ⟨age, slotted⟩, noted⟩ := openLaunch_some here body table slot
    rw [opened, noted] at run
    simp only [Option.bind_some] at run
    have result : ∃ u, exec (.launchDispatch id) s = .next u ∧ u.slot slot = t.slot slot ∧
        ∃ m, u.nodeOf id = some m ∧ m.slot = some slot := by
      cases cores : t.launchCores n with
      | none =>
        rw [cores] at run
        exact ⟨t, run, rfl, _, noted, rfl⟩
      | some l =>
        rw [cores] at run
        have kept := startAll_launch slot n.done (l.zipIdx 0) t
        exact ⟨_, run, kept.slot slot, _, nodeOf_modNode ((kept.nodeOf id).trans noted) _ fun _ => rfl, rfl⟩
    obtain ⟨u, run, same, node⟩ := result
    refine ⟨u, run, nofun, fun ext' h => ?_⟩
    obtain rfl := Option.some.inj h
    rw [same, slotted]
    exact ⟨rfl, rfl, rfl, rfl, rfl, rfl, rfl, rfl, node⟩

end

end Sys2Proof.Claims

/-!
User queues, packets, nodes and launches (07 R131 to R145, 08 R155, R408).
-/
namespace Sys2Proof.Claims
open Machine

/-- Settles O47, event by event: notify, the packets, `node_ready`, the distributor, the completions. -/
theorem launchEvents : Obligations.LaunchEvents := by
  unfold Obligations.LaunchEvents
  exact ⟨fun s p q index => userQueueNotify_gives,
    fun s p q n h => ⟨fun cls ops wait f => ⟨launchPacket_accepts h f, launchPacket_rejects h f⟩, unknownPacket_rejects h,
      fun pa => signalPacket_accepts h, fun l list => barrierAndPacket_accepts h, fun a b => copyPacket_accepts h,
      fun l => seedPacket_accepts h⟩,
    fun s id n here up => ⟨fun _ => nodeReady_waits here, nodeReady_becomes here up, fun ready =>
      ⟨fun slot cores pc count cls slots arrq cshift cbound part seed ops body owns runs left oldest placed _ few free =>
          launchDispatch_starts here up ready body runs left oldest owns placed few free,
        fun pc count cls slots arrq cshift cbound part seed ops slot body owns runs left oldest room free =>
          launchDispatch_opens here up ready body runs left oldest owns room free,
        nodeComplete_ended here up ready, fun va pa op y => nodeComplete_signal here up ready,
        fun l count body runs => ⟨nodeComplete_seedOff here up ready body runs,
          fun die s' slot => nodeComplete_seedLast here up ready body runs⟩,
        fun list body => ⟨barrierAnd_passes here up ready body, barrierAnd_waits here up ready body⟩,
        fun srcVa dstVa a b len => copyPacketComplete_gives here up ready⟩⟩,
    fun s slot n => launchComplete_gives⟩

end Sys2Proof.Claims

/-!
The Creel's events (08 R155 to R171): a publication over a table of strands that is out of order.
-/
namespace Sys2Proof.Claims
open Machine

/-- A strand of partition 0 that waits in `cwait`, its unit one word long and at address 0. -/
def quietWaiter : Strand := { live := true, sid := 3, place := .resident, wait := some .cwait }

/-- A publication is due on an idle domain without traffic. The table of strands lists sid 5 ahead of sid 3, and each once. The
far list of die 0 holds one record, which has to go into the spill ring at 0x1000000, and a watch on that line is listed for
sid 3. -/
def disordered : State where
  strands := [(5, { live := true, sid := 5 }), (3, quietWaiter)]
  dies := [(0, { watches := [⟨0x1000000, 3⟩], creel := [(0, { far := 1 })] })]
  hub := { parts := [(0, { cfg := [(0x08, 1)], dom := { pendingPub := true, snapTraffic := false, prevTraffic := false } })] }
  clk := 16

/-- The pc of a strand in the state that an event leads to. -/
def pcAfter (o : Out) (sid : Nat) : Option Word :=
  match o with
  | .next t => (t.strand sid).map (·.pc)
  | _ => none

theorem pcAfter_next (t : State) (sid : Nat) : pcAfter (.next t) sid = (t.strand sid).map (·.pc) := rfl

theorem exec_creelPublication (p : Nat) (s : State) : exec (.creelPublication p) s = execCreelPublication p s := rfl

/-- The record's write fires the watch, and `Assoc.set` puts sid 3 a second time into the table, ahead of the entry behind
sid 5. `wakeCwait` then meets sid 3 twice and ends its unit twice. -/
theorem pcAfter_publication_disordered : pcAfter (execCreelPublication 0 disordered) 3 = some 8 := by decide +kernel

/-- Refutes O49: one strand alone of `disordered` has the sid of `quietWaiter`, as the clause about cwait asks, but the
publication moves its pc over two words where the clause says its unit has ended once. It takes a table out of ascending order,
for which the clause has no premise. -/
theorem not_creelEvents : ¬ Obligations.CreelEvents := by
  unfold Obligations.CreelEvents
  intro h
  obtain ⟨-, -, -, -, publication, -⟩ := h
  obtain ⟨t, run, -, -, -, -, wakes⟩ := publication disordered 0 (by decide) rfl
  have live : Live disordered 3 quietWaiter := ⟨rfl, rfl, rfl⟩
  have alone : (disordered.all.filter fun y => y.sid == quietWaiter.sid) = [quietWaiter] := by decide +kernel
  obtain ⟨x, y, before, after, ⟨pc, -, -, -⟩, -⟩ := wakes 3 quietWaiter rfl rfl rfl (by decide) live rfl rfl alone
  have same : x = quietWaiter := Option.some.inj (before.symm.trans live.1)
  have twice := pcAfter_publication_disordered
  rw [← exec_creelPublication, run, pcAfter_next, after, Option.map_some, pc, same] at twice
  exact absurd twice (by decide)

end Sys2Proof.Claims

/-!
What the memory side leaves of the hub, with no counter changed (10 R209, R210), and control flits (22 R367, R368).
-/
namespace Sys2Proof.Claims
open Machine

/-! ## The hub beside the memory side, counters included -/

/-- Of the hub, a write at the memory side changes the counts of accesses and the marks for recopy alone (R209, R210). -/
def SideKept (s t : State) : Prop := ∃ cnt migs, t.hub = { s.hub with pageCnt := cnt, migs := migs }

section
variable {s t u : State}

theorem sideKept_of_hub (h : t.hub = s.hub) : SideKept s t := ⟨_, _, h⟩

theorem SideKept.refl (s : State) : SideKept s s := sideKept_of_hub rfl

theorem SideKept.trans (h : SideKept s t) (h' : SideKept t u) : SideKept s u := by
  obtain ⟨_, _, first⟩ := h
  obtain ⟨_, _, second⟩ := h'
  exact ⟨_, _, by rw [second, first]⟩

theorem SideKept.foldl {α : Type} {f : State → α → State} (l : List α) (s : State) (h : ∀ t, ∀ x ∈ l, SideKept t (f t x)) :
    SideKept s (l.foldl f s) :=
  List.foldlRecOn (motive := SideKept s) l f (.refl s) fun t ht x hx => ht.trans (h t x hx)

theorem SideKept.parts (h : SideKept s t) : t.hub.parts = s.hub.parts := by obtain ⟨_, _, e⟩ := h; rw [e]

theorem SideKept.hubKept (h : SideKept s t) : HubKept s t := by
  have parts := h.parts
  obtain ⟨_, _, e⟩ := h
  exact ⟨⟨_, _, _, e⟩, fun p => ⟨(s.part p).counters, by rw [State.part, parts]; rfl⟩⟩

theorem sideKept_marked (s : State) (line : Nat) : SideKept s ((s.markRecopy line).fireWatches line) :=
  ⟨_, _, (fireWatches_frame (s.markRecopy line) line).1⟩

theorem sideKept_performWrite (s : State) (line mask data : Nat) : SideKept s (s.performWrite line mask data) := by
  unfold State.performWrite
  split
  · exact .refl s
  · exact sideKept_marked { s with mem := Memory.writeMask s.mem line data mask 64 } line

theorem sideKept_countAccess (s : State) (die line : Nat) : SideKept s (s.countAccess die line) := by
  unfold State.countAccess
  split
  · split
    · exact .refl s
    · exact ⟨_, _, rfl⟩
  · exact .refl s

theorem sideKept_updateFields (s : State) (base : Nat) (l : List Field) : SideKept s (s.updateFields base l) := by
  unfold State.updateFields
  dsimp only
  generalize List.filter _ _ = lines
  exact .trans (.foldl (f := fun t line => t.countAccess (base / 2 ^ 35 % 16) line) lines
    { s with mem := writeFields s.mem base l } fun t line _ => sideKept_countAccess t _ line)
    (.foldl lines _ fun t line _ => sideKept_marked t line)

/-- A strand that is changed wherever it stands. -/
theorem sideKept_modView (s : State) (sid : Nat) (f : Strand → Strand) : SideKept s (s.modView sid f) := by
  have changed (g : Strand → Strand) := sideKept_of_hub (hub_modStrand s sid g)
  unfold State.modView
  split
  · exact .refl s
  · dsimp only
    split
    · split
      · exact (changed _).trans (sideKept_updateFields ..)
      · exact changed _
    · split
      · exact (changed _).trans (sideKept_updateFields ..)
      · exact changed _
    · exact (changed _).trans (sideKept_updateFields ..)
    · exact changed _

theorem HubKept.copies (h : HubKept s t) : t.hub.copies = s.hub.copies := by obtain ⟨_, _, _, e⟩ := h.hub; rw [e]

theorem HubKept.pod (h : HubKept s t) (ctx : Nat) : t.pod ctx = s.pod ctx := by
  obtain ⟨_, e⟩ := h.part (ctx / 16)
  rw [State.pod, e]
  rfl

/-- A change of a partition beside its configuration. -/
theorem cfg_modPart {f : Part → Part} (h : ∀ q, (f q).cfg = q.cfg) (s : State) (p q off : Nat) :
    (s.modPart p f).cfg q off = s.cfg q off := by
  rw [State.cfg, part_modPart]
  split
  next same => rw [h, same, State.cfg]
  next => rw [State.cfg]

/-! ## Counters -/

/-- Whether a counter has risen is a matter of the counters alone. -/
theorem Counts.congr {s' t' : State} {p n : Nat} {c : Counter} (h : Counts s t p c n)
    (before : (s'.part p).counters = (s.part p).counters) (after : (t'.part p).counters = (t.part p).counters) :
    Counts s' t' p c n := by
  unfold Counts
  rwa [before, after]

end

/-! ## Control flits (R367, R368, R379) -/

section
variable {s : State} {p dst : Nat} {body : Control}

theorem sendControl_routed (route : (Assoc.getD s.hub.routes dst 0).getLsbD 15 = true) : s.sendControl p dst body =
    s.modHub fun h => { h with control := h.control ++ [⟨p, ⟨h.device, h.inc, Assoc.getD h.peers dst 0⟩, dst, body⟩] } :=
  if_pos route

/-- A control flit that leaves, or finds no route, changes the hub alone, and no pod episode. -/
theorem sendControl_keeps (s : State) (p dst : Nat) (body : Control) : (∃ hub, s.sendControl p dst body = { s with hub := hub }) ∧
    ∀ ctx, (s.sendControl p dst body).pod ctx = s.pod ctx := by
  unfold State.sendControl
  split
  · exact ⟨⟨_, rfl⟩, fun _ => rfl⟩
  · exact ⟨⟨_, rfl⟩, (hubKept_count ..).pod⟩

theorem sendAll_keeps (p : Nat) (body : Control) (l : List Nat) (s : State) :
    (∃ hub, l.foldl (fun s d => s.sendControl p d body) s = { s with hub := hub }) ∧
      ∀ ctx, (l.foldl (fun s d => s.sendControl p d body) s).pod ctx = s.pod ctx := by
  induction l generalizing s with
  | nil => exact ⟨⟨_, rfl⟩, fun _ => rfl⟩
  | cons d l ih =>
    obtain ⟨⟨hub, first⟩, pod⟩ := sendControl_keeps s p d body
    obtain ⟨⟨hub', rest⟩, pods⟩ := ih (s.sendControl p d body)
    exact ⟨⟨hub', by rw [List.foldl_cons, rest, first]⟩, fun ctx => (pods ctx).trans (pod ctx)⟩

/-- Flits to several devices leave in order, if each has a route. -/
theorem control_sendAll (p : Nat) (body : Control) (l : List Nat) (s : State)
    (routes : ∀ d ∈ l, (Assoc.getD s.hub.routes d 0).getLsbD 15 = true) :
    (l.foldl (fun s d => s.sendControl p d body) s).hub.control =
      s.hub.control ++ l.map fun d => ⟨p, ⟨s.hub.device, s.hub.inc, Assoc.getD s.hub.peers d 0⟩, d, body⟩ := by
  induction l generalizing s with
  | nil => exact (List.append_nil _).symm
  | cons d l ih =>
    have sent := sendControl_routed (p := p) (body := body) (routes d List.mem_cons_self)
    rw [List.foldl_cons, ih (s.sendControl p d body) (by rw [sent]; exact fun d' h => routes d' (List.mem_cons_of_mem _ h)), sent]
    exact List.append_assoc ..

end

/-- A stale flit is dropped and counted (R380). -/
theorem takeControl_stale {s : State} {p : Nat} {h : FlitHead} (stale : s.staleHead h = true) (act : State → State) :
    s.takeControl p h act = s.count p .reflStale 1 := if_pos stale

theorem takeControl_current {s : State} {p : Nat} {h : FlitHead} (current : s.staleHead h = false) (act : State → State) :
    s.takeControl p h act = act s := if_neg (by rw [current]; nofun)

end Sys2Proof.Claims

/-!
What arrives in a receive window (12 R254, 22 R372, R376, R377).
-/
namespace Sys2Proof.Claims
open Machine

/-! ## Bytes of a copy (R5) -/

/-- Byte i of the number of a list of bytes. -/
theorem bytesNat_byte (l : List Byte) {i : Nat} (hi : i < l.length) : BitVec.ofNat 8 (bytesNat l / 2 ^ (8 * i)) = l.getD i 0 := by
  induction l generalizing i with
  | nil => exact absurd hi (Nat.not_lt_zero i)
  | cons b l ih =>
    have small := b.isLt
    rw [bytesNat]
    cases i with
    | zero =>
      apply BitVec.eq_of_toNat_eq
      rw [Nat.mul_zero, Nat.pow_zero, Nat.div_one, BitVec.toNat_ofNat, List.getD_cons_zero]
      omega
    | succ i =>
      rw [List.getD_cons_succ, ← ih (Nat.lt_of_succ_lt_succ hi), show 8 * (i + 1) = 8 + 8 * i by omega, Nat.pow_add,
        ← Nat.div_div_eq_div_mul, show (b.toNat + 256 * bytesNat l) / 2 ^ 8 = bytesNat l by omega]

theorem length_natBytes (x n : Nat) : (natBytes x n).length = n := by
  induction n generalizing x with
  | zero => rfl
  | succ n ih => rw [natBytes, List.length_cons, ih]

/-- Byte i of the low n bytes of a number. -/
theorem natBytes_byte (x : Nat) {n i : Nat} (hi : i < n) : (natBytes x n).getD i 0 = BitVec.ofNat 8 (x / 2 ^ (8 * i)) := by
  induction n generalizing x i with
  | zero => omega
  | succ n ih =>
    rw [natBytes]
    cases i with
    | zero => rw [List.getD_cons_zero, Nat.mul_zero, Nat.pow_zero, Nat.div_one]
    | succ i => rw [List.getD_cons_succ, ih _ (by omega), Nat.div_div_eq_div_mul, Nat.mul_succ, Nat.add_comm, Nat.pow_add]

/-- The bytes below 2^64 do not see a wrap at 2^64. -/
theorem ofNat_mod_div (x : Nat) {i : Nat} (hi : i < 8) : BitVec.ofNat 8 (x % 2 ^ 64 / 2 ^ (8 * i)) = BitVec.ofNat 8 (x / 2 ^ (8 * i)) := by
  apply BitVec.eq_of_getLsbD_eq
  intro j hj
  rw [BitVec.getLsbD_ofNat, BitVec.getLsbD_ofNat, Nat.testBit_div_two_pow, Nat.testBit_div_two_pow, Nat.testBit_mod_two_pow,
    decide_eq_true (show j + 8 * i < 64 by omega), Bool.true_and]

/-! ## The write at the memory side (R376) -/

/-- No address below the strands' own memories lies in that of a strand that has ended. -/
theorem freed_belowPriv (s : State) {a : Nat} (low : a < 2 ^ 66) : s.freed a = false := by
  have space : spaceOf a ≠ .priv := by
    unfold spaceOf
    split_ifs <;> simp
    omega
  unfold State.freed
  split
  next priv => exact absurd priv space
  next => rfl

/-- Each line's part of a stretch is written. -/
theorem read_writeLines (d n : Nat) (v : Nat → Byte) (lines : List Nat) (s : State) (whole : ∀ line ∈ lines, line % 64 = 0)
    (live : ∀ line ∈ lines, s.freed line = false) (c : Nat) :
    Memory.read (lines.foldl (fun s line => s.performWrite line (lineOf line (stretch d n v)).1 (lineOf line (stretch d n v)).2) s).mem c =
      if Memory.line c ∈ lines ∧ d ≤ c ∧ c < d + n then v (c - d) else Memory.read s.mem c := by
  induction lines generalizing s with
  | nil => exact (if_neg (by simp)).symm
  | cons line lines ih =>
    rw [List.foldl_cons, ih _ (fun l hl => whole l (List.mem_cons_of_mem _ hl))
      (fun l hl => ((performed_performWrite ..).freed l).trans (live l (List.mem_cons_of_mem _ hl))),
      read_writeStretch (whole line List.mem_cons_self) (live line List.mem_cons_self)]
    simp only [List.mem_cons]
    by_cases inside : d ≤ c ∧ c < d + n
    · by_cases here : Memory.line c = line
      · simp only [here, inside, and_self, true_or, if_true, ite_self]
      · simp only [here, inside, and_self, false_or, and_true, if_false]
    · simp only [inside, and_false, if_false]

theorem zip_eq_stretch (d : Nat) (l : List Byte) :
    ((List.range l.length).map (d + ·)).zip l = stretch d l.length fun j => l.getD j 0 := by
  apply List.ext_getElem
  · simp [stretch]
  · intro i h _
    have hi : i < l.length := by simpa using h
    simp [stretch, hi]

theorem rxWrite_eq (s : State) (base : Nat) (l : List Byte) : s.rxWrite base l =
    (linesOf ((stretch base l.length fun j => l.getD j 0).map (·.1))).foldl (fun s line => s.performWrite line
      (lineOf line (stretch base l.length fun j => l.getD j 0)).1 (lineOf line (stretch base l.length fun j => l.getD j 0)).2) s := by
  rw [← zip_eq_stretch]
  rfl

/-- The bytes are written, and no other byte. -/
theorem read_rxWrite (s : State) {base : Nat} {l : List Byte} (low : base + l.length ≤ 2 ^ 66) (c : Nat) :
    Memory.read (s.rxWrite base l).mem c = if base ≤ c ∧ c < base + l.length then l.getD (c - base) 0 else Memory.read s.mem c := by
  have mem_lines (line : Nat) : line ∈ linesOf ((stretch base l.length fun j => l.getD j 0).map (·.1)) ↔
      ∃ a, (base ≤ a ∧ a < base + l.length) ∧ Memory.line a = line := by
    rw [mem_linesOf]
    refine exists_congr fun a => and_congr_left fun _ => ?_
    simp only [stretch, List.map_map, List.mem_map, List.mem_range, Function.comp]
    exact ⟨fun ⟨j, hj, e⟩ => by omega, fun h => ⟨a - base, by omega, by omega⟩⟩
  have below (a : Nat) : Memory.line a ≤ a := Nat.div_mul_le_self a 64
  rw [rxWrite_eq, read_writeLines]
  · refine if_congr ⟨And.right, fun inside => ⟨(mem_lines _).mpr ⟨c, inside, rfl⟩, inside⟩⟩ rfl rfl
  · intro line hl
    obtain ⟨a, -, rfl⟩ := (mem_lines line).mp hl
    exact Nat.mul_mod_left _ _
  · intro line hl
    obtain ⟨a, ⟨-, high⟩, rfl⟩ := (mem_lines line).mp hl
    exact freed_belowPriv s ((below a).trans_lt (by omega))

theorem sideKept_rxWrite (s : State) (base : Nat) (l : List Byte) : SideKept s (s.rxWrite base l) := by
  rw [rxWrite_eq]
  exact .foldl _ s fun t line _ => sideKept_performWrite ..

/-! ## What a window does with what arrives (R377, R394) -/

/-- Of the hub, what it keeps for partitions has changed, the counts of accesses and the marks for recopy. -/
def PartsAlone (s t : State) : Prop :=
  ∃ parts cnt migs, t.hub = { s.hub with parts := parts, pageCnt := cnt, migs := migs }

section
variable {s t u : State} {p rx off n dev : Nat} {pod : Bool} {act : State → State}

theorem partsAlone_modPart (s : State) (p : Nat) (f : Part → Part) : PartsAlone s (s.modPart p f) := ⟨_, _, _, rfl⟩

theorem PartsAlone.trans (h : PartsAlone s t) (h' : PartsAlone t u) : PartsAlone s u := by
  obtain ⟨_, _, _, first⟩ := h
  obtain ⟨_, _, _, second⟩ := h'
  exact ⟨_, _, _, by rw [second, first]⟩

theorem PartsAlone.copies (h : PartsAlone s t) : t.hub.copies = s.hub.copies := by obtain ⟨_, _, _, e⟩ := h; rw [e]

/-- What is noted of a Creel window's record slots changes no byte and no counter (R170). -/
theorem noteCreel_keeps (s : State) (p rx off n dev : Nat) : PartsAlone s (s.noteCreel p rx off n dev) ∧
    (s.noteCreel p rx off n dev).mem = s.mem ∧ ((s.noteCreel p rx off n dev).part p).counters = (s.part p).counters := by
  unfold State.noteCreel
  split
  · exact ⟨⟨_, _, _, rfl⟩, rfl, rfl⟩
  · refine List.foldlRecOn (motive := fun t : State => PartsAlone s t ∧ t.mem = s.mem ∧ (t.part p).counters = (s.part p).counters)
      _ _ ⟨⟨_, _, _, rfl⟩, rfl, rfl⟩ fun t ht i _ => ?_
    obtain ⟨hub, mem, counters⟩ := ht
    exact ⟨hub.trans (partsAlone_modPart ..), mem, by rw [part_modPart, if_pos rfl]; exact counters⟩

/-- What R372, R376, R377 and R394 ask is what the model checks. -/
theorem receives_iff (s : State) (p rx off n : Nat) (pod : Bool) :
    Receives s p rx off n pod ↔ s.enabled p = true ∧ s.rxTakes p rx off n pod = true := by
  have reserved : (!pod || (s.rxControl p rx).getLsbD 62) = true ↔ (pod = true → (s.cfg p (0x9000 + 32 * rx)).getLsbD 62 = true) := by
    cases pod <;> simp [State.rxControl]
  rw [State.rxTakes, Bool.and_eq_true, reserved]
  simp only [Bool.and_eq_true, decide_eq_true_eq]
  exact ⟨fun ⟨part, window, enabled, open_, fits, pods⟩ => ⟨enabled, ⟨⟨⟨part, window⟩, open_⟩, fits⟩, pods⟩,
    fun ⟨enabled, ⟨⟨⟨part, window⟩, open_⟩, fits⟩, pods⟩ => ⟨part, window, enabled, open_, fits, pods⟩⟩

theorem takeAt_receives (h : Receives s p rx off n pod) : s.takeAt p rx off n pod act = act s := by
  obtain ⟨enabled, takes⟩ := (receives_iff ..).mp h
  rw [State.takeAt, enabled, takes]
  rfl

/-- What the window does not take is dropped and counted. -/
theorem takeAt_drops (h : ¬ Receives s p rx off n pod) : BytesKept s (s.takeAt p rx off n pod act) ∧
    Counts s (s.takeAt p rx off n pod act) p .reflDrop 1 := by
  unfold State.takeAt
  cases enabled : s.enabled p with
  | false =>
    refine ⟨fun _ => rfl, ?_⟩
    have drop := counts_count (s.deny p) p .reflDrop 1
    have before : Assoc.getD ((s.deny p).part p).counters Counter.reflDrop.index 0 =
        Assoc.getD (s.part p).counters Counter.reflDrop.index 0 := by
      rw [State.deny, State.count, part_modPart, if_pos rfl, bump,
        Assoc.getD_modify_other _ _ _ _ _ (by decide : Counter.reflDrop.index ≠ Counter.cfgDeny.index)]
    unfold Counts at drop ⊢
    rwa [before] at drop
  | true =>
    have refuses : s.rxTakes p rx off n pod = false := by
      rw [receives_iff, enabled] at h
      simpa using h
    rw [refuses]
    exact ⟨fun _ => rfl, counts_count s p .reflDrop 1⟩

theorem takeAt_partsAlone (taken : PartsAlone s (act s)) : PartsAlone s (s.takeAt p rx off n pod act) := by
  unfold State.takeAt
  split
  · exact ⟨_, _, _, rfl⟩
  · split
    · exact taken
    · exact ⟨_, _, _, rfl⟩

/-- A window that receives lies below the strands' own memories. -/
theorem Receives.low (h : Receives s p rx off n pod) : s.rxBase p rx + off + n ≤ 2 ^ 66 := by
  obtain ⟨-, -, -, -, fits, -⟩ := h
  have base : s.rxBase p rx < 2 ^ 56 := Nat.mod_lt _ (by decide)
  have length := (s.cfg p (0x9008 + 32 * rx)).isLt
  omega

/-- The state in which bytes have been written and noted. -/
theorem written_keeps (s : State) (p rx off dev a : Nat) (l : List Byte) :
    PartsAlone s ((s.rxWrite a l).noteCreel p rx off l.length dev) ∧
    ((s.rxWrite a l).noteCreel p rx off l.length dev).mem = (s.rxWrite a l).mem ∧
    (((s.rxWrite a l).noteCreel p rx off l.length dev).part p).counters = (s.part p).counters := by
  have side := sideKept_rxWrite s a l
  obtain ⟨hub, mem, counters⟩ := noteCreel_keeps (s.rxWrite a l) p rx off l.length dev
  exact ⟨.trans side.hubKept.hub hub, mem, counters.trans (by rw [State.part, side.parts]; rfl)⟩

/-- The number whose bytes they are stands there. -/
theorem wrote_noted {a x : Nat} {l : List Byte} (low : a + l.length ≤ 2 ^ 66)
    (bytes : ∀ i, i < l.length → l.getD i 0 = BitVec.ofNat 8 (x / 2 ^ (8 * i))) :
    Wrote s ((s.rxWrite a l).noteCreel p rx off l.length dev) a l.length x := fun b => by
  rw [(written_keeps ..).2.1, read_rxWrite s low]
  exact ite_congr rfl (fun inside => bytes _ (by omega)) fun _ => rfl

/-- A copy that arrives (R376, R377). -/
theorem received_takeCopy (s : State) (p dev rx off : Nat) (l : List Byte) (pod : Bool) :
    Received s (s.takeCopy p dev rx off l pod) false p rx off l pod where
  copied _ h := by
    obtain ⟨-, -, counters⟩ := written_keeps s p rx off dev (s.rxBase p rx + off) l
    rw [State.takeCopy, takeAt_receives h]
    exact ⟨(counts_count _ p .reflIn 1).congr counters.symm rfl, wrote_noted h.low fun i hi => (bytesNat_byte l hi).symm⟩
  raised := nofun
  dropped := takeAt_drops

/-- A flag that arrives (R254, R377). -/
theorem received_takeFlag (s : State) (p dev rx off : Nat) (l : List Byte) (pod : Bool) :
    Received s (s.takeFlag p dev rx off pod) true p rx off l pod where
  copied := nofun
  raised _ h := by
    have length (x : Nat) := length_natBytes (x % 2 ^ 64) 8
    have wrote (x : Nat) := wrote_noted (s := s) (p := p) (rx := rx) (off := off) (dev := dev) (x := x) (l := natBytes (x % 2 ^ 64) 8)
      (by rw [length]; exact h.low) fun i hi => by
        rw [length] at hi
        rw [natBytes_byte _ hi, ofNat_mod_div x hi]
    simp only [length] at wrote
    rw [State.takeFlag, takeAt_receives h]
    exact wrote _
  dropped := takeAt_drops

theorem takeCopy_partsAlone (s : State) (p dev rx off : Nat) (l : List Byte) (pod : Bool) :
    PartsAlone s (s.takeCopy p dev rx off l pod) :=
  takeAt_partsAlone ((written_keeps ..).1.trans (partsAlone_modPart ..))

theorem takeFlag_partsAlone (s : State) (p dev rx off : Nat) (pod : Bool) : PartsAlone s (s.takeFlag p dev rx off pod) :=
  takeAt_partsAlone (.trans (sideKept_rxWrite ..).hubKept.hub (noteCreel_keeps ..).1)

end

end Sys2Proof.Claims

/-!
Arrivals and acknowledgments, the route table, incarnations, replays (22 R367 to R369, R375 to R377, R379, R380).
-/
namespace Sys2Proof.Claims
open Machine

section
variable {s t : State} {i p : Nat} {c : Copy} {f : Flit} {flag : Bool}

/-! ## Arrivals (R375, R376, R380) -/

theorem exec_linkReplay (p port : Nat) (s : State) : exec (.linkReplay p port) s = execLinkReplay p port s := rfl
theorem exec_reflectionAck (a : AckFlit) (s : State) : exec (.reflectionAck a) s = execReflectionAck a s := rfl
theorem exec_routeTableWrite (dev : Nat) (entry : BitVec 16) (s : State) :
    exec (.routeTableWrite dev entry) s = execRouteTableWrite dev entry s := rfl
theorem exec_incarnationAnnounce (peer : Nat) (inc : BitVec 16) (s : State) :
    exec (.incarnationAnnounce peer inc) s = execIncarnationAnnounce peer inc s := rfl

/-- Copies and flags arrive alike. -/
theorem exec_arrival (flag : Bool) (a : Arrival) (s : State) :
    exec (if flag then .flagIncrement a else .reflectedCopyArrival a) s = arrival flag a s := by
  cases flag <;> rfl

theorem linkReplay_gives {port : Nat} (part : p < 20) (known : port < 24) : Gives (.linkReplay p port) s fun t =>
    BytesKept s t ∧ Counts s t p .linkReplay 1 :=
  ⟨s.count p .linkReplay 1, by rw [exec_linkReplay, execLinkReplay, if_pos ⟨known, part⟩], fun _ => rfl, counts_count ..⟩

/-- What a receive window does with the bytes of a copy, or with a flag. -/
def takenIn (flag : Bool) (s : State) (p dev rx off : Nat) (bytes : List Byte) (pod : Bool) : State :=
  if flag then s.takeFlag p dev rx off pod else s.takeCopy p dev rx off bytes pod

theorem received_takenIn (flag : Bool) (s : State) (p dev rx off : Nat) (l : List Byte) (pod : Bool) :
    Received s (takenIn flag s p dev rx off l pod) flag p rx off l pod := by
  cases flag
  · exact received_takeCopy ..
  · exact received_takeFlag ..

theorem takenIn_partsAlone (flag : Bool) (s : State) (p dev rx off : Nat) (l : List Byte) (pod : Bool) :
    PartsAlone s (takenIn flag s p dev rx off l pod) := by
  cases flag
  · exact takeCopy_partsAlone ..
  · exact takeFlag_partsAlone ..

theorem peer_stale (up : s.hub.down = false) (stale : s.stale f = true) :
    Gives (if flag then .flagIncrement (.peer f) else .reflectedCopyArrival (.peer f)) s fun t =>
      BytesKept s t ∧ Counts s t f.pid .reflStale 1 := by
  refine ⟨s.count f.pid .reflStale 1, ?_, fun _ => rfl, counts_count ..⟩
  rw [exec_arrival, arrival]
  simp only [up, stale, Bool.false_eq_true, if_false, if_true]

/-- A flit that is current is answered by an acknowledgment, also where its window drops it (R369). -/
theorem peer_arrives (up : s.hub.down = false) (current : s.stale f = false)
    (route : (Assoc.getD s.hub.routes f.src 0).getLsbD 15 = true) :
    Gives (if flag then .flagIncrement (.peer f) else .reflectedCopyArrival (.peer f)) s fun t =>
      Received s t flag f.pid f.rx f.off f.bytes f.pod ∧ t.hub.control = s.hub.control ++
        [⟨f.pid, ⟨s.hub.device, s.hub.inc, Assoc.getD s.hub.peers f.src 0⟩, f.src, .ack f.rx f.off⟩] := by
  have run : exec (if flag then .flagIncrement (.peer f) else .reflectedCopyArrival (.peer f)) s =
      .next ((takenIn flag s f.pid f.src f.rx f.off f.bytes f.pod).sendControl f.pid f.src (.ack f.rx f.off)) := by
    rw [exec_arrival, arrival]
    simp only [up, current, Bool.false_eq_true, if_false]
    rfl
  obtain ⟨copied, raised, dropped⟩ := received_takenIn flag s f.pid f.src f.rx f.off f.bytes f.pod
  obtain ⟨_, _, _, hub⟩ := takenIn_partsAlone flag s f.pid f.src f.rx f.off f.bytes f.pod
  rw [sendControl_routed (by rw [hub]; exact route)] at run
  exact ⟨_, run, ⟨copied, raised, dropped⟩, by rw [State.modHub_hub, hub]⟩

theorem CopyAt.pathFirst (h : CopyAt s i c) : s.pathFirst i c = true := by
  obtain ⟨-, first⟩ := h
  refine List.all_eq_true.mpr fun d hd => ?_
  obtain ⟨j, at_⟩ := List.getElem?_of_mem hd
  obtain ⟨short, -⟩ := List.getElem?_eq_some_iff.mp at_
  rw [List.length_take, Nat.lt_min] at short
  rw [List.getElem?_take_of_lt short.1] at at_
  simpa only [Bool.or_eq_true, bne_iff_ne, Bool.not_eq_true', or_assoc] using first j d short.1 at_

/-- A copy of this device's to itself. -/
theorem own_arrives (up : s.hub.down = false) (at_ : CopyAt s i c) (here : c.dev = s.hub.device) (kind : c.flag = flag)
    (hidden : c.shown = false) : Gives (if flag then .flagIncrement (.own i) else .reflectedCopyArrival (.own i)) s fun t =>
      Received s t flag c.pid c.rx c.off c.bytes c.win.isNone ∧ t.hub.copies[i]? = some { c with shown := true } := by
  have run : exec (if flag then .flagIncrement (.own i) else .reflectedCopyArrival (.own i)) s =
      .next (takenIn flag (s.showCopy i) c.pid c.dev c.rx c.off c.bytes c.win.isNone) := by
    rw [exec_arrival, arrival]
    simp only [at_.1, at_.pathFirst, here, kind, hidden, up, ne_eq, not_true_eq_false, decide_false, bne_self_eq_false, Bool.not_true,
      Bool.or_self, Bool.false_eq_true, if_false]
    rfl
  obtain ⟨copied, raised, dropped⟩ := received_takenIn flag (s.showCopy i) c.pid c.dev c.rx c.off c.bytes c.win.isNone
  refine ⟨_, run, ⟨copied, raised, dropped⟩, ?_⟩
  rw [(takenIn_partsAlone flag (s.showCopy i) ..).copies]
  exact (List.getElem?_modify_eq ..).trans (congrArg _ at_.1)

/-! ## Acknowledgments (R369, R380) -/

theorem reflectionAck_stale {h : FlitHead} (stale : s.staleHead h = true) : Gives (.reflectionAck ⟨p, h, i⟩) s fun t =>
    BytesKept s t ∧ t.hub.copies = s.hub.copies ∧ Counts s t p .reflStale 1 :=
  ⟨s.count p .reflStale 1, by rw [exec_reflectionAck, execReflectionAck, takeControl_stale stale], fun _ => rfl, rfl, counts_count ..⟩

theorem reflectionAck_gives {h : FlitHead} (at_ : CopyAt s i c) (current : s.staleHead h = false) (src : h.src = c.dev)
    (visible : c.dev ≠ s.hub.device ∨ c.shown = true) :
    Gives (.reflectionAck ⟨p, h, i⟩) s fun t => BytesKept s t ∧ t.hub.copies = s.hub.copies.eraseIdx i := by
  have shown : ¬ (c.dev = s.hub.device ∧ (!c.shown) = true) := by
    rintro ⟨own, hidden⟩
    rcases visible with other | shown
    · exact other own
    · rw [shown] at hidden
      exact absurd hidden (by decide)
  refine ⟨s.modHub fun h => { h with copies := h.copies.eraseIdx i }, ?_, fun _ => rfl, rfl⟩
  rw [exec_reflectionAck, execReflectionAck, takeControl_current current]
  simp only [at_.1, at_.pathFirst, src, shown, decide_false, bne_self_eq_false, Bool.not_true, Bool.or_self, Bool.false_eq_true, if_false]

/-! ## The route table (R368) -/

theorem routeTableWrite_gives {dev : Nat} {entry : BitVec 16} (known : dev < 4096) : Gives (.routeTableWrite dev entry) s fun t =>
    BytesKept s t ∧ ∀ d, Assoc.getD t.hub.routes d 0 = if d = dev then entry &&& 0x831F else Assoc.getD s.hub.routes d 0 := by
  refine ⟨s.modHub fun h => { h with routes := Assoc.set h.routes dev (entry &&& 0x831F#16) }, ?_, fun _ => rfl, fun d => ?_⟩
  · rw [exec_routeTableWrite, execRouteTableWrite, if_neg (Nat.not_le.mpr known)]
  · rw [State.modHub_hub]
    split
    next same =>
      rw [same, Assoc.getD_set_same]
      rfl
    next other => exact Assoc.getD_set_other _ _ _ _ _ other

end

/-! ## Incarnations (R380) -/

section
variable {s t u : State} {p peer : Nat}

/-- A destination of a transmit window is the device. -/
def NamesDevice (s : State) (p w peer : Nat) : Prop := ∃ j, j < s.txDests p w ∧ (s.txDest p w j).1 = peer

/-- The destinations of a window stand behind its first dword. -/
theorem NamesDevice.congr {w : Nat} (h : NamesDevice s p w peer) (same : ∀ off, 0x1008 + 128 * w ≤ off → t.cfg p off = s.cfg p off) :
    NamesDevice t p w peer := by
  have dword (i : Nat) (hi : 1 ≤ i) : t.txDword p w i = s.txDword p w i := same _ (by omega)
  obtain ⟨j, bound, named⟩ := h
  refine ⟨j, ?_, ?_⟩
  · rw [State.txDests, dword 1 le_rfl]
    exact bound
  · rw [State.txDest, dword (2 + j / 2) (by omega)]
    exact named

/-- Window w of a partition goes down if it names the device. -/
def downIfNamed (p dev : Nat) (s : State) (w : Nat) : State :=
  if (List.range (s.txDests p w)).any fun j => (s.txDest p w j).1 == dev then
    s.setCfg p (0x1000 + 128 * w) (s.txDword p w 0 ||| (1#64 <<< 60))
  else s

theorem downIfNamed_keeps (s : State) (p dev w : Nat) : PartsAlone s (downIfNamed p dev s w) ∧ (downIfNamed p dev s w).mem = s.mem ∧
    (downIfNamed p dev s w).clk = s.clk := by
  unfold downIfNamed
  split
  · exact ⟨⟨_, _, _, rfl⟩, rfl, rfl⟩
  · exact ⟨⟨_, _, _, rfl⟩, rfl, rfl⟩

/-- Another dword, and every dword of another partition, is as it was. -/
theorem cfg_downIfNamed {dev w q off : Nat} (other : q ≠ p ∨ off ≠ 0x1000 + 128 * w) : (downIfNamed p dev s w).cfg q off = s.cfg q off := by
  unfold downIfNamed
  split
  · rw [cfg_setCfg, if_neg (by tauto)]
  · rfl

theorem txDown_downIfNamed {w : Nat} (named : NamesDevice s p w peer) : (downIfNamed p peer s w).txDown p w = true := by
  obtain ⟨j, bound, dest⟩ := named
  have any : ((List.range (s.txDests p w)).any fun j => (s.txDest p w j).1 == peer) = true :=
    List.any_eq_true.mpr ⟨j, List.mem_range.mpr bound, beq_iff_eq.mpr dest⟩
  rw [downIfNamed, if_pos any, State.txDown, State.txDword, cfg_setCfg, if_pos ⟨rfl, rfl⟩, BitVec.getLsbD_or, Bool.or_eq_true]
  exact .inr (by decide)

/-- The first n windows of a partition that name a device are down, and nothing else of the configuration has changed. -/
structure WindowsDown (s t : State) (p peer n : Nat) : Prop where
  hub    : PartsAlone s t
  mem    : t.mem = s.mem
  clk    : t.clk = s.clk
  others : ∀ q off, q ≠ p ∨ 0x1000 + 128 * n ≤ off → t.cfg q off = s.cfg q off
  down   : ∀ w, w < n → NamesDevice s p w peer → t.txDown p w = true

theorem windowsDown (s : State) (p peer n : Nat) :
    WindowsDown s ((List.range n).foldl (downIfNamed p peer) s) p peer n := by
  induction n with
  | zero => exact ⟨⟨_, _, _, rfl⟩, rfl, rfl, fun _ _ _ => rfl, nofun⟩
  | succ n ih =>
    rw [List.range_succ, List.foldl_append, List.foldl_cons, List.foldl_nil]
    generalize (List.range n).foldl (downIfNamed p peer) s = t at ih ⊢
    obtain ⟨hub, mem, clk⟩ := downIfNamed_keeps t p peer n
    refine ⟨ih.hub.trans hub, mem.trans ih.mem, clk.trans ih.clk, fun q off other => ?_, fun w below named => ?_⟩
    · rw [cfg_downIfNamed (by omega), ih.others q off (by omega)]
    · rcases Nat.lt_succ_iff_lt_or_eq.mp below with before | rfl
      · rw [State.txDown, State.txDword, cfg_downIfNamed (by omega)]
        exact ih.down w before named
      · exact txDown_downIfNamed (named.congr fun off behind => ih.others p off (by omega))

theorem txDownFor_eq (s : State) (p dev : Nat) : s.txDownFor p dev = (List.range 256).foldl (downIfNamed p dev) s := by
  rw [State.txDownFor]
  rfl

/-- Record slots of a partition that a peer has filled in part are forgotten. -/
def forgetSlots (peer p : Nat) (s : State) : State :=
  s.modPart p fun q => { q with creelBytes := q.creelBytes.filter fun e => e.2.2 != peer || e.2.1 == BitVec.allOnes 64 }

theorem forgetSlots_keeps (s : State) (peer p : Nat) : PartsAlone s (forgetSlots peer p s) ∧ (forgetSlots peer p s).mem = s.mem ∧
    (forgetSlots peer p s).clk = s.clk ∧ ∀ q off, (forgetSlots peer p s).cfg q off = s.cfg q off := by
  refine ⟨partsAlone_modPart .., rfl, rfl, fun q off => ?_⟩
  rw [forgetSlots, cfg_modPart]
  exact fun _ => rfl

/-- What a new incarnation of a peer makes void in one partition. -/
def voidPart (peer : Nat) (s : State) (p : Nat) : State := forgetSlots peer p (s.txDownFor p peer)

/-- The windows of the first n partitions that name the peer are down. -/
structure PartsVoid (s t : State) (peer n : Nat) : Prop where
  hub    : PartsAlone s t
  mem    : t.mem = s.mem
  clk    : t.clk = s.clk
  others : ∀ q off, n ≤ q → t.cfg q off = s.cfg q off
  down   : ∀ p w, p < n → w < 256 → NamesDevice s p w peer → t.txDown p w = true

theorem partsVoid (s : State) (peer n : Nat) : PartsVoid s ((List.range n).foldl (voidPart peer) s) peer n := by
  induction n with
  | zero => exact ⟨⟨_, _, _, rfl⟩, rfl, rfl, fun _ _ _ => rfl, nofun⟩
  | succ n ih =>
    rw [List.range_succ, List.foldl_append, List.foldl_cons, List.foldl_nil]
    generalize (List.range n).foldl (voidPart peer) s = t at ih ⊢
    have down := windowsDown t n peer 256
    rw [← txDownFor_eq] at down
    obtain ⟨hub, mem, clk, cfg⟩ := forgetSlots_keeps (t.txDownFor n peer) peer n
    rw [voidPart]
    refine ⟨(ih.hub.trans down.hub).trans hub, mem.trans (down.mem.trans ih.mem), clk.trans (down.clk.trans ih.clk),
      fun q off above => ?_, fun p w below window named => ?_⟩
    · rw [cfg, down.others q off (by omega), ih.others q off (by omega)]
    · rcases Nat.lt_succ_iff_lt_or_eq.mp below with before | rfl
      · rw [State.txDown, State.txDword, cfg, down.others p _ (by omega)]
        exact ih.down p w before window named
      · rw [State.txDown, State.txDword, cfg]
        exact down.down w window (named.congr fun off _ => ih.others p off le_rfl)

theorem getLast?_bboxPush {n : Nat} (room : 0 < n) (l : List (BitVec 128)) (r : BitVec 128) : (bboxPush n l r).getLast? = some r := by
  rw [bboxPush, List.getLast?_drop, if_neg (by rw [List.length_append, List.length_singleton]; omega), List.getLast?_concat]

/-- The copies to a peer are counted as stale. -/
def countGone (s : State) (peer : Nat) : State :=
  (s.hub.copies.filter (·.dev == peer)).foldl (fun s c => s.count c.pid .reflStale 1) s

theorem countGone_keeps (s : State) (peer : Nat) :
    HubKept s (countGone s peer) ∧ (countGone s peer).mem = s.mem ∧ (countGone s peer).clk = s.clk :=
  List.foldlRecOn (motive := fun t : State => HubKept s t ∧ t.mem = s.mem ∧ t.clk = s.clk) _ _ ⟨.refl s, rfl, rfl⟩
    fun _ ht _ _ => ⟨ht.1.trans (hubKept_count ..), ht.2⟩

/-- The peer has an incarnation, and the copies to it are gone. -/
def renewPeer (s : State) (peer : Nat) (inc : BitVec 16) : State :=
  s.modHub fun h => { h with peers := Assoc.set h.peers peer inc, copies := h.copies.filter (·.dev != peer) }

theorem incarnationAnnounce_run {inc : BitVec 16} (known : peer < 4096) (other : peer ≠ s.hub.device)
    (new : Assoc.get s.hub.peers peer ≠ some inc) : exec (.incarnationAnnounce peer inc) s =
      .next (((List.range 20).foldl (voidPart peer) (renewPeer (countGone s peer) peer inc)).hubLog 6 inc.toNat 0) := by
  have news : ¬ (4096 ≤ peer ∨ peer = s.hub.device ∨ Assoc.get s.hub.peers peer = some inc) := by
    rintro (high | own | old)
    · omega
    · exact other own
    · exact new old
  rw [exec_incarnationAnnounce, execIncarnationAnnounce, if_neg news]
  rfl

theorem cfg_hubLog (s : State) (kind data sid p off : Nat) : (s.hubLog kind data sid).cfg p off = s.cfg p off := by
  rw [State.cfg, State.part, State.hubLog, State.modHub_hub]
  rfl

theorem incarnationAnnounce_gives {inc : BitVec 16} (known : peer < 4096) (other : peer ≠ s.hub.device)
    (new : Assoc.get s.hub.peers peer ≠ some inc) : Gives (.incarnationAnnounce peer inc) s fun t => BytesKept s t ∧
      Assoc.get t.hub.peers peer = some inc ∧ t.hub.copies = s.hub.copies.filter (·.dev != peer) ∧
      t.hub.bbox.getLast? = some (bboxRecord 6 inc.toNat 0 s.clk) ∧
      ∀ p w j, p < 20 → w < 256 → j < s.txDests p w → (s.txDest p w j).1 = peer → t.txDown p w = true := by
  refine ⟨_, incarnationAnnounce_run known other new, ?_⟩
  obtain ⟨kept, mem, clk⟩ := countGone_keeps s peer
  generalize countGone s peer = t at kept mem clk
  have void := partsVoid (renewPeer t peer inc) peer 20
  generalize (List.range 20).foldl (voidPart peer) (renewPeer t peer inc) = u at void ⊢
  obtain ⟨_, _, _, hub⟩ := void.hub
  refine ⟨fun b => ?_, ?_, ?_, ?_, fun p w j part window bound dest => ?_⟩
  · rw [State.hubLog_mem, void.mem, renewPeer, State.modHub_mem, mem]
  · rw [State.hubLog, State.modHub_hub, hub]
    exact Assoc.get_set_same ..
  · rw [State.hubLog, State.modHub_hub, hub]
    exact congrArg _ kept.copies
  · rw [State.hubLog, State.modHub_hub, getLast?_bboxPush (n := 16384) (by omega), void.clk, show (renewPeer t peer inc).clk = s.clk from clk]
  · have named : NamesDevice (renewPeer t peer inc) p w peer :=
      .congr ⟨j, bound, dest⟩ fun off _ => kept.cfg p off
    rw [State.txDown, State.txDword, cfg_hubLog]
    exact void.down p w part window named

end

end Sys2Proof.Claims

/-!
Pod barriers between devices (09 R188, R191, 22 R381, R382).
-/
namespace Sys2Proof.Claims
open Machine

/-! ## Pod episodes -/

section
variable {s t : State} {ctx sid n : Nat} {x : Strand} {v : Word}

theorem pod_modPod (s : State) (ctx : Nat) (f : PodEpisode → PodEpisode) : (s.modPod ctx f).pod ctx = f (s.pod ctx) := by
  rw [State.pod, State.modPod, part_modPart, if_pos rfl]
  exact Assoc.getD_modify_same ..

theorem cfg_modPod (s : State) (ctx : Nat) (f : PodEpisode → PodEpisode) (p off : Nat) : (s.modPod ctx f).cfg p off = s.cfg p off := by
  rw [State.modPod, cfg_modPart]
  exact fun _ => rfl

/-- The children of a device are a matter of the configuration. -/
theorem podKids_congr {p : Nat} (c : Nat) (h : ∀ off, t.cfg p off = s.cfg p off) : t.podKids p c = s.podKids p c := by
  have dword (w i : Nat) : t.txDword p w i = s.txDword p w i := h _
  unfold State.podKids State.podGroup
  rw [h]
  simp only [State.txDests, State.txDest, dword]

/-! ## Release of one participant (R191) -/

theorem pass_keeps (x : Strand) (k : Machine.Counted) (v : Word) : (x.pass k v).live = x.live ∧ (x.pass k v).sid = x.sid ∧
    (x.pass k v).counted = none ∧ (x.pass k v).wait = none := by
  obtain ⟨_, _, _, d, _⟩ := k
  cases d <;> simp [Strand.pass, Strand.finish]

/-- What a bar that completes leaves of its strand: a bmax has written its register. -/
theorem pass_goesOn (x : Strand) (k : Machine.Counted) (v : Word) : GoesOn x (x.pass k v) ∧ (x.pass k v).counted = none ∧
    (k.d = none → RegsKept x (x.pass k v)) ∧ ∀ d, k.d = some d → GetsG x (x.pass k v) d v := by
  obtain ⟨-, -, counted, -⟩ := pass_keeps x k v
  cases reg : k.d with
  | none =>
    have passed : x.pass k v = { x.finish with counted := none } := by rw [Strand.pass, reg]
    obtain ⟨pc, hints, wait, id⟩ := goesOn_finish inUnit_id x
    refine ⟨?_, counted, fun _ => ?_, nofun⟩
    · rw [passed]
      exact ⟨pc, hints, wait, id⟩
    · rw [passed]
      exact regsKept_finish x
  | some d =>
    have passed : x.pass k v = { (x.setG d v).finish with counted := none } := by rw [Strand.pass, reg]
    obtain ⟨pc, hints, wait, id⟩ := goesOn_finish (inUnit_setG d v) x
    refine ⟨?_, counted, nofun, fun d' same => ?_⟩
    · rw [passed]
      exact ⟨pc, hints, wait, id⟩
    · rw [passed, ← Option.some.inj same]
      exact getsG_setG x d v

/-- A change of one strand, wherever it stands, leaves another that waits for no watch. -/
theorem modView_other {f : Strand → Strand} {z : Strand} (here : s.strand n = some z) (live : (f (s.view z)).live = z.live)
    (id : (f (s.view z)).sid = z.sid) (other : sid ≠ n) (there : s.strand sid = some x)
    (unwatched : ∀ l ea d w, x.wait ≠ some (.waitA l ea d w)) : (s.modView n f).strand sid = some x := by
  have left := (strand_putStrand_other (y := f (s.view z)) here live id other).trans there
  obtain ⟨y, stands, woken⟩ := (modView_keeps (f := f) here).1.stands left
  rw [stands, woken.eq_of_wait unwatched]

/-- The release of another participant, or of one that has been released, leaves a strand. -/
theorem releaseOne_leaves (there : s.strand sid = some x) (unwatched : ∀ l ea d w, x.wait ≠ some (.waitA l ea d w))
    (apart : sid ≠ n ∨ x.counted = none) : (s.releaseOne .pod ctx v n).strand sid = some x := by
  unfold State.releaseOne
  cases here : s.strand n with
  | none => exact there
  | some z =>
    cases count : z.counted with
    | none => simpa only [count] using there
    | some k =>
      have other : sid ≠ n := by
        rintro rfl
        rw [Option.some.inj (there.symm.trans here), count] at apart
        simp at apart
      simp only [count]
      split
      · obtain ⟨live, id, -, -⟩ := pass_keeps (s.view z) k v
        obtain ⟨live', id', -, -⟩ := view_keeps s z
        split
        · exact modView_other here (live.trans live') (id.trans id') other there unwatched
        · exact (State.strand_modStrand_other other rfl rfl).trans there
      · exact there

/-- A participant that waits at its bar passes it. -/
theorem releaseOne_passes {k : Machine.Counted} (there : s.strand sid = some x) (place : x.place = .resident) (count : x.counted = some k)
    (scope : k.scope = .pod) (here : k.ctx = ctx) (fresh : k.result = none) (waits : ∃ c n d, x.wait = some (.barrier c n d)) :
    (s.releaseOne .pod ctx v sid).strand sid = some (x.pass k v) := by
  obtain ⟨c, n, d, wait⟩ := waits
  have named : k.scope = .pod ∧ k.ctx = ctx ∧ k.result = none := ⟨scope, here, fresh⟩
  obtain ⟨live, id, -, -⟩ := pass_keeps x k v
  unfold State.releaseOne
  simp only [there, count, wait]
  rw [if_pos named, modView_onCore there (.inl place)]
  exact State.strand_modStrand_same (f := fun _ => x.pass k v) there live id

theorem sideKept_releaseOne (s : State) (ctx n : Nat) (v : Word) : SideKept s (s.releaseOne .pod ctx v n) := by
  unfold State.releaseOne
  split
  · exact .refl s
  · split
    · exact .refl s
    · split
      · split
        · exact sideKept_modView ..
        · exact sideKept_of_hub (hub_modStrand ..)
      · exact .refl s

/-! ## Release of an episode (R188, R382) -/

/-- Participants are released one by one. -/
def releaseAll (ctx : Nat) (v : Word) (l : List Nat) (s : State) : State := l.foldl (fun s n => s.releaseOne .pod ctx v n) s

theorem releaseAll_leaves (l : List Nat) (there : s.strand sid = some x) (unwatched : ∀ l ea d w, x.wait ≠ some (.waitA l ea d w))
    (counted : x.counted = none) : (releaseAll ctx v l s).strand sid = some x :=
  List.foldlRecOn (motive := fun t : State => t.strand sid = some x) l _ there
    fun _ ht _ _ => releaseOne_leaves ht unwatched (.inr counted)

theorem releaseAll_passes {k : Machine.Counted} (l : List Nat) (mem : sid ∈ l) (there : s.strand sid = some x) (place : x.place = .resident)
    (count : x.counted = some k) (scope : k.scope = .pod) (here : k.ctx = ctx) (fresh : k.result = none)
    (waits : ∃ c n d, x.wait = some (.barrier c n d)) : (releaseAll ctx v l s).strand sid = some (x.pass k v) := by
  induction l generalizing s with
  | nil => nomatch mem
  | cons n l ih =>
    rw [releaseAll, List.foldl_cons]
    by_cases same : sid = n
    · rw [← same]
      obtain ⟨-, -, counted, wait⟩ := pass_keeps x k v
      exact releaseAll_leaves l (releaseOne_passes there place count scope here fresh waits) (by rw [wait]; nofun) counted
    · have unwatched (l : Nat) (ea : Word) (d : BitVec 5) (w : Bool) : x.wait ≠ some (.waitA l ea d w) := by
        obtain ⟨_, _, _, wait⟩ := waits
        rw [wait]
        nofun
      exact ih ((List.mem_cons.mp mem).resolve_left same) (releaseOne_leaves there unwatched (.inl same))

theorem sideKept_releaseAll (ctx : Nat) (v : Word) (l : List Nat) (s : State) : SideKept s (releaseAll ctx v l s) :=
  .foldl l s fun t n _ => sideKept_releaseOne t ctx n v

/-- The state in which the participants have been released and the context is free. -/
def podFreed (s : State) (ctx : Nat) (v : Word) : State :=
  (releaseAll ctx v (s.pod ctx).ep.sids (s.modPod ctx fun p => { p with ep := {} })).modPod ctx fun q => { last := q.last }

theorem releasePod_eq (s : State) (ctx : Nat) (v : BitVec 32) : s.releasePod ctx v =
    ((podFreed s ctx (v.setWidth 64)).podKids (ctx / 16) (ctx % 16)).foldl
      (fun s d => s.sendControl (ctx / 16) d (.release (ctx % 16) v)) (podFreed s ctx (v.setWidth 64)) := rfl

theorem pod_releasePod (s : State) (ctx : Nat) (v : BitVec 32) : (s.releasePod ctx v).pod ctx = { last := (s.pod ctx).last } := by
  rw [releasePod_eq, (sendAll_keeps ..).2, podFreed, pod_modPod, (sideKept_releaseAll ..).hubKept.pod, pod_modPod]

theorem released_releasePod (s : State) (ctx : Nat) (v : BitVec 32) : Released s (s.releasePod ctx v) ctx v := by
  intro sid x k mem live place count scope here fresh waits
  obtain ⟨there, -, -⟩ := live
  have passed : (podFreed s ctx (v.setWidth 64)).strand sid = some (x.pass k (v.setWidth 64)) :=
    releaseAll_passes (s := s.modPod ctx fun p => { p with ep := {} }) _ mem there place count scope here fresh waits
  obtain ⟨⟨hub, sent⟩, -⟩ := sendAll_keeps (ctx / 16) (.release (ctx % 16) v)
    ((podFreed s ctx (v.setWidth 64)).podKids (ctx / 16) (ctx % 16)) (podFreed s ctx (v.setWidth 64))
  refine ⟨x, x.pass k (v.setWidth 64), there, ?_, pass_goesOn x k _⟩
  rw [releasePod_eq, sent]
  exact passed

/-- The hub in which the participants have been released: nothing but partitions and counts has changed. -/
theorem podFreed_keeps (s : State) (ctx : Nat) (v : Word) : PartsAlone s (podFreed s ctx v) ∧
    ∀ p off, (podFreed s ctx v).cfg p off = s.cfg p off := by
  have released := (sideKept_releaseAll ctx v (s.pod ctx).ep.sids (s.modPod ctx fun p => { p with ep := {} })).hubKept
  refine ⟨((partsAlone_modPart ..).trans released.hub).trans (partsAlone_modPart ..), fun p off => ?_⟩
  rw [podFreed, cfg_modPod, released.cfg, cfg_modPod]

/-- The release goes down the tree, if every child has a route (R382). -/
theorem control_releasePod {v : BitVec 32}
    (routes : ∀ d ∈ s.podKids (ctx / 16) (ctx % 16), (Assoc.getD s.hub.routes d 0).getLsbD 15 = true) :
    (s.releasePod ctx v).hub.control = s.hub.control ++ (s.podKids (ctx / 16) (ctx % 16)).map fun d =>
      ⟨ctx / 16, ⟨s.hub.device, s.hub.inc, Assoc.getD s.hub.peers d 0⟩, d, .release (ctx % 16) v⟩ := by
  obtain ⟨⟨_, _, _, hub⟩, cfg⟩ := podFreed_keeps s ctx (v.setWidth 64)
  rw [releasePod_eq, podKids_congr (ctx % 16) (cfg (ctx / 16)), control_sendAll _ _ _ _ (by rw [hub]; exact routes), hub]

/-! ## Reports (R382) -/

theorem exec_podBarrierReport (ctx : Nat) (child : Option (FlitHead × PodReport)) (s : State) :
    exec (.podBarrierReport ctx child) s = execPodBarrierReport ctx child s := rfl
theorem exec_podBarrierRelease (ctx : Nat) (flit : ReleaseFlit) (s : State) :
    exec (.podBarrierRelease ctx flit) s = execPodBarrierRelease ctx flit s := rfl

/-- A stale flit leaves the context as it is. -/
theorem count_leavesPod (s : State) (p ctx : Nat) (c : Counter) : BytesKept s (s.count p c 1) ∧ (s.count p c 1).pod ctx = s.pod ctx ∧
    Counts s (s.count p c 1) p c 1 :=
  ⟨fun _ => rfl, (hubKept_count ..).pod ctx, counts_count ..⟩

theorem report_stale {h : FlitHead} {r : PodReport} (stale : s.staleHead h = true) :
    Gives (.podBarrierReport ctx (some (h, r))) s fun t =>
      BytesKept s t ∧ t.pod ctx = s.pod ctx ∧ Counts s t (ctx / 16) .reflStale 1 := by
  refine ⟨_, ?_, count_leavesPod s (ctx / 16) ctx .reflStale⟩
  rw [exec_podBarrierReport, execPodBarrierReport]
  exact congrArg Host.Outcome.next (takeControl_stale stale _)

theorem release_stale {h : FlitHead} {v : BitVec 32} (stale : s.staleHead h = true) :
    Gives (.podBarrierRelease ctx ⟨h, v⟩) s fun t =>
      BytesKept s t ∧ t.pod ctx = s.pod ctx ∧ Counts s t (ctx / 16) .reflStale 1 := by
  refine ⟨_, ?_, count_leavesPod s (ctx / 16) ctx .reflStale⟩
  rw [exec_podBarrierRelease, execPodBarrierRelease, takeControl_stale stale]

theorem toNat_maxMag (a b : BitVec 32) : (maxMag a b).toNat = max a.toNat b.toNat := by
  unfold maxMag
  split <;> omega

/-- An episode with a child's report counted. -/
def withReport (q : PodEpisode) (r : PodReport) : PodEpisode :=
  { q with counted := q.counted + r.arrivals, ep := { q.ep with n := r.n, isMax := r.isMax, mag := maxMag q.ep.mag r.mag } }

section
variable {h : FlitHead} {r : PodReport} (open_ : s.podEn (ctx / 16) (ctx % 16) = true) (current : s.staleHead h = false)
  (child : h.src ∈ s.podKids (ctx / 16) (ctx % 16))
include open_ current child

theorem report_taken : exec (.podBarrierReport ctx (some (h, r))) s = .next (s.takeReport ctx r) := by
  rw [exec_podBarrierReport, execPodBarrierReport]
  simp only [takeControl_current current, open_, List.contains_iff_mem.mpr child, Bool.and_self, if_true]

/-- A report that differs in N or kind is counted at the root. -/
theorem report_differs (root : s.podRoot (ctx / 16) (ctx % 16) = true) (running : (s.pod ctx).ep.n ≠ 0)
    (differs : (s.pod ctx).ep.n ≠ r.n ∨ (s.pod ctx).ep.isMax ≠ r.isMax) : Gives (.podBarrierReport ctx (some (h, r))) s fun t =>
      BytesKept s t ∧ t.pod ctx = s.pod ctx ∧ Counts s t (ctx / 16) .podBad 1 := by
  refine ⟨_, report_taken open_ current child, ?_⟩
  rw [State.takeReport, if_pos ⟨running, differs⟩, if_pos root]
  exact count_leavesPod ..

variable (agrees : (s.pod ctx).ep.n = 0 ∨ ((s.pod ctx).ep.n = r.n ∧ (s.pod ctx).ep.isMax = r.isMax))
include agrees

theorem report_agrees : exec (.podBarrierReport ctx (some (h, r))) s =
    .next (if s.podRoot (ctx / 16) (ctx % 16) = true ∧ (s.pod ctx).counted + r.arrivals = r.n then
      (s.modPod ctx (withReport · r)).releasePod ctx (maxMag (s.pod ctx).ep.mag r.mag) else s.modPod ctx (withReport · r)) := by
  have same : ¬ ((s.pod ctx).ep.n ≠ 0 ∧ ((s.pod ctx).ep.n ≠ r.n ∨ (s.pod ctx).ep.isMax ≠ r.isMax)) := by tauto
  have root : (s.modPod ctx (withReport · r)).podRoot (ctx / 16) (ctx % 16) = s.podRoot (ctx / 16) (ctx % 16) :=
    congrArg (BitVec.getLsbD · 62) (cfg_modPod ..)
  have counted : s.takeReport ctx r = if (s.modPod ctx (withReport · r)).podRoot (ctx / 16) (ctx % 16) &&
      ((s.modPod ctx (withReport · r)).pod ctx).counted == r.n then
        (s.modPod ctx (withReport · r)).releasePod ctx ((s.modPod ctx (withReport · r)).pod ctx).ep.mag
      else s.modPod ctx (withReport · r) := if_neg same
  rw [report_taken open_ current child, counted, root, pod_modPod]
  exact congrArg Host.Outcome.next (if_congr (by rw [Bool.and_eq_true, beq_iff_eq]; rfl) rfl rfl)

/-- Below the root, or with arrivals still missing, the report is counted. -/
theorem report_counts (more : s.podRoot (ctx / 16) (ctx % 16) = false ∨ (s.pod ctx).counted + r.arrivals ≠ r.n) :
    Gives (.podBarrierReport ctx (some (h, r))) s fun t => BytesKept s t ∧ (t.pod ctx).counted = (s.pod ctx).counted + r.arrivals ∧
      (t.pod ctx).ep.n = r.n ∧ (t.pod ctx).ep.isMax = r.isMax ∧
      (t.pod ctx).ep.mag.toNat = max (s.pod ctx).ep.mag.toNat r.mag.toNat ∧ (t.pod ctx).ep.sids = (s.pod ctx).ep.sids := by
  have waits : ¬ (s.podRoot (ctx / 16) (ctx % 16) = true ∧ (s.pod ctx).counted + r.arrivals = r.n) := by
    rintro ⟨root, all⟩
    rcases more with inner | missing
    · rw [inner] at root
      exact absurd root (by decide)
    · exact missing all
  refine ⟨s.modPod ctx (withReport · r), (report_agrees open_ current child agrees).trans (by rw [if_neg waits]), fun _ => rfl, ?_⟩
  rw [pod_modPod]
  exact ⟨rfl, rfl, rfl, toNat_maxMag .., rfl⟩

/-- At the root the last arrival releases the episode. -/
theorem report_releases (root : s.podRoot (ctx / 16) (ctx % 16) = true) (all : (s.pod ctx).counted + r.arrivals = r.n) :
    Gives (.podBarrierReport ctx (some (h, r))) s fun t => t.pod ctx = { last := (s.pod ctx).last } ∧
      ∀ v : BitVec 32, v.toNat = max (s.pod ctx).ep.mag.toNat r.mag.toNat → Released s t ctx v := by
  refine ⟨_, (report_agrees open_ current child agrees).trans (by rw [if_pos ⟨root, all⟩]), ?_, fun v largest => ?_⟩
  · rw [pod_releasePod, pod_modPod]
    rfl
  · obtain rfl : v = maxMag (s.pod ctx).ep.mag r.mag := BitVec.eq_of_toNat_eq (by rw [largest, toNat_maxMag])
    intro sid x k mem
    exact released_releasePod (s.modPod ctx (withReport · r)) ctx _ sid x k (by rw [pod_modPod]; exact mem)

end

/-- The arrivals counted so far are marked as reported. -/
def markReported (s : State) (ctx : Nat) : State :=
  s.modPod ctx fun q => { q with sent := q.counted, last := some s.clk.toNat }

/-- A device below the root reports what has come in since its last report, at most once every 64 cycles. -/
theorem report_sent (open_ : s.podEn (ctx / 16) (ctx % 16) = true) (inner : s.podRoot (ctx / 16) (ctx % 16) = false)
    (grown : (s.pod ctx).counted ≠ (s.pod ctx).sent) (due : ∀ k, (s.pod ctx).last = some k → k + 64 ≤ s.clk.toNat) :
    exec (.podBarrierReport ctx none) s = .next ((markReported s ctx).sendControl (ctx / 16) (s.podParent (ctx / 16) (ctx % 16))
      (.report (ctx % 16) (s.pod ctx).report)) := by
  rw [exec_podBarrierReport, execPodBarrierReport]
  cases last : (s.pod ctx).last with
  | none =>
    simp only [open_, inner, beq_eq_false_iff_ne.mpr grown, Bool.not_true, Bool.or_self, Bool.false_eq_true, if_false]
    rfl
  | some k =>
    simp only [open_, inner, beq_eq_false_iff_ne.mpr grown, decide_eq_true (due k last), Bool.not_true, Bool.or_self, Bool.false_eq_true,
      if_false]
    rfl

theorem report_own (open_ : s.podEn (ctx / 16) (ctx % 16) = true) (inner : s.podRoot (ctx / 16) (ctx % 16) = false)
    (grown : (s.pod ctx).counted ≠ (s.pod ctx).sent) (due : ∀ k, (s.pod ctx).last = some k → k + 64 ≤ s.clk.toNat) :
    Gives (.podBarrierReport ctx none) s fun t => BytesKept s t ∧
      t.pod ctx = { s.pod ctx with sent := (s.pod ctx).counted, last := some s.clk.toNat } ∧
      ((Assoc.getD s.hub.routes (s.podParent (ctx / 16) (ctx % 16)) 0).getLsbD 15 = true → t.hub.control = s.hub.control ++
        [⟨ctx / 16, ⟨s.hub.device, s.hub.inc, Assoc.getD s.hub.peers (s.podParent (ctx / 16) (ctx % 16)) 0⟩,
          s.podParent (ctx / 16) (ctx % 16), .report (ctx % 16) ⟨(s.pod ctx).counted - (s.pod ctx).sent, (s.pod ctx).ep.n,
            (s.pod ctx).ep.isMax, (s.pod ctx).ep.mag⟩⟩]) := by
  obtain ⟨⟨hub, frame⟩, pod⟩ := sendControl_keeps (markReported s ctx) (ctx / 16) (s.podParent (ctx / 16) (ctx % 16))
    (.report (ctx % 16) (s.pod ctx).report)
  refine ⟨_, report_sent open_ inner grown due, fun b => ?_, (pod ctx).trans (pod_modPod ..), fun route => ?_⟩
  · rw [frame]
    rfl
  · rw [sendControl_routed (s := markReported s ctx) route]
    rfl

/-- The release of an episode reaches a member from its parent. -/
theorem release_passes {h : FlitHead} {v : BitVec 32} (open_ : s.podEn (ctx / 16) (ctx % 16) = true)
    (inner : s.podRoot (ctx / 16) (ctx % 16) = false) (current : s.staleHead h = false)
    (parent : h.src = s.podParent (ctx / 16) (ctx % 16)) (running : (s.pod ctx).ep.n ≠ 0) :
    Gives (.podBarrierRelease ctx ⟨h, v⟩) s fun t => (t.pod ctx).ep.n = 0 ∧ (t.pod ctx).ep.sids = [] ∧ Released s t ctx v ∧
      ((∀ d ∈ s.podKids (ctx / 16) (ctx % 16), (Assoc.getD s.hub.routes d 0).getLsbD 15 = true) →
        t.hub.control = s.hub.control ++ (s.podKids (ctx / 16) (ctx % 16)).map fun d =>
          ⟨ctx / 16, ⟨s.hub.device, s.hub.inc, Assoc.getD s.hub.peers d 0⟩, d, .release (ctx % 16) v⟩) := by
  have run : exec (.podBarrierRelease ctx ⟨h, v⟩) s = .next (s.releasePod ctx v) := by
    rw [exec_podBarrierRelease, execPodBarrierRelease, takeControl_current current]
    simp only [open_, inner, parent, beq_eq_false_iff_ne.mpr running, bne_self_eq_false, Bool.not_true, Bool.or_self,
      Bool.false_eq_true, if_false]
  refine ⟨_, run, ?_, ?_, released_releasePod s ctx v, control_releasePod⟩
  · rw [pod_releasePod]
  · rw [pod_releasePod]

end

end Sys2Proof.Claims

/-!
The events of the fabric (08 R170, 12 R254, 22 R367 to R382).
-/
namespace Sys2Proof.Claims
open Machine

/-- Settles O51, event by event: replays, arrivals, acknowledgments, routes, incarnations, pod barriers. -/
theorem fabricEvents : Obligations.FabricEvents := by
  unfold Obligations.FabricEvents
  refine ⟨fun s p port part known => linkReplay_gives part known,
    fun s flag up => ⟨fun f => peer_stale up, fun f => peer_arrives up, fun i c => own_arrives up⟩,
    fun s p h i => reflectionAck_stale, fun s p i c h => reflectionAck_gives, fun s dev entry => routeTableWrite_gives,
    fun s peer inc => incarnationAnnounce_gives, ?_, ?_⟩
  · rintro s ctx p h r v rfl stale
    exact ⟨report_stale stale, release_stale stale⟩
  · rintro s ctx p c rfl rfl open_
    refine ⟨fun h r current child agrees => ⟨report_counts open_ current child agrees, report_releases open_ current child agrees⟩,
      fun h r current child running differs root => report_differs open_ current child root running differs,
      fun inner => ⟨report_own open_ inner, fun h v current parent running => release_passes open_ inner current parent running⟩⟩

end Sys2Proof.Claims
